-- ==== Sys2Proof/Word.lean ====
section
/-! DEFINITION. The word types of the Z4: bytes, 32-bit lane registers, 64-bit uniform registers (R17, R24). -/

namespace Sys2Proof

/-- One byte of memory. -/
abbrev Byte := BitVec 8

/-- One 32-bit lane register (R17). -/
abbrev Word := BitVec 32

/-- One 64-bit uniform register, or a lane register pair (R18, R24). -/
abbrev UWord := BitVec 64

/-- Sparse data by key: a list of key and value pairs in rising key order. -/
abbrev AMap (α : Type) := List (Nat × α)

/-- The value listed under a key. -/
def AMap.find {α : Type} : AMap α → Nat → Option α
  | [], _ => none
  | (k, v) :: r, i => if i = k then some v else AMap.find r i

/-- The value at a key; an unlisted key reads as the default `d`. -/
def AMap.get {α : Type} (d : α) (m : AMap α) (i : Nat) : α :=
  (AMap.find m i).getD d

/-- Lists `v` under `i`, in key order, in place of what was listed there. -/
def AMap.set {α : Type} : AMap α → Nat → α → AMap α
  | [], i, v => [(i, v)]
  | (k, w) :: r, i, v =>
    if i < k then (i, v) :: (k, w) :: r
    else if i = k then (i, v) :: r
    else (k, w) :: AMap.set r i v

/-- Unlists a key. -/
def AMap.erase {α : Type} (m : AMap α) (i : Nat) : AMap α := m.filter fun p => p.1 != i

end Sys2Proof
end

