-- ==== Sys2Proof/Config.lean ====
section
/-! DEFINITION. What one Z4 fixes and the manual does not: values that the spec leaves open, each an opaque constant,
so that no proof can see one (UNVERIFIED and PRESUMED, log entries 4 and 9). -/

namespace Sys2Proof.Config

/-- The fold of a completed scan chunk into SCANSIG: of the physical core, the chunk, the old signature and a draw
number (R445: "not architected"). UNVERIFIED value, free. -/
opaque scanFold : Nat → Nat → UWord → Nat → UWord

/-- How many cycles more than one a core counts from one turn of the machine to the next: of the core and the turn. Cycle counts of
different cores are unrelated (R5; DESIGN CHOICE, log entry 2). Core 384 stands for Rypepin (R503). Free. -/
opaque cycleSkip : Nat → Nat → Nat

/-- What an element of a tile holds when its set has migrated to a new engine, until it is restored (R473 says only that the tile
is Held): of a draw number and the element. Free. -/
opaque lostElem : Nat → Nat → Word

/-- What REGVAL and FE read where REGSEL names no register (R433 gives BAD only), by draw number. Free. -/
opaque badRegister : Nat → UWord × Bool

/-- The digests Rypepin measures at power-on, by index (R426). Free. -/
opaque measurement : Nat → BitVec 384

/-- How measurement 5 is extended by a new digest (R426, R499). Free. -/
opaque extend : BitVec 384 → BitVec 384 → BitVec 384

/-- The signature of an SPDM reply, by draw number (R427): the device identity key never leaves Rypepin. Free. -/
opaque spdmSignature : Nat → BitVec 768

/-- DETAIL of the failure record (R493: "not architected"). Free. -/
opaque failDetail : Nat → BitVec 320

/-- Digests of the certificate chain of slot 0 and its bytes (R427). Free. -/
opaque certDigest : BitVec 384
opaque certChain : List Byte

/-- The digest of a loaded table value that extends measurement 5 (R426): of its kind and its fields. Free. -/
opaque tableDigest : List Nat → BitVec 384

/-- The HBM stack of a line (R500 names stacks, and no rule places a line in one). Free. -/
opaque stackOf : Nat → Nat

/-- L2 holds a line when a stack's recalibration begins (R500): of a draw number and the line. Free. -/
opaque inL2 : Nat → Nat → Bool

/-- A byte of an unused sector (R225: not defined), as a checkpoint copies it (R485): of a draw number and its address. Free. -/
opaque unusedByte : Nat → Nat → Byte

end Sys2Proof.Config
end

