-- ==== Sys2Proof/Syntax.lean ====
section
/-! DEFINITION. The Z4's steps as syntax: one constructor of `Instr` for each row of spec/opcode_table.json. A lane
word and a uniform word keep their raw fields (R36, R40, R50); the other rows are the device's own steps and the
events that reach it from outside, whose data stand in the constructor's arguments. -/

namespace Sys2Proof

/-- The extension word of a lane instruction (R41): SRC (R43), IMM (R46), MEM (R47) or CVT (R49). -/
inductive LExt where
  | none
  | src (c am ap bm bp cm : Nat) (ta tb tc : Bool)
  | imm (v : Nat)
  | mem (space scope order aop hint disp : Nat)
  | cvt (sfmt dfmt rnd : Nat) (sat : Bool) (subst bsz c opx : Nat)
deriving DecidableEq, Repr

/-- A lane word's fields (R36) and its extension. `d`, `a`, `b` are bits [23:18], [17:12], [11:6]; a control word
(R40) reads its offset and frame from the same three fields. -/
structure LaneOp where
  d : Nat
  a : Nat
  b : Nat
  g : Nat
  gn : Bool
  s : Bool
  x : LExt
deriving DecidableEq, Repr

/-- A uniform word's bits [24:20], [19:15], [14:10] and [9:0] (R50, format U-R); the other formats read their fields
from the same bits. -/
structure UOp where
  d : Nat
  a : Nat
  b : Nat
  f : Nat
deriving DecidableEq, Repr

/-- The host and firmware registers that REGISTER_WRITE reaches (R7): those with no row of their own. -/
inductive MmioReg where
  | qbase (ctx q : Nat) | qctl (ctx q : Nat)
  | counterLo (i : Nat) | counterMid (i : Nat) | counterCaddr (i : Nat) | counterCval (i : Nat)
  | ckptbase | ckptctl | timeout | prAlloc
  | csr (core num : Nat)
  | supImage | warmReset
deriving DecidableEq, Repr

/-- What power-on finds (R490, R491, R493, R495): the outcome of each stage's checks. -/
structure PowerReport where
  /-- what the boot ROM finds of the images of slots A and B (R425): 0 when it passes, else the code of R493 -/
  imageA : Nat
  imageB : Nat
  /-- what stage 2 finds of the sequencer microcode: 0, or the code of the check that it fails (R425, R493) -/
  microcode : Nat
  /-- failing link, slice, sequencer or SRAM of stage 3: code, die and unit; code 0 when none fails -/
  stage3 : Nat × Nat × Nat
  /-- the physical clusters that pass stage 3, by die -/
  good : List (List Nat)
  /-- failing stack of stage 4: code, die and unit; code 0 when none fails -/
  stage4 : Nat × Nat × Nat
  /-- the interleave size in GiB (R215) -/
  interleave : Nat
  /-- frames of the save pool (R466) and of the snapshot pool (R474) -/
  saveFrames : Nat
  snapFrames : Nat
  /-- the HDM window in GiB (R322) -/
  hdm : Nat
  /-- host physical ranges assigned to a port: base, size and port 0 or 1, or 2 for both, interleaved by 4 KiB (R322) -/
  hostRanges : List (Nat × Nat × Nat)
  /-- the tables that stage 6 loads: route entries by peer, multicast entries by group with the devices of their trees, tree entries by index, inbound
  window entries by origin and window, and TOKENS and MINGAP of each die's ring -/
  routes : List (Nat × Word)
  mcasts : List (Nat × UWord × Nat)
  trees : List (Nat × BitVec 256)
  windows : List (Nat × Nat × UWord)
  rings : List (Nat × Nat)
  /-- ports that train at stage 6 -/
  portsUp : List Nat
  kdev : Nat
  domSize : Nat
deriving DecidableEq, Repr

/-- What a numbered packet from another device carries (R311): its origin, its number and its origin's floor. -/
structure Sent where
  org : Nat
  seq : Nat
  flr : Nat
deriving DecidableEq, Repr

/-- A coordination message about the launch of a key (R395, R396). -/
structure Keyed extends Sent where
  gkey : Nat
deriving DecidableEq, Repr

/-- The number of a request of this device's own, and whether it is a tagged one (R311). -/
structure ReqNo where
  seq : Nat
  tagged : Bool
deriving DecidableEq, Repr

/-- The bytes of a packet, and whether its trailer says that it is to be discarded (R312). -/
structure Payload where
  bytes : List (BitVec 8)
  stomped : Bool
deriving DecidableEq, Repr

/-- The same from a device that answers a request (R311, R316). -/
structure Answered extends Payload where
  frm : Nat
deriving DecidableEq, Repr

/-- What a request on the sideband that the manual does not list asks (R427, R494): an SPDM request by its code, or a command byte. -/
inductive Unlisted where
  | spdm (code : Nat)
  | command (byte : Nat)
deriving DecidableEq, Repr

/-- The masked bytes of a write packet by their offsets, and whether its trailer says that it is to be discarded (R312). -/
structure Masked where
  bytes : List (Nat × BitVec 8)
  stomped : Bool
deriving DecidableEq, Repr

/-- The way a collective packet comes (R317): from which rank, and 0 a partial from a child, 1 a result from the parent. -/
structure TreeLeg where
  frm : Nat
  dir : Nat
deriving DecidableEq, Repr

/-- A packet that this device relays (R310, R312): a header error found before forwarding, or late, after cut-through has begun. -/
structure Relayed where
  hdrErr : Bool
  late : Bool
  body : List (BitVec 8)
deriving DecidableEq, Repr

/-- What the checks of R425 find of a staged image, and its digest. -/
structure ImageCheck where
  sigOk : Bool
  keyOk : Bool
  versionOk : Bool
  digest : BitVec 384
deriving DecidableEq, Repr

/-- One constructor for each row of the opcode table. -/
inductive Instr where
  /-- The all-zero lane word is always ILLEGAL; every lane of the issuing run parks at it (R35). -/
  | ill (o : LaneOp)
  /-- Each true lane writes a + b modulo 2^n (R123). -/
  | iadd (o : LaneOp)
  /-- Each true lane writes a − b modulo 2^n (R123). -/
  | isub (o : LaneOp)
  /-- Each true lane writes the low n bits of a × b (R123). -/
  | imul (o : LaneOp)
  /-- Each true lane writes the high n bits of the unsigned product (R123). -/
  | imulhu (o : LaneOp)
  /-- Each true lane writes the high n bits of the signed product (R123). -/
  | imulhs (o : LaneOp)
  /-- Each true lane writes (a × b + c) modulo 2^n, with c the destination when no SRC extension is given (R123). -/
  | imad (o : LaneOp)
  /-- Unsigned division truncating toward zero; division by zero gives all ones (R124). -/
  | idivu (o : LaneOp)
  /-- Signed division truncating toward zero, with the fixed cases for b = 0 and overflow (R124). -/
  | idivs (o : LaneOp)
  /-- Unsigned remainder; b = 0 gives a (R124). -/
  | iremu (o : LaneOp)
  /-- Signed remainder with the sign of the dividend, with the fixed cases (R124). -/
  | irems (o : LaneOp)
  /-- Each true lane writes the signed minimum (R123). -/
  | imin (o : LaneOp)
  /-- Each true lane writes the signed maximum (R123). -/
  | imax (o : LaneOp)
  /-- Each true lane writes the unsigned minimum (R123). -/
  | umin (o : LaneOp)
  /-- Each true lane writes the unsigned maximum (R123). -/
  | umax (o : LaneOp)
  /-- Each true lane writes the absolute value; the most negative value returns itself (R123). -/
  | iabs (o : LaneOp)
  /-- Each true lane writes 0 − a (R123). -/
  | ineg (o : LaneOp)
  /-- Each true lane writes a and b (R123). -/
  | and (o : LaneOp)
  /-- Each true lane writes a or b (R123). -/
  | or (o : LaneOp)
  /-- Each true lane writes a xor b (R123). -/
  | xor (o : LaneOp)
  /-- Each true lane writes a and not b (R123). -/
  | andn (o : LaneOp)
  /-- Each true lane writes not a (R123). -/
  | not (o : LaneOp)
  /-- Each true lane writes a shifted left by b mod n (R125). -/
  | shl (o : LaneOp)
  /-- Each true lane writes a shifted right logically by b mod n (R125). -/
  | shr (o : LaneOp)
  /-- Each true lane writes a shifted right arithmetically by b mod n (R125). -/
  | sar (o : LaneOp)
  /-- Each true lane writes a rotated left by b mod n (R125). -/
  | rotl (o : LaneOp)
  /-- Each true lane writes the number of 1 bits of a (R123). -/
  | popc (o : LaneOp)
  /-- Each true lane writes the count of leading zero bits of a (R123). -/
  | clz (o : LaneOp)
  /-- Each true lane writes a with its bits reversed (R123). -/
  | brev (o : LaneOp)
  /-- Each true lane extracts a bit field of a, zero-extended, under the descriptor in b (R126). -/
  | bfxu (o : LaneOp)
  /-- Each true lane extracts a bit field of a, sign-extended (R126). -/
  | bfxs (o : LaneOp)
  /-- Each true lane inserts a bit field of a into its old d (R126). -/
  | bfi (o : LaneOp)
  /-- Each true lane writes a + b (R128). -/
  | lea1 (o : LaneOp)
  /-- Each true lane writes a + (b << 1) (R128). -/
  | lea2 (o : LaneOp)
  /-- Each true lane writes a + (b << 2) (R128). -/
  | lea4 (o : LaneOp)
  /-- Each true lane writes a + (b << 3) (R128). -/
  | lea8 (o : LaneOp)
  /-- Each true lane sets its destination predicate to the integer comparison of a and b under the condition in d[5:3] (R129). -/
  | icmp (o : LaneOp)
  /-- Every lane of the run writes a where its guard holds and b elsewhere (R130). -/
  | sel (o : LaneOp)
  /-- Each true lane writes pa and pb into pd (R131). -/
  | plopAnd (o : LaneOp)
  /-- Each true lane writes pa or pb into pd (R131). -/
  | plopOr (o : LaneOp)
  /-- Each true lane writes pa xor pb into pd (R131). -/
  | plopXor (o : LaneOp)
  /-- Each true lane writes not pa into pd (R131). -/
  | plopNot (o : LaneOp)
  /-- Each true lane writes a, an immediate or a uniform register into d (R132). -/
  | mov (o : LaneOp)
  /-- Each true lane writes rne(a + b) in f32 or f64 and records its flags (R133). -/
  | fadd (o : LaneOp)
  /-- Each true lane writes rne(a − b) (R133). -/
  | fsub (o : LaneOp)
  /-- Each true lane writes rne(a × b) (R133). -/
  | fmul (o : LaneOp)
  /-- Each true lane writes rne(a × b + c) with one rounding (R133). -/
  | ffma (o : LaneOp)
  /-- Each true lane writes the smaller operand under the NaN rules (R134). -/
  | fmin (o : LaneOp)
  /-- Each true lane writes the larger operand under the NaN rules (R134). -/
  | fmax (o : LaneOp)
  /-- Each true lane clears the sign bit of a (R135). -/
  | fabs (o : LaneOp)
  /-- Each true lane inverts the sign bit of a (R135). -/
  | fneg (o : LaneOp)
  /-- Each true lane sets its destination predicate to the floating-point comparison of a and b (R129). -/
  | fcmp (o : LaneOp)
  /-- Each true lane writes the correctly rounded reciprocal of a (R136). -/
  | frcp (o : LaneOp)
  /-- Each true lane writes the correctly rounded reciprocal square root of a (R136). -/
  | frsq (o : LaneOp)
  /-- Each true lane writes the correctly rounded square root of a (R136). -/
  | fsqrt (o : LaneOp)
  /-- Each true lane writes the correctly rounded 2^a (R136). -/
  | fex2 (o : LaneOp)
  /-- Each true lane writes the correctly rounded log2 a (R136). -/
  | flg2 (o : LaneOp)
  /-- Each true lane writes the correctly rounded a / b (R136). -/
  | fdiv (o : LaneOp)
  /-- Each true lane writes a one-hot 10-bit class mask of a (R137). -/
  | fclass (o : LaneOp)
  /-- Each true lane adds two packed f16 or bf16 elements (R138). -/
  | hadd2 (o : LaneOp)
  /-- Each true lane multiplies two packed elements (R138). -/
  | hmul2 (o : LaneOp)
  /-- Each true lane performs a fused multiply-add on two packed elements (R138). -/
  | hfma2 (o : LaneOp)
  /-- Each true lane takes the packed element-wise minimum (R138). -/
  | hmin2 (o : LaneOp)
  /-- Each true lane takes the packed element-wise maximum (R138). -/
  | hmax2 (o : LaneOp)
  /-- Each true lane writes the f32 dot product of two packed pairs plus c, rounded once (R139). -/
  | hdot2 (o : LaneOp)
  /-- Each true lane converts a between formats with the rounding, saturation and substitute of its CVT extension (R143). -/
  | cvt (o : LaneOp)
  /-- Each true lane writes the amax of its segment's block as f32 (R147). -/
  | bamax (o : LaneOp)
  /-- Each true lane writes the MX scale code for an amax (R148). -/
  | bscale (o : LaneOp)
  /-- Each true lane quantises its elements into MX codes under a given scale (R149). -/
  | bquant (o : LaneOp)
  /-- Each true lane receives its part of the segment's dense MX element stream (R150). -/
  | bpack (o : LaneOp)
  /-- Each true lane takes its codes out of the segment's dense element stream (R150). -/
  | bunpack (o : LaneOp)
  /-- Each true lane dequantises its MX codes into f32, f16 or bf16 (R151). -/
  | bdeq (o : LaneOp)
  /-- Each true lane reads a from the lane that its b names (R368). -/
  | shfl (o : LaneOp)
  /-- Each true member lane writes the any or all of its subgroup's predicates, waiting under .sync (R370). -/
  | vote (o : LaneOp)
  /-- Each true member lane writes a subgroup reduction formed in a fixed tree (R373). -/
  | gred (o : LaneOp)
  /-- Each true member lane writes the inclusive scan of its subgroup up to its offset (R374). -/
  | gscan (o : LaneOp)
  /-- Each true member lane writes a from the lowest present true member lane of its subgroup (R375). -/
  | gbcast (o : LaneOp)
  /-- Each true lane delivers a value to a peer lane's port FIFO or pending pull, blocking while the FIFO is full (R381). -/
  | push (o : LaneOp)
  /-- Each true lane takes a port value into d or leaves a pending pull with d empty (R382). -/
  | pull (o : LaneOp)
  /-- Each true lane takes a port value if one is ready and reports success in a predicate (R383). -/
  | ptry (o : LaneOp)
  /-- Each true lane loads from its effective address, marking d empty until the value lands, with an acquire when ordered (R269). -/
  | ld (o : LaneOp)
  /-- Each true lane stores the low bytes of b, with a bound check under .bnd and a release when ordered (R270). -/
  | st (o : LaneOp)
  /-- Each true lane performs one atomic RMW at the home or bank and receives the old value (R273). -/
  | atom (o : LaneOp)
  /-- Each true lane contributes a relaxed RMW without a returned value, through the reduction buffer on glob (R274). -/
  | red (o : LaneOp)
  /-- Each true lane compares and swaps atomically and receives the old value (R275). -/
  | cas (o : LaneOp)
  /-- Each true lane prefetches a line into L1, the cluster cache or L2, without any fault (R277). -/
  | pref (o : LaneOp)
  /-- Each true lane reads the compression tag and sector count of its line (R278). -/
  | ldtag (o : LaneOp)
  /-- Each true lane blocks until n registers of its window are all full (R279). -/
  | fewait (o : LaneOp)
  /-- The run takes the slot at the consumer pointer of a FIFO bank, blocking while FILLED = 0 (R281). -/
  | cbget (o : LaneOp)
  /-- The run reserves a FIFO slot, blocking while FREE = 0, and writes its slot words (R281). -/
  | cbput (o : LaneOp)
  /-- The run releases the oldest slot the group holds in a FIFO bank (R281). -/
  | cbrel (o : LaneOp)
  /-- Each true lane jumps to the byte offset held in a (R359). -/
  | jmpr (o : LaneOp)
  /-- Each true lane queues the fetch of one A row share and its scales into the bow for a tagged pass (R201). -/
  | mmfeed (o : LaneOp)
  /-- Each true lane reads one accumulator element in the set's operation order (R203). -/
  | mmread (o : LaneOp)
  /-- Each true lane branches to PC + 4 × off18 (R359). -/
  | bra (o : LaneOp)
  /-- Each true lane moves its window by 8 × fr, writes the return PC and branches, or traps SPILL or BOUND (R360). -/
  | call (o : LaneOp)
  /-- Each true lane moves its window back by 8 × f and returns, or exits from the entry frame (R361). -/
  | ret (o : LaneOp)
  /-- Each true lane calls the byte offset held in a, with the window tests of call (R360). -/
  | callr (o : LaneOp)
  /-- Lanes wait until their awaited subgroup has arrived at this PC, then continue together (R363). -/
  | join (o : LaneOp)
  /-- Each true lane exits; the last lane ends the group and releases its resources (R362). -/
  | exit (o : LaneOp)
  /-- The run posts one gathered service call record to the team's mailbox and marks d empty in its lanes (R441). -/
  | gcall (o : LaneOp)
  /-- Each true lane parks with cause BKPT and the given code (R437). -/
  | bkpt (o : LaneOp)
  /-- Uniform 64-bit add (R153). -/
  | kaluAdd (u : UOp)
  /-- Uniform 64-bit subtract (R153). -/
  | kaluSub (u : UOp)
  /-- Uniform low 64-bit product (R153). -/
  | kaluMul (u : UOp)
  /-- Uniform high 64 bits of the unsigned product (R153). -/
  | kaluMulhu (u : UOp)
  /-- Uniform high 64 bits of the signed product (R153). -/
  | kaluMulhs (u : UOp)
  /-- Uniform bitwise and (R153). -/
  | kaluAnd (u : UOp)
  /-- Uniform bitwise or (R153). -/
  | kaluOr (u : UOp)
  /-- Uniform bitwise xor (R153). -/
  | kaluXor (u : UOp)
  /-- Uniform left shift by b[5:0] (R153). -/
  | kaluShl (u : UOp)
  /-- Uniform logical right shift by b[5:0] (R153). -/
  | kaluShr (u : UOp)
  /-- Uniform arithmetic right shift by b[5:0] (R153). -/
  | kaluSar (u : UOp)
  /-- Uniform signed minimum (R153). -/
  | kaluMin (u : UOp)
  /-- Uniform signed maximum (R153). -/
  | kaluMax (u : UOp)
  /-- Uniform unsigned minimum (R153). -/
  | kaluMinu (u : UOp)
  /-- Uniform unsigned maximum (R153). -/
  | kaluMaxu (u : UOp)
  /-- Uniform signed set-less-than (R153). -/
  | kaluSlt (u : UOp)
  /-- Uniform unsigned set-less-than (R153). -/
  | kaluSltu (u : UOp)
  /-- Uniform add of a sign-extended immediate (R154). -/
  | kaluiAddi (u : UOp)
  /-- Uniform and with a sign-extended immediate (R154). -/
  | kaluiAndi (u : UOp)
  /-- Uniform or with a sign-extended immediate (R154). -/
  | kaluiOri (u : UOp)
  /-- Uniform xor with a sign-extended immediate (R154). -/
  | kaluiXori (u : UOp)
  /-- Uniform signed compare with an immediate (R154). -/
  | kaluiSlti (u : UOp)
  /-- Uniform unsigned compare with the sign-extended immediate (R154). -/
  | kaluiSltiu (u : UOp)
  /-- Uniform left shift by an immediate amount (R154). -/
  | kaluiShli (u : UOp)
  /-- Uniform logical right shift by an immediate amount (R154). -/
  | kaluiShri (u : UOp)
  /-- Uniform arithmetic right shift by an immediate amount (R154). -/
  | kaluiSari (u : UOp)
  /-- Writes kd := sext(imm20 << 12, 64) (R155). -/
  | klui (u : UOp)
  /-- Writes kd := kcode + PC + sext(imm20 << 12, 64) (R155). -/
  | kauipc (u : UOp)
  /-- The group loads once from a glob address into a uniform register (R283). -/
  | kld (u : UOp)
  /-- The group stores a uniform register once to a glob address (R283). -/
  | kst (u : UOp)
  /-- The group loads once from the constant region into a uniform register (R283). -/
  | kldc (u : UOp)
  /-- Copies lane l's register vN into a uniform register (R366). -/
  | kread (u : UOp)
  /-- Writes the mask of non-exited lanes whose predicate pN is set (R367). -/
  | kballot (u : UOp)
  /-- Uniform conditional branch on a 64-bit comparison (R365). -/
  | bru (u : UOp)
  /-- Uniform jump by a 25-bit word offset (R365). -/
  | ju (u : UOp)
  /-- Uniform jump to the byte offset in ka (R365). -/
  | jur (u : UOp)
  /-- Decrements ka and branches while the new value is non-zero (R365). -/
  | loop (u : UOp)
  /-- The group joins or forms the convening set of a key and receives its member number or a refusal (R196). -/
  | mmconvJoin (u : UOp)
  /-- The group leaves its convening set, which may break or dissolve it (R196). -/
  | mmconvLeave (u : UOp)
  /-- The elected member posts a matrix pass and receives a ticket or a refusal (R197). -/
  | mmpost (u : UOp)
  /-- The elected member posts a load of a B tile image into the trellis (R197). -/
  | mmldb (u : UOp)
  /-- Blocks the group until a matrix operation completes, writes its status and acquires or traps as the status requires (R204). -/
  | mmwait (u : UOp)
  /-- Writes 0 while a matrix operation is pending, otherwise acts as mmwait (R204). -/
  | mmwaitTest (u : UOp)
  /-- The elected member posts a drain of a tile (R197). -/
  | mmdrain (u : UOp)
  /-- The elected member posts a zero of a tile (R197). -/
  | mmzero (u : UOp)
  /-- Waits for earlier set operations and returns the location, value, fix or delta of a located error (R205). -/
  | mchkloc (u : UOp)
  /-- Posts a fix that writes the kept v' into a LOCATED element (R198). -/
  | mchkfixAuto (u : UOp)
  /-- Posts a fix that writes a given value into a LOCATED element (R198). -/
  | mchkfixVal (u : UOp)
  /-- Posts a retry restore of a Held tile from its checkpoint and increments RCOUNT (R181). -/
  | mmretry (u : UOp)
  /-- Posts a transfer block to a transfer queue with a release and returns a ticket (R289). -/
  | xpost (u : UOp)
  /-- Posts a transfer block with an index array taken from kb (R289). -/
  | xgath (u : UOp)
  /-- Orders the group's later posts to masked queues behind its earlier ones (R290). -/
  | qfence (u : UOp)
  /-- Blocks until an engine operation completes, writes its status, acquires, merges flags and traps on failure (R291). -/
  | qwait (u : UOp)
  /-- Writes 0 while an engine operation is pending, otherwise acts as qwait (R291). -/
  | qwaitTest (u : UOp)
  /-- Posts a collective block to a collective queue (R289). -/
  | cpost (u : UOp)
  /-- Counts the group at a team barrier, holds it until the generation completes, then acquires (R376). -/
  | barSync (u : UOp)
  /-- Counts the group at a team barrier with a release and goes on (R376). -/
  | barArr (u : UOp)
  /-- An acquire of an explicit object or of I at a scope (R285). -/
  | acq (u : UOp)
  /-- A release of an explicit object or of I at a scope (R285). -/
  | rel (u : UOp)
  /-- Binds a glob region to a sync object in the context's binding table and returns a status (R287). -/
  | bind (u : UOp)
  /-- Removes binding entries of an object and returns their count (R288). -/
  | unbind (u : UOp)
  /-- An acquire, release or both on I at a scope (R286). -/
  | fence (u : UOp)
  /-- Makes a new group of the team at an entry offset, or reports no free context (R377). -/
  | spawn (u : UOp)
  /-- Removes the group from candidacy for n cycles (R378). -/
  | yield (u : UOp)
  /-- Acts as slice expiry when the loggia holds a team whose victim is the yielding team (R378). -/
  | yieldSwap (u : UOp)
  /-- Writes a group register from a predicate ballot and a subgroup size (R371). -/
  | part (u : UOp)
  /-- Attaches the team to its gang, waits until every member has attached, and returns the query value or a refusal (R387). -/
  | gangJoin (u : UOp)
  /-- Releases at gang scope and marks the group detached (R391). -/
  | gangDetach (u : UOp)
  /-- Holds the group until the gang completes its next sync generation, with release and acquire at gang scope (R390). -/
  | gangSync (u : UOp)
  /-- Returns the gang membership and state word (R393). -/
  | gangQuery (u : UOp)
  /-- Exposes a scratch range as the team's slice of the gang window (R388). -/
  | winmapSet (u : UOp)
  /-- Returns the window offset of a byte of a member's slice (R388). -/
  | winmapAddr (u : UOp)
  /-- Loads the selected converter's stochastic generator from the group's SRSEED (R440). -/
  | seed (u : UOp)
  /-- Reads a control register into a uniform register, with privilege checks (R428). -/
  | csrr (u : UOp)
  /-- Writes a uniform register into a control register (R428). -/
  | csrw (u : UOp)
  /-- Ors a uniform register into a control register (R428). -/
  | csrwSet (u : UOp)
  /-- Clears the bits of a uniform register in a control register (R428). -/
  | csrwClr (u : UOp)
  /-- Supervisor writes one capability entry of the selected team's launch atomically and returns the old bits (R439). -/
  | capset (u : UOp)
  /-- The converged group raises TRAP as one group record with the given code (R438). -/
  | trap (u : UOp)
  /-- Makes the selected record's lanes active at TRAPPC to execute that word again (R436). -/
  | rteReplay (u : UOp)
  /-- Makes the selected record's lanes active past the trapping instruction (R436). -/
  | rteSkip (u : UOp)
  /-- Makes the selected record's lanes execute exit (R436). -/
  | rteKill (u : UOp)
  /-- Ends the handler; the slot takes the team's next record or becomes free (R436). -/
  | rteEnd (u : UOp)
  /-- Supervisor claims an idle target core of its die for scan test (R445). -/
  | scantStart (u : UOp)
  /-- Starts scan chunk c on the claimed target; the group waits (R445). -/
  | scantChunk (u : UOp)
  /-- Compares SCANSIG with SCANEXP after 20 chunks and sets MISMATCH (R445). -/
  | scantCheck (u : UOp)
  /-- Releases the claim and, with REMOVE after a mismatch, writes a removal request (R445). -/
  | scantEnd (u : UOp)
  /-- Sends a cancel of a counter of the group's context to the sequencer and returns its prior state (R444). -/
  | cancel (u : UOp)
  /-- A long-latency producer's result is written to the slot named at issue and sets it full, waking blocked lanes (R20). K: index in State.landing. -/
  | resultLands (k : Nat)
  /-- When no lane of a group is active or blocked, the wait at the lowest PC is released as complete (R364). G: group. -/
  | waitDeadlockRelease (g : Nat)
  /-- After n cycles a yielding group becomes a candidate again with age 0 (R378). G: group. -/
  | yieldExpiry (g : Nat)
  /-- The home L2 slice performs one access to a line in its single order (R213). K: index in State.stores. -/
  | homeAccess (k : Nat)
  /-- A reduction-buffer entry is performed at its home as one atomic RMW (R253). K: index in the core's reduction buffer. -/
  | reductionFlush (core k : Nat)
  /-- A reduction-buffer entry reaching 8,192 cycles of age is flushed (R253). K: index in the core's reduction buffer. -/
  | reductionEntryAgeExpiry (core k : Nat)
  /-- A write-combining entry is sent as one masked write to its peer or multicast target (R308). K: index in the core's write-combining buffer. -/
  | wcbDrain (core k : Nat)
  /-- A write-combining entry reaching 4,096 cycles of age is drained (R308). K: index in the core's write-combining buffer. -/
  | wcbEntryAgeExpiry (core k : Nat)
  /-- The package sequencer copies and checks the next queue entry and advances CONS (R334). Q: queue of the context. -/
  | launchEntryAccept (ctx q : Nat)
  /-- The package sequencer offers the next team of a launch to the dies in rotation (R341). Team: pending at the package sequencer. -/
  | teamDispatch (team : Nat)
  /-- A die sequencer places a team on the core and octet windows its rules choose (R342). Core: the logical core the sequencer places on. -/
  | teamPlacement (team core : Nat)
  /-- A die sequencer loads a pending team into a core's loggia against a victim and starts the slice timer (R355). Victim: the resident team it will replace. -/
  | loggiaLoad (core team victim : Nat)
  /-- The slice timer expires and the core swaps the victim out and the loggia team in (R355). Core: logical core. -/
  | sliceExpiry (core : Nat)
  /-- A team is swapped out at instruction boundaries and the incoming image takes its registers in 128 cycles (R465). Team: the victim. -/
  | teamSwap (core team : Nat)
  /-- A team whose lanes all wait, one on a page request, is swapped out at once (R468). Team: the team in fault wait. -/
  | faultWaitSwap (team : Nat)
  /-- The spill engine finishes writing an outgoing image into a save frame (R466). Team: whose image the spill engine wrote. -/
  | imageSaveDone (team : Nat)
  /-- A swapped-out team is restored with fresh octet windows and an acquire at dev (R467). Core: where it is restored. -/
  | teamRestore (team core : Nat)
  /-- The free supervisor slot enters for the oldest unentered trap record of a team (R459). Core: whose slot enters. -/
  | supervisorEntry (core : Nat)
  /-- A cancel reaches a resident group, which parks every lane with cause CANCEL (R340). G: group. -/
  | cancelDelivery (g : Nat)
  /-- A counter reaches DONE = TARGET, completes, writes CVAL and adds to its parent (R339). Counter: index. -/
  | launchCounterComplete (counter : Nat)
  /-- The matrix engine accepts an operation and reads its parameter block, checking it (R191). K: index in the cluster's reservation table. -/
  | matrixAccept (cl k : Nat)
  /-- Every 8,192 cycles of waiting raises a reservation entry's priority by one (R351). K: index in the cluster's reservation table. -/
  | reservationAging (cl k : Nat)
  /-- A free engine unit grants the eligible entry of highest priority, or requests a token for a pass (R351). Unit: 0 stream unit, 1 tile unit. -/
  | reservationGrant (cl unit : Nat)
  /-- A waiting cluster takes a passing free token (R352). Cl: logical cluster. -/
  | tokenTake (cl : Nat)
  /-- Once MINGAP has passed, a token holder starts a burst of up to 4,096 cycles (R352). Cl: logical cluster. -/
  | burstStart (cl : Nat)
  /-- A burst ends and its token is released downstream (R352). Cl: logical cluster. -/
  | burstEnd (cl : Nat)
  /-- An mmfeed fetch's bytes arrive in the bow for its row (R201). K: index in the cluster's list of fetches. -/
  | feedFetchLands (cl k : Nat)
  /-- The engine streams a complete row-group of a pass through the trellis (R162). Cl: logical cluster. -/
  | rowGroupStream (cl : Nat)
  /-- A pass's last accumulator write lands and its status becomes final (R187). Cl: logical cluster. -/
  | passComplete (cl : Nat)
  /-- A B tile image has been loaded into the trellis (R193). Cl: logical cluster. -/
  | bLoadComplete (cl : Nat)
  /-- A tile has been zeroed and its pending events discarded (R169). Cl: logical cluster. -/
  | tileZeroComplete (cl : Nat)
  /-- A tile has been restored from its checkpoint and returns to Accumulating (R181). Cl: logical cluster. -/
  | retryRestoreComplete (cl : Nat)
  /-- A fix has written a LOCATED element and the tile stays Held (R198). Cl: logical cluster. -/
  | elementFixComplete (cl : Nat)
  /-- The drain's check phase ends with an outcome that allows or stops the write phase (R180). Cl: logical cluster. -/
  | drainCheckEnd (cl : Nat)
  /-- The drain's write phase ends and the drain commits events, counters and tile state (R175). Cl: logical cluster. -/
  | drainCommit (cl : Nat)
  /-- A transfer or collective engine accepts an operation and reads its block (R292). K: index in State.engOps. -/
  | engineAccept (k : Nat)
  /-- A transfer operation ends and writes STATUS, FLAGS, PROG and CVAL with a release (R292). K: index in State.engOps. -/
  | transferComplete (k : Nat)
  /-- A collective operation ends at a rank and writes its status and completion (R300). K: index in State.engOps. -/
  | collectiveComplete (k : Nat)
  /-- An origin's timeout expires and it resends the request, failing it after four sends (R312). The request whose timeout expires. -/
  | transactionTimeout (peer : Nat) (no : ReqNo)
  /-- A requested bank mode change is performed or refused within 512 cycles (R220). The bank. -/
  | bankModeChange (cl bank : Nat)
  /-- After the context's teams and operations end, its TLB entries, claims and bindings are dropped (R405). The context torn down. -/
  | teardown (ctx : Nat)
  /-- Rypepin takes a cluster out, marks the core failed and maps the lowest spare if any (R496). The die whose MAILBOX is served. -/
  | coreRemoval (die : Nat)
  /-- A scan chunk completes after 20,000 target cycles and folds into SCANSIG (R445). Core: the target. -/
  | scanChunkComplete (core : Nat)
  /-- A chunk aborts within 64 cycles when a fitting PRIO 3 team is pending (R446). Core: the target. -/
  | scanChunkAbort (core : Nat)
  /-- A snapshotted launch that consumes an uncorrectable error ends its teams and operations (R478). The launch. -/
  | rollback (launch : Nat)
  /-- Once the launch's writes are settled, its units are restored and it is replayed, escalated or reported lost (R478). The launch. -/
  | rollbackRestore (launch : Nat)
  /-- A sequencer switches to the new microcode between two acceptances or dispatches (R499). Seqr: 0 to 3 a die sequencer, 4 the package sequencer. -/
  | microcodeSwitch (seqr : Nat)
  /-- A lane or group reaches a word that decodes to no instruction (reserved opcode, op7 or op6 0x00 with other bits set, a non-zero unused field, or a reserved field value), and ILLEGAL is raised at issue (R63). The first word. -/
  | illegalEncoding (w : Nat)
  /-- A collective packet from a parent or child rank arrives and is reduced or forwarded (R317). Msg: its origin and number; hdr: KIND, ROP, COUNT, WFMT, WBSZ, EXACT. -/
  | collectivePacketArrival (msg : Sent) (die cid : Nat) (leg : TreeLeg) (blk : Nat) (data : Payload) (hdr : List Nat)
  /-- A device's ingress applies its multicast entry to an arriving write (R316). An arriving multicast write. -/
  | multicastDelivery (grp : Nat) (msg : Sent) (hop off : Nat) (bytes : List (Nat × BitVec 8)) (stomped : Bool)
  /-- A device receives GO and lets its reserved members issue (R395). The fields of the message. -/
  | go (msg : Keyed) (g : Nat)
  /-- A gang reservation is withdrawn (R395). The fields of the message. -/
  | release (msg : Keyed) (g : Nat)
  /-- A walker translates a missed page through the tables and fills the TLBs or reports a fault or page request (R419). Kind: 0 read, 1 write, 2 read and write, 3 execute. -/
  | pageWalk (core ctx va kind : Nat)
  /-- A PRI response arrives: success retries the translation, failure raises XLAT or PERM (R325). Code: 0 success, 1 invalid request, 2 response failure. -/
  | pageRequestResponse (ctx va : Nat) (code : Nat)
  /-- An ATS invalidation drops matching TLB entries and completes after accesses in flight end (R325). The range invalidated. -/
  | atsInvalidation (ctx va size : Nat)
  /-- A write to the invalidation registers drops matching translations at every level (R420). The range invalidated. -/
  | tlbInvalidation (ctx va size : Nat)
  /-- A tagged request arrives at a destination and is checked against the window table and duplicate filter (R311). Kind: 0 load, 1 masked write, 2 atomic, 3 cas, 4 reduction flush. -/
  | fabricRequestArrival (org seq flr kind win off size : Nat) (data : UWord) (aop : Nat) (cmp : UWord) (body : Masked)
  /-- A response or acknowledgement arrives at its origin (R311). Status: 0 performed, 1 poison, 2 badly framed, 3 refused; data: the bytes read, and the device that answers. -/
  | fabricResponseArrival (peer : Nat) (no : ReqNo) (status : Nat) (data : Answered)
  /-- A relay forwards a detoured packet to its direct port or discards it (R310). A detoured packet this device relays. -/
  | relayForward (org dst : Nat) (pkt : Relayed)
  /-- The data link layer reports a UALink port up or down, changing UP (R309). The port the data link layer reports. -/
  | linkStateChange (port : Nat) (up : Bool)
  /-- d_0 receives a device's acceptance of a domain launch (R395). The fields of the message. -/
  | accept (msg : Sent) (gkey nteams gang gdom prio : Nat)
  /-- d_0 receives a device's report that it has reserved a gang's members (R395). The fields of the message. -/
  | ready (msg : Sent) (gkey g : Nat)
  /-- A swap request for a spanning gang reaches a device, which swaps its members out and replies (R396). The fields of the message. -/
  | gangSwapRequest (msg : Keyed) (g : Nat)
  /-- A cancel of a domain launch arrives and the device cancels its own counter (R396). The fields of the message. -/
  | gangCancelMessage (msg : Keyed)
  /-- A departure without hold is reported to every device of GDOM (R396). M: kteam of the departed member. -/
  | memberDepartedReport (msg : Keyed) (m : Nat)
  /-- A host read or write through CXL.mem is performed at the home L2 after any back-invalidates (R324). Own: the host keeps the line modified. -/
  | hostMemAccess (dpa : Nat) (wr : Bool) (bytes : List (Nat × BitVec 8)) (own : Bool)
  /-- A back-invalidate snoop response arrives and the waiting home access proceeds (R324). The modified bytes the host returns. -/
  | backInvalidateResponse (line : Nat) (bytes : List (Nat × BitVec 8))
  /-- A host snoop of an owned line is answered after the RMW in progress ends (R323). A host line in the ownership cache. -/
  | hostSnoop (line : Nat)
  /-- A reply doorbell makes the device write the replies into the record's lanes and acquire (R442). The record's address written to the doorbell. -/
  | gcallReply (ctx addr : Nat)
  /-- The host writes QPROD, publishing launch entries (R333). Prod: the new producer index. -/
  | queueProducerWrite (ctx q prod : Nat)
  /-- Writing EN from 0 to 1 clears HALT and QERR and resumes the queue (R336). The queue. -/
  | queueEnable (ctx q : Nat)
  /-- An MMIO write of a counter index to CANCEL cancels that counter (R340). The counter index. -/
  | cancelRegisterWrite (ctx counter : Nat)
  /-- A write to a context descriptor sets VALID, is refused or ignored, or clears VALID to start teardown (R405). The eight words written. -/
  | contextDescriptorWrite (ctx : Nat) (desc : List UWord)
  /-- CKPTCTL.GO with DIR = 0 copies all device memory and tags to the host image, or is refused (R485). The value written to CKPTCTL. -/
  | checkpointDeviceToHost (v : UWord)
  /-- CKPTCTL.GO with DIR = 1 restores all device memory and tags from the host image, or is refused (R485). The value written to CKPTCTL, and what the host has put into its image: the line places by offset from CKPTBASE, and the tags by offset from CKPTBASE + 1,020 GiB. -/
  | checkpointHostToDevice (v : UWord) (image tags : List (Nat × BitVec 8))
  /-- A checkpoint transfer ends and BUSY clears with a release at sys (R485). -/
  | checkpointTransferDone
  /-- A write to BANKMODE requests mode changes for the banks whose mode differs (R219). V: the value written. -/
  | bankmodeWrite (cl : Nat) (v : UWord)
  /-- Writing LOGGIA.EVICT returns the loaded team to pending without a swap (R435). Core: logical core. -/
  | loggiaEvict (core : Nat)
  /-- Writing PREEMPTREQ.REQ swaps out every resident team of the core (R449). Core: logical core. -/
  | preemptreqWrite (core : Nat)
  /-- A write to TRAPGRP selects a record and reloads TRAPCAUSE, TRAPPC and TRAPLANES (R432). V: the value written. -/
  | trapgrpWrite (core : Nat) (v : UWord)
  /-- A write to REGVAL sets the selected register and marks it full (R433). V: the value written. -/
  | regvalWrite (core : Nat) (v : UWord)
  /-- A write to a register with no row of its own changes its writable fields (R7). A register with no row of its own. -/
  | registerWrite (r : MmioReg) (v : UWord)
  /-- A remove-core request is written to a die's MAILBOX, waiting while BUSY is set (R449). Core: logical core. -/
  | mailboxRemoveCore (die core : Nat)
  /-- A MAILBOX write with REQ 2 to 255 is logged and REQ returns to 0 (R449). Req: 2 to 255. -/
  | mailboxUndefinedRequest (die req : Nat)
  /-- A soft error that ECC does not correct leaves a poisoned or badly framed line (R227). The tag and sector bytes the error leaves. -/
  | hbmUncorrectableError (line tag : Nat) (stored : List (BitVec 8))
  /-- An uncorrectable SRAM error in a launch's state starts a rollback or reports the launch lost (R477). The launch whose state it hits. -/
  | sramUncorrectableError (launch : Nat)
  /-- The device stops, writes back L2, resets the compute dies and restores sequencer state (R482). -/
  | warmReset
  /-- From power good the device runs boot stages 1 to 7 (R490). What the self-tests find. -/
  | powerOn (r : PowerReport)
  /-- Every 10 ms at 95 °C or more a die's TOKENS is lowered by one, down to 6 (R502). The die. -/
  | thermalThrottle (die : Nat)
  /-- Below 90 °C the die's loaded TOKENS value is restored (R502). The die. -/
  | thermalRecovery (die : Nat)
  /-- At 110 °C the device takes the safe state with CODE 10 (R502). The die. -/
  | thermalShutdown (die : Nat)
  /-- Sideband command returning stage, safe-state and degraded flags and a cycle count (R494). -/
  | getState
  /-- Sideband command returning the failure record (R494). -/
  | getFailrec
  /-- Sideband command returning every physical core's COREMAP (R494). -/
  | getCoremap
  /-- Sideband command returning the next 256 bytes of the event log (R494). -/
  | getLog
  /-- Sideband command writing and verifying a Rypepin image into the inactive slot (R498). What the checks of R425 find. -/
  | stageImage (img : ImageCheck)
  /-- Sideband command verifying new sequencer microcode for a live switch (R499). What the checks of R425 find. -/
  | stageMicrocode (img : ImageCheck)
  /-- Sideband command starting recalibration of one HBM stack or UALink port (R500). An HBM stack or a UALink port. -/
  | recal (isPort : Bool) (n : Nat)
  /-- A recalibration ends; held stack accesses proceed or PV is set again (R500). -/
  | recalComplete
  /-- Sideband command writing TOKENS and MINGAP of a die's ring, retiring or adding tokens (R352). The ring control word. -/
  | setTokens (die tokens mingap : Nat)
  /-- Rypepin loads a route table entry for a peer (R309). The entry. -/
  | routeTableLoad (peer : Nat) (v : Word)
  /-- Rypepin loads a multicast entry (R315). The entry, and the devices with LOCAL set in the group's tree (R421). -/
  | multicastEntryLoad (grp : Nat) (v : UWord × Nat)
  /-- Rypepin loads a collective tree entry (R317). The entry. -/
  | treeEntryLoad (idx : Nat) (v : BitVec 256)
  /-- Rypepin loads an inbound window entry at the host driver's request (R422). The entry. -/
  | inboundWindowLoad (org win : Nat) (v : UWord)
  /-- SPDM request answered with the supported versions (R427). -/
  | getVersion
  /-- SPDM request answered with the capabilities (R427). -/
  | getCapabilities
  /-- SPDM request negotiating ECDSA P-384 with SHA-384 (R427). What the requester offers. -/
  | negotiateAlgorithms (p384 sha384 : Bool)
  /-- SPDM request answered with certificate chain digests (R427). -/
  | getDigests
  /-- SPDM request answered with the device identity chain from slot 0 (R427). The certificate slot. -/
  | getCertificate (slot : Nat)
  /-- SPDM challenge answered with a signature by the device identity key (R427). The requester's nonce. -/
  | challenge (slot : Nat) (nonce : BitVec 256)
  /-- SPDM request answered with signed measurements (R427). Idx: 0 the count, 1 to 6 one measurement, 255 all. -/
  | getMeasurements (idx : Nat) (signed : Bool)
  /-- Any other SPDM request receives ERROR with UnsupportedRequest (R427), and any other command byte completion 1 (R494). -/
  | spdmUnsupportedRequest (req : Unlisted)
  /-- The host answers a device CXL.cache request (RdCurr data, RdOwn ownership or write acknowledgement), possibly poisoned, and the waiting load, RMW, store or walk proceeds or takes POISON (R323). K: index in State.hostReqs; data: the bytes of the line. -/
  | cxlDataResponse (k : Nat) (data : List (BitVec 8)) (poison : Bool)
  /-- d_0 receives a device's reply that it has swapped out its members of a spanning gang, and the gang counts as parked once every device of GDOM has replied (R396). The fields of the message. -/
  | gangSwapReply (msg : Sent) (gkey g : Nat)
deriving DecidableEq, Repr

end Sys2Proof
end

