-- ==== Sys2Proof/WellFormed.lean ====
section
/-! DEFINITION. Which instruction words the Z4 accepts (R35 to R50, R61 to R65): the checks that make an encoding
ILLEGAL whatever the group's width. Limits that depend on the width (R44, R145) are checked at issue (R63). -/

namespace Sys2Proof

/-- Field ranges of the lane base word (R36). -/
def wfBase (o : LaneOp) : Bool := o.d < 64 && o.a < 64 && o.b < 64 && o.g < 8

/-- A lane word with no extension and no 64-bit form (R37, R42). -/
def wfPlain (o : LaneOp) : Bool := wfBase o && !o.s && o.x == .none

/-- A register pair is named by its even register (R18). -/
def even (s : Bool) (n : Nat) : Bool := !s || n % 2 == 0

/-- Swizzle limits of R44 at the widest group; under mode 5 the register field is zero (DEDUCED, log entry 62). -/
def wfSwz (mode prm field : Nat) : Bool :=
  match mode with
  | 0 => prm == 0
  | 1 => prm < 64
  | 2 => prm < 64
  | 3 => prm < 64
  | 4 => prm ≤ 6
  | 5 => prm < 32 && field == 0
  | _ => false

/-- A register source is even in a 64-bit form, unless it is a uniform register (R44). -/
def evenSrc (pair : Bool) (mode n : Nat) : Bool := even (pair && mode != 5) n

/-- Lane arithmetic words (R122, R42, R43): `single` reads a alone, `third` has a third source, `immOk` accepts IMM,
`pairs` means s = 1 names register pairs. -/
def wfAlu (o : LaneOp) (single third immOk pairs : Bool) : Bool :=
  let p := o.s && pairs
  wfBase o && even p o.d &&
  match o.x with
  | .none => even p o.a && (if single then o.b == 0 else even p o.b)
  | .imm v => immOk && v < 2 ^ 30 && o.b == 0 && (if single then o.a == 0 else even p o.a)
  | .src c am ap bm bp cm _ tb tc =>
    c < 64 && wfSwz am ap o.a && evenSrc p am o.a &&
    (if single then o.b == 0 && bm == 0 && bp == 0 && !tb else wfSwz bm bp o.b && evenSrc p bm o.b) &&
    (if third then wfSwz cm bp c && evenSrc p cm c else c == 0 && cm == 0 && !tc)
  | _ => false

/-- `icmp` and `fcmp`: d holds a condition and a predicate (R129). -/
def wfCmp (o : LaneOp) (immOk : Bool) : Bool := o.d < 64 && wfAlu { o with d := 0 } false false immOk true

/-- An immediate shift amount lies in 0 to n - 1 (R125). -/
def wfShiftImm (o : LaneOp) : Bool :=
  match o.x with
  | .imm v => v < (if o.s then 64 else 32)
  | _ => true

/-- An immediate field descriptor (R126). -/
def wfFieldImm (o : LaneOp) : Bool :=
  match o.x with
  | .imm v =>
    let n := if o.s then 64 else 32
    v % 64 < n && v / 64 % 4 == 0 && v / 256 % 128 ≤ n && v / 2 ^ 15 == 0
  | _ => true

/-- `gred`, `gscan`, `gbcast`: SRC with a swizzle on a alone (R372, R375). -/
def wfColl (o : LaneOp) : Bool :=
  wfBase o && even o.s o.d &&
  match o.x with
  | .none => even o.s o.a
  | .src c am ap bm bp cm _ tb tc =>
    wfSwz am ap o.a && evenSrc o.s am o.a && c == 0 && bm == 0 && bp == 0 && cm == 0 && !tb && !tc
  | _ => false

/-- Ranges of the MEM fields (R47). -/
def wfMem (sp sc od ao hi di : Nat) : Bool := sp < 5 && sc < 8 && od < 4 && ao < 14 && hi < 4 && di < 2 ^ 16

/-- The address register of a memory word: an even pair with space `glob` (R265); under s = 1 it is even in every space, since R18 makes
an odd register ILLEGAL as any operand of such a word (DEDUCED, log entry 64). -/
def wfAddr (o : LaneOp) (sp : Nat) : Bool := even (o.s || sp == 0) o.a

/-- `ld` (R48, R269). -/
def wfLd (o : LaneOp) : Bool :=
  wfBase o &&
  match o.x with
  | .mem sp sc od ao hi di =>
    wfMem sp sc od ao hi di && wfAddr o sp && o.b < 6 && (o.s == (o.b == 5)) && even o.s o.d &&
    od < 2 && ao == 0 && (sp == 0 || sp == 4 || hi == 0)
  | _ => false

/-- `st` (R48, R270, R271). -/
def wfSt (o : LaneOp) : Bool :=
  wfBase o &&
  match o.x with
  | .mem sp sc od ao hi di =>
    wfMem sp sc od ao hi di && wfAddr o sp && o.d < 16 &&
    (o.d % 8 == 0 || o.d % 8 == 2 || o.d % 8 == 4 || o.d % 8 == 5) && (o.s == (o.d % 8 == 5)) && even o.s o.b &&
    (o.d < 8 || (o.d % 8 == 4 && sp == 0)) && sp < 4 && (od == 0 || od == 2) && ao == 0 && (sp == 0 || hi == 0)
  | _ => false

/-- `atom` (R48, R273). -/
def wfAtom (o : LaneOp) : Bool :=
  wfBase o &&
  match o.x with
  | .mem sp sc od ao hi di =>
    wfMem sp sc od ao hi di && wfAddr o sp && even o.s o.d && even o.s o.b && sp < 3 && hi == 0
  | _ => false

/-- `red` (R48, R274). -/
def wfRed (o : LaneOp) : Bool :=
  wfBase o && o.d == 0 &&
  match o.x with
  | .mem sp sc od ao hi di =>
    wfMem sp sc od ao hi di && wfAddr o sp && even o.s o.b && sp < 3 && od == 0 && hi == 0 && (ao < 8 || 11 ≤ ao)
  | _ => false

/-- `cas` (R48, R275). -/
def wfCas (o : LaneOp) : Bool :=
  wfBase o &&
  match o.x with
  | .mem sp sc od ao hi di =>
    wfMem sp sc od ao hi di && wfAddr o sp && even o.s o.d && even o.s o.b && sp < 3 && ao == 0 && hi == 0
  | _ => false

/-- `pref` (R48, R277). -/
def wfPref (o : LaneOp) : Bool :=
  wfBase o && !o.s && o.d < 3 && o.b == 0 &&
  match o.x with
  | .mem sp sc od ao hi di => wfMem sp sc od ao hi di && wfAddr o sp && (sp == 0 || sp == 4) && od == 0 && ao == 0
  | _ => false

/-- `ldtag` (R48, R278). -/
def wfLdtag (o : LaneOp) : Bool :=
  wfBase o && !o.s && o.b == 0 &&
  match o.x with
  | .mem sp sc od ao hi di => wfMem sp sc od ao hi di && wfAddr o sp && sp == 0 && od == 0 && ao == 0 && hi == 0
  | _ => false

/-- Ranges of the CVT fields (R49). -/
def wfCvtX (sf df rd sb bz c ox : Nat) : Bool :=
  sf < 16 && df < 16 && rd < 7 && sb < 4 && bz < 4 && c < 64 && ox < 256

/-- A format of R141's list of `cvt` formats: f32, f16, bf16, e4m3, e5m2, i8, ui8, i4, f64. -/
def cvtFmt (f : Nat) : Bool := f < 8 || f == 14

/-- `cvt` (R140 to R142): pairs of R141, 64-bit operands in even pairs. -/
def wfCvt (o : LaneOp) : Bool :=
  wfBase o && !o.s && o.b == 0 &&
  match o.x with
  | .cvt sf df rd _ sb bz c ox =>
    wfCvtX sf df rd sb bz c ox && c == 0 &&
    let si := ox % 8
    let di := ox / 8 % 8
    ox < 64 && si < 5 && di < 5 && (si == 0 || sf == 0) && (di == 0 || df == 0) &&
    (if si == 0 && sf == 15 then di == 0 && df == 0
     else if di == 0 && df == 15 then si == 0 && sf == 0 && (rd == 1 || rd == 2 || rd == 3)
     else (si != 0 || cvtFmt sf) && (di != 0 || cvtFmt df)) &&
    even (sf == 14 || 3 ≤ si) o.a && even (df == 14 || 3 ≤ di) o.d
  | _ => false

/-- Element width of an MX format code (R145). -/
def mxWidth (f : Nat) : Nat := if f == 10 || f == 11 then 6 else if f == 12 then 4 else 8

/-- An MX format code, 0x8 to 0xD (R55). -/
def isMx (f : Nat) : Bool := 8 ≤ f && f ≤ 13

/-- f32, f16 or bf16: the value layouts of R145. -/
def isVal (f : Nat) : Bool := f < 3

/-- Registers of the value layout (R145). -/
def valRegs (f epl : Nat) : Nat := if f == 0 then epl else max 1 (epl / 2)

/-- Registers of the code layout (R145). -/
def codeRegs (f epl : Nat) : Nat := (epl * mxWidth f + 31) / 32

/-- A register range begins at a multiple of its size (R145). -/
def ranged (r k : Nat) : Bool := r % k == 0

/-- Common form of the block-aware instructions (R145): s = 0, no b, epl in opx. -/
def wfBlock (o : LaneOp) (k : Nat → Nat → Nat → Nat → Nat → Nat → Nat → Bool) : Bool :=
  wfBase o && !o.s && o.b == 0 &&
  match o.x with
  | .cvt sf df rd _ sb bz c ox => wfCvtX sf df rd sb bz c ox && ox < 4 && k sf df rd sb bz c ox
  | _ => false

/-- `bamax` (R147). -/
def wfBamax (o : LaneOp) : Bool :=
  wfBlock o fun sf df _ _ _ c ox => isVal sf && df == 0 && c == 0 && ranged o.a (valRegs sf (2 ^ ox))

/-- `bscale` (R148). -/
def wfBscale (o : LaneOp) : Bool := wfBlock o fun sf df _ _ _ c ox => sf == 0 && isMx df && c == 0 && ox == 0

/-- `bquant` (R149). -/
def wfBquant (o : LaneOp) : Bool :=
  wfBlock o fun sf df _ _ _ _ ox => isVal sf && isMx df && 2 ^ ox * mxWidth df ≤ 64 &&
    ranged o.a (valRegs sf (2 ^ ox)) && ranged o.d (codeRegs df (2 ^ ox))

/-- `bpack` and `bunpack` (R150): both register ranges. -/
def wfBpack (o : LaneOp) : Bool :=
  wfBlock o fun sf df _ _ _ c ox => isMx df && sf == df && c == 0 && 2 ^ ox * mxWidth df ≤ 64 &&
    ranged o.a (codeRegs df (2 ^ ox)) && ranged o.d (codeRegs df (2 ^ ox))

/-- `bdeq` (R151). -/
def wfBdeq (o : LaneOp) : Bool :=
  wfBlock o fun sf df _ _ _ _ ox => isMx sf && isVal df && 2 ^ ox * mxWidth sf ≤ 64 &&
    ranged o.a (codeRegs sf (2 ^ ox)) && ranged o.d (valRegs df (2 ^ ox))

/-- The all-zero lane word (R35). -/
def laneIll (o : LaneOp) : Bool := o == { d := 0, a := 0, b := 0, g := 0, gn := false, s := false, x := .none }

/-- Field ranges of a uniform word (R50). -/
def wfU (u : UOp) : Bool := u.d < 32 && u.a < 32 && u.b < 32 && u.f < 1024

/-- The well-formed instructions: for a word, what R65 leaves legal; an event has no word. -/
def Instr.wellFormed (i : Instr) : Bool :=
  match i with
  | .ill o => laneIll o
  | .iadd o => wfAlu o false false true true
  | .isub o => wfAlu o false false true true
  | .imul o => wfAlu o false false true true
  | .imulhu o => wfAlu o false false true true
  | .imulhs o => wfAlu o false false true true
  | .imad o => wfAlu o false true true true
  | .idivu o => wfAlu o false false true true
  | .idivs o => wfAlu o false false true true
  | .iremu o => wfAlu o false false true true
  | .irems o => wfAlu o false false true true
  | .imin o => wfAlu o false false true true
  | .imax o => wfAlu o false false true true
  | .umin o => wfAlu o false false true true
  | .umax o => wfAlu o false false true true
  | .iabs o => wfAlu o true false true true
  | .ineg o => wfAlu o true false true true
  | .and o => wfAlu o false false true true
  | .or o => wfAlu o false false true true
  | .xor o => wfAlu o false false true true
  | .andn o => wfAlu o false false true true
  | .not o => wfAlu o true false true true
  | .shl o => wfAlu o false false true true && wfShiftImm o
  | .shr o => wfAlu o false false true true && wfShiftImm o
  | .sar o => wfAlu o false false true true && wfShiftImm o
  | .rotl o => wfAlu o false false true true && wfShiftImm o
  | .popc o => wfAlu o true false true true
  | .clz o => wfAlu o true false true true
  | .brev o => wfAlu o true false true true
  | .bfxu o => wfAlu o false false true true && wfFieldImm o
  | .bfxs o => wfAlu o false false true true && wfFieldImm o
  | .bfi o => wfAlu o false false true true && wfFieldImm o
  | .lea1 o => wfAlu o false false true true
  | .lea2 o => wfAlu o false false true true
  | .lea4 o => wfAlu o false false true true
  | .lea8 o => wfAlu o false false true true
  | .icmp o => wfCmp o true
  | .sel o => wfAlu o false false true true
  | .plopAnd o => wfPlain o && o.d < 8 && o.b == 0
  | .plopOr o => wfPlain o && o.d < 8 && o.b == 1
  | .plopXor o => wfPlain o && o.d < 8 && o.b == 2
  | .plopNot o => wfPlain o && o.d < 8 && o.b == 3 && o.a < 8
  | .mov o => wfAlu o true false true true
  | .fadd o => wfAlu o false false (!o.s) true
  | .fsub o => wfAlu o false false (!o.s) true
  | .fmul o => wfAlu o false false (!o.s) true
  | .ffma o => wfAlu o false true (!o.s) true
  | .fmin o => wfAlu o false false (!o.s) true
  | .fmax o => wfAlu o false false (!o.s) true
  | .fabs o => wfAlu o true false (!o.s) true
  | .fneg o => wfAlu o true false (!o.s) true
  | .fcmp o => wfCmp o (!o.s)
  | .frcp o => wfAlu o true false (!o.s) true
  | .frsq o => wfAlu o true false (!o.s) true
  | .fsqrt o => wfAlu o true false (!o.s) true
  | .fex2 o => wfAlu o true false (!o.s) true
  | .flg2 o => wfAlu o true false (!o.s) true
  | .fdiv o => wfAlu o false false (!o.s) true
  | .fclass o => wfAlu o true false (!o.s) true
  | .hadd2 o => wfAlu o false false true false
  | .hmul2 o => wfAlu o false false true false
  | .hfma2 o => wfAlu o false true true false
  | .hmin2 o => wfAlu o false false true false
  | .hmax2 o => wfAlu o false false true false
  | .hdot2 o => wfAlu o false true true false
  | .cvt o => wfCvt o
  | .bamax o => wfBamax o
  | .bscale o => wfBscale o
  | .bquant o => wfBquant o
  | .bpack o => wfBpack o
  | .bunpack o => wfBpack o
  | .bdeq o => wfBdeq o
  | .shfl o => wfAlu o false false true true
  | .vote o => wfPlain o && o.d < 8 && o.b < 4
  | .gred o => wfColl o
  | .gscan o => wfColl o
  | .gbcast o => wfColl o && o.b % 4 == 0
  | .push o => wfPlain o && o.b < 8 && (o.d == 0 || 6 ≤ o.b)
  | .pull o => wfPlain o && o.a == 0 && o.b < 8
  | .ptry o => wfPlain o && o.a < 8 && o.b < 8
  | .ld o => wfLd o
  | .st o => wfSt o
  | .atom o => wfAtom o
  | .red o => wfRed o
  | .cas o => wfCas o
  | .pref o => wfPref o
  | .ldtag o => wfLdtag o
  | .fewait o => wfPlain o && o.d == 0 && o.a + o.b + 1 ≤ 64
  | .cbget o => wfBase o && o.x == .none && o.a == 0 && even o.s o.d
  | .cbput o => wfBase o && o.x == .none && o.d == 0 && even o.s o.a
  | .cbrel o => wfPlain o && o.d == 0 && o.a == 0
  | .jmpr o => wfPlain o && o.d == 0 && o.b == 0
  | .mmfeed o => wfPlain o && even true o.a && even true o.d
  | .mmread o => wfPlain o && o.b == 0
  | .bra o => wfPlain o
  | .call o => wfPlain o
  | .ret o => wfPlain o && o.d == 0 && o.a == 0 && o.b < 8
  | .callr o => wfPlain o && o.d % 8 == 0 && o.b == 0
  | .join o => wfPlain o && o.d == 0 && o.a == 0 && o.b < 8 && o.g == 7 && !o.gn
  | .exit o => wfPlain o && o.d == 0 && o.a == 0 && o.b == 0
  | .gcall o => wfPlain o
  | .bkpt o => wfPlain o && o.d == 0
  | .kaluAdd u => wfU u && u.f == 0
  | .kaluSub u => wfU u && u.f == 1
  | .kaluMul u => wfU u && u.f == 2
  | .kaluMulhu u => wfU u && u.f == 3
  | .kaluMulhs u => wfU u && u.f == 4
  | .kaluAnd u => wfU u && u.f == 5
  | .kaluOr u => wfU u && u.f == 6
  | .kaluXor u => wfU u && u.f == 7
  | .kaluShl u => wfU u && u.f == 8
  | .kaluShr u => wfU u && u.f == 9
  | .kaluSar u => wfU u && u.f == 10
  | .kaluMin u => wfU u && u.f == 11
  | .kaluMax u => wfU u && u.f == 12
  | .kaluMinu u => wfU u && u.f == 13
  | .kaluMaxu u => wfU u && u.f == 14
  | .kaluSlt u => wfU u && u.f == 15
  | .kaluSltu u => wfU u && u.f == 16
  | .kaluiAddi u => wfU u && u.b / 4 == 0
  | .kaluiAndi u => wfU u && u.b / 4 == 1
  | .kaluiOri u => wfU u && u.b / 4 == 2
  | .kaluiXori u => wfU u && u.b / 4 == 3
  | .kaluiSlti u => wfU u && u.b / 4 == 4
  | .kaluiSltiu u => wfU u && u.b / 4 == 5
  | .kaluiShli u => wfU u && u.b == 24 && u.f / 64 == 0
  | .kaluiShri u => wfU u && u.b == 28 && u.f / 64 == 0
  | .kaluiSari u => wfU u && u.b == 28 && u.f / 64 == 1
  | .klui u => wfU u
  | .kauipc u => wfU u
  | .kld u => wfU u && u.b / 4 < 7
  | .kst u => wfU u && (u.b / 4 == 0 || u.b / 4 == 2 || u.b / 4 == 4 || u.b / 4 == 6)
  | .kldc u => wfU u && u.b / 4 < 7
  | .kread u => wfU u && u.a == 0 && u.b / 4 < 3 && (u.b / 4 != 2 || u.f % 2 == 0)
  | .kballot u => wfU u && u.a == 0 && u.b == 0 && u.f / 8 == 0
  | .bru u => wfU u && (u.b / 4 < 6 || u.a == 0)
  | .ju u => wfU u
  | .jur u => wfU u && u.d == 0 && u.b == 0 && u.f == 0
  | .loop u => wfU u && u.a == 0 && u.b / 4 == 0
  | .mmconvJoin u => wfU u && u.b == 0 && u.f / 64 == 0
  | .mmconvLeave u => wfU u && u.a == 0 && u.b == 4 && u.f == 0
  | .mmpost u => wfU u && u.b == 0 && u.f / 8 == 0
  | .mmldb u => wfU u && u.b == 0 && u.f / 8 == 0
  | .mmwait u => wfU u && u.b == 0 && u.f == 0
  | .mmwaitTest u => wfU u && u.b == 4 && u.f == 0
  | .mmdrain u => wfU u && u.b == 0 && u.f / 8 == 0
  | .mmzero u => wfU u && u.a == 0 && u.b == 0 && u.f / 32 == 0
  | .mchkloc u => wfU u && u.b == 0 && u.f / 4 == 0
  | .mchkfixAuto u => wfU u && u.b == 0 && u.f / 8 == 0
  | .mchkfixVal u => wfU u && u.f / 8 == 1
  | .mmretry u => wfU u && u.b == 0 && u.f / 8 == 0
  | .xpost u => wfU u && u.b == 0 && u.f / 8 == 0
  | .xgath u => wfU u && u.f / 8 == 0
  | .qfence u => wfU u && u.d == 0 && u.a == 0 && u.b == 0 && u.f / 256 == 0 && u.f != 0
  | .qwait u => wfU u && u.b == 0 && u.f == 0
  | .qwaitTest u => wfU u && u.b == 4 && u.f == 0
  | .cpost u => wfU u && u.b == 0 && u.f / 8 == 0
  | .barSync u => wfU u && u.d == 0 && u.a == 0 && u.b == 0 && u.f / 16 == 0
  | .barArr u => wfU u && u.d == 0 && u.a == 0 && u.b == 4 && u.f / 16 == 0
  | .acq u => wfU u && u.d == 0 && u.b % 4 == 0 && u.f == 0
  | .rel u => wfU u && u.d == 0 && u.b % 4 == 0 && u.f == 0
  | .bind u => wfU u && u.f == 0
  | .unbind u => wfU u && u.f == 0
  | .fence u => wfU u && u.d == 0 && u.a == 0 && u.b % 4 == 0 && u.f / 4 == 0 && u.f % 4 != 0
  | .spawn u => wfU u && u.b == 0 && u.f == 0
  | .yield u => wfU u && u.d == 0 && u.a == 0 && u.b / 4 == 0
  | .yieldSwap u => wfU u && u.d == 0 && u.a == 0 && u.b == 4 && u.f == 0
  | .part u => wfU u && u.d / 8 == 0 && u.a == 0 && u.b == 0 && u.f / 64 == 0 && u.f % 8 < 4
  | .gangJoin u => wfU u && u.a == 0 && u.b == 0 && u.f / 512 == 0
  | .gangDetach u => wfU u && u.a == 0 && u.b == 4 && u.f == 0
  | .gangSync u => wfU u && u.d == 0 && u.a == 0 && u.b == 8 && u.f == 0
  | .gangQuery u => wfU u && u.a == 0 && u.b == 12 && u.f == 0
  | .winmapSet u => wfU u && u.f == 0
  | .winmapAddr u => wfU u && u.f == 1
  | .seed u => wfU u && u.d == 0 && u.a == 0 && u.b == 0 && u.f / 4 == 0
  | .csrr u => wfU u && u.a == 0 && u.b / 4 == 0
  | .csrw u => wfU u && u.d == 0 && u.b / 4 == 0
  | .csrwSet u => wfU u && u.d == 0 && u.b / 4 == 1
  | .csrwClr u => wfU u && u.d == 0 && u.b / 4 == 2
  | .capset u => wfU u && u.b == 0 && u.f / 64 == 0
  | .trap u => wfU u && u.d == 0 && u.a == 0 && u.b / 4 == 0
  | .rteReplay u => wfU u && u.a == 0 && u.b == 0 && u.f == 0
  | .rteSkip u => wfU u && u.a == 0 && u.b == 4 && u.f == 0
  | .rteKill u => wfU u && u.a == 0 && u.b == 8 && u.f == 0
  | .rteEnd u => wfU u && u.a == 0 && u.b == 12 && u.f == 0
  | .scantStart u => wfU u && u.b == 0 && u.f == 0
  | .scantChunk u => wfU u && u.b == 0 && u.f == 1
  | .scantCheck u => wfU u && u.b == 0 && u.f == 2
  | .scantEnd u => wfU u && u.b == 0 && u.f == 3
  | .cancel u => wfU u && u.b == 0 && u.f == 0
  | .resultLands _ => true
  | .waitDeadlockRelease _ => true
  | .yieldExpiry _ => true
  | .homeAccess _ => true
  | .reductionFlush _ _ => true
  | .reductionEntryAgeExpiry _ _ => true
  | .wcbDrain _ _ => true
  | .wcbEntryAgeExpiry _ _ => true
  | .pageWalk _ _ _ _ => true
  | .pageRequestResponse _ _ _ => true
  | .atsInvalidation _ _ _ => true
  | .tlbInvalidation _ _ _ => true
  | .launchEntryAccept _ _ => true
  | .teamDispatch _ => true
  | .teamPlacement _ _ => true
  | .loggiaLoad _ _ _ => true
  | .sliceExpiry _ => true
  | .teamSwap _ _ => true
  | .faultWaitSwap _ => true
  | .imageSaveDone _ => true
  | .teamRestore _ _ => true
  | .supervisorEntry _ => true
  | .cancelDelivery _ => true
  | .launchCounterComplete _ => true
  | .matrixAccept _ _ => true
  | .reservationAging _ _ => true
  | .reservationGrant _ _ => true
  | .tokenTake _ => true
  | .burstStart _ => true
  | .burstEnd _ => true
  | .feedFetchLands _ _ => true
  | .rowGroupStream _ => true
  | .passComplete _ => true
  | .bLoadComplete _ => true
  | .tileZeroComplete _ => true
  | .retryRestoreComplete _ => true
  | .elementFixComplete _ => true
  | .drainCheckEnd _ => true
  | .drainCommit _ => true
  | .engineAccept _ => true
  | .transferComplete _ => true
  | .collectiveComplete _ => true
  | .collectivePacketArrival _ _ _ _ _ _ _ => true
  | .fabricRequestArrival _ _ _ _ _ _ _ _ _ _ _ => true
  | .fabricResponseArrival _ _ _ _ => true
  | .transactionTimeout _ _ => true
  | .relayForward _ _ _ => true
  | .multicastDelivery _ _ _ _ _ _ => true
  | .linkStateChange _ _ => true
  | .accept _ _ _ _ _ _ => true
  | .ready _ _ _ => true
  | .go _ _ => true
  | .release _ _ => true
  | .gangSwapRequest _ _ => true
  | .gangCancelMessage _ => true
  | .memberDepartedReport _ _ => true
  | .hostMemAccess _ _ _ _ => true
  | .backInvalidateResponse _ _ => true
  | .hostSnoop _ => true
  | .gcallReply _ _ => true
  | .queueProducerWrite _ _ _ => true
  | .queueEnable _ _ => true
  | .cancelRegisterWrite _ _ => true
  | .contextDescriptorWrite _ _ => true
  | .teardown _ => true
  | .checkpointDeviceToHost _ => true
  | .checkpointHostToDevice _ _ _ => true
  | .checkpointTransferDone => true
  | .bankmodeWrite _ _ => true
  | .bankModeChange _ _ => true
  | .loggiaEvict _ => true
  | .preemptreqWrite _ => true
  | .trapgrpWrite _ _ => true
  | .regvalWrite _ _ => true
  | .registerWrite _ _ => true
  | .mailboxRemoveCore _ _ => true
  | .mailboxUndefinedRequest _ _ => true
  | .coreRemoval _ => true
  | .scanChunkComplete _ => true
  | .scanChunkAbort _ => true
  | .rollback _ => true
  | .rollbackRestore _ => true
  | .hbmUncorrectableError _ _ _ => true
  | .sramUncorrectableError _ => true
  | .warmReset => true
  | .powerOn _ => true
  | .thermalThrottle _ => true
  | .thermalRecovery _ => true
  | .thermalShutdown _ => true
  | .getState => true
  | .getFailrec => true
  | .getCoremap => true
  | .getLog => true
  | .stageImage _ => true
  | .stageMicrocode _ => true
  | .microcodeSwitch _ => true
  | .recal _ _ => true
  | .recalComplete => true
  | .setTokens _ _ _ => true
  | .routeTableLoad _ _ => true
  | .multicastEntryLoad _ _ => true
  | .treeEntryLoad _ _ => true
  | .inboundWindowLoad _ _ _ => true
  | .getVersion => true
  | .getCapabilities => true
  | .negotiateAlgorithms _ _ => true
  | .getDigests => true
  | .getCertificate _ => true
  | .challenge _ _ => true
  | .getMeasurements _ _ => true
  | .spdmUnsupportedRequest _ => true
  | .illegalEncoding _ => true
  | .cxlDataResponse _ _ _ => true
  | .gangSwapReply _ _ _ => true

end Sys2Proof
end

