-- ==== Sys2Proof/Decode.lean ====
section
/-! DEFINITION. Decoding the two instruction sets (R33 to R62), total on any words, and the encoder. Every field is
read here, once; a word that `Instr.wellFormed` rejects is named by why it is rejected (R65). -/

namespace Sys2Proof

/-- Bits [hi:lo] of a word, `n` of them from `lo`. -/
def bitsAt (w lo n : Nat) : Nat := w / 2 ^ lo % 2 ^ n

/-- Bit `i` of a word. -/
def bitAt (w i : Nat) : Bool := bitsAt w i 1 == 1

/-- Why a word is not an instruction (R65). -/
inductive DecodeErr where
  /-- a reserved lane opcode, or op7 0x00 with other bits set (R35, R61) -/
  | laneOpcode
  /-- a reserved uniform opcode, function or form (R35, R62) -/
  | uniformOpcode
  /-- an unused field, a reserved value, a register parity or an extension that the opcode does not accept -/
  | field
deriving DecidableEq, Repr

/-- The answer of the decoder: an instruction and its length in bytes, or the reason the word is ILLEGAL. -/
inductive Decoded where
  | ok (i : Instr) (len : Nat)
  | bad (e : DecodeErr)
deriving DecidableEq, Repr

/-- Reads an extension word by its kind (R41, R43, R46, R47, R49). -/
def parseExt (e : Nat) : LExt :=
  match bitsAt e 30 2 with
  | 0 => .src (bitsAt e 24 6) (bitsAt e 21 3) (bitsAt e 15 6) (bitsAt e 12 3) (bitsAt e 6 6) (bitsAt e 3 3)
      (bitAt e 2) (bitAt e 1) (bitAt e 0)
  | 1 => .imm (bitsAt e 0 30)
  | 2 => .mem (bitsAt e 27 3) (bitsAt e 24 3) (bitsAt e 22 2) (bitsAt e 18 4) (bitsAt e 16 2) (bitsAt e 0 16)
  | _ => .cvt (bitsAt e 26 4) (bitsAt e 22 4) (bitsAt e 19 3) (bitAt e 18) (bitsAt e 16 2) (bitsAt e 14 2)
      (bitsAt e 8 6) (bitsAt e 0 8)

/-- Reads the fields of a lane word (R36, R40) and of its extension when x is set. -/
def parseLane (w e : Nat) : LaneOp :=
  { d := bitsAt w 18 6, a := bitsAt w 12 6, b := bitsAt w 6 6, g := bitsAt w 3 3, gn := bitAt w 2, s := bitAt w 0
    x := if bitAt w 1 then parseExt e else .none }

/-- Reads the fields of a uniform word (R50). -/
def parseU (w : Nat) : UOp :=
  { d := bitsAt w 20 5, a := bitsAt w 15 5, b := bitsAt w 10 5, f := bitsAt w 0 10 }

/-- `plop` forms by the function in b (R131). -/
def decodePlop (o : LaneOp) : Option Instr :=
  match o.b with
  | 0 => some (.plopAnd o)
  | 1 => some (.plopOr o)
  | 2 => some (.plopXor o)
  | 3 => some (.plopNot o)
  | _ => none

/-- The lane opcode map (R61). -/
def decodeLane (op : Nat) (o : LaneOp) : Option Instr :=
  match op with
  | 0 => some (.ill o)
  | 1 => some (.iadd o)
  | 2 => some (.isub o)
  | 3 => some (.imul o)
  | 4 => some (.imulhu o)
  | 5 => some (.imulhs o)
  | 6 => some (.imad o)
  | 7 => some (.idivu o)
  | 8 => some (.idivs o)
  | 9 => some (.iremu o)
  | 10 => some (.irems o)
  | 11 => some (.imin o)
  | 12 => some (.imax o)
  | 13 => some (.umin o)
  | 14 => some (.umax o)
  | 15 => some (.iabs o)
  | 16 => some (.ineg o)
  | 17 => some (.and o)
  | 18 => some (.or o)
  | 19 => some (.xor o)
  | 20 => some (.andn o)
  | 21 => some (.not o)
  | 22 => some (.shl o)
  | 23 => some (.shr o)
  | 24 => some (.sar o)
  | 25 => some (.rotl o)
  | 26 => some (.popc o)
  | 27 => some (.clz o)
  | 28 => some (.brev o)
  | 29 => some (.bfxu o)
  | 30 => some (.bfxs o)
  | 31 => some (.bfi o)
  | 32 => some (.lea1 o)
  | 33 => some (.lea2 o)
  | 34 => some (.lea4 o)
  | 35 => some (.lea8 o)
  | 36 => some (.icmp o)
  | 37 => some (.sel o)
  | 38 => decodePlop o
  | 39 => some (.mov o)
  | 48 => some (.fadd o)
  | 49 => some (.fsub o)
  | 50 => some (.fmul o)
  | 51 => some (.ffma o)
  | 52 => some (.fmin o)
  | 53 => some (.fmax o)
  | 54 => some (.fabs o)
  | 55 => some (.fneg o)
  | 56 => some (.fcmp o)
  | 57 => some (.frcp o)
  | 58 => some (.frsq o)
  | 59 => some (.fsqrt o)
  | 60 => some (.fex2 o)
  | 61 => some (.flg2 o)
  | 62 => some (.fdiv o)
  | 63 => some (.fclass o)
  | 64 => some (.hadd2 o)
  | 65 => some (.hmul2 o)
  | 66 => some (.hfma2 o)
  | 67 => some (.hmin2 o)
  | 68 => some (.hmax2 o)
  | 69 => some (.hdot2 o)
  | 72 => some (.cvt o)
  | 80 => some (.bamax o)
  | 81 => some (.bscale o)
  | 82 => some (.bquant o)
  | 83 => some (.bpack o)
  | 84 => some (.bunpack o)
  | 85 => some (.bdeq o)
  | 88 => some (.shfl o)
  | 89 => some (.vote o)
  | 90 => some (.gred o)
  | 91 => some (.gscan o)
  | 92 => some (.gbcast o)
  | 96 => some (.push o)
  | 97 => some (.pull o)
  | 98 => some (.ptry o)
  | 104 => some (.ld o)
  | 105 => some (.st o)
  | 106 => some (.atom o)
  | 107 => some (.red o)
  | 108 => some (.cas o)
  | 109 => some (.pref o)
  | 110 => some (.ldtag o)
  | 111 => some (.fewait o)
  | 112 => some (.cbget o)
  | 113 => some (.cbput o)
  | 114 => some (.cbrel o)
  | 115 => some (.jmpr o)
  | 116 => some (.mmfeed o)
  | 117 => some (.mmread o)
  | 120 => some (.bra o)
  | 121 => some (.call o)
  | 122 => some (.ret o)
  | 123 => some (.callr o)
  | 124 => some (.join o)
  | 125 => some (.exit o)
  | 126 => some (.gcall o)
  | 127 => some (.bkpt o)
  | _ => none

/-- The function field f3 of format U-I (R50). -/
def UOp.f3 (u : UOp) : Nat := u.b / 4

/-- imm12 of format U-I, as the field's bits (R50). -/
def UOp.imm12 (u : UOp) : Nat := u.b % 4 * 1024 + u.f

/-- imm20 of format U-H, as the field's bits (R50). -/
def UOp.imm20 (u : UOp) : Nat := u.a * 2 ^ 15 + u.b * 2 ^ 10 + u.f

/-- off25 of format U-J, as the field's bits (R50). -/
def UOp.off25 (u : UOp) : Nat := u.d * 2 ^ 20 + u.a * 2 ^ 15 + u.b * 2 ^ 10 + u.f

/-- Function forms of `kalu` (R62, R153). -/
def decodeKalu (u : UOp) : Option Instr :=
  match u.f with
  | 0 => some (.kaluAdd u)
  | 1 => some (.kaluSub u)
  | 2 => some (.kaluMul u)
  | 3 => some (.kaluMulhu u)
  | 4 => some (.kaluMulhs u)
  | 5 => some (.kaluAnd u)
  | 6 => some (.kaluOr u)
  | 7 => some (.kaluXor u)
  | 8 => some (.kaluShl u)
  | 9 => some (.kaluShr u)
  | 10 => some (.kaluSar u)
  | 11 => some (.kaluMin u)
  | 12 => some (.kaluMax u)
  | 13 => some (.kaluMinu u)
  | 14 => some (.kaluMaxu u)
  | 15 => some (.kaluSlt u)
  | 16 => some (.kaluSltu u)
  | _ => none

/-- Function forms of `kalui` (R52). -/
def decodeKalui (u : UOp) : Option Instr :=
  match u.f3 with
  | 0 => some (.kaluiAddi u)
  | 1 => some (.kaluiAndi u)
  | 2 => some (.kaluiOri u)
  | 3 => some (.kaluiXori u)
  | 4 => some (.kaluiSlti u)
  | 5 => some (.kaluiSltiu u)
  | 6 => some (.kaluiShli u)
  | 7 => if u.imm12 / 64 % 2 == 1 then some (.kaluiSari u) else some (.kaluiShri u)
  | _ => none

/-- Function forms of `mmconv` (R62, R196). -/
def decodeMmconv (u : UOp) : Option Instr :=
  match u.f3 with
  | 0 => some (.mmconvJoin u)
  | 1 => some (.mmconvLeave u)
  | _ => none

/-- Function forms of `mmwait` (R62, R204). -/
def decodeMmwait (u : UOp) : Option Instr :=
  match u.f3 with
  | 0 => some (.mmwait u)
  | 1 => some (.mmwaitTest u)
  | _ => none

/-- Function forms of `mchkfix` (R197). -/
def decodeMchkfix (u : UOp) : Option Instr :=
  if u.f / 8 % 2 == 1 then some (.mchkfixVal u) else some (.mchkfixAuto u)

/-- Function forms of `qwait` (R62, R291). -/
def decodeQwait (u : UOp) : Option Instr :=
  match u.f3 with
  | 0 => some (.qwait u)
  | 1 => some (.qwaitTest u)
  | _ => none

/-- Function forms of `bar` (R62, R376). -/
def decodeBar (u : UOp) : Option Instr :=
  match u.f3 with
  | 0 => some (.barSync u)
  | 1 => some (.barArr u)
  | _ => none

/-- Function forms of `yield` (R62, R378). -/
def decodeYield (u : UOp) : Option Instr :=
  match u.f3 with
  | 0 => some (.yield u)
  | 1 => some (.yieldSwap u)
  | _ => none

/-- Function forms of `gang` (R62, R387). -/
def decodeGang (u : UOp) : Option Instr :=
  match u.f3 with
  | 0 => some (.gangJoin u)
  | 1 => some (.gangDetach u)
  | 2 => some (.gangSync u)
  | 3 => some (.gangQuery u)
  | _ => none

/-- Function forms of `winmap` (R62, R388). -/
def decodeWinmap (u : UOp) : Option Instr :=
  match u.f with
  | 0 => some (.winmapSet u)
  | 1 => some (.winmapAddr u)
  | _ => none

/-- Function forms of `csrw` (R62, R428). -/
def decodeCsrw (u : UOp) : Option Instr :=
  match u.f3 with
  | 0 => some (.csrw u)
  | 1 => some (.csrwSet u)
  | 2 => some (.csrwClr u)
  | _ => none

/-- Function forms of `rte` (R62, R436). -/
def decodeRte (u : UOp) : Option Instr :=
  match u.f3 with
  | 0 => some (.rteReplay u)
  | 1 => some (.rteSkip u)
  | 2 => some (.rteKill u)
  | 3 => some (.rteEnd u)
  | _ => none

/-- Function forms of `scant` (R62, R445). -/
def decodeScant (u : UOp) : Option Instr :=
  match u.f with
  | 0 => some (.scantStart u)
  | 1 => some (.scantChunk u)
  | 2 => some (.scantCheck u)
  | 3 => some (.scantEnd u)
  | _ => none

/-- The uniform opcode map (R62). -/
def decodeU (op : Nat) (u : UOp) : Option Instr :=
  match op with
  | 1 => decodeKalu u
  | 2 => decodeKalui u
  | 3 => some (.klui u)
  | 4 => some (.kauipc u)
  | 5 => some (.kld u)
  | 6 => some (.kst u)
  | 7 => some (.kldc u)
  | 8 => some (.kread u)
  | 9 => some (.kballot u)
  | 12 => some (.bru u)
  | 13 => some (.ju u)
  | 14 => some (.jur u)
  | 15 => some (.loop u)
  | 24 => decodeMmconv u
  | 25 => some (.mmpost u)
  | 26 => some (.mmldb u)
  | 27 => decodeMmwait u
  | 28 => some (.mmdrain u)
  | 29 => some (.mmzero u)
  | 30 => some (.mchkloc u)
  | 31 => decodeMchkfix u
  | 32 => some (.mmretry u)
  | 36 => some (.xpost u)
  | 37 => some (.xgath u)
  | 38 => some (.qfence u)
  | 39 => decodeQwait u
  | 40 => some (.cpost u)
  | 44 => decodeBar u
  | 45 => some (.acq u)
  | 46 => some (.rel u)
  | 47 => some (.bind u)
  | 48 => some (.unbind u)
  | 49 => some (.fence u)
  | 50 => some (.spawn u)
  | 51 => decodeYield u
  | 52 => some (.part u)
  | 53 => decodeGang u
  | 54 => decodeWinmap u
  | 55 => some (.seed u)
  | 56 => some (.csrr u)
  | 57 => decodeCsrw u
  | 58 => some (.capset u)
  | 59 => some (.trap u)
  | 60 => decodeRte u
  | 61 => decodeScant u
  | 62 => some (.cancel u)
  | _ => none

/-- Decodes the instruction at a first word `w`; `e` is the word after it, read only when x is set (R33, R34). -/
def decode (w e : Nat) : Decoded :=
  if bitAt w 31 then
    match decodeU (bitsAt w 25 6) (parseU w) with
    | none => .bad .uniformOpcode
    | some i => if i.wellFormed then .ok i 4 else .bad .field
  else
    match decodeLane (bitsAt w 24 7) (parseLane w e) with
    | none => .bad .laneOpcode
    | some i => if i.wellFormed then .ok i (if bitAt w 1 then 8 else 4) else .bad .field

/-- Extensions that refuse the least of a lane word, by kind: what makes a first word ILLEGAL under all of these makes it so under every
extension. -/
def plainExts : List LExt :=
  [.src 0 0 0 0 0 0 false false false, .imm 0, .mem 0 0 0 0 0 0, .mem 1 0 0 0 0 0, .mem 4 0 0 0 0 0,
   .cvt 0 0 0 false 0 0 0 0, .cvt 0 8 0 false 0 0 0 0, .cvt 8 8 0 false 0 0 0 0, .cvt 8 0 0 false 0 0 0 0]

/-- A lane word with x = 1 that no extension makes an instruction: it is ILLEGAL before its extension is fetched (R42, R64). -/
def firstBad (w : Nat) : Bool :=
  !(plainExts.any fun x => match decodeLane (bitsAt w 24 7) { parseLane w 0 with x := x } with
    | some i => i.wellFormed
    | none => false)

/-- A bit as a number. -/
def bnat (b : Bool) : Nat := if b then 1 else 0

/-- The extension word (R41, R43, R46, R47, R49). -/
def encodeExt : LExt → List Nat
  | .none => []
  | .src c am ap bm bp cm ta tb tc =>
    [c * 2 ^ 24 + am * 2 ^ 21 + ap * 2 ^ 15 + bm * 2 ^ 12 + bp * 2 ^ 6 + cm * 2 ^ 3 + bnat ta * 4 + bnat tb * 2 + bnat tc]
  | .imm v => [2 ^ 30 + v]
  | .mem sp sc od ao hi di => [2 ^ 31 + sp * 2 ^ 27 + sc * 2 ^ 24 + od * 2 ^ 22 + ao * 2 ^ 18 + hi * 2 ^ 16 + di]
  | .cvt sf df rd sa sb bz c ox =>
    [2 ^ 31 + 2 ^ 30 + sf * 2 ^ 26 + df * 2 ^ 22 + rd * 2 ^ 19 + bnat sa * 2 ^ 18 + sb * 2 ^ 16 + bz * 2 ^ 14 +
      c * 2 ^ 8 + ox]

/-- The words of a lane instruction with major opcode `op` (R36). -/
def encodeLane (op : Nat) (o : LaneOp) : List Nat :=
  (op * 2 ^ 24 + o.d * 2 ^ 18 + o.a * 2 ^ 12 + o.b * 2 ^ 6 + o.g * 2 ^ 3 + bnat o.gn * 4 + bnat (o.x != .none) * 2 +
    bnat o.s) :: encodeExt o.x

/-- The word of a uniform instruction with major opcode `op` (R50). -/
def encodeU (op : Nat) (u : UOp) : List Nat :=
  [2 ^ 31 + op * 2 ^ 25 + u.d * 2 ^ 20 + u.a * 2 ^ 15 + u.b * 2 ^ 10 + u.f]

/-- The words of a well-formed instruction; an event has none. -/
def encode (i : Instr) : List Nat :=
  match i with
  | .ill o => encodeLane 0 o
  | .iadd o => encodeLane 1 o
  | .isub o => encodeLane 2 o
  | .imul o => encodeLane 3 o
  | .imulhu o => encodeLane 4 o
  | .imulhs o => encodeLane 5 o
  | .imad o => encodeLane 6 o
  | .idivu o => encodeLane 7 o
  | .idivs o => encodeLane 8 o
  | .iremu o => encodeLane 9 o
  | .irems o => encodeLane 10 o
  | .imin o => encodeLane 11 o
  | .imax o => encodeLane 12 o
  | .umin o => encodeLane 13 o
  | .umax o => encodeLane 14 o
  | .iabs o => encodeLane 15 o
  | .ineg o => encodeLane 16 o
  | .and o => encodeLane 17 o
  | .or o => encodeLane 18 o
  | .xor o => encodeLane 19 o
  | .andn o => encodeLane 20 o
  | .not o => encodeLane 21 o
  | .shl o => encodeLane 22 o
  | .shr o => encodeLane 23 o
  | .sar o => encodeLane 24 o
  | .rotl o => encodeLane 25 o
  | .popc o => encodeLane 26 o
  | .clz o => encodeLane 27 o
  | .brev o => encodeLane 28 o
  | .bfxu o => encodeLane 29 o
  | .bfxs o => encodeLane 30 o
  | .bfi o => encodeLane 31 o
  | .lea1 o => encodeLane 32 o
  | .lea2 o => encodeLane 33 o
  | .lea4 o => encodeLane 34 o
  | .lea8 o => encodeLane 35 o
  | .icmp o => encodeLane 36 o
  | .sel o => encodeLane 37 o
  | .plopAnd o => encodeLane 38 o
  | .plopOr o => encodeLane 38 o
  | .plopXor o => encodeLane 38 o
  | .plopNot o => encodeLane 38 o
  | .mov o => encodeLane 39 o
  | .fadd o => encodeLane 48 o
  | .fsub o => encodeLane 49 o
  | .fmul o => encodeLane 50 o
  | .ffma o => encodeLane 51 o
  | .fmin o => encodeLane 52 o
  | .fmax o => encodeLane 53 o
  | .fabs o => encodeLane 54 o
  | .fneg o => encodeLane 55 o
  | .fcmp o => encodeLane 56 o
  | .frcp o => encodeLane 57 o
  | .frsq o => encodeLane 58 o
  | .fsqrt o => encodeLane 59 o
  | .fex2 o => encodeLane 60 o
  | .flg2 o => encodeLane 61 o
  | .fdiv o => encodeLane 62 o
  | .fclass o => encodeLane 63 o
  | .hadd2 o => encodeLane 64 o
  | .hmul2 o => encodeLane 65 o
  | .hfma2 o => encodeLane 66 o
  | .hmin2 o => encodeLane 67 o
  | .hmax2 o => encodeLane 68 o
  | .hdot2 o => encodeLane 69 o
  | .cvt o => encodeLane 72 o
  | .bamax o => encodeLane 80 o
  | .bscale o => encodeLane 81 o
  | .bquant o => encodeLane 82 o
  | .bpack o => encodeLane 83 o
  | .bunpack o => encodeLane 84 o
  | .bdeq o => encodeLane 85 o
  | .shfl o => encodeLane 88 o
  | .vote o => encodeLane 89 o
  | .gred o => encodeLane 90 o
  | .gscan o => encodeLane 91 o
  | .gbcast o => encodeLane 92 o
  | .push o => encodeLane 96 o
  | .pull o => encodeLane 97 o
  | .ptry o => encodeLane 98 o
  | .ld o => encodeLane 104 o
  | .st o => encodeLane 105 o
  | .atom o => encodeLane 106 o
  | .red o => encodeLane 107 o
  | .cas o => encodeLane 108 o
  | .pref o => encodeLane 109 o
  | .ldtag o => encodeLane 110 o
  | .fewait o => encodeLane 111 o
  | .cbget o => encodeLane 112 o
  | .cbput o => encodeLane 113 o
  | .cbrel o => encodeLane 114 o
  | .jmpr o => encodeLane 115 o
  | .mmfeed o => encodeLane 116 o
  | .mmread o => encodeLane 117 o
  | .bra o => encodeLane 120 o
  | .call o => encodeLane 121 o
  | .ret o => encodeLane 122 o
  | .callr o => encodeLane 123 o
  | .join o => encodeLane 124 o
  | .exit o => encodeLane 125 o
  | .gcall o => encodeLane 126 o
  | .bkpt o => encodeLane 127 o
  | .kaluAdd u => encodeU 1 u
  | .kaluSub u => encodeU 1 u
  | .kaluMul u => encodeU 1 u
  | .kaluMulhu u => encodeU 1 u
  | .kaluMulhs u => encodeU 1 u
  | .kaluAnd u => encodeU 1 u
  | .kaluOr u => encodeU 1 u
  | .kaluXor u => encodeU 1 u
  | .kaluShl u => encodeU 1 u
  | .kaluShr u => encodeU 1 u
  | .kaluSar u => encodeU 1 u
  | .kaluMin u => encodeU 1 u
  | .kaluMax u => encodeU 1 u
  | .kaluMinu u => encodeU 1 u
  | .kaluMaxu u => encodeU 1 u
  | .kaluSlt u => encodeU 1 u
  | .kaluSltu u => encodeU 1 u
  | .kaluiAddi u => encodeU 2 u
  | .kaluiAndi u => encodeU 2 u
  | .kaluiOri u => encodeU 2 u
  | .kaluiXori u => encodeU 2 u
  | .kaluiSlti u => encodeU 2 u
  | .kaluiSltiu u => encodeU 2 u
  | .kaluiShli u => encodeU 2 u
  | .kaluiShri u => encodeU 2 u
  | .kaluiSari u => encodeU 2 u
  | .klui u => encodeU 3 u
  | .kauipc u => encodeU 4 u
  | .kld u => encodeU 5 u
  | .kst u => encodeU 6 u
  | .kldc u => encodeU 7 u
  | .kread u => encodeU 8 u
  | .kballot u => encodeU 9 u
  | .bru u => encodeU 12 u
  | .ju u => encodeU 13 u
  | .jur u => encodeU 14 u
  | .loop u => encodeU 15 u
  | .mmconvJoin u => encodeU 24 u
  | .mmconvLeave u => encodeU 24 u
  | .mmpost u => encodeU 25 u
  | .mmldb u => encodeU 26 u
  | .mmwait u => encodeU 27 u
  | .mmwaitTest u => encodeU 27 u
  | .mmdrain u => encodeU 28 u
  | .mmzero u => encodeU 29 u
  | .mchkloc u => encodeU 30 u
  | .mchkfixAuto u => encodeU 31 u
  | .mchkfixVal u => encodeU 31 u
  | .mmretry u => encodeU 32 u
  | .xpost u => encodeU 36 u
  | .xgath u => encodeU 37 u
  | .qfence u => encodeU 38 u
  | .qwait u => encodeU 39 u
  | .qwaitTest u => encodeU 39 u
  | .cpost u => encodeU 40 u
  | .barSync u => encodeU 44 u
  | .barArr u => encodeU 44 u
  | .acq u => encodeU 45 u
  | .rel u => encodeU 46 u
  | .bind u => encodeU 47 u
  | .unbind u => encodeU 48 u
  | .fence u => encodeU 49 u
  | .spawn u => encodeU 50 u
  | .yield u => encodeU 51 u
  | .yieldSwap u => encodeU 51 u
  | .part u => encodeU 52 u
  | .gangJoin u => encodeU 53 u
  | .gangDetach u => encodeU 53 u
  | .gangSync u => encodeU 53 u
  | .gangQuery u => encodeU 53 u
  | .winmapSet u => encodeU 54 u
  | .winmapAddr u => encodeU 54 u
  | .seed u => encodeU 55 u
  | .csrr u => encodeU 56 u
  | .csrw u => encodeU 57 u
  | .csrwSet u => encodeU 57 u
  | .csrwClr u => encodeU 57 u
  | .capset u => encodeU 58 u
  | .trap u => encodeU 59 u
  | .rteReplay u => encodeU 60 u
  | .rteSkip u => encodeU 60 u
  | .rteKill u => encodeU 60 u
  | .rteEnd u => encodeU 60 u
  | .scantStart u => encodeU 61 u
  | .scantChunk u => encodeU 61 u
  | .scantCheck u => encodeU 61 u
  | .scantEnd u => encodeU 61 u
  | .cancel u => encodeU 62 u
  | .resultLands _ => []
  | .waitDeadlockRelease _ => []
  | .yieldExpiry _ => []
  | .homeAccess _ => []
  | .reductionFlush _ _ => []
  | .reductionEntryAgeExpiry _ _ => []
  | .wcbDrain _ _ => []
  | .wcbEntryAgeExpiry _ _ => []
  | .pageWalk _ _ _ _ => []
  | .pageRequestResponse _ _ _ => []
  | .atsInvalidation _ _ _ => []
  | .tlbInvalidation _ _ _ => []
  | .launchEntryAccept _ _ => []
  | .teamDispatch _ => []
  | .teamPlacement _ _ => []
  | .loggiaLoad _ _ _ => []
  | .sliceExpiry _ => []
  | .teamSwap _ _ => []
  | .faultWaitSwap _ => []
  | .imageSaveDone _ => []
  | .teamRestore _ _ => []
  | .supervisorEntry _ => []
  | .cancelDelivery _ => []
  | .launchCounterComplete _ => []
  | .matrixAccept _ _ => []
  | .reservationAging _ _ => []
  | .reservationGrant _ _ => []
  | .tokenTake _ => []
  | .burstStart _ => []
  | .burstEnd _ => []
  | .feedFetchLands _ _ => []
  | .rowGroupStream _ => []
  | .passComplete _ => []
  | .bLoadComplete _ => []
  | .tileZeroComplete _ => []
  | .retryRestoreComplete _ => []
  | .elementFixComplete _ => []
  | .drainCheckEnd _ => []
  | .drainCommit _ => []
  | .engineAccept _ => []
  | .transferComplete _ => []
  | .collectiveComplete _ => []
  | .collectivePacketArrival _ _ _ _ _ _ _ => []
  | .fabricRequestArrival _ _ _ _ _ _ _ _ _ _ _ => []
  | .fabricResponseArrival _ _ _ _ => []
  | .transactionTimeout _ _ => []
  | .relayForward _ _ _ => []
  | .multicastDelivery _ _ _ _ _ _ => []
  | .linkStateChange _ _ => []
  | .accept _ _ _ _ _ _ => []
  | .ready _ _ _ => []
  | .go _ _ => []
  | .release _ _ => []
  | .gangSwapRequest _ _ => []
  | .gangCancelMessage _ => []
  | .memberDepartedReport _ _ => []
  | .hostMemAccess _ _ _ _ => []
  | .backInvalidateResponse _ _ => []
  | .hostSnoop _ => []
  | .gcallReply _ _ => []
  | .queueProducerWrite _ _ _ => []
  | .queueEnable _ _ => []
  | .cancelRegisterWrite _ _ => []
  | .contextDescriptorWrite _ _ => []
  | .teardown _ => []
  | .checkpointDeviceToHost _ => []
  | .checkpointHostToDevice _ _ _ => []
  | .checkpointTransferDone => []
  | .bankmodeWrite _ _ => []
  | .bankModeChange _ _ => []
  | .loggiaEvict _ => []
  | .preemptreqWrite _ => []
  | .trapgrpWrite _ _ => []
  | .regvalWrite _ _ => []
  | .registerWrite _ _ => []
  | .mailboxRemoveCore _ _ => []
  | .mailboxUndefinedRequest _ _ => []
  | .coreRemoval _ => []
  | .scanChunkComplete _ => []
  | .scanChunkAbort _ => []
  | .rollback _ => []
  | .rollbackRestore _ => []
  | .hbmUncorrectableError _ _ _ => []
  | .sramUncorrectableError _ => []
  | .warmReset => []
  | .powerOn _ => []
  | .thermalThrottle _ => []
  | .thermalRecovery _ => []
  | .thermalShutdown _ => []
  | .getState => []
  | .getFailrec => []
  | .getCoremap => []
  | .getLog => []
  | .stageImage _ => []
  | .stageMicrocode _ => []
  | .microcodeSwitch _ => []
  | .recal _ _ => []
  | .recalComplete => []
  | .setTokens _ _ _ => []
  | .routeTableLoad _ _ => []
  | .multicastEntryLoad _ _ => []
  | .treeEntryLoad _ _ => []
  | .inboundWindowLoad _ _ _ => []
  | .getVersion => []
  | .getCapabilities => []
  | .negotiateAlgorithms _ _ => []
  | .getDigests => []
  | .getCertificate _ => []
  | .challenge _ _ => []
  | .getMeasurements _ _ => []
  | .spdmUnsupportedRequest _ => []
  | .illegalEncoding _ => []
  | .cxlDataResponse _ _ _ => []
  | .gangSwapReply _ _ _ => []

/-- The constructors that stand for instruction words. -/
def Instr.isWord (i : Instr) : Bool := !(encode i).isEmpty

/-- The words as the hardware stores them: each little-endian, the first at the lowest address (R4, R33). -/
def wordBytes (w : Nat) : List Byte :=
  [BitVec.ofNat 8 w, BitVec.ofNat 8 (w / 2 ^ 8), BitVec.ofNat 8 (w / 2 ^ 16), BitVec.ofNat 8 (w / 2 ^ 24)]

/-- A word from four little-endian bytes (R4). -/
def wordOfBytes (l : List Byte) : Nat :=
  match l with
  | b0 :: b1 :: b2 :: b3 :: _ => b0.toNat + b1.toNat * 2 ^ 8 + b2.toNat * 2 ^ 16 + b3.toNat * 2 ^ 24
  | _ => 0

/-- The instruction the decoder reads from bits numbered as spec/opcode_table.json numbers them: bit 0 the least
significant bit of the first word, a second word from bit 32 on; bits above `nbits` are zero. -/
def decodeTableWord (nbits w : Nat) : Option Instr :=
  let v := w % 2 ^ nbits
  let bytes := wordBytes (v % 2 ^ 32) ++ wordBytes (v / 2 ^ 32 % 2 ^ 32)
  match decode (wordOfBytes bytes) (wordOfBytes (bytes.drop 4)) with
  | .ok i _ => some i
  | .bad _ => none

end Sys2Proof
end

