-- ==== Sys2Proof/Machine/State.lean ====
section
/-! DEFINITION. The state of one Zukor Z4 as plain data, its reasons to stop, and the state after reset. Names follow
the manual; the register fields' reset values are those of the manual's field maps and of R30. -/

namespace Sys2Proof.Machine

/-- Reasons a step stops the machine. None of the manual's traps is here: a trap is a next state (R455). -/
inductive Fault where
  /-- raised by `step` in the safe state (R492), which only power-on leaves: nothing executes. Safe: the model stops
  where the device idles. -/
  | safeState
deriving DecidableEq, Repr

/-- Reasons the model gives an instruction no meaning. -/
inductive Refusal where
  /-- the instruction has no meaning in this model. Safe. -/
  | notModelled (mnemonic : String)
deriving DecidableEq, Repr

/-- Trap causes (R457). -/
inductive Cause where
  | illegal | uniformDiverged | emptyRead | spill | fill | xlat | perm | capInvalid | gangDeparted | poison | cmpFrame
  | mxCheck | bound | align | engine | gcall | bkpt | trap | cancel | preempt | priv
deriving DecidableEq, Repr

/-- The register a result was named into at issue (R20): a global, or a logical slot of the lane's stack (R17). -/
inductive Slot where
  | glob (n : Nat)
  | stack (s : Nat)
deriving DecidableEq, Repr

/-- The target of a translation (R306, R415). -/
inductive Target where
  | dpa (a : Nat)
  | peer (dev off : Nat)
  | mcast (grp off : Nat)
  | host (a : Nat)
deriving DecidableEq, Repr

/-- Who reads a line of another device or of host memory by a request of its own, other than a lane's or a group's own access (R307, R323,
R419). -/
inductive Reader where
  /-- the code fetch of a group, and its private memory -/
  | code (g : Nat)
  | prv (g : Nat)
  /-- a page walk for a 4 KiB page of a context on a die; it also takes ownership of a host entry whose bits it sets (R417) -/
  | walk (die ctx vpn : Nat)
  /-- an engine operation, by its code (R290): its own reads, and those of a gang's window on another device -/
  | op (code : Nat)
  | win (code : Nat)
  /-- the fetch of a matrix feed, by its number -/
  | feed (cl no : Nat)
  /-- a launch queue's acceptance, and a launch counter's completion -/
  | queue (k : Nat)
  | counter (c : Nat)
deriving DecidableEq, Repr

/-- What a blocked lane awaits (R344). -/
inductive Why where
  /-- registers of the group, by lane and slot, that must be full (R20) -/
  | regs (l : List (Nat × Slot))
  /-- a pending-pull entry of its own port (R382) -/
  | pulls (port : Nat)
  /-- room in FIFO `q` of the peer lane of a push; the push executes again (R381) -/
  | room (group lane q : Nat)
  /-- FILLED above 0, or FREE above 0, in a bank (R224) -/
  | filled (cl bank : Nat)
  | free (cl bank : Nat)
  /-- the mailbox slot of the next SEQ, or the allowance of the entry (R410, R441) -/
  | mail (ch : Nat)
  /-- the set's pass, or its bow slot (R201) -/
  | feed (seq row : Nat)
  /-- the restore of the whole gang, for a window access (R260) -/
  | parkedGang
  /-- a page request of this context and 4 KiB page (R267) -/
  | page (ctx vpn : Nat)
  /-- the core's stores performed and its fabric and host writes acknowledged (R247) -/
  | acks
  /-- the host's answer to a back-invalidate snoop of a device line (R324) -/
  | snoop (line : Nat)
  /-- the answer to a line that `r` reads from another device or the host -/
  | answer (r : Reader)
  /-- the earlier stores of the lane to TSO pages performed (R256, R307); lane 64 stands for the group -/
  | tso (gid lane : Nat)
  /-- the core's reduction flushes to a line of another device or of the host performed (R253) -/
  | flush (t : Target)
  /-- free miss entries in the TLBs of a core (R419) -/
  | missRoom (core : Nat)
  /-- the die's walk of a context's 4 KiB page, for which no walker is free (R419) -/
  | walker (die ctx vpn : Nat)
  /-- what the lane of the same run that this number names awaits (R278) -/
  | mate (lane : Nat)
  /-- the end of the cycle, when the values pushed in it enter their FIFOs (R380) -/
  | pushing
  /-- the answer of another device or the host to the lane's own access, which then retires (DESIGN CHOICE, log entry 11) -/
  | remote
deriving DecidableEq, Repr

/-- The state of a lane in its group's PC table (R344). -/
inductive LaneSt where
  | active
  | blocked (w : Why)
  /-- waits at a `join` or `.sync` collective of a group register -/
  | joining (n : Nat)
  | parked
  | exited
deriving DecidableEq, Repr

/-- One lane (R17, R20, R22, R344, R360, R380). -/
structure Lane where
  /-- byte offset within the code object (R14) -/
  pc : Word := 0
  st : LaneSt := .active
  /-- `v0` to `v7` -/
  globals : AMap Word := []
  /-- the register stack's D physical slots: logical slot s lies at s mod D -/
  slots : AMap Word := []
  /-- the registers whose full/empty bit is empty -/
  empty : List Slot := []
  w : Nat := 0
  rb : Nat := 0
  cdep : Nat := 0
  /-- `p0` to `p6`; bit 7 is unused -/
  preds : BitVec 8 := 0
  /-- issues of its group since the lane last issued, while active (R345: overdue at 1,024) -/
  waited : Nat := 0
  /-- registers that the producer at which the lane waits has marked empty; the mark is withdrawn when the lane leaves the wait
  (R20, R269, R344) -/
  marked : List Slot := []
  /-- the issue of the memory word at which the lane waits, which counts among the outstanding operations of its group (R303) -/
  op : Option Nat := none
  /-- its wait is over: the lane executes the awaited word without waiting (R363, R364) -/
  force : Bool := false
  /-- the 4 KiB page whose page request failed for this lane: its next use of the page traps (R325) -/
  failed : Option Nat := none
  /-- incoming FIFOs of the eight ports, oldest value first -/
  fifos : AMap (List Word) := []
  /-- pending pulls of the eight ports, oldest first -/
  pulls : AMap (List Slot) := []
deriving DecidableEq, Repr

/-- A group register: MEMBERS and the SIZE code (R23). -/
structure GReg where
  members : UWord := 0
  size : Nat := 0
deriving DecidableEq, Repr

/-- A trap record (R431, R432). -/
structure Record where
  cause : Cause
  pc : Word
  ext : Bool := false
  unif : Bool := false
  lanes : UWord := 0
  /-- TRAPADDR by lane -/
  addrs : AMap UWord := []
  status : Nat := 0
  entered : Bool := false
  age : Nat := 0
deriving DecidableEq, Repr

/-- A uniform word that holds its group (R347). -/
inductive Hold where
  | none
  /-- executes again when the queue's or the set's operation of this ticket has completed (R205, R291) -/
  | ticket (v : Nat)
  | mticket (v : Nat)
  /-- when its barrier, its gang's barrier or the forming of its gang lets it go on (R376, R387, R390) -/
  | bar
  | sync
  | gang
  /-- when the matrix operations before it have ended (R205) -/
  | matrix
  /-- when what a lane would await has come -/
  | wait (w : Why)
  /-- `yield #n`: a candidate again at this cycle of its core (R378) -/
  | yield (until_ : Nat)
  /-- a scan chunk runs on this core (R445) -/
  | scan (core : Nat)
  /-- a page request of a uniform access or of the code fetch -/
  | page (ctx vpn : Nat)
  /-- the answer of another device or the host to a uniform access, which then retires -/
  | load
  /-- acknowledgements awaited by a release -/
  | acks
  /-- the register of a lane that `kread` reads (R366) -/
  | reg (lane : Nat) (l : List Slot)
deriving DecidableEq, Repr

/-- Privilege of a group (R402). -/
inductive Priv where
  | user | supervisor
deriving DecidableEq, Repr

/-- A group: SIMT lanes in lock step and their shared registers (R14, R22 to R25, R429). -/
structure Group where
  team : Nat := 0
  kgrp : Nat := 0
  width : Nat := 8
  depth : Nat := 64
  priv : Priv := .user
  /-- the core where it runs, its first octet (R342) and its group slot, 0 to 31 (R345) -/
  core : Nat := 0
  octet : Nat := 0
  slot : Nat := 0
  lanes : List Lane := []
  /-- `k0` to `k23` -/
  uregs : AMap UWord := []
  /-- `g1` to `g7` -/
  gregs : AMap GReg := []
  flags : UWord := 0
  cvsub : UWord := 0
  srseed : UWord := 0
  bndidx : UWord := 0
  mxtol : AMap UWord := []
  /-- outstanding posts per queue (R27) -/
  qcnt : AMap Nat := []
  /-- posts given per queue, SEQ of the next ticket (R289) -/
  qseq : AMap Nat := []
  records : List Record := []
  hold : Hold := .none
  /-- resident and not ended; a group of a team in its loggia or swapped out is not resident -/
  resident : Bool := false
  ended : Bool := false
  /-- cycles as a lane candidate and as a uniform candidate without issuing (R345, R347) -/
  age : Nat := 0
  ageU : Nat := 0
  /-- its arrival at a team barrier: barrier and generation (R376) -/
  barAt : Option (Nat × Nat) := none
  /-- `gang.sync` generations issued, and the one awaited (R390) -/
  syncs : Nat := 0
  syncAt : Option Nat := none
  detached : Bool := false
  joinedGang : Bool := false
  /-- FIFO slots held, by bank number: the cluster and the slot, oldest first (R281, R467) -/
  held : AMap (List (Nat × Nat)) := []
  /-- the matrix set joined: cluster, slot and member number (R184) -/
  mset : Option (Nat × Nat × Nat) := none
  /-- an `mchkloc` awaits the operations before this one of the cluster's engine (R205) -/
  mwait : Option Nat := none
  /-- as `Lane.failed`, for uniform accesses and the code fetch -/
  failed : Option Nat := none
  /-- a lost or refused remote write not yet raised: cause and address (R313, R422) -/
  lost : Option (Cause × UWord) := none
  /-- PREEMPT is taken at the next boundary (R473) -/
  preempt : Bool := false
  /-- CANCEL reaches the group (R340) -/
  cancelled : Bool := false
  /-- queue masks of earlier `qfence`s with the operations before each (R290) -/
  fences : List (Nat × List Nat) := []
  /-- dirty private bytes by virtual address (R223) -/
  prvDirty : AMap Byte := []
  /-- virtual addresses of the private bytes that its evicted lines have left at their homes (R223) -/
  prvHome : List Nat := []
deriving DecidableEq, Repr

/-- Where a team stands (R341 to R343, R355, R391, R466). -/
inductive TeamSt where
  | pending | offered (die : Nat) | resident | loggia | outgoing | swapped | held | done
  /-- reserved for a spanning gang, not yet issuing (R395) -/
  | reserved
deriving DecidableEq, Repr

/-- A record of `gcall` awaiting its reply (R441, R442). -/
structure Mail where
  seq : Nat
  addr : Nat
  group : Nat
  cap : Nat
  /-- the destination of each lane -/
  dst : List (Nat × Slot)
deriving DecidableEq, Repr

/-- The launch that a supervisor slot's own team stands for: none (R459). -/
def noLaunch : Nat := 2 ^ 32

/-- A team (R14, R15, R221, R376, R385, R429, R443). -/
structure Team where
  launch : Nat := 0
  kteam : Nat := 0
  st : TeamSt := .pending
  core : Nat := 0
  prio : Nat := 0
  /-- order of residence, for the choice of a victim (R355) -/
  since : Nat := 0
  groups : List Nat := []
  scratch : AMap Byte := []
  banks : List Nat := []
  /-- generation and arrived groups of each barrier (R376) -/
  bars : AMap (Nat × List Nat) := []
  svcbase : UWord := 0
  svclogn : Nat := 0
  svcen : Bool := false
  svcnext : Nat := 0
  mail : List Mail := []
  spillbase : UWord := 0
  attached : Bool := false
  departed : Bool := false
  /-- the scratch offset exposed as its window slice (R388) -/
  slice : Option Nat := none
  /-- its image lies in a save frame: it is restored, not placed (R466) -/
  saved : Bool := false
  /-- it stands reserved after a restore (R396) -/
  image : Bool := false
  /-- it returned to pending at the head of its priority (R355, R435) -/
  head : Bool := false
  isSup : Bool := false
deriving DecidableEq, Repr

/-- A gang (R385 to R393). -/
structure Gang where
  launch : Nat := 0
  idx : Nat := 0
  n : Nat := 0
  rowLen : Nat := 0
  zsize : Nat := 0
  /-- every member has attached -/
  formed : Bool := false
  depEarly : Bool := false
  parked : Bool := false
  /-- GO given, for a gang that spans devices (R395) -/
  go : Bool := true
  swapReplies : List Nat := []
  /-- the first device has been asked for a swap (R396) -/
  asked : Bool := false
  /-- members of other devices reported departed (R396) -/
  gone : List Nat := []
  /-- members of other devices reported attached and detached, and the sync generation that each has reached (R387, R390, R391; DESIGN CHOICE, log
  entry 18) -/
  away : List Nat := []
  awayDet : List Nat := []
  reached : AMap Nat := []
  /-- members of other devices reported to have set their slice (R389) -/
  slices : List Nat := []
  /-- what this device has last told of its own members: the generation, and 1 for a detached one -/
  told : AMap Nat := []
  toldDet : List Nat := []
  /-- sync generations that the gang has completed (R390) -/
  syncDone : Nat := 0
deriving DecidableEq, Repr

/-- The fields of a launch entry (R335). -/
structure Entry where
  kind : Nat := 0
  prio : Nat := 0
  snap : Bool := false
  width : Nat := 8
  ngroups : Nat := 1
  depth : Nat := 64
  scratch : Nat := 0
  nteams : Nat := 1
  lcnt : Nat := 0
  gang : Nat := 0
  entry : Nat := 0
  code : Nat := 0
  pb : Nat := 0
  ps : Nat := 0
  cs : Nat := 0
  cb : Nat := 0
  capt : Nat := 0
  args : List UWord := []
  gdom : Nat := 0
  gkey : Nat := 0
deriving DecidableEq, Repr

/-- A capability entry (R406): its two words, the second zero in a loaded entry. -/
structure Cap where
  lo : UWord := 0
deriving DecidableEq, Repr

/-- A bound-table entry (R194). -/
structure Bnd where
  lo : Word := 0
  hi : Word := 0
  action : Nat := 0
  int : Bool := false
deriving DecidableEq, Repr

/-- A unit that a launch has snapshotted (R474, R476): its bytes and tags, EXP and GONLY. -/
structure Snap where
  unit : Nat
  bytes : List Host.Cell
  tags : AMap Nat := []
  exp : Bool := false
  gonly : Bool := false
  /-- contexts of the launches that exposed it -/
  by_ : List Nat := []
deriving DecidableEq, Repr

/-- A launch (R14, R334, R339, R474 to R480). -/
structure Launch where
  ctx : Nat := 0
  queue : Nat := 0
  e : Entry := {}
  caps : AMap Cap := []
  bnd : AMap Bnd := []
  /-- teams created so far: the next `kteam` -/
  made : Nat := 0
  accepted : Bool := true
  /-- a domain launch: the first device has the ACCEPT of every device (R395) -/
  allIn : Bool := false
  finished : Bool := false
  cancelled : Bool := false
  lostWrite : Bool := false
  snaps : List Snap := []
  unrollable : Bool := false
  unprotected : Bool := false
  rolling : Bool := false
  replays : Nat := 0
  /-- clusters where a team of it has started (R262, R424) -/
  clusters : List Nat := []
  /-- the microcode staged last under which the package sequencer began its dispatch, if any (R499) -/
  micro : Option (BitVec 384) := none
deriving DecidableEq, Repr

/-- A completion counter (R338). -/
structure Counter where
  target : Nat := 0
  done : Nat := 0
  parent : Nat := 0xFFFF
  level : Nat := 0
  /-- 0 free, 1 open, 2 complete, 3 cancelling -/
  state : Nat := 0
  status : Nat := 0
  ctx : Nat := 0
  caddr : Nat := 0
  cval : UWord := 0
  /-- how far its completion is: 1 CVAL is to be written, 2 it is to be acknowledged (R339); the page that it awaits, and that its request failed -/
  fin : Nat := 0
  page : Option Nat := none
  failed : Bool := false
deriving DecidableEq, Repr

/-- A launch queue's registers (R333). -/
structure Queue where
  base : Nat := 0
  logn : Nat := 0
  en : Bool := false
  halt : Bool := false
  prod : Nat := 0
  cons : Nat := 0
  errIdx : Nat := 0
  errCode : Nat := 0
  /-- a wait entry holds the queue on this counter -/
  waiting : Option Nat := none
  /-- the 4 KiB page whose page request its acceptance awaits, and that the request has failed -/
  page : Option Nat := none
  failed : Bool := false
deriving DecidableEq, Repr

/-- A binding of an object to a region (R242, R287). -/
structure Binding where
  obj : Nat
  base : Nat
  len : Nat
deriving DecidableEq, Repr

/-- A context (R403 to R405). -/
structure Context where
  desc : List UWord := [0, 0, 0, 0, 0, 0, 0, 0]
  teardown : Bool := false
  bindings : List Binding := []
deriving DecidableEq, Repr

/-- A line of another device or of host memory as it was answered to a reader: its bytes, or why there are none (`bad`: 1 POISON, 2 badly
framed, 3 refused or lost to an engine, 4 refused to another reader). It lasts until the reader has used it (DESIGN CHOICE, log entry 76). -/
structure Answer where
  who : Reader
  tgt : Target
  bad : Nat := 0
  bytes : List Byte := []
deriving DecidableEq, Repr

/-- Which TLB holds an entry (R418): 0 core, 1 cluster, 2 die. -/
structure TlbAt where
  level : Nat
  idx : Nat
deriving DecidableEq, Repr

/-- A TLB entry (R418): a page of a context. -/
structure Tlb where
  place : TlbAt
  ctx : Nat
  base : Nat
  size : Nat
  tgt : Target
  rp : Bool
  wp : Bool
  xp : Bool
  tso : Bool
  dirty : Bool
deriving DecidableEq, Repr

/-- A walk-cache entry: the table that a non-leaf entry of a level names (R418). -/
structure WalkEntry where
  die : Nat
  ctx : Nat
  fab : Bool
  level : Nat
  prefix_ : Nat
  table : Target
  /-- the write and user and execute permissions gathered so far (host format) -/
  wp : Bool
  xp : Bool
deriving DecidableEq, Repr

/-- A miss entry of a TLB (R418, R419): the context and the 4 KiB page, the access that made it, and for the die's buffer the cluster that it came
from and whether a walker is at it, or whether it waits for a page request. -/
structure Miss where
  place : TlbAt
  ctx : Nat
  vpn : Nat
  core : Nat
  kind : Nat
  cl : Nat
  born : Nat
  walking : Bool := false
  paging : Bool := false
deriving DecidableEq, Repr

/-- A page request outstanding (R325). -/
structure PageReq where
  ctx : Nat
  vpn : Nat
  kind : Nat
  /-- what waits: 0 lanes and groups, 1 an engine operation, 2 a queue's acceptance -/
  who : Nat := 0
deriving DecidableEq, Repr

/-- An invalidation whose completion awaits the accesses in flight of its context (R325, R420): those that issued by stamp
`born`. -/
structure Inval where
  ctx : Nat
  va : Nat
  size : Nat
  ats : Bool
  born : Nat
deriving DecidableEq, Repr

/-- A line held in an L1 or in a cluster's cache ways (R211, R239). -/
structure CacheLine where
  /-- the core, or 1024 + the cluster -/
  holder : Nat
  ctx : Nat
  /-- virtual and device physical line addresses -/
  va : Nat
  dpa : Nat
  cst : Bool
  bytes : List Byte
  /-- filled under the hint `.strm`: the first to evict (R268) -/
  strm : Bool := false
deriving DecidableEq, Repr

/-- A reduction-buffer entry (R253). -/
structure RedEntry where
  ctx : Nat
  group : Nat
  /-- the groups that contributed and the virtual address, for a lost write (R313) -/
  writers : List (Nat × Nat) := []
  tgt : Target
  op : Nat
  wide : Bool
  val : UWord
  born : Nat
deriving DecidableEq, Repr

/-- A write-combining entry (R308): a peer or multicast target's line and the bytes written. -/
structure WcEntry where
  tgt : Target
  group : Nat
  /-- the groups that wrote, each with the virtual address of its first store (R313) -/
  writers : List (Nat × Nat) := []
  bytes : AMap Byte
  born : Nat
  /-- the last issue that stored to it (R272), and the window entries of the groups that stored (R410) -/
  op : Nat := 0
  caps : List (Nat × Nat) := []
deriving DecidableEq, Repr

/-- A store not yet performed at its home (R240): the bytes of one instruction in one line. -/
structure Store where
  core : Nat
  group : Nat
  launch : Nat
  dpa : Nat
  bytes : AMap Byte
  op : Nat
  /-- to a TSO page, by these lanes (R256); lane 64 stands for a uniform store -/
  tso : Bool := false
  lanes : List Nat := []
deriving DecidableEq, Repr

/-- Where a result goes: a lane's register pair or register, or a uniform load (R20, R25). -/
structure Dst where
  group : Nat
  lane : Nat
  slot : Slot
  pair : Bool
  /-- how the value is written (R269): 0 as read, 1 signed byte, 2 signed half -/
  ext : Nat := 0
deriving DecidableEq, Repr

/-- A result on its way (R20): registers it fills, in order. -/
structure Landing where
  dst : Dst
  val : UWord
  /-- counts among the 64 outstanding memory operations of the group (R303) -/
  counted : Bool := true
  /-- the issue it belongs to -/
  op : Nat := 0
deriving DecidableEq, Repr

/-- A request to another device (R311, R312). -/
structure FabReq where
  peer : Nat
  seq : Nat
  tagged : Bool
  /-- 0 load, 1 masked write, 2 atomic, 3 cas, 4 reduction flush, 5 a collective packet; 8 more for the gang window; 16 a push, 17 to 20 reports of a
  gang's member: attached, slice set, sync generation reached, detached or departed, and 29 that every ACCEPT is in (DESIGN CHOICE, log entry 18); 21 to
  28 the messages of R395 and R396: ACCEPT, READY, GO, RELEASE, a swap request and its reply, a cancel, a departure -/
  kind : Nat
  off : Nat
  size : Nat
  data : UWord := 0
  aop : Nat := 0
  cmp : UWord := 0
  bytes : AMap Byte := []
  core : Nat
  group : Nat
  dst : Option Dst := none
  /-- the lane and its PC, which parks on failure -/
  pc : Word := 0
  ext : Bool := false
  unif : Bool := false
  /-- the address that a lost write or a failed read reports; for an engine's write the first unit of its operation that it carries (R293) -/
  va : Nat := 0
  sends : Nat := 1
  /-- a multicast delivery: acknowledgements still awaited, and the devices that have acknowledged (R316) -/
  acks : Nat := 1
  acked : List Nat := []
  path : Nat := 0
  op : Nat := 0
  /-- an acquire follows the answer: its scope plus 1, else 0 -/
  acq : Nat := 0
  /-- the engine operation that makes it: its code plus 1, else 0 -/
  eng : Nat := 0
  /-- the reader of a whole line -/
  who : Option Reader := none
  /-- the groups whose stores or contributions it carries, each with a virtual address (R313) -/
  writers : List (Nat × Nat) := []
  /-- a store to a TSO page, by these lanes (R307); lane 64 stands for a uniform store -/
  tso : Bool := false
  lanes : List Nat := []
  /-- flags that its lane retires with (R271) -/
  fl : Nat := 0
  /-- it counts among the outstanding operations of its group (R303), and through these window entries of these groups (R410) -/
  own : Bool := false
  caps : List (Nat × Nat) := []
  /-- it is sent only when the earlier writes of its address have been acknowledged (R443) -/
  after : Bool := false
  /-- the fields of a coordination message (R395) -/
  args : List Nat := []
deriving DecidableEq, Repr

/-- A CXL.cache request to the host (R323). -/
structure HostReq where
  /-- 0 load, 1 store, 2 atomic, 3 cas, 4 reduction flush, 5 ownership for a page walk -/
  kind : Nat
  addr : Nat
  size : Nat
  data : UWord := 0
  aop : Nat := 0
  cmp : UWord := 0
  bytes : AMap Byte := []
  core : Nat
  group : Nat
  dst : Option Dst := none
  pc : Word := 0
  ext : Bool := false
  unif : Bool := false
  va : Nat := 0
  op : Nat := 0
  acq : Nat := 0
  eng : Nat := 0
  who : Option Reader := none
  /-- it has gone to the host -/
  sent : Bool := false
  /-- a store to a TSO page: the lanes that wait for it, each with its destination record, the flags it retires with and its address (R271, R323) -/
  tso : Bool := false
  lanes : List (Dst × Nat × Nat) := []
  /-- as in a request to another device -/
  own : Bool := false
  after : Bool := false
  writers : List (Nat × Nat) := []
deriving DecidableEq, Repr

/-- A duplicate filter for one origin (R311). -/
structure DupFilter where
  flr : Nat := 0
  /-- the answer given to each request performed: status and value -/
  seen : AMap (Nat × UWord) := []
deriving DecidableEq, Repr

/-- A request of another device that waits at its home: for the host's answer to a snoop, for a parked gang, or for room in a
FIFO (R260, R324, R381). `at_` is a DPA, or the place a gang packet names (DESIGN CHOICE, log entry 18). -/
structure InReq where
  org : Nat
  /-- the duplicate filter and the number of a tagged request -/
  filt : Option Nat
  seq : Nat
  kind : Nat
  at_ : Nat
  size : Nat
  data : UWord := 0
  aop : Nat := 0
  cmp : UWord := 0
  bytes : AMap Byte := []
  /-- an answer goes to the origin, which knows the delivery by this number: the device, or 100 + the multicast group -/
  answer : Bool := true
  via : Nat := 0
deriving DecidableEq, Repr

/-- A value on its way to FIFO `q` of a lane in this cycle: the sender's member index and `v0`, and the sender, which blocks at its push meanwhile: a
lane of this device, or a request of another (R380; DESIGN CHOICE, log entry 92). -/
structure Push where
  member : Nat
  v0 : Nat
  group : Nat
  lane : Nat
  q : Nat
  val : Word
  frm : Option (Nat × Nat) := none
  req : Option InReq := none
deriving DecidableEq, Repr

/-- A host access to device memory that waits for a snoop or for room in the filter (R324). -/
structure HostAcc where
  dpa : Nat
  wr : Bool
  bytes : List (Nat × Byte)
  own : Bool
deriving DecidableEq, Repr

/-- A FIFO bank (R224): slot bytes, states and pointers. -/
structure Fifo where
  /-- 0 free, 1 reserved, 2 filled, 3 held, 4 released behind an older held slot -/
  st : AMap Nat := []
  bytes : AMap (List Byte) := []
  free : Nat := 1024
  filled : Nat := 0
  prod : Nat := 0
  cons : Nat := 0
  /-- oldest held slot -/
  rel : Nat := 0
  claim : Option Nat := none
  /-- the turn after which a placement claimed it, 0 when none did (R424) -/
  claimAt : Nat := 0
deriving DecidableEq, Repr

/-- An extended real of the exact arithmetic (R94, R106): a signed dyadic m × 2^e, an infinity or a NaN. -/
inductive XR where
  | fin (neg : Bool) (m : Nat) (e : Int)
  | inf (neg : Bool)
  | nan (neg sig : Bool)
deriving DecidableEq, Repr

/-- The states of an accumulator tile (R169). -/
inductive TileSt where
  | zeroed | accumulating | checking | held | kept
deriving DecidableEq, Repr

/-- An accumulator tile with its check store (R156, R168 to R183). -/
structure Tile where
  st : TileSt := .zeroed
  owner : Option Nat := none
  isInt : Bool := false
  /-- 32-bit elements by 512 × row + column -/
  el : AMap Word := []
  /-- expected row and column sums (R176, R179) -/
  er : AMap XR := []
  ec : AMap XR := []
  /-- rows and columns untestable for the interval, or holding a clamped element -/
  skipR : List Nat := []
  skipC : List Nat := []
  /-- last verified sums, the expected sums of an interval opened from Kept -/
  keptR : AMap XR := []
  keptC : AMap XR := []
  pend : UWord := 0
  clamps : Nat := 0
  /-- the interval: opening block, its context, AFMT, REL and ABS, checkpoint -/
  openBlk : Nat := 0
  openCtx : Nat := 0
  afmt : Nat := 0
  rel : Nat := 0
  abs : Int := 0
  nb : Nat := 512
  ckptZero : Bool := true
  save : Nat := 0
  /-- outcome code of the last drain, and the LOCATED element: row, column, v', δ (R180) -/
  outcome : Nat := 0
  loc : Option (Nat × Nat × Word × XR) := none
  fixed : Bool := false
  unchk : Nat := 0
  /-- a drain that stopped as FAULTED: its block, the rows written and their flags (R207) -/
  stopped : Option (Nat × Nat × UWord) := none
  /-- the state its drain began in: 0 Zeroed, 1 Accumulating or Held, 2 Kept (R169) -/
  was : Nat := 1
deriving DecidableEq, Repr

/-- A convening set (R161, R184 to R188). -/
structure MSet where
  launch : Nat := 0
  key : UWord := 0
  count : Nat := 1
  queue : Nat := 0
  joined : Nat := 0
  seq : Nat := 0
  /-- members by number; a member that left is absent -/
  members : AMap Nat := []
  broken : Bool := false
  /-- statuses of its operations, latest first: SEQ, status, kind (0 a pass, 2 + DSCOPE a drain, 1 another) and the flags
  of a drain -/
  done : List (Nat × Nat × Nat × UWord) := []
  loaded : Bool := false
deriving DecidableEq, Repr

/-- Bytes of one line that an operation has made and not yet written: they reach the line together (R213, DESIGN CHOICE, log entry 83). A
drain's MXZ line has its own tag (R174). -/
structure OutLine where
  tgt : Target
  bytes : AMap Byte
  tag : Option Nat := none
  /-- the first unit of an engine operation that writes it (R293) -/
  unit : Nat := 2 ^ 32
deriving DecidableEq, Repr

/-- A matrix operation in the reservation table (R185, R351). -/
structure MxOp where
  set : Nat
  seq : Nat
  group : Nat
  /-- 0 pass, 1 load, 2 zero, 3 drain, 4 retry, 5 fix with the kept value, 6 fix with a given value -/
  kind : Nat
  blk : Nat := 0
  tile : Nat := 0
  val : Word := 0
  queue : Nat := 0
  accepted : Bool := false
  granted : Bool := false
  prio : Nat := 0
  born : Nat := 0
  /-- the block's posting fields, read at acceptance -/
  words : List UWord := []
  ctx : Nat := 0
  cvsub : UWord := 0
  bnd : Option Bnd := none
  tolRel : Nat := 0
  tolAbs : Int := 0
  /-- a pass: row-groups streamed, scale conflict, duplicate, poisoned -/
  streamed : Nat := 0
  /-- a pass: it has a bow slot, which its last row-group frees (R162, R351) -/
  bow : Bool := false
  sconf : Bool := false
  fdup : Bool := false
  poisoned : Bool := false
  /-- operations it waits behind (R290) -/
  behind : List Nat := []
  id : Nat := 0
  /-- a drain: outcome, expected restart row -/
  outcome : Nat := 0
  /-- the 4 KiB page whose page request it awaits, and that the request has failed (R191, R471) -/
  page : Option Nat := none
  failed : Bool := false
  /-- cycle of its acceptance or last aging (R351) -/
  since : Nat := 0
  /-- flags of the rows that a drain has written -/
  fl : Nat := 0
  /-- under sr: output lines begun, as in a transfer (R112) -/
  lines : AMap (UWord × Nat) := []
  /-- a write of its output was refused or lost (R313, R422) -/
  refused : Bool := false
  /-- it completes as ABANDONED, because its set broke or dissolved (R188) -/
  doomed : Bool := false
  /-- the signature of its failed check is recorded (R182) -/
  signed : Bool := false
  /-- its output not yet written, by line -/
  out : List OutLine := []
  /-- it has met a failed access and ends with this status, which its block has not yet (R471) -/
  ends : Option Nat := none
  /-- its status and flags once they are final, while the writes of its record await their acknowledgements (R307) -/
  closing : Option (Nat × UWord) := none
  /-- devices that its launch may read, and 16 + those it may write, as its acceptance found them (R408, R421) -/
  peers : List Nat := []
deriving DecidableEq, Repr

/-- A K-group that a member supplies for one row of a pass (R200, R201). -/
structure Feed where
  set : Nat
  seq : Nat
  row : Nat
  member : Nat
  bytes : List Byte
  scales : List Byte
  /-- the place of its `mmfeed` among all, by which a later one replaces an earlier one (R202) -/
  no : Nat := 0
deriving DecidableEq, Repr

/-- A feed's fetch in flight (R201). -/
structure Fetch where
  set : Nat
  seq : Nat
  row : Nat
  member : Nat
  group : Nat
  ctx : Nat
  va : Nat
  vs : Nat
  nbytes : Nat
  nscales : Nat
  tgt : Target
  stgt : Target
  op : Nat := 0
  no : Nat := 0
deriving DecidableEq, Repr

/-- A resident B tile (R156, R193): format, K_B, its element codes and scale codes. -/
structure BTile where
  fmt : Nat
  bsz : Nat
  kb : Nat
  el : AMap Nat := []
  sc : AMap Nat := []
deriving DecidableEq, Repr

/-- The matrix engine of a cluster (R156, R351, R352). -/
structure Matrix where
  sets : AMap MSet := []
  tiles : AMap Tile := []
  b : Option BTile := none
  resv : List MxOp := []
  feeds : List Feed := []
  fetches : List Fetch := []
  nextId : Nat := 0
  /-- `mmread`s that wait on earlier operations: set, the operation number they precede, tile, element and where the value
  lands -/
  reads : List (Nat × Nat × Nat × Nat × Dst) := []
  /-- a token is held; inside a burst, the cycles left -/
  token : Bool := false
  burst : Option Nat := none
  relCycle : Nat := 0
deriving DecidableEq, Repr

/-- A cluster (R11, R218 to R221). -/
structure Cluster where
  /-- mode in effect of each commons bank (R219) -/
  modes : AMap Nat := []
  /-- requested modes not yet performed (R220) -/
  wanted : AMap Nat := []
  /-- the team that owns each scratch bank -/
  owner : AMap Nat := []
  fifos : AMap Fifo := []
  mx : Matrix := {}
  /-- generators of the transfer engine and of the drain; none: the value that reset loads (R114) -/
  genX : Option UWord := none
  genD : Option UWord := none
deriving DecidableEq, Repr

/-- A core (R11, R429). -/
structure Core where
  /-- the lane generator; none: the value that reset loads (R114) -/
  gen : Option UWord := none
  red : List RedEntry := []
  wcb : List WcEntry := []
  /-- the group of the supervisor slot, made at its first entry, and the team it serves (R459) -/
  slot : Option Nat := none
  serves : Option Nat := none
  trapGrp : Nat := 0
  trapLane : Nat := 0
  trapRec : Nat := 0
  trapPc : Word := 0
  trapLanes : UWord := 0
  regNum : Nat := 0
  regKind : Nat := 0
  regFe : Bool := false
  /-- the loggia: its team, the victim, the timer's remaining cycles when it runs (R355) -/
  loggia : Option (Nat × Nat × Option Nat) := none
  /-- teams whose images the spill engine writes (R466) -/
  spilling : List Nat := []
  slice : Nat := 0
  claimed : Option Nat := none
  next : Nat := 0
  mismatch : Bool := false
  scansig : UWord := 0
  scanexp : UWord := 0
  /-- a chunk in progress: its number -/
  chunk : Option Nat := none
  /-- the group that waits for the chunk, and the code of its result -/
  chunkBy : Option (Nat × Nat) := none
  preemptReq : Bool := false
deriving DecidableEq, Repr

/-- A die: core map, token ring, mailbox, collective generator (R12, R352, R448, R449). -/
structure Die where
  /-- the physical cluster of each logical cluster 0 to 23 -/
  map : AMap (Option Nat) := []
  good : List Nat := []
  failedCores : List (Nat × Nat) := []
  /-- the physical cluster that a logical cluster lost by a removal (R496) -/
  lost : AMap Nat := []
  /-- physical cores whose last `scant.check` failed before their cluster was removed (R448, R505) -/
  failedScans : List (Nat × Nat) := []
  /-- the core whose removal has begun, and the steps of R496 that have taken effect: 0 none, 1 to 3 -/
  removing : Option Nat := none
  removeStep : Nat := 0
  tokens : Nat := 24
  loadedTokens : Nat := 24
  mingap : Nat := 0
  /-- the clusters of the die's ring where free tokens stand (R352; DESIGN CHOICE, log entry 74) -/
  ring : List Nat := List.range 24
  retire : Nat := 0
  lastBurst : Option Nat := none
  /-- the collective generator; none: the value that reset loads (R114) -/
  genC : Option UWord := none
  boxReq : Nat := 0
  boxArg : Nat := 0
  boxBusy : Bool := false
  boxNext : List Nat := []
  /-- the cluster whose miss was walked last (R419) -/
  walkTurn : Nat := 0
deriving DecidableEq, Repr

/-- A collective packet received (R317): direction 0 from a child, 1 from the parent; its header holds KIND, ROP, COUNT, WFMT,
WBSZ and EXACT, or is a notice (DESIGN CHOICE, log entry 19). -/
structure ColMsg where
  die : Nat
  cid : Nat
  frm : Nat
  dir : Nat
  blk : Nat
  data : List Byte
  hdr : List Nat
deriving DecidableEq, Repr

/-- A transfer or collective operation (R289 to R301). -/
structure EngOp where
  id : Nat
  /-- 0 transfer, 1 collective -/
  kind : Nat
  group : Nat
  launch : Nat
  ctx : Nat
  core : Nat
  queue : Nat
  qn : Nat
  seq : Nat
  blk : Nat
  idx : Option UWord := none
  accepted : Bool := false
  words : List UWord := []
  cvsub : UWord := 0
  bnd : Option Bnd := none
  behind : List Nat := []
  page : Option Nat := none
  failed : Bool := false
  scope : Nat := 0
  flags : UWord := 0
  prog : Nat := 0
  /-- final status, 0 while pending (R302) -/
  status : Nat := 0
  /-- its checks are made and, for a transfer, its index array read; a collective has read its source -/
  began : Bool := false
  /-- the index array of a gather or scatter -/
  idxs : List Nat := []
  /-- the stream taken from a FIFO source, and the bytes not yet put into a FIFO destination -/
  ibuf : List Byte := []
  obuf : List Byte := []
  /-- under sr: the generator's state and the elements so far of each output line begun (R112) -/
  lines : AMap (UWord × Nat) := []
  /-- collective: the tree entry, own partials in f32, packets received, the partials forwarded, the result -/
  tree : BitVec 256 := 0
  part : List Word := []
  got : List ColMsg := []
  sent : Bool := false
  res : Option (List Byte) := none
  /-- a peer was lost (R301), a write refused (R422), or the ranks disagree (R299) -/
  peerLost : Bool := false
  refused : Bool := false
  mismatch : Bool := false
  /-- its launch is cancelled (R293) -/
  gone : Bool := false
  /-- its output not yet written, by line -/
  out : List OutLine := []
  /-- as in a matrix operation -/
  peers : List Nat := []
  /-- transfer: the FIFO banks of its source and destination, fixed at acceptance (R408) -/
  banks : Nat × Nat := (0, 0)
  /-- the flags of each unit performed since the post (R293) -/
  unitFl : List Nat := []
  /-- the status it ends with, while its last writes are made, and how far they are: 1 the output, 2 the record, 3 its acknowledgements, 4 the
  completion value, 5 its acknowledgements (R292) -/
  ending : Nat := 0
  endStep : Nat := 0
  /-- collective: children whose ranks all agree with this one, this rank's own word to its parent, and the root's word to all (R299;
  DESIGN CHOICE, log entry 19) -/
  metUp : List Nat := []
  toldUp : Bool := false
  /-- collective: ranks that have told it that the blocks disagree -/
  knows : List Nat := []
  met : Bool := false
  /-- collective: flags of its partials and its result by wire block (R293) -/
  blkFl : List Nat := []
deriving DecidableEq, Repr

/-- A packet this device sends on the fabric, in order (R305, R395, R396): kind and fields. -/
structure Packet where
  kind : String
  dst : Nat
  args : List Nat
  bytes : List Byte := []
deriving DecidableEq, Repr

/-- A reply of Rypepin on the sideband (R427, R494): completion byte or SPDM code, and its fields. -/
structure Reply where
  code : Nat
  fields : List Nat := []
  bytes : List Byte := []
deriving DecidableEq, Repr

/-- A value that extends measurement 5 (R426, R499): the digest of new microcode, or a loaded table value by its kind and fields: 0 the interleave
size, 1 route, 2 multicast, 3 tree and 4 inbound window entries, 5 token-ring words. -/
inductive Measured where
  | digest (d : BitVec 384)
  | table (v : List Nat)
deriving DecidableEq, Repr

/-- Rypepin (R425 to R427, R490 to R503). -/
structure Firm where
  stage : Nat := 7
  safe : Bool := false
  degraded : Bool := false
  /-- the model's own: turns of the machine and replies since power-on, which its cycle count follows (DESIGN CHOICE, log entry 2) -/
  turns : Nat := 0
  failStage : Nat := 0
  failRom : Bool := false
  failCode : Nat := 0
  failDie : Nat := 0
  failUnit : Nat := 0
  /-- physical clusters that passed stage 3 of the last power-on, by die -/
  failGood : List (List Nat) := []
  /-- digests of the images staged into slots A and B, none for the one that the device came with; the slot that runs and the one that the next
  power-on prefers, B when true (R425, R498) -/
  slotA : Option (BitVec 384) := none
  slotB : Option (BitVec 384) := none
  runsB : Bool := false
  prefersB : Bool := false
  /-- events, each after the count of Rypepin's cycles at it (R503) -/
  log : List (List Nat) := []
  logAt : Nat := 0
  /-- the microcode staged last, and the sequencers that have switched to one: its digest by sequencer, 4 the package sequencer (R499) -/
  microcode : Option (BitVec 384) := none
  running : AMap (BitVec 384) := []
  extended : List Measured := []
  recal : Option (Bool × Nat) := none
  /-- the draw of the free values of a stack's recalibration (R500) -/
  recalDraw : Nat := 0
  /-- peers whose route entries a port's recalibration has closed -/
  recalPeers : List Nat := []
  draws : Nat := 0
  supBase : Nat := 0
  replies : List Reply := []
deriving DecidableEq, Repr

/-- An issue of the composer (R345): a group's run by its PC. `old` holds the group's lanes as the cycle began, for a
run that shares its cycle with another run of its group (R45). -/
structure Issue where
  group : Nat
  pc : Word
  old : Option (List Lane) := none
  /-- it shares the fetch of the issue before it, and its step of the lane generator (R113, R345) -/
  fused : Bool := false
deriving DecidableEq, Repr

/-- The whole machine. -/
structure State where
  /-- the model's own: the steps that outside events and the device's own timing put next (DESIGN CHOICE, log entry 1) -/
  agenda : List Instr := []
  /-- the group and the PC whose run issues (R344) -/
  cur : Nat := 0
  curPc : Word := 0
  /-- the group's lanes at the start of the issuing cycle, for the second run of one group (R45) -/
  curOld : Option (List Lane) := none
  curFused : Bool := false
  /-- the model's own: issues of the current cycle not yet executed (R345) -/
  issues : List Issue := []
  /-- the model's own: next draw of a free value (UNVERIFIED, log entry 4) -/
  draw : Nat := 0
  groups : List Group := []
  teams : List Team := []
  gangs : List Gang := []
  launches : List Launch := []
  counters : AMap Counter := []
  /-- launch queues by 16 × context + queue -/
  queues : AMap Queue := []
  /-- the queue whose turn came last (R334) -/
  turn : Nat := 0
  contexts : AMap Context := []
  cores : AMap Core := []
  clusters : AMap Cluster := []
  dies : AMap Die := []
  /-- device memory: the bytes that are not zero (R217) -/
  mem : List Host.Cell := []
  /-- lines whose tag is not the compressor's (R225, R228): 8 to 10 MXZ, 11 to 14 reserved, 15 POISON; 16 + t, stored with
  tag t and badly framed; 32 + t, well framed with a tag t that the compressor would not give; 64 + t + 256 × B, MXZ with a granule mask B that also
  marks zero granules (R226) -/
  tags : AMap Nat := []
  interleave : Nat := 0
  caches : List CacheLine := []
  tlbs : List Tlb := []
  walks : List WalkEntry := []
  /-- the miss buffers of the TLBs (R418, R419) -/
  misses : List Miss := []
  pageReqs : List PageReq := []
  /-- Outstanding Page Request Allocation; `none` while PRI is not enabled (R416) -/
  prAlloc : Option Nat := none
  /-- invalidations not yet completed (R325, R420) -/
  invals : List Inval := []
  stores : List Store := []
  landing : List Landing := []
  /-- values pushed in this cycle to the FIFOs of many senders, which they enter at its end (R380) -/
  pushes : List Push := []
  engOps : List EngOp := []
  /-- collective packets of operations not yet accepted -/
  inbox : List ColMsg := []
  nextOp : Nat := 0
  kdev : Nat := 0
  domSize : Nat := 8
  route : AMap Word := []
  links : List Nat := []
  mcast : AMap UWord := []
  /-- the devices with LOCAL set in the tree of a multicast group, as its entry was loaded (R421; DEDUCED, log entry 17) -/
  mcastDevs : AMap Nat := []
  trees : AMap (BitVec 256) := []
  windows : AMap UWord := []
  filters : AMap DupFilter := []
  fabSeq : AMap Nat := []
  fabReqs : List FabReq := []
  hostReqs : List HostReq := []
  mcDiscards : Nat := 0
  heldIn : List InReq := []
  hostHeld : List HostAcc := []
  /-- READY messages held as the first device of a domain launch: device, GKEY and G (R395) -/
  readies : List (List Nat) := []
  /-- swap requests of spanning gangs not yet carried out: GKEY and G (R396) -/
  swapReqs : List (Nat × Nat) := []
  /-- reply doorbells whose record is not yet read: context and address (R442) -/
  doorbells : List (Nat × Nat) := []
  /-- doorbells that named no outstanding record (R442) -/
  bells : Nat := 0
  timeout : Nat := 20
  sent : List Packet := []
  /-- host side: lines owned in the ports' ownership caches with their bytes, lines the host may cache or hold modified (R323, R324) -/
  owned : List (Nat × List Byte) := []
  hostLines : AMap Bool := []
  /-- the same lines in the order the host took them (R324) -/
  hostOrder : List Nat := []
  /-- lines of the host or of another device that their readers have not yet used -/
  answers : List Answer := []
  /-- host physical ranges assigned to a port, base, size and port; 2 is both ports, interleaved by 4 KiB (R322) -/
  hostRanges : List (Nat × Nat × Nat) := []
  saveFrames : Nat := 768
  /-- ACCEPT messages received as the first device of a domain launch: sender, GKEY, NTEAMS, GANG, GDOM, PRIO (R395) -/
  accepts : List (List Nat) := []
  /-- domain launches not yet accepted here that another device has already ended: GKEY, and 7 for entries that differ or 0x13 for a cancel (R395,
  R396; DESIGN CHOICE, log entry 18) -/
  early : List (Nat × Nat) := []
  snapFrames : Nat := 1024
  /-- GiB of device memory that the host sees: the HDM window, a prefix of the DPA space (R322) -/
  hdm : Nat := 1020
  lastDie : Nat := 3
  stamp : Nat := 0
  /-- the model's own: turns since the reset of the cores; a turn is one issue cycle of every core (DESIGN CHOICE, log entry 2) -/
  clock : Nat := 0
  /-- CKPTBASE, and CKPTCTL's DIR, 1 to the device, and ERR; BUSY is a transfer under way: its base and direction (R484) -/
  ckptBase : UWord := 0
  ckptDir : Bool := false
  ckptErr : Bool := false
  ckptRun : Option (Nat × Bool) := none
  /-- the checkpoint image in host memory, as a save leaves it or as a restore reads it (R485): its base, and bytes by offset. A byte of the tags that is
  not listed is two ZERO tags, and a place that is not listed is a ZERO line's, whose sectors hold no defined byte (DESIGN CHOICE, log entry 77) -/
  ckptImage : Option (Nat × List Host.Cell) := none
  firm : Firm := {}
deriving DecidableEq, Repr

/-- The core map after a power-on whose clusters are all good (R495): logical cluster n is physical cluster n. -/
def Die.allGood : Die :=
  { map := (List.range 24).map fun n => (n, some n), good := List.range 26 }

/-- The machine right after reset: the end of power-on stage 7 (R490) with every self-test passed, before any context
exists, every register at the value of its field map (DESIGN CHOICE, log entry 23). -/
def State.reset : State :=
  { dies := [(0, Die.allGood), (1, Die.allGood), (2, Die.allGood), (3, Die.allGood)]
    firm := { failGood := List.replicate 4 (List.range 26)
              extended := [.table [0, 0], .table [5, 0, 24, 0], .table [5, 1, 24, 0], .table [5, 2, 24, 0], .table [5, 3, 24, 0]] } }

end Sys2Proof.Machine
end

