-- ==== Sys2Proof/Machine/Num.lean ====
section
/-! DEFINITION. Exact arithmetic and rounding (spec/04): formats, the rounding function, overflow, substitutes, the
wide intermediate, shared scales and the stochastic generator. -/

namespace Sys2Proof.Machine

/-- Flag bits of FLAGS (R116). -/
def fNX : Nat := 1
def fUF : Nat := 2
def fOF : Nat := 4
def fDZ : Nat := 8
def fNV : Nat := 16
def fSUBST : Nat := 32
def fSCLSAT : Nat := 64
def fIWRAP : Nat := 128
def fBND : Nat := 256

/-- A floating-point layout (R93, R94): exponent and significand widths, bias; `sp` is 0 for IEEE infinities and NaNs,
1 for the single NaN code of e4m3, 2 for none; `mx` marks an MX element format. -/
structure FpFmt where
  ew : Nat
  mw : Nat
  bias : Nat
  sp : Nat
  mx : Bool := false
deriving DecidableEq, Repr

/-- A conversion format (R55, R140). -/
inductive Fmt where
  | fp (f : FpFmt)
  | int (w : Nat) (signed : Bool)
  | mxi8
  | e8m0
deriving DecidableEq, Repr

def fmtF32 : FpFmt := { ew := 8, mw := 23, bias := 127, sp := 0 }
def fmtF64 : FpFmt := { ew := 11, mw := 52, bias := 1023, sp := 0 }
def fmtF16 : FpFmt := { ew := 5, mw := 10, bias := 15, sp := 0 }
def fmtBf16 : FpFmt := { ew := 8, mw := 7, bias := 127, sp := 0 }

/-- The format a code names (R55, R93, R96, R97). -/
def fmtOf (c : Nat) : Fmt :=
  match c with
  | 0 => .fp fmtF32
  | 1 => .fp fmtF16
  | 2 => .fp fmtBf16
  | 3 => .fp { ew := 4, mw := 3, bias := 7, sp := 1 }
  | 4 => .fp { ew := 5, mw := 2, bias := 15, sp := 0 }
  | 5 => .int 8 true
  | 6 => .int 8 false
  | 7 => .int 4 true
  | 8 => .fp { ew := 4, mw := 3, bias := 7, sp := 1, mx := true }
  | 9 => .fp { ew := 5, mw := 2, bias := 15, sp := 0, mx := true }
  | 10 => .fp { ew := 3, mw := 2, bias := 3, sp := 2, mx := true }
  | 11 => .fp { ew := 2, mw := 3, bias := 1, sp := 2, mx := true }
  | 12 => .fp { ew := 2, mw := 1, bias := 1, sp := 2, mx := true }
  | 13 => .mxi8
  | 14 => .fp fmtF64
  | _ => .e8m0

/-- Element width of a format code in bits (R93, R96, R97). -/
def fmtBits (c : Nat) : Nat :=
  match c with
  | 0 => 32
  | 1 => 16
  | 2 => 16
  | 7 => 4
  | 10 => 6
  | 11 => 6
  | 12 => 4
  | 14 => 64
  | _ => 8

/-- Number of significant bits of a natural number. -/
def nbits (m : Nat) : Nat := if m = 0 then 0 else Nat.log2 m + 1

/-- `m × 2^e` for an exponent that does not fall below zero. -/
def shl (m : Nat) (e : Int) : Nat := m * 2 ^ e.toNat

/-- The value of a floating-point code (R94). -/
def decodeFp (f : FpFmt) (code : Nat) : XR :=
  let neg := code / 2 ^ (f.ew + f.mw) % 2 == 1
  let ex := code / 2 ^ f.mw % 2 ^ f.ew
  let m := code % 2 ^ f.mw
  if f.sp == 0 && ex == 2 ^ f.ew - 1 then
    if m = 0 then .inf neg else .nan neg (m < 2 ^ (f.mw - 1))
  else if f.sp == 1 && ex == 2 ^ f.ew - 1 && m == 2 ^ f.mw - 1 then .nan neg false
  else if ex = 0 then .fin neg m (1 - (f.bias : Int) - f.mw)
  else .fin neg (2 ^ f.mw + m) ((ex : Int) - f.bias - f.mw)

/-- An integer as an exact real. -/
def xrOfInt (i : Int) : XR := .fin (i < 0) i.natAbs 0

/-- The two's complement or unsigned value of a code of `w` bits (R96). -/
def intOfCode (w : Nat) (signed : Bool) (c : Nat) : Int :=
  let c := c % 2 ^ w
  if signed && 2 ^ (w - 1) ≤ c then (c : Int) - (2 ^ w : Nat) else c

/-- The value of an element code under R94, R96 and R97. -/
def decodeFmt (f : Fmt) (code : Nat) : XR :=
  match f with
  | .fp ff => decodeFp ff code
  | .int w sg => xrOfInt (intOfCode w sg code)
  | .mxi8 =>
    match xrOfInt (intOfCode 8 true code) with
    | .fin n m _ => .fin n m (-6)
    | r => r
  | .e8m0 => if code % 256 = 255 then .nan false false else .fin false 1 ((code % 256 : Nat) - (127 : Int))

/-- Scaling by a power of two is exact (R108). -/
def XR.scale (x : XR) (k : Int) : XR :=
  match x with
  | .fin n m e => .fin n m (e + k)
  | r => r

/-- The sign of a value. -/
def XR.neg : XR → Bool
  | .fin n _ _ => n
  | .inf n => n
  | .nan n _ => n

/-- The negated value. -/
def XR.flip : XR → XR
  | .fin n m e => .fin (!n) m e
  | .inf n => .inf (!n)
  | .nan n s => .nan (!n) s

/-- True for a signalling NaN. -/
def XR.isSig : XR → Bool
  | .nan _ s => s
  | _ => false

/-- True for a NaN. -/
def XR.isNan : XR → Bool
  | .nan _ _ => true
  | _ => false

/-- True for a finite value. -/
def XR.isFin : XR → Bool
  | .fin _ _ _ => true
  | _ => false

/-- True for a zero of either sign. -/
def XR.isZero : XR → Bool
  | .fin _ 0 _ => true
  | _ => false

/-- A signed dyadic as an integer multiple of 2^e0, for e0 not above e. -/
def dyInt (n : Bool) (m : Nat) (e e0 : Int) : Int :=
  let v : Int := (shl m (e - e0) : Nat)
  if n then -v else v

/-- Exact sum (R133): an exact zero is +0 unless both operands are −0; opposite infinities give NaN. -/
def XR.add (x y : XR) : XR :=
  match x, y with
  | .nan n s, _ => .nan n s
  | _, .nan n s => .nan n s
  | .inf a, .inf b => if a == b then .inf a else .nan false false
  | .inf a, _ => .inf a
  | _, .inf b => .inf b
  | .fin a m e, .fin b k f =>
    if m = 0 ∧ k = 0 then .fin (a && b) 0 0
    else if m = 0 then .fin b k f
    else if k = 0 then .fin a m e
    else
      let e0 := min e f
      let v := dyInt a m e e0 + dyInt b k f e0
      .fin (v < 0) v.natAbs e0

/-- Exact product; 0 × ∞ gives NaN (R133). -/
def XR.mul (x y : XR) : XR :=
  match x, y with
  | .nan n s, _ => .nan n s
  | _, .nan n s => .nan n s
  | .inf a, .inf b => .inf (a != b)
  | .inf a, .fin b m _ => if m = 0 then .nan false false else .inf (a != b)
  | .fin a m _, .inf b => if m = 0 then .nan false false else .inf (a != b)
  | .fin a m e, .fin b k f => .fin (a != b) (m * k) (e + f)

/-- Exact order of two finite or infinite values: x < y. -/
def XR.lt (x y : XR) : Bool :=
  match x, y with
  | .nan _ _, _ => false
  | _, .nan _ _ => false
  | .inf a, .inf b => a && !b
  | .inf a, .fin _ _ _ => a
  | .fin _ _ _, .inf b => !b
  | .fin a m e, .fin b k f =>
    let e0 := min e f
    dyInt a m e e0 < dyInt b k f e0

/-- Exact equality of values; −0 equals +0. -/
def XR.eq (x y : XR) : Bool := !x.isNan && !y.isNan && !x.lt y && !y.lt x

/-- floor(log2) of a positive dyadic. -/
def dyLog (m : Nat) (e : Int) : Int := (Nat.log2 m : Int) + e

/-- Whether the magnitude `m × 2^-sh` rounds up from its floor `n` (R100, R101). -/
def roundsUp (mode : Nat) (neg : Bool) (n rem sh r : Nat) : Bool :=
  if rem = 0 then false
  else
    match mode with
    | 0 => 2 ^ sh < 2 * rem || (2 * rem == 2 ^ sh && n % 2 == 1)
    | 1 => false
    | 2 => !neg
    | 3 => neg
    | 4 => 2 ^ sh ≤ 2 * rem
    | 5 => n % 2 == 0
    | _ => r < rem * 65536 / 2 ^ sh

/-- A magnitude `m × 2^e` as a multiple of the spacing 2^qe: the rounded multiple, and whether it was inexact. -/
def roundMag (mode : Nat) (neg : Bool) (r m : Nat) (e qe : Int) : Nat × Bool :=
  if qe ≤ e then (shl m (e - qe), false)
  else
    let sh := (qe - e).toNat
    let n := m / 2 ^ sh
    let rem := m % 2 ^ sh
    (n + (if roundsUp mode neg n rem sh r then 1 else 0), rem != 0)

/-- The largest finite magnitude as significand and exponent (R94). -/
def FpFmt.maxMag (f : FpFmt) : Nat × Int :=
  match f.sp with
  | 0 => (2 ^ (f.mw + 1) - 1, (2 ^ f.ew : Nat) - 2 - (f.bias : Int) - f.mw)
  | 1 => (2 ^ (f.mw + 1) - 2, (2 ^ f.ew : Nat) - 1 - (f.bias : Int) - f.mw)
  | _ => (2 ^ (f.mw + 1) - 1, (2 ^ f.ew : Nat) - 1 - (f.bias : Int) - f.mw)

/-- The code with a sign bit. -/
def FpFmt.signed (f : FpFmt) (neg : Bool) (c : Nat) : Nat := if neg then c + 2 ^ (f.ew + f.mw) else c

/-- The code of the largest finite magnitude (R94). -/
def FpFmt.maxCode (f : FpFmt) : Nat :=
  match f.sp with
  | 0 => (2 ^ f.ew - 1) * 2 ^ f.mw - 1
  | 1 => 2 ^ (f.ew + f.mw) - 2
  | _ => 2 ^ (f.ew + f.mw) - 1

/-- The code of infinity, where the format has one (R94). -/
def FpFmt.infCode (f : FpFmt) : Nat := (2 ^ f.ew - 1) * 2 ^ f.mw

/-- The canonical NaN (R95). -/
def FpFmt.nanCode (f : FpFmt) : Nat :=
  if f.sp == 1 then 2 ^ (f.ew + f.mw) - 1 else (2 ^ f.ew - 1) * 2 ^ f.mw + 2 ^ (f.mw - 1)

/-- The code of the magnitude `n × 2^qe`, a multiple of the format's spacing there. -/
def FpFmt.codeOf (f : FpFmt) (n : Nat) (qe : Int) : Nat :=
  if n < 2 ^ f.mw then n
  else
    let up := n == 2 ^ (f.mw + 1)
    let n := if up then 2 ^ f.mw else n
    let qe := if up then qe + 1 else qe
    (qe + f.bias + f.mw).toNat * 2 ^ f.mw + (n - 2 ^ f.mw)

/-- The result of a floating-point overflow (R102). -/
def FpFmt.overflow (f : FpFmt) (mode : Nat) (sat neg : Bool) : Nat :=
  let big := if f.sp == 1 then f.nanCode else f.signed neg f.infCode
  let mx := f.signed neg f.maxCode
  if sat || f.mx then mx
  else
    match mode with
    | 1 => mx
    | 5 => mx
    | 2 => if neg then mx else big
    | 3 => if neg then big else mx
    | _ => big

/-- Rounds a finite value once into a floating-point format (R100, R102, R105): the code and the flags. -/
def roundFp (f : FpFmt) (mode : Nat) (sat : Bool) (r : Nat) (neg : Bool) (m : Nat) (e : Int) : Nat × Nat :=
  if m = 0 then (f.signed neg 0, 0)
  else
    let lg := dyLog m e
    let qmin : Int := 1 - (f.bias : Int) - f.mw
    let qe := max (lg - f.mw) qmin
    let (n, inx) := roundMag mode neg r m e qe
    let (mm, me) := f.maxMag
    let tooBig := (XR.fin false mm me).lt (.fin false n qe)
    if tooBig then (f.overflow mode sat neg, if f.mx then fNX else fOF + fNX)
    else
      let (n2, _) := roundMag mode neg r m e (lg - f.mw)
      let tiny := (XR.fin false n2 (lg - f.mw)).lt (.fin false 1 (1 - (f.bias : Int)))
      (f.signed neg (f.codeOf n qe),
        (if inx then fNX else 0) + (if inx && tiny && !f.mx then fUF else 0))

/-- Rounds a finite value into an integer of `w` bits (R100, R102, R103): the code and the flags. -/
def roundInt (w : Nat) (signed : Bool) (mode : Nat) (sat : Bool) (r : Nat) (neg : Bool) (m : Nat) (e : Int) :
    Nat × Nat :=
  let (n, inx) := roundMag mode neg r m e 0
  let v : Int := if neg then -(n : Int) else n
  let lo : Int := if signed then -((2 ^ (w - 1) : Nat) : Int) else 0
  let hi : Int := if signed then ((2 ^ (w - 1) : Nat) : Int) - 1 else ((2 ^ w : Nat) : Int) - 1
  if v < lo ∨ hi < v then
    if sat then ((if v < lo then lo else hi) % (2 ^ w : Nat) |>.toNat, fNX)
    else ((v % (2 ^ w : Nat)).toNat, fIWRAP + fNX)
  else ((v % (2 ^ w : Nat)).toNat, if inx then fNX else 0)

/-- Rounds into mx.i8, the value already divided by the block scale (R100, R111). -/
def roundMxi8 (mode r : Nat) (neg : Bool) (m : Nat) (e : Int) : Nat × Nat :=
  let (n, inx) := roundMag mode neg r m e (-6)
  let clip := 127 < n
  let n := min n 127
  (if neg && n != 0 then 256 - n else n, if inx || clip then fNX else 0)

/-- The substitute for a NaN or an infinity (R104) (DEDUCED, log entry 16). -/
def substitute (f : Fmt) (subst : Nat) (neg : Bool) (cvsub : Nat) : Nat :=
  match f with
  | .fp ff =>
    match subst with
    | 0 => ff.signed neg ff.maxCode
    | 1 => 0
    | 2 => ff.signed neg 1
    | _ => cvsub % 2 ^ (ff.ew + ff.mw + 1)
  | .int w sg =>
    match subst with
    | 0 => if sg then (if neg then 2 ^ (w - 1) else 2 ^ (w - 1) - 1) else (if neg then 0 else 2 ^ w - 1)
    | 1 => 0
    | 2 => if neg then (if sg then 2 ^ w - 1 else 0) else 1
    | _ => cvsub % 2 ^ w
  | .mxi8 =>
    match subst with
    | 0 => if neg then 129 else 127
    | 1 => 0
    | 2 => if neg then 255 else 1
    | _ => cvsub % 256
  | .e8m0 => 255

/-- How a conversion ends (R49): rounding, saturation, substitute, CVSUB and the draw of sr. -/
structure Cvt where
  mode : Nat := 0
  sat : Bool := false
  subst : Nat := 0
  cvsub : Nat := 0
  r : Nat := 0

/-- Converts an exact value into a format (R100, R104, R143): the code and the flags. -/
def convert (f : Fmt) (c : Cvt) (x : XR) : Nat × Nat :=
  match x with
  | .fin neg m e =>
    match f with
    | .fp ff => roundFp ff c.mode c.sat c.r neg m e
    | .int w sg => roundInt w sg c.mode c.sat c.r neg m e
    | .mxi8 => roundMxi8 c.mode c.r neg m e
    | .e8m0 => (255, fNV)
  | .inf neg =>
    match f with
    | .fp ff => if ff.sp == 0 && !ff.mx then (ff.signed neg ff.infCode, 0) else (substitute f c.subst neg c.cvsub, fSUBST)
    | _ => (substitute f c.subst neg c.cvsub, fSUBST)
  | .nan neg sig =>
    let nv := if sig then fNV else 0
    match f with
    | .fp ff => if !ff.mx then (ff.nanCode, nv) else (substitute f c.subst neg c.cvsub, fSUBST + nv)
    | _ => (substitute f c.subst neg c.cvsub, fSUBST + nv)

/-- Rounds the result of lane arithmetic by rne into a format (R133): a NaN is canonical. -/
def rne (f : FpFmt) (x : XR) : Nat × Nat :=
  match x with
  | .fin neg m e => roundFp f 0 false 0 neg m e
  | .inf neg => (f.signed neg f.infCode, 0)
  | .nan _ _ => (f.nanCode, 0)

/-- Rounds to 36 significant bits by round to odd: the wide intermediate (R106). -/
def odd (x : XR) : XR :=
  match x with
  | .fin neg m e =>
    if nbits m ≤ 36 then x
    else
      let sh := nbits m - 36
      let n := m / 2 ^ sh
      .fin neg (if m % 2 ^ sh ≠ 0 ∧ n % 2 = 0 then n + 1 else n) (e + sh)
  | r => r

/-- Flag NV for signalling operands, or for an operation that makes a NaN of none. -/
def nvOf (ops : List XR) (res : XR) : Nat :=
  if ops.any XR.isSig || (res.isNan && !ops.any XR.isNan) then fNV else 0

/-- `fadd` and its kin on exact operands (R133): code and flags. -/
def fpResult (f : FpFmt) (ops : List XR) (res : XR) : Nat × Nat :=
  let res := if ops.any XR.isNan then .nan false false else res
  let (c, fl) := rne f res
  (c, fl ||| nvOf ops res)

/-- `fmin` and `fmax` on codes (R134); `big` selects the maximum. -/
def fpMinMax (f : FpFmt) (big : Bool) (a b : Nat) : Nat × Nat :=
  let x := decodeFp f a
  let y := decodeFp f b
  let nv := if x.isSig || y.isSig then fNV else 0
  let less := x.lt y || (x.isZero && y.isZero && x.neg && !y.neg)
  if x.isNan && y.isNan then (f.nanCode, nv)
  else if x.isNan then (b, nv)
  else if y.isNan then (a, nv)
  else (if less != big then a else b, nv)

/-- The exact quotient of two finite values with a sticky last bit, for one later rounding. -/
def quotient (m : Nat) (e : Int) (k : Nat) (f : Int) : Nat × Int :=
  let sh := 130 + nbits k
  let q := m * 2 ^ sh / k
  (2 * q + (if m * 2 ^ sh % k = 0 then 0 else 1), e - f - sh - 1)

/-- Integer square root, one bit of the result at a time from bit `i - 1` down. -/
def isqrtFrom (n : Nat) : Nat → Nat → Nat
  | 0, acc => acc
  | i + 1, acc => if (acc + 2 ^ i) * (acc + 2 ^ i) ≤ n then isqrtFrom n i (acc + 2 ^ i) else isqrtFrom n i acc

/-- Integer square root. -/
def isqrt (n : Nat) : Nat := isqrtFrom n (nbits n / 2 + 1) 0

/-- √(m × 2^e) with a sticky last bit. -/
def sqrtOf (m : Nat) (e : Int) : Nat × Int :=
  let m := if e % 2 = 0 then m else 2 * m
  let e := if e % 2 = 0 then e else e - 1
  let n := m * 2 ^ 260
  let s := isqrt n
  (2 * s + (if s * s = n then 0 else 1), e / 2 - 131)

/-- 1/√(m × 2^e) with a sticky last bit. -/
def rsqrtOf (m : Nat) (e : Int) : Nat × Int :=
  let m := if e % 2 = 0 then m else 2 * m
  let e := if e % 2 = 0 then e else e - 1
  let k := 130 + nbits m
  let s := isqrt (2 ^ (2 * k) / m)
  (2 * s + (if s * s * m = 2 ^ (2 * k) then 0 else 1), -(e / 2) - k - 1)

/-- floor(ln 2 × 2^256). -/
def ln2 : Nat := 80260960185991308862233904206310070533990667611589946606122867505419956976171

/-- The Taylor sum of e^y at 256 fractional bits, `term` being y^(i-1)/(i-1)!, every step rounded down. -/
def expSum (y : Nat) : Nat → Nat → Nat → Nat → Nat
  | 0, _, _, acc => acc
  | k + 1, i, term, acc =>
    let t := term * y / 2 ^ 256 / i
    expSum y k (i + 1) t (acc + t)

/-- 2^(m × 2^e) for a non-integer exponent, as a value strictly between two multiples of 2^-256 of its binade
(DESIGN CHOICE, log entry 3). -/
def exp2Of (neg : Bool) (m : Nat) (e : Int) : XR :=
  if 0 ≤ e ∨ m % 2 ^ (-e).toNat = 0 then
    let v : Nat := if 0 ≤ e then shl m (min e 13) else m / 2 ^ (-e).toNat
    let v := min v 5000
    .fin false 1 (if neg then -(v : Int) else v)
  else
    let sh := (-e).toNat
    let v : Int := if neg then -(m : Int) else m
    let fl := v / (2 ^ sh : Nat)
    let fr := (v % (2 ^ sh : Nat)).toNat
    let y := fr * 2 ^ 256 / 2 ^ sh * ln2 / 2 ^ 256
    let s := expSum y 80 1 (2 ^ 256) (2 ^ 256)
    let fl := if fl < -5000 then -5000 else if 5000 < fl then 5000 else fl
    .fin false (2 * s + 1) (fl - 257)

/-- The fraction bits of log2 z for 1 ≤ z < 2 held at 512 fractional bits: `k` bits by repeated squaring. -/
def log2Bits : Nat → Nat → Nat → Nat
  | 0, _, acc => acc
  | k + 1, z, acc =>
    let z2 := z * z / 2 ^ 512
    if 2 ^ 513 ≤ z2 then log2Bits k (z2 / 2) (2 * acc + 1) else log2Bits k z2 (2 * acc)

/-- log2 of a positive dyadic: exact for a power of two, else strictly between two multiples of 2^-200 (DESIGN CHOICE, log entry 3). -/
def log2Of (m : Nat) (e : Int) : XR :=
  let k := Nat.log2 m
  if m = 2 ^ k then xrOfInt (e + k)
  else
    let z := m * 2 ^ 512 / 2 ^ k
    let t : Int := (e + k) * (2 ^ 200 : Nat) + log2Bits 200 z 0
    let v := 2 * t + 1
    .fin (v < 0) v.natAbs (-201)

/-- One step of the stochastic generator (R112). -/
def genStep (g : UWord) : UWord :=
  let g := g ^^^ (g <<< 13)
  let g := g ^^^ (g >>> 7)
  g ^^^ (g <<< 17)

/-- The 16 bits drawn at a rotation (R112, R149). -/
def genDraw (g : UWord) (rot : Nat) : Nat := (g.rotateLeft (rot % 64)).toNat % 65536

/-- The state a generator is loaded with (R114). -/
def genLoad (seed : UWord) (kdev kind number : Nat) : UWord :=
  let id := kdev * 2 ^ 24 + kind * 2 ^ 16 + number
  let k : UWord := 0x9E3779B97F4A7C15#64
  let g := seed ^^^ (BitVec.ofNat 64 id * k)
  if g = 0 then k else g

/-- amax of a block (R109): the largest finite magnitude, as a dyadic; zero when there is none. -/
def amaxOf (l : List XR) : XR :=
  l.foldl (fun acc x => match x with
    | .fin _ m e => if acc.lt (.fin false m e) then .fin false m e else acc
    | _ => acc) (.fin false 0 0)

/-- emax of an MX format (R110). -/
def mxEmax (c : Nat) : Int :=
  match c with
  | 8 => 8
  | 9 => 15
  | 10 => 4
  | 11 => 2
  | 12 => 2
  | _ => 0

/-- The shared scale code for an amax (R110), and SCLSAT. -/
def scaleCode (c : Nat) (amax : XR) : Nat × Nat :=
  match amax with
  | .fin _ m e =>
    if m = 0 then (0, 0)
    else
      let x := dyLog m e - mxEmax c
      if 127 < x then (254, fSCLSAT) else if x < -127 then (0, 0) else ((x + 127).toNat, 0)
  | _ => (254, fSCLSAT + fNV)

/-- An MX element under its scale code (R98): the NaN scale makes every element NaN. -/
def mxValue (c code scale : Nat) : XR :=
  if scale = 255 then .nan false false else (decodeFmt (fmtOf c) code).scale ((scale : Int) - 127)

/-- Quantises one value under a scale code (R111). A finite value clipped under a scale that is given sets NX and not SCLSAT, which R110 and R116 tie to a
clamped exponent (DESIGN CHOICE, log entry 95). -/
def mxQuant (c : Nat) (cv : Cvt) (scale : Nat) (x : XR) : Nat × Nat :=
  if scale = 255 then (substitute (fmtOf c) cv.subst x.neg cv.cvsub, fSUBST + (if x.isSig then fNV else 0))
  else convert (fmtOf c) { cv with sat := true } (x.scale (127 - (scale : Int)))

/-- `cvt` into e8m0 (R144): the scale code of an f32 and its flags. -/
def toE8m0 (mode : Nat) (x : XR) : Nat × Nat :=
  match x with
  | .fin false m e =>
    if m = 0 then (255, fNV)
    else
      let k := dyLog m e
      let pow := m == 2 ^ Nat.log2 m
      let x := if mode == 2 && !pow then k + 1 else k
      let inx := if pow then 0 else fNX
      if 127 < x then (254, inx ||| fSCLSAT)
      else if x < -127 then (0, fNX + fUF)
      else ((x + 127).toNat, inx)
  | _ => (255, fNV)

/-- Bits [ew(j+1) − 1 : ew·j] of a little-endian element stream (R99). -/
def streamElem (ew : Nat) (stream j : Nat) : Nat := stream / 2 ^ (ew * j) % 2 ^ ew

/-- Packs elements into a stream (R99). -/
def packStream (ew : Nat) : List Nat → Nat
  | [] => 0
  | c :: r => c % 2 ^ ew + 2 ^ ew * packStream ew r

/-- A natural number as little-endian bytes. -/
def natBytes : Nat → Nat → List Byte
  | 0, _ => []
  | k + 1, v => BitVec.ofNat 8 v :: natBytes k (v / 256)

/-- Little-endian bytes as a natural number. -/
def bytesNat : List Byte → Nat
  | [] => 0
  | b :: r => b.toNat + 256 * bytesNat r

end Sys2Proof.Machine
end

