-- ==== Sys2Proof/Machine/Access.lean ====
section
/-! DEFINITION. Access to the parts of the state: groups, teams, launches, cores, lane registers with their full/empty
bits (R17 to R20), uniform registers (R24), group registers (R23) and the bytes of device memory (R213, R217). -/

namespace Sys2Proof.Machine

/-- A group by number. -/
def State.group (s : State) (g : Nat) : Group := s.groups.getD g {}
def State.modGroup (s : State) (g : Nat) (f : Group → Group) : State := { s with groups := s.groups.modify g f }
def State.team (s : State) (t : Nat) : Team := s.teams.getD t {}
def State.modTeam (s : State) (t : Nat) (f : Team → Team) : State := { s with teams := s.teams.modify t f }
def State.launch (s : State) (l : Nat) : Launch := s.launches.getD l {}
def State.modLaunch (s : State) (l : Nat) (f : Launch → Launch) : State := { s with launches := s.launches.modify l f }
def State.core (s : State) (c : Nat) : Core := s.cores.get {} c
def State.modCore (s : State) (c : Nat) (f : Core → Core) : State := { s with cores := s.cores.set c (f (s.core c)) }
def State.cluster (s : State) (c : Nat) : Cluster := s.clusters.get {} c
def State.modCluster (s : State) (c : Nat) (f : Cluster → Cluster) : State :=
  { s with clusters := s.clusters.set c (f (s.cluster c)) }
def State.die (s : State) (d : Nat) : Die := s.dies.get {} d
def State.modDie (s : State) (d : Nat) (f : Die → Die) : State := { s with dies := s.dies.set d (f (s.die d)) }
def State.context (s : State) (c : Nat) : Context := s.contexts.get {} c
def State.modContext (s : State) (c : Nat) (f : Context → Context) : State :=
  { s with contexts := s.contexts.set c (f (s.context c)) }
def State.counter (s : State) (c : Nat) : Counter := s.counters.get {} c
def State.modCounter (s : State) (c : Nat) (f : Counter → Counter) : State :=
  { s with counters := s.counters.set c (f (s.counter c)) }
def State.queue (s : State) (k : Nat) : Queue := s.queues.get {} k
def State.modQueue (s : State) (k : Nat) (f : Queue → Queue) : State := { s with queues := s.queues.set k (f (s.queue k)) }
def State.modMx (s : State) (cl : Nat) (f : Matrix → Matrix) : State :=
  s.modCluster cl fun c => { c with mx := f c.mx }

/-- The team, the launch and the context of a group; the supervisor slot runs in context 0 (R459). -/
def State.teamOf (s : State) (g : Group) : Team := s.team g.team
def State.launchOf (s : State) (g : Group) : Launch := s.launch (s.teamOf g).launch
def State.ctxOf (s : State) (g : Group) : Nat :=
  if g.priv == .supervisor then 0 else (s.launchOf g).ctx

/-- The cluster and the die of a core (R12). -/
def clusterOf (core : Nat) : Nat := core / 4
def dieOf (core : Nat) : Nat := core / 96

/-- The code object's base: `kcode` (R24, R459). -/
def State.kcode (s : State) (g : Group) : Nat :=
  if g.priv == .supervisor then s.firm.supBase else (s.launchOf g).e.code

/-- A uniform register code (R24); the specials read the group's place. -/
def State.uval (s : State) (g : Group) (code : Nat) : UWord :=
  if code < 24 then g.uregs.get 0 code
  else
    match code with
    | 24 => 0
    | 25 => BitVec.ofNat 64 g.kgrp
    | 26 => BitVec.ofNat 64 (s.teamOf g).kteam
    | 27 => BitVec.ofNat 64 g.width
    | 28 => BitVec.ofNat 64 g.core
    | 29 => BitVec.ofNat 64 (dieOf g.core)
    | 30 => BitVec.ofNat 64 s.kdev
    | _ => BitVec.ofNat 64 (s.kcode g)

/-- Writes a uniform register; codes 24 to 31 discard the write (R24). -/
def Group.setU (g : Group) (code : Nat) (v : UWord) : Group :=
  if code < 24 then { g with uregs := g.uregs.set code v } else g

/-- The members' mask of a whole group of width `w`. -/
def fullMask (w : Nat) : UWord := BitVec.ofNat 64 (2 ^ w - 1)

/-- A group register; `g0` is the whole group (R23). -/
def Group.greg (g : Group) (n : Nat) : GReg :=
  if n = 0 then { members := fullMask g.width, size := 0 }
  else g.gregs.get { members := fullMask g.width, size := 0 } n

/-- The subgroup length of a SIZE code in a group of width `w` (R23, R369). -/
def subLen (w size : Nat) : Nat :=
  match size with
  | 1 => min 4 w
  | 2 => min 8 w
  | 3 => min 16 w
  | _ => w

/-- The register a code names in a lane's window (R17). -/
def Lane.slotOf (l : Lane) (n : Nat) : Slot := if n < 8 then .glob n else .stack (l.w + n - 8)

/-- The 32-bit value of a register, for a stack of depth `d` (DEDUCED, log entry 6). -/
def Lane.rd (l : Lane) (d : Nat) (sl : Slot) : Word :=
  match sl with
  | .glob n => l.globals.get 0 n
  | .stack n => l.slots.get 0 (n % d)

/-- Writes a register; its full/empty bit stays. -/
def Lane.put (l : Lane) (d : Nat) (sl : Slot) (v : Word) : Lane :=
  match sl with
  | .glob n => { l with globals := l.globals.set n v }
  | .stack n => { l with slots := l.slots.set (n % d) v }

/-- Sets a register full or empty (R20). -/
def Lane.fill (l : Lane) (sl : Slot) : Lane := { l with empty := l.empty.filter (fun x => x != sl) }
def Lane.drain (l : Lane) (sl : Slot) : Lane := if l.empty.elem sl then l else { l with empty := sl :: l.empty }
def Lane.isEmpty (l : Lane) (sl : Slot) : Bool := l.empty.elem sl

/-- The registers of an operand: one, or an even/odd pair (R18). -/
def Lane.opSlots (l : Lane) (n : Nat) (pair : Bool) : List Slot :=
  if pair then [l.slotOf n, l.slotOf (n + 1)] else [l.slotOf n]

/-- An operand's value. -/
def Lane.rdOp (l : Lane) (d n : Nat) (pair : Bool) : Nat :=
  (l.rd d (l.slotOf n)).toNat + (if pair then 2 ^ 32 * (l.rd d (l.slotOf (n + 1))).toNat else 0)

/-- Writes an operand and marks it full. -/
def Lane.wrOp (l : Lane) (d n : Nat) (pair : Bool) (v : Nat) : Lane :=
  let l := (l.put d (l.slotOf n) (BitVec.ofNat 32 v)).fill (l.slotOf n)
  if pair then (l.put d (l.slotOf (n + 1)) (BitVec.ofNat 32 (v / 2 ^ 32))).fill (l.slotOf (n + 1)) else l

/-- Marks an operand empty at issue (R20). -/
def Lane.mark (l : Lane) (n : Nat) (pair : Bool) : Lane :=
  (l.opSlots n pair).foldl Lane.drain l

/-- The empty registers of an operand, with the lane's number. -/
def Lane.gaps (l : Lane) (i n : Nat) (pair : Bool) : List (Nat × Slot) :=
  ((l.opSlots n pair).filter l.isEmpty).map fun sl => (i, sl)

/-- Predicate `pn`; `p7` is true (R22). -/
def Lane.pred (l : Lane) (n : Nat) : Bool := n == 7 || l.preds.getLsbD n

/-- Writes a predicate; a write to `p7` is discarded (R22). -/
def Lane.setPred (l : Lane) (n : Nat) (v : Bool) : Lane :=
  if n < 7 then
    let m : BitVec 8 := BitVec.ofNat 8 (2 ^ n)
    { l with preds := if v then l.preds ||| m else l.preds &&& ~~~m }
  else l

/-- A true lane of a guarded word (R22, R38). -/
def Lane.guard (l : Lane) (o : LaneOp) : Bool := l.pred o.g != o.gn

/-- A lane of a group. -/
def Group.lane (g : Group) (i : Nat) : Lane := g.lanes.getD i {}
def Group.modLane (g : Group) (i : Nat) (f : Lane → Lane) : Group := { g with lanes := g.lanes.modify i f }

/-- Lanes by number that satisfy a test, in ascending order. -/
def Group.lanesWith (g : Group) (p : Lane → Bool) : List Nat :=
  (List.range g.lanes.length).filter fun i => p (g.lane i)

def Lane.isActive (l : Lane) : Bool := l.st == .active
def Lane.isExited (l : Lane) : Bool := l.st == .exited
def Lane.isBlocked (l : Lane) : Bool :=
  match l.st with
  | .blocked _ => true
  | _ => false

/-- A producer that has waited issues again: it reads its lane as before its marks (R20, R344). -/
def Lane.reissue (l : Lane) : Lane := { l.marked.foldl Lane.fill l with marked := [] }

/-- A lane leaves the word at which its producer waited: the marks are withdrawn, and the issue is over (R303, R344). -/
def Lane.unmark (l : Lane) : Lane := { l.reissue with op := none }

/-- The run at a PC: the group's active lanes there (R344). -/
def Group.run (g : Group) (pc : Word) : List Nat := g.lanesWith fun l => l.isActive && l.pc == pc

/-- The lanes that have not exited. -/
def Group.live (g : Group) : List Nat := g.lanesWith fun l => !l.isExited

/-- A lane set as a 64-bit mask. -/
def maskOf (l : List Nat) : UWord := BitVec.ofNat 64 ((l.map fun i => 2 ^ i).sum)

/-- The identity of a lane in its team: kgrp × w + v1 (R379). -/
def Group.ident (g : Group) (i : Nat) : Nat := g.kgrp * g.width + i

/-- N_T: GROUPS × w of the team's launch (R379). -/
def Launch.laneCount (l : Launch) : Nat := l.e.ngroups * l.e.width

/-- Devices of a domain launch, ascending (R394). -/
def Entry.devs (e : Entry) : List Nat := (List.range 16).filter fun d => e.gdom / 2 ^ d % 2 == 1

/-- Teams of a launch that this device hosts (R394). -/
def Entry.hosted (e : Entry) : Nat := if e.gdom = 0 then e.nteams else e.nteams / max e.devs.length 1

/-- Members of a gang that this device hosts. -/
def Entry.share (e : Entry) : Nat := if e.gdom = 0 then e.gang else e.gang / max e.devs.length 1

/-- `kteam` of hosted team `h` on device `dev` (R394). -/
def Entry.kteamOf (e : Entry) (dev h : Nat) : Nat :=
  if e.gdom = 0 then h else h / max e.share 1 * e.gang + (e.devs.findIdx fun d => d == dev) * e.share + h % max e.share 1

/-- The `prv` byte address of offset `o` of lane `i` (R222). -/
def State.prvAddr (s : State) (g : Group) (i o : Nat) : Nat :=
  let e := (s.launchOf g).e
  e.pb + (16 * (s.teamOf g).kteam + g.kgrp) * g.width * e.ps + o / 4 * 4 * g.width + 4 * i + o % 4

/-- Bits `hi` down to `lo` of a word. -/
def fld {n : Nat} (v : BitVec n) (hi lo : Nat) : Nat := v.toNat / 2 ^ lo % 2 ^ (hi + 1 - lo)

/-- Bit `i` of a number. -/
def tb (v i : Nat) : Bool := v / 2 ^ i % 2 == 1

/-- Sign extension of the low `n` bits of a number. -/
def sx (n v : Nat) : Int := intOfCode n true v

/-- Wraps an integer into `n` bits. -/
def wrap (n : Nat) (i : Int) : Nat := (i % (2 ^ n : Nat)).toNat

/-- One byte of device memory (R217: a byte never written is zero). -/
def State.byte (s : State) (a : Nat) : Byte := AMap.get 0 s.mem a

/-- Writes one byte and keeps the canonical form: no listed byte is zero. -/
def memSet (m : List Host.Cell) (a : Nat) (b : Byte) : List Host.Cell :=
  if b = 0 then AMap.erase m a else AMap.set m a b

/-- Writes bytes at listed addresses, in order. -/
def memPut (m : List Host.Cell) : List (Nat × Byte) → List Host.Cell
  | [] => m
  | (a, b) :: r => memPut (memSet m a b) r

/-- `n` bytes of device memory from an address. -/
def State.bytes (s : State) (a n : Nat) : List Byte := (List.range n).map fun i => s.byte (a + i)

/-- Addresses strictly rise and no listed byte is what an unlisted address reads as. -/
def Memory.sorted : List Host.Cell → Bool
  | [] => true
  | [(_, b)] => b != 0
  | (a, b) :: (c, d) :: r => b != 0 && a < c && Memory.sorted ((c, d) :: r)

/-- The canonical form of a memory. -/
abbrev Memory.wf (m : List Host.Cell) : Prop := Memory.sorted m = true

/-- Bytes laid from an address. -/
def spread (a : Nat) : List Byte → List (Nat × Byte)
  | [] => []
  | b :: r => (a, b) :: spread (a + 1) r

/-- CYCLE of a core after `n` turns of the machine (R5, R28, R430): a core counts a free number of cycles, one at least, in each turn
(DESIGN CHOICE, log entry 2). -/
def cyclesOf (core : Nat) : Nat → Nat
  | 0 => 0
  | n + 1 => cyclesOf core n + 1 + Config.cycleSkip core n

/-- The count of Rypepin's own cycles (R494, R503). -/
def State.firmCycles (s : State) : Nat := cyclesOf 384 s.firm.turns

/-- Rypepin logs an event, with a count of its own cycles (R503). -/
def logged (s : State) (e : List Nat) : State := { s with firm := { s.firm with log := s.firm.log ++ [s.firmCycles :: e] } }

/-- A new stamp: an order of events and a name for one issue. -/
def State.tick (s : State) : State := { s with stamp := s.stamp + 1 }

/-- Sets FLAGS bits of a group (R116, R117). -/
def Group.orFlags (g : Group) (f : Nat) : Group := { g with flags := g.flags ||| BitVec.ofNat 64 f }

/-- A capability entry's fields (R406, R407). -/
def Cap.kind (c : Cap) : Nat := fld c.lo 3 0
def Cap.send (c : Cap) : Bool := tb c.lo.toNat 4
def Cap.recv (c : Cap) : Bool := tb c.lo.toNat 5
def Cap.rd (c : Cap) : Bool := tb c.lo.toNat 6
def Cap.wr (c : Cap) : Bool := tb c.lo.toNat 7
def Cap.allow (c : Cap) : Nat := fld c.lo 15 8
/-- EP's bits, numbered as in R407. -/
def Cap.ep (c : Cap) (hi lo : Nat) : Nat := fld c.lo hi lo

/-- What an image entry loads as: itself, or empty where R406, R407 or R410 says so. -/
def Cap.load (lo hi : UWord) : Cap :=
  let k := fld lo 3 0
  let ok :=
    hi == 0 &&
    match k with
    | 1 => fld lo 63 21 == 0 && fld lo 17 16 != 3
    | 2 => fld lo 63 36 == 0 && fld lo 15 8 == 0
    | 3 => fld lo 63 16 == 0
    | 4 => fld lo 63 20 == 0
    | 5 => fld lo 63 16 == 0
    | 6 => fld lo 63 21 == 0
    | _ => false
  if ok then { lo := lo } else {}

/-- The counter a team's launch completes (R335). -/
def State.lcnt (s : State) (t : Nat) : Nat := (s.launch (s.team t).launch).e.lcnt

/-- The gang of a team, if its launch forms gangs: index in `gangs`, and its member number (R385). -/
def State.gangOf (s : State) (t : Nat) : Option (Nat × Nat) :=
  let tm := s.team t
  let e := (s.launch tm.launch).e
  if e.gang = 0 || tm.isSup then none
  else
    match s.gangs.findIdx? (fun g => g.launch == tm.launch && g.idx == tm.kteam / e.gang) with
    | some k => some (k, tm.kteam % e.gang)
    | none => none

/-- The gang's member number `m` as a team, when this device holds it. -/
def State.member (s : State) (k m : Nat) : Option Nat :=
  let g := s.gangs.getD k {}
  s.teams.findIdx? fun t => t.launch == g.launch && t.kteam == g.idx * g.n + m && !t.isSup

def State.modGang (s : State) (k : Nat) (f : Gang → Gang) : State := { s with gangs := s.gangs.modify k f }

/-- A group that runs: resident and not ended, in a team that issues (R395). -/
def State.runs (s : State) (g : Group) : Bool :=
  g.resident && !g.ended && ((s.teamOf g).st == .resident || (s.teamOf g).isSup)

end Sys2Proof.Machine
end

