-- ==== Sys2Proof/Machine/Lines.lean ====
section
/-! DEFINITION. Lines of device memory at their homes: encodings and tags (R225 to R233), home reads and writes (R213),
snapshots (R474 to R476), the host's copies (R324) and the copies in front of a home (R211, R239). -/

namespace Sys2Proof.Machine

/-- Sectors of a tag (R225). -/
def tagSectors (t : Nat) : Nat :=
  match t with
  | 0 => 4
  | 2 => 1
  | 3 => 1
  | 4 => 2
  | 5 => 3
  | 6 => 2
  | 7 => 3
  | 8 => 1
  | 9 => 2
  | 10 => 3
  | _ => 0

/-- Words of `w` bytes of a line. -/
def lineWords (w : Nat) (l : List Byte) : List Nat := (List.range (128 / w)).map fun i => bytesNat ((l.drop (i * w)).take w)

/-- A line fits BDw-k when every difference from word 0 is the sign extension of its low k bytes (R226). -/
def fitsBD (w k : Nat) (l : List Byte) : Bool :=
  let ws := lineWords w l
  let w0 := ws.headD 0
  ws.all fun x => let d := wrap (8 * w) ((x : Int) - w0); wrap (8 * w) (sx (8 * k) d) == d

/-- The compressor's choice: a function of the bytes alone (R228). -/
def compressTag (l : List Byte) : Nat :=
  let w4 := lineWords 4 l
  if l.all (· == 0) then 1
  else if w4.all (· == w4.headD 0) then 2
  else if fitsBD 8 1 l then 3
  else if fitsBD 4 1 l then 6
  else if fitsBD 8 2 l then 4
  else if fitsBD 4 2 l then 7
  else if fitsBD 8 4 l then 5
  else 0

/-- Set bits of a 64-bit value. -/
def popcount (v : Nat) : Nat := ((List.range 64).map fun i => v / 2 ^ i % 2).sum

/-- The decoded line of stored sectors under a tag (R226), when it is well framed (R227). -/
def decodeLine (tag : Nat) (st : List Byte) : Option (List Byte) :=
  let at_ (i n : Nat) : Nat := bytesNat ((st.drop i).take n)
  let clear (len : Nat) : Bool := ((st.take (32 * tagSectors tag)).drop len).all (· == 0)
  let bd (w k : Nat) : List Byte :=
    let w0 := at_ 0 w
    natBytes w w0 ++ ((List.range (128 / w - 1)).map fun i =>
      natBytes w (wrap (8 * w) ((w0 : Int) + sx (8 * k) (at_ (w + k * i) k)))).flatten
  match tag with
  | 0 => some (st.take 128)
  | 1 => some (List.replicate 128 0)
  | 2 => if clear 4 then some ((List.range 32).map fun _ => natBytes 4 (at_ 0 4)).flatten else none
  | 3 => if clear 23 then some (bd 8 1) else none
  | 4 => if clear 38 then some (bd 8 2) else none
  | 5 => if clear 68 then some (bd 8 4) else none
  | 6 => if clear 35 then some (bd 4 1) else none
  | 7 => if clear 66 then some (bd 4 2) else none
  | 8 | 9 | 10 =>
    let b := at_ 0 4
    let n := popcount b
    if clear (4 + 4 * n) && (4 + 4 * n + 31) / 32 == tagSectors tag then
      some ((List.range 32).map fun i =>
        if tb b i then natBytes 4 (at_ (4 + 4 * popcount (b % 2 ^ i)) 4) else natBytes 4 0).flatten
    else none
  | _ => none

/-- The granules of a line that are not zero: B of an MXZ line as a drain or the compressor makes it (R174, R226). -/
def granuleMask (l : List Byte) : Nat := ((lineWords 4 l).zipIdx.map fun x => if x.1 = 0 then 0 else 2 ^ x.2).sum

/-- The stored bytes of a line's used sectors under a tag (R226), each byte of a used sector that the encoding does not list zero. The other
sectors hold no defined byte (R225). `b` gives the granules of an MXZ line that are stored. -/
def encodeLine (tag : Nat) (l : List Byte) (b : Nat) : List Byte :=
  let bd (w k : Nat) : List Byte :=
    let ws := lineWords w l
    let w0 := ws.headD 0
    natBytes w w0 ++ (ws.drop 1).flatMap fun x => natBytes k (wrap (8 * k) ((x : Int) - w0))
  let granules := lineWords 4 l
  let st : List Byte := match tag with
    | 2 => l.take 4
    | 3 => bd 8 1
    | 4 => bd 8 2
    | 5 => bd 8 4
    | 6 => bd 4 1
    | 7 => bd 4 2
    | 8 | 9 | 10 =>
      natBytes 4 b ++ (granules.zipIdx.filter fun x => b / 2 ^ x.2 % 2 == 1).flatMap fun x => natBytes 4 x.1
    | _ => l
  (st ++ List.replicate 128 0).take (32 * tagSectors tag)

/-- Start of the line that holds an address. -/
def lineOf (a : Nat) : Nat := a / 128 * 128

/-- A line's state for its consumers (R233): 0 good, 1 POISON, 2 badly framed. -/
def State.lineClass (s : State) (a : Nat) : Nat :=
  match s.tags.find (lineOf a) with
  | some v => if v = 15 then 1 else if 11 ≤ v ∧ v < 32 then 2 else 0
  | none => 0

/-- The cause that a consumer of a line takes (R233), or of one refused by another device (R422). -/
def classCause (c : Nat) : Cause := if c = 1 then .poison else if c = 4 then .perm else .cmpFrame

/-- The stored tag of a line, as `ldtag` reads it (R278). -/
def State.lineTag (s : State) (a : Nat) : Nat :=
  match s.tags.find (lineOf a) with
  | some v => v % 16
  | none => compressTag (s.bytes (lineOf a) 128)

/-- Lines of device memory that a range touches. -/
def linesOf (a n : Nat) : List Nat := if n = 0 then [] else (List.range ((a + n - 1) / 128 - a / 128 + 1)).map fun i => lineOf a + 128 * i

/-- The home die of a device physical address (R215). -/
def State.home (s : State) (dpa : Nat) : Nat :=
  let gib := 2 ^ 30
  let i := s.interleave
  if dpa < 4 * i * gib then dpa / 4096 % 4 else (dpa / gib - 4 * i) / (255 - i)

/-- The place of an address in its die's data (R215): 4 KiB units of the interleaved window, then the local window. -/
def State.local_ (s : State) (dpa : Nat) : Nat :=
  let gib := 2 ^ 30
  let i := s.interleave
  if dpa < 4 * i * gib then dpa / 16384 * 4096 + dpa % 4096 else i * gib + (dpa - 4 * i * gib - s.home dpa * ((255 - i) * gib))

/-- The address at a place of a die's data. -/
def State.fromLocal (s : State) (die x : Nat) : Nat :=
  let gib := 2 ^ 30
  let i := s.interleave
  if x < i * gib then x / 4096 * 16384 + die * 4096 + x % 4096 else 4 * i * gib + die * ((255 - i) * gib) + (x - i * gib)

/-- Units are 64 KiB of DPA (R474). -/
def unitOf (dpa : Nat) : Nat := dpa / 65536

/-- The LEVEL 1 parent of a launch's counter, if any (R476, R479). -/
def State.graphOf (s : State) (l : Nat) : Option Nat :=
  let p := (s.counter (s.launch l).e.lcnt).parent
  if p != 0xFFFF && (s.counter p).level == 1 then some p else none

/-- Marks the units that an outside access exposes (R476). `who` is the launch that acts; a supervisor slot acts for none (R459, R475). -/
def expose (s : State) (who : Option Nat) (dpa : Nat) : State :=
  let u := unitOf dpa
  let friend (x : Nat) : Bool :=
    match who with
    | some l => (s.launch l).e.snap && (s.graphOf l).isSome && s.graphOf l == s.graphOf x
    | none => false
  let ctxs : List Nat := match who with
    | some l => if l < s.launches.length then [(s.launch l).ctx] else []
    | none => []
  { s with launches := s.launches.mapIdx fun x la =>
      if who == some x then la
      else { la with snaps := la.snaps.map fun sn =>
        if sn.unit = u then
          { sn with exp := true, gonly := (if sn.exp then sn.gonly else true) && friend x, by_ := sn.by_ ++ ctxs }
        else sn } }

/-- The first write of a snapshotted launch to a unit copies it into a frame, unless a live launch has snapshotted it (R474); without a free frame
Rypepin logs the event (R480). -/
def snapshot (s : State) (who : Option Nat) (dpa : Nat) : State :=
  match who with
  | none => s
  | some l =>
    let la := s.launch l
    let u := unitOf dpa
    if !la.e.snap || la.unprotected || la.finished || s.launches.any (fun x => !x.finished && x.snaps.any fun sn => sn.unit == u) then s
    else if s.snapFrames = 0 then logged (s.modLaunch l fun la => { la with unprotected := true }) [0x480, l]
    else
      let sn : Snap := { unit := u, bytes := s.mem.filter (fun c => unitOf c.1 == u),
                         tags := s.tags.filter (fun c => unitOf c.1 == u) }
      { s.modLaunch l (fun la => { la with snaps := la.snaps ++ [sn] }) with snapFrames := s.snapFrames - 1 }

/-- The line of an address lies in a stack under recalibration and L2 does not hold it (R500). -/
def State.recalWaits (s : State) (a : Nat) : Bool :=
  match s.firm.recal with
  | some (false, n) => Config.stackOf (lineOf a) == n && !Config.inL2 s.firm.recalDraw (lineOf a)
  | _ => false

/-- The access of a line at its home must first wait: for the recall of the host's copy, any copy for a write and a modified one for a read (R324), or
for the end of its stack's recalibration (R500). -/
def State.snoopNeeded (s : State) (a : Nat) (wr : Bool) : Bool :=
  s.recalWaits a || match s.hostLines.find (lineOf a) with
  | some m => wr || m
  | none => false

/-- Sends the back-invalidate snoop of a line that the host may hold (R324). -/
def sendSnoop (s : State) (a : Nat) : State :=
  let p : Packet := { kind := "backInvalidate", dst := 255, args := [lineOf a] }
  if s.sent.elem p || (s.hostLines.find (lineOf a)).isNone then s else { s with sent := s.sent ++ [p] }

/-- The home performs one write of bytes into one line (R213, R231): whole lines replace, others merge or poison. -/
def homeWrite (s : State) (who : Option Nat) (a : Nat) (bs : List (Nat × Byte)) : State :=
  let s := snapshot (expose s who a) who a
  let line := lineOf a
  let full := (List.range 128).all fun i => bs.any fun p => p.1 == line + i
  if full || s.lineClass a = 0 then { s with tags := AMap.erase s.tags line, mem := memPut s.mem bs }
  else { s with tags := AMap.set s.tags line 15 }

/-- Writes bytes that span lines, one home write a line. -/
def homeWrites (s : State) (who : Option Nat) (bs : List (Nat × Byte)) : State :=
  ((bs.map fun p => lineOf p.1).eraseDups).foldl
    (fun s line => homeWrite s who line (bs.filter fun p => lineOf p.1 == line)) s

/-- A drain writes one whole line with the tag it chose (R174). -/
def homeLine (s : State) (who : Option Nat) (line tag : Nat) (bs : List Byte) : State :=
  let s := snapshot (expose s who line) who line
  { s with
    mem := memPut s.mem (spread line bs)
    tags := if tag = compressTag bs then AMap.erase s.tags line
      else AMap.set s.tags line (if 8 ≤ tag ∧ tag ≤ 10 then tag else 32 + tag) }

/-- A line place holds these sectors under a tag (R225): a soft error or a restored image leaves them (R227, R485). A line that is not well framed keeps
the bytes of its sectors as they stand. -/
def setStored (s : State) (line tag : Nat) (stored : List Byte) : State :=
  let tag := tag % 16
  let st := stored.take (32 * tagSectors tag) ++ List.replicate 128 0
  if 11 ≤ tag then { s with tags := AMap.set s.tags line tag }
  else
    match decodeLine tag st with
    | none => { s with mem := memPut s.mem (spread line (st.take 128)), tags := AMap.set s.tags line (16 + tag) }
    | some b =>
      { s with
        mem := memPut s.mem (spread line b)
        tags :=
          if tag = compressTag b then AMap.erase s.tags line
          else if tag < 8 then AMap.set s.tags line (32 + tag)
          else if bytesNat (st.take 4) = granuleMask b then AMap.set s.tags line tag
          else AMap.set s.tags line (64 + tag + 256 * bytesNat (st.take 4)) }

/-- The bytes of a line's used sectors, as they are stored (R225, R227). -/
def State.stored (s : State) (line : Nat) : List Byte :=
  let b := s.bytes line 128
  if s.lineClass line ≠ 0 then b.take (32 * tagSectors (s.lineTag line))
  else encodeLine (s.lineTag line) b (match s.tags.find line with
    | some v => if 64 ≤ v then v / 256 else granuleMask b
    | none => granuleMask b)

/-- The operation of an atomic on `n`-bit values (R47, R273). -/
def rmw (aop n old b : Nat) : Nat :=
  let f := if n = 64 then fmtF64 else fmtF32
  match aop with
  | 0 => (old + b) % 2 ^ n
  | 1 => old &&& b
  | 2 => old ||| b
  | 3 => old ^^^ b
  | 4 => if sx n old ≤ sx n b then old else b
  | 5 => if sx n b ≤ sx n old then old else b
  | 6 => min old b
  | 7 => max old b
  | 8 => b
  | 9 => if b ≤ old then 0 else old + 1
  | 10 => if old = 0 ∨ b < old then b else old - 1
  | 11 => (fpResult f [decodeFp f old, decodeFp f b] ((decodeFp f old).add (decodeFp f b))).1
  | 12 => (fpMinMax f false old b).1
  | _ => (fpMinMax f true old b).1

/-- One atomic at its home (R231, R252): the old value, or the line's class when it cannot be performed. -/
def homeRmw (s : State) (who : Option Nat) (a n : Nat) (f : Nat → Option Nat) : State × Nat × Nat :=
  if s.lineClass a ≠ 0 then (expose s who a, 0, s.lineClass a)
  else
    let old := bytesNat (s.bytes a (n / 8))
    match f old with
    | some v => (homeWrite s who a (spread a (natBytes (n / 8) v)), old, 0)
    | none => (expose s who a, old, 0)

/-- Drops the copies that satisfy a test (R211, R247). -/
def dropLines (s : State) (p : CacheLine → Bool) : State := { s with caches := s.caches.filter fun c => !p c }

/-- The holder number of a cluster's cache ways. -/
def ccHolder (cl : Nat) : Nat := 1024 + cl

/-- An access performed at the home for a core drops its line's copy in the core's cluster ways: a later read through them must not
return an older value (R211, R241, R251; DESIGN CHOICE, log entry 7). -/
def dropWay (s : State) (core a : Nat) : State :=
  dropLines s fun c => c.holder == ccHolder (clusterOf core) && c.dpa == lineOf a

/-- Cache-mode banks of a cluster: its ways (R218). -/
def State.ways (s : State) (cl : Nat) : Nat :=
  ((List.range 32).filter fun b => (s.cluster cl).modes.get 0 b == 0).length

/-- The copy that leaves a holder first: one filled under `.strm`, else the oldest (R268; DESIGN CHOICE, log entry 7). -/
def firstOut (l : List CacheLine) : Option CacheLine :=
  match l.find? fun c => c.strm with
  | some c => some c
  | none => l.head?

/-- Keeps a copy; past a holder's capacity another copy goes. Any line may take any place of its holder (DESIGN CHOICE, log entry 7). -/
def keepLine (s : State) (cap : Nat) (c : CacheLine) : State :=
  if cap = 0 then s
  else
    let rest := s.caches.filter fun x => !(x.holder == c.holder && x.dpa == c.dpa)
    let mine := rest.filter fun x => x.holder == c.holder
    let rest := if mine.length < cap then rest else
      match firstOut mine with
      | some o => rest.erase o
      | none => rest
    { s with caches := rest ++ [c] }

/-- Private lines with bytes not written back that the L1 of a core holds (R211, R223). -/
def Group.prvLines (g : Group) : List Nat := (g.prvDirty.map fun c => lineOf c.1).eraseDups
def State.prvLines (s : State) (core : Nat) : Nat :=
  ((s.groups.filter fun g => g.core == core && g.resident && !g.ended).map fun g => g.prvLines.length).sum

/-- Lines of `glob` and `cst` that an L1 of 2,560 lines has room for beside its private ones (R211). -/
def State.l1Room (s : State) (core : Nat) : Nat := 2560 - s.prvLines core

/-- A read of `n` bytes in one line by a core, through its L1 and its cluster's ways unless `fresh` (R239, R248): the
bytes, or the line's class. `l1` and `way` say whether the L1 and the cluster's ways may keep the line: a TSO line is kept in neither
(R256), and the hint `.nol1` keeps it from the L1 (R268). -/
def readLine (s : State) (who : Option Nat) (core ctx va dpa n : Nat) (fresh cst l1 way strm : Bool) : State × List Byte × Nat :=
  let line := lineOf dpa
  let off := dpa - line
  let hit (h : Nat) : Option CacheLine := s.caches.find? fun c => c.holder == h && c.dpa == line
  let cl := clusterOf core
  match (if fresh then none else hit core) with
  | some c => (s, (c.bytes.drop off).take n, 0)
  | none =>
    let mk (h : Nat) (b : List Byte) : CacheLine :=
      { holder := h, ctx := ctx, va := va - off, dpa := line, cst := cst, bytes := b, strm := strm }
    match (if fresh then none else hit (ccHolder cl)) with
    | some c => (if l1 then keepLine s (s.l1Room core) (mk core c.bytes) else s, (c.bytes.drop off).take n, 0)
    | none =>
      let s := expose s who dpa
      if s.lineClass dpa ≠ 0 then (s, [], s.lineClass dpa)
      else
        let b := s.bytes line 128
        let s := dropLines s fun c => (c.holder == core || c.holder == ccHolder cl) && c.dpa == line
        let s := if way then keepLine s (1024 * s.ways cl) (mk (ccHolder cl) b) else s
        (if l1 then keepLine s (s.l1Room core) (mk core b) else s, (b.drop off).take n, 0)

/-- A store updates the core's present L1 line, or drops it under the hint `.nol1` (R47, R211, R214). -/
def storeL1 (s : State) (core dpa : Nat) (bs : List Byte) (noL1 : Bool) : State :=
  let line := lineOf dpa
  let off := dpa - line
  if noL1 then dropLines s fun c => c.holder == core && c.dpa == line
  else { s with caches := s.caches.map fun c =>
    if c.holder = core ∧ c.dpa = line then
      { c with bytes := c.bytes.take off ++ bs ++ c.bytes.drop (off + bs.length) }
    else c }

/-- Performs the oldest pending store of the core and line of store `k` (R213, R240). It stays while the host's answer to a
snoop is awaited (R324). -/
def performStore (s : State) (k : Nat) : State :=
  match s.stores[k]? with
  | none => s
  | some st =>
    let k := (s.stores.findIdx? fun x => x.core == st.core && lineOf x.dpa == lineOf st.dpa).getD k
    match s.stores[k]? with
    | none => s
    | some st =>
      if s.snoopNeeded st.dpa true then sendSnoop s st.dpa
      else dropWay (homeWrite { s with stores := s.stores.eraseIdx k } (some st.launch) st.dpa st.bytes) st.core st.dpa

/-- Performs the pending stores of a core that a test selects, oldest first. -/
def performStores : Nat → State → (Store → Bool) → State
  | 0, s, _ => s
  | n + 1, s, p =>
    match s.stores.findIdx? (fun st => p st && !s.snoopNeeded st.dpa true) with
    | none => s
    | some k => performStores n (performStore s k) p

/-- A binding of a context that covers an address, if any: its object (R242). -/
def State.boundTo (s : State) (ctx va : Nat) : Option Nat :=
  ((s.context ctx).bindings.find? fun b => b.base ≤ va && va < b.base + b.len).map fun b => b.obj

/-- The object set of an ordering operation (R244): every object, or one; `I` is object 0. -/
inductive ObjSet where
  | all
  | obj (o : Nat)
deriving DecidableEq, Repr

/-- The object that an address names: itself when explicit, else I (R244). -/
def State.objectAt (s : State) (ctx a : Nat) : ObjSet :=
  if (s.context ctx).bindings.any fun b => b.obj == a then .obj a else .obj 0

/-- Whether an acquire of an object set by a context covers a copy (R247): by the acquirer's bindings, and always where another context
filled the line, whose address the acquirer's bindings do not name (DEDUCED, log entry 27). -/
def State.covers (s : State) (ctx : Nat) (o : ObjSet) (c : CacheLine) : Bool :=
  match o with
  | .all => true
  | .obj 0 => c.cst || c.ctx != ctx || (s.boundTo ctx c.va).isNone
  | .obj n => !c.cst && (c.ctx != ctx || s.boundTo ctx c.va == some n)

/-- An acquire by a core (R247). -/
def acquire (s : State) (core ctx scope : Nat) (o : ObjSet) : State :=
  if scope < 2 then s
  else dropLines s fun c => (c.holder == core || (3 ≤ scope && c.holder == ccHolder (clusterOf core))) && s.covers ctx o c

end Sys2Proof.Machine
end

