-- ==== Sys2Proof/Machine/Translate.lean ====
section
/-! DEFINITION. Translation (spec/17): contexts, the two table formats, targets and permissions, the TLBs and the walk
cache, page requests. -/

namespace Sys2Proof.Machine

/-- Fields of a context descriptor (R404): word `i` of eight, bits `hi` down to `lo`. -/
def Context.d (c : Context) (i hi lo : Nat) : Nat := fld (c.desc.getD i 0) hi lo
def Context.valid (c : Context) : Bool := c.d 0 0 0 == 1
def Context.hostFmt (c : Context) : Bool := c.d 0 1 1 == 1
def Context.five (c : Context) : Bool := c.d 0 2 2 == 1
def Context.hfd (c : Context) (hi lo : Nat) : Nat := c.d 3 hi lo

/-- GiB of device memory: DPA 0 to 1,020 GiB (R215). -/
def dpaLimit : Nat := 1020 * 2 ^ 30

/-- A canonical address (R411). -/
def Context.canonical (c : Context) (va : Nat) : Bool :=
  if !c.hostFmt then va < 2 ^ 48
  else
    let b := if c.five then 56 else 47
    va / 2 ^ b == 0 || va / 2 ^ b == 2 ^ (64 - b) - 1

/-- The result of a walk before permissions are judged. -/
inductive Walk where
  | leaf (tgt : Target) (size : Nat) (rp wp xp tso : Bool) (entry : Target) (dbit abit : Nat)
  | absent
  | malformed (entry : Target)
  | bad (cls : Nat)
  | snoop (line : Nat)
  /-- a host line that the walk must read first (R419) -/
  | far (line : Nat)
deriving DecidableEq, Repr

/-- Moves a target by bytes. -/
def Target.off (t : Target) (k : Nat) : Target :=
  match t with
  | .dpa a => .dpa (a + k)
  | .peer d o => .peer d (o + k)
  | .mcast g o => .mcast g (o + k)
  | .host a => .host (a + k)

/-- The line target of an access, and its position in its space. -/
def Target.line (t : Target) : Target :=
  match t with
  | .dpa a => .dpa (lineOf a)
  | .peer d o => .peer d (lineOf o)
  | .mcast g o => .mcast g (lineOf o)
  | .host a => .host (lineOf a)

def Target.pos (t : Target) : Nat :=
  match t with
  | .dpa a => a
  | .peer _ o => o
  | .mcast _ o => o
  | .host a => a

/-- The bytes of a host line that a port's ownership cache holds (R323). -/
def State.ownedLine (s : State) (a : Nat) : Option (List Byte) := AMap.find s.owned (lineOf a)

/-- A line outside the device as a reader has it: its bytes, why there are none, or nothing yet. -/
inductive Far where
  | have_ (b : List Byte)
  | bad (c : Nat)
  | none
deriving DecidableEq, Repr

/-- A reader's line of the host or of another device (R307, R323): from the ownership cache where the port owns it, else as answered. -/
def State.farLine (s : State) (r : Reader) (t : Target) : Far :=
  let own := match t with
    | .host a => s.ownedLine a
    | _ => none
  match own with
  | some b => .have_ b
  | none =>
    match s.answers.find? fun a => a.who == r && a.tgt == t.line with
    | some a => if a.bad = 0 then .have_ a.bytes else .bad a.bad
    | none => .none

/-- A request of a reader for a host line, with ownership when `own` (R323): it leaves once, after the earlier writes of `core` to the line. -/
def askHost (s : State) (r : Reader) (core gid line : Nat) (own : Bool) : State :=
  let kind := if own then 5 else 0
  if s.hostReqs.any fun q => q.who == some r && q.addr == line && q.kind == kind then s
  else
    { s with hostReqs := s.hostReqs ++
      [{ kind := kind, addr := line, size := 128, core := core, group := gid, who := some r, op := s.stamp }] }

/-- A reader has used its answers. -/
def dropAnswers (s : State) (r : Reader) : State := { s with answers := s.answers.filter fun a => a.who != r }

/-- One table entry at its home or in host memory (R419): a fault of the line, or its 64 bits. -/
inductive EntryRead where
  | val (v : Nat)
  | bad (cls : Nat)
  | snoop (line : Nat)
  | far (line : Nat)
deriving DecidableEq, Repr

def State.tableEntry (s : State) (r : Reader) (t : Target) : EntryRead :=
  match t with
  | .dpa a =>
    if s.snoopNeeded a false then .snoop (lineOf a)
    else if s.lineClass a ≠ 0 then .bad (s.lineClass a)
    else .val (bytesNat (s.bytes a 8))
  | .host a =>
    match s.farLine r (.host a) with
    | .have_ b => .val (bytesNat ((b.drop (a % 128)).take 8))
    | .bad c => .bad c
    | .none => .far (lineOf a)
  | _ => .val 0

/-- The target a device-format entry names: frame and TGT (R412, R415), for a page of `size` bytes. -/
def State.devTarget (s : State) (e size : Nat) : Option Target :=
  let frame := e / 4096 % 2 ^ 40 * 4096
  let tid := e / 2 ^ 54 % 64
  match e / 2 ^ 52 % 4 with
  | 0 => if tid = 0 ∧ frame + size ≤ dpaLimit then some (.dpa frame) else none
  | 1 =>
    if tid = s.kdev then (if frame + size ≤ dpaLimit then some (.dpa frame) else none)
    else if tid < s.domSize ∧ frame < 2 ^ 40 then some (.peer tid frame) else none
  | 2 => if frame < 2 ^ 40 then some (.mcast tid frame) else none
  | _ => if tid = 0 then some (.host frame) else none

/-- A device-format walk from a table at a level (R412, R413). Each step also reports the tables it passed. -/
def walkDev (s : State) (r : Reader) (va : Nat) : Nat → Target → List (Nat × Target) → Walk × List (Nat × Target)
  | 0, t, p => (.malformed t, p)
  | l + 1, table, path =>
    let level := l + 1
    let idx := va / 2 ^ (12 + 9 * l) % 512
    let at_ := table.off (8 * idx)
    match s.tableEntry r at_ with
    | .bad c => (.bad c, path)
    | .snoop x => (.snoop x, path)
    | .far x => (.far x, path)
    | .val e =>
      if !tb e 0 then (.absent, path)
      else if e / 2 ^ 9 % 8 ≠ 0 ∨ e / 2 ^ 60 ≠ 0 then (.malformed at_, path)
      else if tb e 4 then
        if level = 4 ∨ (tb e 5 ∧ level ≠ 1) then (.malformed at_, path)
        else
          let size := if level = 3 then 2 ^ 30 else if level = 2 then 2 ^ 21 else if tb e 5 then 65536 else 4096
          let pos := if tb e 5 then idx % 16 * 4096 else 0
          let frame := e / 4096 % 2 ^ 40 * 4096
          if frame < pos ∨ (frame - pos) % size ≠ 0 then (.malformed at_, path)
          else
            match s.devTarget (e - pos) size with
            | none => (.malformed at_, path)
            | some t => (.leaf t size (tb e 1) (tb e 2) (tb e 3) (tb e 8) at_ 7 6, path)
      else if level = 1 ∨ e / 2 ^ 5 % 16 ≠ 0 ∨ e / 2 % 8 ≠ 0 ∨ e / 2 ^ 54 % 64 ≠ 0 ∨ e / 2 ^ 52 % 4 = 1 ∨ e / 2 ^ 52 % 4 = 2 then
        (.malformed at_, path)
      else
        let frame := e / 4096 % 2 ^ 40 * 4096
        let t : Target := if e / 2 ^ 52 % 4 = 0 then .dpa frame else .host frame
        if e / 2 ^ 52 % 4 = 0 ∧ dpaLimit < frame + 4096 then (.malformed at_, path)
        else walkDev s r va l t (path ++ [(l, t)])

/-- The target of a host frame (R414): a DPA inside the HDM window of `hdm` GiB, else a host physical address. -/
def Context.hostTarget (c : Context) (hdm frame : Nat) : Target :=
  let base := (c.desc.getD 2 0).toNat
  if base ≤ frame ∧ frame < base + hdm * 2 ^ 30 then .dpa (frame - base) else .host frame

/-- A host-format walk (R414); `rp`, `wp`, `xp` gather the permissions required at every level: the user bit for each of them (R416). -/
def walkHost (s : State) (r : Reader) (c : Context) (va : Nat) : Nat → Target → Bool → Bool → Bool → List (Nat × Target × Bool × Bool) →
    Walk × List (Nat × Target × Bool × Bool)
  | 0, t, _, _, _, p => (.malformed t, p)
  | l + 1, table, rp, wp, xp, path =>
    let level := l + 1
    let at_ := table.off (8 * (va / 2 ^ (12 + 9 * l) % 512))
    match s.tableEntry r at_ with
    | .bad k => (.bad k, path)
    | .snoop x => (.snoop x, path)
    | .far x => (.far x, path)
    | .val e =>
      let ahi := c.hfd 53 48
      if !tb e (c.hfd 5 0) then (.absent, path)
      else
        let rp := rp && tb e (c.hfd 17 12)
        let wp := rp && wp && tb e (c.hfd 11 6)
        let xp := rp && xp && (tb e (c.hfd 41 36) != (c.hfd 54 54 == 1))
        let frame := e % 2 ^ (ahi + 1) / 4096 * 4096
        if level = 1 ∨ (level ≤ 3 ∧ tb e (c.hfd 35 30)) then
          let size := if level = 3 then 2 ^ 30 else if level = 2 then 2 ^ 21 else 4096
          let tso := c.hfd 55 55 == 1 && tb e (c.hfd 47 42)
          (.leaf (c.hostTarget s.hdm (frame / size * size)) size rp wp xp tso at_ (c.hfd 29 24) (c.hfd 23 18), path)
        else
          let t := c.hostTarget s.hdm frame
          walkHost s r c va l t rp wp xp (path ++ [(l, t, wp, xp)])

/-- The lowest cached table of a walk (R418): a walk-cache entry of the die for this address. -/
def State.walkFrom (s : State) (die ctx va : Nat) (fab : Bool) : Option WalkEntry :=
  let hits := s.walks.filter fun w =>
    w.die == die && w.ctx == ctx && w.fab == fab && w.prefix_ == va / 2 ^ (12 + 9 * w.level)
  hits.foldl (fun acc w => match acc with
    | none => some w
    | some x => if w.level < x.level then some w else some x) none

/-- In the aperture a host-format context walks device-format tables from FABROOT (R414). -/
def Context.inAperture (c : Context) (va : Nat) : Bool :=
  let base := (c.desc.getD 4 0).toNat
  c.hostFmt && base ≤ va && va < base + c.d 5 15 0 * 2 ^ 30

/-- One walk of a context for an address, on a die: its result and the tables it read for the walk cache. -/
def State.walk (s : State) (r : Reader) (die ctx va : Nat) : Walk × List WalkEntry :=
  let c := s.context ctx
  let fab := c.inAperture va
  let root : Target := if c.d 0 4 4 = 1 then .host (c.desc.getD 1 0).toNat else .dpa (c.desc.getD 1 0).toNat
  let mk (l : Nat) (t : Target) (wp xp : Bool) : WalkEntry :=
    { die := die, ctx := ctx, fab := fab, level := l, prefix_ := va / 2 ^ (12 + 9 * l), table := t, wp := wp, xp := xp }
  let from_ := s.walkFrom die ctx va fab
  if !c.hostFmt || fab then
    let start := match from_ with
      | some w => (w.level, w.table)
      | none => (4, if fab then .dpa (c.desc.getD 6 0).toNat else root)
    let (w, p) := walkDev s r va start.1 start.2 []
    (w, p.map fun x => mk x.1 x.2 true true)
  else
    let start := match from_ with
      | some w => (w.level, w.table, w.wp, w.xp)
      | none => (if c.five then 5 else 4, root, true, true)
    let (w, p) := walkHost s r c va start.1 start.2.1 true start.2.2.1 start.2.2.2 []
    (w, p.map fun x => mk x.1 x.2.1 x.2.2.1 x.2.2.2)

/-- What an access needs: 0 read, 1 write, 2 read and write, 3 execute (R416). -/
def permits (kind : Nat) (rp wp xp : Bool) : Bool :=
  match kind with
  | 0 => rp
  | 1 => wp
  | 2 => rp && wp
  | _ => xp

/-- The outcome of a translation for its access. -/
inductive Trans where
  | ok (t : Target) (tso : Bool)
  | trap (c : Cause)
  /-- a page request of the context and page is outstanding, or waits for the allocation (R416) -/
  | wait (ctx vpn : Nat)
  /-- a table line awaits the host's answer to a snoop or to the walk's own read -/
  | hold (w : Why)
deriving DecidableEq, Repr

/-- The places whose TLBs an access of a core fills (R418). -/
def tlbPlaces (core : Nat) : List TlbAt :=
  [{ level := 0, idx := core }, { level := 1, idx := clusterOf core }, { level := 2, idx := dieOf core }]

/-- TLB entries at each level (R418). -/
def tlbCap (level : Nat) : Nat :=
  match level with
  | 0 => 192
  | 1 => 4096
  | _ => 32768

/-- Puts a translation into one TLB; past its size the oldest entry goes (DESIGN CHOICE, log entry 7). -/
def tlbPut (s : State) (e : Tlb) : State :=
  let rest := s.tlbs.filter fun x => !(x.place == e.place && x.ctx == e.ctx && x.base == e.base)
  let mine := rest.filter fun x => x.place == e.place
  let rest := if mine.length < tlbCap e.place.level then rest else
    match mine.head? with
    | some o => rest.erase o
    | none => rest
  { s with tlbs := rest ++ [e] }

/-- A walk's tables enter the walk cache of its die, 1,024 entries (R418): the oldest leave. Only a walk whose permissions passed enters, so an entry
has the user bit at each level above it. -/
def walksPut (s : State) (die : Nat) (path : List WalkEntry) : State :=
  let rest := s.walks.filter fun w => !path.elem w
  let mine := rest.filter (fun w => w.die == die) ++ path
  { s with walks := rest.filter (fun w => w.die != die) ++ mine.drop (mine.length - 1024) }

/-- Writes bytes into an owned host line (R323). -/
def putOwned (s : State) (a : Nat) (bs : List Byte) : State :=
  match s.ownedLine a with
  | none => s
  | some l =>
    let new := l.take (a % 128) ++ bs ++ l.drop (a % 128 + bs.length)
    { s with owned := s.owned.map fun x => if x.1 == lineOf a then (x.1, new) else x }

/-- Sets bits of a table entry by the walker's compare and swap (R417): at the home once the host holds no copy, or in the ownership cache once
the port owns the line. What it still awaits, if anything; the walk then starts again. -/
def setEntryBits (s : State) (r : Reader) (at_ : Target) (bits : Nat) : State × Option Why :=
  let old := match s.tableEntry r at_ with
    | .val v => v
    | _ => bits
  if old ||| bits = old then (s, none)
  else
    match at_ with
    | .dpa a =>
      if s.snoopNeeded a true then (sendSnoop s a, some (.snoop (lineOf a)))
      else (homeWrite s none a (spread a (natBytes 8 (old ||| bits))), none)
    | .host a =>
      if (s.ownedLine a).isSome then (putOwned s a (natBytes 8 (old ||| bits)), none)
      else (askHost s r 0 0 (lineOf a) true, some (.answer r))
    | _ => (s, none)

/-- Page requests are raised: PRI is enabled with an allocation, and the context has PRIEN (R416) (DEDUCED, log entry 55). -/
def State.priOn (s : State) (ctx : Nat) : Bool :=
  (s.context ctx).d 0 3 3 == 1 &&
    match s.prAlloc with
    | some n => n != 0
    | none => false

/-- A translation or a permission is lacking: a page request, or the trap at once (R416). `failed` says that the request of
this waiter has failed. -/
def lacking (s : State) (ctx va kind : Nat) (cause : Cause) (failed : Bool) (who : Nat) : State × Trans :=
  if failed || !s.priOn ctx then (s, .trap cause)
  else
    let vpn := va / 4096
    if s.pageReqs.any (fun r => r.ctx == ctx && r.vpn == vpn) then (s, .wait ctx vpn)
    else if s.pageReqs.length < s.prAlloc.getD 0 then
      ({ s with
        pageReqs := s.pageReqs ++ [{ ctx := ctx, vpn := vpn, kind := kind, who := who }]
        sent := s.sent ++ [{ kind := "pageRequest", dst := 255, args := [(s.context ctx).d 0 31 12, va / 4096, kind] }] },
       .wait ctx vpn)
    else (s, .wait ctx vpn)

/-- Miss entries at each level (R418). -/
def missCap (level : Nat) : Nat :=
  match level with
  | 0 => 64
  | 1 => 256
  | _ => 4096

/-- The die of a TLB. -/
def TlbAt.die (p : TlbAt) : Nat :=
  match p.level with
  | 0 => dieOf p.idx
  | 1 => p.idx / 24
  | _ => p.idx

/-- The core, or the first core of the cluster, whose TLBs an access goes through. -/
def placesCore (places : List TlbAt) : Nat :=
  match places with
  | p :: _ => if p.level = 0 then p.idx else if p.level = 1 then 4 * p.idx else 96 * p.idx
  | [] => 0

/-- Misses are keyed by context and 4 KiB page, and merge at each level (R419). -/
def Miss.key (m : Miss) (ctx vpn : Nat) : Bool := m.ctx == ctx && m.vpn == vpn
def State.missAt (s : State) (p : TlbAt) (ctx vpn : Nat) : Option Miss := s.misses.find? fun m => m.place == p && m.key ctx vpn
def State.missFree (s : State) (p : TlbAt) : Nat := missCap p.level - (s.misses.filter fun m => m.place == p).length
def State.missFits (s : State) (places : List TlbAt) (ctx vpn : Nat) : Bool :=
  places.all fun p => (s.missAt p ctx vpn).isSome || 0 < s.missFree p

/-- Misses of a die that wait for a walker, and the walkers in use (R419). -/
def State.queuedMisses (s : State) (die : Nat) : List Miss :=
  s.misses.filter fun m => m.place == { level := 2, idx := die } && !m.walking && !m.paging
def State.walking (s : State) (die : Nat) : Nat := (s.misses.filter fun m => m.place == { level := 2, idx := die } && m.walking).length

/-- The miss that a die walks next: round robin over its clusters, oldest first within one (R419). -/
def State.nextWalk (s : State) (die : Nat) : Option Miss :=
  let far (m : Miss) : Nat := (m.cl % 24 + 23 - (s.die die).walkTurn) % 24
  (s.queuedMisses die).foldl (fun acc m => match acc with
    | none => some m
    | some x => if far m < far x || (far m == far x && m.born < x.born) then some m else some x) none

/-- A walk of this page may go on, or may begin: one of the 64 walkers is at it, or one is free and no other miss comes first (R419). -/
def State.mayWalk (s : State) (die ctx vpn : Nat) : Bool :=
  match s.missAt { level := 2, idx := die } ctx vpn with
  | some m => m.walking || m.paging || (s.walking die < 64 && (s.nextWalk die).any fun x => x.key ctx vpn)
  | none => s.walking die < 64 && (s.queuedMisses die).isEmpty

/-- A miss stands at each level, with a walker or a page request, or with neither (R419). -/
def missPut (s : State) (places : List TlbAt) (ctx vpn kind : Nat) (walking paging : Bool) : State :=
  let core := placesCore places
  places.foldl (fun s p => match s.missAt p ctx vpn with
    | some _ => { s with misses := s.misses.map fun x => if x.place == p && x.key ctx vpn then { x with walking := walking, paging := paging } else x }
    | none =>
      { s with misses := s.misses ++ [{ place := p, ctx := ctx, vpn := vpn, core := core, kind := kind, cl := clusterOf core, born := s.stamp,
                                        walking := walking, paging := paging }] }) s

/-- The walk of a page has ended on a die: every waiter has its result (R419). -/
def missDone (s : State) (die ctx vpn : Nat) : State := { s with misses := s.misses.filter fun m => !(m.place.die == die && m.key ctx vpn) }

/-- The misses of a context go with its tables (R405). -/
def dropMisses (s : State) (ctx : Nat) : State := { s with misses := s.misses.filter fun m => m.ctx != ctx }

/-- Translates an address of a context for one access (R411 to R420). `places` are the TLBs that it goes through, the die's
last; `write` needs D known. -/
def translate (s : State) (places : List TlbAt) (die ctx va kind : Nat) (failed : Bool) (who : Nat := 0) : State × Trans :=
  let c := s.context ctx
  let write := kind = 1 ∨ kind = 2
  if !c.valid || c.teardown || !c.canonical va then (s, .trap .xlat)
  else
    match s.tlbs.find? (fun e => places.elem e.place && e.ctx == ctx && e.base ≤ va && va < e.base + e.size &&
        permits kind e.rp e.wp e.xp && (!write || e.dirty)) with
    | some e => (s, .ok (e.tgt.off (va - e.base)) e.tso)
    | none =>
      let vpn := va / 4096
      let r : Reader := .walk die ctx vpn
      if !s.missFits places ctx vpn then (s, .hold (.missRoom (placesCore places)))
      else if !s.mayWalk die ctx vpn then (missPut s places ctx vpn kind false false, .hold (.walker die ctx vpn))
      else
      let s := if (s.missAt { level := 2, idx := die } ctx vpn).any Miss.walking then s
        else s.modDie die fun d => { d with walkTurn := clusterOf (placesCore places) % 24 }
      let walked (x : State × Trans) : State × Trans :=
        match x.2 with
        | .hold w => (missPut x.1 places ctx vpn kind true false, .hold w)
        | .wait c v => (missPut x.1 places ctx vpn kind false true, .wait c v)
        | t => (missDone x.1 die ctx vpn, t)
      walked <| match s.walk r die ctx va with
      | (.snoop l, _) => (sendSnoop s l, .hold (.snoop l))
      | (.far l, _) => (askHost s r 0 0 l false, .hold (.answer r))
      | (.bad k, _) => (dropAnswers s r, .trap (classCause k))
      | (.malformed t, _) =>
        let s := dropAnswers s r
        let a := match t with
          | .dpa a => a
          | .host a => a
          | _ => 0
        (logged s [0x417, ctx, a], .trap .xlat)
      | (.absent, _) => lacking (dropAnswers s r) ctx va kind .xlat failed who
      | (.leaf t size rp wp xp tso at_ db ab, path) =>
        if !permits kind rp wp xp then lacking (dropAnswers s r) ctx va kind .perm failed who
        else
        match setEntryBits s r at_ (2 ^ ab ||| (if write then 2 ^ db else 0)) with
        | (s, some w) => (s, .hold w)
        | (s, none) =>
          let s := dropAnswers s r
          let s := walksPut s die path
          let base := va / size * size
          let s := places.foldl (fun s p => tlbPut s
            { place := p, ctx := ctx, base := base, size := size, tgt := t, rp := rp, wp := wp, xp := xp, tso := tso, dirty := write }) s
          (s, .ok (t.off (va - base)) tso)

/-- Translation for a core's access. -/
def State.trans (s : State) (core ctx va kind : Nat) (failed : Bool) : State × Trans :=
  translate s (tlbPlaces core) (dieOf core) ctx va kind failed

/-- Drops the translations of a context that meet a range, at every level of every die (R420); what a walk of the context has read or is reading
does not enter a TLB any more (R325). -/
def dropTlb (s : State) (ctx : Nat) (p : Nat → Nat → Bool) : State :=
  let stale (r : HostReq) : Bool := r.kind == 0 && match r.who with
    | some (.walk _ c _) => c == ctx
    | _ => false
  { s with
    hostReqs := s.hostReqs.map fun r => if stale r then { r with who := none } else r
    tlbs := s.tlbs.filter fun e => !(e.ctx == ctx && p e.base e.size)
    answers := s.answers.filter fun a => match a.who with
      | .walk _ c _ => c != ctx
      | _ => true
    walks := s.walks.filter fun w => !(w.ctx == ctx && p (w.prefix_ * 2 ^ (12 + 9 * w.level)) (2 ^ (12 + 9 * w.level))) }

end Sys2Proof.Machine
end

