-- ==== Sys2Proof/Machine/Paths.lean ====
section
/-! DEFINITION. Accesses by a core: the reduction buffer (R253), the write-combining buffer (R308), requests to other
devices (R306 to R313) and to the host (R323), private memory (R222, R223), scratch and the gang window (R221, R389), and
the work of a release (R247). -/

namespace Sys2Proof.Machine

/-- The way of a request (R310): 1 direct, 2 by the relay, 0 none. -/
def State.path (s : State) (peer : Nat) : Nat :=
  let direct (p : Nat) : Bool :=
    let e := s.route.get 0 p
    e.getLsbD 4 && s.links.elem (fld e 3 0)
  let e := s.route.get 0 peer
  if direct peer then 1 else if e.getLsbD 9 && direct (fld e 8 5) then 2 else 0

/-- The other way, when it is usable, else the same (R312). -/
def State.otherPath (s : State) (peer path : Nat) : Nat :=
  let e := s.route.get 0 peer
  let direct (p : Nat) : Bool := (s.route.get 0 p).getLsbD 4 && s.links.elem (fld (s.route.get 0 p) 3 0)
  if path = 1 then (if e.getLsbD 9 && direct (fld e 8 5) then 2 else s.path peer)
  else if direct peer then 1 else s.path peer

/-- The floor to a peer: the lowest awaited sequence number, or the next (R311). -/
def State.floorOf (s : State) (peer : Nat) : Nat :=
  ((s.fabReqs.filter fun r => r.peer == peer && r.tagged).map fun r => r.seq).foldl min (s.fabSeq.get 0 peer)

/-- The answer to a request of another device (R311): the number by which the origin knows the delivery, the request's number and tag, a status and
bytes. -/
def sendAnswer (s : State) (org via seq : Nat) (tagged : Bool) (status : Nat) (bytes : List Byte) : State :=
  { s with sent := s.sent ++ [{ kind := "response", dst := org, args := [via, seq, if tagged then 1 else 0, status], bytes := bytes }] }

/-- A device's filter takes an origin's floor: records below it go (R311). -/
def raiseFloor (s : State) (f flr : Nat) : State :=
  let d := s.filters.get {} f
  if flr ≤ d.flr then s else { s with filters := s.filters.set f { flr := flr, seen := d.seen.filter fun p => flr ≤ p.1 } }

/-- The filter keeps the answer of a request that has been performed (R311). -/
def noteSeen (s : State) (f seq status : Nat) (v : UWord) : State :=
  let d := s.filters.get {} f
  { s with filters := s.filters.set f { d with seen := d.seen.set seq (status, v) } }

/-- Records a failed or refused remote write against its group, or against the launch of a group that has ended (R313,
R422, R508). The first loss stays. Rypepin logs the group, the peer and the address. -/
def loseWrite (s : State) (g : Nat) (c : Cause) (va peer : Nat) : State :=
  let gr := s.group g
  let s := logged s [0x508, g, peer, va]
  if gr.ended then s.modLaunch (s.teamOf gr).launch fun l => { l with lostWrite := true }
  else if gr.lost.isSome then s
  else s.modGroup g fun gr => { gr with lost := some (c, BitVec.ofNat 64 va) }

/-- The request is the one of a peer, a number and a tag (R311). -/
def FabReq.named (r : FabReq) (peer seq : Nat) (tagged : Bool) : Bool := r.peer == peer && r.seq == seq && r.tagged == tagged

/-- Two requests of one core that touch one line of a peer or a group (R308). -/
def FabReq.sameLine (x r : FabReq) : Bool := x.peer == r.peer && x.core == r.core && lineOf x.off == lineOf r.off

/-- Operations of a group that count through an entry of its launch: loads, atomics and drains not yet acknowledged (R410); of `sent` ones, or of
all. -/
def State.capOut (s : State) (gid n : Nat) (sent : Bool) : Nat :=
  (s.fabReqs.filter fun r => r.caps.elem (gid, n) && (!sent || r.sends != 0)).length

/-- The allowance of an entry has room for one more operation of a group (R410). -/
def State.allows (s : State) (gid n : Nat) (sent : Bool) : Bool :=
  let c := (s.launchOf (s.group gid)).caps.get {} n
  c.allow == 0 || s.capOut gid n sent < c.allow

/-- A waiting request may be sent: its number lies within 1,024 of the floor to its peer, no earlier write or flush of its line from its
core is outstanding (R253, R308, R311), the entries that it counts through have room for it (R410), and for a mailbox's header the rest of the record
has been written (R443). -/
def State.maySend (s : State) (r : FabReq) : Bool :=
  let before := s.fabReqs.takeWhile fun x => !x.named r.peer r.seq r.tagged
  (!r.tagged || r.seq < s.floorOf r.peer + 1024) &&
    (r.eng != 0 || !(before.any fun x => (x.kind == 1 || x.kind == 4) && x.eng == 0 && x.sameLine r)) &&
    (r.caps.all fun c => s.allows c.1 c.2 true) &&
    !(r.after && before.any fun x => x.kind == 1 && x.eng == 0 && x.group == r.group && x.va == r.va)

/-- A request takes its number and waits to be sent, which the turn of a cycle does (`sends` 0). A multicast request's `peer` is 100 + its
group. -/
def sendFab (s : State) (r : FabReq) : State :=
  let seq := s.fabSeq.get 0 r.peer
  let s := if r.tagged then { s with fabSeq := s.fabSeq.set r.peer (seq + 1) } else s
  let r := { r with seq := if r.tagged then seq else s.stamp, sends := 0 }
  { s.tick with fabReqs := s.fabReqs ++ [r] }

/-- A coordination message goes to another device, tagged like a write (R311, R395). -/
def sendMsg (s : State) (kind dst : Nat) (args : List Nat) : State :=
  sendFab s { peer := dst, seq := 0, tagged := true, kind := kind, off := 0, size := 0, core := 384, group := s.groups.length, args := args }

/-- The same message to several devices. -/
def sendMsgs (s : State) (kind : Nat) (dsts : List Nat) (args : List Nat) : State := dsts.foldl (fun s d => sendMsg s kind d args) s

/-- One device's delivery of a request is acknowledged, a repeated answer of it once; with the last the request ends (R307, R316). -/
def ackFab (s : State) (peer seq frm : Nat) : State :=
  let put (r : FabReq) : FabReq :=
    if r.named peer seq true && !r.acked.elem frm then { r with acks := r.acks - 1, acked := r.acked ++ [frm] } else r
  { s with fabReqs := (s.fabReqs.map put).filter fun r => !(r.named peer seq true && r.acks == 0) }

/-- A multicast entry's fields (R315). -/
def mcValid (e : UWord) : Bool := e.getLsbD 16 && 16 ≤ fld e 29 24 && fld e 29 24 ≤ 40
def mcSize (e : UWord) : Nat := 2 ^ fld e 29 24
def mcBase (e : UWord) : Nat := fld e 55 32 * 65536
/-- The ports of an entry's FWD. -/
def mcPorts (e : UWord) : List Nat := (List.range 15).filter fun p => fld e 14 0 / 2 ^ p % 2 == 1

/-- The packets of a send: one to the peer, or one to each port of the multicast entry at hop 1 (R316). -/
def State.packets (s : State) (r : FabReq) : List Packet :=
  let bs := r.bytes.map fun b => b.2
  if 21 ≤ r.kind && r.kind ≤ 28 then [{ kind := "message", dst := r.peer, args := [r.seq, s.floorOf r.peer, r.kind, r.path] ++ r.args }]
  else if r.peer < 100 then
    [{ kind := "request", dst := r.peer, bytes := bs,
       args := [r.seq, s.floorOf r.peer, r.kind, r.off, r.size, r.data.toNat, r.aop, r.cmp.toNat, r.path] ++ r.bytes.map fun b => b.1 }]
  else
    (mcPorts (s.mcast.get 0 (r.peer - 100))).map fun p =>
      { kind := "multicast", dst := 200 + p, bytes := bs,
        args := [r.peer - 100, s.kdev, r.seq, s.floorOf r.peer, 1, r.off] ++ r.bytes.map fun b => b.1 }

/-- The local delivery of a multicast request: a home write when the entry says LOCAL, acknowledged once it is performed; an offset outside is
discarded and counted (R316) (DESIGN CHOICE, log entry 59). -/
def mcDeliver (s : State) (r : FabReq) : State :=
  let e := s.mcast.get 0 (r.peer - 100)
  if !mcValid e || !e.getLsbD 15 then s
  else if mcSize e ≤ r.off || dpaLimit ≤ mcBase e + r.off then ackFab { s with mcDiscards := s.mcDiscards + 1 } r.peer r.seq s.kdev
  else
    let bs := r.bytes.map fun p => (mcBase e + p.1, p.2)
    match bs.find? fun p => s.snoopNeeded p.1 true with
    | some p =>
      { sendSnoop s p.1 with
        heldIn := s.heldIn ++ [{ org := s.kdev, filt := none, seq := r.seq, kind := 1, at_ := mcBase e + r.off, size := bs.length, bytes := bs,
                                 via := r.peer }] }
    | none => ackFab (homeWrites s none bs) r.peer r.seq s.kdev

/-- Sends one request that waits, if it may go; without a path it fails at once (R310, R313). -/
def sendOne (s : State) (r : FabReq) : State :=
  if !s.maySend r then s
  else
    let put (r' : FabReq) : List FabReq := s.fabReqs.map fun x => if x.named r.peer r.seq r.tagged then r' else x
    if r.peer < 100 && s.path r.peer = 0 then
      { s with fabReqs := put { r with path := 0, sends := 4 }, agenda := s.agenda ++ [.transactionTimeout r.peer { seq := r.seq, tagged := r.tagged }] }
    else
      let r' := { r with path := s.path r.peer, sends := 1 }
      let s := { s with fabReqs := put r', sent := s.sent ++ s.packets r' }
      if 100 ≤ r.peer then mcDeliver s r' else s

/-- Sends the requests that waited and may now go, in order. -/
def pumpFab (s : State) : State := (s.fabReqs.filter fun r => r.sends == 0).foldl sendOne s

/-- A request of a reader for bytes of another device: it leaves once. -/
def askPeer (s : State) (r : Reader) (core gid dev off size kind : Nat) : State :=
  if s.fabReqs.any fun q => q.who == some r && q.peer == dev && q.off == off then s
  else sendFab s { peer := dev, seq := 0, tagged := false, kind := kind, off := off, size := size, core := core, group := gid, who := some r,
                   op := s.stamp }

/-- A reader asks for a line of the host or of another device. -/
def askFar (s : State) (r : Reader) (core gid : Nat) (t : Target) : State :=
  match t with
  | .host a => askHost s r core gid (lineOf a) false
  | .peer d o => askPeer s r core gid d (lineOf o) 128 0
  | _ => s

/-- Drains one write-combining entry (R308): one write with its mask. A multicast write awaits NM + 1 deliveries (R316). -/
def drainWc (s : State) (core : Nat) (e : WcEntry) : State :=
  let s := s.modCore core fun c => { c with wcb := c.wcb.erase e }
  let va := (e.writers.head?.map fun w => w.2).getD 0
  let r : FabReq := { peer := 0, seq := 0, tagged := true, kind := 1, off := e.tgt.pos, size := 128, bytes := e.bytes, core := core, group := e.group,
                      va := va, writers := e.writers, caps := e.caps }
  match e.tgt with
  | .peer d _ => sendFab s { r with peer := d }
  | .mcast g _ => sendFab s { r with peer := 100 + g, acks := fld (s.mcast.get 0 g) 20 17 + 1 }
  | _ => s

/-- Drains every entry of a core's write-combining buffer that a test selects. -/
def drainWcb (s : State) (core : Nat) (p : WcEntry → Bool) : State :=
  ((s.core core).wcb.filter p).foldl (fun s e => drainWc s core e) s

/-- A group joins the writers of a buffered write, with its first address. -/
def addWriter (l : List (Nat × Nat)) (w : Nat × Nat) : List (Nat × Nat) := if l.any fun x => x.1 == w.1 then l else l ++ [w]

/-- A remote store of an issue enters the write-combining buffer (R308). The bytes of one issue in one line leave as one write (R272): an entry that
the issue has written drains when the issue ends, and another makes room. `caps` are the window entries that the store counts through (R410). -/
def wcStore (s : State) (core group va op : Nat) (caps : List Nat) (t : Target) (bs : List Byte) : State :=
  let new := spread t.pos bs
  let mine := caps.map fun n => (group, n)
  match (s.core core).wcb.find? fun e => e.tgt == t.line with
  | some e =>
    let e' := { e with bytes := new.foldl (fun m p => AMap.set m p.1 p.2) e.bytes, writers := addWriter e.writers (group, va), op := op,
                       caps := e.caps ++ mine.filter fun c => !e.caps.elem c }
    s.modCore core fun c => { c with wcb := c.wcb.map fun x => if x == e then e' else x }
  | none =>
    let s := match (s.core core).wcb.find? fun e => e.op != op with
      | some o => if 64 ≤ (s.core core).wcb.length then drainWc s core o else s
      | none => s
    s.modCore core fun c =>
      { c with wcb := c.wcb ++ [{ tgt := t.line, group := group, bytes := new, born := s.clock, writers := [(group, va)], op := op, caps := mine }] }

/-- At the end of an issue, every entry of the buffer whose 128 bytes are written drains (R272, R308). -/
def wcSettle (s : State) (core : Nat) : State := drainWcb s core fun e => e.bytes.length == 128

/-- The port that a host line travels through (R322): 0 or 1; a range not assigned uses port 0 (DESIGN CHOICE, log entry 78). -/
def State.hostPort (s : State) (a : Nat) : Nat :=
  match s.hostRanges.find? fun r => r.1 ≤ a && a < r.1 + r.2.1 with
  | some r => if r.2.2 = 2 then a / 4096 % 2 else r.2.2
  | none => 0

/-- A port's ownership cache takes a line; past 512 lines its oldest is written back to the host (R323; DESIGN CHOICE,
log entry 7). -/
def takeOwned (s : State) (line : Nat) (bytes : List Byte) : State :=
  if (s.ownedLine line).isSome then s
  else
    let mine := s.owned.filter fun x => s.hostPort x.1 == s.hostPort line
    let s : State := match mine with
      | o :: r =>
        if 511 ≤ r.length then
          { s with owned := s.owned.filter fun x => x.1 != o.1
                   sent := s.sent ++ [{ kind := "hostWriteBack", dst := 255, args := [o.1], bytes := o.2 }] }
        else s
      | [] => s
    { s with owned := s.owned ++ [(lineOf line, (bytes ++ List.replicate 128 0).take 128)] }

/-- An atomic on an owned host line, done in the ownership cache (R323): the old value. -/
def hostRmw (s : State) (a n : Nat) (f : Nat → Option Nat) : State × Nat :=
  let old := bytesNat ((((s.ownedLine a).getD []).drop (a % 128)).take (n / 8))
  match f old with
  | some v => (putOwned s a (natBytes (n / 8) v), old)
  | none => (s, old)

/-- An earlier request to a line of the host that is not a plain read. -/
def HostReq.changes (r : HostReq) : Bool := r.kind != 0

/-- A waiting request to the host may go, or be done in the ownership cache: no earlier request to its line that may change it, and none at all for one
that may change it itself, is outstanding, so that the requests of a line are performed in their order (R241, R253, R323); and for a mailbox's header the
rest of the record has been written (R443). -/
def State.mayAskHost (s : State) (k : Nat) (r : HostReq) : Bool :=
  !((s.hostReqs.take k).any fun x => lineOf x.addr == lineOf r.addr && (x.changes || r.changes)) &&
    !(r.after && (s.hostReqs.take k).any fun x => x.kind == 1 && x.eng == 0 && x.group == r.group && x.va == r.va)

/-- A request that may change a host line is outstanding: a later access of the line keeps its place behind it (R214, R250, R253). -/
def State.hostBusy (s : State) (a : Nat) : Bool := s.hostReqs.any fun r => r.changes && lineOf r.addr == lineOf a

/-- The function an atomic applies: `aop`, or the comparison of `cas` (R273, R275). -/
def rmwFun (kind aop n b cmp : Nat) (old : Nat) : Option Nat :=
  if kind = 3 then (if old = cmp then some b else none) else some (rmw aop n old b)

/-- Flushes one reduction entry: one RMW at its home (R253). While the host's answer to a snoop is awaited the entry stays; a request to another
device or to the host keeps its place before the later requests of its line. -/
def flushRed (s : State) (core : Nat) (e : RedEntry) : State :=
  let wait : Option Nat := match e.tgt with
    | .dpa a => if s.snoopNeeded a true then some a else none
    | _ => none
  match wait with
  | some a => sendSnoop s a
  | none =>
  let s := s.modCore core fun c => { c with red := c.red.erase e }
  let n := if e.wide then 64 else 32
  let va := (e.writers.head?.map fun w => w.2).getD 0
  match e.tgt with
  | .dpa a =>
      let who := (s.teamOf (s.group e.group)).launch
      let (s, old, cls) := homeRmw s (some who) a n fun old => some (rmw e.op n old e.val.toNat)
      if cls ≠ 0 then { s with tags := AMap.set s.tags (lineOf a) 15 }
      else storeL1 (dropWay s core a) core a (natBytes (n / 8) (rmw e.op n old e.val.toNat)) false
  | .peer d o =>
    let s := drainWcb s core fun w => w.tgt == e.tgt.line
    sendFab s { peer := d, seq := 0, tagged := true, kind := 4, off := o, size := n / 8, data := e.val, aop := e.op, core := core, group := e.group,
                va := va, writers := e.writers }
  | .host a =>
    if (s.ownedLine a).isSome && !s.hostBusy a then (hostRmw s a n fun old => some (rmw e.op n old e.val.toNat)).1
    else { s with hostReqs := s.hostReqs ++
      [{ kind := 4, addr := a, size := n / 8, data := e.val, aop := e.op, core := core, group := e.group, va := va, op := s.stamp,
         writers := e.writers }] }
  | .mcast _ _ => s

/-- Bytes [a, a + n) and [b, b + m) share a byte. -/
def overlaps (a n b m : Nat) : Bool := a < b + m && b < a + n

/-- Same space of a target, for overlap tests. -/
def Target.sameSpace (t u : Target) : Bool :=
  match t, u with
  | .dpa _, .dpa _ => true
  | .peer d _, .peer e _ => d == e
  | .mcast d _, .mcast e _ => d == e
  | .host _, .host _ => true
  | _, _ => false

/-- The entries of a core's reduction buffer that an access overlaps (R253). -/
def RedEntry.hit (e : RedEntry) (t : Target) (n : Nat) : Bool :=
  e.tgt.sameSpace t && overlaps e.tgt.pos (if e.wide then 8 else 4) t.pos n

/-- Another access flushes the entries it overlaps first (R253). -/
def flushOverlap (s : State) (core : Nat) (t : Target) (n : Nat) : State :=
  ((s.core core).red.filter fun e => e.hit t n).foldl (fun s e => flushRed s core e) s

/-- An entry that an access overlaps still stands: its flush awaits the host's answer to a snoop (R324). -/
def State.redStands (s : State) (core : Nat) (t : Target) (n : Nat) : Option Nat :=
  ((s.core core).red.find? fun e => e.hit t n).map fun e => lineOf e.tgt.pos

/-- A flush of the core to a line of another device or of the host is not yet performed (R253). -/
def State.flushing (s : State) (core : Nat) (t : Target) : Bool :=
  (s.fabReqs.any fun r => r.kind == 4 && r.core == core && r.dst.isNone && t.line == .peer r.peer (lineOf r.off)) ||
    s.hostReqs.any fun r => r.kind == 4 && r.core == core && r.dst.isNone && t.line == .host (lineOf r.addr)

/-- What an entry's flush, once made, leaves to await (R253, R324). -/
def State.flushWait (s : State) (core : Nat) (t : Target) : Option Why :=
  if s.flushing core t then some (.flush t.line)
  else if (s.core core).red.any fun e => e.tgt == t then some (.snoop (lineOf t.pos))
  else none

/-- A contribution of `red` enters the buffer (R253). It first awaits the flushes that it causes: those of the entries it overlaps, and that of the
oldest entry of a full buffer. -/
def redEnter (s : State) (core group ctx va : Nat) (t : Target) (op : Nat) (wide : Bool) (v : Nat) : State × Option Why :=
  let n := if wide then 64 else 32
  match (s.core core).red.find? fun e => e.tgt == t && e.op == op && e.wide == wide && e.ctx == ctx with
  | some e =>
    (s.modCore core fun c => { c with red := c.red.map fun x =>
      if x == e then { x with val := BitVec.ofNat 64 (rmw op n e.val.toNat v), writers := addWriter x.writers (group, va) } else x }, none)
  | none =>
    let s := flushOverlap s core t (n / 8)
    match s.redStands core t (n / 8) with
    | some l => (s, some (.snoop l))
    | none =>
      if s.flushing core t then (s, some (.flush t.line))
      else
        let old := if 64 ≤ (s.core core).red.length then (s.core core).red.head? else none
        let s := match old with
          | some o => flushRed s core o
          | none => s
        match old.bind fun o => s.flushWait core o.tgt with
        | some w => (s, some w)
        | none =>
          (s.modCore core fun c => { c with red := c.red ++
            [{ ctx := ctx, group := group, tgt := t, op := op, wide := wide, val := BitVec.ofNat 64 v, born := s.clock, writers := [(group, va)] }] }, none)

/-- A gang spans devices (R394). -/
def State.spanning (s : State) (t : Nat) : Bool := popcount (s.launch (s.team t).launch).e.gdom > 1

/-- The scope acts as `dom` for the core's remote writes (R247). -/
def State.wideScope (s : State) (g : Group) (scope : Nat) : Bool :=
  6 ≤ scope || (scope == 5 && s.spanning g.team && (s.gangOf g.team).isSome)

/-- Writes of a core that a release awaits (R247): to the host, and to other devices its flushes and, when `wide`, its drains. An engine's own
writes and the reads of readers are not the core's. -/
def State.hostWrites (s : State) (core : Nat) : Bool :=
  s.hostReqs.any fun r => r.core == core && r.eng == 0 && (r.kind == 1 || r.kind == 4)
def State.fabWrites (s : State) (core : Nat) (wide : Bool) : Bool :=
  s.fabReqs.any fun r => r.core == core && r.eng == 0 && (r.kind == 4 || (wide && r.kind == 1))

/-- The work of a release of a group's lanes (R247): performed as far as it can be, and whether it has ended. -/
def releaseWork (s : State) (g : Group) (scope : Nat) : State × Bool :=
  if scope < 2 then (s, true)
  else
    let core := g.core
    let wide := s.wideScope g scope
    let s := performStores s.stores.length s fun st => st.core == core
    let s := (s.core core).red.foldl (fun s e => flushRed s core e) s
    let s := if wide then drainWcb s core fun _ => true else s
    (s, !(s.stores.any fun st => st.core == core) && (s.core core).red.isEmpty && !s.hostWrites core && !s.fabWrites core wide)

/-- Nothing that a release awaits is outstanding on a core. -/
def State.quiet (s : State) (core : Nat) : Bool :=
  !s.hostWrites core && !s.fabWrites core true && !(s.stores.any fun st => st.core == core && s.snoopNeeded st.dpa true) &&
    !((s.core core).red.any fun e => match e.tgt with
      | .dpa a => s.snoopNeeded a true
      | _ => false)

/-- Stores of a lane to TSO pages are not yet performed (R256, R307, R323). Lane 64 stands for a uniform word, which is every lane's own (R236). -/
def State.tsoBusy (s : State) (gid lane : Nat) : Bool :=
  let mine (l : List Nat) : Bool := l.any fun x => x == lane || x == 64 || lane == 64
  (s.stores.any fun st => st.tso && st.group == gid && mine st.lanes) ||
  (s.fabReqs.any fun r => r.tso && r.group == gid && mine r.lanes) ||
    s.hostReqs.any fun r => r.tso && r.group == gid && mine (r.lanes.map fun x => if r.unif then 64 else x.1.lane)

/-- The fabric peer window entry that serves an access (R421): its number. -/
def State.peerEntry (s : State) (launch peer : Nat) (rd wr : Bool) : Option Nat :=
  ((s.launch launch).caps.find? fun c =>
    c.2.kind == 4 && c.2.ep 19 16 == peer && (!rd || c.2.rd) && (!wr || c.2.wr)).map fun c => c.1

/-- The entry itself. -/
def State.peerCap (s : State) (launch peer : Nat) (rd wr : Bool) : Option Cap :=
  ((s.launch launch).caps.find? fun c =>
    c.2.kind == 4 && c.2.ep 19 16 == peer && (!rd || c.2.rd) && (!wr || c.2.wr)).map fun c => c.2

/-- The other devices with LOCAL set in the tree of a multicast group (R421; DEDUCED, log entry 17). -/
def State.mcastOthers (s : State) (grp : Nat) : List Nat := (List.range 16).filter fun d => tb (s.mcastDevs.get 0 grp) d && d != s.kdev

/-- A multicast store needs a writable window entry for each of them (R421). -/
def State.mcastCap (s : State) (launch grp : Nat) : Bool := (s.mcastOthers grp).all fun d => (s.peerCap launch d false true).isSome

/-- The window entries that a launch's accesses of a target count through (R410). -/
def State.capsOf (s : State) (launch : Nat) (t : Target) (rd wr : Bool) : List Nat :=
  match t with
  | .peer d _ => (s.peerEntry launch d rd wr).toList
  | .mcast g _ => (s.mcastOthers g).filterMap fun d => s.peerEntry launch d false true
  | _ => []

/-- One access of a lane or a group to `glob`. -/
structure GlobAcc where
  gid : Nat
  ctx : Nat
  va : Nat
  /-- bytes -/
  n : Nat
  /-- 0 load, 1 store, 2 atomic, 3 cas, 4 red -/
  kind : Nat
  data : Nat := 0
  aop : Nat := 0
  cmp : Nat := 0
  /-- reads at the home (R248) -/
  fresh : Bool := false
  hint : Nat := 0
  cst : Bool := false
  dst : Option Dst := none
  pc : Word := 0
  ext : Bool := false
  unif : Bool := false
  op : Nat := 0
  /-- an acquire follows: its scope plus 1, else 0 -/
  acq : Nat := 0
  failed : Bool := false
  /-- flags that the lane retires with (R271) -/
  fl : Nat := 0
  /-- window entries that it counts through (R410) -/
  caps : List Nat := []

/-- The lane of an access; 64 for a uniform word. -/
def GlobAcc.lane (q : GlobAcc) : Nat := if q.unif then 64 else (q.dst.map fun d => d.lane).getD 64

/-- How an access ends at issue. -/
inductive MemOut where
  /-- the value read; a store or a contribution answers 0 -/
  | val (v : Nat)
  /-- the instruction waits and executes again -/
  | wait (w : Why)
  /-- a request has left; the lane retires with its answer (DESIGN CHOICE, log entry 11) -/
  | pend
  | trap (c : Cause) (addr : Nat)
  /-- issue stalls and no state changes (R410) -/
  | stall

/-- The launch has snapshotted the unit of an address: what it consumes there starts a rollback (R477). -/
def State.ownSnap (s : State) (l a : Nat) : Bool := (s.launch l).snaps.any fun sn => sn.unit == unitOf a

/-- A lane or a group consumes a bad line (R233): its trap, or the rollback of a snapshotted launch (R477). -/
def badLine (s : State) (l a va cls : Nat) : State × MemOut :=
  if s.ownSnap l a then ({ s with agenda := s.agenda ++ [.rollback l] }, .stall) else (s, .trap (classCause cls) va)

/-- A store to a TSO page joins the pending stores: the bytes of one instruction in one line reach the home as one write (R213, R272), and the
lane's next store there waits for it (R256). -/
def tsoStore (s : State) (q : GlobAcc) (core l a : Nat) (new : List (Nat × Byte)) : State :=
  match s.stores.findIdx? fun st => st.op == q.op && st.group == q.gid && st.tso && lineOf st.dpa == lineOf a with
  | some k => { s with stores := s.stores.modify k fun st =>
      { st with bytes := new.foldl (fun m p => AMap.set m p.1 p.2) st.bytes, lanes := st.lanes ++ [q.lane] } }
  | none => { s with stores := s.stores ++
      [{ core := core, group := q.gid, launch := l, dpa := a, bytes := new, op := q.op, tso := true, lanes := [q.lane] }] }

/-- A `glob` or `cst` access on device memory. -/
def dpaAccess (s : State) (q : GlobAcc) (a : Nat) (tso : Bool) : State × MemOut :=
  let g := s.group q.gid
  let core := g.core
  let l := (s.teamOf g).launch
  let who := some l
  let t : Target := .dpa a
  let s := if q.kind = 4 then s else flushOverlap s core t q.n
  let s := if tso && q.kind != 0 then performStores s.stores.length s fun st => st.tso && st.group == q.gid && st.lanes.elem q.lane else s
  let sameLine (st : Store) : Bool := st.core == core && lineOf st.dpa == lineOf a
  match (if q.kind = 4 then none else s.redStands core t q.n) with
  | some x => (s, .wait (.snoop x))
  | none =>
  if tso && q.kind != 0 && s.tsoBusy q.gid q.lane then (s, .wait (.tso q.gid q.lane))
  else
  match q.kind with
  | 0 =>
    let s := performStores s.stores.length s sameLine
    if s.snoopNeeded a false || s.stores.any sameLine then (sendSnoop s a, .wait (.snoop (lineOf a)))
    else
      let (s, b, cls) := readLine s who core q.ctx q.va a q.n (q.fresh || tso) q.cst (q.hint != 3 && !tso) (!tso) (q.hint == 1)
      if cls ≠ 0 then badLine s l a q.va cls else (s, .val (bytesNat b))
  | 1 =>
    let b := natBytes q.n q.data
    let new := spread a b
    let s := storeL1 s core a b (q.hint == 3)
    if tso then (tsoStore s q core l a new, .val 0)
    else
      match s.stores.findIdx? fun st => st.op == q.op && st.group == q.gid && !st.tso && lineOf st.dpa == lineOf a with
      | some k =>
        ({ s with stores := s.stores.modify k fun st => { st with bytes := new.foldl (fun m p => AMap.set m p.1 p.2) st.bytes } }, .val 0)
      | none =>
        ({ s with stores := s.stores ++ [{ core := core, group := q.gid, launch := l, dpa := a, bytes := new, op := q.op }] }, .val 0)
  | 4 =>
    if tso then
      let s := flushOverlap (performStores s.stores.length s sameLine) core t q.n
      if s.snoopNeeded a true || s.stores.any sameLine then (sendSnoop s a, .wait (.snoop (lineOf a)))
      else
        let (s, old, cls) := homeRmw s who a (8 * q.n) fun old => some (rmw q.aop (8 * q.n) old q.data)
        if cls ≠ 0 then ({ s with tags := AMap.set s.tags (lineOf a) 15 }, .val 0)
        else (storeL1 (dropWay s core a) core a (natBytes q.n (rmw q.aop (8 * q.n) old q.data)) false, .val 0)
    else
      match redEnter s core q.gid q.ctx q.va t q.aop (q.n == 8) q.data with
      | (s, some w) => (s, .wait w)
      | (s, none) => (s, .val 0)
  | _ =>
    let s := performStores s.stores.length s sameLine
    if s.snoopNeeded a true || s.stores.any sameLine then (sendSnoop s a, .wait (.snoop (lineOf a)))
    else
      let f := rmwFun q.kind q.aop (8 * q.n) q.data q.cmp
      let (s, old, cls) := homeRmw s who a (8 * q.n) f
      if cls ≠ 0 then badLine s l a q.va cls
      else (storeL1 (dropWay s core a) core a (natBytes q.n ((f old).getD old)) false, .val old)

/-- The request an access makes of another device. -/
def GlobAcc.fab (q : GlobAcc) (core peer off : Nat) : FabReq :=
  { peer := peer, seq := 0, tagged := q.kind != 0, kind := q.kind, off := off, size := q.n, data := BitVec.ofNat 64 q.data,
    aop := q.aop, cmp := BitVec.ofNat 64 q.cmp, bytes := (if q.kind = 1 then spread off (natBytes q.n q.data) else []),
    core := core, group := q.gid, dst := q.dst, pc := q.pc, ext := q.ext, unif := q.unif, va := q.va, op := q.op, acq := q.acq,
    writers := [(q.gid, q.va)], fl := q.fl, own := true, caps := q.caps.map fun n => (q.gid, n) }

/-- The request an access makes of the host (R323). -/
def GlobAcc.host (q : GlobAcc) (core a : Nat) : HostReq :=
  { kind := q.kind, addr := a, size := q.n, data := BitVec.ofNat 64 q.data, aop := q.aop,
    cmp := BitVec.ofNat 64 q.cmp, bytes := (if q.kind = 1 then spread a (natBytes q.n q.data) else []),
    core := core, group := q.gid, dst := q.dst, pc := q.pc, ext := q.ext, unif := q.unif, va := q.va, op := q.op, acq := q.acq, own := true }

/-- A store to a TSO page of another device, or of a multicast group, is sent past the write-combining buffer, one write for the bytes of one
instruction in one line (R256, R272, R307). -/
def tsoSend (s : State) (q : GlobAcc) (core : Nat) (t : Target) (peer acks : Nat) : State :=
  let new := spread t.pos (natBytes q.n q.data)
  let mine (r : FabReq) : Bool := r.op == q.op && r.group == q.gid && r.tso && r.peer == peer && r.sends == 0 && lineOf r.off == lineOf t.pos
  if s.fabReqs.any mine then
    { s with fabReqs := s.fabReqs.map fun r =>
        if mine r then { r with bytes := new.foldl (fun m p => AMap.set m p.1 p.2) r.bytes, lanes := r.lanes ++ [q.lane] } else r }
  else
    sendFab s { q.fab core peer (lineOf t.pos) with size := 128, bytes := new, dst := none, tso := true, lanes := [q.lane], acks := acks }

/-- An access to another device's memory, after the window check (R307). -/
def peerAccess (s : State) (q : GlobAcc) (core l : Nat) (t : Target) (d o : Nat) (tso : Bool) : State × MemOut :=
  let unroll (s : State) : State := if q.kind = 0 then s else s.modLaunch l fun la => { la with unrollable := true }
  if tso && q.kind != 0 && s.tsoBusy q.gid q.lane then (s, .wait (.tso q.gid q.lane))
  else
  match q.kind with
  | 1 =>
    let s := unroll (flushOverlap s core t q.n)
    if tso then (tsoSend (drainWcb s core fun w => w.tgt == t.line) q core t d 1, .val 0)
    else (wcStore s core q.gid q.va q.op q.caps t (natBytes q.n q.data), .val 0)
  | 4 =>
    if tso then (sendFab (unroll (drainWcb (flushOverlap s core t q.n) core fun w => w.tgt == t.line)) (q.fab core d o), .pend)
    else
      match redEnter s core q.gid q.ctx q.va t q.aop (q.n == 8) q.data with
      | (s, some w) => (s, .wait w)
      | (s, none) => (unroll s, .val 0)
  | _ => (sendFab (unroll (drainWcb (flushOverlap s core t q.n) core fun w => w.tgt == t.line)) (q.fab core d o), .pend)

/-- A store to the host: one write for the bytes of one instruction in one line (R213, R272). A store to a TSO page takes the line's ownership
first and holds its lanes until it is performed (R323; DESIGN CHOICE, log entry 79). -/
def hostStore (s : State) (q : GlobAcc) (core a : Nat) (tso : Bool) : State × MemOut :=
  let new := spread a (natBytes q.n q.data)
  if (s.ownedLine a).isSome && !s.hostBusy a then (putOwned s a (natBytes q.n q.data), .val 0)
  else
    let me : List (Dst × Nat × Nat) := if tso then (q.dst.toList.map fun d => (d, q.fl, q.va)) else []
    let mine (r : HostReq) : Bool :=
      r.kind == 1 && r.own && r.op == q.op && r.group == q.gid && r.tso == tso && !r.sent && lineOf r.addr == lineOf a
    let s := if s.hostReqs.any mine then
        { s with hostReqs := s.hostReqs.map fun r =>
            if mine r then { r with bytes := new.foldl (fun m p => AMap.set m p.1 p.2) r.bytes, lanes := r.lanes ++ me } else r }
      else
        { s with hostReqs := s.hostReqs ++ [{ q.host core (lineOf a) with size := 128, bytes := new, dst := none, tso := tso, lanes := me }] }
    (s, if tso then .pend else .val 0)

/-- An access to host memory (R323). -/
def hostMemAccess (s : State) (q : GlobAcc) (core l a : Nat) (tso : Bool) : State × MemOut :=
  let t : Target := .host a
  let s := if q.kind = 0 then s else s.modLaunch l fun la => { la with unrollable := true }
  let owned (s : State) : Bool := (s.ownedLine a).isSome && !s.hostBusy a
  if tso && q.kind != 0 && s.tsoBusy q.gid q.lane then (s, .wait (.tso q.gid q.lane))
  else
  match q.kind with
  | 4 =>
    if tso then
      let s := flushOverlap s core t q.n
      if owned s then ((hostRmw s a (8 * q.n) fun old => some (rmw q.aop (8 * q.n) old q.data)).1, .val 0)
      else ({ s with hostReqs := s.hostReqs ++ [q.host core a] }, .pend)
    else
      match redEnter s core q.gid q.ctx q.va t q.aop (q.n == 8) q.data with
      | (s, some w) => (s, .wait w)
      | (s, none) => (s, .val 0)
  | 1 => hostStore (flushOverlap s core t q.n) q core a tso
  | 0 =>
    let s := flushOverlap s core t q.n
    if owned s then (s, .val (bytesNat ((((s.ownedLine a).getD []).drop (a % 128)).take q.n)))
    else ({ s with hostReqs := s.hostReqs ++ [q.host core a] }, .pend)
  | _ =>
    let s := flushOverlap s core t q.n
    if owned s then
      let (s, old) := hostRmw s a (8 * q.n) (rmwFun q.kind q.aop (8 * q.n) q.data q.cmp)
      (s, .val old)
    else ({ s with hostReqs := s.hostReqs ++ [q.host core a] }, .pend)

/-- A `glob` access (R265, R267): translation, the fabric window check, then the access at its target. -/
def globAccess (s : State) (q : GlobAcc) : State × MemOut :=
  let g := s.group q.gid
  let core := g.core
  let l := (s.teamOf g).launch
  let perm := if q.kind = 0 then 0 else if q.kind = 1 then 1 else 2
  match s.trans core q.ctx q.va perm q.failed with
  | (s, .trap c) => (s, .trap c q.va)
  | (s, .wait c v) => (s, .wait (.page c v))
  | (s, .hold w) => (s, .wait w)
  | (s, .ok t tso) =>
    match t with
    | .dpa a => dpaAccess s q a tso
    | .peer d o =>
      match (if g.priv == .supervisor then none else s.peerEntry l d (q.kind == 0) (q.kind != 0)) with
      | none => (s, .trap .capInvalid q.va)
      | some n =>
        if !s.allows q.gid n false && (q.kind != 4 || tso) then (s, .stall)
        else peerAccess s { q with caps := if q.kind = 4 && !tso then [] else [n] } core l t d o tso
    | .mcast grp o =>
      let e := s.mcast.get 0 grp
      if q.kind ≠ 1 || !mcValid e then (s, .trap .perm q.va)
      else if mcSize e ≤ o then (s, .trap .bound q.va)
      else if !s.mcastCap l grp || g.priv == .supervisor then (s, .trap .capInvalid q.va)
      else if tso && s.tsoBusy q.gid q.lane then (s, .wait (.tso q.gid q.lane))
      else
        let caps := s.capsOf l t false true
        if caps.any fun n => !s.allows q.gid n false then (s, .stall)
        else
        let s := s.modLaunch l fun la => { la with unrollable := true }
        let q := { q with caps := caps }
        if tso then (tsoSend (drainWcb s core fun w => w.tgt == t.line) q core t (100 + grp) (fld e 20 17 + 1), .val 0)
        else (wcStore s core q.gid q.va q.op q.caps t (natBytes q.n q.data), .val 0)
    | .host a => hostMemAccess s q core l a tso

/-- Bytes [0, 128) of an address in pieces that each lie in one line. -/
def linePieces (a : Nat) (bs : List Byte) : List (Nat × List Byte) :=
  (linesOf a bs.length).map fun l =>
    (max a l, ((bs.drop (l - a)).take (l + 128 - max a l)))

/-- Writes bytes of one line on behalf of a group or an engine, not through a core's buffers, as one write: at the home, to the host or to other
devices, which makes the launch unrollable (R213, R307, R323, R475). `eng` is an engine operation's code plus 1, `va` an address for a write that is
lost. -/
def putCells (s : State) (core gid eng va : Nat) (who : Option Nat) (t : Target) (cells : AMap Byte) : State :=
  let w : List (Nat × Nat) := if eng = 0 then [(gid, va)] else []
  let s := match t, who with
    | .dpa _, _ => s
    | _, some l => s.modLaunch l fun x => { x with unrollable := true }
    | _, none => s
  match t with
  | .dpa a =>
    dropLines (homeWrite s who a cells) fun c => (c.holder == core || c.holder == ccHolder (clusterOf core)) && c.dpa == lineOf a
  | .host a =>
    if (s.ownedLine a).isSome && !s.hostBusy a then cells.foldl (fun s c => putOwned s c.1 [c.2]) s
    else { s with hostReqs := s.hostReqs ++
      [{ kind := 1, addr := lineOf a, size := 128, bytes := cells, core := core, group := gid, va := va, eng := eng, op := s.stamp }] }
  | .peer d o =>
    sendFab s { peer := d, seq := 0, tagged := true, kind := 1, off := lineOf o, size := 128, bytes := cells, core := core, group := gid, va := va,
                eng := eng, writers := w, op := s.stamp }
  | .mcast g o =>
    sendFab s { peer := 100 + g, seq := 0, tagged := true, kind := 1, off := lineOf o, size := 128, bytes := cells, core := core, group := gid,
                va := va, acks := fld (s.mcast.get 0 g) 20 17 + 1, eng := eng, writers := w, op := s.stamp }

/-- A target at another place of its space. -/
def Target.at_ (t : Target) (p : Nat) : Target :=
  match t with
  | .dpa _ => .dpa p
  | .peer d _ => .peer d p
  | .mcast g _ => .mcast g p
  | .host _ => .host p

/-- Writes bytes at one target, one write a line. -/
def putBytes (s : State) (core gid eng va : Nat) (who : Option Nat) (t : Target) (bs : List Byte) : State :=
  (linePieces t.pos bs).foldl (fun s p => putCells s core gid eng va who (t.at_ p.1) (spread p.1 p.2)) s

/-- Writes a mailbox record (R443): outside the device the line of the header, with READY, leaves when the others have been acknowledged. -/
def putMail (s : State) (core gid va : Nat) (who : Option Nat) (t : Target) (bs : List Byte) : State :=
  match linePieces t.pos bs with
  | [] => s
  | h :: rest =>
    let put (s : State) (p : Nat × List Byte) : State := putCells s core gid 0 va who (t.at_ p.1) (spread p.1 p.2)
    let n := (s.fabReqs.length, s.hostReqs.length)
    let s := put (rest.foldl put s) h
    { s with
      fabReqs := s.fabReqs.mapIdx fun i r => if n.1 ≤ i && lineOf r.off == lineOf h.1 then { r with after := true } else r
      hostReqs := s.hostReqs.mapIdx fun i r => if n.2 ≤ i && lineOf r.addr == lineOf h.1 then { r with after := true } else r }

/-- The fabric window check of a private access (R306, R421): a page of another device needs an entry of the launch. -/
def State.prvBarred (s : State) (gid : Nat) (t : Target) (wr : Bool) : Bool :=
  let l := (s.teamOf (s.group gid)).launch
  match t with
  | .peer d _ => (s.peerCap l d (!wr) wr).isNone
  | .mcast g _ => !s.mcastCap l g
  | _ => false

/-- Writes one private line of a group to its home as one write (R223, R231), and what it awaits, if anything. The bytes written are then its home's.
A line whose page no longer translates, or whose home the launch may not reach, stays (DEDUCED, log entry 57). -/
def prvEvict (s : State) (gid line : Nat) : State × Option Why :=
  let g := s.group gid
  let mine := g.prvDirty.filter fun c => lineOf c.1 == line
  let done (s : State) : State := s.modGroup gid fun g =>
    { g with prvDirty := g.prvDirty.filter fun c => lineOf c.1 != line
             prvHome := g.prvHome ++ (mine.map fun c => c.1).filter fun a => !g.prvHome.elem a }
  match s.trans g.core (s.ctxOf g) line 1 true with
  | (s, .ok (.dpa a) _) =>
    if s.snoopNeeded a true then (sendSnoop s a, some (.snoop (lineOf a)))
    else (done (homeWrite s (some (s.teamOf g).launch) a (mine.map fun c => (a + c.1 - line, c.2))), none)
  | (s, .ok t _) =>
    if s.prvBarred gid t true then (s, none) else
    (done (putCells s g.core gid 0 line (some (s.teamOf g).launch) t (mine.map fun c => (t.pos + c.1 - line, c.2))), none)
  | (s, .hold w) => (s, some w)
  | (s, _) => (s, none)

/-- A private line that a core's L1 gives up when it must: the first of its first group, and none of the lines that need the room (DESIGN CHOICE, log
entry 7). -/
def State.prvVictim (s : State) (core gid : Nat) (keep : List Nat) : Option (Nat × Nat) :=
  (List.range s.groups.length).findSome? fun g =>
    let gr := s.group g
    if gr.core == core && gr.resident && !gr.ended then (gr.prvLines.find? fun l => !(g == gid && keep.elem l)).map fun l => (g, l) else none

/-- One line leaves the L1 of a core for private ones: a `glob` or `cst` line first, else a private one is written back (R211, R223). -/
def prvYield (s : State) (core gid : Nat) (keep : List Nat) : State × Option Why :=
  match firstOut (s.caches.filter fun c => c.holder == core) with
  | some o => ({ s with caches := s.caches.erase o }, none)
  | none =>
    match s.prvVictim core gid keep with
    | some v => prvEvict s v.1 v.2
    | none => (s, none)

/-- Room in the L1 for private lines of a group beside the ones that it has (R211, R223). -/
def prvRoom (s : State) (gid : Nat) : List Nat → State × Option Why
  | [] => (s, none)
  | line :: rest =>
    match prvRoom s gid rest with
    | (s, some w) => (s, some w)
    | (s, none) =>
      let g := s.group gid
      let new := ((line :: rest).filter fun l => !g.prvLines.elem l).length
      if s.prvLines g.core + (s.caches.filter fun c => c.holder == g.core).length + new ≤ 2560 then (s, none)
      else prvYield s g.core gid (line :: rest)

/-- The home bytes of a private access: the bytes at these places of a target's page, or what stops it. -/
def prvHomeBytes (s : State) (gid l va : Nat) (t : Target) (ks : List Nat) : State × (Unit ⊕ MemOut) × (Nat → Byte) :=
  match t with
  | .dpa a =>
    match ks.find? fun k => s.snoopNeeded (a + k) false with
    | some k => (sendSnoop s (a + k), .inr (.wait (.snoop (lineOf (a + k)))), fun _ => 0)
    | none =>
      let s := ks.foldl (fun s k => expose s (some l) (a + k)) s
      match ks.find? fun k => s.lineClass (a + k) ≠ 0 with
      | some k => let r := badLine s l (a + k) va (s.lineClass (a + k)); (r.1, .inr r.2, fun _ => 0)
      | none => (s, .inl (), fun k => s.byte (a + k))
  | t =>
    let r : Reader := .prv gid
    let far (k : Nat) : Far := s.farLine r (t.off k)
    match ks.find? fun k => far k == .none with
    | some k => (askFar s r (s.group gid).core gid (t.off k), .inr (.wait (.answer r)), fun _ => 0)
    | none =>
      match ks.findSome? fun k => match far k with
        | .bad c => some c
        | _ => none with
      | some c => (dropAnswers s r, .inr (.trap (classCause c) va), fun _ => 0)
      | none => (dropAnswers s r, .inl (), fun k => match far k with
        | .have_ b => b.getD ((t.off k).pos % 128) 0
        | _ => 0)

/-- A private access (R222, R223) of lane `i` of a group, in context `ctx`: reads or writes at offset `o`. A byte that the group has not written
reads as zero, whatever its home holds (R30). -/
def prvAccess (s : State) (gid i ctx o n : Nat) (wr : Option Nat) (failed : Bool) : State × MemOut :=
  let g := s.group gid
  let at_ (k : Nat) : Nat := s.prvAddr g i (o + k)
  match s.trans g.core ctx (at_ 0) (if wr.isSome then 1 else 0) failed with
  | (s, .trap c) => (s, .trap c (at_ 0))
  | (s, .wait c v) => (s, .wait (.page c v))
  | (s, .hold w) => (s, .wait w)
  | (s, .ok t _) =>
    if wr.isNone && t matches .mcast _ _ then (s, .trap .perm (at_ 0))
    else if s.prvBarred gid t wr.isSome then (s, .trap .capInvalid (at_ 0))
    else
    match wr with
    | some v =>
      match prvRoom s gid ((List.range n).map fun k => lineOf (at_ k)).eraseDups with
      | (s, some w) => (s, .wait w)
      | (s, none) =>
        let b := natBytes n v
        (s.modGroup gid fun g => { g with prvDirty := (List.range n).foldl (fun m k => AMap.set m (at_ k) (b.getD k 0)) g.prvDirty }, .val 0)
    | none =>
      let need := (List.range n).filter fun k => (AMap.find g.prvDirty (at_ k)).isNone && g.prvHome.elem (at_ k)
      match prvHomeBytes s gid (s.teamOf g).launch (at_ 0) t (need.map fun k => at_ k - at_ 0) with
      | (s, .inr m, _) => (s, m)
      | (s, .inl _, home) =>
        (s, .val (bytesNat ((List.range n).map fun k =>
          match AMap.find g.prvDirty (at_ k) with
          | some b => b
          | none => if g.prvHome.elem (at_ k) then home (at_ k - at_ 0) else 0)))

/-- Bytes of a team's scratch (R221). -/
def Team.scr (t : Team) (o n : Nat) : Nat := bytesNat ((List.range n).map fun k => AMap.get 0 t.scratch (o + k))

/-- Writes scratch bytes. -/
def scrWrite (s : State) (t o n v : Nat) : State :=
  s.modTeam t fun tm => { tm with scratch := memPut tm.scratch (spread o (natBytes n v)) }

/-- An access at a commons bank: load, store or RMW of the scratch of a team (R252). -/
def scrAccess (s : State) (t o : Nat) (q : GlobAcc) : State × MemOut :=
  let old := (s.team t).scr o q.n
  match q.kind with
  | 0 => (s, .val old)
  | 1 => (scrWrite s t o q.n q.data, .val 0)
  | _ =>
    match rmwFun q.kind q.aop (8 * q.n) q.data q.cmp old with
    | some v => (scrWrite s t o q.n v, .val old)
    | none => (s, .val old)

/-- What a window offset reaches (R389): a member of this device at a scratch offset, one of another device, or a trap. -/
inductive WinAt where
  | here (team off : Nat)
  | away (dev m off : Nat)
  | trap (c : Cause)
  | held
deriving DecidableEq, Repr

/-- The device that hosts a member of a spanning gang (R394). -/
def memberDev (gdom n m : Nat) : Nat :=
  let devs := (List.range 16).filter fun d => tb gdom d
  devs.getD (m * devs.length / n) 0

/-- The checks of a window access of `n` bytes by a group (R389, R260). -/
def State.winAt (s : State) (g : Group) (o : Nat) : WinAt :=
  match s.gangOf g.team with
  | none => .trap .perm
  | some (k, _) =>
    let ga := s.gangs.getD k {}
    if !(s.teamOf g).attached || g.detached then .trap .perm
    else if ga.zsize = 0 then .trap .bound
    else
      let m := o / ga.zsize
      if ga.n ≤ m then .trap .bound
      else
        match s.member k m with
        | some t =>
          let tm := s.team t
          match tm.slice with
          | none => .trap .bound
          | some b => if tm.departed then .trap .gangDeparted else if ga.parked then .held else .here t (b + o % ga.zsize)
        | none =>
          let dev := memberDev (s.launchOf g).e.gdom ga.n m
          if ga.gone.elem m then .trap (if ga.slices.elem m then .gangDeparted else .bound)
          else if dev = s.kdev then .trap .bound
          else if ga.parked then .held else .away dev m (o % ga.zsize)

/-- Where a gang packet is bound for (DESIGN CHOICE, log entry 18): the launch's key, the member's `kteam` and an offset. -/
def State.spanAt (s : State) (t kteam o : Nat) : Nat := ((s.launch (s.team t).launch).e.gkey * 2 ^ 24 + kteam) * 2 ^ 20 + o

/-- A window access (R389). A member of another device is reached by a request of the device's own (DESIGN CHOICE, log entry 18). -/
def winAccess (s : State) (q : GlobAcc) : State × MemOut :=
  let g := s.group q.gid
  match s.winAt g q.va with
  | .trap c => (s, .trap c q.va)
  | .held => (s, .wait .parkedGang)
  | .here t o => scrAccess s t o q
  | .away d m o =>
    let ga := match s.gangOf g.team with
      | some (k, _) => s.gangs.getD k {}
      | none => {}
    let at_ := s.spanAt g.team (ga.idx * ga.n + m) o
    (sendFab s { q.fab g.core d at_ with kind := 8 + q.kind, tagged := q.kind != 0 }, .pend)

/-- The FIFO bank of a cluster (R224). -/
def State.fifo (s : State) (cl b : Nat) : Fifo := (s.cluster cl).fifos.get {} b
def State.modFifo (s : State) (cl b : Nat) (f : Fifo → Fifo) : State :=
  s.modCluster cl fun c => { c with fifos := c.fifos.set b (f (c.fifos.get {} b)) }

/-- Reserves the slot at the producer pointer and fills it in one event (R224). -/
def fifoPut (s : State) (cl b : Nat) (bs : List Byte) : State :=
  s.modFifo cl b fun f =>
    { f with st := f.st.set f.prod 2, bytes := f.bytes.set f.prod bs, prod := (f.prod + 1) % 1024, free := f.free - 1, filled := f.filled + 1 }

/-- Takes the slot at the consumer pointer (R224). -/
def fifoTake (s : State) (cl b : Nat) : State × Nat × List Byte :=
  let f := s.fifo cl b
  (s.modFifo cl b fun f => { f with st := f.st.set f.cons 3, cons := (f.cons + 1) % 1024, filled := f.filled - 1 },
   f.cons, f.bytes.get [] f.cons)

/-- Frees released slots from the oldest held on, in take order (R224). -/
def fifoSweep : Nat → Fifo → Fifo
  | 0, f => f
  | n + 1, f =>
    if f.st.get 0 f.rel = 4 then fifoSweep n { f with st := f.st.set f.rel 0, rel := (f.rel + 1) % 1024, free := f.free + 1 } else f

/-- Releases a held slot (R224). -/
def fifoRelease (s : State) (cl b slot : Nat) : State :=
  s.modFifo cl b fun f => fifoSweep 1024 { f with st := f.st.set slot 4 }

end Sys2Proof.Machine
end

