-- ==== Sys2Proof/Machine/Ops.lean ====
section
/-! DEFINITION. The shared operations of the instructions: how lanes, groups, teams and launches end (R339, R362, R391,
R392), taking a trap (R431, R455 to R463) and returning from one (R436), the run of a lane word (R22, R63, R64, R344) and
the gate of a uniform word (R25, R347). -/

namespace Sys2Proof.Machine

/-- Cause codes (R457). -/
def Cause.code (c : Cause) : Nat :=
  match c with
  | .illegal => 0x01 | .uniformDiverged => 0x02 | .emptyRead => 0x03 | .spill => 0x04 | .fill => 0x05 | .xlat => 0x06
  | .perm => 0x07 | .capInvalid => 0x08 | .gangDeparted => 0x09 | .poison => 0x0A | .cmpFrame => 0x0B | .mxCheck => 0x0C
  | .bound => 0x0D | .align => 0x0E | .engine => 0x0F | .gcall => 0x10 | .bkpt => 0x11 | .trap => 0x12 | .cancel => 0x13
  | .preempt => 0x14 | .priv => 0x15

/-- A slot has a register of its own: a global, or a slot of the resident part of the stack (R17) (DEDUCED, log entry 6). -/
def Lane.holds (l : Lane) (d : Nat) (sl : Slot) : Bool :=
  match sl with
  | .glob _ => true
  | .stack n => l.rb ≤ n && n < l.rb + d

/-- A lane exits (R362): its port state goes, its empty registers read as zero from then on (R45). -/
def Lane.exit (l : Lane) (d : Nat) : Lane :=
  { (l.empty.filter (l.holds d)).foldl (fun l sl => l.put d sl 0) l with
    st := .exited, empty := [], fifos := [], pulls := [], marked := [], op := none }

/-- The matrix engine of a cluster, and one of its sets. -/
def State.mx (s : State) (cl : Nat) : Matrix := (s.cluster cl).mx
def State.mset (s : State) (cl k : Nat) : MSet := (s.mx cl).sets.get {} k

/-- A set whose members have left and that has no operation and no read left dissolves (R188): its tiles become Zeroed and
unowned. -/
def sweepSet (s : State) (cl k : Nat) : State :=
  let mx := s.mx cl
  match mx.sets.find k with
  | none => s
  | some st =>
    if st.members.isEmpty && !(mx.resv.any fun o => o.set == k) && !(mx.reads.any fun r => r.1 == k) then
      s.modMx cl fun mx =>
        { mx with
          sets := AMap.erase mx.sets k
          tiles := mx.tiles.map fun t => if t.2.owner = some k then (t.1, {}) else t
          feeds := mx.feeds.filter fun f => f.set != k
          fetches := mx.fetches.filter fun f => f.set != k }
    else s

/-- A member leaves its convening set, which breaks; the last one dooms what has not started, and the set dissolves when nothing is
left of it (R188). -/
def leaveSet (s : State) (gid : Nat) : State :=
  match (s.group gid).mset with
  | none => s
  | some (cl, k, m) =>
    let s := s.modGroup gid fun g => { g with mset := none }
    let s := s.modMx cl fun mx =>
      let st := mx.sets.get {} k
      let left := st.members.erase m
      { mx with
        sets := mx.sets.set k { st with members := left, broken := true }
        resv := mx.resv.map fun o =>
          if o.set = k && (o.kind = 0 || (left.isEmpty && !o.granted)) then { o with doomed := true } else o }
    sweepSet s cl k

/-- The held FIFO slots of a group are released in take order, each in the cluster where it was taken (R281, R362, R467). -/
def releaseHeld (s : State) (gid : Nat) : State :=
  let s := (s.group gid).held.foldl (fun s p => p.2.foldl (fun s x => fifoRelease s x.1 p.1 x.2) s) s
  s.modGroup gid fun g => { g with held := [] }

/-- A completed team adds 1 to its launch counter's DONE (R339). -/
def teamCounts (s : State) (t : Nat) : State :=
  s.modCounter (s.lcnt t) fun c => { c with done := c.done + 1 }

/-- A team leaves its scratch banks free (R221). They read zero to the team that receives them next; until then they keep what it left (R488). -/
def freeBanks (s : State) (t : Nat) : State :=
  let tm := s.team t
  let s := s.modCluster (clusterOf tm.core) fun c => { c with owner := c.owner.filter fun p => !tm.banks.elem p.1 }
  s.modTeam t fun tm => { tm with banks := [] }

/-- A team completes (R339); an image of it is discarded (R470). -/
def completeTeam (s : State) (t : Nat) : State :=
  let n := if (s.team t).saved then 1 else 0
  let s := (freeBanks s t).modTeam t fun tm => { tm with st := .done, mail := [], saved := false }
  teamCounts { s with saveFrames := s.saveFrames + n } t

/-- A team is detached: every group that has not ended is (R385). -/
def State.teamDetached (s : State) (t : Nat) : Bool :=
  let tm := s.team t
  tm.departed || tm.st == .held || (tm.attached && tm.groups.all fun g => (s.group g).ended || (s.group g).detached)

/-- Members of a gang on this device. -/
def State.members (s : State) (k : Nat) : List Nat :=
  let g := s.gangs.getD k {}
  (List.range s.teams.length).filter fun t =>
    let tm := s.team t
    tm.launch == g.launch && tm.kteam / max g.n 1 == g.idx && !tm.isSup && g.n != 0

/-- Tells the other devices of a spanning gang of a departure (R396). -/
def tellGang (s : State) (k kteam : Nat) : State :=
  let e := (s.launch (s.gangs.getD k {}).launch).e
  sendMsgs s 28 (e.devs.filter fun d => d != s.kdev) [e.gkey, kteam]

/-- Reports a member of this device to the other devices of a spanning gang: 17 attached, with L; 18 slice set, with its size; 19 a sync generation
reached; 20 detached, or departed when the value is 1 (DESIGN CHOICE, log entry 18). -/
def reportGang (s : State) (k t kind v : Nat) : State :=
  let g := s.gangs.getD k {}
  let e := (s.launch g.launch).e
  if popcount e.gdom ≤ 1 then s
  else ((List.range 16).filter fun d => tb e.gdom d && d != s.kdev).foldl (fun s d =>
    sendFab s { peer := d, seq := 0, tagged := true, kind := kind, off := (e.gkey * 2 ^ 24 + (s.team t).kteam) * 2 ^ 20, size := 0,
                data := BitVec.ofNat 64 v, core := (s.team t).core, group := s.groups.length }) s

/-- A team has reached a sync generation (R390). -/
def State.teamReached (s : State) (t n : Nat) : Bool :=
  (s.team t).groups.all fun g => (s.group g).ended || (s.group g).detached || n ≤ (s.group g).syncs

/-- Member index of a team in its gang. -/
def State.memberNo (s : State) (k t : Nat) : Nat := (s.team t).kteam % max (s.gangs.getD k {}).n 1

/-- Every attached member that is neither detached nor departed has reached a sync generation (R390); the members of other devices as they have
reported. -/
def State.allReached (s : State) (k n : Nat) : Bool :=
  let ga := s.gangs.getD k {}
  ((s.members k).all fun t => !(s.team t).attached || s.teamDetached t || s.teamReached t n) &&
    ga.away.all fun m => ga.gone.elem m || ga.awayDet.elem m || n ≤ ga.reached.get 0 m

/-- Tells the other devices what the gang's members here have reached: a sync generation, or their detachment (R390, R391). -/
def tellReach (s : State) (k : Nat) : State :=
  (s.members k).foldl (fun s t =>
    let ga := s.gangs.getD k {}
    let m := s.memberNo k t
    let gens := ((s.team t).groups.filter fun g => !((s.group g).ended || (s.group g).detached)).map fun g => (s.group g).syncs
    let n := (gens.foldl (fun (a : Option Nat) x => some (min (a.getD x) x)) none).getD 0
    let s := if ga.told.get 0 m < n then
        reportGang (s.modGang k fun ga => { ga with told := ga.told.set m n }) k t 19 n else s
    if s.teamDetached t && !ga.toldDet.elem m then
      reportGang (s.modGang k fun ga => { ga with toldDet := ga.toldDet ++ [m] }) k t 20 0 else s) s

/-- The gang completes its next sync generation once every member that counts has reached it, and a group has issued it (R390). A completed generation
stays so. -/
def syncSettle (s : State) (k : Nat) : State :=
  let s := tellReach s k
  let n := (s.gangs.getD k {}).syncDone + 1
  if s.allReached k n && (s.members k).any fun t => (s.team t).groups.any fun g => n ≤ (s.group g).syncs then
    s.modGang k fun ga => { ga with syncDone := n }
  else s

/-- A member departs (R391, R392): its banks are freed and the team completes. -/
def depart (s : State) (k t : Nat) (early : Bool) : State :=
  if (s.team t).departed then s
  else
    let s := s.modTeam t fun tm => { tm with departed := true }
    let s := s.modGang k fun g => { g with depEarly := g.depEarly || (!g.formed) }
    let s := if early then tellGang s k (s.team t).kteam else reportGang s k t 20 1
    completeTeam s t

/-- Held members depart once every other member is detached or departed (R391). -/
def gangSweep (s : State) (k : Nat) : State :=
  let ms := s.members k
  let g := s.gangs.getD k {}
  let s := syncSettle s k
  if ms.all (fun t => s.teamDetached t) && (g.n ≤ ms.length + (g.gone ++ g.awayDet).eraseDups.length) then
    (ms.filter fun t => (s.team t).st == .held).foldl (fun s t => depart s k t false) s
  else s

/-- A held member whose launch is killed or cancelled departs at once (R392). -/
def endHeld (s : State) (t : Nat) : State :=
  match s.gangOf t with
  | none => completeTeam s t
  | some (k, _) => gangSweep (depart s k t true) k

/-- A barrier's generation completes when every group of the team that has not ended has arrived (R376). -/
def barSettle (s : State) (t b : Nat) : State :=
  let tm := s.team t
  let (gen, arr) := tm.bars.get (0, []) b
  if !arr.isEmpty && tm.groups.all fun g => (s.group g).ended || arr.elem g then
    s.modTeam t fun tm => { tm with bars := tm.bars.set b (gen + 1, []) }
  else s

/-- The last group of a team has ended (R339, R391, R392). -/
def endTeam (s : State) (t : Nat) (killed : Bool) : State :=
  if (s.team t).isSup then s
  else
    match s.gangOf t with
    | none => completeTeam s t
    | some (k, _) =>
      if killed then gangSweep (depart s k t true) k
      else gangSweep (s.modTeam t fun tm => { tm with st := .held }) k

/-- A group ends (R362). -/
def endGroup (s : State) (gid : Nat) (killed : Bool) : State :=
  let g := s.group gid
  if g.ended then s
  else
    let s := leaveSet (releaseHeld s gid) gid
    let s := if g.lost.isSome then s.modLaunch (s.teamOf g).launch fun l => { l with lostWrite := true } else s
    let s := s.modGroup gid fun g => { g with ended := true, resident := false, prvDirty := [], prvHome := [], hold := .none, records := [] }
    let s := dropAnswers (dropAnswers s (.code gid)) (.prv gid)
    let s := ((s.team g.team).bars.map fun b => b.1).foldl (fun s b => barSettle s g.team b) s
    if (s.team g.team).groups.all fun x => (s.group x).ended then endTeam s g.team killed
    else
      match s.gangOf g.team with
      | some (k, _) => gangSweep s k
      | none => s

/-- Lanes exit; the group ends with its last (R362). -/
def exitLanes (s : State) (gid : Nat) (ls : List Nat) (killed : Bool := false) : State :=
  let s := s.modGroup gid fun g => ls.foldl (fun g i => g.modLane i fun l => l.exit g.depth) g
  if (s.group gid).live.isEmpty then endGroup s gid killed else s

/-- Ends a group as `rte.kill` of every lane does. -/
def killGroup (s : State) (gid : Nat) : State :=
  if (s.group gid).ended then s else exitLanes s gid (s.group gid).live true

/-- Ends every team of a launch without the handler; teams not placed, and those not yet made, count as completed (R340,
R463, R478). STATUS is set when the counter carries none. -/
def killLaunch (s : State) (l status : Nat) : State :=
  let ts := (List.range s.teams.length).filter fun t => (s.team t).launch == l && !(s.team t).isSup && (s.team t).st != .done
  let s := ts.foldl (fun s t =>
    let gs := (s.team t).groups.filter fun g => !(s.group g).ended
    if gs.isEmpty then (if (s.team t).st == .held then s else completeTeam s t)
    else gs.foldl killGroup s) s
  let s := ts.foldl (fun s t => if (s.team t).st == .held then endHeld s t else s) s
  let la := s.launch l
  let s := s.modCounter la.e.lcnt fun c =>
    { c with done := c.target, status := if c.status = 0 then status else c.status }
  let s := s.modLaunch l fun la => { la with cancelled := true, made := la.e.hosted }
  { s with engOps := s.engOps.map fun o => if o.launch = l then { o with gone := true } else o }

/-- The entry state of the supervisor slot's lanes (R459): every lane active at offset 0 of the image. -/
def slotReset (s : State) (core : Nat) : State :=
  match (s.core core).slot with
  | none => s
  | some gid =>
    s.modGroup gid fun g =>
      { g with hold := .none, records := [], lanes := g.lanes.map fun l => { l with pc := 0, st := .active } }

/-- The oldest record of a core that has not been entered, of any team or of one (R459, R436): its group and its index. -/
def State.nextRecord (s : State) (core : Nat) (team : Option Nat) : Option (Nat × Nat) :=
  let all := (List.range s.groups.length).flatMap fun g =>
    let gr := s.group g
    if gr.core = core ∧ gr.resident ∧ !gr.ended ∧ gr.priv == .user ∧ team.all (· == gr.team) then
      (List.range gr.records.length).filterMap fun r =>
        match gr.records[r]? with
        | some rec => if rec.entered then none else some (rec.age, g, r)
        | none => none
    else []
  (all.foldl (fun acc x => match acc with
    | none => some x
    | some y => if x.1 < y.1 then some x else some y) none).map fun x => x.2

/-- Loads the trap registers from the selected record (R432) (DEDUCED, log entry 14). -/
def loadTrap (s : State) (core : Nat) : State :=
  let c := s.core core
  match c.serves with
  | none => s.modCore core fun c => { c with trapPc := 0, trapLanes := 0 }
  | some t =>
    match (s.team t).groups.find? fun g => (s.group g).kgrp == c.trapGrp && !(s.group g).ended with
    | none => s.modCore core fun c => { c with trapPc := 0, trapLanes := 0 }
    | some g =>
      match (s.group g).records[c.trapRec]? with
      | none => s.modCore core fun c => { c with trapPc := 0, trapLanes := 0 }
      | some r => s.modCore core fun c => { c with trapPc := r.pc, trapLanes := r.lanes }

/-- A trap of the supervisor slot itself (R463). -/
def slotTrap (s : State) (core : Nat) : State :=
  let s := match (s.core core).serves with
    | some t => killLaunch s (s.team t).launch 0x20
    | none => s
  let s := logged s [0x463, core]
  let s := (slotReset s core).modCore core fun c => { c with serves := none }
  match (s.core core).slot with
  | none => s
  | some g => s.modGroup g fun x => { x with resident := false }

/-- The slot of a core enters for a record (R459): its lanes active at offset 0 of the image, TRAPGRP selecting the record. -/
def enterRecord (s : State) (core g r : Nat) : State :=
  let x := s.group g
  let s := s.modCore core fun c => { c with serves := some x.team, trapGrp := x.kgrp, trapRec := r }
  let s := match (s.core core).slot with
    | some q => (slotReset s core).modGroup q fun q => { q with resident := true, ended := false }
    | none => s
  let s := s.modGroup g fun x => { x with records := x.records.modify r fun y => { y with entered := true } }
  loadTrap s core

/-- Adds parked lanes to the record of their cause and PC, or makes it (R431, R456) (DEDUCED, log entry 24). -/
def addRecord (rs : List Record) (r : Record) : List Record :=
  match rs.findIdx? fun x => x.cause == r.cause && x.pc == r.pc && x.unif == r.unif && x.ext == r.ext && !r.unif with
  | some k => rs.modify k fun x =>
      { x with lanes := x.lanes ||| r.lanes, addrs := r.addrs.foldl (fun m p => AMap.set m p.1 p.2) x.addrs, entered := false,
               age := if x.entered then r.age else x.age }
  | none => rs ++ [r]

/-- TAKING A TRAP (R431, R432, R455, R456): the lanes park where they stand, and a record keeps the cause, the PC, the lanes and
the address of each, a group record one address for every lane (R432, R438). A trap of the supervisor slot resets it (R463). -/
def takeTrap (s : State) (gid : Nat) (cause : Cause) (pc : Word) (ext unif : Bool) (lanes : List (Nat × UWord)) (status : Nat := 0) :
    State :=
  if (s.group gid).priv == .supervisor then slotTrap s (s.group gid).core
  else if lanes.isEmpty then s
  else
    let addrs : AMap UWord :=
      if unif then (List.range (s.group gid).lanes.length).map fun i => (i, (lanes.headD (0, 0)).2)
      else lanes.foldl (fun m x => AMap.set m x.1 x.2) []
    let r : Record := { cause := cause, pc := pc, ext := ext, unif := unif, lanes := maskOf (lanes.map fun x => x.1), addrs := addrs,
                        status := status, age := s.stamp }
    (s.modGroup gid fun g =>
      { lanes.foldl (fun g x => g.modLane x.1 fun l => { l.unmark with st := .parked, pc := pc }) g with
        records := addRecord g.records r, hold := .none }).tick

/-- RETURNING FROM A TRAP (R436): lanes of a record become active at a PC, or exit; an emptied record goes. `act` is 0 replay,
1 skip, 2 kill; a CANCEL record only kills (R457). -/
def resume (s : State) (gid rec act : Nat) (lanes : List Nat) (target : Word) : State :=
  match (s.group gid).records[rec]? with
  | none => s
  | some r =>
    let act := if r.cause == .cancel then 2 else act
    let left := r.lanes &&& ~~~ maskOf lanes
    let s := s.modGroup gid fun g =>
      { g with records := if left = 0 then g.records.eraseIdx rec else g.records.modify rec fun x => { x with lanes := left } }
    if act = 2 then exitLanes s gid lanes true
    else
      let pc := if act = 0 then target else r.pc + (if r.ext then 8 else 4)
      s.modGroup gid fun g => lanes.foldl (fun g i => g.modLane i fun l => { l with st := .active, pc := pc }) g

/-- What one lane does at an instruction. -/
inductive Out where
  | next
  | target (pc : Word)
  | block (w : Why)
  | join (n : Nat)
  | exit
  /-- issue stalls: the lane stays active where it is (R410) -/
  | stay
  | trap (c : Cause) (addr : Nat)
deriving DecidableEq, Repr

/-- One lane's part of an instruction: its registers after it, where it goes, its flags, and the destination that a producer which
waits has marked empty (R20, R269). -/
structure LaneRes where
  lane : Lane
  out : Out := .next
  fl : Nat := 0
  marks : List Slot := []
  /-- the issue of a memory word that waits (R303) -/
  op : Option Nat := none
deriving DecidableEq, Repr

/-- The lane after its part: a trap or a block leaves it as it was, but for the marks of a producer that waits (R20, R344, R455). -/
def settleLane (len : Nat) (l : Lane) (r : LaneRes) : Lane :=
  match r.out with
  | .next => { r.lane with pc := l.pc + BitVec.ofNat 32 len, waited := 0, failed := none, force := false, op := none }
  | .target pc => { r.lane with pc := pc, waited := 0, failed := none, force := false, op := none }
  | .block w => { r.marks.foldl Lane.drain l with st := .blocked w, waited := 0, marked := r.marks, op := r.op }
  | .join n => { l with st := .joining n, waited := 0, op := none }
  | .exit => l
  | .stay => l
  | .trap _ _ => { l with failed := none }

/-- The length of a word with its extension (R33). -/
def opLen (o : LaneOp) : Nat := if o.x == .none then 4 else 8

/-- The traps of a run's lanes: lane, cause and address. -/
def trapsOf (rs : List (Nat × LaneRes)) : List (Nat × Cause × Nat) :=
  rs.filterMap fun x => match x.2.out with
    | .trap c a => some (x.1, c, a)
    | _ => none

/-- Traps of a run's lanes, in lane order; each cause and PC makes its record (R64, R456). A word that traps in the supervisor slot resets it
once (R463). -/
def trapLanes (s : State) (gid : Nat) (pc : Word) (ext : Bool) (rs : List (Nat × LaneRes)) : State :=
  let ts := trapsOf rs
  (if (s.group gid).priv == .supervisor then ts.take 1 else ts).foldl (fun s x =>
    takeTrap s gid x.2.1 pc ext false [(x.1, BitVec.ofNat 64 x.2.2)]) s

/-- The lanes of a run that exit (R362). -/
def exitsOf (rs : List (Nat × LaneRes)) : List Nat :=
  rs.filterMap fun x => if x.2.out == .exit then some x.1 else none

/-- Runs a lane word whose lanes act each on their own: `f` gives a lane's part from the group as the word issues. -/
def runLanes (s : State) (len : Nat) (f : Group → Nat → Lane → LaneRes) : State :=
  let gid := s.cur
  let g := s.group gid
  let pc := s.curPc
  let rs := (g.run pc).map fun i => (i, f g i (g.lane i))
  let s := s.modGroup gid fun g =>
    { rs.foldl (fun g x => g.modLane x.1 fun l => settleLane len l x.2) g with
      flags := rs.foldl (fun fl x => fl ||| BitVec.ofNat 64 x.2.fl) g.flags }
  let s := trapLanes s gid pc (len == 8) rs
  let ex := exitsOf rs
  if ex.isEmpty then s else exitLanes s gid ex

/-- Runs a lane word whose lanes also act on the machine, in ascending lane order. Each lane reads the group as the word
issued, and changes its lane as it stands. -/
def runLanesM (s : State) (len : Nat) (f : State → Group → Nat → Lane → State × LaneRes) : State :=
  let gid := s.cur
  let g := s.group gid
  let pc := s.curPc
  let (s, rs) := (g.run pc).foldl (fun (acc : State × List (Nat × LaneRes)) i =>
    let (s, r) := f acc.1 g i ((acc.1.group gid).lane i)
    (s.modGroup gid fun g =>
      { g.modLane i (fun l => settleLane len l r) with flags := g.flags ||| BitVec.ofNat 64 r.fl }, acc.2 ++ [(i, r)])) (s, [])
  trapLanes s gid pc (len == 8) rs

/-- ILLEGAL in every lane of the issuing run, whatever the guard (R63). -/
def illegalRun (s : State) (ext : Bool) : State :=
  let g := s.group s.cur
  takeTrap s s.cur .illegal s.curPc ext false ((g.run s.curPc).map fun i => (i, 0))

/-- A group trap: one record of every lane that has not exited (R431), at the word's PC. -/
def groupTrap (s : State) (gid : Nat) (c : Cause) (addr : Nat) (status : Nat := 0) : State :=
  let g := s.group gid
  takeTrap s gid c s.curPc false true (g.live.map fun i => (i, BitVec.ofNat 64 addr)) status

/-- The group is converged: every lane that has not exited is active at the issuing PC (R25, R347). -/
def State.converged (s : State) (g : Group) : Bool :=
  g.live.all fun i => (g.lane i).isActive && (g.lane i).pc == s.curPc

/-- Moves every live lane of the issuing group. -/
def advanceTo (s : State) (pc : Word) : State :=
  s.modGroup s.cur fun g =>
    { g with failed := none, lanes := g.lanes.map fun l => if l.isExited then l else { l with pc := pc, waited := 0 } }

/-- The word after a uniform word. -/
def advance (s : State) : State := advanceTo s (s.curPc + 4)

/-- Holds the issuing group at its word (R347). -/
def holdGroup (s : State) (h : Hold) : State := s.modGroup s.cur fun g => { g with hold := h }

/-- Writes a uniform register of the issuing group. -/
def setU (s : State) (code : Nat) (v : UWord) : State := s.modGroup s.cur fun g => g.setU code v

/-- A uniform register of the issuing group. -/
def State.u (s : State) (code : Nat) : UWord := s.uval (s.group s.cur) code

/-- The gate of a uniform word (R25, R347, R456): it acts in a converged group; it waits while a lane is blocked; else the lanes
at the word make an UNIFORM_DIVERGED record. -/
def uniform (s : State) (act : State → State) : State :=
  let g := s.group s.cur
  if s.converged g then act s
  else if g.lanes.any Lane.isBlocked then s
  else takeTrap s s.cur .uniformDiverged s.curPc false true ((g.run s.curPc).map fun i => (i, 0))

/-- A uniform word that raises ILLEGAL (R63): a group record of the lanes at the word. In a diverged group the lanes elsewhere keep their states
(R455; DESIGN CHOICE, log entry 65). -/
def illegalU (s : State) : State :=
  takeTrap s s.cur .illegal s.curPc false true (((s.group s.cur).run s.curPc).map fun i => (i, 0))

/-- A supervisor word: user code raises PRIV, after convergence (R64, R402). -/
def supervisor (s : State) (act : State → State) : State :=
  uniform s fun s => if (s.group s.cur).priv == .user then groupTrap s s.cur .priv 0 else act s

/-- Refusals and statuses written to a uniform register: bit 63 and a code. -/
def refuse (code : Nat) : UWord := BitVec.ofNat 64 (2 ^ 63 + code)

/-- Raises the loss of a remote write that a release meets (R313, R422, R458), clearing it. -/
def State.lossAt (s : State) (g : Group) (scope : Nat) : Option (Cause × UWord) := if s.wideScope g scope then g.lost else none

/-- A uniform release (R247): performs its work; the group is held while acknowledgements are awaited; a lost write raises its
cause; else `k` goes on. -/
def uRelease (s : State) (scope : Nat) (k : State → State) : State :=
  let g := s.group s.cur
  match s.lossAt g scope with
  | some (c, a) => groupTrap (s.modGroup s.cur fun g => { g with lost := none }) s.cur c a.toNat
  | none =>
    let (s, ok) := releaseWork s g scope
    if ok then k s else holdGroup s .acks

/-- The SPILLBASE image of a logical slot (R434). -/
def Team.spillOff (t : Team) (slot : Nat) : Nat := t.spillbase.toNat % 2 ^ 32 + 4 * slot

/-- A result reaches its register (R20): an exited lane discards it, a spilled slot takes it in its image, and a slot above the resident
part is dead, its place another slot's (DEDUCED, log entry 6). -/
def landWord (s : State) (gid i : Nat) (sl : Slot) (v : Word) : State :=
  let g := s.group gid
  let l := g.lane i
  if g.ended || l.isExited then s
  else
    match sl with
    | .stack n =>
      if n < l.rb then
        let o := (s.teamOf g).spillOff n
        let b := natBytes 4 v.toNat
        (s.modGroup gid fun g => { g with prvDirty := (List.range 4).foldl (fun m k => AMap.set m (s.prvAddr g i (o + k)) (b.getD k 0)) g.prvDirty }).modGroup
          gid fun g => g.modLane i fun l => l.fill sl
      else if l.rb + g.depth ≤ n then s.modGroup gid fun g => g.modLane i fun l => l.fill sl
      else s.modGroup gid fun g => g.modLane i fun l => (l.put g.depth sl v).fill sl
    | .glob _ => s.modGroup gid fun g => g.modLane i fun l => (l.put g.depth sl v).fill sl

/-- The register after a slot: the odd half of a pair. -/
def Slot.succ (sl : Slot) : Slot :=
  match sl with
  | .glob n => .glob (n + 1)
  | .stack n => .stack (n + 1)

/-- How a loaded value is extended (R269): 1 signed byte, 2 signed half. -/
def extendLoad (ext v : Nat) : Nat :=
  match ext with
  | 1 => wrap 32 (sx 8 v)
  | 2 => wrap 32 (sx 16 v)
  | _ => v

/-- The L1 lines that a result writes in its destination's spilled image (R20, R211). -/
def State.landLines (s : State) (d : Dst) : List Nat :=
  let g := s.group d.group
  let l := g.lane d.lane
  ((if d.pair then [d.slot, d.slot.succ] else [d.slot]).filterMap fun sl => match sl with
    | .stack n => if n < l.rb && !l.isExited && !g.ended then some (lineOf (s.prvAddr g d.lane ((s.teamOf g).spillOff n))) else none
    | .glob _ => none).eraseDups

/-- A value lands where its destination named (R20). One whose spilled image finds no room in the L1 yet stays on its way (R211). -/
def land (s : State) (d : Dst) (v : Nat) : State :=
  let v := extendLoad d.ext v
  match prvRoom s d.group (s.landLines d) with
  | (s, some _) => { s with landing := s.landing ++ [{ dst := { d with ext := 0 }, val := BitVec.ofNat 64 v, counted := false }] }
  | (s, none) =>
    let s := landWord s d.group d.lane d.slot (BitVec.ofNat 32 v)
    if d.pair then landWord s d.group d.lane d.slot.succ (BitVec.ofNat 32 (v / 2 ^ 32)) else s

/-- Outstanding memory operations of a group, one for each issue (R21, R303): results on their way, stores and requests of its words not yet
accepted, feeds on their way, and issues whose lanes wait. -/
def State.outstanding (s : State) (gid : Nat) : Nat :=
  (((s.landing.filter fun x => x.dst.group == gid && x.counted).map fun x => x.op) ++
   ((s.stores.filter fun x => x.group == gid).map fun x => x.op) ++
   ((s.fabReqs.filter fun x => x.group == gid && x.own).map fun x => x.op) ++
   ((s.hostReqs.filter fun x => x.group == gid && x.own).map fun x => x.op) ++
   (s.clusters.flatMap fun c => (c.2.mx.fetches.filter fun x => x.group == gid).map fun x => x.op) ++
   (s.group gid).lanes.filterMap fun l => l.op).eraseDups.length

/-- Every lane of a run goes on with an issue that already counts (R303). -/
def Group.goesOn (g : Group) (pc : Word) : Bool := (g.run pc).all fun i => (g.lane i).op.isSome

/-- Runs `k` unless the word would make a 65th outstanding memory operation of its group: then issue stalls and no state changes (R21). -/
def within64 (s : State) (k : State → State) : State :=
  if 64 ≤ s.outstanding s.cur && !(s.group s.cur).goesOn s.curPc then s else k s

/-- One more or one less outstanding post of a queue (R27). -/
def qcntAdd (s : State) (gid q : Nat) (up : Bool) : State :=
  s.modGroup gid fun g => { g with qcnt := g.qcnt.set q (if up then g.qcnt.get 0 q + 1 else g.qcnt.get 0 q - 1) }

/-- The capability entry `chn` of a group's launch; one whose FIFO bank another context claims, or that is in no FIFO mode, acts as empty (R26,
R218, R424; DESIGN CHOICE, log entry 80). -/
def State.cap (s : State) (g : Group) (n : Nat) : Cap :=
  if g.priv == .supervisor then {}
  else
    let l := s.launchOf g
    let c := l.caps.get {} n
    let cl := clusterOf g.core
    if c.kind = 6 && ((s.fifo cl (c.ep 20 16)).claim.any (fun x => x != l.ctx) || (s.cluster cl).modes.get 0 (c.ep 20 16) != 2) then {} else c

/-- The entry binds queue `qn` to an engine: KIND 1, SEND, ENG (R27, R289). -/
def Cap.queue (c : Cap) (eng : Nat) : Bool := c.kind == 1 && c.send && c.ep 17 16 == eng

/-- A cancel reaches a counter (R340) and its launches: CANCEL goes to each resident group, and a team that is being swapped out ends with the swap
(R470). The other devices of a domain launch are told when `tell` says so (R396). -/
def cancelOne (tell : Bool) (s : State) (c : Nat) : State :=
  let s := s.modCounter c fun k => { k with state := 3, status := 0x13 }
  (List.range s.launches.length).foldl (fun s l =>
    let la := s.launch l
    if la.e.lcnt != c || la.finished || la.cancelled then s
    else
      let s := s.modLaunch l fun la => { la with cancelled := true }
      let ts := (List.range s.teams.length).filter fun t => (s.team t).launch == l && !(s.team t).isSup
      let s := ts.foldl (fun s t =>
        let tm := s.team t
        match tm.st with
        | .resident | .reserved =>
          tm.groups.foldl (fun s g => if (s.group g).ended then s else s.modGroup g fun g => { g with cancelled := true }) s
        | .done | .outgoing => s
        | .held => endHeld s t
        | _ => if tm.groups.isEmpty then completeTeam s t else tm.groups.foldl killGroup s) s
      let s := s.modCounter c fun k => { k with done := k.done + (la.e.hosted - la.made) }
      let s := s.modLaunch l fun la => { la with made := la.e.hosted }
      let s := if tell then sendMsgs s 27 (la.e.devs.filter fun d => d != s.kdev) [la.e.gkey] else s
      { s with engOps := s.engOps.map fun o => if o.launch = l then { o with gone := true } else o }) s

/-- Cancels a counter and its open descendants, level by level (R340). -/
def cancelTree (tell : Bool) : Nat → State → Nat → State
  | 0, s, _ => s
  | n + 1, s, c =>
    if (s.counter c).state ≠ 1 then s
    else
      let s := cancelOne tell s c
      (s.counters.filter fun k => k.2.parent == c && k.2.state == 1).foldl (fun s k => cancelTree tell n s k.1) s

/-- A cancel (R340). -/
def cancel (s : State) (c : Nat) : State := cancelTree true 5 s c

end Sys2Proof.Machine
end

