-- ==== Sys2Proof/Machine/Operands.lean ====
section
/-! DEFINITION. The operands of lane words: registers through swizzles (R44, R45), immediates (R46), third sources and trap
markers (R43), and the common course of a word that reads sources and writes a destination (R20, R64, R121). -/

namespace Sys2Proof.Machine

/-- A source as a lane reads it: its value, the empty registers it waits for, its trap marker. -/
structure Src where
  v : Nat := 0
  gaps : List (Nat × Slot) := []
  mark : Bool := false

/-- The lane that lane `i` of a group of width `w` reads under a swizzle (R44). -/
def swzLane (w i mode prm : Nat) : Nat :=
  match mode with
  | 1 => (i + prm) % w
  | 2 => prm
  | 3 => i ^^^ prm
  | 4 => i ^^^ (2 ^ prm - 1)
  | _ => i

/-- The limits of a swizzle parameter that depend on the width (R44). -/
def swzOk (w mode prm : Nat) : Bool :=
  match mode with
  | 2 => prm < w
  | 3 => prm < w
  | 4 => 2 ^ prm ≤ w
  | _ => true

/-- The lane that a crossbar read sees: a lane outside the run supplies its registers as the issuing cycle began (R45). -/
def State.seen (s : State) (g : Group) (j : Nat) : Lane :=
  match s.curOld with
  | some old => if (g.run s.curPc).elem j then g.lane j else old.getD j {}
  | none => g.lane j

/-- A register of lane `j`, as a source. An exited lane reads full (R45). -/
def State.regSrc (s : State) (g : Group) (j n : Nat) (pair mark : Bool) : Src :=
  let l := s.seen g j
  { v := l.rdOp g.depth n pair, gaps := if l.isExited then [] else l.gaps j n pair, mark := mark }

/-- A source under its swizzle (R44). -/
def State.src (s : State) (g : Group) (i n mode prm : Nat) (pair mark : Bool) : Src :=
  if mode = 5 then { v := (s.uval g prm).toNat % 2 ^ (if pair then 64 else 32) }
  else s.regSrc g (swzLane g.width i mode prm) n pair mark

/-- The width limits of a word's swizzles hold (R44). -/
def swzLegal (w : Nat) (x : LExt) : Bool :=
  match x with
  | .src _ am ap bm bp cm _ _ _ => swzOk w am ap && swzOk w bm bp && swzOk w cm bp
  | _ => true

/-- The reading of an immediate (R46): 0 sext to 32 or 64 bits, 1 shifted left by 2. -/
def immVal (cls : Nat) (pair : Bool) (v : Nat) : Nat :=
  if cls = 1 then v * 4 % 2 ^ 32 else wrap (if pair then 64 else 32) (sx 30 v)

/-- What a word reads and where it writes: operand width, reading of an immediate, which sources it reads, and whether it
writes a register. A word that reads a alone takes an immediate in place of a (R122). -/
structure Shape where
  pair : Bool := false
  imm : Nat := 0
  rb : Bool := true
  rc : Bool := false
  wd : Bool := true

/-- The sources a, b and c of a lane (R43, R46). -/
def State.sources (s : State) (g : Group) (i : Nat) (o : LaneOp) (sh : Shape) : Src × Src × Src :=
  let l := g.lane i
  let own (n : Nat) : Src := { v := l.rdOp g.depth n sh.pair, gaps := l.gaps i n sh.pair }
  match o.x with
  | .src c am ap bm bp cm ta tb tc =>
    (s.src g i o.a am ap sh.pair ta, if sh.rb then s.src g i o.b bm bp sh.pair tb else {},
     if sh.rc then s.src g i c cm bp sh.pair tc else {})
  | .imm v =>
    if sh.rb then (own o.a, { v := immVal sh.imm sh.pair v }, if sh.rc then own o.d else {})
    else ({ v := immVal sh.imm sh.pair v }, {}, {})
  | _ => (own o.a, if sh.rb then own o.b else {}, if sh.rc then own o.d else {})

/-- A lane with sources and a destination (R20, R64): EMPTY_READ under a marker comes before blocking; a lane that reads and
writes only full registers acts. -/
def gated (srcs : List Src) (dst : List (Nat × Slot)) (l : Lane) (act : Unit → LaneRes) : LaneRes :=
  if srcs.any fun x => x.mark && !x.gaps.isEmpty then { lane := l, out := .trap .emptyRead 0 }
  else
    let gaps := (srcs.flatMap fun x => x.gaps) ++ dst
    if gaps.isEmpty then act () else { lane := l, out := .block (.regs gaps) }

/-- One lane's part of a word with sources: `act` gets the group, the lane's number, the lane and a, b, c. -/
def lanePart (s : State) (o : LaneOp) (sh : Shape) (act : Group → Nat → Lane → Nat → Nat → Nat → LaneRes)
    (g : Group) (i : Nat) (l : Lane) : LaneRes :=
  if !l.guard o then { lane := l }
  else
    let x := s.sources g i o sh
    gated [x.1, x.2.1, x.2.2] (if sh.wd then l.gaps i o.d sh.pair else []) l fun _ => act g i l x.1.v x.2.1.v x.2.2.v

/-- A lane word with sources (R121): ILLEGAL for a swizzle beyond the group's width, else every lane's part. -/
def laneWord (s : State) (o : LaneOp) (sh : Shape) (act : Group → Nat → Lane → Nat → Nat → Nat → LaneRes) : State :=
  if swzLegal (s.group s.cur).width o.x then runLanes s (opLen o) (lanePart s o sh act) else illegalRun s (o.x != .none)

/-- A word that writes one register operand with a value and flags. -/
def aluWord (s : State) (o : LaneOp) (sh : Shape) (f : Nat → Nat → Nat → Nat × Nat) : State :=
  laneWord s o sh fun g _ l a b c =>
    let r := f a b c
    { lane := l.wrOp g.depth o.d sh.pair r.1, fl := r.2 }

/-- A word that writes one predicate, d[2:0]. -/
def predWord (s : State) (o : LaneOp) (sh : Shape) (f : Nat → Nat → Bool × Nat) : State :=
  laneWord s o { sh with wd := false } fun _ _ l a b _ =>
    let r := f a b
    { lane := l.setPred (o.d % 8) r.1, fl := r.2 }

end Sys2Proof.Machine
end

