-- ==== Sys2Proof/Machine/Flags.lean ====
section
/-! DEFINITION. FLAGS (R116, R117): its layout, and how engine and drain records reach it. The flag that each rounding sets is
computed beside it in Machine/Num.lean. -/

namespace Sys2Proof.Machine

/-- The nine flags of FLAGS: NX, UF, OF, DZ, NV, SUBST, SCLSAT, IWRAP, BND in bits 0 to 8 (R116). -/
def flagMask : UWord := 0x1FF

/-- FLAGS after a record's flags are merged (R204, R291). -/
def Group.mergeFlags (g : Group) (fl : UWord) : Group := { g with flags := g.flags ||| (fl &&& flagMask) }

/-- Adding flag events never clears a flag (R117). -/
def flagsOr (a b : Nat) : Nat := a ||| b

/-- The flags of a comparison `fcmp` (R129): NV for a signalling NaN, and for any NaN under the ordered conditions. -/
def cmpFlags (cond : Nat) (x y : XR) : Nat :=
  if x.isSig || y.isSig || ((x.isNan || y.isNan) && 2 ≤ cond && cond ≤ 5) then fNV else 0

/-- The flags of both elements of a packed word (R138). -/
def packFlags (a b : Nat × Nat) : Nat × Nat := (a.1 % 2 ^ 16 + 2 ^ 16 * (b.1 % 2 ^ 16), a.2 ||| b.2)

end Sys2Proof.Machine
end

