-- ==== Sys2Proof/Machine/LaneInt.lean ====
section
/-! DEFINITION. Integer, logic, address, compare, select and move words (R121 to R132). -/

namespace Sys2Proof.Machine

abbrev Res := Host.Outcome State Fault Refusal

/-- Width of the operand form: 32, or 64 with s = 1 (R122). -/
def opBits (o : LaneOp) : Nat := if o.s then 64 else 32

/-- A two-source integer word on `n`-bit values. -/
def int2 (s : State) (o : LaneOp) (f : Nat → Nat → Nat → Nat) : State :=
  aluWord s o { pair := o.s } fun a b _ => (f (opBits o) a b, 0)

/-- A single-source integer word. -/
def int1 (s : State) (o : LaneOp) (f : Nat → Nat → Nat) : State :=
  aluWord s o { pair := o.s, rb := false } fun a _ _ => (f (opBits o) a, 0)

/-- An integer word that reads a third source, or its destination as one. -/
def int3 (s : State) (o : LaneOp) (f : Nat → Nat → Nat → Nat → Nat) : State :=
  aluWord s o { pair := o.s, rc := true } fun a b c => (f (opBits o) a b c, 0)

/-- Truncating signed division and remainder (R124). -/
def sdiv (n a b : Nat) : Nat := if b = 0 then 2 ^ n - 1 else wrap n ((sx n a).tdiv (sx n b))
def srem (n a b : Nat) : Nat := if b = 0 then a else wrap n ((sx n a).tmod (sx n b))

/-- Shifts by t in 0 to n − 1 (R125). -/
def shlOp (n a t : Nat) : Nat := a * 2 ^ t % 2 ^ n
def shrOp (_n a t : Nat) : Nat := a / 2 ^ t
def sarOp (n a t : Nat) : Nat := wrap n (sx n a / (2 ^ t : Nat))
def rotOp (n a t : Nat) : Nat := a * 2 ^ t % 2 ^ n + a / 2 ^ (n - t)

/-- Bits reversed (R123). -/
def brevOp (n a : Nat) : Nat := ((List.range n).map fun i => a / 2 ^ i % 2 * 2 ^ (n - 1 - i)).sum

/-- A field descriptor's POS and effective length (R126). -/
def fieldPos (b : Nat) : Nat := b % 64
def fieldLen (n b : Nat) : Nat := if fieldPos b < n then min (b / 256 % 128) (n - fieldPos b) else 0
def bfxuOp (n a b : Nat) : Nat := if fieldLen n b = 0 then 0 else a / 2 ^ fieldPos b % 2 ^ fieldLen n b
def bfxsOp (n a b : Nat) : Nat := if fieldLen n b = 0 then 0 else wrap n (sx (fieldLen n b) (a / 2 ^ fieldPos b))
def bfiOp (n a b d : Nat) : Nat :=
  if fieldLen n b = 0 then d
  else
    let mask := (2 ^ fieldLen n b - 1) * 2 ^ fieldPos b
    (d - (d &&& mask)) + (a * 2 ^ fieldPos b &&& mask)

/-- The eight conditions of `icmp` (R129). -/
def icmpOp (n cond a b : Nat) : Bool :=
  match cond with
  | 0 => a == b
  | 1 => a != b
  | 2 => sx n a < sx n b
  | 3 => sx n a ≤ sx n b
  | 4 => sx n b < sx n a
  | 5 => sx n b ≤ sx n a
  | 6 => a < b
  | _ => b ≤ a

/-- `plop` on predicates: pa = a[2:0], pb = a[5:3] (R131). -/
def plop (s : State) (o : LaneOp) (f : Bool → Bool → Bool) : State :=
  runLanes s 4 fun _ _ l =>
    if l.guard o then { lane := l.setPred (o.d % 8) (f (l.pred (o.a % 8)) (l.pred (o.a / 8))) } else { lane := l }

/-- The all-zero op7: every lane of the run parks with ILLEGAL (R35, R63). -/
def execIll (_o : LaneOp) (s : State) : Res := .next (illegalRun s false)

/-- `iadd` (R123). -/
def execIadd (o : LaneOp) (s : State) : Res := .next (int2 s o fun n a b => (a + b) % 2 ^ n)

/-- `isub` (R123). -/
def execIsub (o : LaneOp) (s : State) : Res := .next (int2 s o fun n a b => (a + (2 ^ n - b)) % 2 ^ n)

/-- `imul` (R123). -/
def execImul (o : LaneOp) (s : State) : Res := .next (int2 s o fun n a b => a * b % 2 ^ n)

/-- `imulhu` (R123). -/
def execImulhu (o : LaneOp) (s : State) : Res := .next (int2 s o fun n a b => a * b / 2 ^ n)

/-- `imulhs` (R123). -/
def execImulhs (o : LaneOp) (s : State) : Res := .next (int2 s o fun n a b => wrap n (sx n a * sx n b / (2 ^ n : Nat)))

/-- `imad`; the third source is d without SRC (R123, R43). -/
def execImad (o : LaneOp) (s : State) : Res := .next (int3 s o fun n a b c => (a * b + c) % 2 ^ n)

/-- `idivu` (R124). -/
def execIdivu (o : LaneOp) (s : State) : Res := .next (int2 s o fun n a b => if b = 0 then 2 ^ n - 1 else a / b)

/-- `idivs` (R124). -/
def execIdivs (o : LaneOp) (s : State) : Res := .next (int2 s o sdiv)

/-- `iremu` (R124). -/
def execIremu (o : LaneOp) (s : State) : Res := .next (int2 s o fun _ a b => if b = 0 then a else a % b)

/-- `irems` (R124). -/
def execIrems (o : LaneOp) (s : State) : Res := .next (int2 s o srem)

/-- `imin` (R123). -/
def execImin (o : LaneOp) (s : State) : Res := .next (int2 s o fun n a b => if sx n a ≤ sx n b then a else b)

/-- `imax` (R123). -/
def execImax (o : LaneOp) (s : State) : Res := .next (int2 s o fun n a b => if sx n a ≤ sx n b then b else a)

/-- `umin` (R123). -/
def execUmin (o : LaneOp) (s : State) : Res := .next (int2 s o fun _ a b => min a b)

/-- `umax` (R123). -/
def execUmax (o : LaneOp) (s : State) : Res := .next (int2 s o fun _ a b => max a b)

/-- `iabs` (R123). -/
def execIabs (o : LaneOp) (s : State) : Res := .next (int1 s o fun n a => if sx n a < 0 then (2 ^ n - a) % 2 ^ n else a)

/-- `ineg` (R123). -/
def execIneg (o : LaneOp) (s : State) : Res := .next (int1 s o fun n a => (2 ^ n - a) % 2 ^ n)

/-- `and` (R123). -/
def execAnd (o : LaneOp) (s : State) : Res := .next (int2 s o fun _ a b => a &&& b)

/-- `or` (R123). -/
def execOr (o : LaneOp) (s : State) : Res := .next (int2 s o fun _ a b => a ||| b)

/-- `xor` (R123). -/
def execXor (o : LaneOp) (s : State) : Res := .next (int2 s o fun _ a b => a ^^^ b)

/-- `andn` (R123). -/
def execAndn (o : LaneOp) (s : State) : Res := .next (int2 s o fun n a b => a &&& (2 ^ n - 1 - b))

/-- `not` (R123). -/
def execNot (o : LaneOp) (s : State) : Res := .next (int1 s o fun n a => 2 ^ n - 1 - a)

/-- `shl` (R125). -/
def execShl (o : LaneOp) (s : State) : Res := .next (int2 s o fun n a b => shlOp n a (b % n))

/-- `shr` (R125). -/
def execShr (o : LaneOp) (s : State) : Res := .next (int2 s o fun n a b => shrOp n a (b % n))

/-- `sar` (R125). -/
def execSar (o : LaneOp) (s : State) : Res := .next (int2 s o fun n a b => sarOp n a (b % n))

/-- `rotl` (R125). -/
def execRotl (o : LaneOp) (s : State) : Res := .next (int2 s o fun n a b => rotOp n a (b % n))

/-- `popc` (R123). -/
def execPopc (o : LaneOp) (s : State) : Res := .next (int1 s o fun _ a => popcount a)

/-- `clz` (R123). -/
def execClz (o : LaneOp) (s : State) : Res := .next (int1 s o fun n a => n - nbits a)

/-- `brev` (R123). -/
def execBrev (o : LaneOp) (s : State) : Res := .next (int1 s o brevOp)

/-- `bfxu` (R126). -/
def execBfxu (o : LaneOp) (s : State) : Res := .next (int2 s o bfxuOp)

/-- `bfxs` (R126). -/
def execBfxs (o : LaneOp) (s : State) : Res := .next (int2 s o bfxsOp)

/-- `bfi`: its third source is its own d (R126). -/
def execBfi (o : LaneOp) (s : State) : Res :=
  .next (laneWord s o { pair := o.s } fun g _ l a b _ =>
    { lane := l.wrOp g.depth o.d o.s (bfiOp (opBits o) a b (l.rdOp g.depth o.d o.s)) })

/-- `lea.1` (R128). -/
def execLea1 (o : LaneOp) (s : State) : Res := .next (int2 s o fun n a b => (a + b * 1) % 2 ^ n)

/-- `lea.2` (R128). -/
def execLea2 (o : LaneOp) (s : State) : Res := .next (int2 s o fun n a b => (a + b * 2) % 2 ^ n)

/-- `lea.4` (R128). -/
def execLea4 (o : LaneOp) (s : State) : Res := .next (int2 s o fun n a b => (a + b * 4) % 2 ^ n)

/-- `lea.8` (R128). -/
def execLea8 (o : LaneOp) (s : State) : Res := .next (int2 s o fun n a b => (a + b * 8) % 2 ^ n)

/-- `icmp` (R129). -/
def execIcmp (o : LaneOp) (s : State) : Res := .next (predWord s o { pair := o.s } fun a b => (icmpOp (opBits o) (o.d / 8) a b, 0))

/-- `sel` writes every lane of the run: a under the guard, else b (R130) (DEDUCED, log entry 28). -/
def execSel (o : LaneOp) (s : State) : Res :=
  .next (laneWord s { o with g := 7, gn := false } { pair := o.s } fun g _ l a b _ =>
    { lane := l.wrOp g.depth o.d o.s (if l.guard o then a else b) })

/-- `plop.and` (R131). -/
def execPlopAnd (o : LaneOp) (s : State) : Res := .next (plop s o fun a b => a && b)

/-- `plop.or` (R131). -/
def execPlopOr (o : LaneOp) (s : State) : Res := .next (plop s o fun a b => a || b)

/-- `plop.xor` (R131). -/
def execPlopXor (o : LaneOp) (s : State) : Res := .next (plop s o fun a b => a != b)

/-- `plop.not` (R131). -/
def execPlopNot (o : LaneOp) (s : State) : Res := .next (plop s o fun a _ => !a)

/-- `mov` (R132). -/
def execMov (o : LaneOp) (s : State) : Res := .next (int1 s o fun _ a => a)

end Sys2Proof.Machine
end

