-- ==== Sys2Proof/Machine/LaneFp.lean ====
section
/-! DEFINITION. Floating-point and packed words (R133 to R139). -/

namespace Sys2Proof.Machine

/-- The format of an FP word: f32, or f64 with s = 1 (R133). -/
def fpFmt (o : LaneOp) : FpFmt := if o.s then fmtF64 else fmtF32

/-- A word on FP operands: `f` maps codes to a code and flags. -/
def fp2 (s : State) (o : LaneOp) (f : FpFmt → Nat → Nat → Nat × Nat) : State :=
  aluWord s o { pair := o.s, imm := 1 } fun a b _ => f (fpFmt o) a b
def fp1 (s : State) (o : LaneOp) (f : FpFmt → Nat → Nat × Nat) : State :=
  aluWord s o { pair := o.s, imm := 1, rb := false } fun a _ _ => f (fpFmt o) a
def fp3 (s : State) (o : LaneOp) (f : FpFmt → Nat → Nat → Nat → Nat × Nat) : State :=
  aluWord s o { pair := o.s, imm := 1, rc := true } fun a b c => f (fpFmt o) a b c

/-- Sum, difference, product and fused sum on codes (R133). -/
def faddOp (f : FpFmt) (a b : Nat) : Nat × Nat :=
  let x := decodeFp f a
  let y := decodeFp f b
  fpResult f [x, y] (x.add y)
def fsubOp (f : FpFmt) (a b : Nat) : Nat × Nat :=
  let x := decodeFp f a
  let y := decodeFp f b
  fpResult f [x, y] (x.add y.flip)
def fmulOp (f : FpFmt) (a b : Nat) : Nat × Nat :=
  let x := decodeFp f a
  let y := decodeFp f b
  fpResult f [x, y] (x.mul y)

/-- `ffma`: 0 × ∞ sets NV whatever c (R133). -/
def ffmaOp (f : FpFmt) (a b c : Nat) : Nat × Nat :=
  let x := decodeFp f a
  let y := decodeFp f b
  let z := decodeFp f c
  let p := x.mul y
  let r := fpResult f [x, y, z] (p.add z)
  (r.1, r.2 ||| (if p.isNan && !x.isNan && !y.isNan then fNV else 0))

/-- The function instructions (R136): the NaN case, then each fixed case, then the exact value rounded once. -/
def fpFun (f : FpFmt) (a : Nat) (neg0 : Bool → Nat × Nat) (inf : Bool → Nat × Nat) (fin : Bool → Nat → Int → Nat × Nat) : Nat × Nat :=
  match decodeFp f a with
  | .nan _ sg => (f.nanCode, if sg then fNV else 0)
  | .inf n => inf n
  | .fin n m e => if m = 0 then neg0 n else fin n m e

def nanNv (f : FpFmt) : Nat × Nat := (f.nanCode, fNV)

def frcpOp (f : FpFmt) (a : Nat) : Nat × Nat :=
  fpFun f a (fun n => (f.signed n f.infCode, fDZ)) (fun n => (f.signed n 0, 0)) fun n m e =>
    let q := quotient 1 0 m e
    roundFp f 0 false 0 n q.1 q.2

def frsqOp (f : FpFmt) (a : Nat) : Nat × Nat :=
  fpFun f a (fun n => (f.signed n f.infCode, fDZ)) (fun n => if n then nanNv f else (0, 0)) fun n m e =>
    if n then nanNv f
    else
      let q := rsqrtOf m e
      roundFp f 0 false 0 false q.1 q.2

def fsqrtOp (f : FpFmt) (a : Nat) : Nat × Nat :=
  fpFun f a (fun n => (f.signed n 0, 0)) (fun n => if n then nanNv f else (f.infCode, 0)) fun n m e =>
    if n then nanNv f
    else
      let q := sqrtOf m e
      roundFp f 0 false 0 false q.1 q.2

def fex2Op (f : FpFmt) (a : Nat) : Nat × Nat :=
  fpFun f a (fun _ => rne f (xrOfInt 1)) (fun n => (if n then 0 else f.infCode, 0)) fun n m e => rne f (exp2Of n m e)

def flg2Op (f : FpFmt) (a : Nat) : Nat × Nat :=
  fpFun f a (fun _ => (f.signed true f.infCode, fDZ)) (fun n => if n then nanNv f else (f.infCode, 0)) fun n m e =>
    if n then nanNv f else rne f (log2Of m e)

def fdivOp (f : FpFmt) (a b : Nat) : Nat × Nat :=
  let x := decodeFp f a
  let y := decodeFp f b
  let n := x.neg != y.neg
  match x, y with
  | .nan _ s, _ => (f.nanCode, if s || y.isSig then fNV else 0)
  | _, .nan _ s => (f.nanCode, if s then fNV else 0)
  | .inf _, .inf _ => nanNv f
  | .inf _, .fin _ _ _ => (f.signed n f.infCode, 0)
  | .fin _ _ _, .inf _ => (f.signed n 0, 0)
  | .fin _ m e, .fin _ k j =>
    if k = 0 then (if m = 0 then nanNv f else (f.signed n f.infCode, fDZ))
    else if m = 0 then (f.signed n 0, 0)
    else
      let q := quotient m e k j
      roundFp f 0 false 0 n q.1 q.2

/-- `fclass` (R137). -/
def fclassOp (f : FpFmt) (a : Nat) : Nat :=
  let sub := a / 2 ^ f.mw % 2 ^ f.ew = 0
  match decodeFp f a with
  | .nan _ s => if s then 256 else 512
  | .inf n => if n then 1 else 128
  | .fin n m _ =>
    if m = 0 then (if n then 8 else 16)
    else if sub then (if n then 4 else 32)
    else if n then 2 else 64

/-- The eight conditions of `fcmp` (R129). -/
def fcmpOp (cond : Nat) (x y : XR) : Bool :=
  match cond with
  | 0 => x.eq y
  | 1 => !x.eq y
  | 2 => x.lt y
  | 3 => x.lt y || x.eq y
  | 4 => y.lt x
  | 5 => y.lt x || x.eq y
  | 6 => x.isNan || y.isNan
  | _ => !x.isNan && !y.isNan

/-- The element format of a packed word: f16, or bf16 with s = 1 (R138). -/
def packFmt (o : LaneOp) : FpFmt := if o.s then fmtBf16 else fmtF16
def lo16 (v : Nat) : Nat := v % 2 ^ 16
def hi16 (v : Nat) : Nat := v / 2 ^ 16 % 2 ^ 16

/-- A packed word: `f` acts on each element (R138). -/
def packed (s : State) (o : LaneOp) (rc : Bool) (f : FpFmt → Nat → Nat → Nat → Nat × Nat) : State :=
  aluWord s o { imm := 1, rc := rc } fun a b c =>
    packFlags (f (packFmt o) (lo16 a) (lo16 b) (lo16 c)) (f (packFmt o) (hi16 a) (hi16 b) (hi16 c))

/-- `hdot2` on codes (R139). Beside a NaN input, NV is set when the products alone are opposite infinities, and not when a NaN product
stands beside an infinite one and an opposite c (DESIGN CHOICE, log entry 69). -/
def hdot2Op (f : FpFmt) (a b c : Nat) : Nat × Nat :=
  let a0 := decodeFp f (lo16 a)
  let a1 := decodeFp f (hi16 a)
  let b0 := decodeFp f (lo16 b)
  let b1 := decodeFp f (hi16 b)
  let z := decodeFp fmtF32 c
  let p := a0.mul b0
  let q := a1.mul b1
  let ops := [a0, a1, b0, b1, z]
  let r := fpResult fmtF32 ops ((p.add q).add z)
  let bad (x y p : XR) : Bool := p.isNan && !x.isNan && !y.isNan
  let opp := !p.isNan && !q.isNan && (p.add q).isNan
  (r.1, r.2 ||| (if bad a0 b0 p || bad a1 b1 q || opp then fNV else 0))

/-- `fadd` (R133). -/
def execFadd (o : LaneOp) (s : State) : Res := .next (fp2 s o faddOp)

/-- `fsub` (R133). -/
def execFsub (o : LaneOp) (s : State) : Res := .next (fp2 s o fsubOp)

/-- `fmul` (R133). -/
def execFmul (o : LaneOp) (s : State) : Res := .next (fp2 s o fmulOp)

/-- `ffma` (R133). -/
def execFfma (o : LaneOp) (s : State) : Res := .next (fp3 s o ffmaOp)

/-- `fmin` (R134). -/
def execFmin (o : LaneOp) (s : State) : Res := .next (fp2 s o fun f a b => fpMinMax f false a b)

/-- `fmax` (R134). -/
def execFmax (o : LaneOp) (s : State) : Res := .next (fp2 s o fun f a b => fpMinMax f true a b)

/-- `fabs` clears the sign bit alone (R135). -/
def execFabs (o : LaneOp) (s : State) : Res := .next (fp1 s o fun f a => (a % 2 ^ (f.ew + f.mw), 0))

/-- `fneg` inverts the sign bit alone (R135). -/
def execFneg (o : LaneOp) (s : State) : Res := .next (fp1 s o fun f a => (a ^^^ 2 ^ (f.ew + f.mw), 0))

/-- `fcmp` (R129). -/
def execFcmp (o : LaneOp) (s : State) : Res :=
  .next (predWord s o { pair := o.s, imm := 1 } fun a b =>
    let x := decodeFp (fpFmt o) a
    let y := decodeFp (fpFmt o) b
    (fcmpOp (o.d / 8) x y, cmpFlags (o.d / 8) x y))

/-- `frcp` (R136). -/
def execFrcp (o : LaneOp) (s : State) : Res := .next (fp1 s o frcpOp)

/-- `frsq` (R136). -/
def execFrsq (o : LaneOp) (s : State) : Res := .next (fp1 s o frsqOp)

/-- `fsqrt` (R136). -/
def execFsqrt (o : LaneOp) (s : State) : Res := .next (fp1 s o fsqrtOp)

/-- `fex2` (R136). -/
def execFex2 (o : LaneOp) (s : State) : Res := .next (fp1 s o fex2Op)

/-- `flg2` (R136). -/
def execFlg2 (o : LaneOp) (s : State) : Res := .next (fp1 s o flg2Op)

/-- `fdiv` (R136). -/
def execFdiv (o : LaneOp) (s : State) : Res := .next (fp2 s o fdivOp)

/-- `fclass` (R137). -/
def execFclass (o : LaneOp) (s : State) : Res := .next (fp1 s o fun f a => (fclassOp f a, 0))

/-- `hadd2` (R138). -/
def execHadd2 (o : LaneOp) (s : State) : Res := .next (packed s o false fun f a b _ => faddOp f a b)

/-- `hmul2` (R138). -/
def execHmul2 (o : LaneOp) (s : State) : Res := .next (packed s o false fun f a b _ => fmulOp f a b)

/-- `hfma2` (R138). -/
def execHfma2 (o : LaneOp) (s : State) : Res := .next (packed s o true ffmaOp)

/-- `hmin2` (R138). -/
def execHmin2 (o : LaneOp) (s : State) : Res := .next (packed s o false fun f a b _ => fpMinMax f false a b)

/-- `hmax2` (R138). -/
def execHmax2 (o : LaneOp) (s : State) : Res := .next (packed s o false fun f a b _ => fpMinMax f true a b)

/-- `hdot2` (R139). -/
def execHdot2 (o : LaneOp) (s : State) : Res := .next (aluWord s o { imm := 1, rc := true } fun a b c => hdot2Op (packFmt o) a b c)

end Sys2Proof.Machine
end

