-- ==== Sys2Proof/Machine/Convert.lean ====
section
/-! DEFINITION. `cvt` (R140 to R144) and the block-aware words (R145 to R151). -/

namespace Sys2Proof.Machine

/-- Registers r to r + k − 1 of lane `j` as one value, with those that are empty (R145, R146). -/
def State.regsSrc (s : State) (g : Group) (j r k : Nat) : Src :=
  (List.range k).foldl (fun acc i =>
    let x := s.regSrc g j (r + i) false false
    { v := acc.v + 2 ^ (32 * i) * x.v, gaps := acc.gaps ++ x.gaps }) {}

/-- Writes registers r to r + k − 1 of a lane. -/
def Lane.wrRegs (l : Lane) (d r k v : Nat) : Lane :=
  (List.range k).foldl (fun l i => l.wrOp d (r + i) false (v / 2 ^ (32 * i))) l

/-- Empty registers among r to r + k − 1. -/
def Lane.regsGaps (l : Lane) (i r k : Nat) : List (Nat × Slot) :=
  (List.range k).flatMap fun j => l.gaps i (r + j) false

/-- The lane generator of a core (R112, R114). -/
def State.laneGen (s : State) (core : Nat) : UWord := (s.core core).gen.getD (genLoad 0 s.kdev 0 core)

/-- The step of the lane generator at an issue with sr, whatever lanes are true; a fused issue shares the step before it
(R112, R113). -/
def stepLaneGen (s : State) (rnd : Nat) : State :=
  if rnd = 6 && !s.curFused then
    let c := (s.group s.cur).core
    s.modCore c fun k => { k with gen := some (genStep (s.laneGen c)) }
  else s

/-- A source or destination format of `cvt` (R140). -/
def cvtFmt (code sint : Nat) : Fmt :=
  match sint with
  | 0 => fmtOf code
  | 1 => .int 32 true
  | 2 => .int 32 false
  | 3 => .int 64 true
  | _ => .int 64 false

/-- A 64-bit operand of `cvt` (R142). -/
def cvtWide (code sint : Nat) : Bool := if sint = 0 then code == 14 else 3 ≤ sint

/-- Width of a format in bits. -/
def Fmt.bits (f : Fmt) : Nat :=
  match f with
  | .fp ff => ff.ew + ff.mw + 1
  | .int w _ => w
  | _ => 8

/-- The register image of a converted code: sign-extended for i8 and i4, else zero-extended (R142). -/
def cvtImage (f : Fmt) (c : Nat) : Nat :=
  match f with
  | .int 8 true => wrap 32 (sx 8 c)
  | .int 4 true => wrap 32 (sx 4 c)
  | _ => c

/-- The conversion of one lane (R143). -/
def cvtValue (sf df : Fmt) (cv : Cvt) (a : Nat) : Nat × Nat :=
  let x := decodeFmt sf (a % 2 ^ sf.bits)
  let r := if df == .e8m0 then toE8m0 cv.mode x else convert df cv x
  (cvtImage df r.1, r.2)

/-- A lane word with a CVT extension: `act` gets its own registers and answers destination and flags. -/
def cvtLane (srcs : Group → Nat → List Src) (d k : Nat) (o : LaneOp)
    (act : Group → Nat → List Nat → Nat × Nat) (g : Group) (i : Nat) (l : Lane) : LaneRes :=
  if !l.guard o then { lane := l }
  else
    let xs := srcs g i
    gated xs (l.regsGaps i d k) l fun _ =>
      let r := act g i (xs.map fun x => x.v)
      { lane := l.wrRegs g.depth d k r.1, fl := r.2 }

/-- `cvt` (R140 to R144). -/
def execCvt (o : LaneOp) (s : State) : Res :=
  match o.x with
  | .cvt sfmt dfmt rnd sat subst _ _ opx =>
    let sint := opx % 8
    let dint := opx / 8 % 8
    let s := stepLaneGen s rnd
    .next (runLanes s 8 (cvtLane (fun g i => [s.regsSrc g i o.a (if cvtWide sfmt sint then 2 else 1)]) o.d
      (if cvtWide dfmt dint then 2 else 1) o fun g i xs =>
        cvtValue (cvtFmt sfmt sint) (cvtFmt dfmt dint)
          { mode := rnd, sat := sat, subst := subst, cvsub := g.cvsub.toNat, r := genDraw (s.laneGen g.core) (5 * i) } (xs.headD 0)))
  | _ => .next (illegalRun s false)

/-- Elements per lane (R145). -/
def eplOf (opx : Nat) : Nat := 2 ^ (opx % 4)

/-- Block length of a size code (R57). -/
def bszOf (c : Nat) : Nat := 16 * 2 ^ c

/-- Registers of the value layout and of the code layout (R145). -/
def valRegs (fmt epl : Nat) : Nat := if fmt = 0 then epl else max 1 (epl / 2)
def codeRegs (fmt epl : Nat) : Nat := (epl * fmtBits fmt + 31) / 32

/-- Element e of a lane's value layout (R145). -/
def valElem (fmt v e : Nat) : XR :=
  if fmt = 0 then decodeFp fmtF32 (v / 2 ^ (32 * e) % 2 ^ 32)
  else decodeFmt (fmtOf fmt) (v / 2 ^ (16 * e) % 2 ^ 16)

/-- The value layout of element codes (R145). One f16 or bf16 element leaves bits [31:16] of its register zero (DESIGN CHOICE, log
entry 67). -/
def valPack (fmt : Nat) (cs : List Nat) : Nat := packStream (if fmt = 0 then 32 else 16) cs

/-- Exact conversion of a finite amax into f32 (R147). -/
def toF32 (x : XR) : Nat := (rne fmtF32 x).1

/-- The segment of lane `i`: its m lanes (R145). -/
def segment (m i : Nat) : List Nat := (List.range m).map fun t => i / m * m + t

/-- `bamax` (R147). It rounds nothing, but R112 steps the lane generator at each issue whose rounding field is sr, here as in
`bscale`, `bpack` and `bunpack` (DEDUCED, log entry 68). -/
def execBamax (o : LaneOp) (s : State) : Res :=
  match o.x with
  | .cvt sfmt _ rnd _ _ bsz _ opx =>
    let epl := eplOf opx
    let m := bszOf bsz / epl
    if (s.group s.cur).width < m then .next (illegalRun s true)
    else
      let s := stepLaneGen s rnd
      .next (runLanes s 8 (cvtLane (fun g i => (segment m i).map fun j => s.regsSrc g j o.a (valRegs sfmt epl)) o.d 1 o
        fun _ _ xs => (toF32 (amaxOf (xs.flatMap fun v => (List.range epl).map fun e => valElem sfmt v e)), 0)))
  | _ => .next (illegalRun s false)

/-- `bscale` (R148). -/
def execBscale (o : LaneOp) (s : State) : Res :=
  match o.x with
  | .cvt _ dfmt rnd _ _ _ _ _ =>
    let s := stepLaneGen s rnd
    .next (runLanes s 8 (cvtLane (fun g i => [s.regsSrc g i o.a 1]) o.d 1 o
      fun _ _ xs => scaleCode dfmt (decodeFp fmtF32 (xs.headD 0))))
  | _ => .next (illegalRun s false)

/-- `bquant` (R149). -/
def execBquant (o : LaneOp) (s : State) : Res :=
  match o.x with
  | .cvt sfmt dfmt rnd _ subst _ c opx =>
    let epl := eplOf opx
    let s := stepLaneGen s rnd
    .next (runLanes s 8 (cvtLane (fun g i => [s.regsSrc g i o.a (valRegs sfmt epl), s.regsSrc g i c 1]) o.d (codeRegs dfmt epl) o
      fun g i xs =>
        let rs := (List.range epl).map fun e =>
          mxQuant dfmt { mode := rnd, subst := subst, cvsub := g.cvsub.toNat, r := genDraw (s.laneGen g.core) (5 * i + 16 * e) }
            (xs.getD 1 0 % 256) (valElem sfmt (xs.headD 0) e)
        (packStream (fmtBits dfmt) (rs.map fun r => r.1), rs.foldl (fun f r => f ||| r.2) 0)))
  | _ => .next (illegalRun s false)

/-- Registers of the dense stream's share of a lane: W bits (R150). -/
def packRegs (fmt epl : Nat) : Nat := if epl * fmtBits fmt ≤ 32 then 1 else 2

/-- `bpack` (R150). -/
def execBpack (o : LaneOp) (s : State) : Res :=
  match o.x with
  | .cvt _ dfmt rnd _ _ bsz _ opx =>
    let epl := eplOf opx
    let m := bszOf bsz / epl
    let cw := epl * fmtBits dfmt
    let k := packRegs dfmt epl
    if (s.group s.cur).width < m then .next (illegalRun s true)
    else
      let s := stepLaneGen s rnd
      .next (runLanes s 8 (cvtLane (fun g i => (segment m i).map fun j => s.regsSrc g j o.a (codeRegs dfmt epl)) o.d k o
        fun _ i xs => (packStream cw (xs.map fun v => v % 2 ^ cw) / 2 ^ (32 * k * (i % m)) % 2 ^ (32 * k), 0)))
  | _ => .next (illegalRun s false)

/-- `bunpack` (R150). -/
def execBunpack (o : LaneOp) (s : State) : Res :=
  match o.x with
  | .cvt _ dfmt rnd _ _ bsz _ opx =>
    let epl := eplOf opx
    let m := bszOf bsz / epl
    let cw := epl * fmtBits dfmt
    let k := packRegs dfmt epl
    if (s.group s.cur).width < m then .next (illegalRun s true)
    else
      let s := stepLaneGen s rnd
      .next (runLanes s 8 (cvtLane (fun g i => (segment m i).map fun j => s.regsSrc g j o.a k) o.d (codeRegs dfmt epl) o
        fun _ i xs => (packStream (32 * k) xs / 2 ^ (cw * (i % m)) % 2 ^ cw, 0)))
  | _ => .next (illegalRun s false)

/-- An MX element for `bdeq`: a NaN sets no flag (R151). -/
def quietValue (x : XR) : XR := match x with
  | .nan n _ => .nan n false
  | r => r

/-- `bdeq` (R151). -/
def execBdeq (o : LaneOp) (s : State) : Res :=
  match o.x with
  | .cvt sfmt dfmt rnd sat subst _ c opx =>
    let epl := eplOf opx
    let s := stepLaneGen s rnd
    .next (runLanes s 8 (cvtLane (fun g i => [s.regsSrc g i o.a (codeRegs sfmt epl), s.regsSrc g i c 1]) o.d (valRegs dfmt epl) o
      fun g i xs =>
        let rs := (List.range epl).map fun e =>
          convert (fmtOf dfmt)
            { mode := rnd, sat := sat, subst := subst, cvsub := g.cvsub.toNat, r := genDraw (s.laneGen g.core) (5 * i + 16 * e) }
            (quietValue (mxValue sfmt (streamElem (fmtBits sfmt) (xs.headD 0) e) (xs.getD 1 0 % 256)))
        (valPack dfmt (rs.map fun r => r.1), rs.foldl (fun f r => f ||| r.2) 0)))
  | _ => .next (illegalRun s false)

end Sys2Proof.Machine
end

