-- ==== Sys2Proof/Machine/CrossLane.lean ====
section
/-! DEFINITION. Cross-lane words: `shfl` (R368), the collectives of a group register (R369 to R375) and `join` (R363). -/

namespace Sys2Proof.Machine

/-- Lane `i` belongs to the partition of `gn`, and the lanes of its subgroup (R23). -/
def Group.isMember (g : Group) (n i : Nat) : Bool := (g.greg n).members.getLsbD i
def Group.subgroup (g : Group) (n i : Nat) : List Nat :=
  let k := subLen g.width (g.greg n).size
  ((List.range k).map fun t => i / k * k + t).filter fun j => g.isMember n j

/-- The awaited set of a wait on `gn` at lane `i`: members of its subgroup neither exited nor parked (R363, R369). -/
def Group.awaited (g : Group) (n i : Nat) : List Nat :=
  (g.subgroup n i).filter fun j => (g.lane j).st != .exited && (g.lane j).st != .parked

/-- Every awaited lane waits at this PC. -/
def Group.arrived (g : Group) (n i : Nat) (pc : Word) : Bool :=
  (g.awaited n i).all fun j => (g.lane j).st == .joining n && (g.lane j).pc == pc

/-- Operand a as lane `j` would read it, seen by another lane through the crossbar (R45, R368). -/
def State.indexed (s : State) (g : Group) (j : Nat) (o : LaneOp) (sh : Shape) : Src :=
  match o.x with
  | .src _ am ap _ _ _ ta _ _ => s.src g j o.a am ap sh.pair ta
  | _ => s.regSrc g j o.a sh.pair false

/-- `shfl` (R368). -/
def execShfl (o : LaneOp) (s : State) : Res :=
  let sh : Shape := { pair := o.s }
  if !swzLegal (s.group s.cur).width o.x then .next (illegalRun s (o.x != .none))
  else
    .next (runLanes s (opLen o) fun g i l =>
      if !l.guard o then { lane := l }
      else
        let b := (s.sources g i o sh).2.1
        gated [b] (l.gaps i o.d o.s) l fun _ =>
          let a := s.indexed g (b.v % g.width) o sh
          gated [a] [] l fun _ => { lane := l.wrOp g.depth o.d o.s a.v })

/-- One execution of a collective by the lanes that are present in a subgroup: `act` gives a true member lane's part. -/
def collAct (o : LaneOp) (n : Nat) (act : Group → List Nat → Nat → Lane → LaneRes) (present : List Nat) (g : Group) (i : Nat)
    (l : Lane) : LaneRes :=
  if l.guard o then act g ((g.subgroup n i).filter fun j => present.elem j) i l else { lane := l }

/-- The lanes whose operand a lane `i` reads in a collective: the true members present in its subgroup that `reads` names for it; under
`.sync` the instruction executes once for the subgroup, so that each lane reads them all (R369). -/
def collReads (g : Group) (o : LaneOp) (n : Nat) (sync : Bool) (reads : Nat → Nat → Bool) (present : List Nat) (i : Nat) : List Nat :=
  ((g.subgroup n i).filter fun j => present.elem j && (g.lane j).guard o).filter fun j => sync || reads i j

/-- One lane's part of a collective that executes: it blocks, or takes EMPTY_READ under a marker, while an operand that it reads is
empty (R45). -/
def collPart (src : Group → Nat → Src) (o : LaneOp) (n : Nat) (sync : Bool) (reads : Nat → Nat → Bool)
    (act : Group → List Nat → Nat → Lane → LaneRes) (present : List Nat) (dst : Lane → Nat → List (Nat × Slot)) (g : Group) (i : Nat)
    (l : Lane) : LaneRes :=
  if l.guard o || sync then
    gated ((collReads g o n sync reads present i).map (src g)) (if l.guard o then dst l i else []) l fun _ => collAct o n act present g i l
  else { lane := l }

/-- A collective of `gn` (R369): the member lanes of the run are present; under `.sync` they wait until every awaited lane of their
subgroup has come, and then execute with every arrived lane present. `src` is a lane's operand, `reads i j` that lane `i` reads that of
lane `j`, and `dst` the empty registers of a destination. -/
def collective (s : State) (o : LaneOp) (n : Nat) (sync : Bool) (src : Group → Nat → Src) (reads : Nat → Nat → Bool)
    (dst : Lane → Nat → List (Nat × Slot)) (act : Group → List Nat → Nat → Lane → LaneRes) : State :=
  let g := s.group s.cur
  let present := (g.run s.curPc).filter fun i => g.isMember n i && (!sync || (g.lane i).force)
  let part := collPart src o n sync reads act
  let s := runLanes s (opLen o) fun g i l =>
    if !g.isMember n i then { lane := l }
    else if sync && !l.force then
      if l.guard o then gated [src g i] (dst l i) l fun _ => { lane := l, out := .join n } else { lane := l, out := .join n }
    else part present dst g i l
  if !sync then s
  else
    let g := s.group s.cur
    let done := g.lanesWith (fun l => l.st == .joining n && l.pc == s.curPc) |>.filter fun i => g.arrived n i s.curPc
    let rs := done.map fun i => (i, part done dst g i { g.lane i with st := .active, force := true })
    let s := s.modGroup s.cur fun g =>
      { rs.foldl (fun g x => g.modLane x.1 fun l => settleLane (opLen o) { l with st := .active, force := true } x.2) g with
        flags := rs.foldl (fun fl x => fl ||| BitVec.ofNat 64 x.2.fl) g.flags }
    trapLanes s s.cur s.curPc (opLen o == 8) rs

/-- `vote` (R370). -/
def execVote (o : LaneOp) (s : State) : Res :=
  let n := o.a / 8
  let all := tb o.b 0
  .next (collective s o n (tb o.b 1) (fun _ _ => {}) (fun _ _ => true) (fun _ _ => []) fun g present _ l =>
    let bits := (present.filter fun j => (g.lane j).guard o).map fun j => (g.lane j).pred (o.a % 8)
    { lane := l.setPred (o.d % 8) (if all then bits.all id else bits.any id) })

/-- The operation of a reduction on n-bit values, and its identity (R372). -/
def collOp (n op a b : Nat) : Nat × Nat :=
  let f := if n = 64 then fmtF64 else fmtF32
  match op with
  | 0 => ((a + b) % 2 ^ n, 0)
  | 1 => (if sx n a ≤ sx n b then b else a, 0)
  | 2 => faddOp f a b
  | _ => fpMinMax f true a b

def collId (n op : Nat) : Nat :=
  match op with
  | 0 => 0
  | 1 => 2 ^ (n - 1)
  | 2 => 2 ^ (n - 1)
  | _ => (if n = 64 then fmtF64 else fmtF32).signed true (if n = 64 then fmtF64 else fmtF32).infCode

/-- One level of the tree: children 2m and 2m + 1; an empty child passes the other (R373). -/
def treeLevel (f : Nat → Nat → Nat × Nat) : List (Option Nat) → List (Option Nat) × Nat
  | a :: b :: r =>
    let rest := treeLevel f r
    match a, b with
    | some x, some y => (some (f x y).1 :: rest.1, (f x y).2 ||| rest.2)
    | some x, none => (some x :: rest.1, rest.2)
    | none, y => (y :: rest.1, rest.2)
  | l => (l, 0)

/-- The root of the tree and the flags of its nodes (R373). -/
def treeRoot (f : Nat → Nat → Nat × Nat) : Nat → List (Option Nat) → Option Nat × Nat
  | 0, l => (l.headD none, 0)
  | k + 1, l =>
    let r := treeLevel f l
    let t := treeRoot f k r.1
    (t.1, r.2 ||| t.2)

/-- The inclusive scan (R374): combination of the contributions in ascending order. -/
def scanFold (f : Nat → Nat → Nat × Nat) (l : List (Option Nat)) : Option Nat × Nat :=
  l.foldl (fun acc x =>
    match acc.1, x with
    | some a, some b => (some (f a b).1, acc.2 ||| (f a b).2)
    | none, y => (y, acc.2)
    | a, none => (a, acc.2)) (none, 0)

/-- The contributions of a subgroup's offsets: true present members give a, others nothing (R369, R373). -/
def contribs (s : State) (g : Group) (o : LaneOp) (n i : Nat) (present : List Nat) : List (Option Nat) :=
  let k := subLen g.width (g.greg n).size
  (List.range k).map fun t =>
    let j := i / k * k + t
    if present.elem j && (g.lane j).guard o then some (s.sources g j o { pair := o.s, rb := false }).1.v else none

/-- The operand of a lane of `gred`, `gscan` or `gbcast`, and the empty registers of its destination. -/
def collSrc (s : State) (o : LaneOp) (g : Group) (i : Nat) : Src := (s.sources g i o { pair := o.s, rb := false }).1
def collDst (o : LaneOp) (l : Lane) (i : Nat) : List (Nat × Slot) := l.gaps i o.d o.s

/-- `gred` (R372, R373). -/
def execGred (o : LaneOp) (s : State) : Res :=
  let n := o.b / 8
  let f := collOp (opBits o) (o.b % 4)
  if !swzLegal (s.group s.cur).width o.x then .next (illegalRun s true)
  else
    .next (collective s o n (tb o.b 2) (collSrc s o) (fun _ _ => true) (collDst o) fun g present i l =>
      let r := treeRoot f 6 (contribs s g o n i present)
      { lane := l.wrOp g.depth o.d o.s (r.1.getD (collId (opBits o) (o.b % 4))), fl := r.2 })

/-- `gscan` (R372, R374). -/
def execGscan (o : LaneOp) (s : State) : Res :=
  let n := o.b / 8
  let f := collOp (opBits o) (o.b % 4)
  if !swzLegal (s.group s.cur).width o.x then .next (illegalRun s true)
  else
    .next (collective s o n (tb o.b 2) (collSrc s o) (fun i j => j ≤ i) (collDst o) fun g present i l =>
      let k := subLen g.width (g.greg n).size
      let r := scanFold f ((contribs s g o n i present).take (i % k + 1))
      { lane := l.wrOp g.depth o.d o.s (r.1.getD (collId (opBits o) (o.b % 4))), fl := r.2 })

/-- `gbcast` (R375). -/
def execGbcast (o : LaneOp) (s : State) : Res :=
  let n := o.b / 8
  if !swzLegal (s.group s.cur).width o.x then .next (illegalRun s true)
  else
    let g := s.group s.cur
    let first (i : Nat) : Option Nat := (g.subgroup n i).find? fun j => (g.run s.curPc).elem j && (g.lane j).guard o
    .next (collective s o n (tb o.b 2) (collSrc s o) (fun i j => first i == some j) (collDst o) fun g present i l =>
      match (contribs s g o n i present).find? Option.isSome with
      | some (some v) => { lane := l.wrOp g.depth o.d o.s v }
      | _ => { lane := l })

/-- `join gN` (R363): every lane of the run waits, whatever the guard; lanes outside MEMBERS pass. -/
def execJoin (o : LaneOp) (s : State) : Res :=
  .next (collective s { o with g := 7, gn := false } (o.b % 8) true (fun _ _ => {}) (fun _ _ => true) (fun _ _ => []) fun _ _ _ l =>
    { lane := l })

/-- A wait that an exit or a park has completed, or that the device releases (R363, R364): its lanes execute the word again
without waiting. -/
def Group.forceAt (g : Group) (ls : List Nat) : Group :=
  ls.foldl (fun g i => g.modLane i fun l => { l with st := .active, force := true }) g

/-- Lanes whose wait is complete (R363). -/
def Group.waitDone (g : Group) : List Nat :=
  g.lanesWith (fun l => match l.st with
    | .joining _ => true
    | _ => false) |>.filter fun i =>
      match (g.lane i).st with
      | .joining n => g.arrived n i (g.lane i).pc
      | _ => false

end Sys2Proof.Machine
end

