-- ==== Sys2Proof/Machine/Ports.lean ====
section
/-! DEFINITION. Neighbour ports (R379 to R384). -/

namespace Sys2Proof.Machine

/-- The peer lane of a port: a lane of this device, one of another device, or a trap (R379, R381). -/
inductive Peer where
  | here (group lane : Nat)
  | away (dev m t : Nat)
  | trap (c : Cause)
deriving DecidableEq, Repr

/-- The FIFO that a push on port `p` enters (R380). -/
def peerFifo (p : Nat) : Nat :=
  match p with
  | 0 => 1
  | 1 => 0
  | 2 => 3
  | 3 => 2
  | 4 => 5
  | 5 => 4
  | q => q

/-- Lane `t` of a team, by identity. -/
def State.laneAt (s : State) (team w t : Nat) : Peer :=
  match (s.team team).groups.find? fun g => (s.group g).kgrp == t / w && (!(s.group g).ended || (s.team team).st == .held) with
  | some g => if (s.group g).ended || ((s.group g).lane (t % w)).isExited then .trap .bound else .here g (t % w)
  | none => .trap .bound

/-- Lane `t` of a gang member, in the order of R381: an attached member, a member that has not departed, a lane that exists. -/
def State.gangLane (s : State) (g : Group) (pick : Gang → Nat → Nat) (t : Nat) (exists_ : Bool) : Peer :=
  match s.gangOf g.team with
  | none => .trap .perm
  | some (k, m) =>
    if !(s.teamOf g).attached || g.detached then .trap .perm
    else
      let ga := s.gangs.getD k {}
      let m' := pick ga m
      if ga.n ≤ m' then .trap .bound
      else
      match s.member k m' with
      | some tm => if (s.team tm).departed then .trap .gangDeparted else if !exists_ then .trap .bound else s.laneAt tm g.width t
      | none =>
        if ga.gone.elem m' then .trap .gangDeparted
        else
          let dev := memberDev (s.launchOf g).e.gdom ga.n m'
          if dev = s.kdev || !exists_ then .trap .bound else .away dev m' t

/-- The peer of a lane's port, `c` being the port capability of ports 6 and 7, which may name the lane's own team by its member (R379). -/
def State.peer (s : State) (g : Group) (i port : Nat) (c : Cap) : Peer :=
  let nt := (s.launchOf g).laneCount
  let v0 := g.ident i
  let row (ga : Gang) (m : Nat) : Nat := m / ga.rowLen
  let col (ga : Gang) (m : Nat) : Nat := m % ga.rowLen
  let ok := v0 < nt
  if port < 2 && !ok then .trap .bound
  else
    match port with
    | 0 => s.laneAt g.team g.width ((v0 + 1) % nt)
    | 1 => s.laneAt g.team g.width ((v0 + nt - 1) % nt)
    | 2 => s.gangLane g (fun ga m => row ga m * ga.rowLen + (col ga m + 1) % ga.rowLen) v0 ok
    | 3 => s.gangLane g (fun ga m => row ga m * ga.rowLen + (col ga m + ga.rowLen - 1) % ga.rowLen) v0 ok
    | 4 => s.gangLane g (fun ga m => (m + ga.rowLen) % ga.n) v0 ok
    | 5 => s.gangLane g (fun ga m => (m + ga.n - ga.rowLen) % ga.n) v0 ok
    | _ =>
      let t := (v0 + c.ep 35 26) % nt
      if c.ep 16 16 = 1 || (s.gangOf g.team).any (fun x => x.2 == c.ep 25 17) then s.laneAt g.team g.width t else s.gangLane g (fun _ _ => c.ep 25 17) t true

/-- Places of FIFO `q` of a lane that no value has yet: its pending pulls and its free entries (R380). -/
def State.roomAt (s : State) (gid i q : Nat) : Nat :=
  let l := (s.group gid).lane i
  (l.pulls.get [] q).length + (4 - (l.fifos.get [] q).length)

/-- Delivers a value to FIFO `q` of a lane: the oldest pending pull first, then room in the FIFO (R380); none when neither can
take it. -/
def deliver (s : State) (gid i q : Nat) (v : Word) : Option State :=
  let l := (s.group gid).lane i
  if s.roomAt gid i q = 0 then none
  else
  match l.pulls.get [] q with
  | sl :: r => some (landWord (s.modGroup gid fun g => g.modLane i fun l => { l with pulls := l.pulls.set q r }) gid i sl v)
  | [] =>
    if (l.fifos.get [] q).length < 4 then
      some (s.modGroup gid fun g => g.modLane i fun l => { l with fifos := l.fifos.set q (l.fifos.get [] q ++ [v]) })
    else none

/-- Member index of a group's team in its gang, 0 in none (R380). -/
def State.memberIdx (s : State) (g : Group) : Nat := ((s.gangOf g.team).map fun x => x.2).getD 0

/-- What becomes of a lane's value: the push retires, or waits for the end of the cycle, or for room (R380, R381). -/
def sendPush (s : State) (g : Group) (i pg pl q : Nat) (v : Word) : State × Option Why :=
  if q < 6 then
    match deliver s pg pl q v with
    | some s => (s, none)
    | none => (s, some (.room pg pl q))
  else ({ s with pushes := s.pushes ++ [{ member := s.memberIdx g, v0 := g.ident i, group := pg, lane := pl, q := q, val := v, frm := some (s.cur, i) }] },
    some .pushing)

/-- `push` (R381). -/
def execPush (o : LaneOp) (s : State) : Res :=
  let port := o.b % 8
  .next (runLanesM s 4 fun s g i l =>
    let c := s.cap g o.d
    if !l.guard o then (s, { lane := l })
    else if 6 ≤ port && !(c.kind == 2 && c.send) then (s, { lane := l, out := .trap .capInvalid o.d })
    else
      let src := g.lane i
      match src.gaps i o.a false with
      | x :: r => (s, { lane := l, out := .block (.regs (x :: r)) })
      | [] =>
        match s.peer g i port c with
        | .trap k => (s, { lane := l, out := .trap k 0 })
        | .away dev m t =>
          let ga := match s.gangOf g.team with
            | some (k, _) => s.gangs.getD k {}
            | none => {}
          (sendFab s { peer := dev, seq := 0, tagged := true, kind := 16, off := s.spanAt g.team (ga.idx * ga.n + m) (t * 8 + peerFifo port),
                       size := 4, data := BitVec.ofNat 64 (src.rdOp g.depth o.a false), cmp := BitVec.ofNat 64 (s.memberIdx g * 2 ^ 32 + g.ident i),
                       core := g.core, group := s.cur,
                       dst := some { group := s.cur, lane := i, slot := .glob 0, pair := false }, pc := l.pc },
           { lane := l, out := .block .remote })
        | .here pg pl =>
          match sendPush s g i pg pl (peerFifo port) (src.rd g.depth (src.slotOf o.a)) with
          | (s, none) => (s, { lane := (s.group s.cur).lane i })
          | (s, some w) => (s, { lane := l, out := .block w }))

/-- `pull` (R382). -/
def execPull (o : LaneOp) (s : State) : Res :=
  let port := o.b % 8
  .next (runLanes s 4 fun g i l =>
    if !l.guard o then { lane := l }
    else
      gated [] (l.gaps i o.d false) l fun _ =>
        match l.fifos.get [] port with
        | v :: r => { lane := { l with fifos := l.fifos.set port r }.wrOp g.depth o.d false v.toNat }
        | [] =>
          if 4 ≤ (l.pulls.get [] port).length then { lane := l, out := .block (.pulls port) }
          else { lane := { l with pulls := l.pulls.set port (l.pulls.get [] port ++ [l.slotOf o.d]) }.mark o.d false })

/-- `ptry` (R383). -/
def execPtry (o : LaneOp) (s : State) : Res :=
  let port := o.b % 8
  .next (runLanes s 4 fun g i l =>
    if !l.guard o then { lane := l }
    else
      gated [] (l.gaps i o.d false) l fun _ =>
        match l.fifos.get [] port with
        | v :: r => { lane := ({ l with fifos := l.fifos.set port r }.wrOp g.depth o.d false v.toNat).setPred (o.a % 8) true }
        | [] => { lane := l.setPred (o.a % 8) false })

end Sys2Proof.Machine
end

