-- ==== Sys2Proof/Machine/LaneMem.lean ====
section
/-! DEFINITION. Lane memory words (R265 to R279) and FIFO words (R280, R281). -/

namespace Sys2Proof.Machine

/-- The team and the lane whose scratch and private memory a group's accesses reach: its own, or those that the supervisor
slot serves (R460). -/
def State.served (s : State) (gid : Nat) : Nat × Nat :=
  let g := s.group gid
  if g.priv == .supervisor then
    let c := s.core g.core
    let t := c.serves.getD 0
    (t, ((s.team t).groups.find? fun x => (s.group x).kgrp == c.trapGrp && !(s.group x).ended).getD 0)
  else (g.team, gid)

/-- The lane of a private access (R460). -/
def State.servedLane (s : State) (gid i : Nat) : Nat :=
  if (s.group gid).priv == .supervisor then (s.core (s.group gid).core).trapLane else i

/-- The effective address of a lane (R265): a 64-bit address for `glob`, an offset that may be negative elsewhere. -/
def effAddr (g : Group) (l : Lane) (a space disp : Nat) : Int :=
  if space = 0 then ((l.rdOp g.depth a true : Nat) + sx 16 disp) % (2 ^ 64 : Nat)
  else (l.rdOp g.depth a false : Nat) + sx 16 disp

/-- One lane's access at its effective address: alignment and bounds, then the space (R265 to R267). -/
def laneAccess (s : State) (i space : Nat) (ea : Int) (q : GlobAcc) : State × MemOut :=
  let g := s.group q.gid
  let addr := wrap 64 ea
  let own := s.served q.gid
  let e := (s.launch (s.team own.1).launch).e
  if addr % q.n ≠ 0 then (s, .trap .align addr)
  else
    match space with
    | 0 => globAccess s { q with va := addr }
    | 1 => if ea < 0 ∨ (e.scratch : Int) < ea + q.n then (s, .trap .bound addr) else scrAccess s own.1 addr q
    | 2 =>
      if ea < 0 then (s, .trap (if (s.gangOf g.team).isNone then .perm else .bound) addr)
      else winAccess s { q with va := addr }
    | 3 =>
      if ea < 0 ∨ (e.ps : Int) < ea + q.n then (s, .trap .bound addr)
      else prvAccess s own.2 (s.servedLane q.gid i) (s.ctxOf (s.group own.2)) addr q.n (if q.kind = 1 then some q.data else none) q.failed
    | _ =>
      let cs := if g.priv == .supervisor then 0 else e.cs
      if ea < 0 ∨ (cs : Int) < ea + q.n then (s, .trap .bound addr)
      else globAccess s { q with va := e.cb + addr, cst := true }

/-- The lane after its access: a value is on its way to d, which is empty meanwhile, also while the lane waits (R20, R269). -/
def memEnd (s : State) (m : MemOut) (i : Nat) (l : Lane) (d : Option Dst) (dn op : Nat) : State × LaneRes :=
  match m with
  | .val v =>
    match d with
    | some x =>
      ({ s with landing := s.landing ++ [{ dst := { x with lane := i, slot := l.slotOf dn }, val := BitVec.ofNat 64 v, op := op }] },
       { lane := l.mark dn x.pair })
    | none => (s, { lane := (s.group s.cur).lane i })
  | .wait w => (s, { lane := l, out := .block w, op := some op, marks := match d with
    | some x => l.opSlots dn x.pair
    | none => [] })
  | .pend => (s, { lane := l, out := .block .remote, marks := match d with
    | some x => l.opSlots dn x.pair
    | none => [] })
  | .trap c a => (s, { lane := l, out := .trap c a })
  | .stall => (s, { lane := l, out := .stay })

/-- Blocks every lane of the issuing run; `marks` are the destinations of a producer, which are empty from its issue on (R20). -/
def blockRun (s : State) (w : Why) (marks : Nat → Lane → List Slot) : State :=
  runLanes s 0 fun _ i l => { lane := l, out := .block w, marks := marks i l }

/-- The release part of a lane word (R246, R247, R255): it orders every lane of the run. A lost write is raised here (R313). -/
def laneRelease (s : State) (scope : Nat) (len : Nat) (marks : Nat → Lane → List Slot) (k : State → State) : State :=
  let g := s.group s.cur
  match s.lossAt g scope with
  | some (c, a) =>
    runLanes (s.modGroup s.cur fun g => { g with lost := none }) len fun _ _ l => { lane := l, out := .trap c a.toNat }
  | none =>
    let (s, ok) := releaseWork s g scope
    if ok then k s else blockRun s .acks marks

/-- The acquire part of a lane word, after its reads, of these objects (R246). -/
def laneAcquire (s : State) (scope : Nat) (objs : List ObjSet) : State :=
  let g := s.group s.cur
  objs.foldl (fun s o => acquire s g.core (s.ctxOf g) scope o) s

/-- The objects that the acquire of a lane word names (R244, R255): for a lane that accessed `glob`, that of its address; I for any other space,
and for a lane that is not true, which acts as a fence. Lanes that parked or wait at the word are ordered when they complete it. -/
def acquireObjs (s : State) (o : LaneOp) (space disp : Nat) (run : List Nat) : List ObjSet :=
  let g := s.group s.cur
  (run.map fun i =>
    if space = 0 && (g.lane i).guard o then s.objectAt (s.ctxOf g) (wrap 64 (effAddr g (g.lane i) o.a 0 disp)) else .obj 0).eraseDups

/-- The address that a lane's access translates (R265), if it translates one. -/
def State.lanePage (s : State) (i space : Nat) (ea : Int) : Option Nat :=
  let own := s.served s.cur
  let e := (s.launch (s.team own.1).launch).e
  match space with
  | 0 => some (wrap 64 ea)
  | 3 => if ea < 0 ∨ (e.ps : Int) ≤ ea then none else some (s.prvAddr (s.group own.2) (s.servedLane s.cur i) ea.toNat)
  | 4 => if ea < 0 ∨ (e.cs : Int) ≤ ea then none else some (e.cb + ea.toNat)
  | _ => none

/-- The run's true lanes need more miss entries than are free in a TLB on their way (R419). -/
def State.missShort (s : State) (o : LaneOp) (space disp : Nat) : Bool :=
  let g := s.group s.cur
  let ctx := s.ctxOf g
  let places := tlbPlaces g.core
  let vas := ((g.run s.curPc).filter fun i => (g.lane i).guard o && ((g.lane i).gaps i o.a (space == 0)).isEmpty).filterMap fun i =>
    s.lanePage i space (effAddr g (g.lane i) o.a space disp)
  let lacking := ((vas.filter fun va => !(s.tlbs.any fun e => places.elem e.place && e.ctx == ctx && e.base ≤ va && va < e.base + e.size)).map
    fun va => va / 4096).eraseDups
  places.any fun p => s.missFree p < (lacking.filter fun v => (s.missAt p ctx v).isNone).length

/-- A memory word may issue: its group holds no 64 outstanding operations (R21), and the misses of its lanes find room (R419); else issue stalls and no
state changes. -/
def memIssue (s : State) (o : LaneOp) (space disp : Nat) (k : State → State) : State :=
  within64 s fun s => if s.missShort o space disp then s else k s

/-- A lane word of the memory classes: release, the lanes' accesses, acquire; it counts as one outstanding operation (R303), and a lane that has waited
goes on with its issue. `dst` is the destination of a producer. Full write-combining entries leave at its end (R272). -/
def memWord (s : State) (o : LaneOp) (scope order space disp : Nat) (dst : Lane → List Slot)
    (f : Nat → State → Group → Nat → Lane → Int → State × LaneRes) : State :=
  memIssue s o space disp fun s =>
    let body (s : State) : State :=
      let op := s.stamp
      let run := (s.group s.cur).run s.curPc
      let s0 := s
      let s := runLanesM s.tick 8 fun s g i l =>
        if !l.guard o then (s, { lane := l })
        else
          match l.gaps i o.a (space == 0) with
          | x :: r => (s, { lane := l, out := .block (.regs (x :: r)) })
          | [] => f (l.op.getD op) s g i l (effAddr g l o.a space disp)
      let s := wcSettle s (s.group s.cur).core
      if order % 2 = 1 then
        laneAcquire s scope (acquireObjs s0 o space disp (run.filter fun i => ((s.group s.cur).lane i).pc != s.curPc))
      else s
    let marks (i : Nat) (l : Lane) : List Slot :=
      if l.guard o && (l.gaps i o.a (space == 0)).isEmpty && (dst l).all (fun sl => !l.isEmpty sl) then dst l else []
    if 2 ≤ order then laneRelease s scope 8 marks body else body s

/-- A lane blocks on empty registers, else acts. -/
def gatedM (s : State) (gaps : List (Nat × Slot)) (l : Lane) (act : Unit → State × LaneRes) : State × LaneRes :=
  if gaps.isEmpty then act () else (s, { lane := l, out := .block (.regs gaps) })

/-- The access of a lane word, ready for `laneAccess`. -/
def State.acc (s : State) (g : Group) (i : Nat) (l : Lane) (o : LaneOp) (kind n op scope order hint : Nat) : GlobAcc :=
  { gid := s.cur, ctx := s.ctxOf g, va := 0, n := n, kind := kind, fresh := order % 2 == 1 && 2 ≤ scope, hint := hint,
    dst := some { group := s.cur, lane := i, slot := l.slotOf o.d, pair := o.s }, pc := s.curPc, ext := true, op := op,
    acq := if order % 2 = 1 then scope + 1 else 0, failed := l.failed.isSome }

/-- Bytes of a load's size code, and its extension (R269). -/
def ldBytes (c : Nat) : Nat := if c ≤ 1 then 1 else if c ≤ 3 then 2 else if c = 4 then 4 else 8
def ldExt (c : Nat) : Nat := if c = 1 then 1 else if c = 3 then 2 else 0

/-- `ld` (R269). -/
def execLd (o : LaneOp) (s : State) : Res :=
  match o.x with
  | .mem space scope order _ hint disp =>
    let c := o.b % 8
    .next (memWord s o scope order space disp (fun l => l.opSlots o.d o.s) fun op s g i l ea =>
      gatedM s (l.gaps i o.d o.s) l fun _ =>
        let q := s.acc g i l o 0 (ldBytes c) op scope order hint
        let d : Dst := { group := s.cur, lane := i, slot := l.slotOf o.d, pair := o.s, ext := ldExt c }
        let (s, m) := laneAccess s i space ea { q with dst := some d }
        memEnd s m i l (some d) o.d op)
  | _ => .next (illegalRun s false)

/-- What `.bnd` makes of a value (R271): stored as given with a flag or not, or a trap (DEDUCED, log entry 29). -/
def bndCheck (b : Bnd) (v : Nat) : Option (Nat × Nat) :=
  if b.action = 0 then some (v, 0)
  else if b.int then
    let x := sx 32 v
    let lo := sx 32 b.lo.toNat
    let hi := sx 32 b.hi.toNat
    if hi < lo then none
    else if lo ≤ x ∧ x ≤ hi then some (v, 0)
    else if b.action = 1 then some (v, fBND)
    else if b.action = 2 then some (if x < lo then b.lo.toNat else b.hi.toNat, fBND)
    else none
  else
    let x := decodeFp fmtF32 v
    let lo := decodeFp fmtF32 b.lo.toNat
    let hi := decodeFp fmtF32 b.hi.toNat
    if lo.isNan || hi.isNan || hi.lt lo then none
    else if !x.isNan && !x.lt lo && !hi.lt x then some (v, 0)
    else if b.action = 1 then some (v, fBND)
    else if b.action = 2 then some (if x.isNan then v else if x.lt lo then b.lo.toNat else b.hi.toNat, fBND)
    else none

/-- `st` (R270, R271). A value that `.bnd` traps raises BOUND before its address is translated (DESIGN CHOICE, log entry 89). -/
def execSt (o : LaneOp) (s : State) : Res :=
  match o.x with
  | .mem space scope order _ hint disp =>
    let n := ldBytes (o.d % 8)
    .next (memWord s o scope order space disp (fun _ => []) fun op s g i l ea =>
      gatedM s (l.gaps i o.b o.s) l fun _ =>
        let v := l.rdOp g.depth o.b o.s
        let bnd := tb o.d 3
        let r := if bnd then bndCheck ((s.launchOf g).bnd.get {} (g.bndidx.toNat % 64)) v else some (v, 0)
        let q := s.acc g i l o 1 n op scope 0 hint
        match r with
        | none => if wrap 64 ea % n = 0 then (s, { lane := l, out := .trap .bound 0 }) else (s, { lane := l, out := .trap .align (wrap 64 ea) })
        | some (v, fl) =>
          let (s, m) := laneAccess s i space ea { q with data := v % 2 ^ (8 * n), fl := fl }
          let (s, r) := memEnd s m i l none 0 op
          (s, if r.out == .next then { r with fl := fl } else r))
  | _ => .next (illegalRun s false)

/-- `atom` (R273). -/
def execAtom (o : LaneOp) (s : State) : Res :=
  match o.x with
  | .mem space scope order aop hint disp =>
    let n := if o.s then 8 else 4
    .next (memWord s o scope order space disp (fun l => l.opSlots o.d o.s) fun op s g i l ea =>
      gatedM s (l.gaps i o.b o.s ++ l.gaps i o.d o.s) l fun _ =>
        let q := { s.acc g i l o 2 n op scope order hint with data := l.rdOp g.depth o.b o.s, aop := aop }
        let (s, m) := laneAccess s i space ea q
        memEnd s m i l q.dst o.d op)
  | _ => .next (illegalRun s false)

/-- `red` (R274). -/
def execRed (o : LaneOp) (s : State) : Res :=
  match o.x with
  | .mem space scope _ aop hint disp =>
    let n := if o.s then 8 else 4
    .next (memWord s o scope 0 space disp (fun _ => []) fun op s g i l ea =>
      gatedM s (l.gaps i o.b o.s) l fun _ =>
        let q := { s.acc g i l o 4 n op scope 0 hint with data := l.rdOp g.depth o.b o.s, aop := aop }
        let (s, m) := laneAccess s i space ea q
        memEnd s m i l none 0 op)
  | _ => .next (illegalRun s false)

/-- `cas` (R275). -/
def execCas (o : LaneOp) (s : State) : Res :=
  match o.x with
  | .mem space scope order _ hint disp =>
    let n := if o.s then 8 else 4
    .next (memWord s o scope order space disp (fun l => l.opSlots o.d o.s) fun op s g i l ea =>
      gatedM s (l.gaps i o.b o.s ++ l.gaps i o.d o.s) l fun _ =>
        let q := { s.acc g i l o 3 n op scope order hint with
          data := l.rdOp g.depth o.b o.s, cmp := l.rdOp g.depth o.d o.s }
        let (s, m) := laneAccess s i space ea q
        memEnd s m i l q.dst o.d op)
  | _ => .next (illegalRun s false)

/-- The line a prefetch places (R277); whatever fails makes it do nothing, and so does a store of the core to the line that is not yet performed. A
line placed in the L1 leaves no older copy in the cluster's ways (R241). -/
def prefetch (s : State) (g : Group) (va level hint : Nat) (cst : Bool) : State :=
  match s.trans g.core (s.ctxOf g) va 0 true with
  | (s, .ok (.dpa a) false) =>
    let line := lineOf a
    if s.lineClass a ≠ 0 || s.snoopNeeded a false || 2 ≤ level then s
    else
      let mine (st : Store) : Bool := st.core == g.core && lineOf st.dpa == line
      let s := performStores s.stores.length s mine
      let way := ccHolder (clusterOf g.core)
      let h := if level = 0 then g.core else way
      let cap := if level = 0 then s.l1Room g.core else 1024 * s.ways (clusterOf g.core)
      if (level == 0 && hint == 3) || s.stores.any mine || (s.caches.any fun c => c.holder == h && c.dpa == line) then s
      else
        let s := if level = 0 then dropLines s fun c => c.holder == way && c.dpa == line else s
        keepLine (expose s (some (s.teamOf g).launch) a) cap
          { holder := h, ctx := s.ctxOf g, va := va - (a - line), dpa := line, cst := cst, bytes := s.bytes line 128, strm := hint == 1 }
  | (s, _) => s

/-- `pref` (R277): no register, no memory, no trap. -/
def execPref (o : LaneOp) (s : State) : Res :=
  match o.x with
  | .mem space scope _ _ hint disp =>
    .next (memWord s o scope 0 space disp (fun _ => []) fun _ s g _ l ea =>
      let e := (s.launchOf g).e
      if space = 0 then (prefetch s g (wrap 64 ea) (o.d % 4) hint false, { lane := l })
      else if ea < 0 ∨ (e.cs : Int) ≤ ea ∨ g.priv = .supervisor then (s, { lane := l })
      else (prefetch s g (e.cb + ea.toNat) (o.d % 4) hint true, { lane := l }))
  | _ => .next (illegalRun s false)

/-- What `ldtag` writes: the tag and its sectors (R278). -/
def tagImage (t : Nat) : Nat := t + 16 * tagSectors t

/-- What one lane's `ldtag` finds at an address (R278): the word to write, or what stops it. -/
def ldtagAt (s : State) (g : Group) (l : Lane) (va : Nat) : State × MemOut :=
  match s.trans g.core (s.ctxOf g) va 0 l.failed.isSome with
  | (s, .trap c) => (s, .trap c va)
  | (s, .wait c v) => (s, .wait (.page c v))
  | (s, .hold w) => (s, .wait w)
  | (s, .ok t _) =>
    let s := flushOverlap s g.core t 1
    match t with
    | .dpa a =>
      let mine (st : Store) : Bool := st.core == g.core && lineOf st.dpa == lineOf a
      let s := performStores s.stores.length s mine
      if s.snoopNeeded a false || s.stores.any mine || (s.redStands g.core t 1).isSome then (sendSnoop s a, .wait (.snoop (lineOf a)))
      else (expose s (some (s.teamOf g).launch) a, .val (tagImage (s.lineTag a)))
    | .peer d off =>
      if (s.peerCap (s.teamOf g).launch d true false).isNone || g.priv == .supervisor then (s, .trap .capInvalid va)
      else
        let s := drainWcb s g.core fun w => w.tgt == t.line
        if s.fabReqs.any fun r => r.core == g.core && r.kind == 1 && r.peer == d && lineOf r.off == lineOf off then (s, .wait .acks)
        else (s, .val 64)
    | .mcast _ _ => (s, .trap .perm va)
    | .host _ => (s, .val 64)

/-- `ldtag` (R278): while a true lane's tag has not landed, the run goes no further: its other lanes wait with the first one that waits, and read
again. -/
def execLdtag (o : LaneOp) (s : State) : Res :=
  match o.x with
  | .mem space _ _ _ _ disp =>
    .next (memIssue s o space disp fun s =>
      let op := s.stamp
      let g := s.group s.cur
      let gaps (i : Nat) (l : Lane) : List (Nat × Slot) := l.gaps i o.a (space == 0) ++ l.gaps i o.d false
      let ready := (g.run s.curPc).filter fun i => (g.lane i).guard o && (gaps i (g.lane i)).isEmpty
      let (s, outs) := ready.foldl (fun (acc : State × AMap MemOut) i =>
        let r := ldtagAt acc.1 g (g.lane i) (wrap 64 (effAddr g (g.lane i) o.a space disp))
        (r.1, acc.2 ++ [(i, r.2)])) (s.tick, [])
      let first := outs.findSome? fun x => match x.2 with
        | .wait w => some (x.1, w)
        | _ => none
      runLanes s 8 fun g i l =>
        let go (res : LaneRes) : LaneRes := match first with
          | some (j, w) => { lane := l, out := .block (if i = j then w else .mate j), op := some (l.op.getD op) }
          | none => res
        if !l.guard o then (match first with
          | some (j, _) => { lane := l, out := .block (.mate j) }
          | none => { lane := l })
        else if !(gaps i l).isEmpty then { lane := l, out := .block (.regs (gaps i l)) }
        else match (AMap.find outs i).getD .stall with
          | .trap c a => { lane := l, out := .trap c a }
          | .val v => go { lane := l.wrOp g.depth o.d false v }
          | _ => go { lane := l })
  | _ => .next (illegalRun s false)

/-- `fewait` (R279): a + n > 64 is ILLEGAL. -/
def execFewait (o : LaneOp) (s : State) : Res :=
  if 64 < o.a + o.b + 1 then .next (illegalRun s false)
  else
    .next (runLanes s 4 fun _ i l =>
      if !l.guard o then { lane := l }
      else gated [] (l.regsGaps i o.a (o.b + 1)) l fun _ => { lane := l })

/-- The slot lanes: 32 words of 4 bytes, or 16 of 8 (R280). -/
def slotLanes (o : LaneOp) : Nat := if o.s then 16 else 32

/-- A true slot lane; a true lane that is no slot lane acts as one that is not true (R280). -/
def slotTrue (o : LaneOp) (i : Nat) (l : Lane) : Bool := i < slotLanes o && l.guard o

/-- The true slot lanes of the issuing run do what `f` gives; the others go on. -/
def trueLanes (s : State) (o : LaneOp) (f : Nat → Lane → LaneRes) : State :=
  runLanes s 4 fun _ i l => if slotTrue o i l then f i l else { lane := l }

/-- A FIFO word of the run (R280): the capability, then `k` with the true slot lanes that name full registers alone, when there is
one; a lane whose register `reg` is empty blocks and stops no other (R20). -/
def fifoWord (s : State) (o : LaneOp) (need : Cap → Bool) (reg : Option Nat) (k : State → Group → Nat → Nat → List Nat → State) : State :=
  let g := s.group s.cur
  let true_ := (g.run s.curPc).filter fun i => slotTrue o i (g.lane i)
  let gaps (i : Nat) : List (Nat × Slot) := match reg with
    | some n => (g.lane i).gaps i n o.s
    | none => []
  let full := true_.filter fun i => (gaps i).isEmpty
  let c := s.cap g o.b
  if true_.isEmpty then runLanes s 4 fun _ _ l => { lane := l }
  else if !(c.kind == 6 && need c) then trueLanes s o fun _ l => { lane := l, out := .trap .capInvalid o.b }
  else if full.isEmpty then trueLanes s o fun i l => { lane := l, out := .block (.regs (gaps i)) }
  else k s g (clusterOf g.core) (c.ep 20 16) full

/-- `cbget` (R281): a ninth held slot raises BOUND; an empty bank blocks. -/
def execCbget (o : LaneOp) (s : State) : Res :=
  .next (within64 s fun s => fifoWord s o Cap.recv (some o.d) fun s g cl b full =>
    let gaps (i : Nat) (l : Lane) : List (Nat × Slot) := l.gaps i o.d o.s
    if 8 ≤ ((g.held.get [] b).filter fun x => x.1 == cl).length then
      trueLanes s o fun i l => { lane := l, out := if full.elem i then .trap .bound 0 else .block (.regs (gaps i l)) }
    else if (s.fifo cl b).filled = 0 then
      trueLanes s.tick o fun i l =>
        if full.elem i then { lane := l, out := .block (.filled cl b), marks := l.opSlots o.d o.s, op := some (l.op.getD s.stamp) }
        else { lane := l, out := .block (.regs (gaps i l)) }
    else
        let (s, slot, bytes) := fifoTake s cl b
        let s := s.modGroup s.cur fun g => { g with held := g.held.set b (g.held.get [] b ++ [(cl, slot)]) }
        let op := s.stamp
        runLanesM s.tick 4 fun s _ i l =>
          if !slotTrue o i l then (s, { lane := l })
          else if !full.elem i then (s, { lane := l, out := .block (.regs (gaps i l)) })
          else
            let n := if o.s then 8 else 4
            memEnd s (.val (bytesNat ((bytes.drop (n * i)).take n))) i l
              (some { group := s.cur, lane := i, slot := l.slotOf o.d, pair := o.s }) o.d op)

/-- `cbput` (R281): a full bank blocks. -/
def execCbput (o : LaneOp) (s : State) : Res :=
  .next (within64 s fun s => fifoWord s o Cap.send (some o.a) fun s g cl b full =>
    let part (out : Out) (op : Option Nat) (i : Nat) (l : Lane) : LaneRes :=
      if full.elem i then { lane := l, out := out, op := op.map fun n => l.op.getD n } else { lane := l, out := .block (.regs (l.gaps i o.a o.s)) }
    if (s.fifo cl b).free = 0 then trueLanes s.tick o (part (.block (.free cl b)) (some s.stamp))
    else
      let n := if o.s then 8 else 4
      let bytes := (List.range (slotLanes o)).flatMap fun i =>
        natBytes n (if full.elem i then (g.lane i).rdOp g.depth o.a o.s else 0)
      trueLanes (fifoPut s cl b bytes) o (part .next none))

/-- `cbrel` (R281): with no held slot it raises BOUND. The slot lies in the cluster where the group took it, also when the team has moved since
(R467; DEDUCED, log entry 90). -/
def execCbrel (o : LaneOp) (s : State) : Res :=
  .next (fifoWord s o Cap.recv none fun s g _ b _ =>
    match g.held.get [] b with
    | [] => trueLanes s o fun _ l => { lane := l, out := .trap .bound 0 }
    | slot :: r =>
      let s := fifoRelease (s.modGroup s.cur fun g => { g with held := g.held.set b r }) slot.1 b slot.2
      runLanes s 4 fun _ _ l => { lane := l })

end Sys2Proof.Machine
end

