-- ==== Sys2Proof/Machine/Control.lean ====
section
/-! DEFINITION. Lane control words (R358 to R362), gathered calls (R441) and breakpoints (R437). -/

namespace Sys2Proof.Machine

/-- The word target PC + 4 × sext(offset) (R40, R51). -/
def target (pc : Word) (n off : Nat) : Word := pc + BitVec.ofNat 32 (wrap 32 (4 * sx n off))

/-- bits [23:6] of a control word (R40). -/
def laneOff18 (o : LaneOp) : Nat := o.d * 4096 + o.a * 64 + o.b
def laneOff15 (o : LaneOp) : Nat := o.d % 8 * 4096 + o.a * 64 + o.b
def laneFrame (o : LaneOp) : Nat := o.d / 8

/-- `bra` (R359). -/
def execBra (o : LaneOp) (s : State) : Res :=
  .next (runLanes s 4 fun _ _ l => if l.guard o then { lane := l, out := .target (target s.curPc 18 (laneOff18 o)) } else { lane := l })

/-- A jump to a byte offset: ALIGN when it is not a multiple of 4 (R40). -/
def jumpTo (l : Lane) (v : Nat) : LaneRes :=
  if v % 4 = 0 then { lane := l, out := .target (BitVec.ofNat 32 v) } else { lane := l, out := .trap .align v }

/-- `jmpr` (R359). -/
def execJmpr (o : LaneOp) (s : State) : Res :=
  .next (runLanes s 4 fun g i l =>
    if l.guard o then gated [] (l.gaps i o.a false) l fun _ => jumpTo l (l.rdOp g.depth o.a false) else { lane := l })

/-- The tests of a call and its move of the window (R360). `tgt` is the target, or none for a register still to be read. -/
def callLane (g : Group) (i : Nat) (l : Lane) (fr : Nat) (ret : Word) (src : List (Nat × Slot)) (tgt : Nat) : LaneRes :=
  let w := l.w + 8 * fr
  if l.cdep = 65535 ∨ 65536 < w + 56 then { lane := l, out := .trap .bound 0 }
  else if l.rb + g.depth < w + 56 then { lane := l, out := .trap .spill 0 }
  else if l.isEmpty (.stack w) then { lane := l, out := .block (.regs [(i, .stack w)]) }
  else
    gated [] src l fun _ =>
      if tgt % 4 ≠ 0 then { lane := l, out := .trap .align tgt }
      else
        { lane := { (l.put g.depth (.stack w) ret).fill (.stack w) with w := w, cdep := l.cdep + 1 }, out := .target (BitVec.ofNat 32 tgt) }

/-- `call` (R360). -/
def execCall (o : LaneOp) (s : State) : Res :=
  .next (runLanes s 4 fun g i l =>
    if l.guard o then callLane g i l (laneFrame o) (s.curPc + 4) [] (target s.curPc 15 (laneOff15 o)).toNat else { lane := l })

/-- `callr` (R360): a is read before the window moves. -/
def execCallr (o : LaneOp) (s : State) : Res :=
  .next (runLanes s 4 fun g i l =>
    if l.guard o then callLane g i l (laneFrame o) (s.curPc + 4) (l.gaps i o.a false) (l.rdOp g.depth o.a false) else { lane := l })

/-- `ret` (R361). -/
def execRet (o : LaneOp) (s : State) : Res :=
  let f := o.b % 8
  .next (runLanes s 4 fun g i l =>
    if !l.guard o then { lane := l }
    else if l.cdep = 0 then { lane := l, out := .exit }
    else
      gated [] (l.gaps i 8 false) l fun _ =>
        let pc := l.rdOp g.depth 8 false
        if pc % 4 ≠ 0 then { lane := l, out := .trap .align pc }
        else if l.w < 8 * f then { lane := l, out := .trap .bound 0 }
        else if l.w - 8 * f < l.rb then { lane := l, out := .trap .fill 0 }
        else { lane := { l with w := l.w - 8 * f, cdep := l.cdep - 1 }, out := .target (BitVec.ofNat 32 pc) })

/-- `exit` (R362). -/
def execExit (o : LaneOp) (s : State) : Res :=
  .next (runLanes s 4 fun _ _ l => if l.guard o then { lane := l, out := .exit } else { lane := l })

/-- `bkpt` (R437). -/
def execBkpt (o : LaneOp) (s : State) : Res :=
  .next (runLanes s 4 fun _ _ l => if l.guard o then { lane := l, out := .trap .bkpt (o.a * 64 + o.b) } else { lane := l })

/-- SVCCTL.EN as read: LOGN 11 to 15 make it 0 (R443). -/
def Team.svcOn (t : Team) : Bool := t.svcen && t.svclogn ≤ 10

/-- Address of the slot of the next record (R443). -/
def Team.svcSlot (t : Team) : Nat := t.svcbase.toNat + 512 * (t.svcnext % 2 ^ t.svclogn)

/-- The mailbox cannot take a record now: its slot awaits a reply, or the entry's allowance is reached (R410, R441). -/
def State.mailFull (s : State) (gid ch : Nat) : Bool :=
  let g := s.group gid
  let tm := s.teamOf g
  let allow := (s.cap g ch).allow
  (tm.mail.any fun m => m.addr == tm.svcSlot) ||
    (allow != 0 && allow ≤ (tm.mail.filter fun m => m.group == gid && m.cap == ch).length)

/-- The 320 bytes of a record (R443). -/
def mailBytes (s : State) (g : Group) (pc : Word) (mask : UWord) (ch : Nat) (args : List Nat) : List Byte :=
  let tm := s.teamOf g
  let la := s.launchOf g
  let h := mask.toNat + pc.toNat * 2 ^ 64 + g.kgrp * 2 ^ 96 + g.width * 2 ^ 104 + ch * 2 ^ 112 + tm.kteam * 2 ^ 128 +
    la.e.lcnt * 2 ^ 160 + la.ctx * 2 ^ 176 + s.kcode g * 2 ^ 192 + tm.svcnext * 2 ^ 256 + 2 ^ 288
  natBytes 64 h ++ args.flatMap fun v => natBytes 4 v

/-- `gcall` (R441). A record in another device's memory needs the window entry of R421. -/
def execGcall (o : LaneOp) (s : State) : Res :=
  let g := s.group s.cur
  let tm := s.teamOf g
  let c := s.cap g o.b
  let run := g.run s.curPc
  let true_ := run.filter fun i => (g.lane i).guard o
  let gaps (i : Nat) (l : Lane) : List (Nat × Slot) := l.gaps i o.a false ++ l.gaps i o.d false
  let ms := true_.filter fun i => (gaps i (g.lane i)).isEmpty
  let all (out : Out) (s : State) : State := runLanes s 4 fun _ i l =>
    if !l.guard o then { lane := l }
    else if out matches .block _ then gated [] (gaps i l) l fun _ => { lane := l, out := out }
    else { lane := l, out := out }
  if true_.isEmpty then .next (runLanes s 4 fun _ _ l => { lane := l })
  else if !(c.kind == 5 && c.send) then .next (all (.trap .capInvalid o.b) s)
  else if ms.isEmpty then .next (all (.block .acks) s)
  else if !tm.svcOn then .next (all (.trap .gcall 0) s)
  else if s.mailFull s.cur o.b then .next (all (.block (.mail o.b)) s)
  else
    .next (match s.lossAt g 7 with
    | some (k, a) => all (.trap k a.toNat) (s.modGroup s.cur fun g => { g with lost := none })
    | none =>
      let (s, ok) := releaseWork s g 7
      if !ok then all (.block .acks) s
      else
        match s.trans g.core (s.ctxOf g) tm.svcSlot 1 (ms.any fun i => (g.lane i).failed.isSome) with
        | (s, .trap k) => all (.trap k tm.svcSlot) s
        | (s, .wait x v) => all (.block (.page x v)) s
        | (s, .hold w) => all (.block w) s
        | (s, .ok t _) =>
          let barred := match t with
            | .peer d _ => (s.peerCap tm.launch d false true).isNone
            | .mcast x _ => !s.mcastCap tm.launch x
            | _ => false
          let held := match t with
            | .dpa a => (linesOf a 320).find? fun x => s.snoopNeeded x true
            | _ => none
          if barred then all (.trap .capInvalid tm.svcSlot) s
          else if let some x := held then all (.block (.snoop x)) (sendSnoop s x)
          else
          let mask := maskOf ms
          let args := (List.range 64).map fun i => if ms.elem i then (g.lane i).rdOp g.depth o.a false else 0
          let s := putMail s g.core s.cur tm.svcSlot (some tm.launch) t (mailBytes s g s.curPc mask o.b args)
          let m : Mail := { seq := tm.svcnext, addr := tm.svcSlot, group := s.cur, cap := o.b,
                            dst := ms.map fun i => (i, (g.lane i).slotOf o.d) }
          let s := s.modTeam g.team fun t => { t with mail := t.mail ++ [m], svcnext := (t.svcnext + 1) % 2 ^ 32 }
          runLanes s 4 fun _ i l =>
            if !l.guard o then { lane := l }
            else gated [] (gaps i l) l fun _ => { lane := l.mark o.d false })

end Sys2Proof.Machine
end

