-- ==== Sys2Proof/Machine/Uniform.lean ====
section
/-! DEFINITION. Uniform arithmetic and control (R152 to R155, R365 to R367, R371, R378). -/

namespace Sys2Proof.Machine

/-- A uniform word that computes a value from two 64-bit operands (R152, R153). -/
def kalu (s : State) (o : UOp) (f : Nat → Nat → Nat) : State :=
  uniform s fun s => advance (setU s o.d (BitVec.ofNat 64 (f (s.u o.a).toNat (s.u o.b).toNat)))

/-- sext(imm12, 64) (R154). -/
def simm12 (o : UOp) : Nat := wrap 64 (sx 12 o.imm12)

/-- A uniform word with an immediate (R154). -/
def kalui (s : State) (o : UOp) (b : Nat) (f : Nat → Nat → Nat) : State :=
  uniform s fun s => advance (setU s o.d (BitVec.ofNat 64 (f (s.u o.a).toNat b)))

def bit01 (b : Bool) : Nat := if b then 1 else 0

/-- `kalu.add` (R153). -/
def execKaluAdd (o : UOp) (s : State) : Res := .next (kalu s o fun a b => (a + b) % 2 ^ 64)

/-- `kalu.sub` (R153). -/
def execKaluSub (o : UOp) (s : State) : Res := .next (kalu s o fun a b => (a + (2 ^ 64 - b)) % 2 ^ 64)

/-- `kalu.mul` (R153). -/
def execKaluMul (o : UOp) (s : State) : Res := .next (kalu s o fun a b => a * b % 2 ^ 64)

/-- `kalu.mulhu` (R153). -/
def execKaluMulhu (o : UOp) (s : State) : Res := .next (kalu s o fun a b => a * b / 2 ^ 64)

/-- `kalu.mulhs` (R153). -/
def execKaluMulhs (o : UOp) (s : State) : Res := .next (kalu s o fun a b => wrap 64 (sx 64 a * sx 64 b / (2 ^ 64 : Nat)))

/-- `kalu.and` (R153). -/
def execKaluAnd (o : UOp) (s : State) : Res := .next (kalu s o fun a b => a &&& b)

/-- `kalu.or` (R153). -/
def execKaluOr (o : UOp) (s : State) : Res := .next (kalu s o fun a b => a ||| b)

/-- `kalu.xor` (R153). -/
def execKaluXor (o : UOp) (s : State) : Res := .next (kalu s o fun a b => a ^^^ b)

/-- `kalu.shl` (R153). -/
def execKaluShl (o : UOp) (s : State) : Res := .next (kalu s o fun a b => shlOp 64 a (b % 64))

/-- `kalu.shr` (R153). -/
def execKaluShr (o : UOp) (s : State) : Res := .next (kalu s o fun a b => shrOp 64 a (b % 64))

/-- `kalu.sar` (R153). -/
def execKaluSar (o : UOp) (s : State) : Res := .next (kalu s o fun a b => sarOp 64 a (b % 64))

/-- `kalu.min` (R153). -/
def execKaluMin (o : UOp) (s : State) : Res := .next (kalu s o fun a b => if sx 64 a ≤ sx 64 b then a else b)

/-- `kalu.max` (R153). -/
def execKaluMax (o : UOp) (s : State) : Res := .next (kalu s o fun a b => if sx 64 a ≤ sx 64 b then b else a)

/-- `kalu.minu` (R153). -/
def execKaluMinu (o : UOp) (s : State) : Res := .next (kalu s o fun a b => min a b)

/-- `kalu.maxu` (R153). -/
def execKaluMaxu (o : UOp) (s : State) : Res := .next (kalu s o fun a b => max a b)

/-- `kalu.slt` (R153). -/
def execKaluSlt (o : UOp) (s : State) : Res := .next (kalu s o fun a b => bit01 (sx 64 a < sx 64 b))

/-- `kalu.sltu` (R153). -/
def execKaluSltu (o : UOp) (s : State) : Res := .next (kalu s o fun a b => bit01 (a < b))

/-- `kalui.addi` (R154). -/
def execKaluiAddi (o : UOp) (s : State) : Res := .next (kalui s o (simm12 o) fun a b => (a + b) % 2 ^ 64)

/-- `kalui.andi` (R154). -/
def execKaluiAndi (o : UOp) (s : State) : Res := .next (kalui s o (simm12 o) fun a b => a &&& b)

/-- `kalui.ori` (R154). -/
def execKaluiOri (o : UOp) (s : State) : Res := .next (kalui s o (simm12 o) fun a b => a ||| b)

/-- `kalui.xori` (R154). -/
def execKaluiXori (o : UOp) (s : State) : Res := .next (kalui s o (simm12 o) fun a b => a ^^^ b)

/-- `kalui.slti` (R154). -/
def execKaluiSlti (o : UOp) (s : State) : Res := .next (kalui s o (simm12 o) fun a b => bit01 (sx 64 a < sx 64 b))

/-- `kalui.sltiu` (R154). -/
def execKaluiSltiu (o : UOp) (s : State) : Res := .next (kalui s o (simm12 o) fun a b => bit01 (a < b))

/-- `kalui.shli` (R154). -/
def execKaluiShli (o : UOp) (s : State) : Res := .next (kalui s o (o.imm12 % 64) fun a b => shlOp 64 a (b % 64))

/-- `kalui.shri` (R154). -/
def execKaluiShri (o : UOp) (s : State) : Res := .next (kalui s o (o.imm12 % 64) fun a b => shrOp 64 a (b % 64))

/-- `kalui.sari` (R154). -/
def execKaluiSari (o : UOp) (s : State) : Res := .next (kalui s o (o.imm12 % 64) fun a b => sarOp 64 a (b % 64))

/-- sext(imm20 << 12, 64) (R155). -/
def highImm (o : UOp) : Nat := wrap 64 (sx 32 (o.imm20 * 2 ^ 12))

/-- `klui` (R155). -/
def execKlui (o : UOp) (s : State) : Res :=
  .next (uniform s fun s => advance (setU s o.d (BitVec.ofNat 64 (highImm o))))

/-- `kauipc` (R155). -/
def execKauipc (o : UOp) (s : State) : Res :=
  .next (uniform s fun s => advance (setU s o.d (BitVec.ofNat 64 (s.kcode (s.group s.cur) + s.curPc.toNat + highImm o))))

/-- `kread` (R366): an empty register holds the group. -/
def execKread (o : UOp) (s : State) : Res :=
  let n := o.imm12 % 64
  let i := o.imm12 / 64
  let pair := o.f3 == 2
  .next (uniform s fun s =>
    let g := s.group s.cur
    if g.width ≤ i then groupTrap s s.cur .bound 0
    else
      let l := g.lane i
      if !l.isExited && (l.opSlots n pair).any l.isEmpty then holdGroup s (.reg i (l.opSlots n pair))
      else
        let v := l.rdOp g.depth n pair
        advance (setU s o.d (BitVec.ofNat 64 (if o.f3 = 1 then wrap 64 (sx 32 v) else v))))

/-- The mask of the non-exited lanes whose predicate is 1 (R367). -/
def Group.ballot (g : Group) (p : Nat) : UWord := maskOf (g.live.filter fun i => (g.lane i).pred p)

/-- `kballot` (R367). -/
def execKballot (o : UOp) (s : State) : Res :=
  .next (uniform s fun s => advance (setU s o.d ((s.group s.cur).ballot (o.imm12 % 8))))

/-- The conditions of `bru` (R53). -/
def bruTaken (cond a b : Nat) : Bool :=
  match cond with
  | 0 => a == b
  | 1 => a != b
  | 2 => sx 64 a < sx 64 b
  | 3 => sx 64 b ≤ sx 64 a
  | 4 => a < b
  | 5 => b ≤ a
  | 6 => a == 0
  | _ => a != 0

/-- `bru` (R365): format U-B, a in [24:20] and b in [19:15]. -/
def execBru (o : UOp) (s : State) : Res :=
  .next (uniform s fun s =>
    if bruTaken o.f3 (s.u o.d).toNat (s.u o.a).toNat then advanceTo s (target s.curPc 12 o.imm12) else advance s)

/-- `ju` (R365). -/
def execJu (o : UOp) (s : State) : Res := .next (uniform s fun s => advanceTo s (target s.curPc 25 o.off25))

/-- `jur` (R365, R51). -/
def execJur (o : UOp) (s : State) : Res :=
  .next (uniform s fun s =>
    let v := (s.u o.a).toNat % 2 ^ 32
    if v % 4 = 0 then advanceTo s (BitVec.ofNat 32 v) else groupTrap s s.cur .align v)

/-- `loop` (R365). -/
def execLoop (o : UOp) (s : State) : Res :=
  .next (uniform s fun s =>
    let v := s.u o.d - 1
    let s := setU s o.d v
    if v != 0 then advanceTo s (target s.curPc 12 o.imm12) else advance s)

/-- `part` (R371): a write to `g0` is discarded. -/
def execPart (o : UOp) (s : State) : Res :=
  .next (uniform s fun s =>
    advance (s.modGroup s.cur fun g =>
      if o.d % 8 = 0 then g
      else { g with gregs := g.gregs.set (o.d % 8) { members := g.ballot (o.imm12 / 8 % 8), size := o.imm12 % 8 } }))

/-- `yield #n` (R378): a candidate again from the (n + 1)-th cycle after its issue, at age 0. -/
def execYield (o : UOp) (s : State) : Res :=
  .next (uniform s fun s =>
    (advance s).modGroup s.cur fun g => { g with age := 0, ageU := 0, hold := .yield (s.clock + o.imm12 + 1) })

/-- `yield.swap` (R378): the expiry of the slice when the loggia's victim is the yielding team. -/
def execYieldSwap (_o : UOp) (s : State) : Res :=
  .next (uniform s fun s =>
    let g := s.group s.cur
    let s := advance s
    match (s.core g.core).loggia with
    | some (t, v, _) => if v = g.team then s.modCore g.core fun c => { c with loggia := some (t, v, some 0) } else s
    | none => s)

end Sys2Proof.Machine
end

