-- ==== Sys2Proof/Machine/TeamOps.lean ====
section
/-! DEFINITION. Uniform memory (R283, R284), ordering and bindings (R285 to R288), barriers and spawned groups (R376, R377),
gangs and windows (R385 to R393). -/

namespace Sys2Proof.Machine

/-- The hold that a waiting access puts on its group. -/
def holdOf (w : Why) : Hold :=
  match w with
  | .page c v => .page c v
  | .acks => .acks
  | w => .wait w

/-- How an uniform access ends. -/
def uniformEnd (s : State) (m : MemOut) (k : State → Nat → State) : State :=
  match m with
  | .val v => k s v
  | .wait w => holdGroup s (holdOf w)
  | .pend => holdGroup s .load
  | .trap c a => groupTrap s s.cur c a
  | .stall => s

/-- Bytes and extension of a uniform access (R283). -/
def uBytes (f3 : Nat) : Nat := if f3 ≤ 1 then 1 else if f3 ≤ 3 then 2 else if f3 ≤ 5 then 4 else 8
def uExtend (f3 v : Nat) : Nat :=
  match f3 with
  | 1 => wrap 64 (sx 8 v)
  | 3 => wrap 64 (sx 16 v)
  | 5 => wrap 64 (sx 32 v)
  | _ => v

/-- The access of a uniform word. -/
def State.uacc (s : State) (kind va n d f3 : Nat) (cst : Bool) (data : Nat) : GlobAcc :=
  let g := s.group s.cur
  { gid := s.cur, ctx := s.ctxOf g, va := va, n := n, kind := kind, data := data, cst := cst, pc := s.curPc, unif := true,
    dst := some { group := s.cur, lane := 0, slot := .glob d, pair := false, ext := f3 }, op := s.stamp, failed := g.failed.isSome }

/-- A uniform `glob` access at ka + sext(imm12) (R283). -/
def uGlob (s : State) (o : UOp) (kind : Nat) : State :=
  uniform s fun s => within64 s fun s =>
    let va := ((s.u o.a).toNat + simm12 o) % 2 ^ 64
    let n := uBytes o.f3
    if va % n ≠ 0 then groupTrap s s.cur .align va
    else
      let (s, m) := globAccess s.tick (s.uacc kind va n o.d o.f3 false ((s.u o.d).toNat % 2 ^ (8 * n)))
      let s := wcSettle s (s.group s.cur).core
      uniformEnd s m fun s v => advance (if kind = 0 then setU s o.d (BitVec.ofNat 64 (uExtend o.f3 v)) else s)

/-- `kld` (R283). -/
def execKld (o : UOp) (s : State) : Res := .next (uGlob s o 0)

/-- `kst` (R283): d names the register stored. -/
def execKst (o : UOp) (s : State) : Res := .next (uGlob s o 1)

/-- `kldc` (R283): the constant region; the supervisor slot has none (R459). -/
def execKldc (o : UOp) (s : State) : Res :=
  .next (uniform s fun s => within64 s fun s =>
    let g := s.group s.cur
    let e := (s.launchOf g).e
    let cs := if g.priv == .supervisor then 0 else e.cs
    let off : Int := ((s.u o.a).toNat : Int) + sx 12 o.imm12
    let n := uBytes o.f3
    if wrap 64 off % n ≠ 0 then groupTrap s s.cur .align (wrap 64 off)
    else if off < 0 ∨ (cs : Int) < off + n then groupTrap s s.cur .bound (wrap 64 off)
    else
      let (s, m) := globAccess s.tick (s.uacc 0 ((e.cb + off.toNat) % 2 ^ 64) n o.d o.f3 true 0)
      uniformEnd s m fun s v => advance (setU s o.d (BitVec.ofNat 64 (uExtend o.f3 v))))

/-- The object of an ordering word (R285). -/
def State.uObj (s : State) (code : Nat) : ObjSet := s.objectAt (s.ctxOf (s.group s.cur)) (s.u code).toNat

/-- An acquire of the issuing group (R247). -/
def uAcquire (s : State) (scope : Nat) (o : ObjSet) : State :=
  let g := s.group s.cur
  acquire s g.core (s.ctxOf g) scope o

/-- `acq` (R285). -/
def execAcq (o : UOp) (s : State) : Res := .next (uniform s fun s => advance (uAcquire s o.f3 (s.uObj o.a)))

/-- `rel` (R285). -/
def execRel (o : UOp) (s : State) : Res := .next (uniform s fun s => uRelease s o.f3 advance)

/-- `fence` (R286): on I, the release before the acquire. -/
def execFence (o : UOp) (s : State) : Res :=
  let order := o.imm12 % 4
  let acq (s : State) : State := if order % 2 = 1 then uAcquire s o.f3 (.obj 0) else s
  .next (uniform s fun s => if 2 ≤ order then uRelease s o.f3 fun s => advance (acq s) else advance (acq s))

/-- The status of `bind` (R287). -/
def bindStatus (c : Context) (obj base len : Nat) : Nat :=
  if obj = 0 ∨ obj % 8 ≠ 0 then 1
  else if base % 128 ≠ 0 ∨ len = 0 ∨ len % 128 ≠ 0 ∨ 2 ^ 48 < len then 2
  else if c.bindings.any fun b => overlaps base len b.base b.len then 3
  else if 256 ≤ c.bindings.length then 4
  else 0

/-- `bind` (R287). -/
def execBind (o : UOp) (s : State) : Res :=
  .next (uniform s fun s =>
    let ctx := s.ctxOf (s.group s.cur)
    let obj := (s.u o.a).toNat
    let base := (s.u o.b).toNat
    let len := (s.u o.d).toNat
    let st := bindStatus (s.context ctx) obj base len
    let s := if st = 0 then s.modContext ctx fun c => { c with bindings := c.bindings ++ [{ obj := obj, base := base, len := len }] } else s
    advance (setU s o.d (BitVec.ofNat 64 st)))

/-- `unbind` (R288). -/
def execUnbind (o : UOp) (s : State) : Res :=
  .next (uniform s fun s =>
    let ctx := s.ctxOf (s.group s.cur)
    let obj := (s.u o.a).toNat
    let base := (s.u o.b).toNat
    let gone (b : Binding) : Bool := b.obj == obj && (base == 0 || b.base == base)
    let n := ((s.context ctx).bindings.filter gone).length
    let s := s.modContext ctx fun c => { c with bindings := c.bindings.filter fun b => !gone b }
    advance (setU s o.d (BitVec.ofNat 64 n)))

/-- A group arrives at a barrier (R376). -/
def barArrive (s : State) (b : Nat) : State :=
  let g := s.group s.cur
  s.modTeam g.team fun tm =>
    let (gen, arr) := tm.bars.get (0, []) b
    { tm with bars := tm.bars.set b (gen, if arr.elem s.cur then arr else arr ++ [s.cur]) }

/-- `bar.sync` (R376): held until its generation completes, then an acquire of I at team scope. -/
def execBarSync (o : UOp) (s : State) : Res :=
  let b := o.imm12 % 16
  .next (uniform s fun s =>
    let t := (s.group s.cur).team
    let s := match (s.group s.cur).barAt with
      | some _ => s
      | none =>
        (barArrive s b).modGroup s.cur fun g => { g with barAt := some (b, ((s.team t).bars.get (0, []) b).1) }
    let s := barSettle s t b
    match (s.group s.cur).barAt with
    | some (b, gen) =>
      if gen < ((s.team t).bars.get (0, []) b).1 then
        advance (uAcquire (s.modGroup s.cur fun g => { g with barAt := none }) 1 (.obj 0))
      else holdGroup s .bar
    | none => s)

/-- `bar.arr` (R376): a release of I at team scope; it counts the group and goes on. -/
def execBarArr (o : UOp) (s : State) : Res :=
  let b := o.imm12 % 16
  .next (uniform s fun s => uRelease s 1 fun s => advance (barSettle (barArrive s b) (s.group s.cur).team b))

/-- Groups that hold registers and slots of a core (R16). -/
def State.coreGroups (s : State) (core : Nat) : List Nat :=
  (List.range s.groups.length).filter fun g =>
    let gr := s.group g
    gr.core == core && gr.resident && !gr.ended && gr.priv == .user

/-- Registers of a core in use (R16). -/
def State.regsUsed (s : State) (core : Nat) : Nat :=
  ((s.coreGroups core).map fun g => (s.group g).width * (8 + (s.group g).depth)).sum

/-- The octet window of a new group: the fewest lanes of resident groups, then the lowest first octet (R342). -/
def State.pickOctet (s : State) (core w : Nat) : Nat :=
  let k := w / 8
  let load (f : Nat) : Nat :=
    ((s.coreGroups core).map fun g =>
      let gr := s.group g
      8 * ((List.range k).filter fun t => gr.octet ≤ f + t && f + t < gr.octet + gr.width / 8).length).sum
  let cands := (List.range (8 / max k 1)).map fun j => j * k
  cands.foldl (fun best f => if load f < load best then f else best) 0

/-- The lowest free group slot of a core (R345). -/
def State.pickSlot (s : State) (core : Nat) : Nat :=
  ((List.range 32).find? fun n => !((s.coreGroups core).any fun g => (s.group g).slot == n)).getD 0

/-- A lane at launch (R30). -/
def newLane (kgrp w i : Nat) (pc : Word) (v : Nat → Word) : Lane :=
  { pc := pc,
    globals := (List.range 8).foldl (fun m n =>
      let x := if n = 0 then BitVec.ofNat 32 (kgrp * w + i) else if n = 1 then BitVec.ofNat 32 i else v n
      if x = 0 then m else AMap.set m n x) [] }

/-- A group as it begins (R30): `v` gives v2 to v7 of each lane, `k` the registers k0 to k7. -/
def newGroup (s : State) (t kgrp core : Nat) (pc : Word) (v : Nat → Nat → Word) (k : Nat → UWord) : Group :=
  let la := s.launch (s.team t).launch
  let e := la.e
  { team := t, kgrp := kgrp, width := e.width, depth := e.depth, core := core, octet := s.pickOctet core e.width, slot := s.pickSlot core,
    cancelled := la.cancelled && !la.finished,
    lanes := (List.range e.width).map fun i => newLane kgrp e.width i pc (v i),
    uregs := (List.range 8).foldl (fun m n => if k n = 0 then m else AMap.set m n (k n)) [], resident := true }

/-- Adds a group to its team. -/
def addGroup (s : State) (t : Nat) (g : Group) : State :=
  { s with groups := s.groups ++ [g] }.modTeam t fun tm => { tm with groups := tm.groups ++ [s.groups.length] }

/-- `spawn` (R349, R377). -/
def execSpawn (o : UOp) (s : State) : Res :=
  .next (uniform s fun s =>
    let g := s.group s.cur
    let tm := s.teamOf g
    let entry := (s.u o.a).toNat % 2 ^ 32
    let live := tm.groups.filter fun x => !(s.group x).ended
    if entry % 4 ≠ 0 then advance (setU s o.d (refuse 2))
    else if tm.isSup || 16 ≤ live.length || 32 ≤ (s.coreGroups g.core).length ||
        196608 < s.regsUsed g.core + g.width * (8 + g.depth) then advance (setU s o.d (refuse 1))
    else
      let kg := ((List.range 16).find? fun n => !(live.any fun x => (s.group x).kgrp == n)).getD 0
      let ng := newGroup s g.team kg g.core (BitVec.ofNat 32 entry)
        (fun i n => (g.lane i).globals.get 0 n) (fun n => g.uregs.get 0 n)
      advance (setU (addGroup s g.team ng) o.d (BitVec.ofNat 64 kg)))

/-- `gang.query` (R393). -/
def gangInfo (s : State) (gid : Nat) : UWord :=
  let g := s.group gid
  match s.gangOf g.team with
  | none => refuse 0x30
  | some (k, m) =>
    let ga := s.gangs.getD k {}
    let tm := s.teamOf g
    let dep := (s.members k).any (fun t => (s.team t).departed) || !ga.gone.isEmpty
    BitVec.ofNat 64 (m + ga.n * 2 ^ 9 + ga.rowLen * 2 ^ 18 + bit01 tm.attached * 2 ^ 27 + bit01 (s.teamDetached g.team) * 2 ^ 28 +
      bit01 g.detached * 2 ^ 29 + bit01 dep * 2 ^ 30 + (if ga.zsize = 0 then 0 else Nat.log2 ga.zsize) * 2 ^ 32)

/-- Every member has attached (R387), those of other devices as they have reported (DESIGN CHOICE, log entry 18). -/
def State.gangFormed (s : State) (k : Nat) : Bool :=
  let ga := s.gangs.getD k {}
  ((s.members k).all fun t => (s.team t).attached) && ga.n ≤ (s.members k).length + ga.away.length

/-- `gang.join` (R387). -/
def execGangJoin (o : UOp) (s : State) : Res :=
  let l := o.imm12 % 512
  .next (uniform s fun s =>
    let g := s.group s.cur
    match s.gangOf g.team with
    | none => advance (setU s o.d (refuse 0x30))
    | some (k, _) =>
      let ga := s.gangs.getD k {}
      if l = 0 ∨ ga.n < l ∨ ga.n % l ≠ 0 then advance (setU s o.d (refuse 0x31))
      else if ga.rowLen ≠ 0 ∧ ga.rowLen ≠ l then advance (setU s o.d (refuse 0x32))
      else if ga.depEarly then advance (setU (s.modTeam g.team fun tm => { tm with attached := false }) o.d (refuse 0x34))
      else
        let s := if (s.teamOf g).attached then s else
          reportGang ((s.modTeam g.team fun tm => { tm with attached := true }).modGang k fun ga => { ga with rowLen := l }) k g.team 17 l
        let s := s.modGroup s.cur fun g => { g with joinedGang := true }
        if ga.formed || s.gangFormed k then
          let s := s.modGang k fun ga => { ga with formed := true }
          advance (setU s o.d (gangInfo s s.cur))
        else holdGroup s .gang)

/-- `gang.detach` (R391). -/
def execGangDetach (o : UOp) (s : State) : Res :=
  .next (uniform s fun s =>
    let g := s.group s.cur
    match s.gangOf g.team with
    | none => advance (setU s o.d (refuse 0x30))
    | some (k, _) =>
      if !(s.teamOf g).attached then advance (setU s o.d (refuse 0x35))
      else uRelease s 5 fun s =>
        gangSweep (advance (setU (s.modGroup s.cur fun g => { g with detached := true }) o.d 0)) k)

/-- `gang.sync` (R390): a release on issue, an acquire on completion. -/
def execGangSync (_o : UOp) (s : State) : Res :=
  .next (uniform s fun s =>
    let g := s.group s.cur
    match s.gangOf g.team with
    | none => groupTrap s s.cur .perm 0
    | some (k, _) =>
      if !(s.teamOf g).attached || g.detached then groupTrap s s.cur .perm 0
      else
        let wait (s : State) (n : Nat) : State :=
          if n ≤ (s.gangs.getD k {}).syncDone then
            advance (uAcquire (s.modGroup s.cur fun g => { g with syncAt := none }) 5 (.obj 0))
          else holdGroup s .sync
        match g.syncAt with
        | some n => wait s n
        | none => uRelease s 5 fun s =>
          let n := g.syncs + 1
          wait (syncSettle (s.modGroup s.cur fun g => { g with syncs := n, syncAt := some n }) k) n)

/-- `gang.query` (R393). -/
def execGangQuery (o : UOp) (s : State) : Res :=
  .next (uniform s fun s => advance (setU s o.d (gangInfo s s.cur)))

/-- `winmap.set` (R388). -/
def execWinmapSet (o : UOp) (s : State) : Res :=
  .next (uniform s fun s =>
    let g := s.group s.cur
    let a := (s.u o.a).toNat
    let b := (s.u o.b).toNat
    match s.gangOf g.team with
    | none => advance (setU s o.d (refuse 0x30))
    | some (k, _) =>
      let z := (s.gangs.getD k {}).zsize
      if b ≠ 2 ^ Nat.log2 b ∨ b < 4096 ∨ 2 ^ 20 < b ∨ (z ≠ 0 ∧ b ≠ z) then advance (setU s o.d (refuse 0x36))
      else if a % b ≠ 0 ∨ (s.launchOf g).e.scratch < a + b then advance (setU s o.d (refuse 0x37))
      else if (s.teamOf g).slice.isSome then advance (setU s o.d (refuse 0x38))
      else
        let s := reportGang ((s.modTeam g.team fun tm => { tm with slice := some a }).modGang k fun ga => { ga with zsize := b }) k g.team 18 b
        advance (setU s o.d 0))

/-- `winmap.addr` (R388); a team in no gang has no slice size. -/
def execWinmapAddr (o : UOp) (s : State) : Res :=
  .next (uniform s fun s =>
    let g := s.group s.cur
    let a := (s.u o.a).toNat
    let b := (s.u o.b).toNat
    let v := match s.gangOf g.team with
      | none => refuse 0
      | some (k, _) =>
        let ga := s.gangs.getD k {}
        if ga.zsize = 0 ∨ ga.n ≤ a ∨ ga.zsize ≤ b then refuse 0 else BitVec.ofNat 64 (a * ga.zsize + b)
    advance (setU s o.d v))

end Sys2Proof.Machine
end

