-- ==== Sys2Proof/Machine/System.lean ====
section
/-! DEFINITION. System words: control registers (R428 to R435), `rte` (R436), `trap` (R438), `capset` (R439), `seed` (R440),
`cancel` (R444) and `scant` (R445 to R447). -/

namespace Sys2Proof.Machine

/-- The group and record that TRAPGRP of a core selects (R432). -/
def State.selGroup (s : State) (core : Nat) : Option Nat :=
  let c := s.core core
  match c.serves with
  | none => none
  | some t => (s.team t).groups.find? fun g => (s.group g).kgrp == c.trapGrp && !(s.group g).ended

def State.selRecord (s : State) (core : Nat) : Option (Nat × Record) :=
  match s.selGroup core with
  | none => none
  | some g => ((s.group g).records[(s.core core).trapRec]?).map fun r => (g, r)

/-- MXTOL's reset value for a format code (R178). -/
def mxtolReset (c : Nat) : UWord := if 5 ≤ c ∧ c ≤ 7 then 0x1000000 else 0x1000400

/-- MODEb of the 32 banks of a cluster (R219). -/
def State.bankModes (s : State) (cl : Nat) : UWord :=
  BitVec.ofNat 64 (((List.range 32).map fun b => (s.cluster cl).modes.get 0 b * 4 ^ b).sum)

/-- The bound-table entry that BNDIDX selects (R194). -/
def State.bndEntry (s : State) (g : Group) : Bnd := (s.launchOf g).bnd.get {} (g.bndidx.toNat % 64)

/-- QCNT (R27). -/
def Group.qcntWord (g : Group) : UWord := BitVec.ofNat 64 (((List.range 8).map fun n => g.qcnt.get 0 n % 16 * 16 ^ n).sum)

/-- The register that REGSEL names (R433): value, full bit, and BAD, under which value and FE are free. A lane that the group does
not have is BAD too (DEDUCED, log entry 21). -/
def State.regSel (s : State) (core : Nat) : UWord × Bool × Bool :=
  let c := s.core core
  let bad : UWord × Bool × Bool := ((Config.badRegister s.draw).1, (Config.badRegister s.draw).2, true)
  match s.selGroup core with
  | none => bad
  | some gid =>
    let g := s.group gid
    let l := g.lane c.trapLane
    let slot (sl : Slot) : UWord × Bool × Bool := ((l.rd g.depth sl).setWidth 64, !l.isEmpty sl, false)
    if c.regKind < 3 && g.lanes.length ≤ c.trapLane then bad
    else
      match c.regKind with
      | 0 => if c.regNum < 64 then slot (l.slotOf c.regNum) else bad
      | 1 => if l.rb ≤ c.regNum ∧ c.regNum < l.rb + g.depth then slot (.stack c.regNum) else bad
      | 2 => if c.regNum < 8 then (BitVec.ofNat 64 (bit01 (l.pred c.regNum)), true, false) else bad
      | _ => if c.regNum < 32 then (s.uval g c.regNum, true, false) else bad

/-- COREMAP of a physical core (R448): a core of no logical cluster keeps its FAILED bit and the outcome of its last scan. -/
def State.coremap (s : State) (die p c : Nat) : Nat :=
  let d := s.die die
  match d.map.find? fun m => m.2 == some p with
  | some (n, _) =>
    let core := 96 * die + 4 * n + c
    let k := s.core core
    core + die * 2 ^ 9 + p * 2 ^ 11 + c * 2 ^ 16 + 2 ^ 18 + bit01 (d.failedCores.elem (p, c)) * 2 ^ 19 + bit01 k.claimed.isSome * 2 ^ 20 +
      k.next * 2 ^ 21 + bit01 k.mismatch * 2 ^ 26
  | none => die * 2 ^ 9 + p * 2 ^ 11 + c * 2 ^ 16 + bit01 (d.failedCores.elem (p, c)) * 2 ^ 19 + bit01 (d.failedScans.elem (p, c)) * 2 ^ 26

/-- A firmware register of a core or its die (R429, R448, R449). -/
def firmwareReg (s : State) (core num : Nat) : UWord :=
  let c := s.core core
  let d := s.die (dieOf core)
  match num with
  | 0xC00 => BitVec.ofNat 64 (s.coremap (dieOf core) ((d.map.get none (core / 4 % 24)).getD 0) (core % 4))
  | 0xC10 => c.scansig
  | 0xC11 => c.scanexp
  | 0xC20 => BitVec.ofNat 64 (d.boxReq + d.boxArg * 2 ^ 8 + bit01 d.boxBusy * 2 ^ 17)
  | _ => BitVec.ofNat 64 (bit01 c.preemptReq + 2 * bit01 (!s.teams.any fun t => t.core == core && t.st == .resident && !t.isSup))

/-- A control register's value (R429); none for an undefined number (DEDUCED, log entry 20). -/
def csrRead (s : State) (gid num : Nat) : Option UWord :=
  let g := s.group gid
  let c := s.core g.core
  let own := s.served gid
  let tm := s.teamOf g
  match num with
  | 0x001 => some (BitVec.ofNat 64 (cyclesOf g.core s.clock))
  | 0x020 => some g.qcntWord
  | 0x410 => some g.flags
  | 0x411 => some g.cvsub
  | 0x412 => some g.srseed
  | 0x460 => some tm.svcbase
  | 0x461 => some (BitVec.ofNat 64 (tm.svclogn + bit01 tm.svcOn * 16 + tm.svcnext * 2 ^ 16))
  | 0x520 => some g.bndidx
  | 0x521 => some ((s.bndEntry g).lo.setWidth 64)
  | 0x522 => some ((s.bndEntry g).hi.setWidth 64)
  | 0x523 => some (BitVec.ofNat 64 ((s.bndEntry g).action + bit01 (s.bndEntry g).int * 4))
  | 0x800 => some (match s.selRecord g.core with
    | some (_, r) => BitVec.ofNat 64 (r.cause.code + bit01 r.unif * 2 ^ 8 + r.status * 2 ^ 16)
    | none => 0)
  | 0x801 => some (match s.selRecord g.core with
    | some (_, r) => BitVec.ofNat 64 (c.trapPc.toNat / 4 * 4 + bit01 r.ext * 2 ^ 32)
    | none => 0)
  | 0x802 => some (if (s.selRecord g.core).isSome then c.trapLanes else 0)
  | 0x803 => some (match s.selRecord g.core with
    | some (_, r) => r.addrs.get 0 c.trapLane
    | none => 0)
  | 0x804 =>
    let nrec := match s.selGroup g.core with
      | some x => (s.group x).records.length
      | none => 0
    let pg := (((s.team own.1).groups.filter fun x => c.serves.isSome && !(s.group x).records.isEmpty).map fun x => 2 ^ (s.group x).kgrp).sum
    some (BitVec.ofNat 64 (c.trapGrp + c.trapLane * 2 ^ 8 + c.trapRec * 2 ^ 16 + nrec * 2 ^ 24 + pg * 2 ^ 32))
  | 0x805 => some (BitVec.ofNat 64 (c.regNum + c.regKind * 2 ^ 16 + bit01 c.regFe * 2 ^ 24 + bit01 (s.regSel g.core).2.2 * 2 ^ 25))
  | 0x806 => some (s.regSel g.core).1
  | 0x810 => some (s.team own.1).spillbase
  | 0x811 => some (match s.selGroup g.core with
    | some x =>
      let l := (s.group x).lane c.trapLane
      BitVec.ofNat 64 (l.w % 2 ^ 17 + l.rb % 2 ^ 17 * 2 ^ 17 + l.cdep % 2 ^ 16 * 2 ^ 34 + (s.group x).depth * 2 ^ 50)
    | none => 0)
  | 0x820 => some (match c.loggia with
    | some (t, _, tm) => BitVec.ofNat 64 (1 + (if tm.isSome && c.slice != 0 then 2 else 0) + s.lcnt t * 2 ^ 16 + (s.team t).kteam * 2 ^ 32)
    | none => 0)
  | 0x830 => some (BitVec.ofNat 64 c.slice)
  | 0x840 => some (s.bankModes (clusterOf g.core))
  | 0x850 => some (if c.serves.isSome then BitVec.ofNat 64 (s.launch (s.team own.1).launch).e.capt else 0)
  | 0xC00 | 0xC10 | 0xC11 | 0xC20 | 0xC30 => some (firmwareReg s g.core num)
  | n => if 0x500 ≤ n ∧ n ≤ 0x50D then some (g.mxtol.get (mxtolReset (n - 0x500)) (n - 0x500)) else none

/-- A read-only number (R28, R429). -/
def csrReadOnly (num : Nat) : Bool := num < 0x400 || num == 0x850

/-- Numbers that a privilege may not reach (R28). -/
def csrForbidden (p : Priv) (num : Nat) : Bool :=
  match p with
  | .user => 0x800 ≤ num
  | .supervisor => 0xC00 ≤ num

/-- BANKMODE written: a change is requested of every bank whose mode differs, and an earlier request of a bank that now names the mode in effect
is no more; 3 asks nothing of a bank (R219; DESIGN CHOICE, log entry 80). -/
def bankmodeSet (s : State) (cl : Nat) (v : UWord) : State :=
  s.modCluster cl fun c =>
    { c with wanted := (List.range 32).foldl (fun m b =>
        let w := v.toNat / 4 ^ b % 4
        if w = 3 then m else if w = c.modes.get 0 b then AMap.erase m b else AMap.set m b w) c.wanted }

/-- The loaded team of a loggia returns to pending (R435); nothing while a swap is in progress. -/
def evictLoggia (s : State) (core : Nat) : State :=
  match (s.core core).loggia with
  | some (t, _, _) =>
    (s.modTeam t fun tm => { tm with st := (if tm.saved then .swapped else .pending), head := true }).modCore core fun c => { c with loggia := none }
  | none => s

/-- TRAPGRP written: the trap registers reload from the record selected, which counts as entered (R432, R461) (DEDUCED, log entry 25). -/
def trapgrpSet (s : State) (core : Nat) (v : UWord) : State :=
  let s := s.modCore core fun c => { c with trapGrp := fld v 3 0, trapLane := fld v 13 8, trapRec := fld v 21 16 }
  let s := match s.selGroup core with
    | some g => s.modGroup g fun x => { x with records := x.records.modify (s.core core).trapRec fun r => { r with entered := true } }
    | none => s
  loadTrap s core

/-- REGVAL written (R433). -/
def regvalSet (s : State) (core : Nat) (v : UWord) : State :=
  let c := s.core core
  match s.selGroup core with
  | none => s
  | some gid =>
    if (s.regSel core).2.2 then s
    else
      s.modGroup gid fun g =>
        match c.regKind with
        | 0 => g.modLane c.trapLane fun l => l.wrOp g.depth c.regNum false v.toNat
        | 1 => g.modLane c.trapLane fun l => (l.put g.depth (.stack c.regNum) (v.setWidth 32)).fill (.stack c.regNum)
        | 2 => g.modLane c.trapLane fun l => l.setPred c.regNum (v.getLsbD 0)
        | _ => g.setU c.regNum v

/-- A control register is written (R428, R429): its writable fields take the value. -/
def csrWrite (s : State) (gid num : Nat) (v : UWord) : State :=
  let g := s.group gid
  let core := g.core
  let own := s.served gid
  let bnd (f : Bnd → Bnd) : State :=
    s.modLaunch (s.teamOf g).launch fun l => { l with bnd := l.bnd.set (g.bndidx.toNat % 64) (f (s.bndEntry g)) }
  match num with
  | 0x410 => s.modGroup gid fun g => { g with flags := v &&& flagMask }
  | 0x411 => s.modGroup gid fun g => { g with cvsub := v }
  | 0x412 => s.modGroup gid fun g => { g with srseed := v }
  | 0x460 => s.modTeam g.team fun t => if t.mail.isEmpty then { t with svcbase := v &&& ~~~ 0x1FF } else t
  | 0x461 => s.modTeam g.team fun t =>
      { t with svclogn := (if t.mail.isEmpty then fld v 3 0 else t.svclogn), svcen := v.getLsbD 4 }
  | 0x520 => s.modGroup gid fun g => { g with bndidx := v &&& 0x3F }
  | 0x521 => bnd fun b => { b with lo := v.setWidth 32 }
  | 0x522 => bnd fun b => { b with hi := v.setWidth 32 }
  | 0x523 => bnd fun b => { b with action := fld v 1 0, int := v.getLsbD 2 }
  | 0x801 => s.modCore core fun c => { c with trapPc := BitVec.ofNat 32 (fld v 31 2 * 4) }
  | 0x802 => s.modCore core fun c => { c with trapLanes := c.trapLanes &&& v }
  | 0x804 => trapgrpSet s core v
  | 0x805 => s.modCore core fun c => { c with regNum := fld v 15 0, regKind := fld v 17 16 }
  | 0x806 => regvalSet s core v
  | 0x810 => s.modTeam own.1 fun t => { t with spillbase := v &&& 0xFFFFFF80 }
  | 0x811 =>
    match s.selGroup core with
    | some x => s.modGroup x fun g => g.modLane (s.core core).trapLane fun l =>
        { l with w := fld v 16 0, rb := fld v 33 17, cdep := fld v 49 34 }
    | none => s
  | 0x820 => if v.getLsbD 2 then evictLoggia s core else s
  | 0x830 => s.modCore core fun c => { c with slice := fld v 23 0 }
  | 0x840 => bankmodeSet s (clusterOf core) v
  | n =>
    if 0x500 ≤ n ∧ n ≤ 0x50D then s.modGroup gid fun g => { g with mxtol := g.mxtol.set (n - 0x500) (v &&& 0x1FFFFFF) } else s

/-- A word that names a control register: ILLEGAL for an undefined number before anything else, then convergence, then PRIV
(R64, R428). -/
def csrWord (s : State) (o : UOp) (wr : Bool) (k : State → UWord → State) : State :=
  let num := o.imm12
  match csrRead s s.cur num with
  | none => illegalU s
  | some _ =>
    uniform s fun s =>
      if csrForbidden (s.group s.cur).priv num || (wr && csrReadOnly num) then groupTrap s s.cur .priv 0
      else k s ((csrRead s s.cur num).getD 0)

/-- `csrr` (R428); a read of REGVAL updates FE (R433). -/
def execCsrr (o : UOp) (s : State) : Res :=
  .next (csrWord s o false fun s v =>
    let core := (s.group s.cur).core
    let s := if o.imm12 = 0x806 then { s.modCore core fun c => { c with regFe := (s.regSel core).2.1 } with draw := s.draw + 1 } else s
    advance (setU s o.d v))

/-- `csrw` (R428). -/
def execCsrw (o : UOp) (s : State) : Res :=
  .next (csrWord s o true fun s _ => advance (csrWrite s s.cur o.imm12 (s.u o.a)))

/-- `csrw.set` (R428). -/
def execCsrwSet (o : UOp) (s : State) : Res :=
  .next (csrWord s o true fun s v => advance (csrWrite s s.cur o.imm12 (v ||| s.u o.a)))

/-- `csrw.clr` (R428). -/
def execCsrwClr (o : UOp) (s : State) : Res :=
  .next (csrWord s o true fun s v => advance (csrWrite s s.cur o.imm12 (v &&& ~~~ s.u o.a)))

/-- Claims a bank of a cluster for a context (R424). -/
def claimBank (s : State) (cl b ctx : Nat) : State :=
  s.modFifo cl b fun f => if f.claim.isSome then f else { f with claim := some ctx }

/-- Clusters where a team of a launch is placed (R424). -/
def State.launchClusters (s : State) (l : Nat) : List Nat :=
  ((s.teams.filter fun t => t.launch == l && !t.isSup && (t.st == .resident || t.st == .held || t.st == .reserved)).map fun t =>
    clusterOf t.core).eraseDups

/-- `capset` (R439). -/
def execCapset (o : UOp) (s : State) : Res :=
  let n := o.f % 64
  .next (supervisor s fun s =>
    let l := (s.team (s.served s.cur).1).launch
    let old := ((s.launch l).caps.get {} n).lo
    let c := Cap.load (s.u o.a) 0
    let s := s.modLaunch l fun la => { la with caps := la.caps.set n c }
    let s := if c.kind = 6 then
        (s.launchClusters l).foldl (fun s cl => claimBank s cl (c.ep 20 16) (s.launch l).ctx) s
      else s
    advance (setU s o.d old))

/-- `trap` (R438). -/
def execTrap (o : UOp) (s : State) : Res := .next (uniform s fun s => groupTrap s s.cur .trap o.imm12)

/-- The lanes of a mask. -/
def lanesOf (m : UWord) : List Nat := (List.range 64).filter fun i => m.getLsbD i

/-- The trap registers describe the selected record after a resumption (R432): the lanes that have left it leave TRAPLANES; once it is gone, they
are those of the record that now has its index (DEDUCED, log entry 86). -/
def retrap (s : State) (core : Nat) (r : Record) (lanes : List Nat) : State :=
  if r.lanes &&& ~~~ maskOf lanes = 0 then loadTrap s core
  else s.modCore core fun c => { c with trapLanes := c.trapLanes &&& r.lanes &&& ~~~ maskOf lanes }

/-- `rte.replay`, `rte.skip` and `rte.kill` (R436). -/
def rte (s : State) (o : UOp) (act : Nat) : State :=
  supervisor s fun s =>
    let core := (s.group s.cur).core
    let c := s.core core
    match s.selRecord core with
    | some (g, r) =>
      if c.trapLanes = 0 then advance (setU s o.d (refuse 1))
      else
        let lanes := lanesOf (r.lanes &&& c.trapLanes)
        advance (setU (retrap (resume s g c.trapRec act lanes c.trapPc) core r lanes) o.d 0)
    | none => advance (setU s o.d (refuse 1))

def execRteReplay (o : UOp) (s : State) : Res := .next (rte s o 0)
def execRteSkip (o : UOp) (s : State) : Res := .next (rte s o 1)
def execRteKill (o : UOp) (s : State) : Res := .next (rte s o 2)

/-- `rte.end` (R436, R461): the slot takes the served team's next record, the oldest not entered, or is free (DEDUCED, log entry 93). -/
def execRteEnd (o : UOp) (s : State) : Res :=
  .next (supervisor s fun s =>
    let core := (s.group s.cur).core
    let team := (s.core core).serves
    let s := advance (setU s o.d 0)
    let s := (s.modGroup s.cur fun g => { g with resident := false }).modCore core fun c => { c with serves := none }
    match (if team.isSome then s.nextRecord core team else none) with
    | some (g, r) => enterRecord s core g r
    | none => s)

/-- `seed` (R440): the named generator is loaded from SRSEED (R114). -/
def execSeed (o : UOp) (s : State) : Res :=
  .next (uniform s fun s =>
    let g := s.group s.cur
    let cl := clusterOf g.core
    let die := dieOf g.core
    advance (match o.f with
    | 0 => s.modCore g.core fun c => { c with gen := some (genLoad g.srseed s.kdev 0 g.core) }
    | 1 => s.modCluster cl fun c => { c with genX := some (genLoad g.srseed s.kdev 1 cl) }
    | 2 => s.modCluster cl fun c => { c with genD := some (genLoad g.srseed s.kdev 2 cl) }
    | _ => s.modDie die fun d => { d with genC := some (genLoad g.srseed s.kdev 3 die) }))

/-- `cancel` (R444). -/
def execCancel (o : UOp) (s : State) : Res :=
  .next (uniform s fun s =>
    let v := (s.u o.a).toNat
    let c := s.counter v
    let own := v < 65536 && c.ctx == s.ctxOf (s.group s.cur)
    if !own then advance (setU s o.d (refuse 1))
    else
      let st := if c.state ≤ 3 then c.state else 0
      cancel (advance (setU s o.d (BitVec.ofNat 64 st))) v)

/-- A core is a mapped logical core of a die (R445, R497). -/
def State.mappedCore (s : State) (die core : Nat) : Bool :=
  core < 384 && dieOf core == die && ((s.die die).map.get none (core / 4 % 24)).isSome

/-- A scan word: the bits of ka beyond those listed are ILLEGAL (R445). -/
def scanWord (s : State) (o : UOp) (mask : Nat) (k : State → Nat → State) : State :=
  supervisor s fun s =>
    let v := (s.u o.a).toNat
    if v &&& (2 ^ 64 - 1 - mask) ≠ 0 then illegalU s else k s (v % 512)

/-- The issuing core holds the claim on a target. -/
def State.claims (s : State) (t : Nat) : Bool :=
  (s.core t).claimed == some (s.group s.cur).core && t != (s.group s.cur).core && s.mappedCore (dieOf (s.group s.cur).core) t

/-- The cluster of a core is out of placement while the MAILBOX serves a removal of one of its cores (R496, R501), and the core itself while its own
waits for the MAILBOX (R447). -/
def State.beingRemoved (s : State) (core : Nat) : Bool :=
  let d := s.die (dieOf core)
  (d.boxBusy && d.boxReq == 1 && clusterOf d.boxArg == clusterOf core) || d.boxNext.elem core

/-- `scant.start` (R445): code 7 before code 1. A core of a cluster that R496 is removing is refused with code 1
(R501), and so is one whose removal is requested (R447) (DESIGN CHOICE, log entry 85). -/
def execScantStart (o : UOp) (s : State) : Res :=
  .next (scanWord s o 0x1FF fun s t =>
    let me := (s.group s.cur).core
    let c := s.core t
    if t = me || !s.mappedCore (dieOf me) t then advance (setU s o.d (refuse 7))
    else if !(s.coreGroups t).isEmpty || c.loggia.isSome || c.claimed.isSome || s.beingRemoved t then advance (setU s o.d (refuse 1))
    else
      advance (setU (s.modCore t fun c => { c with claimed := some me, next := 0, scansig := 0, mismatch := false }) o.d 0))

/-- Scratch banks that a team needs (R221). -/
def Entry.nbanks (e : Entry) : Nat := (e.scratch + 131071) / 131072

/-- Banks of a cluster in scratch mode. -/
def State.scratchBanks (s : State) (cl : Nat) : List Nat := (List.range 32).filter fun b => (s.cluster cl).modes.get 0 b == 1

/-- Free scratch banks of a cluster (R221). -/
def State.freeBanksOf (s : State) (cl : Nat) : List Nat :=
  (s.scratchBanks cl).filter fun b => (AMap.find (s.cluster cl).owner b).isNone

/-- Groups and registers that a team brings: its groups that have not ended, or those of its entry (R16). -/
def State.needs (s : State) (t : Nat) : Nat × Nat :=
  let tm := s.team t
  let e := (s.launch tm.launch).e
  let n := if tm.saved then (tm.groups.filter fun g => !(s.group g).ended).length else e.ngroups
  (n, n * e.width * (8 + e.depth))

/-- `scant.check` (R445). -/
def execScantCheck (o : UOp) (s : State) : Res :=
  .next (scanWord s o 0x1FF fun s t =>
    if !s.claims t then advance (setU s o.d (refuse 2))
    else if (s.core t).next < 20 then advance (setU s o.d (refuse 5))
    else
      let bad := (s.core t).scansig != (s.core t).scanexp
      advance (setU (s.modCore t fun c => { c with mismatch := bad }) o.d (BitVec.ofNat 64 (bit01 bad))))

/-- A removal request enters the die's MAILBOX (R447, R449). -/
def requestRemoval (s : State) (die core : Nat) : State :=
  s.modDie die fun d =>
    if d.boxBusy then { d with boxNext := d.boxNext ++ [core] } else { d with boxReq := 1, boxArg := core, boxBusy := true }

/-- `scant.end` (R445, R447). -/
def execScantEnd (o : UOp) (s : State) : Res :=
  .next (scanWord s o 0x10001FF fun s t =>
    let rem := (s.u o.a).getLsbD 24
    if !s.claims t then advance (setU s o.d (refuse 2))
    else
      let mis := (s.core t).mismatch
      let s := s.modCore t fun c => { c with claimed := none, next := 0, scansig := 0, chunk := none }
      if rem && !mis then advance (setU s o.d (refuse 6))
      else if rem then advance (setU (requestRemoval s (dieOf t) t) o.d 1)
      else advance (setU s o.d 0))

end Sys2Proof.Machine
end

