-- ==== Sys2Proof/Machine/MatrixOps.lean ====
section
/-! DEFINITION. The words of the matrix engine (spec/07): joining and leaving a convening set (R196), posts (R197), waits
(R204), checks (R205), feeds (R201) and reads (R203). -/

namespace Sys2Proof.Machine

def State.modSet (s : State) (cl k : Nat) (f : MSet → MSet) : State :=
  s.modMx cl fun mx => { mx with sets := mx.sets.set k (f (mx.sets.get {} k)) }
def State.tile (s : State) (cl t : Nat) : Tile := (s.mx cl).tiles.get {} t
def State.modTile (s : State) (cl t : Nat) (f : Tile → Tile) : State :=
  s.modMx cl fun mx => { mx with tiles := mx.tiles.set t (f (mx.tiles.get {} t)) }

/-- The elected member: the lowest number left (R161, R188). -/
def MSet.elected (st : MSet) : Option Nat := st.members.head?.map fun p => p.1

/-- A uniform word that names `qn`, to an engine of a kind (R185, R289): CAP_INVALID unless `chn` binds it. -/
def uQueue (s : State) (n eng : Nat) (k : State → State) : State :=
  uniform s fun s => if (s.cap (s.group s.cur) n).queue eng then k s else groupTrap s s.cur .capInvalid n

/-- The set of a launch with a key that still has members. -/
def findSet (mx : Matrix) (launch : Nat) (key : UWord) : Option Nat :=
  (mx.sets.find? fun p => p.2.launch == launch && p.2.key == key && !p.2.members.isEmpty).map fun p => p.1

/-- Adds the issuing group to a set as its next member (R196). -/
def joinSet (s : State) (cl k : Nat) (d : Nat) : State :=
  let i := (s.mset cl k).joined
  let s := s.modSet cl k fun st => { st with joined := i + 1, members := st.members.set i s.cur }
  let s := s.modGroup s.cur fun g => { g with mset := some (cl, k, i) }
  advance (setU s d (BitVec.ofNat 64 (((s.mset cl k).count - 1) * 8 + i)))

/-- `mmconv.join` (R196). -/
def execMmconvJoin (o : UOp) (s : State) : Res :=
  let n := o.imm12 % 8
  let c := o.imm12 / 8 % 8 + 1
  .next (uQueue s n 2 fun s =>
    let g := s.group s.cur
    let cl := clusterOf g.core
    let l := (s.teamOf g).launch
    let key := s.u o.a
    let no (code : Nat) : State := advance (setU s o.d (refuse code))
    if g.mset.isSome then no 0x20
    else
      match findSet (s.mx cl) l key with
      | some k =>
        let st := s.mset cl k
        if st.count ≠ c then no 0x22
        else if st.joined = c || st.broken then no 0x21
        else if st.queue ≠ n then no 0x26
        else joinSet s cl k o.d
      | none =>
        match (List.range 8).find? fun k => ((s.mx cl).sets.find k).isNone with
        | none => no 0x23
        | some k =>
          joinSet (s.modSet cl k fun _ => { launch := l, key := key, count := c, queue := n }) cl k o.d)

/-- `mmconv.leave` (R196). -/
def execMmconvLeave (o : UOp) (s : State) : Res :=
  .next (uniform s fun s =>
    match (s.group s.cur).mset with
    | none => advance (setU s o.d (refuse 0x24))
    | some _ => advance (setU (leaveSet s s.cur) o.d 0))

/-- The scope that a block's field of three bits at bit `lo` gives to the release of its post (R259): as the block reads at
issue, from device memory. Where the issuing group cannot read it at once, the release has the widest scope, which includes every other (DEDUCED,
log entry 30). -/
def State.blockScope (s : State) (ka lo : Nat) : Nat :=
  let g := s.group s.cur
  match s.trans g.core (s.ctxOf g) (ka + lo / 8) 0 true with
  | (_, .ok (.dpa a) _) =>
    if s.snoopNeeded a false then 7
    else
    let own := s.stores.filter fun st => st.core == g.core && lineOf st.dpa == lineOf a
    let at_ (x : Nat) : Byte := own.foldl (fun b st => (AMap.find st.bytes x).getD b) (s.byte x)
    bytesNat [at_ a, at_ (a + 1)] / 2 ^ (lo % 8) % 8
  | _ => 7

/-- A queue takes no further post now: 15 outstanding (R27), or the entry's allowance (R410). -/
def State.queueFull (s : State) (g : Group) (n : Nat) : Bool :=
  let allow := (s.cap g n).allow
  15 ≤ g.qcnt.get 0 n || (allow != 0 && allow ≤ g.qcnt.get 0 n)

/-- The number by which a `qfence` remembers an operation (R290): of the transfer and collective engines, even; of a matrix
engine, odd. -/
def engCode (id : Nat) : Nat := 2 * id
def mxCode (cl id : Nat) : Nat := 2 * (96 * id + cl) + 1

/-- An operation that a `qfence` remembers has not completed. -/
def State.codePending (s : State) (c : Nat) : Bool :=
  if c % 2 = 0 then s.engOps.any fun o => o.id == c / 2 && o.status == 0
  else (s.mx (c / 2 % 96)).resv.any fun o => o.id == c / 2 / 96

/-- The operations that a new post to queue `n` waits behind (R290). -/
def Group.fenced (g : Group) (n : Nat) : List Nat := (g.fences.filter fun f => tb f.1 n).flatMap fun f => f.2

/-- A matrix post that the group would stall at: each refusal is out of the way, and its count, its entry's allowance or the reservation table is full
(R27, R185, R345). -/
def State.mxStalls (s : State) (gid : Nat) (o : UOp) (n : Nat) (block : Bool) : Bool :=
  let g := s.group gid
  match g.mset with
  | none => false
  | some (cl, k, m) =>
    let st := s.mset cl k
    (s.cap g n).queue 2 && st.elected == some m && st.queue == n && !(block && (s.uval g o.a).toNat % 256 != 0) &&
      (16 ≤ (s.mx cl).resv.length || s.queueFull g n)

/-- A matrix post (R186, R197): the refusals in order; a full QCNT or a full reservation table stalls issue (R27, R185);
else a release (R259), a ticket, and an entry of the reservation table. -/
def mxPost (s : State) (o : UOp) (n : Nat) (block : Bool) (scope : State → Nat) (op : State → MxOp) : State :=
  uQueue s n 2 fun s =>
    let g := s.group s.cur
    let no (code : Nat) : State := advance (setU s o.d (refuse code))
    match g.mset with
    | none => no 0x24
    | some (cl, k, m) =>
      let st := s.mset cl k
      if st.elected ≠ some m then no 0x25
      else if st.queue ≠ n then no 0x26
      else if block && (s.u o.a).toNat % 256 ≠ 0 then no 0x27
      else if 16 ≤ (s.mx cl).resv.length || s.queueFull g n then s
      else
        uRelease s (scope s) fun s =>
          let mx := s.mx cl
          let e : MxOp :=
            { op s with set := k, seq := st.seq, group := s.cur, queue := n, ctx := s.ctxOf g, cvsub := g.cvsub, id := mx.nextId,
                        behind := g.fenced n,
                        doomed := st.broken && (op s).kind == 0 }
          let s := s.modMx cl fun mx => { mx with resv := mx.resv ++ [e], nextId := mx.nextId + 1 }
          let s := s.modSet cl k fun st => { st with seq := (st.seq + 1) % 2 ^ 32 }
          let s := qcntAdd s s.cur n true
          advance (setU s o.d (BitVec.ofNat 64 (st.seq + n * 2 ^ 32)))

/-- A post of a parameter block. A drain's release has the scope of its block; the other posts declare none, and release at dev (R259; DESIGN CHOICE,
log entry 99). -/
def blockPost (s : State) (o : UOp) (kind : Nat) : State :=
  mxPost s o (o.f % 8) true (fun s => if kind = 3 then s.blockScope (s.u o.a).toNat 438 else 4)
    fun s => { set := 0, seq := 0, group := 0, kind := kind, blk := (s.u o.a).toNat }

/-- `mmpost` (R197). -/
def execMmpost (o : UOp) (s : State) : Res := .next (blockPost s o 0)

/-- `mmldb` (R197). -/
def execMmldb (o : UOp) (s : State) : Res := .next (blockPost s o 1)

/-- `mmdrain` (R197). -/
def execMmdrain (o : UOp) (s : State) : Res := .next (blockPost s o 3)

/-- `mmretry` (R197). -/
def execMmretry (o : UOp) (s : State) : Res := .next (blockPost s o 4)

/-- `mmzero` (R197). -/
def execMmzero (o : UOp) (s : State) : Res :=
  .next (mxPost s o (o.imm12 % 8) false (fun _ => 4)
    fun _ => { set := 0, seq := 0, group := 0, kind := 2, tile := o.imm12 / 8 % 4 })

/-- `mchkfix.auto` (R197, R198). -/
def execMchkfixAuto (o : UOp) (s : State) : Res :=
  .next (mxPost s o (o.f % 8) false (fun _ => 4)
    fun s => { set := 0, seq := 0, group := 0, kind := 5, blk := (s.u o.a).toNat, tile := (s.u o.a).toNat % 4 })

/-- `mchkfix.val` (R197, R198). -/
def execMchkfixVal (o : UOp) (s : State) : Res :=
  .next (mxPost s o (o.f % 8) false (fun _ => 4)
    fun s => { set := 0, seq := 0, group := 0, kind := 6, blk := (s.u o.a).toNat, tile := (s.u o.a).toNat % 4,
               val := (s.u o.b).setWidth 32 })

/-- What a ticket of a set stands for (R204): no such post, still in the table, expired, or its record. -/
inductive Ticket where
  | bad | pending | expired
  | done (status kind : Nat) (flags : UWord)
deriving DecidableEq, Repr

def State.mxTicket (s : State) (cl k : Nat) (v : Nat) : Ticket :=
  let st := s.mset cl k
  let seq := v % 2 ^ 32
  if v / 2 ^ 32 % 8 ≠ st.queue ∨ v / 2 ^ 35 ≠ 0 ∨ (seq + 2 ^ 32 - st.seq) % 2 ^ 32 < 2 ^ 31 then .bad
  else if (s.mx cl).resv.any fun o => o.set == k && o.seq == seq then .pending
  else
    match st.done.find? fun d => d.1 == seq with
    | some (_, status, kind, flags) => .done status kind flags
    | none => .expired

/-- The trap that a status raises at the wait which writes it (R204); the other flags of a drain commit. -/
def mxStatusTrap (status kind : Nat) : Option Cause :=
  if 2 ≤ kind then (if status = 8 then some .bound else if status = 7 then some .mxCheck else if status = 11 then some .engine else none)
  else if status = 11 then some .engine else none

/-- `mmwait` and `mmwait.test` (R204, R246): a completed status acquires every object, for a drain at its DSCOPE, for another operation that
did not fault at the widest scope (DEDUCED, log entry 75). -/
def mxWait (s : State) (o : UOp) (test : Bool) : State :=
  uniform s fun s =>
    match (s.group s.cur).mset with
    | none => groupTrap s s.cur .capInvalid 0
    | some (cl, k, _) =>
      match s.mxTicket cl k (s.u o.a).toNat with
      | .bad => advance (setU s o.d 0xFE)
      | .expired => advance (setU s o.d 0xFF)
      | .pending => if test then advance (setU s o.d 0) else holdGroup s (.mticket (s.u o.a).toNat)
      | .done status kind flags =>
        let s := setU s o.d (BitVec.ofNat 64 status)
        let s := if 2 ≤ kind then (uAcquire s (kind - 2) .all).modGroup s.cur fun g => { g with flags := g.flags ||| flags }
          else if status = 11 then s else uAcquire s 7 .all
        match mxStatusTrap status kind with
        | some c => groupTrap s s.cur c 0 status
        | none => advance s

/-- `mmwait` (R204). -/
def execMmwait (o : UOp) (s : State) : Res := .next (mxWait s o false)

/-- `mmwait.test` (R204). -/
def execMmwaitTest (o : UOp) (s : State) : Res := .next (mxWait s o true)

/-- What `mchkloc` reads (R205). -/
def State.chkLoc (s : State) (cl k t form : Nat) : UWord :=
  let ti := s.tile cl t
  if ti.owner ≠ some k then refuse 0x14
  else
    match ti.loc with
    | some (i, j, v, delta) =>
      if ti.st ≠ .held ∨ ti.outcome ≠ 4 then refuse 0x15
      else
        match form with
        | 0 => BitVec.ofNat 64 (i + j * 2 ^ 8 + ti.outcome * 2 ^ 24)
        | 1 => (ti.el.get 0 (512 * i + j)).setWidth 64
        | 2 => v.setWidth 64
        | _ =>
          if ti.isInt then
            match delta with
            | .fin n m e => BitVec.ofNat 64 (wrap 64 (sx 32 (wrap 32 (dyInt n m e 0))))
            | _ => 0
          else BitVec.ofNat 64 (rne fmtF64 delta).1
    | none => refuse 0x15

/-- `mchkloc` (R205): after every operation that its set posted before it. -/
def execMchkloc (o : UOp) (s : State) : Res :=
  .next (uniform s fun s =>
    match (s.group s.cur).mset with
    | none => groupTrap s s.cur .capInvalid 0
    | some (cl, k, _) =>
      let a := (s.u o.a).toNat
      if 4 ≤ a then advance (setU s o.d 0xFE)
      else
        let bound := ((s.group s.cur).mwait).getD (s.mx cl).nextId
        if (s.mx cl).resv.any fun e => e.set == k && e.id < bound then
          holdGroup (s.modGroup s.cur fun g => { g with mwait := some bound }) .matrix
        else advance (setU (s.modGroup s.cur fun g => { g with mwait := none }) o.d (s.chkLoc cl k a (o.f % 4))))

/-- Fields of a block's words (R189): bits `hi` down to `lo` of the 2,048. -/
def blkFld (words : List UWord) (hi lo : Nat) : Nat :=
  (bytesNat ((words.map fun w => natBytes 8 w.toNat).flatten)) / 2 ^ lo % 2 ^ (hi + 1 - lo)

def MxOp.m (o : MxOp) : Nat := blkFld o.words 16 8
def MxOp.k (o : MxOp) : Nat := blkFld o.words 26 17
def MxOp.afmt (o : MxOp) : Nat := blkFld o.words 35 32
def MxOp.absz (o : MxOp) : Nat := blkFld o.words 37 36
/-- The first tile row of a pass (R197). -/
def MxOp.row0 (o : MxOp) : Nat := blkFld o.words 7 2 * 4

/-- An MX format code (R55). -/
def isMx (c : Nat) : Bool := 8 ≤ c && c ≤ 13
/-- An integer format code of the matrix engine (R167). -/
def isIntFmt (c : Nat) : Bool := 5 ≤ c && c ≤ 7
/-- The K-groups that member `j` of `c` supplies (R201). -/
def memberGroups (k c j : Nat) : List Nat := (List.range (k / 16)).filter fun g => g % c == j

/-- A pass that has neither streamed in full nor ended. -/
def MxOp.unstreamed (o : MxOp) : Bool := o.kind == 0 && !o.doomed && (!o.accepted || o.streamed * 4 < o.m)

/-- Slots of the bow that a pass takes (R156): an f32 pass both. -/
def MxOp.slots (o : MxOp) : Nat := if o.afmt = 0 then 2 else 1

/-- A pass that has a bow slot (R351). -/
def MxOp.inBow (o : MxOp) : Bool := o.bow && o.unstreamed && o.closing.isNone

/-- The earliest accepted pass that may take a bow slot now: the earliest pass of its set not yet streamed, where enough slots are free (R162, R351;
DEDUCED, log entry 32). -/
def Matrix.nextBow (mx : Matrix) : Option MxOp :=
  let free := 2 - ((mx.resv.filter MxOp.inBow).map MxOp.slots).sum
  (mx.resv.filter fun o => o.accepted && !o.bow && o.unstreamed && o.closing.isNone && o.slots ≤ free &&
      !(mx.resv.any fun x => x.set == o.set && x.id < o.id && x.unstreamed)).foldl (fun acc o => match acc with
    | some x => if o.born < x.born then some o else some x
    | none => some o) none

/-- Gives free bow slots to the passes that are due one; no pass loses its slot (R351). -/
def Matrix.giveBow (mx : Matrix) : Matrix :=
  let give (mx : Matrix) : Matrix := match mx.nextBow with
    | some o => { mx with resv := mx.resv.map fun x => if x.id = o.id then { x with bow := true } else x }
    | none => mx
  give (give mx)

/-- What the tag of a feed names (R201). -/
inductive FeedAt where
  | bound
  | wait (seq : Nat)
  | pass (o : MxOp)
deriving DecidableEq, Repr

def feedAt (mx : Matrix) (k : Nat) (tag : Nat) : FeedAt :=
  let st := mx.sets.get {} k
  let mine := mx.resv.filter fun o => o.set == k
  let s0 := match mine.find? MxOp.unstreamed with
    | some o => o.seq
    | none => st.seq
  let d := (tag + 256 - s0 % 256) % 256
  if 128 ≤ d then .bound
  else
    let t := (s0 + d) % 2 ^ 32
    if (t + 2 ^ 32 - st.seq) % 2 ^ 32 < 2 ^ 31 then .wait t
    else
      match mine.find? fun o => o.seq == t with
      | some o =>
        if o.kind ≠ 0 then .bound
        else if o.accepted && o.inBow then .pass o
        else .wait t
      | none =>
        match st.done.find? fun x => x.1 == t with
        | some (_, _, kind, _) => if kind = 0 then .wait t else .bound
        | none => .bound

/-- Bytes [a, a + n) stay in one 4 KiB page. -/
def inPage (a n : Nat) : Bool := n = 0 || a / 4096 == (a + n - 1) / 4096

/-- A feed's ranges in order: each translates for a read, and the group's earlier writes to them are performed (R201) (DEDUCED, log entry 61). -/
def feedRange (s : State) (g : Group) (va n : Nat) (failed : Bool) : State × Trans :=
  if n = 0 then (s, .ok (.dpa 0) false)
  else
    match s.trans g.core (s.ctxOf g) va 0 failed with
    | (s, .ok t tso) =>
      let s := flushOverlap s g.core t n
      match t with
      | .dpa a =>
        let mine (st : Store) : Bool := st.core == g.core && overlaps (lineOf st.dpa) 128 a n
        let s := performStores s.stores.length s mine
        match s.stores.find? mine, s.redStands g.core t n with
        | some st, _ => (sendSnoop s st.dpa, .hold (.snoop (lineOf st.dpa)))
        | none, some l => (s, .hold (.snoop l))
        | none, none => (s, .ok t tso)
      | .peer d _ =>
        if (s.peerCap (s.teamOf g).launch d true false).isNone then (s, .trap .capInvalid)
        else (drainWcb s g.core fun w => w.tgt.sameSpace t && overlaps w.tgt.pos 128 t.pos n, .ok t tso)
      | _ => (drainWcb s g.core fun w => w.tgt.sameSpace t && overlaps w.tgt.pos 128 t.pos n, .ok t tso)
    | r => r

/-- `mmfeed` (R200, R201) (DEDUCED, log entry 33). -/
def execMmfeed (o : LaneOp) (s : State) : Res :=
  let op := s.stamp
  .next (within64 s fun s => runLanesM s.tick 4 fun s g i l =>
    if !l.guard o then (s, { lane := l })
    else
      gatedM s (l.gaps i o.a true ++ l.gaps i o.d true ++ l.gaps i o.b false) l fun _ =>
        match g.mset with
        | none => (s, { lane := l, out := .trap .capInvalid 0 })
        | some (cl, k, m) =>
          let tag := l.rdOp g.depth o.b false
          let va := l.rdOp g.depth o.a true
          let vs := l.rdOp g.depth o.d true
          if 65536 ≤ tag then (s, { lane := l, out := .trap .bound 0 })
          else
            match feedAt (s.mx cl) k (tag / 256) with
            | .bound => (s, { lane := l, out := .trap .bound 0 })
            | .wait t => (s, { lane := l, out := .block (.feed t (tag % 256)) })
            | .pass p =>
              let op := l.op.getD op
              let wait (w : Why) : LaneRes := { lane := l, out := .block w, op := some op }
              let gj := (memberGroups p.k (s.mset cl k).count m).length
              let na := 2 * gj * fmtBits p.afmt
              let ns := if isMx p.afmt then gj else 0
              if p.m ≤ tag % 256 then (s, { lane := l, out := .trap .bound 0 })
              else if va % 4 ≠ 0 || !inPage va na then (s, { lane := l, out := .trap .align va })
              else if !inPage vs ns then (s, { lane := l, out := .trap .align vs })
              else
                match feedRange s g va na l.failed.isSome with
                | (s, .trap c) => (s, { lane := l, out := .trap c va })
                | (s, .wait c v) => (s, wait (.page c v))
                | (s, .hold w) => (s, wait w)
                | (s, .ok t _) =>
                  match feedRange s g vs ns l.failed.isSome with
                  | (s, .trap c) => (s, { lane := l, out := .trap c vs })
                  | (s, .wait c v) => (s, wait (.page c v))
                  | (s, .hold w) => (s, wait w)
                  | (s, .ok u _) =>
                    (s.tick.modMx cl fun mx => { mx with fetches := mx.fetches ++
                      [{ set := k, seq := p.seq, row := tag % 256, member := m, group := s.cur, ctx := s.ctxOf g, va := va, vs := vs,
                         nbytes := na, nscales := ns, tgt := t, stgt := u, op := op, no := s.stamp }] }, { lane := l }))

/-- `mmreads` whose earlier operations of the set and tile have ended land with the element's value (R203). -/
def settleReads (s : State) (cl : Nat) : State :=
  let mx := s.mx cl
  let ready (r : Nat × Nat × Nat × Nat × Dst) : Bool :=
    !(mx.resv.any fun o => o.set == r.1 && o.id < r.2.1 && (!o.accepted || (o.kind != 1 && o.tile == r.2.2.1)))
  let lands := (mx.reads.filter ready).map fun r : Nat × Nat × Nat × Nat × Dst =>
    ({ dst := r.2.2.2.2, val := ((mx.tiles.get {} r.2.2.1).el.get 0 r.2.2.2.1).setWidth 64, counted := false } : Landing)
  { s.modMx cl (fun mx => { mx with reads := mx.reads.filter fun r => !ready r }) with landing := s.landing ++ lands }

/-- `mmread` (R203). -/
def execMmread (o : LaneOp) (s : State) : Res :=
  let cl := clusterOf (s.group s.cur).core
  .next (settleReads (runLanesM s 4 fun s g i l =>
    if !l.guard o then (s, { lane := l })
    else
      gatedM s (l.gaps i o.a false ++ l.gaps i o.d false) l fun _ =>
        match g.mset with
        | none => (s, { lane := l, out := .trap .capInvalid 0 })
        | some (cl, k, _) =>
          let a := l.rdOp g.depth o.a false
          let t := a / 2 ^ 28 % 4
          if a / 2 ^ 9 % 2 ^ 7 ≠ 0 || a / 2 ^ 24 % 16 ≠ 0 || 2 ^ 30 ≤ a || (s.tile cl t).owner ≠ some k then
            (s, { lane := l, out := .trap .bound 0 })
          else
            let e := 512 * (a / 2 ^ 16 % 256) + a % 512
            let d : Dst := { group := s.cur, lane := i, slot := l.slotOf o.d, pair := false }
            (s.modMx cl fun mx => { mx with reads := mx.reads ++ [(k, mx.nextId, t, e, d)] }, { lane := l.mark o.d false })) cl)

end Sys2Proof.Machine
end

