-- ==== Sys2Proof/Machine/EngineOps.lean ====
section
/-! DEFINITION. Posts to the transfer and collective engines (R289), `qfence` (R290) and `qwait` (R291). -/

namespace Sys2Proof.Machine

/-- A post to a transfer or collective engine that the group would stall at (R27, R345). -/
def State.engStalls (s : State) (gid : Nat) (o : UOp) (kind : Nat) : Bool :=
  let g := s.group gid
  let n := o.f % 8
  (s.cap g n).queue kind && (s.uval g o.a).toNat % 128 == 0 && s.queueFull g n

/-- A post to a transfer or collective engine (R289). -/
def engPost (s : State) (o : UOp) (kind scopeBit : Nat) (idx : State → Option UWord) : State :=
  let n := o.f % 8
  uQueue s n kind fun s =>
    let g := s.group s.cur
    let ka := (s.u o.a).toNat
    if ka % 128 ≠ 0 then advance (setU s o.d (refuse 0x27))
    else if s.queueFull g n then s
    else
      let scope := s.blockScope ka scopeBit
      uRelease s scope fun s =>
        let seq := g.qseq.get 0 n
        let e : EngOp :=
          { id := s.nextOp, kind := kind, group := s.cur, launch := (s.teamOf g).launch, ctx := s.ctxOf g, core := g.core, queue := n,
            qn := (s.cap g n).ep 20 18, seq := seq, blk := ka, idx := idx s, cvsub := g.cvsub, behind := g.fenced n }
        let s := { s with engOps := s.engOps ++ [e], nextOp := s.nextOp + 1 }
        let s := (qcntAdd s s.cur n true).modGroup s.cur fun g => { g with qseq := g.qseq.set n ((seq + 1) % 2 ^ 32) }
        advance (setU s o.d (BitVec.ofNat 64 (seq + n * 2 ^ 32)))

/-- `xpost` (R289). -/
def execXpost (o : UOp) (s : State) : Res := .next (engPost s o 0 10 fun _ => none)

/-- `xgath` (R289): IDX is kb. -/
def execXgath (o : UOp) (s : State) : Res := .next (engPost s o 0 10 fun s => some (s.u o.b))

/-- `cpost` (R289). -/
def execCpost (o : UOp) (s : State) : Res := .next (engPost s o 1 29 fun _ => none)

/-- The group's operations that have not completed on the queues of a mask. -/
def State.postedTo (s : State) (gid mask : Nat) : List Nat :=
  ((s.engOps.filter fun o => o.group == gid && o.status == 0 && tb mask o.queue).map fun o => engCode o.id) ++
  s.clusters.flatMap fun c => (c.2.mx.resv.filter fun o => o.group == gid && tb mask o.queue).map fun o => mxCode c.1 o.id

/-- `qfence` (R290): an unbound queue of the mask raises CAP_INVALID. -/
def execQfence (o : UOp) (s : State) : Res :=
  let mask := o.imm12 % 256
  .next (uniform s fun s =>
    let g := s.group s.cur
    let bound (n : Nat) : Bool := let c := s.cap g n; c.kind == 1 && c.send
    match (List.range 8).find? fun n => tb mask n && !bound n with
    | some n => groupTrap s s.cur .capInvalid n
    | none =>
      let ops := s.postedTo s.cur mask
      advance (s.modGroup s.cur fun g =>
        { g with fences := (g.fences.filter fun f => f.2.any fun c => s.codePending c) ++ (if ops.isEmpty then [] else [(mask, ops)]) }))

/-- What a ticket of a group stands for on a transfer or collective queue (R291); the record carries the scope. -/
def State.engTicket (s : State) (gid v : Nat) : Ticket :=
  let g := s.group gid
  let n := v / 2 ^ 32 % 8
  let seq := v % 2 ^ 32
  let c := s.cap g n
  if !(c.kind == 1 && c.send) || v / 2 ^ 35 ≠ 0 || (seq + 2 ^ 32 - g.qseq.get 0 n) % 2 ^ 32 < 2 ^ 31 then .bad
  else
    match s.engOps.find? fun o => o.group == gid && o.queue == n && o.seq == seq with
    | some o => if o.status = 0 then .pending else .done o.status o.scope o.flags
    | none => .expired

/-- The trap that an engine status raises at its wait (R291). -/
def engStatusTrap (status : Nat) : Option Cause :=
  if status = 11 then some .engine else if status = 10 then some .poison else if status = 8 then some .bound else none

/-- `qwait` and `qwait.test` (R291). A value whose queue field names a matrix queue raises CAP_INVALID whatever its other bits; an operation whose block
the engine never read is waited for with an acquire at grp (DESIGN CHOICE, log entry 101). -/
def engWait (s : State) (o : UOp) (test : Bool) : State :=
  uniform s fun s =>
    let v := (s.u o.a).toNat
    let n := v / 2 ^ 32 % 8
    if (s.cap (s.group s.cur) n).queue 2 then groupTrap s s.cur .capInvalid n
    else
      match s.engTicket s.cur v with
      | .bad => advance (setU s o.d 0xFE)
      | .expired => advance (setU s o.d 0xFF)
      | .pending => if test then advance (setU s o.d 0) else holdGroup s (.ticket v)
      | .done status scope flags =>
        let s := setU s o.d (BitVec.ofNat 64 status)
        let s := (uAcquire s scope .all).modGroup s.cur fun g => { g with flags := g.flags ||| flags }
        match engStatusTrap status with
        | some c => groupTrap s s.cur c 0 status
        | none => advance s

/-- `qwait` (R291). -/
def execQwait (o : UOp) (s : State) : Res := .next (engWait s o false)

/-- `qwait.test` (R291). -/
def execQwaitTest (o : UOp) (s : State) : Res := .next (engWait s o true)

end Sys2Proof.Machine
end

