-- ==== Sys2Proof/Machine/Issue.lean ====
section
/-! DEFINITION. Fetching and issuing: the fetch of a word (R33, R34), the waits of lanes and groups that end (R344, R347), the
issue composer of a cycle (R345 to R347), and the order of a step's choices (DESIGN CHOICE, log entries 1 and 2). -/

namespace Sys2Proof.Machine

/-- The outcome of a fetch of one word. -/
inductive Fetched where
  | word (w : Nat)
  | wait (w : Why)
  | trap (c : Cause) (addr : Nat)
  | stall
deriving DecidableEq, Repr

/-- The access of a code fetch (R411, R460): through the core's L1. -/
def State.codeAcc (s : State) (gid va : Nat) (failed : Bool) : GlobAcc :=
  { gid := gid, ctx := s.ctxOf (s.group gid), va := va, n := 4, kind := 0, failed := failed, op := s.stamp }

/-- Fetches the word at a virtual address for a group (R34, R416). A page of another device holds no code (DEDUCED, log entry 12). -/
def fetchWord (s : State) (gid va : Nat) (failed : Bool) : State × Fetched :=
  let g := s.group gid
  match s.trans g.core (s.ctxOf g) va 3 failed with
  | (s, .trap c) => (s, .trap c va)
  | (s, .wait c v) => (s, .wait (.page c v))
  | (s, .hold w) => (s, .wait w)
  | (s, .ok t _) =>
    match t with
    | .dpa a =>
      match dpaAccess s (s.codeAcc gid va failed) a false with
      | (s, .val v) => (s, .word v)
      | (s, .trap c x) => (s, .trap c x)
      | (s, .wait w) => (s, .wait w)
      | (s, _) => (s, .stall)
    | .host a =>
      match s.farLine (.code gid) t with
      | .have_ b => (s, .word (bytesNat ((b.drop (a % 128)).take 4)))
      | .bad c => (dropAnswers s (.code gid), .trap (classCause c) va)
      | .none => (askHost s (.code gid) g.core gid (lineOf a) false, .wait (.answer (.code gid)))
    | _ => (s, .trap .perm va)

/-- The lines of host memory that a group's instruction was read from are used (R323). -/
def usedCode (s : State) (gid : Nat) (vas : List Nat) : State :=
  if s.answers.isEmpty then s
  else
    let g := s.group gid
    let lines := vas.filterMap fun va => match (s.trans g.core (s.ctxOf g) va 3 true).2 with
      | .ok t _ => some t.line
      | _ => none
    { s with answers := s.answers.filter fun a => !(a.who == .code gid && lines.elem a.tgt) }

/-- The virtual address of a PC. -/
def State.codeVa (s : State) (gid : Nat) (pc : Word) : Nat := (s.kcode (s.group gid) + pc.toNat) % 2 ^ 64

/-- The word at a group's PC as a fetch would find it now, for the composer's choice. -/
def State.peek (s : State) (gid : Nat) (pc : Word) : Option Nat :=
  match (fetchWord s gid (s.codeVa gid pc) true).2 with
  | .word w => some w
  | _ => none

/-- Words that count among the 64 outstanding operations of a group (R303). -/
def Instr.counted (i : Instr) : Bool :=
  match i with
  | .ld _ | .st _ | .atom _ | .red _ | .cas _ | .pref _ | .ldtag _ | .cbget _ | .cbput _ | .mmfeed _ => true
  | .kld _ | .kst _ | .kldc _ => true
  | _ => false

/-- The limit of 64 outstanding operations holds the word at a PC back: no run of its group issues (R21; DEDUCED, log entry 66). A run that goes on
with an issue that counts already is not a 65th. -/
def State.heldBack (s : State) (gid : Nat) (pc : Word) (w : Nat) : Bool :=
  let long := w < 2 ^ 31 && bitAt w 1
  64 ≤ s.outstanding gid && !(s.group gid).goesOn pc &&
    match decode w (if long then (s.peek gid (pc + 4)).getD (2 ^ 31) else 0) with
    | .ok i _ => Instr.counted i
    | .bad _ => false

/-- A post that a full count or a full reservation table stalls (R27, R185, R345). -/
def State.postStalls (s : State) (gid : Nat) (i : Instr) : Bool :=
  match i with
  | .xpost o | .xgath o => s.engStalls gid o 0
  | .cpost o => s.engStalls gid o 1
  | .mmpost o | .mmldb o | .mmdrain o | .mmretry o => s.mxStalls gid o (o.f % 8) true
  | .mmzero o => s.mxStalls gid o (o.imm12 % 8) false
  | .mchkfixAuto o | .mchkfixVal o => s.mxStalls gid o (o.f % 8) false
  | _ => false

/-- A uniform word that some rule holds back (R347). -/
def State.uHeld (s : State) (gid : Nat) (pc : Word) (w : Nat) : Bool :=
  s.heldBack gid pc w ||
    match decode w 0 with
    | .ok i _ => s.postStalls gid i
    | .bad _ => false

/-- Distinct PCs of a group's active lanes, ascending. -/
def Group.pcs (g : Group) : List Word :=
  let all := ((g.lanesWith Lane.isActive).map fun i => (g.lane i).pc).eraseDups
  all.foldl (fun acc p => acc.filter (fun x => x.toNat < p.toNat) ++ [p] ++ acc.filter (fun x => p.toNat < x.toNat)) []

/-- Octets that hold the lanes of a run (R345). -/
def Group.octets (g : Group) (pc : Word) : List Nat := ((g.run pc).map fun i => g.octet + i / 8).eraseDups

/-- A group may issue: it runs, no uniform word holds it and no group record stands (R347, R456). -/
def State.mayIssue (s : State) (g : Group) : Bool :=
  s.runs g && g.hold == .none && !(g.records.any fun r => r.unif)

/-- A candidate of one cycle (R345, R347): its group, its PCs that hold issuable lane runs in ascending order with the overdue
one first, whether its lowest PC stands at a uniform word that may issue, and whether that word raises UNIFORM_DIVERGED, which takes
no slot. -/
structure Cand where
  gid : Nat
  slot : Nat
  age : Nat
  ageU : Nat
  pcs : List Word
  uni : Option Word
  div : Option Word := none

/-- The candidate that a group makes (DEDUCED, log entry 15). -/
def State.cand (s : State) (gid : Nat) : Cand :=
  let g := s.group gid
  let base : Cand := { gid := gid, slot := g.slot, age := g.age, ageU := g.ageU, pcs := [], uni := none }
  if !s.mayIssue g then base
  else
    let ps := g.pcs
    let kind (p : Word) : Option Nat := s.peek gid p
    let lane (p : Word) : Bool := match kind p with
      | some w => w < 2 ^ 31 && !s.heldBack gid p w
      | none => true
    let full := ps.any fun p => (kind p).any fun w => s.heldBack gid p w
    let ls := if full then [] else ps.filter lane
    let late := ls.filter fun p => (g.run p).any fun i => 1024 ≤ (g.lane i).waited
    let (uni, div) : Option Word × Option Word := match ps with
      | p :: _ =>
        match kind p with
        | some w =>
          if w < 2 ^ 31 then (none, none)
          else if g.live.all fun i => (g.lane i).isActive && (g.lane i).pc == p then (if s.uHeld gid p w then none else some p, none)
          else (none, if g.lanes.any Lane.isBlocked then none else some p)
        | none => (none, none)
      | [] => (none, none)
    { base with uni := uni, div := div,
                pcs := if div.isSome then [] else match late with
                  | p :: _ => p :: ls.filter (fun x => x != p)
                  | [] => ls }

/-- Oldest first; ties go to the lower group slot (R345). -/
def byAge (key : Cand → Nat) (l : List Cand) : List Cand :=
  l.foldl (fun acc c => acc.filter (fun x => key c < key x || (key x == key c && x.slot < c.slot)) ++ [c] ++
    acc.filter (fun x => !(key c < key x || (key x == key c && x.slot < c.slot)))) []

/-- Groups that fuse with a run (R345): the first run of each other candidate at the same PC of the same code object whose
octets are free. -/
def fuse (s : State) (cs : List Cand) (gid : Nat) (pc : Word) (taken : List Nat) (busy : List Nat) : List Issue × List Nat × List Nat :=
  cs.foldl (fun acc c =>
    let oct := (s.group c.gid).octets pc
    if !acc.2.2.elem c.gid && c.pcs.head? == some pc && s.kcode (s.group c.gid) == s.kcode (s.group gid) &&
        !(oct.any acc.2.1.elem) then
      (acc.1 ++ [{ group := c.gid, pc := pc, fused := true }], acc.2.1 ++ oct, acc.2.2 ++ [c.gid])
    else acc) ([], taken, busy)

/-- The runs that ports A and B issue in a cycle of one core (R345). -/
def ports (s : State) (cands : List Cand) : List Issue :=
  let cs := byAge Cand.age (cands.filter fun c => !c.pcs.isEmpty)
  match cs with
  | [] => []
  | a :: _ =>
    match a.pcs with
    | [] => []
    | pa :: more =>
      let octA := (s.group a.gid).octets pa
      let fa := fuse s cs a.gid pa octA [a.gid]
      let issuing := fa.2.2
      let options : List (Nat × Word) :=
        ((more.filter fun p => pa.toNat < p.toNat).take 1).map (fun p => (a.gid, p)) ++
        (cs.filter fun c => !issuing.elem c.gid).filterMap fun c => c.pcs.head?.map fun p => (c.gid, p)
      match options.find? fun x => !(((s.group x.1).octets x.2).any fa.2.1.elem) with
      | none => { group := a.gid, pc := pa } :: fa.1
      | some (gb, pb) =>
        let old := if gb = a.gid then some (s.group gb).lanes else none
        let fb := fuse s cs gb pb (fa.2.1 ++ (s.group gb).octets pb) (issuing ++ [gb])
        { group := a.gid, pc := pa } :: fa.1 ++ ({ group := gb, pc := pb, old := old } :: fb.1)

/-- The uniform word that a core issues in a cycle (R347). -/
def uniformSlot (cands : List Cand) : List Issue :=
  match byAge Cand.ageU (cands.filter fun c => c.uni.isSome) with
  | c :: _ =>
    match c.uni with
    | some p => [{ group := c.gid, pc := p }]
    | none => []
  | [] => []

/-- Ages and overdue counts after a cycle's choice (R345, R347). -/
def ageGroup (cands : List Cand) (lane uni : List Issue) (gid : Nat) (g : Group) : Group :=
  let c := cands.find? fun c => c.gid == gid
  let isL := c.any fun c => !c.pcs.isEmpty
  let isU := c.any fun c => c.uni.isSome
  let mine := (lane ++ uni).filter fun i => i.group == gid
  let g := { g with age := if isL && mine.isEmpty then g.age + 1 else 0, ageU := if isU && mine.isEmpty then g.ageU + 1 else 0 }
  if mine.isEmpty then g
  else { g with lanes := g.lanes.map fun l =>
    if l.isActive && !(mine.any fun i => i.pc == l.pc) then { l with waited := l.waited + mine.length } else l }

/-- What a blocked lane awaits has come (R344). What another lane of the run awaits is judged at that lane. -/
def State.wakes (s : State) (gid i : Nat) (w : Why) : Bool :=
  let g := s.group gid
  let l := g.lane i
  match w with
  | .regs rs => rs.all fun r => !((g.lane r.1).isEmpty r.2) || (g.lane r.1).isExited
  | .pulls p => (l.pulls.get [] p).length < 4
  | .room pg pl q =>
    let p := (s.group pg).lane pl
    0 < s.roomAt pg pl q || p.isExited || (s.group pg).ended ||
      (s.team (s.group pg).team).departed
  | .filled cl b => 0 < (s.fifo cl b).filled
  | .free cl b => 0 < (s.fifo cl b).free
  | .mail ch => !s.mailFull gid ch
  | .feed seq _ =>
    match g.mset with
    | none => true
    | some (cl, k, _) => match feedAt (s.mx cl) k (seq % 256) with
      | .wait _ => false
      | _ => true
  | .parkedGang =>
    match s.gangOf g.team with
    | some (k, _) => !(s.gangs.getD k {}).parked
    | none => true
  | .page c v => !(s.pageReqs.any fun r => r.ctx == c && r.vpn == v) &&
      (!s.priOn c || s.pageReqs.length < s.prAlloc.getD 0 || l.failed.isSome)
  | .acks => s.quiet g.core
  | .snoop x => !s.snoopNeeded x true
  | .answer r => !(s.hostReqs.any fun q => q.who == some r) && !(s.fabReqs.any fun q => q.who == some r)
  | .tso g lane => !s.tsoBusy g lane
  | .flush t => !s.flushing g.core t
  | .missRoom core => (tlbPlaces core).all fun p => 0 < s.missFree p
  | .walker d c v => (s.missAt { level := 2, idx := d } c v).isNone || s.mayWalk d c v
  | .mate j => !(g.lane j).isBlocked
  | .pushing => false
  | .remote => false

/-- The lane leaves its wait in this cycle (R344), with its mates (R278). -/
def State.leaves (s : State) (gid i : Nat) : Bool :=
  let g := s.group gid
  let at_ (i : Nat) : Bool := match (g.lane i).st with
    | .blocked w => s.wakes gid i w
    | _ => false
  match (g.lane i).st with
  | .blocked (.mate j) => at_ j || !(g.lane j).isBlocked
  | _ => at_ i

/-- What holds a group has come (R347). -/
def State.holdEnds (s : State) (gid : Nat) (h : Hold) : Bool :=
  let g := s.group gid
  match h with
  | .none => false
  | .ticket v => match s.engTicket gid v with
    | .pending => false
    | _ => true
  | .mticket v =>
    match g.mset with
    | none => true
    | some (cl, k, _) => match s.mxTicket cl k v with
      | .pending => false
      | _ => true
  | .bar =>
    match g.barAt with
    | some (b, gen) => gen < ((s.teamOf g).bars.get (0, []) b).1
    | none => true
  | .sync =>
    match g.syncAt, s.gangOf g.team with
    | some n, some (k, _) => n ≤ (s.gangs.getD k {}).syncDone
    | _, _ => true
  | .gang =>
    match s.gangOf g.team with
    | some (k, _) => (s.gangs.getD k {}).formed || (s.gangs.getD k {}).depEarly || s.gangFormed k
    | none => true
  | .matrix =>
    match g.mset with
    | none => true
    | some (cl, k, _) => !((s.mx cl).resv.any fun e => e.set == k && e.id < g.mwait.getD 0)
  | .wait w => s.wakes gid 0 w
  | .yield _ => false
  | .scan _ => false
  | .page c v => !(s.pageReqs.any fun r => r.ctx == c && r.vpn == v) &&
      (!s.priOn c || s.pageReqs.length < s.prAlloc.getD 0 || g.failed.isSome)
  | .load => false
  | .acks => s.quiet g.core
  | .reg i rs => (g.lane i).isExited || rs.all fun r => !((g.lane i).isEmpty r)

/-- Lanes and groups whose wait has ended become active (R344, R363). A producer keeps its destination empty until it issues again (R20). -/
def wakeGroup (s : State) (gid : Nat) : State :=
  let g := s.group gid
  if g.ended || !s.runs g then s
  else
    let g' := { g with lanes := g.lanes.mapIdx fun i (l : Lane) => match l.st with
      | .blocked _ => if s.leaves gid i then { l with st := .active } else l
      | _ => l }
    let g' := g'.forceAt g'.waitDone
    let g' := if s.holdEnds gid g.hold then { g' with hold := .none } else g'
    { s with groups := s.groups.set gid g' }

/-- Cores where a group runs. -/
def State.busyCores (s : State) : List Nat :=
  ((s.groups.filter fun g => s.runs g).map fun g => g.core).eraseDups

/-- The next cycle of every core (R345, DESIGN CHOICE, log entry 2): clocks advance, waits end, and each core composes its issue. -/
def nextCycle (s : State) : State :=
  let s := pumpFab s
  let tick (slice : Nat) (t : Option Nat) : Option Nat := match t with
    | some 0 => some 0
    | some n => if slice = 0 then none else some (n - 1)
    | none => none
  let s := { s with clock := s.clock + 1, firm := { s.firm with turns := s.firm.turns + 1 },
                    cores := s.cores.map fun c => (c.1, { c.2 with loggia := c.2.loggia.map fun x => (x.1, x.2.1, tick c.2.slice x.2.2) }),
                    dies := s.dies.map fun d => (d.1, { d.2 with ring := d.2.ring.map fun p => (p + 1) % 24 })
                    clusters := s.clusters.map fun c => (c.1, { c.2 with mx := { c.2.mx with burst := c.2.mx.burst.map fun n => n - 1 } }) }
  let s := (List.range s.groups.length).foldl wakeGroup s
  s.busyCores.foldl (fun s core =>
    let cands := ((List.range s.groups.length).filter fun g => (s.group g).core == core).map s.cand
    let lane := ports s cands
    let uni := (uniformSlot cands).filter fun u => !(lane.any fun i => i.group == u.group)
    let div := cands.filterMap fun c => c.div.map fun p => ({ group := c.gid, pc := p } : Issue)
    { s with issues := s.issues ++ lane ++ uni ++ div,
             groups := s.groups.mapIdx fun i g => if g.core = core then ageGroup cands lane uni i g else g }) s

/-- The run that issues next has a lane, and its group may still issue. -/
def State.live (s : State) (i : Issue) : Bool :=
  s.mayIssue (s.group i.group) && !((s.group i.group).run i.pc).isEmpty

/-- A fetch that did not give a word: the run blocks, or takes the trap at its PC (R34). A uniform word's group behaves alike;
a word not fetched is of no kind yet. -/
def fetchFails (s : State) (i : Issue) (ext : Bool) (f : Fetched) : State :=
  let run := (s.group i.group).run i.pc
  match f with
  | .trap c a => takeTrap s i.group c i.pc ext false (run.map fun l => (l, BitVec.ofNat 64 a))
  | .wait w => s.modGroup i.group fun g => run.foldl (fun g l => g.modLane l fun x => { x with st := .blocked w }) g
  | _ => s

/-- The lanes of a run that issues read their registers as before the marks of the wait that they leave (R20, R344). -/
def reissueRun (s : State) (gid : Nat) (pc : Word) : State :=
  if ((s.group gid).run pc).all fun i => ((s.group gid).lane i).marked.isEmpty then s
  else s.modGroup gid fun g => (g.run pc).foldl (fun g i => g.modLane i Lane.reissue) g

/-- An issue: the word, and its extension when x is set, are fetched and decoded; what no instruction encodes is
ILLEGAL_ENCODING (R33, R34, R63), and a first word that is ILLEGAL whatever follows it is so before the fetch of an extension can fault
(R64). -/
def issueOne (s : State) (i : Issue) : State × Option Instr :=
  let s := { s with cur := i.group, curPc := i.pc, curOld := i.old, curFused := i.fused }
  let failed := ((s.group i.group).run i.pc).any fun l => ((s.group i.group).lane l).failed.isSome
  match fetchWord s i.group (s.codeVa i.group i.pc) failed with
  | (s, .word w) =>
    if w < 2 ^ 31 && bitAt w 1 then
      if firstBad w then (s, some (.illegalEncoding w))
      else
      match fetchWord s i.group (s.codeVa i.group (i.pc + 4)) failed with
      | (s, .word e) =>
        let s := reissueRun (usedCode s i.group [s.codeVa i.group i.pc, s.codeVa i.group (i.pc + 4)]) i.group i.pc
        match decode w e with
        | .ok x _ => (s, some x)
        | .bad _ => (s, some (.illegalEncoding w))
      | (s, f) => (fetchFails s i true f, none)
    else
      let s := reissueRun (usedCode s i.group [s.codeVa i.group i.pc]) i.group i.pc
      match decode w 0 with
      | .ok x _ => (s, some x)
      | .bad _ => (s, some (.illegalEncoding w))
  | (s, f) => (fetchFails s i false f, none)

/-- `ILLEGAL_ENCODING` (R63): every lane of the run parks, or the group for a uniform word, after convergence (R64). -/
def execIllegalEncoding (w : Nat) (s : State) : Res :=
  .next (if 2 ^ 31 ≤ w then illegalU s else illegalRun s (bitAt w 1))

/-- Where `placeWord` puts a program: context 1, virtual and device physical address 0x10000 (DESIGN CHOICE, log entry 13). -/
def placeBase : Nat := 65536

/-- A launch of one team of one group of 8 lanes on core 0, resident, its code object mapped, with an instruction at offset 0
that the next step issues. It stands for the load of a program by the host and the device's placement of its team. -/
def placeWord (s : State) (w : Nat) : State :=
  let page : Tlb := { place := { level := 0, idx := 0 }, ctx := 1, base := placeBase, size := 65536, tgt := .dpa placeBase,
                      rp := true, wp := true, xp := true, tso := false, dirty := true }
  let bytes := wordBytes (w % 2 ^ 32) ++ wordBytes (w / 2 ^ 32 % 2 ^ 32)
  let g : Group :=
    { team := s.teams.length, lanes := (List.range 8).map fun i => newLane 0 8 i 0 fun _ => 0, resident := true }
  { s with
    agenda := []
    issues := [{ group := s.groups.length, pc := 0 }]
    contexts := s.contexts.set 1 { s.context 1 with desc := [1, 0, 0, 0, 0, 0, 0, 0], teardown := false }
    tlbs := page :: s.tlbs
    launches := s.launches ++ [{ ctx := 1, e := { code := placeBase } , made := 1 }]
    teams := s.teams ++ [{ launch := s.launches.length, st := .resident, groups := [s.groups.length] }]
    groups := s.groups ++ [g]
    caches := s.caches.filter fun c => c.dpa != placeBase
    stores := s.stores.filter fun st => lineOf st.dpa != placeBase
    hostLines := AMap.erase s.hostLines placeBase
    tags := AMap.erase s.tags placeBase
    mem := memPut s.mem (spread placeBase bytes)
    firm := { s.firm with safe := false } }

end Sys2Proof.Machine
end

