-- ==== Sys2Proof/Machine/EngineMem.lean ====
section
/-! DEFINITION. What the engines share: their reads and writes of translated memory (R411, R229, R231, R307, R421), and the
conversion of element rows (R99, R112, R172, R173, R297). -/

namespace Sys2Proof.Machine

/-- Who an engine acts for: the posting group, its core and context, the TLBs it translates through, and whether the page
request it waited for has failed. -/
structure EngAcc where
  gid : Nat
  core : Nat
  ctx : Nat
  launch : Nat
  die : Nat
  places : List TlbAt
  failed : Bool
  /-- who reads lines of the host and of other devices -/
  who : Reader
  /-- the operation's code plus 1 (R290); 0 where its writes are no operation's -/
  code : Nat := 0
  /-- devices that it may read, and 16 + those it may write (R421) -/
  granted : List Nat := []

/-- The devices that a launch's fabric peer window entries name: d with RD, 16 + d with WR (R421). -/
def State.grants (s : State) (launch : Nat) : List Nat :=
  (List.range s.domSize).flatMap fun d =>
    (if (s.peerCap launch d true false).isSome then [d] else []) ++ (if (s.peerCap launch d false true).isSome then [16 + d] else [])

/-- The accesses of a cluster's engines for the operation of a code. -/
def clusterAcc (s : State) (cl gid ctx code : Nat) (failed : Bool) : EngAcc :=
  let l := (s.teamOf (s.group gid)).launch
  { gid := gid, core := 4 * cl, ctx := ctx, launch := l, die := cl / 24, who := .op code, code := code + 1, granted := s.grants l,
    places := [{ level := 1, idx := cl }, { level := 2, idx := cl / 24 }], failed := failed }

/-- The accesses of a die's collective engine. -/
def dieAcc (s : State) (die gid ctx code : Nat) (failed : Bool) : EngAcc :=
  let l := (s.teamOf (s.group gid)).launch
  { gid := gid, core := 96 * die, ctx := ctx, launch := l, die := die, who := .op code, code := code + 1, granted := s.grants l,
    places := [{ level := 2, idx := die }], failed := failed }

/-- How an engine's access ends: bytes read, a page request or an answer awaited, or a final status (R206, R302). -/
inductive EngRes where
  | ok (b : List Byte)
  | page (vpn : Nat)
  | hold
  | status (code : Nat)
deriving DecidableEq, Repr

/-- An engine translates one address (R416, R471): failed for good is FAULTED, a bad table line POISONED. -/
def engTrans (s : State) (a : EngAcc) (va kind : Nat) : State × (Target ⊕ EngRes) :=
  match translate s a.places a.die a.ctx va kind a.failed 1 with
  | (s, .ok t _) => (s, .inl t)
  | (s, .trap c) => (s, .inr (.status (if c == .poison || c == .cmpFrame then 10 else 11)))
  | (s, .wait _ v) => (s, .inr (.page v))
  | (s, .hold _) => (s, .inr .hold)

/-- An engine consumes a bad line (R233): POISONED, and the rollback of a snapshotted launch (R477). -/
def engBad (s : State) (l a : Nat) : State :=
  if s.ownSnap l a then { s with agenda := s.agenda ++ [.rollback l] } else s

/-- An engine's read of the host or of another device (R307, R323): it asks for every line, and has the bytes once all have been answered. A line
refused or lost ends it as FAULTED (R313, R422). -/
def engFar (s : State) (a : EngAcc) (t : Target) (n : Nat) : State × EngRes :=
  let lines := (linesOf t.pos n).map t.at_
  let far (l : Target) : Far := s.farLine a.who l
  match lines.filter fun l => far l == .none with
  | [] =>
    match lines.findSome? fun l => match far l with
      | .bad c => some c
      | _ => none with
    | some c => (s, .status (if c = 3 then 11 else 10))
    | none => (s, .ok (((lines.flatMap fun l => match far l with
        | .have_ b => b
        | _ => []).drop (t.pos % 128)).take n))
  | l => (l.foldl (fun s x => askFar s a.who a.core a.gid x) s, .hold)

/-- An engine may reach a target (R421): a device that it is granted, or a multicast group (DEDUCED, log entry 17). -/
def engGranted (s : State) (a : EngAcc) (t : Target) (wr : Bool) : Bool :=
  match t with
  | .peer d _ => a.granted.elem (if wr then 16 + d else d)
  | .mcast g _ => !wr || (s.mcastOthers g).all fun d => a.granted.elem (16 + d)
  | _ => true

/-- An engine reads bytes at one target, within a page. -/
def engReadAt (s : State) (a : EngAcc) (t : Target) (n : Nat) : State × EngRes :=
  match t with
  | .dpa p =>
    match (linesOf p n).find? fun l => s.snoopNeeded l false with
    | some l => (sendSnoop s l, .hold)
    | none =>
      let s := (linesOf p n).foldl (fun s l => expose s (some a.launch) l) s
      match (linesOf p n).find? fun l => s.lineClass l ≠ 0 with
      | some l => (engBad s a.launch l, .status 10)
      | none => (s, .ok (s.bytes p n))
  | .host _ => engFar s a t n
  | .peer _ _ => if engGranted s a t false then engFar s a t n else (s, .status 19)
  | .mcast _ _ => (s, .status 11)

/-- Bytes of a range that lie in its first 4 KiB page. -/
def firstPage (va n : Nat) : Nat := min n (4096 - va % 4096)

/-- An engine reads a virtual range, page by page. -/
def engRead : Nat → State → EngAcc → Nat → Nat → State × EngRes
  | 0, s, _, _, _ => (s, .ok [])
  | k + 1, s, a, va, n =>
    if n = 0 then (s, .ok [])
    else
      match engTrans s a va 0 with
      | (s, .inr r) => (s, r)
      | (s, .inl t) =>
        match engReadAt s a t (firstPage va n) with
        | (s, .ok b) =>
          match engRead k s a (va + firstPage va n) (n - firstPage va n) with
          | (s, .ok c) => (s, .ok (b ++ c))
          | r => r
        | r => r

/-- The lines that bytes of one page go to, or a final status. -/
def engLines (s : State) (a : EngAcc) (t : Target) (bs : List Byte) : EngRes ⊕ List OutLine :=
  let lines := (linePieces t.pos bs).map fun p => { tgt := t.at_ (lineOf p.1), bytes := spread p.1 p.2 }
  if !engGranted s a t true then .inl (.status 19)
  else
    match t with
    | .mcast g o => if !mcValid (s.mcast.get 0 g) || mcSize (s.mcast.get 0 g) ≤ o then .inl (.status 11) else .inr lines
    | _ => .inr lines

/-- Translates a virtual range that an engine writes, page by page, into the lines that it goes to. -/
def engPlace : Nat → State → EngAcc → Nat → List Byte → State × (EngRes ⊕ List OutLine)
  | 0, s, _, _, _ => (s, .inr [])
  | k + 1, s, a, va, bs =>
    if bs.isEmpty then (s, .inr [])
    else
      match engTrans s a va 1 with
      | (s, .inr r) => (s, .inl r)
      | (s, .inl t) =>
        match engLines s a t (bs.take (firstPage va bs.length)) with
        | .inl r => (s, .inl r)
        | .inr l =>
          match engPlace k s a (va + firstPage va bs.length) (bs.drop (firstPage va bs.length)) with
          | (s, .inr m) => (s, .inr (l ++ m))
          | r => r

/-- Joins a line to an operation's output: a whole line replaces, other bytes merge. -/
def addLine (out : List OutLine) (l : OutLine) : List OutLine :=
  match out.find? fun o => o.tgt == l.tgt with
  | none => out ++ [l]
  | some o =>
    if l.bytes.length = 128 then out.filter (fun o => o.tgt != l.tgt) ++ [{ l with unit := min o.unit l.unit }]
    else out.map fun o =>
      if o.tgt == l.tgt then
        { tgt := o.tgt, bytes := l.bytes.foldl (fun m c => AMap.set m c.1 c.2) o.bytes, unit := min o.unit l.unit }
      else o

/-- The line awaits the host's answer to a snoop (R324). -/
def State.lineWaits (s : State) (l : OutLine) : Bool :=
  match l.tgt with
  | .dpa a => s.snoopNeeded a true
  | _ => false

/-- An engine writes one line, as one write (R213, R307): its requests to the host and to other devices name the operation, which awaits their
answers. -/
def putLine (s : State) (a : EngAcc) (l : OutLine) : State :=
  match l.tgt, l.tag with
  | .dpa p, some t =>
    dropWay (homeLine s (some a.launch) p t ((List.range 128).map fun i => AMap.get 0 l.bytes (p + i))) a.core p
  | t, _ => putCells s a.core a.gid a.code l.unit (some a.launch) t l.bytes

/-- Writes the lines that no snoop holds; the others stay. -/
def putLines (s : State) (a : EngAcc) (l : List OutLine) : State × List OutLine :=
  l.foldl (fun (acc : State × List OutLine) x =>
    if acc.1.lineWaits x then (sendSnoop acc.1 x.tgt.pos, acc.2 ++ [x]) else (putLine acc.1 a x, acc.2)) (s, [])

/-- Writes of an operation still await an answer. -/
def State.unacked (s : State) (code : Nat) : Bool :=
  (s.fabReqs.any fun r => r.eng == code + 1) || s.hostReqs.any fun r => r.eng == code + 1 && r.kind == 1

/-- Pages that a range can touch, as fuel. -/
def pagesOf (n : Nat) : Nat := n / 4096 + 2

/-- Reads a range as an engine does, as memory holds it at this step (DESIGN CHOICE, log entry 5). -/
def rdRange (s : State) (a : EngAcc) (va n : Nat) : State × EngRes := engRead (pagesOf n) s a va n

/-- The lines of a range that an engine writes. -/
def placeRange (s : State) (a : EngAcc) (va : Nat) (bs : List Byte) : State × (EngRes ⊕ List OutLine) := engPlace (pagesOf bs.length) s a va bs

/-- Writes a range at once: all of it, or nothing while a page or a snoop is awaited. -/
def wrRange (s : State) (a : EngAcc) (va : Nat) (bs : List Byte) : State × EngRes :=
  match placeRange s a va bs with
  | (s, .inl r) => (s, r)
  | (s, .inr l) =>
    if l.any s.lineWaits then ((l.filter s.lineWaits).foldl (fun s x => sendSnoop s x.tgt.pos) s, .hold)
    else ((putLines s a l).1, .ok [])

/-- Every page of these ranges, each with what it needs, reaches a target that the engine is granted, as far as it translates now (R302, R421):
the ranges are pages and whether they are written. -/
def engMayReach : List (Nat × Bool) → State → EngAcc → State × EngRes
  | [], s, _ => (s, .ok [])
  | p :: l, s, a =>
    match engTrans s { a with failed := true } (4096 * p.1) (if p.2 then 1 else 0) with
    | (s', .inr .hold) => (s', .hold)
    | (_, .inl t) => if engGranted s a t p.2 then engMayReach l s a else (s, .status 19)
    | _ => engMayReach l s a

/-- The 4 KiB pages of a range. -/
def pageList (va n : Nat) : List Nat := if n = 0 then [] else (List.range ((va + n - 1) / 4096 - va / 4096 + 1)).map fun i => va / 4096 + i

/-- The little-endian 64-bit words of a block. -/
def wordsOf : Nat → List Byte → List UWord
  | 0, _ => []
  | k + 1, b => BitVec.ofNat 64 (bytesNat (b.take 8)) :: wordsOf k (b.drop 8)

/-- Bytes of a row of `n` elements (R99, R190): a stream, or packed blocks with a scale byte each. -/
def rowBytes (fmt bsz n : Nat) (packed : Bool) : Nat :=
  if packed then n / bsz * (bsz * fmtBits fmt / 8 + 1) else (n * fmtBits fmt + 7) / 8

/-- Byte offset, in its row, where element `e` starts. -/
def elemByte (fmt bsz e : Nat) (packed : Bool) : Nat :=
  if packed then e / bsz * (bsz * fmtBits fmt / 8 + 1) + e % bsz * fmtBits fmt / 8 else e * fmtBits fmt / 8

/-- The element codes and the scale codes of a row (R99). -/
def rowCodes (fmt bsz n : Nat) (packed : Bool) (bytes scales : List Byte) : List Nat × List Byte :=
  let ew := fmtBits fmt
  let blk := bsz * ew / 8
  ((List.range n).map fun e =>
    if packed then streamElem ew (bytesNat ((bytes.drop (e / bsz * (blk + 1))).take blk)) (e % bsz)
    else bytesNat ((bytes.drop (e * ew / 8)).take 9) / 2 ^ (e * ew % 8) % 2 ^ ew,
   if packed then (List.range (n / bsz)).map fun t => bytes.getD (t * (blk + 1) + blk) 0 else scales)

/-- The exact values of a row (R98, R99): `bytes` are its bytes, `scales` its scale array when split. -/
def decodeRow (fmt bsz n : Nat) (packed : Bool) (bytes scales : List Byte) : List XR :=
  let c := rowCodes fmt bsz n packed bytes scales
  c.1.mapIdx fun e x =>
    if 8 ≤ fmt ∧ fmt ≤ 13 then mxValue fmt x (c.2.getD (e / bsz) 0).toNat else decodeFmt (fmtOf fmt) x

/-- Output lines begun under sr: for each, the generator's state and the elements so far (R112). An operation posted again starts with none begun,
and a line that two of its rows share, or that one row meets again, keeps its one step and goes on with its numbering (DESIGN CHOICE, log entry
10). -/
abbrev Lines := AMap (UWord × Nat)

/-- A row as it is written: its bytes, its scale array when split, the flags of its elements, the generator and the lines after
it. -/
structure RowOut where
  bytes : List Byte
  scales : List Byte
  fl : Nat
  gen : UWord
  lines : Lines := []
deriving DecidableEq, Repr

/-- The draws of a row under sr (R112): each line steps the generator once, and its elements are numbered in order. `addr` is
the row's address. -/
def rowDraws (fmt bsz n addr : Nat) (packed : Bool) (gen : UWord) (lines : Lines) : List Nat × UWord × Lines :=
  (List.range n).foldl (fun (acc : List Nat × UWord × Lines) e =>
    let line := (addr + elemByte fmt bsz e packed) / 128
    let (g, cur) := match AMap.find acc.2.2 line with
      | some c => (acc.2.1, c)
      | none => (genStep acc.2.1, (genStep acc.2.1, 0))
    (acc.1 ++ [genDraw cur.1 (5 * (cur.2 % 64))], g, acc.2.2.set line (cur.1, cur.2 + 1))) ([], gen, lines)

/-- Lays element codes and scale codes out as a row (R99): the bytes, and the scale array when split. -/
def layRow (fmt bsz : Nat) (packed : Bool) (codes : List Nat) (scales : List Byte) : List Byte × List Byte :=
  let ew := fmtBits fmt
  if packed then
    ((List.range (codes.length / bsz)).flatMap fun t =>
      natBytes (bsz * ew / 8) (packStream ew ((codes.drop (t * bsz)).take bsz)) ++ [scales.getD t 0], [])
  else (natBytes ((codes.length * ew + 7) / 8) (packStream ew codes), scales)

/-- Converts a row of exact values (R172, R173, R297): each MX block under its own scale, other elements by one rounding. -/
def encodeRow (fmt bsz : Nat) (packed : Bool) (cv : Cvt) (gen : UWord) (lines : Lines) (addr : Nat) (xs : List XR) : RowOut :=
  let n := xs.length
  let mx := 8 ≤ fmt && fmt ≤ 13
  let d := if cv.mode = 6 then rowDraws fmt bsz n addr packed gen lines else ([], gen, lines)
  let scs : List (Nat × Nat) :=
    if mx then (List.range (n / bsz)).map fun t => scaleCode fmt (amaxOf ((xs.drop (t * bsz)).take bsz)) else []
  let el : List (Nat × Nat) := xs.mapIdx fun e x =>
    let c := { cv with r := d.1.getD e 0 }
    if mx then mxQuant fmt c (scs.getD (e / bsz) (0, 0)).1 x else convert (fmtOf fmt) c x
  let fl := el.foldl (fun a c => a ||| c.2) (scs.foldl (fun a c => a ||| c.2) 0)
  let out := layRow fmt bsz packed (el.map fun c => c.1) (scs.map fun c => BitVec.ofNat 8 c.1)
  { bytes := out.1, scales := out.2, fl := fl, gen := d.2.1, lines := d.2.2 }

/-- What a bound entry makes of an exact value (R172 step 1): the value and the flags, or nothing under a trap. -/
def bndValue (b : Bnd) (x : XR) : Option (XR × Nat) :=
  if b.action = 0 then some (x, 0)
  else
    let lo := if b.int then xrOfInt (sx 32 b.lo.toNat) else decodeFp fmtF32 b.lo.toNat
    let hi := if b.int then xrOfInt (sx 32 b.hi.toNat) else decodeFp fmtF32 b.hi.toNat
    if !x.isNan && !x.lt lo && !hi.lt x then some (x, 0)
    else if b.action = 1 then some (x, fBND)
    else if b.action = 2 then some (if x.isNan then x else if x.lt lo then lo else hi, fBND)
    else none

/-- A bound entry that fails the checks of R195, for values of one kind. -/
def bndBad (b : Bnd) (int : Bool) : Bool :=
  b.action != 0 && (b.int != int ||
    (if b.int then sx 32 b.hi.toNat < sx 32 b.lo.toNat
     else
       let lo := decodeFp fmtF32 b.lo.toNat
       let hi := decodeFp fmtF32 b.hi.toNat
       lo.isNan || hi.isNan || hi.lt lo))

end Sys2Proof.Machine
end

