-- ==== Sys2Proof/Machine/TransferEngine.lean ====
section
/-! DEFINITION. The transfer engines (R292 to R298): acceptance checks, rows, and completion; the acceptance and the completion
record are shared with the collective engines. -/

namespace Sys2Proof.Machine

def State.modEng (s : State) (id : Nat) (f : EngOp → EngOp) : State :=
  { s with engOps := s.engOps.map fun o => if o.id = id then f o else o }

/-- Two operations of one engine queue (R258, R407). -/
def EngOp.sameQueue (a b : EngOp) : Bool :=
  a.kind == b.kind && a.qn == b.qn &&
    (if a.kind = 0 then clusterOf a.core == clusterOf b.core else dieOf a.core == dieOf b.core)

/-- The operation may begin: those before it in its queue have completed (R258), and so have those it waits behind (R290). -/
def State.engMayBegin (s : State) (o : EngOp) : Bool :=
  !((s.engOps.takeWhile fun x => x.id != o.id).any fun x => x.status == 0 && x.sameQueue o) && !(o.behind.any s.codePending)

/-- The engine's accesses for an operation. -/
def State.engAcc (s : State) (o : EngOp) : EngAcc :=
  let a := if o.kind = 0 then clusterAcc s (clusterOf o.core) o.group o.ctx (engCode o.id) o.failed
    else dieAcc s (dieOf o.core) o.group o.ctx (engCode o.id) o.failed
  { a with launch := o.launch, granted := if o.accepted then o.peers else s.grants o.launch }

/-- An operation has used the lines it read from the host and from other devices. -/
def engUsed (s : State) (o : EngOp) : State := dropAnswers (dropAnswers s (.op (engCode o.id))) (.win (engCode o.id))

/-- Fields of a transfer block (R294). -/
def EngOp.fd (o : EngOp) (hi lo : Nat) : Nat := blkFld o.words hi lo
def EngOp.xkind (o : EngOp) : Nat := o.fd 3 0
def EngOp.sfmt (o : EngOp) : Nat := o.fd 35 32
def EngOp.dfmt (o : EngOp) : Nat := o.fd 39 36
def EngOp.sbsz (o : EngOp) : Nat := bszOf (o.fd 47 46)
def EngOp.dbsz (o : EngOp) : Nat := bszOf (o.fd 49 48)
def EngOp.spacked (o : EngOp) : Bool := isMx o.sfmt && o.fd 50 50 == 1
def EngOp.dpacked (o : EngOp) : Bool := isMx o.dfmt && o.fd 51 51 == 1
def EngOp.rows (o : EngOp) : Nat := o.fd 215 192
def EngOp.cols (o : EngOp) : Nat := o.fd 239 216
/-- Rows and columns of the destination: a transpose exchanges them (R296). -/
def EngOp.drows (o : EngOp) : Nat := if o.xkind = 3 then o.cols else o.rows
def EngOp.dcols (o : EngOp) : Nat := if o.xkind = 3 then o.rows else o.cols
def EngOp.index (o : EngOp) : Nat := match o.idx with
  | some v => v.toNat
  | none => o.fd 511 448
def EngOp.srow (o : EngOp) : Nat := rowBytes o.sfmt o.sbsz o.cols o.spacked
def EngOp.drow (o : EngOp) : Nat := rowBytes o.dfmt o.dbsz o.dcols o.dpacked

/-- One side of a transfer: its space, address, stride, scale array, bytes of a row and scale bytes of a row. -/
structure Side where
  space : Nat
  addr : Nat
  stride : Nat
  scale : Nat
  row : Nat
  nscale : Nat
deriving DecidableEq, Repr

def EngOp.src (o : EngOp) : Side :=
  { space := o.fd 6 4, addr := o.fd 127 64, stride := o.fd 287 256, scale := o.fd 383 320, row := o.srow,
    nscale := if isMx o.sfmt && !o.spacked then o.cols / o.sbsz else 0 }
def EngOp.dst (o : EngOp) : Side :=
  { space := o.fd 9 7, addr := o.fd 191 128, stride := o.fd 319 288, scale := o.fd 447 384, row := o.drow,
    nscale := if isMx o.dfmt && !o.dpacked then o.dcols / o.dbsz else 0 }

/-- A side's spaces are granted (R408, R423): a FIFO bank entry with its permission, or a gang window entry and an attached
team. -/
def State.sideGranted (s : State) (o : EngOp) (d : Side) (wr : Bool) : Bool :=
  let g := s.group o.group
  match d.space with
  | 5 =>
    let c := s.cap g (d.addr % 64)
    c.kind == 6 && (if wr then c.send else c.recv)
  | 2 =>
    ((s.launch o.launch).caps.any fun c => c.2.kind == 3 && (if wr then c.2.wr else c.2.rd)) &&
      (s.team g.team).attached && !s.teamDetached g.team
  | _ => true

/-- Bytes of a bounded space (R265): none for `glob` and `fifo`. -/
def State.sideLimit (s : State) (o : EngOp) (d : Side) : Option Nat :=
  let g := s.group o.group
  match d.space with
  | 1 => some (s.launch o.launch).e.scratch
  | 2 => match s.gangOf g.team with
    | some (k, _) => some ((s.gangs.getD k {}).zsize * (s.gangs.getD k {}).n)
    | none => some 0
  | _ => none

/-- Rows 0 to `m` of a side stay inside its space (R295, R296). -/
def State.sideInside (s : State) (o : EngOp) (d : Side) (m : Nat) : Bool :=
  match s.sideLimit o d with
  | none => true
  | some n => d.addr + m * d.stride + d.row ≤ n && (d.nscale = 0 || d.scale + (m + 1) * d.nscale ≤ n)

/-- Row `i` of a side begins on a 4-byte boundary (R295). -/
def Side.aligned (d : Side) (i : Nat) : Bool := d.space == 5 || (d.addr + i * d.stride) % 4 == 0

/-- Equal formats copy bits (R297). -/
def EngOp.raw (o : EngOp) : Bool :=
  o.sfmt == o.dfmt && (!isMx o.sfmt || o.sbsz == o.dbsz) && o.fd 14 14 == 0 && !(o.xkind == 3 && isMx o.sfmt)

/-- The checks of a transfer block before any access (R294 to R297, R302): the lowest code that applies, 0 when all hold. -/
def State.xferCheck (s : State) (o : EngOp) : Nat :=
  let badSpace (x : Nat) : Bool := x == 3 || x == 4 || 6 ≤ x
  let smx := isMx o.sfmt
  let dmx := isMx o.dfmt
  let bad (d : Side) (wr : Bool) (indexed : Bool) (n : Nat) : Bool :=
    !s.sideGranted o d wr || (d.space != 5 && d.stride < d.row) ||
      (!indexed && (!s.sideInside o d (n - 1) || !d.aligned 0 || (1 < n && !d.aligned 1)))
  if 3 < o.xkind || badSpace o.src.space || badSpace o.dst.space || o.fd 31 21 != 0 || o.fd 63 52 != 0 || o.fd 255 240 != 0 ||
      o.fd 42 40 == 7 || (o.fd 51 51 == 1 && !dmx) || (o.src.scale != 0 && !(smx && !o.spacked)) ||
      (o.dst.scale != 0 && !(dmx && !o.dpacked)) || (o.index != 0 && o.xkind != 1 && o.xkind != 2) ||
      (match o.bnd with
        | some b => bndBad b (isIntFmt o.sfmt)
        | none => false) then 16
  else if o.rows = 0 || o.cols = 0 || (smx && o.cols % o.sbsz != 0) || (dmx && o.dcols % o.dbsz != 0) then 17
  else if 14 ≤ o.sfmt || 14 ≤ o.dfmt then 18
  else if o.fd 575 512 % 8 != 0 || bad o.src false (o.xkind == 1) o.rows || bad o.dst true (o.xkind == 2) o.drows then 19
  else 0

/-- An operation awaits a page request (R292, R471). -/
def engWaits (s : State) (id vpn : Nat) : State := s.modEng id fun o => { o with page := some vpn }

/-- The bank of a FIFO side, as the capability table names it now (R408). -/
def State.sideBank (s : State) (o : EngOp) (d : Side) : Nat := (s.cap (s.group o.group) (d.addr % 64)).ep 20 16

/-- Fills slots of a FIFO destination while whole lines are ready and the bank has room (R282). -/
def drainStream : Nat → State → EngOp → State × EngOp
  | 0, s, o => (s, o)
  | k + 1, s, o =>
    let cl := clusterOf o.core
    let b := o.banks.2
    if o.obuf.length < 128 || (s.fifo cl b).free = 0 then (s, o)
    else
      let s := fifoPut s cl b (o.obuf.take 128)
      let o := { o with obuf := o.obuf.drop 128 }
      drainStream k (s.modEng o.id fun _ => o) o

/-- An operation has ended (R292): its post is uncounted, and its status is kept among the 64 most recent of its queue (R291). -/
def engFinish (s : State) (o : EngOp) (status : Nat) : State :=
  let fin : EngOp := { o with status := status, ibuf := [], obuf := [], out := [], lines := [], part := [], idxs := [], page := none,
                                     got := if status = 10 ∨ status = 11 then o.got else [] }
  let s := engUsed s o
  let rest := s.engOps.filter fun x => x.id != o.id
  let old := rest.filter fun x => x.status != 0 && x.sameQueue o
  let rest := if old.length < 64 then rest else
    match old.head? with
    | some x => rest.filter fun y => y.id != x.id
    | none => rest
  qcntAdd { s with engOps := rest ++ [fin] } o.group o.queue false

/-- Writes bytes of an operation's block or its completion word: whether it is over, written or lost where memory denies it for good. -/
def engPut (s : State) (o : EngOp) (va : Nat) (bs : List Byte) : State × Bool :=
  match wrRange s (s.engAcc o) va bs with
  | (s, .page v) => (engWaits s o.id v, false)
  | (s, .hold) => (s, false)
  | (s, _) => (s.modEng o.id fun o => { o with page := none, failed := false }, true)

/-- An accepted operation begins to end with a status (R292, R293). One that its block's rules end has written nothing (R302). -/
def engEnd (s : State) (id status : Nat) : State :=
  s.modEng id fun o =>
    { o with ending := status, endStep := 1, page := none, failed := false,
             out := if (16 ≤ status && status ≤ 19) || status = 27 then [] else o.out }

/-- STATUS, FLAGS and PROG as they lie in the block, and where (R292, R294, R299). -/
def EngOp.record (o : EngOp) : Nat × List Byte :=
  let st := [BitVec.ofNat 8 o.ending] ++ natBytes 2 o.flags.toNat
  if o.kind = 0 then (o.blk + 80, natBytes 3 o.prog ++ st) else (o.blk + 48, natBytes 4 o.prog ++ st)

/-- CADDR and CVAL (R294, R299). -/
def EngOp.caddr (o : EngOp) : Nat := if o.kind = 0 then blkFld o.words 575 512 else blkFld o.words 319 256
def EngOp.cval (o : EngOp) : Nat := if o.kind = 0 then blkFld o.words 639 576 else blkFld o.words 383 320

/-- The flags that the block held at a resuming post (R293). -/
def EngOp.base (o : EngOp) : Nat :=
  if o.kind = 0 then (if blkFld o.words 663 640 = 0 then 0 else blkFld o.words 680 672)
  else if blkFld o.words 415 384 = 0 then 0
  else blkFld o.words 432 424

/-- Units performed before the post (R293). -/
def EngOp.first (o : EngOp) : Nat := if o.kind = 0 then blkFld o.words 663 640 else blkFld o.words 415 384

/-- A unit is performed, with its flags (R293). -/
def EngOp.didUnit (o : EngOp) (fl : Nat) : EngOp :=
  { o with prog := o.prog + 1, flags := o.flags ||| BitVec.ofNat 64 fl, unitFl := o.unitFl ++ [fl], page := none, failed := false }

/-- A write that carries bytes of unit `u` and later ones has been refused or lost (R422, R313): only the units before it are performed, and the
operation records their flags (R293). -/
def EngOp.lostFrom (o : EngOp) (u : Nat) : EngOp :=
  if o.prog ≤ u then { o with refused := true }
  else
    let l := o.unitFl.take (u - o.first)
    { o with refused := true, prog := u, unitFl := l, flags := BitVec.ofNat 64 (l.foldl (· ||| ·) o.base) }

/-- The status that an ending operation has, by what its writes have met (R293, R313). -/
def EngOp.endsAs (o : EngOp) : Nat :=
  if o.ending ≠ 1 then o.ending
  else if o.kind = 1 && o.peerLost then 26
  else if o.refused then 11
  else 1

/-- One step of an ending operation, and whether it went on (R292, R307): its output, padded to a slot where it goes to a FIFO (R295; DESIGN
CHOICE, log entry 82), and its acknowledgements; the record; the completion value. -/
def engEndStep (s : State) (o : EngOp) : State × Bool :=
  let go (s : State) (k : Nat) : State × Bool := (s.modEng o.id fun o => { o with endStep := k }, true)
  let acked (s : State) (k : Nat) : State × Bool := if s.unacked (engCode o.id) then (s, false) else go s k
  match o.endStep with
  | 0 => (s, false)
  | 1 =>
    let o := { o with obuf := o.obuf ++ List.replicate ((128 - o.obuf.length % 128) % 128) 0 }
    let (s, o) := drainStream (o.obuf.length / 128 + 1) s o
    let (s, out) := putLines s (s.engAcc o) o.out
    let st := if !o.obuf.isEmpty && o.gone then 25 else o.endsAs
    let s := s.modEng o.id fun x => { x with obuf := o.obuf, out := out, ending := st }
    if !out.isEmpty || (!o.obuf.isEmpty && !o.gone) then (s, false) else acked s 2
  | 2 =>
    let o := { o with ending := o.endsAs }
    match engPut (s.modEng o.id fun x => { x with ending := o.ending }) o o.record.1 o.record.2 with
    | (s, true) => go s 3
    | r => r
  | 3 => acked s 4
  | 4 =>
    if o.caddr = 0 || o.caddr % 8 ≠ 0 then go s 5
    else
      match engPut s o o.caddr (natBytes 8 o.cval) with
      | (s, true) => go s 5
      | r => r
  | _ => if s.unacked (engCode o.id) then (s, false) else (engFinish s o o.ending, false)

/-- Steps of an ending operation until it waits or has ended. -/
def engEndRun : Nat → State → Nat → State
  | 0, s, _ => s
  | k + 1, s, id =>
    match s.engOps.find? fun o => o.id == id with
    | none => s
    | some o =>
      match engEndStep s o with
      | (s, true) => engEndRun k s id
      | (s, false) => s

/-- A window range in pieces of one member each: where each begins and how long it is. -/
def winPieces : Nat → Nat → Nat → Nat → List (Nat × Nat)
  | 0, _, _, _ => []
  | k + 1, z, a, n =>
    if n = 0 then []
    else if z = 0 then [(a, n)]
    else (a, min n (z - a % z)) :: winPieces k z (a + min n (z - a % z)) (n - min n (z - a % z))

/-- An engine's range in the window of its poster's gang, checked member by member (R389, R423): a piece, and where it reaches. -/
def State.engWin (s : State) (o : EngOp) (a n : Nat) : EngRes ⊕ List (WinAt × Nat × Nat) :=
  let g := { s.group o.group with detached := false }
  let z := match s.gangOf g.team with
    | some (k, _) => (s.gangs.getD k {}).zsize
    | none => 0
  let ps := (winPieces (n + 1) z a n).map fun p => (s.winAt g p.1, p.1, p.2)
  match ps.findSome? fun p => match p.1 with
    | .trap c => some c
    | _ => none with
  | some c => .inl (.status (if c == .gangDeparted then 11 else 19))
  | none => if ps.any fun p => p.1 == .held then .inl .hold else .inr ps

/-- The place of a gang packet for a member of the poster's gang (DESIGN CHOICE, log entry 18). -/
def State.engSpan (s : State) (o : EngOp) (m x : Nat) : Nat :=
  let t := (s.group o.group).team
  match s.gangOf t with
  | some (k, _) => let ga := s.gangs.getD k {}; s.spanAt t (ga.idx * ga.n + m) x
  | none => 0

/-- An engine reads a window range: a member of another device answers with whole lines. -/
def engWinRead (s : State) (o : EngOp) (a n : Nat) : State × EngRes :=
  match s.engWin o a n with
  | .inl r => (s, r)
  | .inr ps =>
    let who : Reader := .win (engCode o.id)
    let lines (m x n : Nat) : List Nat := (linesOf x n).map fun l => s.engSpan o m l
    let far (d l : Nat) : Far := s.farLine who (.peer d l)
    let need : List (Nat × Nat) := ps.flatMap fun p => match p.1 with
      | .away d m x => (lines m x p.2.2).map fun l => (d, l)
      | _ => []
    match need.filter fun q => far q.1 q.2 == .none with
    | [] =>
      match need.findSome? fun q => match far q.1 q.2 with
        | .bad c => some c
        | _ => none with
      | some c => (s, .status (if c = 3 then 11 else 10))
      | none => (s, .ok (ps.flatMap fun p => match p.1 with
          | .here t x => (List.range p.2.2).map fun i => AMap.get 0 (s.team t).scratch (x + i)
          | .away d m x => (((lines m x p.2.2).flatMap fun l => match far d l with
              | .have_ b => b
              | _ => []).drop (x % 128)).take p.2.2
          | _ => []))
    | l => (l.foldl (fun s q => askPeer s who o.core o.group q.1 q.2 128 8) s, .hold)

/-- An engine writes window pieces that its checks have passed. -/
def engWinWrite (s : State) (o : EngOp) (a : Nat) (bs : List Byte) (ps : List (WinAt × Nat × Nat)) : State :=
  ps.foldl (fun s p =>
    let b := (bs.drop (p.2.1 - a)).take p.2.2
    match p.1 with
    | .here t x => s.modTeam t fun tm => { tm with scratch := memPut tm.scratch (spread x b) }
    | .away d m x =>
      (linePieces x b).foldl (fun s q =>
        sendFab s { peer := d, seq := 0, tagged := true, kind := 9, off := s.engSpan o m q.1, size := q.2.length,
                    bytes := spread (s.engSpan o m q.1) q.2, core := o.core, group := o.group, va := o.prog, eng := engCode o.id + 1 }) s
    | _ => s) s

/-- Reads bytes of one side. -/
def sideRead (s : State) (o : EngOp) (space at_ n : Nat) : State × EngRes :=
  match space with
  | 1 => (s, .ok ((List.range n).map fun i => AMap.get 0 (s.team (s.group o.group).team).scratch (at_ + i)))
  | 2 => engWinRead s o at_ n
  | _ => rdRange s (s.engAcc o) at_ n

/-- A write of one side, once nothing stops it: lines of the operation's output, or window pieces. -/
structure SideOut where
  space : Nat
  at_ : Nat
  bytes : List Byte
  lines : List OutLine := []
  pieces : List (WinAt × Nat × Nat) := []

/-- Finds where the bytes of one side go. -/
def sidePlace (s : State) (o : EngOp) (space at_ : Nat) (bs : List Byte) : State × (EngRes ⊕ SideOut) :=
  match space with
  | 1 | 5 => (s, .inr { space := space, at_ := at_, bytes := bs })
  | 2 =>
    match s.engWin o at_ bs.length with
    | .inl r => (s, .inl r)
    | .inr ps => (s, .inr { space := 2, at_ := at_, bytes := bs, pieces := ps })
  | _ =>
    match placeRange s (s.engAcc o) at_ bs with
    | (s, .inl r) => (s, .inl r)
    | (s, .inr l) => (s, .inr { space := 0, at_ := at_, bytes := bs, lines := l })

/-- Writes one side: scratch and windows at once, device lines into the operation's output, a FIFO's bytes into its stream. -/
def sidePut (s : State) (o : EngOp) (w : SideOut) : State :=
  match w.space with
  | 1 => s.modTeam (s.group o.group).team fun tm => { tm with scratch := memPut tm.scratch (spread w.at_ w.bytes) }
  | 2 => engWinWrite s o w.at_ w.bytes w.pieces
  | 5 => s.modEng o.id fun o => { o with obuf := o.obuf ++ w.bytes }
  | _ => s.modEng o.id fun o => { o with out := (w.lines.map fun l => { l with unit := o.prog }).foldl addLine o.out }

/-- Takes slots of a FIFO source until its stream holds `n` bytes or the bank is empty (R282) (DEDUCED, log entry 40). -/
def fillStream : Nat → State → EngOp → Nat → State × EngOp
  | 0, s, o, _ => (s, o)
  | k + 1, s, o, n =>
    let cl := clusterOf o.core
    let b := o.banks.1
    if n ≤ o.ibuf.length || (s.fifo cl b).filled = 0 then (s, o)
    else
      let (s, slot, bytes) := fifoTake s cl b
      let s := fifoRelease s cl b slot
      let o := { o with ibuf := o.ibuf ++ (bytes ++ List.replicate 128 0).take 128 }
      fillStream k (s.modEng o.id fun _ => o) o n

/-- Puts a scatter's row `r` after the rows of no higher destination. -/
def insertRow (idxs : List Nat) (r : Nat) : List Nat → List Nat
  | [] => [r]
  | x :: l => if idxs.getD x 0 ≤ idxs.getD r 0 then x :: insertRow idxs r l else r :: x :: l

/-- The source rows of a scatter in the order of their destination rows, in which it produces its lines (R112); of one destination the highest
row comes last (R296; DESIGN CHOICE, log entry 81). -/
def EngOp.order (o : EngOp) : List Nat := (List.range o.rows).foldl (fun l r => insertRow o.idxs r l) []

/-- The row that unit `u` writes from, and its destination row. -/
def EngOp.unit (o : EngOp) (u : Nat) : Nat × Nat :=
  if o.xkind = 2 then (o.order.getD u 0, o.idxs.getD (o.order.getD u 0) 0) else (u, u)

/-- The place of source row `i` in the stream of a FIFO source: an operation posted again reads the rows that are left (DESIGN CHOICE, log
entry 81). -/
def EngOp.streamPos (o : EngOp) (i : Nat) : Nat :=
  match o.xkind with
  | 0 => i - o.first
  | 2 => ((o.order.drop o.first).filter fun r => r < i).length
  | _ => i

/-- The codes and scales of source row `i`. -/
def sourceRow (s : State) (o : EngOp) (i : Nat) : State × (EngRes ⊕ (List Nat × List Byte)) :=
  let d := o.src
  let (s, r) := if d.space = 5 then (s, EngRes.ok ((o.ibuf.drop (o.streamPos i * d.row)).take d.row))
    else sideRead s o d.space (d.addr + i * d.stride) d.row
  match r with
  | .ok b =>
    match (if d.nscale = 0 then (s, EngRes.ok []) else sideRead s o (if d.space = 5 then 0 else d.space) (d.scale + i * d.nscale) d.nscale) with
    | (s, .ok sc) => (s, .inr (rowCodes o.sfmt o.sbsz o.cols o.spacked b sc))
    | (s, r) => (s, .inl r)
  | r => (s, .inl r)

/-- Source rows in order. -/
def sourceRows : List Nat → State → EngOp → State × (EngRes ⊕ List (List Nat × List Byte))
  | [], s, _ => (s, .inr [])
  | i :: l, s, o =>
    match sourceRow s o i with
    | (s, .inl r) => (s, .inl r)
    | (s, .inr c) =>
      match sourceRows l s o with
      | (s, .inr cs) => (s, .inr (c :: cs))
      | r => r

/-- The exact values of a source row. -/
def EngOp.values (o : EngOp) (c : List Nat × List Byte) : List XR :=
  c.1.mapIdx fun e x =>
    if isMx o.sfmt then mxValue o.sfmt x (c.2.getD (e / o.sbsz) 0).toNat else decodeFmt (fmtOf o.sfmt) x

/-- The transfer engine's generator (R114). -/
def State.xferGen (s : State) (cl : Nat) : UWord := (s.cluster cl).genX.getD (genLoad 0 s.kdev 1 cl)

/-- How a unit of a transfer ends. -/
inductive UnitRes where
  | more
  | wait
  | stop (status : Nat)
deriving DecidableEq, Repr

/-- Row of unit `u` as the destination takes it (R297): nothing under a trap bound. A row copied bit by bit draws nothing, whatever its rounding
field (DESIGN CHOICE, log entry 10). -/
def transferRow (s : State) (o : EngOp) (u dri : Nat) (cs : List (List Nat × List Byte)) : Option RowOut :=
  let gen := s.xferGen (clusterOf o.core)
  if o.raw then
    let c := if o.xkind = 3 then (cs.map fun c => c.1.getD u 0, []) else cs.headD ([], [])
    let out := layRow o.dfmt o.dbsz o.dpacked c.1 c.2
    some { bytes := out.1, scales := out.2, fl := 0, gen := gen, lines := o.lines }
  else
    let xs := if o.xkind = 3 then cs.map fun c => (o.values c).getD u (.fin false 0 0) else o.values (cs.headD ([], []))
    let bounded := xs.foldl (fun (acc : Option (List XR × Nat)) x => match acc with
      | none => none
      | some (l, fl) =>
        match o.bnd with
        | none => some (l ++ [x], fl)
        | some b => (bndValue b x).map fun v => (l ++ [v.1], fl ||| v.2)) (some ([], 0))
    bounded.map fun v =>
      let cv : Cvt := { mode := o.fd 42 40, sat := o.fd 43 43 == 1, subst := o.fd 45 44, cvsub := o.cvsub.toNat }
      let at_ := if o.dst.space = 5 then (u - o.first) * o.dst.row else o.dst.addr + dri * o.dst.stride
      let out := encodeRow o.dfmt o.dbsz o.dpacked cv gen o.lines at_ v.1
      { out with fl := out.fl ||| v.2 }

/-- The unit of a transfer that comes next: a destination row (R293, R296). BADADDR is found before any access, so a page that has come to name a
device not granted stops it as FAULTED (R302). -/
def transferUnit (s : State) (o : EngOp) : State × UnitRes :=
  let u := o.prog
  let (r, dri) := o.unit u
  let rows := if o.xkind = 3 then List.range o.rows else if o.xkind = 1 then [o.idxs.getD r 0] else [r]
  let need := ((rows.map fun i => o.streamPos i + 1).foldl max 0) * o.src.row
  let (s, o) := if o.dst.space = 5 then drainStream (o.obuf.length / 128 + 1) s o else (s, o)
  let (s, o) := if o.src.space = 5 then fillStream (need / 128 + 2) s o need else (s, o)
  let stopped (s : State) (r : EngRes) : State × UnitRes :=
    match r with
    | .page v => (engWaits s o.id v, .wait)
    | .status c => (engUsed s o, .stop (if c = 19 then 11 else c))
    | _ => (s, .wait)
  if (o.dst.space = 5 && 128 ≤ o.obuf.length) || (o.src.space = 5 && o.ibuf.length < need) then (s, .wait)
  else
    match sourceRows rows s o with
    | (s, .inl r) => stopped s r
    | (s, .inr cs) =>
      match transferRow s o u dri cs with
      | none => (engUsed s o, .stop 8)
      | some out =>
        let d := o.dst
        match sidePlace s o d.space (d.addr + dri * d.stride) out.bytes with
        | (s, .inl r) => stopped s r
        | (s, .inr w) =>
          match sidePlace s o (if d.space = 5 then 0 else d.space) (d.scale + dri * d.nscale) out.scales with
          | (s, .inl r) => stopped s r
          | (s, .inr v) =>
            let s := sidePut (sidePut s o w) o v
            let s := if o.fd 42 40 = 6 && !o.raw then s.modCluster (clusterOf o.core) fun c => { c with genX := some out.gen } else s
            ((engUsed s o).modEng o.id fun o => { o.didUnit out.fl with lines := out.lines }, .more)

/-- Units until the operation waits, stops or has no row left. -/
def transferUnits : Nat → State → Nat → State × UnitRes
  | 0, s, _ => (s, .more)
  | k + 1, s, id =>
    match s.engOps.find? fun o => o.id == id with
    | none => (s, .wait)
    | some o =>
      if o.drows ≤ o.prog then (s, .more)
      else
        match transferUnit s o with
        | (s, .more) => transferUnits k s id
        | r => r

/-- Pages of one side in virtual memory: its rows there, and its scales. -/
def Side.pages (d : Side) (rows : List Nat) : List Nat :=
  rows.flatMap fun i =>
    (if d.space = 0 then pageList (d.addr + i * d.stride) d.row else []) ++
      if d.space = 0 ∨ d.space = 5 then pageList (d.scale + i * d.nscale) d.nscale else []

/-- Rows of a side in the gang window that its members do not hold, or that must be awaited (R389, R423). -/
def State.sideWindow (s : State) (o : EngOp) (d : Side) (rows : List Nat) : Option EngRes :=
  if d.space ≠ 2 then none
  else rows.findSome? fun i =>
    [(d.addr + i * d.stride, d.row), (d.scale + i * d.nscale, d.nscale)].findSome? fun p =>
      match s.engWin o p.1 p.2 with
      | .inl (.status 19) => some (.status 19)
      | .inl .hold => some .hold
      | _ => none

/-- The index array of a gather or scatter is read, and every address checked, before any access (R296, R302, R421). -/
def transferBegin (s : State) (o : EngOp) : State × UnitRes :=
  let go (s : State) (idxs : List Nat) : State × UnitRes :=
    let d := if o.xkind = 1 then o.src else o.dst
    let src := if o.xkind = 1 then idxs.eraseDups else List.range o.rows
    let dst := if o.xkind = 2 then idxs.eraseDups else List.range o.drows
    if idxs.any fun i => !d.aligned i || !s.sideInside o d i then (engUsed s o, .stop 19)
    else
      match (s.sideWindow o o.src src).or (s.sideWindow o o.dst dst) with
      | some (.status c) => (engUsed s o, .stop c)
      | some _ => (s, .wait)
      | none =>
        match engMayReach (((o.src.pages src).map fun p => (p, false)) ++ (o.dst.pages dst).map fun p => (p, true)) s (s.engAcc o) with
        | (s, .status c) => (engUsed s o, .stop c)
        | (s, .ok _) => ((engUsed s o).modEng o.id fun o => { o with began := true, idxs := idxs, page := none, failed := false }, .more)
        | (s, _) => (s, .wait)
  if o.xkind = 1 ∨ o.xkind = 2 then
    match rdRange s (s.engAcc o) o.index (4 * o.rows) with
    | (s, .ok b) => go s ((List.range o.rows).map fun i => bytesNat ((b.drop (4 * i)).take 4))
    | (s, .page v) => (engWaits s o.id v, .wait)
    | (s, .hold) => (s, .wait)
    | (s, .status c) => (engUsed s o, .stop c)
  else go s []

/-- A transfer runs as far as it can, and begins to end when it has run out of rows or must stop (R292 to R297). -/
def transferRun (s : State) (o : EngOp) : State :=
  if o.gone then engEnd s o.id 25
  else if o.refused then engEnd s o.id 11
  else
    match (if o.began then (s, UnitRes.more) else transferBegin s o) with
    | (s, .stop c) => engEnd s o.id c
    | (s, .wait) => s
    | (s, .more) =>
      match transferUnits (o.drows + 1) s o.id with
      | (s, .stop c) => engEnd s o.id c
      | (s, .wait) => s
      | (s, .more) => engEnd s o.id 1

/-- `TRANSFER_COMPLETE` (R292 to R297): the transfer runs as far as it can; at its end, or where it stops, it completes. -/
def execTransferComplete (k : Nat) (s : State) : Res :=
  .next (match s.engOps[k]? with
  | none => s
  | some o =>
    if o.kind ≠ 0 || !o.accepted || o.status ≠ 0 then s
    else engEndRun 6 (if o.endStep = 0 then transferRun s o else s) o.id)

end Sys2Proof.Machine
end

