-- ==== Sys2Proof/Machine/Collective.lean ====
section
/-! DEFINITION. The acceptance of engine operations (R292) and the collective engines (R299 to R301, R317, R318). -/

namespace Sys2Proof.Machine

/-- Fields of a collective block (R299). -/
def EngOp.ckind (o : EngOp) : Nat := o.fd 3 0
def EngOp.rop (o : EngOp) : Nat := o.fd 7 4
def EngOp.csfmt (o : EngOp) : Nat := o.fd 11 8
def EngOp.cdfmt (o : EngOp) : Nat := o.fd 15 12
def EngOp.wfmt (o : EngOp) : Nat := o.fd 19 16
def EngOp.wlen (o : EngOp) : Nat := bszOf (o.fd 21 20)
def EngOp.exact (o : EngOp) : Bool := o.fd 22 22 == 1
def EngOp.nrank (o : EngOp) : Nat := o.fd 43 40
def EngOp.rank (o : EngOp) : Nat := o.fd 47 44
def EngOp.count (o : EngOp) : Nat := o.fd 223 192
def EngOp.cid (o : EngOp) : Nat := o.fd 255 224

/-- Fields of the tree entry read at acceptance (R317). -/
def EngOp.isRoot (o : EngOp) : Bool := o.tree.getLsbD 4
def EngOp.parent (o : EngOp) : Nat := fld o.tree 3 0
def EngOp.children (o : EngOp) : List Nat := (List.range (fld o.tree 11 8)).map fun c => fld o.tree (19 + 4 * c) (16 + 4 * c)
def treeDev (t : BitVec 256) (r : Nat) : Nat := fld t (83 + 4 * r) (80 + 4 * r)

/-- The format of partials on the wire (R300). -/
def EngOp.wire (o : EngOp) : Nat := if o.exact then 0 else o.wfmt

/-- Portions of the stream that the tree carries (R318), its blocks, and a block's elements: the first and how many. -/
def EngOp.portions (o : EngOp) : Nat := if o.ckind = 1 ∨ o.ckind = 2 then o.nrank + 1 else 1
def EngOp.perPortion (o : EngOp) : Nat := (o.count + o.wlen - 1) / o.wlen
def EngOp.blocks (o : EngOp) : Nat := o.portions * o.perPortion
def EngOp.blockAt (o : EngOp) (b : Nat) : Nat × Nat :=
  (b / o.perPortion * o.count + b % o.perPortion * o.wlen, min o.wlen (o.count - b % o.perPortion * o.wlen))

/-- What the ranks' blocks must agree on (R299). -/
def EngOp.header (o : EngOp) : List Nat := [o.ckind, o.rop, o.count, o.wfmt, o.fd 21 20, o.fd 22 22]

/-- Memory and wire formats (R299). -/
def collFmt (c : Nat) : Bool := c ≤ 2 || isMx c
def wireFmt (c : Nat) : Bool := c == 0 || c == 2 || isMx c

/-- The checks of a collective block and its tree entry (R299, R317, R302). -/
def State.collCheck (s : State) (o : EngOp) : Nat :=
  let t := o.tree
  let devs := (List.range (o.nrank + 1)).map (treeDev t)
  let mx := isMx o.csfmt || isMx o.cdfmt || isMx o.wfmt
  if 3 < o.ckind || 2 < o.rop || o.fd 25 23 == 7 || o.fd 31 29 < 4 || o.nrank < o.rank || o.fd 63 49 != 0 || !t.getLsbD 5 ||
      treeDev t o.rank != s.kdev || devs.eraseDups.length != devs.length then 16
  else if mx && o.count % o.wlen != 0 then 17
  else if !collFmt o.csfmt || !collFmt o.cdfmt || !wireFmt o.wfmt then 18
  else if o.fd 127 64 % 4 != 0 || o.fd 191 128 % 4 != 0 || o.fd 319 256 % 8 != 0 then 19
  else 0

/-- Sends a collective packet to a rank (R305, R317). -/
def sendColl (s : State) (o : EngOp) (rank dir blk : Nat) (data : List Byte) (hdr : List Nat) : State :=
  let h := (hdr.zipIdx.map fun x => x.1 * 2 ^ ([0, 4, 8, 40, 44, 46, 47].getD x.2 0)).sum
  sendFab s
    { peer := treeDev o.tree rank, seq := 0, tagged := true, kind := 5, off := blk, size := data.length, data := BitVec.ofNat 64 h,
      aop := dir + 2 * o.rank + 32 * hdr.length, cmp := BitVec.ofNat 64 o.cid, bytes := spread 0 data, core := o.core, group := o.group,
      eng := engCode o.id + 1 }

/-- The word of a rank that its subtree's blocks agree, or of the root that all do (R299; DESIGN CHOICE, log entry 19). -/
def EngOp.agree (o : EngOp) : List Nat := o.header ++ [1]

/-- The rank still waits on the packets of rank `f` (R301). -/
def EngOp.waitsOn (o : EngOp) (f : Nat) : Bool :=
  let kid := o.children.elem f
  let up := !o.isRoot && f == o.parent
  (up && o.res.isNone) || (kid && (!o.metUp.elem f || (o.ckind != 3 && !o.sent)))

/-- A packet reaches its operation (R299, R301, R317). A header of one number is the notice that a rank is lost, an empty one that
the blocks disagree; one of seven is the word that they agree (DESIGN CHOICE, log entry 19). An all-gather's partial goes on to the parent
unchanged (DEDUCED, log entry 42). -/
def collTake (s : State) (o : EngOp) (m : ColMsg) : State :=
  let kid := o.children.elem m.frm
  let up := !o.isRoot && m.frm == o.parent
  if m.hdr == [26] && (kid || up) then (if o.waitsOn m.frm then s.modEng o.id fun o => { o with peerLost := true } else s)
  else if m.hdr == [] then s.modEng o.id fun o => { o with mismatch := true, knows := o.knows ++ [m.frm] }
  else if m.hdr == o.agree then
    if m.dir = 0 && kid then
      let s := s.modEng o.id fun o => { o with metUp := if o.metUp.elem m.frm then o.metUp else o.metUp ++ [m.frm] }
      if o.met then sendColl s o m.frm 1 0 [] o.agree else s
    else if m.dir = 1 && up then
      if o.met then s else o.children.foldl (fun s c => sendColl s o c 1 0 [] o.agree) (s.modEng o.id fun o => { o with met := true })
    else s.modEng o.id fun o => { o with mismatch := true }
  else if m.hdr != o.header then s.modEng o.id fun o => { o with mismatch := true }
  else if m.dir = 0 && kid && o.ckind != 3 then
    let s := s.modEng o.id fun o => { o with got := o.got ++ [m] }
    if o.ckind = 2 && !o.isRoot then sendColl s o o.parent 0 m.blk m.data o.header else s
  else if m.dir = 1 && up then s.modEng o.id fun o => { o with got := o.got ++ [m] }
  else s.modEng o.id fun o => { o with mismatch := true }

/-- The operation takes packets of its identifier. -/
def EngOp.open_ (o : EngOp) (die : Nat) : Bool := o.kind == 1 && o.accepted && o.status == 0 && o.endStep == 0 && dieOf o.core == die
def ColMsg.isFor (m : ColMsg) (o : EngOp) : Bool := o.open_ m.die && o.cid == m.cid

/-- Packets of other identifiers (R299): once every collective posted on the die has been accepted, one from a rank that an operation there
awaits is that operation's disagreement (DESIGN CHOICE, log entry 19). -/
def collStray (s : State) (die : Nat) : State :=
  if s.engOps.any fun o => o.kind == 1 && !o.accepted && o.status == 0 && dieOf o.core == die then s
  else
    s.inbox.foldl (fun s m =>
      if m.die ≠ die ∨ m.hdr = [26] then s
      else
        match s.engOps.find? fun o => o.open_ die && !o.met && o.cid != m.cid && o.waitsOn m.frm &&
            (o.children.elem m.frm || o.toldUp) with
        | none => s
        | some o =>
          { s with inbox := s.inbox.erase m }.modEng o.id fun o =>
            { o with mismatch := true, knows := if m.hdr.isEmpty then o.knows ++ [m.frm] else o.knows }) s

/-- A notice that comes after its operation has ended (DESIGN CHOICE, log entry 19): an operation that ended for the same reason takes it. -/
def State.lateNotice (s : State) (m : ColMsg) : Option EngOp :=
  if m.hdr == [26] then
    s.engOps.find? fun o => o.kind == 1 && dieOf o.core == m.die && (o.endStep != 0 || o.status != 0) && o.cid == m.cid && o.status != 1
  else if m.hdr == [] then
    s.engOps.find? fun o => o.kind == 1 && dieOf o.core == m.die && (o.status == 27 || o.ending == 27) && !o.knows.elem m.frm &&
      (o.children.elem m.frm || (!o.isRoot && o.parent == m.frm))
  else none

/-- A packet reaches its operation, or waits for the rank's post. -/
def collDeliver (s : State) (m : ColMsg) : State :=
  match s.engOps.find? fun o => m.isFor o with
  | some o => collTake s o m
  | none =>
    match s.lateNotice m with
    | some o => s.modEng o.id fun o => { o with knows := o.knows ++ [m.frm] }
    | none => collStray { s with inbox := s.inbox ++ [m] } m.die

/-- `COLLECTIVE_PACKET_ARRIVAL` (R311, R312, R317): a request of the origin device, answered, which reaches its operation once. -/
def execCollectivePacketArrival (msg : Sent) (die cid : Nat) (leg : TreeLeg) (blk : Nat) (data : Payload) (hdr : List Nat) (s : State) : Res :=
  let m : ColMsg := { die := die, cid := cid, frm := leg.frm, dir := leg.dir, blk := blk, data := data.bytes, hdr := hdr }
  let d := s.filters.get {} msg.org
  let s := if data.stomped then s else raiseFloor s msg.org msg.flr
  .next (if data.stomped || msg.seq < max d.flr msg.flr then s
    else if (AMap.find d.seen msg.seq).isSome then sendAnswer s msg.org s.kdev msg.seq true 0 []
    else collDeliver (sendAnswer (noteSeen s msg.org msg.seq 0 0) msg.org s.kdev msg.seq true 0 []) m)

/-- The stopped operation that a post of the same block goes on with (R293). -/
def State.keptOp (s : State) (o : EngOp) : Option EngOp :=
  (s.engOps.filter fun x => x.kind == 1 && x.accepted && (x.status == 10 || x.status == 11) && x.cid == o.cid && x.blk == o.blk && x.ctx == o.ctx &&
      dieOf x.core == dieOf o.core).getLast?

/-- A collective takes up what a stopped one has exchanged and formed (R293): unless it is a new operation whose neighbours have begun it anew
(DESIGN CHOICE, log entry 19). -/
def EngOp.resume (o : EngOp) (s : State) : EngOp :=
  match s.keptOp o with
  | none => o
  | some x =>
    if o.prog = 0 && s.inbox.any (fun m => m.isFor o && m.hdr == o.agree) then o
    else { o with res := x.res, blkFl := x.blkFl, met := x.met, metUp := x.metUp, toldUp := x.toldUp, sent := x.sent, got := x.got }

/-- A rank that cannot go on tells the ranks that wait on it (R299, R301). -/
def collTell (s : State) (o : EngOp) (hdr : List Nat) : State :=
  let skip (r : Nat) : Bool := hdr.isEmpty && o.knows.elem r
  let s := if o.isRoot || skip o.parent || (o.toldUp && (o.ckind == 3 || o.sent)) then s else sendColl s o o.parent 0 0 [] hdr
  if o.res.isSome then s else (o.children.filter fun c => !skip c).foldl (fun s c => sendColl s o c 1 0 [] hdr) s

/-- `ENGINE_ACCEPT` (R292): the block is read and checked, the bound entry and the tree entry with it, and the generator loaded
under SEEDLD (R298) (DEDUCED, log entry 43). A cancelled operation is read too: it writes its record and, on a tree, tells the ranks that wait on it
(R293, R301). -/
def execEngineAccept (k : Nat) (s : State) : Res :=
  .next (match s.engOps[k]? with
  | none => s
  | some o =>
    if o.accepted || o.status ≠ 0 || !s.engMayBegin o then s
    else
      match rdRange s (s.engAcc o) o.blk 128 with
      | (s, .page v) => engWaits s o.id v
      | (s, .hold) => s
      | (s, .status c) => engFinish s o (if o.gone then 25 else if c = 10 then 10 else 11)
      | (s, .ok b) =>
        let s := engUsed s o
        let w := wordsOf 16 b
        let prog := if o.kind = 0 then blkFld w 663 640 else blkFld w 415 384
        let fl := if o.kind = 0 then blkFld w 680 672 else blkFld w 432 424
        let o : EngOp :=
          { o with accepted := true, words := w, page := none, failed := false, prog := prog, peers := s.grants o.launch,
                   flags := if prog = 0 then 0 else BitVec.ofNat 64 fl,
                   scope := if o.kind = 0 then blkFld w 12 10 else blkFld w 31 29,
                   bnd := if o.kind = 0 ∧ blkFld w 14 14 = 1 then some ((s.launch o.launch).bnd.get {} (blkFld w 20 15)) else none,
                   tree := if o.kind = 1 then s.trees.get 0 (blkFld w 39 32) else 0 }
        let o := { o with banks := (s.sideBank o o.src, s.sideBank o o.dst) }
        let s := s.modEng o.id fun _ => o
        let bad := if o.kind = 0 then s.xferCheck o else s.collCheck o
        if o.gone then engEndRun 6 (engEnd (if o.kind = 1 && o.tree.getLsbD 5 then collTell s o [26] else s) o.id 25) o.id
        else if bad ≠ 0 then engEndRun 6 (engEnd s o.id bad) o.id
        else
          let seed := (s.group o.group).srseed
          if o.kind = 0 then
            let cl := clusterOf o.core
            if o.fd 13 13 = 1 then s.modCluster cl fun c => { c with genX := some (genLoad seed s.kdev 1 cl) } else s
          else
            let die := dieOf o.core
            let s := if o.fd 48 48 = 1 then s.modDie die fun d => { d with genC := some (genLoad seed s.kdev 3 die) } else s
            let o := o.resume s
            let s := s.modEng o.id fun _ => o
            let mine := s.inbox.filter fun m => m.isFor o
            let s : State := { s with inbox := s.inbox.filter fun m => !m.isFor o }
            collStray (mine.foldl (fun s m => match s.engOps.find? fun x => x.id == o.id with
              | some o => collTake s o m
              | none => s) s) die)

/-- An f32 code of an exact value, and its flags (R300, R104). -/
def intoF32 (x : XR) : Word × Nat := let c := rne fmtF32 x; (BitVec.ofNat 32 c.1, c.2 ||| (if x.isSig then fNV else 0))

/-- The unit of the result that events on an element of the source belong to, and those of a block that the tree carries (R118, R293). -/
def EngOp.unitOfSource (o : EngOp) (e : Nat) : Nat := ((if o.ckind = 2 then o.rank * o.count else 0) + e % o.count) / o.wlen
def EngOp.unitOfBlock (o : EngOp) (b : Nat) : Nat := if o.ckind = 1 then b % o.perPortion else (o.blockAt b).1 / o.wlen

/-- Adds the flags of a unit. -/
def addFl : Nat → List Nat → Nat → List Nat
  | 0, l, f => (l.headD 0 ||| f) :: l.drop 1
  | k + 1, l, f => l.headD 0 :: addFl k (l.drop 1) f

/-- The ranks meet before any access (R299, R302): a rank whose children's subtrees agree tells its parent, the root tells all. -/
def collMeet (s : State) (o : EngOp) : State :=
  if o.met || !o.children.all o.metUp.elem then s
  else if o.isRoot then o.children.foldl (fun s c => sendColl s o c 1 0 [] o.agree) (s.modEng o.id fun o => { o with met := true })
  else if o.toldUp then s
  else sendColl (s.modEng o.id fun o => { o with toldUp := true }) o o.parent 0 0 [] o.agree

/-- A rank's source, as it lies in memory: its elements and its bytes (R318). -/
def EngOp.inCount (o : EngOp) : Nat := if o.ckind = 1 then (o.nrank + 1) * o.count else o.count
def EngOp.inBytes (o : EngOp) : Nat := rowBytes o.csfmt o.wlen o.inCount (isMx o.csfmt)

/-- The rank reads a source: what a broadcast's other ranks need not, nor one that has its result. -/
def EngOp.hasSource (o : EngOp) : Bool := o.res.isNone && (o.ckind != 3 || o.isRoot)

/-- A rank reads its source (R300, R318), once its addresses are found good (R302, R421). -/
def collBegin (s : State) (o : EngOp) : State × UnitRes :=
  let done (s : State) (part : List Word) (fl : List Nat) : State × UnitRes :=
    ((engUsed s o).modEng o.id fun o => { o with began := true, part := part, blkFl := fl, page := none, failed := false }, .more)
  let n := if o.ckind = 2 then (o.nrank + 1) * o.count else o.count
  let pages := ((if o.hasSource then pageList (o.fd 127 64) o.inBytes else []).map fun p => (p, false)) ++
    (pageList (o.fd 191 128) (rowBytes o.cdfmt o.wlen n (isMx o.cdfmt))).map fun p => (p, true)
  match engMayReach pages s (s.engAcc o) with
  | (s, .status c) => (engUsed s o, .stop c)
  | (s, .ok _) =>
    if !o.hasSource then done s [] o.blkFl
    else
      match rdRange s (s.engAcc o) (o.fd 127 64) o.inBytes with
      | (s, .page v) => (engWaits s o.id v, .wait)
      | (s, .status c) => (engUsed s o, .stop (if c = 19 then 11 else c))
      | (s, .ok b) =>
        let xs := (decodeRow o.csfmt o.wlen o.inCount (isMx o.csfmt) b []).map intoF32
        done s (xs.map fun x => x.1) ((xs.zipIdx).foldl (fun l x => addFl (o.unitOfSource x.2) l x.1.2) o.blkFl)
      | (s, _) => (s, .wait)
  | (s, _) => (s, .wait)

/-- What rank `c` sent up for a block. -/
def EngOp.fromChild (o : EngOp) (c b : Nat) : Option ColMsg := o.got.find? fun m => m.frm == c && m.dir == 0 && m.blk == b

/-- The partials of every child that the node awaits have come. -/
def EngOp.upReady (o : EngOp) : Bool :=
  match o.ckind with
  | 3 => true
  | 2 => !o.isRoot || (List.range o.blocks).all fun b => b / o.perPortion == o.rank || o.got.any fun m => m.dir == 0 && m.blk == b
  | _ => o.children.all fun c => (List.range o.blocks).all fun b => (o.fromChild c b).isSome

/-- Values of a block on the wire. -/
def EngOp.unwire (o : EngOp) (n : Nat) (data : List Byte) : List Word :=
  (decodeRow o.wire o.wlen n (isMx o.wire) data []).map fun x => (intoF32 x).1

/-- One step of a reduction (R300): rounded by rne, or an exact maximum or minimum. R107 counts collective reductions among the chains that round
by odd before their last step; R300 rounds each addition of a node by rne_f32, and the model follows R300, which says how (DESIGN CHOICE, log entry
84). -/
def reduceOne (rop : Nat) (x y : Word) : Word × Nat :=
  let r := if rop = 0 then
      let a := decodeFp fmtF32 x.toNat
      let b := decodeFp fmtF32 y.toNat
      fpResult fmtF32 [a, b] (a.add b)
    else fpMinMax fmtF32 (rop == 1) x.toNat y.toNat
  (BitVec.ofNat 32 r.1, r.2)

/-- A block reduced at a node: its own partial, then each child in the order of the tree entry (R300). -/
def EngOp.blockSum (o : EngOp) (b : Nat) : List Word × Nat :=
  let (at_, n) := o.blockAt b
  o.children.foldl (fun acc c =>
    let ys := o.unwire n (match o.fromChild c b with
      | some m => m.data
      | none => [])
    let rs := List.zipWith (reduceOne o.rop) acc.1 ys
    (rs.map fun r => r.1, rs.foldl (fun f r => f ||| r.2) acc.2)) ((o.part.drop at_).take n, 0)

/-- The values of a block that the root rounds (R300, R318), and the flags of their sums. -/
def EngOp.blockTotal (o : EngOp) (b : Nat) : List Word × Nat :=
  let (at_, n) := o.blockAt b
  match o.ckind with
  | 3 => ((o.part.drop at_).take n, 0)
  | 2 =>
    if b / o.perPortion = o.rank then ((o.part.drop (b % o.perPortion * o.wlen)).take n, 0)
    else
      match o.got.find? fun m => m.dir == 0 && m.blk == b with
      | some m => (o.unwire n m.data, 0)
      | none => ([], 0)
  | _ => o.blockSum b

/-- The collective engine's generator (R114). -/
def State.collGen (s : State) (die : Nat) : UWord := (s.die die).genC.getD (genLoad 0 s.kdev 3 die)

/-- Byte offset of element `e` of a result stream. -/
def EngOp.resByte (o : EngOp) (e : Nat) : Nat := elemByte o.cdfmt o.wlen e (isMx o.cdfmt)
def EngOp.resBytes (o : EngOp) (n : Nat) : Nat := rowBytes o.cdfmt o.wlen n (isMx o.cdfmt)

/-- The result goes down to the children (R300, R317), block by block. -/
def sendDown (s : State) (o : EngOp) (res : List Byte) : State :=
  o.children.foldl (fun s c => (List.range o.blocks).foldl (fun s b =>
    let (at_, n) := o.blockAt b
    sendColl s o c 1 b ((res.drop (o.resByte at_)).take (o.resBytes n)) o.header) s) s

/-- The conversion fields of a collective (R299, R104). -/
def EngOp.ccvt (o : EngOp) : Cvt := { mode := o.fd 25 23, sat := o.fd 26 26 == 1, subst := o.fd 28 27, cvsub := o.cvsub.toNat }

/-- The result as the root forms it: bytes, flags of each unit, generator and lines. -/
structure RootOut where
  bytes : List Byte := []
  fl : List Nat
  gen : UWord
  lines : Lines

/-- The root rounds the result block by block (R300). Under sr its lines are those of the whole result laid from its own DADDR, the parts that
other ranks write included (R112; DESIGN CHOICE, log entry 10). -/
def rootResult (s : State) (o : EngOp) : RootOut :=
  (List.range o.blocks).foldl (fun a b =>
    let t := o.blockTotal b
    let out := encodeRow o.cdfmt o.wlen (isMx o.cdfmt) o.ccvt a.gen a.lines (o.fd 191 128 + o.resByte (o.blockAt b).1)
      (t.1.map fun w => decodeFp fmtF32 w.toNat)
    { bytes := a.bytes ++ out.bytes, fl := addFl (o.unitOfBlock b) a.fl (t.2 ||| out.fl), gen := out.gen, lines := out.lines })
    { fl := o.blkFl, gen := s.collGen (dieOf o.core), lines := o.lines }

/-- The up phase: the root forms the result, another rank sends its partials to its parent (R300), quantised under its block's substitute (R104). -/
def collUp (s : State) (o : EngOp) : State :=
  if o.sent || o.res.isSome || !o.upReady then s
  else if o.isRoot then
    let out := rootResult s o
    let s := if o.ccvt.mode = 6 then s.modDie (dieOf o.core) fun d => { d with genC := some out.gen } else s
    sendDown (s.modEng o.id fun o => { o with sent := true, res := some out.bytes, blkFl := out.fl }) o out.bytes
  else if o.ckind = 3 then s.modEng o.id fun o => { o with sent := true }
  else
    let cv : Cvt := { subst := o.ccvt.subst, cvsub := o.ccvt.cvsub }
    let mine := (List.range o.blocks).filter fun b => o.ckind != 2 || b / o.perPortion == o.rank
    let (s, fl) := mine.foldl (fun (acc : State × List Nat) b =>
      let v := if o.ckind = 2 then ((o.part.drop (b % o.perPortion * o.wlen)).take (o.blockAt b).2, 0) else o.blockSum b
      let out := encodeRow o.wire o.wlen (isMx o.wire) cv 0 [] 0 (v.1.map fun w => decodeFp fmtF32 w.toNat)
      (sendColl acc.1 o o.parent 0 b out.bytes o.header, addFl (o.unitOfBlock b) acc.2 (v.2 ||| out.fl))) (s, o.blkFl)
    s.modEng o.id fun o => { o with sent := true, blkFl := fl }

/-- The down phase: a rank whose parent has sent the whole result keeps it and passes it on. -/
def collDown (s : State) (o : EngOp) : State :=
  let of (b : Nat) : Option ColMsg := o.got.find? fun m => m.dir == 1 && m.blk == b
  if o.res.isSome || o.isRoot || !o.sent || !(List.range o.blocks).all (fun b => (of b).isSome) then s
  else
    let res := (List.range o.blocks).flatMap fun b => match of b with
      | some m => m.data
      | none => []
    sendDown (s.modEng o.id fun o => { o with res := some res }) o res

/-- Elements of the result that the rank writes, and their bytes (R318). A rank cuts the root's bytes by its own DFMT, which the ranks need not agree on
(R299; DESIGN CHOICE, log entry 100). -/
def EngOp.outCount (o : EngOp) : Nat := if o.ckind = 2 then (o.nrank + 1) * o.count else o.count
def EngOp.outBytes (o : EngOp) (res : List Byte) : List Byte :=
  if o.ckind = 1 then (res.drop (o.resByte (o.rank * o.count))).take (o.resBytes o.count) else res

/-- Writes the wire blocks of the result from PROG on (R293). -/
def collUnits : Nat → State → Nat → State × UnitRes
  | 0, s, _ => (s, .more)
  | k + 1, s, id =>
    match s.engOps.find? fun o => o.id == id with
    | none => (s, .wait)
    | some o =>
      match o.res with
      | none => (s, .wait)
      | some res =>
        let e := o.prog * o.wlen
        if o.outCount ≤ e then (s, .more)
        else
          let n := min o.wlen (o.outCount - e)
          match placeRange s (s.engAcc o) (o.fd 191 128 + o.resByte e) (((o.outBytes res).drop (o.resByte e)).take (o.resBytes n)) with
          | (s, .inl (.page v)) => (engWaits s id v, .wait)
          | (s, .inl (.status c)) => (s, .stop (if c = 19 then 11 else c))
          | (s, .inl _) => (s, .wait)
          | (s, .inr l) =>
            collUnits k (s.modEng id fun o =>
              { o.didUnit (o.blkFl.getD o.prog 0) with out := (l.map fun x => { x with unit := o.prog }).foldl addLine o.out }) id

/-- The operation as it stands. -/
def State.engById (s : State) (id : Nat) (d : EngOp) : EngOp := (s.engOps.find? fun o => o.id == id).getD d

/-- A collective runs as far as it can (R299 to R301): the ranks meet, the rank reads its source, sends its partials when its children's have come,
and writes the result when it has it; then it begins to end. -/
def collRun (s : State) (o : EngOp) : State :=
  if o.gone then engEnd (collTell s o [26]) o.id 25
  else if o.mismatch then engEnd (collTell s o []) o.id 27
  else if o.peerLost then engEnd (collTell s o [26]) o.id 26
  else if o.refused then engEnd s o.id 11
  else
    let s := collMeet s o
    let o := s.engById o.id o
    if !o.met then s
    else
      match (if o.began then (s, UnitRes.more) else collBegin s o) with
      | (s, .stop c) => engEnd s o.id c
      | (s, .wait) => s
      | (s, .more) =>
        let s := collUp s (s.engById o.id o)
        let s := collDown s (s.engById o.id o)
        match collUnits (o.outCount + 1) s o.id with
        | (s, .stop c) => engEnd s o.id c
        | (s, .wait) => s
        | (s, .more) => engEnd s o.id 1

/-- `COLLECTIVE_COMPLETE` (R299 to R301): the collective runs as far as it can and, at its end, or where it stops, completes. -/
def execCollectiveComplete (k : Nat) (s : State) : Res :=
  .next (match s.engOps[k]? with
  | none => s
  | some o =>
    if o.kind ≠ 1 || !o.accepted || o.status ≠ 0 then s
    else engEndRun 6 (if o.endStep = 0 then collRun s o else s) o.id)

end Sys2Proof.Machine
end

