-- ==== Sys2Proof/Machine/MatrixEngine.lean ====
section
/-! DEFINITION. The matrix engine's events before a drain: acceptance (R191, R198), the reservation arbiter and the power
tokens (R351, R352), feeds (R201, R202), passes (R165 to R168, R176), loads, zeros, restores and fixes. -/

namespace Sys2Proof.Machine

/-- An exact sum (R94, R133): of zeros that are all negative it is −0; of nothing, +0. -/
def exactSum (l : List XR) : XR :=
  match l with
  | [] => .fin false 0 0
  | x :: r => r.foldl XR.add x

/-- Sums of sixteen values taken exactly, each rounded to the wide intermediate (R165). -/
def groupSums : Nat → List XR → List XR
  | 0, _ => []
  | k + 1, l => odd (exactSum (l.take 16)) :: groupSums k (l.drop 16)

/-- One level of a binary tree, rounded at each node (R165, R177). -/
def binLevel : List XR → List XR
  | a :: b :: r => odd (a.add b) :: binLevel r
  | l => l

/-- The root of a binary tree of `k` levels. -/
def binTree : Nat → List XR → XR
  | 0, l => l.headD (.fin false 0 0)
  | k + 1, l => binTree k (binLevel l)

/-- The sum in the order of R165: 32 groups of sixteen, then five levels. -/
def treeSum (l : List XR) : XR := binTree 5 (groupSums 32 l)

/-- Products of two rows. -/
def products (a b : List XR) : List XR := List.zipWith XR.mul a b

/-- An integer value as an integer. -/
def XR.toInt (x : XR) : Int :=
  match x with
  | .fin n m e => dyInt n (m / 2 ^ (-e).toNat) (max e 0) 0
  | _ => 0

/-- The static status of an operation's fields (R189, R198, R210), lowest code first; 0 when all hold. The reserved bits beside the retry
record are a drain's (DESIGN CHOICE, log entry 71). -/
def MxOp.fields (o : MxOp) : Nat :=
  let w := o.words
  let z (hi lo : Nat) : Bool := blkFld w hi lo != 0
  let first (f s t a : Bool) : Nat := if f then 16 else if s then 17 else if t then 18 else if a then 19 else 0
  match o.kind with
  | 0 =>
    let m := o.m
    let k := o.k
    first (z 31 27 || z 63 39)
      (m < 4 || 256 < m || m % 4 != 0 || 256 < o.row0 + m || k < 16 || 512 < k || k % 16 != 0 ||
        (isMx o.afmt && k % bszOf o.absz != 0))
      (14 ≤ o.afmt) (blkFld w 127 64 % 4096 != 0)
  | 1 =>
    let kb := blkFld w 207 198
    let fmt := blkFld w 195 192
    first (z 255 208) (kb < 16 || 512 < kb || kb % 16 != 0 || (isMx fmt && kb % bszOf (blkFld w 197 196) != 0))
      (14 ≤ fmt) (blkFld w 191 128 % 128 != 0)
  | 3 =>
    let fmt := blkFld w 419 416
    let dm := blkFld w 464 456
    let dn := blkFld w 474 465
    let bsz := bszOf (blkFld w 427 426)
    let packed := blkFld w 428 428 == 1
    first (z 447 441 || z 511 475 || z 575 518 || blkFld w 422 420 == 7 || (packed && !isMx fmt) ||
        (z 415 352 && (packed || !isMx fmt)))
      (dm == 0 || 256 < dm || 256 < blkFld w 455 448 + dm || dn == 0 || 512 < dn || (isMx fmt && dn % bsz != 0) ||
        (fmt == 7 && dn % 2 != 0))
      (14 ≤ fmt)
      (blkFld w 319 256 % 16 != 0 || blkFld w 351 320 % 16 != 0 || blkFld w 351 320 < rowBytes fmt bsz dn packed)
  | 4 => 0
  | 5 => if 4 ≤ o.blk then 16 else 0
  | 6 => if 4 ≤ o.blk then 16 else 0
  | _ => 0

/-- Destination formats by tile kind (R173). -/
def destOk (int : Bool) (fmt : Nat) : Bool := if int then fmt == 0 || isIntFmt fmt else fmt ≤ 4 || isMx fmt

/-- The pass makes an i32 tile (R167). -/
def BTile.int (b : BTile) : Bool := isIntFmt b.fmt

/-- The status that an operation's checks give when it would begin (R198, R199): 0 when it may (DEDUCED, log entry 31). -/
def State.opCheck (s : State) (cl : Nat) (o : MxOp) : Nat :=
  let ti := s.tile cl o.tile
  let badBnd := o.kind = 3 && (match o.bnd with
    | some b => bndBad b ti.isInt
    | none => false)
  let badFmt := match o.kind with
    | 0 => (s.mx cl).b.any fun (b : BTile) => (s.mset cl o.set).loaded && isIntFmt o.afmt != b.int
    | 3 => !destOk ti.isInt (blkFld o.words 419 416)
    | _ => false
  if o.doomed then 9
  else if o.outcome = 10 ∨ o.outcome = 11 then o.outcome
  else if o.fields = 16 || badBnd then 16
  else if o.fields = 17 || o.fields = 18 then o.fields
  else if badFmt then 18
  else if o.fields ≠ 0 then o.fields
  else
    let busy := match ti.stopped with
      | some (b, _) => ti.st == .checking && !(o.kind == 3 && o.blk == b)
      | none => false
    match o.kind with
    | 0 =>
      match (s.mx cl).b with
      | none => 22
      | some b =>
        if !(s.mset cl o.set).loaded then 22
        else if o.k ≠ b.kb then 17
        else if o.outcome = 20 then 20
        else if busy || ti.st == .held then 21
        else if ti.st == .accumulating && (ti.afmt != o.afmt || ti.isInt != b.int) then 23
        else 0
    | 1 => 0
    | 4 => if o.outcome = 20 then 20 else if busy || ti.st != .held || ti.outcome != 5 || ti.openBlk != o.blk then 21 else 0
    | 5 => if o.outcome = 20 then 20 else if busy || ti.st != .held || ti.outcome != 4 then 21 else 0
    | 6 => if o.outcome = 20 then 20 else if busy || ti.st != .held || ti.outcome != 4 then 21 else 0
    | _ => if o.outcome = 20 then 20 else if busy then 21 else 0

/-- The kind that a completed operation keeps beside its status. -/
def MxOp.doneKind (o : MxOp) : Nat := if o.kind = 0 then 0 else if o.kind = 3 then 2 + blkFld o.words 440 438 else 1

/-- An operation completes (R187, R209): its entry is freed, its status kept among the set's 64 that completed last (DESIGN CHOICE, log entry 98), its
post uncounted, and a bow slot given anew. -/
def finishOp (s : State) (cl : Nat) (o : MxOp) (status : Nat) (flags : UWord) : State :=
  let s := s.modMx cl fun mx => { mx with resv := mx.resv.filter fun x => x.id != o.id }
  let s := s.modSet cl o.set fun st => { st with done := ((o.seq, status, o.doneKind, flags) :: st.done).take 64 }
  let s := if o.kind = 0 then s.modMx cl fun mx =>
      { mx with feeds := mx.feeds.filter (fun f => !(f.set == o.set && f.seq == o.seq)),
                fetches := mx.fetches.filter (fun f => !(f.set == o.set && f.seq == o.seq)) }
    else s
  let s := (qcntAdd s o.group o.queue false).modMx cl Matrix.giveBow
  sweepSet (settleReads s cl) cl o.set

def State.modOp (s : State) (cl id : Nat) (f : MxOp → MxOp) : State :=
  s.modMx cl fun mx => { mx with resv := mx.resv.map fun o => if o.id = id then f o else o }

/-- The engine's accesses for an operation, in a context. -/
def State.mxAcc (s : State) (cl : Nat) (o : MxOp) (ctx : Nat) : EngAcc :=
  let a := clusterAcc s cl o.group ctx (mxCode cl o.id) o.failed
  if o.accepted then { a with granted := o.peers } else a

/-- An operation has used the lines it read from the host and from other devices. -/
def mxUsed (s : State) (cl id : Nat) : State := dropAnswers s (.op (mxCode cl id))

/-- An operation's status is final (R187, R307): it completes once its writes are acknowledged. -/
def closeOp (s : State) (cl : Nat) (o : MxOp) (status : Nat) (flags : UWord) : State :=
  let s := (mxUsed s cl o.id).modOp cl o.id fun o => { o with granted := false, closing := some (status, flags), page := none, failed := false }
  if s.unacked (mxCode cl o.id) then s else finishOp s cl o status flags

/-- Operations whose last acknowledgement has come complete. -/
def closeOps (s : State) (cl : Nat) : State :=
  (s.mx cl).resv.foldl (fun s o => match o.closing with
    | some (st, fl) => if s.unacked (mxCode cl o.id) then s else finishOp s cl o st fl
    | none => s) s

/-- An operation awaits a page request (R191, R471). -/
def opWaits (s : State) (cl id vpn : Nat) : State := s.modOp cl id fun o => { o with page := some vpn }

/-- Where an operation's status lies in its block, and the bytes that it writes there (R189, R209). -/
def MxOp.report (o : MxOp) (status : Nat) : Nat × List Byte :=
  match o.kind with
  | 0 => (88, [BitVec.ofNat 8 status, BitVec.ofNat 8 (bit01 o.sconf + 2 * bit01 o.fdup)])
  | 1 => (96, [BitVec.ofNat 8 status])
  | 3 => (104, [BitVec.ofNat 8 status])
  | _ => (0, [])

/-- The engine writes bytes of an operation's block in the poster's context, then goes on with `k` (R191, R208). A line that the host holds
and a page request keep the operation at this point; `k` learns whether the write failed for good. -/
def blkPut (s : State) (cl : Nat) (o : MxOp) (ctx va : Nat) (bs : List Byte) (k : State → Bool → State) : State :=
  match wrRange s (s.mxAcc cl o ctx) va bs with
  | (s, .ok _) => k s true
  | (s, .page v) => opWaits s cl o.id v
  | (s, .hold) => s
  | (s, .status _) => k s false

/-- Completes an operation (R189, R209): its status reaches its block, `f` gives the tile or the trellis its new state, and the set
learns the status. A status that can never be written reaches the set alone (DEDUCED, log entry 72). -/
def endWith (s : State) (cl : Nat) (o : MxOp) (status : Nat) (f : State → State) : State :=
  blkPut s cl o o.ctx (o.blk + (o.report status).1) (o.report status).2 fun s _ => closeOp (f s) cl o status 0

/-- Completes an operation that changes nothing else. -/
def endOp (s : State) (cl : Nat) (o : MxOp) (status : Nat) : State := endWith s cl o status id

/-- An operation has met an access that failed for good: its block's own page is asked for anew (R471). -/
def beginsEnd (s : State) (cl : Nat) (o : MxOp) (status : Nat) : State × MxOp :=
  (s.modOp cl o.id fun o => { o with ends := some status, page := none, failed := false }, { o with ends := some status, page := none, failed := false })

/-- Completes an operation that an access has stopped and that changes nothing else (R471). -/
def stopOp (s : State) (cl : Nat) (o : MxOp) (status : Nat) : State :=
  let (s, o) := beginsEnd s cl o status
  endOp s cl o status

/-- The engine accepts the `k`-th entry (R191): its block is read, the tile named, ownership taken (R198), a pass given its bow slot (R351)
(DEDUCED, log entry 34). -/
def execMatrixAccept (cl k : Nat) (s : State) : Res :=
  .next (match (s.mx cl).resv[k]? with
  | none => s
  | some o =>
    if o.accepted || o.closing.isSome then s
    else
      let take (s : State) (o : MxOp) (t : Nat) (words : List UWord) : State :=
        let own := (s.tile cl t).owner
        let names := o.kind != 1
        let other := names && own.isSome && own != some o.set
        let prio := (s.launch (s.teamOf (s.group o.group)).launch).e.prio
        let g := s.group ((s.mset cl o.set).members.find ((s.mset cl o.set).elected.getD 0) |>.getD o.group)
        let o' : MxOp := { o with words := words }
        let f := blkFld words 35 32
        let tol := g.mxtol.get (mxtolReset f) f
        let bnd := if o.kind = 3 ∧ blkFld words 431 431 = 1 then
            some ((s.launchOf (s.group o.group)).bnd.get {} (blkFld words 437 432)) else none
        let s := if names && own.isNone then s.modTile cl t fun x => { x with owner := some o.set } else s
        let s := (mxUsed s cl o.id).modOp cl o.id fun _ =>
          { o' with accepted := true, peers := s.grants (s.teamOf (s.group o.group)).launch, tile := t, prio := prio, born := s.stamp, since := s.clock,
                    bnd := bnd, page := none, failed := false, tolRel := fld tol 15 0, tolAbs := sx 9 (fld tol 24 16),
                    outcome := if other then 20 else 0 }
        (settleReads (s.modMx cl Matrix.giveBow) cl).tick
      if o.doomed then endOp s cl o 9
      else if o.kind = 2 || o.kind = 5 || o.kind = 6 then take s o o.tile []
      else
        match rdRange s (s.mxAcc cl o o.ctx) o.blk 256 with
        | (s, .ok b) => take s o (blkFld (wordsOf 32 b) 1 0) (wordsOf 32 b)
        | (s, .page v) => opWaits s cl o.id v
        | (s, .hold) => s
        | (s, .status c) => finishOp (mxUsed s cl o.id) cl o (if c = 10 then 10 else 11) 0)

/-- Cycles that a row-group takes, by A format (R159). -/
def rowCycles (fmt : Nat) : Nat :=
  match fmt with
  | 7 => 4 | 12 => 4 | 10 => 6 | 11 => 6 | 1 => 16 | 2 => 16 | 0 => 64 | _ => 8
def MxOp.cycles (o : MxOp) : Nat := o.m / 4 * rowCycles o.afmt

/-- Every member has fed a row (R162). -/
def rowFed (mx : Matrix) (o : MxOp) (row : Nat) : Bool :=
  let c := (mx.sets.get {} o.set).count
  (List.range c).all fun j =>
    (memberGroups o.k c j).isEmpty || mx.feeds.any fun f => f.set == o.set && f.seq == o.seq && f.row == row && f.member == j

/-- A row-group is complete in the bow (R162). -/
def groupFed (mx : Matrix) (o : MxOp) (q : Nat) : Bool := (List.range 4).all fun r => rowFed mx o (4 * q + r)

/-- The unit of an operation (R351): 0 the stream unit, 1 the tile unit. -/
def MxOp.unit (o : MxOp) : Nat := if o.kind ≤ 1 then 0 else 1

/-- An earlier operation of a set holds a later one back (R164, R187, R258, R351): it must have completed, but for a drain and a pass of two
tiles, which may overlap once the earlier one is accepted and awaits no page (DEDUCED, log entry 73). -/
def MxOp.before (x o : MxOp) : Bool :=
  !(x.accepted && !(x.page.isSome && !x.failed) && x.tile != o.tile && ((x.kind == 0 && o.kind == 3) || (x.kind == 3 && o.kind == 0)))

/-- An entry is eligible (R351, R290, R164). -/
def State.eligible (s : State) (cl : Nat) (o : MxOp) : Bool :=
  let mx := s.mx cl
  let before := mx.resv.filter fun x => x.set == o.set && x.id < o.id
  o.accepted && !o.granted && o.closing.isNone &&
  !((o :: before).any fun x => !x.granted && x.behind.any s.codePending) &&
  !(before.any fun x => x.before o) &&
  (o.kind != 0 || s.opCheck cl o != 0 || groupFed mx o 0)

/-- The entry that a free unit takes next (R351): highest priority, then earliest acceptance. -/
def State.best (s : State) (cl unit : Nat) : Option MxOp :=
  let mx := s.mx cl
  if mx.resv.any fun o => o.granted && o.unit == unit then none
  else
    (mx.resv.filter fun o => o.unit == unit && s.eligible cl o).foldl (fun acc o => match acc with
      | none => some o
      | some x => if x.prio < o.prio || (x.prio == o.prio && o.born < x.born) then some o else some x) none

/-- The pass has room in the running burst (R351, R352). -/
def burstRoom (mx : Matrix) (o : MxOp) : Bool := mx.burst.any fun n => o.cycles ≤ n

/-- A pass waits for a burst (R352). -/
def State.wantsToken (s : State) (cl : Nat) : Bool :=
  match s.best cl 0 with
  | some o => o.kind == 0 && s.opCheck cl o == 0 && !burstRoom (s.mx cl) o
  | none => false

/-- `RESERVATION_AGING` (R351): every 8,192 cycles that an entry has waited raise its priority by one, to 3 at most. -/
def execReservationAging (cl k : Nat) (s : State) : Res :=
  .next (match (s.mx cl).resv[k]? with
  | none => s
  | some o =>
    if !o.accepted || o.granted || s.clock < o.since + 8192 then s
    else s.modOp cl o.id fun o => { o with prio := min 3 (o.prio + 1), since := o.since + 8192 })

/-- The words of a tile in row order, as bytes (R170, R182). -/
def Tile.image (t : Tile) : List Byte :=
  (List.range (256 * 512)).flatMap fun i => natBytes 4 (t.el.get 0 i).toNat

/-- The elements that an image holds. -/
def tileOfImage (b : List Byte) : AMap Word :=
  (wordsOf 65536 b).zipIdx.foldl (fun (m : AMap Word) p =>
    let lo := p.1.toNat % 2 ^ 32
    let hi := p.1.toNat / 2 ^ 32
    let m := if lo = 0 then m else m ++ [(2 * p.2, BitVec.ofNat 32 lo)]
    if hi = 0 then m else m ++ [(2 * p.2 + 1, BitVec.ofNat 32 hi)]) []

/-- Bytes of a B tile image (R193): its elements and its scales. -/
def imageBytes (w : List UWord) : Nat :=
  let fmt := blkFld w 195 192
  let kb := blkFld w 207 198
  let nb := if fmt = 0 then 256 else 512
  nb * (kb * fmtBits fmt / 8) + (if isMx fmt then nb * (kb / bszOf (blkFld w 197 196)) else 0)

/-- The memory that an operation reads or writes besides its block: an address, bytes and whether it writes them (R170, R181, R190, R193). -/
def State.mxRanges (s : State) (cl : Nat) (o : MxOp) : List (Nat × Nat × Bool) :=
  let t := s.tile cl o.tile
  match o.kind with
  | 0 => if t.st == .kept then [(blkFld o.words 127 64, 524288, true)] else []
  | 1 => [(blkFld o.words 191 128, imageBytes o.words, false)]
  | 3 =>
    let dn := blkFld o.words 474 465
    let fmt := blkFld o.words 419 416
    let bsz := bszOf (blkFld o.words 427 426)
    let packed := blkFld o.words 428 428 == 1
    (List.range (blkFld o.words 464 456)).flatMap fun i =>
      [(blkFld o.words 319 256 + i * blkFld o.words 351 320, rowBytes fmt bsz dn packed, true),
       (blkFld o.words 415 352 + i * (dn / bsz), if isMx fmt && !packed then dn / bsz else 0, true)]
  | 4 => if t.ckptZero then [] else [(t.save, 524288, false)]
  | _ => []

/-- An operation's memory reaches no device that it is not granted, as far as it translates now (R421): else BADADDR before any access. -/
def mxMayReach (s : State) (cl : Nat) (o : MxOp) : State × EngRes :=
  engMayReach ((s.mxRanges cl o).flatMap fun r => (pageList r.1 r.2.1).map fun p => (p, r.2.2)) s (s.mxAcc cl o o.ctx)

/-- A unit grants its entry (R351): what fails its checks completes (R198); a pass needs room in a burst; an opening from Kept
writes the checkpoint image first (R170); a drain's tile is then Checking, and a Held one stays what it was before the drain that left it Held (R175, R208). -/
def execReservationGrant (cl unit : Nat) (s : State) : Res :=
  .next (match s.best cl unit with
  | none => s
  | some o =>
    let st := o.ends.getD (s.opCheck cl o)
    if st ≠ 0 then endOp s cl o st
    else if o.kind = 0 && !burstRoom (s.mx cl) o then s
    else
      match mxMayReach s cl o with
      | (s, .status c) => endOp s cl o c
      | (s, .page _) => s
      | (s, .hold) => s
      | (s, .ok _) =>
      let grant (s : State) : State := s.modOp cl o.id fun o => { o with granted := true, page := none, failed := false }
      match o.kind with
      | 0 =>
        if (s.tile cl o.tile).st == .kept then
          match wrRange s (s.mxAcc cl o o.ctx) (blkFld o.words 127 64) (s.tile cl o.tile).image with
          | (s, .ok _) => grant s
          | (s, .page v) => opWaits s cl o.id v
          | (s, .hold) => s
          | (s, .status c) => stopOp s cl o (if c = 10 then 10 else 11)
        else grant s
      | 3 => (grant s).modTile cl o.tile fun t =>
        if t.stopped.isSome then t
        else
          match t.st with
          | .zeroed => { t with st := .checking, was := 0 }
          | .held => { t with st := .checking }
          | .kept => { t with st := .checking, was := 2, er := t.keptR, ec := t.keptC }
          | _ => { t with st := .checking, was := 1 }
      | _ => grant s)

/-- A cluster takes a free token that passes it (R352). -/
def execTokenTake (cl : Nat) (s : State) : Res :=
  let d := cl / 24
  let mx := s.mx cl
  .next (if mx.token || !(s.die d).ring.elem (cl % 24) || !s.wantsToken cl || (mx.relCycle ≠ 0 && s.clock < mx.relCycle + 24) then s
    else (s.modMx cl fun mx => { mx with token := true }).modDie d fun k => { k with ring := k.ring.erase (cl % 24) })

/-- A burst starts once MINGAP has passed (R352). -/
def execBurstStart (cl : Nat) (s : State) : Res :=
  let d := s.die (cl / 24)
  let mx := s.mx cl
  let gap := match d.lastBurst with
    | some c => c + d.mingap ≤ s.clock
    | none => true
  .next (if !mx.token || mx.burst.isSome || !gap then s
    else (s.modMx cl fun mx => { mx with burst := some 4096 }).modDie (cl / 24) fun k => { k with lastBurst := some s.clock })

/-- Cycles that a pass has still to stream (R159). -/
def MxOp.left (o : MxOp) : Nat := (o.m / 4 - o.streamed) * rowCycles o.afmt

/-- The burst has lasted its 4,096 cycles, or no granted or eligible pass fits what is left of it (R352). A token that awaits the gap is held. -/
def State.burstOver (s : State) (cl : Nat) : Bool :=
  let mx := s.mx cl
  match mx.burst with
  | none => false
  | some n => n = 0 || !(mx.resv.any fun o => o.kind == 0 && (o.granted || s.eligible cl o) && o.left ≤ n)

/-- A burst ends and its token is released downstream, or retired (R352). -/
def execBurstEnd (cl : Nat) (s : State) : Res :=
  .next (if !(s.mx cl).token || !s.burstOver cl then s
    else
      (s.modMx cl fun mx => { mx with token := false, burst := none, relCycle := s.clock }).modDie (cl / 24) fun d =>
        if d.retire = 0 then { d with ring := d.ring ++ [(cl + 1) % 24] } else { d with retire := d.retire - 1 })

/-- A feed's bytes reach the bow (R201, R202): before its row-group has streamed they replace those of an earlier feed; after, or behind a later one,
they are discarded. -/
def execFeedFetchLands (cl k : Nat) (s : State) : Res :=
  .next (match (s.mx cl).fetches[k]? with
  | none => s
  | some f =>
    let who : Reader := .feed cl f.no
    let acc := { clusterAcc s cl f.group f.ctx 0 true with who := who, code := 0, core := (s.group f.group).core, granted := List.range 32 }
    let done (s : State) : State := dropAnswers (s.modMx cl fun mx => { mx with fetches := mx.fetches.erase f }) who
    match engReadAt s acc f.tgt f.nbytes with
    | (s, .hold) => s
    | (s, .page _) => done s
    | (s, r) =>
      match (if f.nscales = 0 then (s, EngRes.ok []) else engReadAt s acc f.stgt f.nscales) with
      | (s, .hold) => s
      | (s, .page _) => done s
      | (s, r2) =>
        let s := done s
        match (s.mx cl).resv.find? fun o => o.set == f.set && o.seq == f.seq && o.kind == 0 with
        | none => s
        | some o =>
          let late := f.row / 4 < o.streamed
          let same (x : Feed) : Bool := x.set == f.set && x.seq == f.seq && x.row == f.row && x.member == f.member
          let again := (s.mx cl).feeds.any same
          let behind := (s.mx cl).feeds.any fun x => same x && f.no < x.no
          let bytes (r : EngRes) : List Byte := match r with
            | .ok b => b
            | _ => []
          let bad (r : EngRes) (c : Nat) : Bool := r == .status c
          let s := s.modOp cl o.id fun o =>
            { o with fdup := o.fdup || late || again,
                     poisoned := o.poisoned || (!late && (bad r 10 || bad r2 10)),
                     outcome := if !late && (bad r 11 || bad r2 11 || bad r 19 || bad r2 19) then 11 else o.outcome }
          if late || behind then s
          else s.modMx cl fun mx => { mx with feeds := (mx.feeds.filter fun x => !same x) ++
              [{ set := f.set, seq := f.seq, row := f.row, member := f.member, bytes := bytes r, scales := bytes r2, no := f.no }] })

/-- Scale codes of a row's K-groups as their members fed them (R163). -/
def fedScale (mx : Matrix) (o : MxOp) (row g : Nat) : Nat :=
  let c := (mx.sets.get {} o.set).count
  match mx.feeds.find? fun f => f.set == o.set && f.seq == o.seq && f.row == row && f.member == g % c with
  | some f => (f.scales.getD (g / c) 0).toNat
  | none => 0

/-- The K-group whose scale serves a block (R163). -/
def blockHead (o : MxOp) (g : Nat) : Nat := g / (bszOf o.absz / 16) * (bszOf o.absz / 16)

/-- A scale conflict in a row (R163): also between two groups of one member (DESIGN CHOICE, log entry 70). -/
def rowConflict (mx : Matrix) (o : MxOp) (row : Nat) : Bool :=
  isMx o.afmt && (List.range (o.k / 16)).any fun g => fedScale mx o row g != fedScale mx o row (blockHead o g)

/-- A' of one row of a pass (R162, R176): its K elements with their scales. -/
def passRow (mx : Matrix) (o : MxOp) (row : Nat) : List XR :=
  let c := (mx.sets.get {} o.set).count
  let ew := fmtBits o.afmt
  (List.range o.k).map fun k =>
    let g := k / 16
    let code := match mx.feeds.find? fun f => f.set == o.set && f.seq == o.seq && f.row == row && f.member == g % c with
      | some f => streamElem ew (bytesNat ((f.bytes.drop (g / c * 2 * ew)).take (2 * ew))) (k % 16)
      | none => 0
    if isMx o.afmt then mxValue o.afmt code (fedScale mx o row (blockHead o g)) else decodeFmt (fmtOf o.afmt) code

/-- Columns of a B tile (R156). -/
def BTile.nb (b : BTile) : Nat := if b.fmt = 0 then 256 else 512

/-- B' of one column. -/
def BTile.col (b : BTile) (j : Nat) : List XR :=
  (List.range b.kb).map fun k =>
    let code := b.el.get 0 (512 * j + k)
    if isMx b.fmt then mxValue b.fmt code (b.sc.get 0 (32 * j + k / bszOf b.bsz)) else decodeFmt (fmtOf b.fmt) code

/-- The next row-group of the granted pass streams, when it is complete (R162, R159). -/
def execRowGroupStream (cl : Nat) (s : State) : Res :=
  let mx := s.mx cl
  .next (match mx.resv.find? fun o => o.kind == 0 && o.granted with
  | none => s
  | some o =>
    if o.m ≤ 4 * o.streamed || !groupFed mx o o.streamed then s
    else
      let conf := (List.range 4).any fun r => rowConflict mx o (4 * o.streamed + r)
      (s.modOp cl o.id fun o => { o with streamed := o.streamed + 1, sconf := o.sconf || conf }).modMx cl fun mx =>
        { mx.giveBow with burst := mx.burst.map fun n => n - rowCycles o.afmt })

/-- One accumulation (R165 to R167): the new element, its flags, and whether it clamped. -/
def accumulate (int sat : Bool) (old : Word) (p : XR) : Word × Nat × Bool :=
  if int then
    let v := sx 32 old.toNat + p.toInt
    if sat && (v < -(2 ^ 31 : Nat) || (2 ^ 31 : Nat) ≤ v) then
      (if v < 0 then 0x80000000#32 else 0x7FFFFFFF#32, 0, true)
    else (BitVec.ofNat 32 (wrap 32 v), 0, false)
  else
    let a := decodeFp fmtF32 old.toNat
    let r := a.add p
    match r with
    | .nan _ _ => (BitVec.ofNat 32 fmtF32.nanCode, if p.isNan || !a.isNan then fNV else 0, false)
    | _ => let c := rne fmtF32 r; (BitVec.ofNat 32 c.1, c.2, false)

/-- Sums of a tile's elements as the check forms them (R177, R179): rows, then columns, over `nb` columns. -/
def Tile.val (t : Tile) (i j : Nat) : XR :=
  let w := t.el.get 0 (512 * i + j)
  if t.isInt then xrOfInt (sx 32 w.toNat) else decodeFp fmtF32 w.toNat
def Tile.obsRow (t : Tile) (i : Nat) : XR :=
  let l := (List.range t.nb).map fun j => t.val i j
  if t.isInt then exactSum l else binTree (if t.nb = 256 then 8 else 9) l
def Tile.obsCol (t : Tile) (j : Nat) : XR :=
  let l := (List.range 256).map fun i => t.val i j
  if t.isInt then exactSum l else binTree 8 l

/-- Every row's and every column's observed sum. -/
def Tile.obs (t : Tile) : AMap XR × AMap XR :=
  ((List.range 256).map fun i => (i, t.obsRow i), (List.range t.nb).map fun j => (j, t.obsCol j))

/-- The tile as a pass finds it, its interval open (R170, R199). The opening leaves the block's RCOUNT as it stands (DESIGN CHOICE, log entry 97). -/
def openTile (t : Tile) (o : MxOp) (b : BTile) : Tile :=
  match t.st with
  | .zeroed | .kept =>
    { t with st := .accumulating, isInt := b.int, openBlk := o.blk, openCtx := o.ctx, afmt := o.afmt, rel := o.tolRel, abs := o.tolAbs,
             nb := if b.fmt = 0 && (t.st == .zeroed || t.nb == 256) then 256 else 512,
             ckptZero := t.st == .zeroed, save := blkFld o.words 127 64,
             er := if t.st == .kept then t.keptR else [], ec := if t.st == .kept then t.keptC else [],
             skipR := [], skipC := [], fixed := false, loc := none, outcome := 0 }
  | _ => t

/-- A pass's effect on its tile: products added, expected sums, pending events (R165, R168, R176). -/
def passTile (mx : Matrix) (o : MxOp) (b : BTile) (t : Tile) : Tile :=
  let t := openTile t o b
  let t := if b.fmt = 0 then t else { t with nb := 512 }
  let int := b.int
  let sat := blkFld o.words 38 38 == 1
  let sum (l : List XR) : XR := if int then exactSum l else treeSum l
  let rnd (x : XR) : XR := if int then x else odd x
  let rows := (List.range o.m).map fun r => passRow mx o r
  let cols := (List.range b.nb).map b.col
  let bs := (List.range b.kb).map fun k => sum (cols.map fun c => c.getD k (.fin false 0 0))
  let as_ := (List.range o.k).map fun k => sum (rows.map fun r => r.getD k (.fin false 0 0))
  let t := rows.zipIdx.foldl (fun t r =>
    let i := o.row0 + r.2
    let t := { t with er := t.er.set i (rnd ((t.er.get (.fin false 0 0) i).add (sum (products r.1 bs)))) }
    cols.zipIdx.foldl (fun t c =>
      let at_ := 512 * i + c.2
      let a := accumulate int sat (t.el.get 0 at_) (sum (products r.1 c.1))
      { t with el := if a.1 = 0 then AMap.erase t.el at_ else t.el.set at_ a.1,
               pend := t.pend ||| BitVec.ofNat 64 a.2.1,
               clamps := t.clamps + bit01 a.2.2,
               skipR := if a.2.2 && !t.skipR.elem i then i :: t.skipR else t.skipR,
               skipC := if a.2.2 && !t.skipC.elem c.2 then c.2 :: t.skipC else t.skipC }) t) t
  cols.zipIdx.foldl (fun t c =>
    { t with ec := t.ec.set c.2 (rnd ((t.ec.get (.fin false 0 0) c.2).add (sum (products as_ c.1)))) }) t

/-- A pass ends (R187): every row-group has streamed, or it is abandoned, poisoned or faulted, and then no tile element
changes (DESIGN CHOICE, log entry 36). -/
def execPassComplete (cl : Nat) (s : State) : Res :=
  let mx := s.mx cl
  .next (match mx.resv.find? fun o => o.kind == 0 && o.granted && (o.doomed || o.m ≤ 4 * o.streamed) with
  | none => s
  | some o =>
    if o.doomed then endOp s cl o 9
    else if o.outcome = 11 then endOp s cl o 11
    else if o.poisoned then endOp s cl o 10
    else
      match mx.b with
      | none => endOp s cl o 22
      | some b => endWith s cl o 1 fun s => s.modTile cl o.tile (passTile mx o b))

/-- A B tile image is read into the trellis (R193). -/
def execBLoadComplete (cl : Nat) (s : State) : Res :=
  .next (match (s.mx cl).resv.find? fun o => o.kind == 1 && o.granted with
  | none => s
  | some o =>
    if let some st := o.ends then endOp s cl o st
    else
    let w := o.words
    let fmt := blkFld w 195 192
    let kb := blkFld w 207 198
    let bsz := blkFld w 197 196
    let nb := if fmt = 0 then 256 else 512
    let ew := fmtBits fmt
    let per := kb * ew / 8
    match rdRange s (s.mxAcc cl o o.ctx) (blkFld w 191 128) (imageBytes w) with
    | (s, .ok b) =>
      let el := (List.range nb).flatMap fun j =>
        let stream := bytesNat ((b.drop (j * per)).take per)
        (List.range kb).filterMap fun k =>
          let c := streamElem ew stream k
          if c = 0 then none else some (512 * j + k, c)
      let sc := if isMx fmt then
          (List.range nb).flatMap fun j => (List.range (kb / bszOf bsz)).map fun t =>
            (32 * j + t, (b.getD (nb * per + j * (kb / bszOf bsz) + t) 0).toNat)
        else []
      endWith s cl o 1 fun s => s.modMx cl fun mx =>
        { mx with b := some { fmt := fmt, bsz := bsz, kb := kb, el := el, sc := sc },
                  sets := mx.sets.map fun p => (p.1, { p.2 with loaded := true }) }
    | (s, .page v) => opWaits s cl o.id v
    | (s, .hold) => s
    | (s, .status c) => stopOp s cl o (if c = 10 then 10 else 11))

/-- A tile is zeroed; its pending events go (R168, R169). -/
def execTileZeroComplete (cl : Nat) (s : State) : Res :=
  .next (match (s.mx cl).resv.find? fun o => o.kind == 2 && o.granted with
  | none => s
  | some o => endWith s cl o 1 fun s => s.modTile cl o.tile fun t => { owner := t.owner })

/-- The retry record's first byte: RCOUNT in [2:0], RLIMIT in [5:3] (R189). -/
def rcount (b : Nat) : Nat := b % 8
def rlimit (b : Nat) : Nat := b / 8 % 8

/-- A tile is restored from its checkpoint (R181): RETRYLIMIT first (R198), then the image, the sums as at the opening, the count. -/
def execRetryRestoreComplete (cl : Nat) (s : State) : Res :=
  .next (match (s.mx cl).resv.find? fun o => o.kind == 4 && o.granted with
  | none => s
  | some o =>
    if let some st := o.ends then endOp s cl o st
    else
    let acc := s.mxAcc cl o o.ctx
    match rdRange s acc (o.blk + 64) 1 with
    | (s, .page v) => opWaits s cl o.id v
    | (s, .hold) => s
    | (s, .status c) => stopOp s cl o (if c = 10 then 10 else 11)
    | (s, .ok b) =>
      let r := (b.headD 0).toNat
      if rcount r = rlimit r then endOp s cl o 24
      else
        let t := s.tile cl o.tile
        match (if t.ckptZero then (s, EngRes.ok []) else rdRange s acc t.save 524288) with
        | (s, .page v) => opWaits s cl o.id v
        | (s, .hold) => s
        | (s, .status c) => stopOp s cl o (if c = 10 then 10 else 11)
        | (s, .ok img) =>
          let t0 : Tile := { t with el := if t.ckptZero then [] else tileOfImage img }
          let sums := if t.ckptZero then ([], []) else (t.keptR, t.keptC)
          blkPut s cl o o.ctx (o.blk + 64) [BitVec.ofNat 8 (r - rcount r + (rcount r + 1))] fun s done =>
            if done then endWith s cl o 1 fun s => s.modTile cl o.tile fun _ =>
              { t0 with st := .accumulating, er := sums.1, ec := sums.2, pend := 0, clamps := 0, skipR := [], skipC := [],
                        loc := none, fixed := false, outcome := 0, stopped := none }
            else stopOp s cl o 11)

/-- A fix writes its element; the tile stays Held (R198). -/
def execElementFixComplete (cl : Nat) (s : State) : Res :=
  .next (match (s.mx cl).resv.find? fun o => (o.kind == 5 || o.kind == 6) && o.granted with
  | none => s
  | some o =>
    match (s.tile cl o.tile).loc with
    | none => endOp s cl o 21
    | some (i, j, v, _) =>
      let w := if o.kind = 5 then v else o.val
      endWith s cl o 1 fun s => s.modTile cl o.tile fun t =>
        { t with el := if w = 0 then AMap.erase t.el (512 * i + j) else t.el.set (512 * i + j) w, fixed := true })

end Sys2Proof.Machine
end

