-- ==== Sys2Proof/Machine/MemEvents.lean ====
section
/-! DEFINITION. Events of memory and of waiting groups: results that land (R20), homes that perform (R213), the buffers that
age out (R253, R308), page walks, page responses and invalidations (R325, R419, R420), and waits that the device ends (R364,
R378). -/

namespace Sys2Proof.Machine

/-- `RESULT_LANDS` (R20): a value for a spilled register waits for room in the L1 (R211). -/
def execResultLands (k : Nat) (s : State) : Res :=
  .next (match s.landing[k]? with
  | none => s
  | some x =>
    match prvRoom s x.dst.group (s.landLines x.dst) with
    | (s, some _) => s
    | (s, none) => land { s with landing := s.landing.eraseIdx k } x.dst x.val.toNat)

/-- `HOME_ACCESS` (R213, R240): one store is performed at its home. -/
def execHomeAccess (k : Nat) (s : State) : Res := .next (performStore s k)

/-- `REDUCTION_FLUSH` (R253). -/
def execReductionFlush (core k : Nat) (s : State) : Res :=
  .next (match (s.core core).red[k]? with
  | none => s
  | some e => flushRed s core e)

/-- `REDUCTION_ENTRY_AGE_EXPIRY` (R253): 8,192 cycles. -/
def execReductionEntryAgeExpiry (core k : Nat) (s : State) : Res :=
  .next (match (s.core core).red[k]? with
  | none => s
  | some e => if e.born + 8192 ≤ s.clock then flushRed s core e else s)

/-- `WCB_DRAIN` (R308). -/
def execWcbDrain (core k : Nat) (s : State) : Res :=
  .next (match (s.core core).wcb[k]? with
  | none => s
  | some e => drainWc s core e)

/-- `WCB_ENTRY_AGE_EXPIRY` (R308): 4,096 cycles. -/
def execWcbEntryAgeExpiry (core k : Nat) (s : State) : Res :=
  .next (match (s.core core).wcb[k]? with
  | none => s
  | some e => if e.born + 4096 ≤ s.clock then drainWc s core e else s)

/-- No lane of a group is active or blocked, a wait stands and none is complete (R364). -/
def Group.deadlocked (g : Group) : Bool :=
  let joins := g.lanesWith fun l => match l.st with
    | .joining _ => true
    | _ => false
  !joins.isEmpty && !(g.lanes.any fun l => l.isActive || l.isBlocked) && g.waitDone.isEmpty

/-- The lanes that wait at the lowest PC (R364) (DEDUCED, log entry 44). -/
def Group.lowestWait (g : Group) : List Nat :=
  let joins := g.lanesWith fun l => match l.st with
    | .joining _ => true
    | _ => false
  let low := joins.foldl (fun m i => min m (g.lane i).pc.toNat) (2 ^ 32)
  joins.filter fun i => (g.lane i).pc.toNat == low

/-- `WAIT_DEADLOCK_RELEASE` (R364). -/
def execWaitDeadlockRelease (g : Nat) (s : State) : Res :=
  .next (if s.runs (s.group g) && (s.group g).deadlocked then s.modGroup g fun x => x.forceAt x.lowestWait else s)

/-- `YIELD_EXPIRY` (R378): the group is a candidate again, with age 0. -/
def execYieldExpiry (g : Nat) (s : State) : Res :=
  .next (match (s.group g).hold with
  | .yield u => if u ≤ s.clock + 1 then s.modGroup g fun x => { x with hold := .none, age := 0, ageU := 0 } else s
  | _ => s)

/-- `PAGE_WALK` (R411 to R419): a translation through the tables fills the TLBs, or raises a page request. -/
def execPageWalk (core ctx va kind : Nat) (s : State) : Res := .next (s.trans core ctx va kind false).1

/-- The page request of a context and page fails: every waiter takes its trap or stops (R325). -/
def failPage (s : State) (ctx vpn : Nat) : State :=
  let lane (l : Lane) : Lane := if l.st == .blocked (.page ctx vpn) then { l with failed := some vpn } else l
  let mx (o : MxOp) : MxOp := if o.ctx == ctx && o.page == some vpn then { o with failed := true } else o
  { s with
    misses := s.misses.filter fun m => !m.key ctx vpn
    groups := s.groups.map fun g =>
      { g with lanes := g.lanes.map lane, failed := if g.hold == .page ctx vpn then some vpn else g.failed }
    engOps := s.engOps.map fun o => if o.ctx == ctx && o.page == some vpn then { o with failed := true } else o
    clusters := s.clusters.map fun c => (c.1, { c.2 with mx := { c.2.mx with resv := c.2.mx.resv.map mx } })
    counters := s.counters.map fun c => if c.2.ctx == ctx && c.2.page == some vpn then (c.1, { c.2 with failed := true }) else c
    queues := s.queues.map fun q => if q.1 / 16 == ctx && q.2.page == some vpn then (q.1, { q.2 with failed := true }) else q }

/-- A page request ends. -/
def endPage (s : State) (ctx vpn : Nat) : State :=
  { s with pageReqs := s.pageReqs.filter fun r => !(r.ctx == ctx && r.vpn == vpn)
           misses := s.misses.map fun m => if m.key ctx vpn then { m with paging := false } else m }

/-- `PAGE_REQUEST_RESPONSE` (R325): code 0 lets the waiters translate again; 1 fails the request; 2 is reported to Rypepin and
fails every request of the context. -/
def execPageRequestResponse (ctx va code : Nat) (s : State) : Res :=
  let vpn := va / 4096
  .next (if !s.pageReqs.any (fun r => r.ctx == ctx && r.vpn == vpn) then s
    else
      match code with
      | 0 => endPage s ctx vpn
      | 1 => failPage (endPage s ctx vpn) ctx vpn
      | _ =>
        let s := logged s [0x325, ctx, vpn]
        (s.pageReqs.filter fun r => r.ctx == ctx).foldl (fun s r => failPage (endPage s ctx r.vpn) ctx r.vpn) s)

/-- The context of a group by number. -/
def State.ctxAt (s : State) (gid : Nat) : Nat := s.ctxOf (s.group gid)

/-- The buffered accesses of a context are performed or sent, so that they end (R325). -/
def pushOut (s : State) (ctx : Nat) : State :=
  let s := performStores s.stores.length s fun st => s.ctxAt st.group == ctx
  s.cores.foldl (fun s c =>
    let s := (c.2.red.filter fun e => e.ctx == ctx).foldl (fun s e => flushRed s c.1 e) s
    drainWcb s c.1 fun e => e.writers.any fun w => s.ctxAt w.1 == ctx) s

/-- A request of a page walk is no access of a group's context. -/
def isWalk (r : Option Reader) : Bool := match r with
  | some (.walk _ _ _) => true
  | _ => false

/-- An access of a context that issued by a stamp is in flight: an engine operation whose output still has its lines among them. -/
def State.inFlight (s : State) (ctx born : Nat) : Bool :=
  (s.stores.any fun st => st.op ≤ born && s.ctxAt st.group == ctx) ||
  (s.cores.any fun c => c.2.red.any fun e => e.ctx == ctx) ||
  (s.cores.any fun c => c.2.wcb.any fun e => e.writers.any fun w => s.ctxAt w.1 == ctx) ||
  (s.fabReqs.any fun r => r.op ≤ born && !isWalk r.who && (s.ctxAt r.group == ctx || r.writers.any fun w => s.ctxAt w.1 == ctx)) ||
  (s.hostReqs.any fun r => r.op ≤ born && !isWalk r.who && s.ctxAt r.group == ctx) ||
  (s.engOps.any fun o => o.ctx == ctx && !o.out.isEmpty) ||
  (s.clusters.any fun c => c.2.mx.resv.any fun o => o.ctx == ctx && !o.out.isEmpty) ||
  s.clusters.any fun c => c.2.mx.fetches.any fun f => f.op ≤ born && f.ctx == ctx

/-- Invalidations whose accesses have ended are completed to the host (R325). -/
def settleInvals (s : State) : State :=
  let done := s.invals.filter fun i => !s.inFlight i.ctx i.born
  { s with
    invals := s.invals.filter fun i => s.inFlight i.ctx i.born
    sent := s.sent ++ done.map fun i => { kind := "invalidationComplete", dst := 255, args := [i.ctx, i.va, i.size] } }

/-- An invalidation of a range of a context, at every level of every die (R325, R420). -/
def invalidate (s : State) (ctx va size : Nat) (ats : Bool) : State :=
  let s := dropTlb s ctx fun base n => base < va + size && va < base + n
  let s := pushOut s ctx
  settleInvals { s with invals := s.invals ++ [{ ctx := ctx, va := va, size := size, ats := ats, born := s.stamp }] }

/-- `ATS_INVALIDATION` (R325). -/
def execAtsInvalidation (ctx va size : Nat) (s : State) : Res := .next (invalidate s ctx va size true)

/-- `TLB_INVALIDATION` (R420). -/
def execTlbInvalidation (ctx va size : Nat) (s : State) : Res := .next (invalidate s ctx va size false)

end Sys2Proof.Machine
end

