-- ==== Sys2Proof/Machine/Sequencer.lean ====
section
/-! DEFINITION. The package sequencer: launch entries (R333 to R337, R406), completion counters (R338, R339, R508) and the end of
FIFO claims (R424). -/

namespace Sys2Proof.Machine

/-- The sequencer's accesses in a context, for a launch or for none: it translates through the first die's TLB (DEDUCED, log entry 47). It stands
for no core: 384. -/
def seqAcc (s : State) (who : Reader) (ctx : Nat) (launch : Option Nat) (failed : Bool) : EngAcc :=
  { gid := s.groups.length, core := 384, ctx := ctx, launch := launch.getD s.launches.length, die := 0, who := who,
    places := [{ level := 2, idx := 0 }], failed := failed }

/-- The code under which a counter's completion write awaits its acknowledgement: no operation's (R290). -/
def counterCode (c : Nat) : Nat := 2 ^ 33 + 2 * c

/-- Bits `hi` down to `lo` of an entry's bytes. -/
def entryFld (b : List Byte) (hi lo : Nat) : Nat := bytesNat b / 2 ^ lo % 2 ^ (hi + 1 - lo)

/-- The fields of a launch entry (R335). -/
def entryOf (b : List Byte) : Entry :=
  let f := entryFld b
  { kind := f 3 0, prio := f 5 4, snap := f 6 6 == 1, width := f 15 8, ngroups := f 20 16, depth := f 41 32, scratch := f 84 64,
    nteams := f 119 96, lcnt := f 143 128, gang := f 159 144, entry := f 191 160, code := f 255 192, pb := f 319 256, ps := f 351 320,
    cs := f 383 352, cb := f 447 384, capt := f 511 448,
    args := (List.range 8).map fun i => BitVec.ofNat 64 (f (575 + 64 * i) (512 + 64 * i)), gdom := f 1039 1024, gkey := f 1071 1040 }

/-- The parents of a counter, when not none, are open counters of the levels above it, of its context (R338). -/
def State.parentsOk (s : State) (ctx : Nat) : Nat → Nat → Nat → Bool
  | 0, _, _ => true
  | n + 1, lvl, c =>
    let p := (s.counter c).parent
    p == 0xFFFF || ((s.counter p).state == 1 && (s.counter p).level == lvl + 1 && (s.counter p).ctx == ctx && s.parentsOk ctx n (lvl + 1) p)

/-- A launch entry's LCNT passes (R338), or names a counter whose cancel goes before the entry (R340). -/
def State.lcntOk (s : State) (ctx c : Nat) : Bool :=
  let k := s.counter c
  k.level == 0 && k.ctx == ctx && k.done == 0 && ((k.state == 1 && s.parentsOk ctx 4 0 c) || k.state == 3)

/-- A wait entry's LCNT passes (R338). -/
def State.waitOk (s : State) (ctx c : Nat) : Bool :=
  let k := s.counter c
  k.ctx == ctx && 1 ≤ k.state && k.state ≤ 3

/-- Registers that a team needs (R16). -/
def Entry.regs (e : Entry) : Nat := e.ngroups * e.width * (8 + e.depth)

/-- BADSHAPE (R335, R394). -/
def Entry.badShape (e : Entry) (kdev : Nat) : Bool :=
  let k := e.devs.length
  !([8, 16, 32, 64].elem e.width) || e.ngroups == 0 || 16 < e.ngroups || e.depth < 64 || 512 < e.depth || e.depth % 64 != 0 ||
    2 ^ 20 < e.scratch || e.nteams == 0 || (e.gang != 0 && (e.gang < 2 || 384 < e.gang || e.nteams % e.gang != 0)) ||
    (e.gdom != 0 && (k == 1 || !e.devs.elem kdev || e.gang == 0 || e.gang % k != 0))

/-- BADADDR by alignment (R335). -/
def Entry.badAddr (e : Entry) : Bool :=
  e.entry % 4 != 0 || e.code % 65536 != 0 || e.pb % 4096 != 0 || e.ps % 128 != 0 || e.cb % 128 != 0 || e.capt % 64 != 0

/-- A zero field of R335 is not zero. -/
def badZero (b : List Byte) : Bool :=
  [(7, 7), (31, 21), (63, 42), (95, 85), (127, 120)].any fun p => entryFld b p.1 p.2 != 0

/-- Logical clusters of the device. -/
def State.mappedClusters (s : State) : List Nat :=
  (List.range 96).filter fun cl => ((s.die (cl / 24)).map.get none (cl % 24)).isSome

/-- The entries of a capability image (R406). -/
def capsOf (b : List Byte) : AMap Cap :=
  (List.range 64).foldl (fun m n =>
    let c := Cap.load (BitVec.ofNat 64 (entryFld b (128 * n + 63) (128 * n))) (BitVec.ofNat 64 (entryFld b (128 * n + 127) (128 * n + 64)))
    if c = {} then m else AMap.set m n c) []

/-- A domain launch's entry differs from one that another device reported (R337, R395). -/
def State.mismatched (s : State) (e : Entry) : Bool :=
  s.accepts.any fun a => a.getD 1 0 == e.gkey && a.drop 2 != [e.nteams, e.gang, e.gdom, e.prio]

/-- A domain launch that another device has already ended, by its key: 7 for entries that differ, 0x13 for a cancel (R395, R396). -/
def State.ended (s : State) (e : Entry) (code : Nat) : Bool := e.gdom != 0 && s.early.elem (e.gkey, code)

/-- The first code of R337 that applies before the image is read, 0 for none. -/
def State.entryCheck (s : State) (b : List Byte) (e : Entry) : Nat :=
  if e.kind ≠ 0 || badZero b then 1
  else if e.badShape s.kdev then 2
  else if e.badAddr then 3
  else 0

/-- The codes after it. -/
def State.entryFit (s : State) (e : Entry) : Nat :=
  if 196608 < e.regs then 5
  else if !s.mappedClusters.any (fun cl => e.nbanks ≤ (s.scratchBanks cl).length) then 6
  else if s.ended e 7 || (e.gdom ≠ 0 && s.mismatched e) then 7
  else 0

/-- The next team of a launch, or the members of its next gang that this device hosts, become pending (R341, R394). -/
def makeNext (s : State) (l : Nat) : State :=
  let la := s.launch l
  if la.cancelled || la.finished || la.rolling || la.e.hosted ≤ la.made then s
  else
    let n := max la.e.share 1
    let ts : List Team := (List.range n).map fun i => { launch := l, kteam := la.e.kteamOf s.kdev (la.made + i), prio := la.e.prio }
    let g : List Gang := if la.e.gang = 0 then [] else
      [{ launch := l, idx := la.e.kteamOf s.kdev la.made / la.e.gang, n := la.e.gang, go := la.e.gdom == 0 }]
    let g := g.filter fun x => !s.gangs.any fun y => y.launch == l && y.idx == x.idx
    { s.modLaunch l (fun la => { la with made := la.made + n }) with teams := s.teams ++ ts, gangs := s.gangs ++ g }

/-- CONS advances past an entry, and the turn past its queue (R334). -/
def advanceQueue (s : State) (k : Nat) : State :=
  { dropAnswers s (.queue k) with turn := k }.modQueue k fun q => { q with cons := q.cons + 1, waiting := none, page := none, failed := false }

/-- What other devices have said of a domain launch before its acceptance has been acted on. -/
def forgetEarly (s : State) (e : Entry) : State := if e.gdom = 0 then s else { s with early := s.early.filter fun x => x.1 != e.gkey }

/-- The first device has the ACCEPT of every device of a domain launch: it tells the others (R395; DESIGN CHOICE, log entry 18). -/
def tellAccepted (s : State) (l : Nat) : State :=
  let la := s.launch l
  let devs := la.e.devs
  if la.e.gdom = 0 || devs.headD 0 != s.kdev || la.allIn ||
      !devs.all (fun d => s.accepts.any fun a => a.getD 0 0 == d && a.getD 1 0 == la.e.gkey) then s
  else
    (devs.drop 1).foldl (fun s d =>
        sendFab s { peer := d, seq := 0, tagged := true, kind := 29, off := la.e.gkey * 2 ^ 44, size := 0, core := 384, group := s.groups.length })
      (s.modLaunch l fun la => { la with allIn := true })

/-- A launch whose entry is accepted: its counter takes TARGET, its first teams become pending (R338, R394). One that is cancelled at once tells the
other devices of its domain (R396), and one that another device has cancelled is cancelled. -/
def startLaunch (s : State) (k : Nat) (e : Entry) (caps : AMap Cap) : State :=
  let l := s.launches.length
  let dead := (s.counter e.lcnt).state == 3
  let la : Launch := { ctx := k / 16, queue := k, e := e, caps := caps, cancelled := dead, made := (if dead then e.hosted else 0),
                       unrollable := e.gdom != 0, micro := s.firm.running.find 4 }
  let s := advanceQueue { s with launches := s.launches ++ [la] } k
  let s := s.modCounter e.lcnt fun c => { c with target := e.hosted, done := if dead then e.hosted else 0 }
  let s := if e.gdom = 0 then s
    else
      let d0 := e.devs.headD 0
      let a := [s.kdev, e.gkey, e.nteams, e.gang, e.gdom, e.prio]
      let s := if d0 = s.kdev then tellAccepted { s with accepts := s.accepts ++ [a] } l else sendMsg s 21 d0 (a.drop 1)
      if dead then sendMsgs s 27 (e.devs.filter fun d => d != s.kdev) [e.gkey]
      else if s.ended e 0x13 then cancelTree false 5 s e.lcnt
      else s
  makeNext (forgetEarly s e) l

/-- The first device sends RELEASE to the others, and to every device whose ACCEPT it has, for every gang of a mismatched launch, and for a gang beyond
any, which says that the entries differ (R395; DESIGN CHOICE, log entry 18). -/
def tellMismatch (s : State) (e : Entry) : State :=
  let known := s.accepts.filter fun a => a.getD 1 0 == e.gkey
  let devs := ((e.devs ++ known.map fun a => a.getD 0 0).eraseDups).filter fun d => d != s.kdev
  let s := { s with accepts := s.accepts.filter fun a => a.getD 1 0 != e.gkey }
  (List.range (e.nteams / max e.gang 1) ++ [2 ^ 24]).foldl (fun s g => sendMsgs s 24 devs [e.gkey, g]) s

/-- A rejected launch: no team of it runs, and its counter completes at once with the code (R337). The first device of a domain launch tells the
others of a mismatch (R395). -/
def rejectLaunch (s : State) (k : Nat) (e : Entry) (code : Nat) : State :=
  let s := if code = 7 ∧ !s.ended e 7 ∧ e.devs.headD 0 = s.kdev then tellMismatch s e else s
  let la : Launch := { ctx := k / 16, queue := k, e := e, made := e.hosted, accepted := false, cancelled := true }
  let s := advanceQueue { forgetEarly s e with launches := s.launches ++ [la] } k
  s.modCounter e.lcnt fun c => { c with target := e.hosted, done := e.hosted, status := if c.status = 0 then code else c.status }

/-- A queue halts (R333, R336). -/
def haltQueue (s : State) (k code : Nat) : State :=
  { dropAnswers s (.queue k) with turn := k }.modQueue k fun q => { q with halt := true, errIdx := q.cons % 2 ^ 48, errCode := code, page := none, failed := false }

/-- An access of the sequencer in a queue's context waits on a page (R406). -/
def queueWaits (s : State) (k vpn : Nat) : State := s.modQueue k fun q => { q with page := some vpn }

/-- A write of the sequencer itself, a completion value, is not yet acknowledged: CONS advances with a release at sys, which awaits it (R263). -/
def State.seqWrites (s : State) : Bool := s.fabReqs.any (fun r => 2 ^ 33 < r.eng) || s.hostReqs.any fun r => 2 ^ 33 < r.eng

/-- A queue may have an entry taken (R334); user launches run in the contexts above 0, so the queues of context 0 are not served (R403). -/
def State.queueReady (s : State) (k : Nat) : Bool :=
  let q := s.queue k
  0 < k / 16 && (s.context (k / 16)).valid && !(s.context (k / 16)).teardown && q.en && !q.halt && q.cons < q.prod &&
    !(q.page.any fun v => s.pageReqs.any fun r => r.ctx == k / 16 && r.vpn == v) &&
    (match q.waiting with
     | some c => (s.counter c).state == 2
     | none => true)

/-- `LAUNCH_ENTRY_ACCEPT` (R334 to R338, R406) (DEDUCED, log entry 45). -/
def execLaunchEntryAccept (ctx q : Nat) (s : State) : Res :=
  let k := 16 * ctx + q
  let r := s.queue k
  .next (if 15 < q || !s.queueReady k || s.seqWrites then s
    else if r.logn < 4 ∨ 16 < r.logn then { s with turn := k }.modQueue k fun q => { q with halt := true }
    else
      match rdRange s (seqAcc s (.queue k) ctx none r.failed) (r.base + 256 * (r.cons % 2 ^ r.logn)) 256 with
      | (s, .page v) => queueWaits s k v
      | (s, .hold) => s
      | (s, .status _) => haltQueue s k 3
      | (s, .ok b) =>
        let e := entryOf b
        if e.kind = 1 then
          if s.waitOk ctx e.lcnt then (advanceQueue s k).modQueue k fun q => { q with waiting := some e.lcnt } else haltQueue s k 4
        else if !s.lcntOk ctx e.lcnt then haltQueue s k 4
        else if s.entryCheck b e ≠ 0 then rejectLaunch s k e (s.entryCheck b e)
        else
          match (if e.capt = 0 then (s, EngRes.ok []) else rdRange s (seqAcc s (.queue k) ctx none r.failed) e.capt 1024) with
          | (s, .page v) => queueWaits s k v
          | (s, .hold) => s
          | (s, .status _) => rejectLaunch s k e 3
          | (s, .ok img) =>
            if s.entryFit e ≠ 0 then rejectLaunch s k e (s.entryFit e) else startLaunch s k e (capsOf img))

/-- Groups of a launch. -/
def State.isOf (s : State) (l gid : Nat) : Bool := gid < s.groups.length && (s.teamOf (s.group gid)).launch == l && (s.group gid).priv == .user

/-- The writes that a launch's cores still buffer go on their way (R262). -/
def pushLaunch (s : State) (l : Nat) : State :=
  let s := performStores s.stores.length s fun st => st.launch == l
  s.cores.foldl (fun s c =>
    let s := (c.2.red.filter fun e => e.writers.any fun w => s.isOf l w.1).foldl (fun s e => flushRed s c.1 e) s
    drainWcb s c.1 fun e => e.writers.any fun w => s.isOf l w.1) s

/-- Every write of a launch has been performed or dropped. -/
def State.writesOver (s : State) (l : Nat) : Bool :=
  !(s.stores.any fun st => st.launch == l) &&
    !(s.cores.any fun c => c.2.red.any (fun e => e.writers.any fun w => s.isOf l w.1) || c.2.wcb.any fun e => e.writers.any fun w => s.isOf l w.1) &&
    !(s.fabReqs.any fun r => r.kind % 8 != 0 && (s.isOf l r.group || r.writers.any fun w => s.isOf l w.1)) &&
    !(s.hostReqs.any fun r => r.kind != 0 && (s.isOf l r.group || r.writers.any fun w => s.isOf l w.1))

/-- The engine operations of a launch's teams have completed (R339). -/
def State.enginesOver (s : State) (l : Nat) : Bool :=
  !(s.engOps.any fun o => o.launch == l && o.status == 0) && !(s.clusters.any fun c => c.2.mx.resv.any fun o => s.isOf l o.group)

/-- A FIFO bank as it is after its claim ends (R424). -/
def freeBank (s : State) (cl b : Nat) : State := s.modFifo cl b fun _ => {}

/-- A launch names a bank and has placed a team on a cluster, and has not completed (R424). -/
def State.namesBank (s : State) (ctx cl b : Nat) : Bool :=
  s.launches.any fun la => la.ctx == ctx && !la.finished && la.clusters.elem cl && la.caps.any fun c => c.2.kind == 6 && c.2.ep 20 16 == b

/-- Claims of a context whose launches have completed end (R424); every claim of it when `all`. -/
def endClaims (s : State) (ctx : Nat) (all : Bool) : State :=
  s.clusters.foldl (fun s c => c.2.fifos.foldl (fun s f =>
    if f.2.claim == some ctx && (all || !s.namesBank ctx c.1 f.1) then freeBank s c.1 f.1 else s) s) s

/-- Snapshot frames of a launch are freed (R479). -/
def freeFrames (s : State) (l : Nat) : State :=
  { s.modLaunch l (fun la => { la with snaps := [] }) with snapFrames := s.snapFrames + (s.launch l).snaps.length }

/-- The launch that an unfinished launch counter counts. -/
def State.launchAt (s : State) (c : Nat) : Option Nat :=
  s.launches.findIdx? fun la => la.e.lcnt == c && !la.finished && la.ctx == (s.counter c).ctx

/-- A counter completes, first step (R339): its state and its status. -/
def counterState (s : State) (c : Nat) (l : Option Nat) : State :=
  let k := s.counter c
  let lost := k.level == 0 && (match l with
    | some l => (s.launch l).lostWrite
    | none => false)
  s.modCounter c fun k => { k with state := 2, status := (if k.status = 0 && lost then 0x20 else k.status), fin := 1, page := none, failed := false }

/-- Second step: CVAL at CADDR, which may await a page, a snoop or an answer (R339). A word that memory denies for good is not written, and
Rypepin logs it (DEDUCED, log entry 46). -/
def counterWord (s : State) (c : Nat) (l : Option Nat) : State :=
  let k := s.counter c
  let go (s : State) : State := (dropAnswers s (.counter c)).modCounter c fun k => { k with fin := 2, page := none, failed := false }
  if k.caddr = 0 then go s
  else
    let un := (s.launch (l.getD 0)).unrollable
    match wrRange s { seqAcc s (.counter c) k.ctx l k.failed with code := counterCode c + 1 } k.caddr (natBytes 8 k.cval.toNat) with
    | (s, .page v) => s.modCounter c fun k => { k with page := some v }
    | (s, .hold) => s
    | (s, .status _) => go (logged s [0x339, c])
    | (s, .ok _) => go (match l with
      | some l => s.modLaunch l fun la => { la with unrollable := un }
      | none => s)

/-- A domain launch is over: the acceptances that its first device noted for it go. -/
def forgetDomain (s : State) (e : Entry) : State :=
  if e.gdom = 0 then s
  else
    { s with accepts := e.devs.foldl (fun l d => match l.find? fun a => a.getD 0 0 == d && a.getD 1 0 == e.gkey with
      | some a => l.erase a
      | none => l) s.accepts }

/-- Third step: the parent's count and status (R339). The launch has then ended. -/
def counterParent (s : State) (c : Nat) (l : Option Nat) : State :=
  let k := s.counter c
  let s := s.modCounter c fun k => { k with fin := 0 }
  let s := if k.parent = 0xFFFF then s
    else s.modCounter k.parent fun p => { p with done := p.done + 1, status := if p.status = 0 then k.status else p.status }
  match l with
  | some l =>
    let s := (forgetDomain s (s.launch l).e).modLaunch l fun la => { la with finished := true }
    endClaims (if (s.graphOf l).isSome then s else freeFrames s l) k.ctx false
  | none =>
    if k.level = 1 then
      (List.range s.launches.length).foldl (fun s l => if (s.launch l).finished && s.graphOf l == some c then freeFrames s l else s) s
    else s

/-- A counter is at its target (R339), or on its way to complete. -/
def State.counterDue (s : State) (c : Nat) : Bool :=
  let k := s.counter c
  k.fin != 0 ||
  ((k.state == 1 || k.state == 3) &&
    (if k.level = 0 then
      match s.launchAt c with
      | some l => k.done == k.target && s.enginesOver l && !(s.launch l).rolling
      | none => false
     else k.done == k.target && 0 < k.done))

/-- `LAUNCH_COUNTER_COMPLETE` (R339, R262, R508): the next step of a counter's completion. -/
def execLaunchCounterComplete (counter : Nat) (s : State) : Res :=
  let l := if (s.counter counter).level = 0 then s.launchAt counter else none
  .next (if !s.counterDue counter then s
    else
      match (s.counter counter).fin with
      | 0 =>
        match l with
        | some x =>
          let s := pushLaunch s x
          if s.writesOver x then counterState s counter l else s
        | none => counterState s counter none
      | 1 => counterWord s counter l
      | _ => if s.unacked (counterCode counter) then s else counterParent s counter l)

/-- `CANCEL_DELIVERY` (R340): the group stops waiting, every lane of it parks with cause CANCEL, and a convening set loses it (DEDUCED, log entry 50). -/
def execCancelDelivery (g : Nat) (s : State) : Res :=
  let x := s.group g
  .next (if !x.cancelled || x.ended || !x.resident then s
    else
      let pc := (x.live.map fun i => (x.lane i).pc.toNat).foldl min (2 ^ 32 - 4)
      let s := (leaveSet s g).modGroup g fun x => { x with cancelled := false, records := [], hold := .none, barAt := none, syncAt := none }
      takeTrap s g .cancel (BitVec.ofNat 32 pc) false true (x.live.map fun i => (i, 0)))

/-- `SUPERVISOR_ENTRY` (R459): the free slot takes the oldest unentered record. -/
def execSupervisorEntry (core : Nat) (s : State) : Res :=
  .next (if (s.core core).serves.isSome then s
    else
      match s.nextRecord core none with
      | none => s
      | some (g, r) =>
        let s := match (s.core core).slot with
          | some _ => s
          | none =>
            let sg : Group := { team := s.teams.length, core := core, priv := .supervisor, lanes := (List.range 8).map fun i => newLane 0 8 i 0 fun _ => 0 }
            let st : Team := { launch := noLaunch, st := .resident, isSup := true, core := core, groups := [s.groups.length] }
            ({ s with teams := s.teams ++ [st], groups := s.groups ++ [sg] }).modCore core fun c => { c with slot := some s.groups.length }
        enterRecord s core g r)

end Sys2Proof.Machine
end

