-- ==== Sys2Proof/Machine/Placement.lean ====
section
/-! DEFINITION. Placement (R16, R30, R221, R262, R341 to R343, R394, R395), swaps and restores (R261, R464 to R469), the loggia
and the slice (R355, R356), and bank modes (R220). -/

namespace Sys2Proof.Machine

/-- A logical core that the sequencer may use: mapped, not failed, not claimed for a scan, not about to be removed, and not
emptied by PREEMPTREQ (R12, R445, R449, R496; DESIGN CHOICE, log entry 85). -/
def State.usable (s : State) (core : Nat) : Bool :=
  let d := s.die (dieOf core)
  match d.map.get none (core / 4 % 24) with
  | none => false
  | some p => !d.failedCores.elem (p, core % 4) && (s.core core).claimed.isNone && !s.beingRemoved core && !(s.core core).preemptReq

/-- A logical cluster is mapped (R497). -/
def State.available (s : State) (cl : Nat) : Bool := ((s.die (cl / 24)).map.get none (cl % 24)).isSome

/-- A set may move to another cluster's engine: its operations have ended, and its slot and its tiles are free there (R497). -/
def State.setMovable (s : State) (cl k tgt : Nat) : Bool :=
  !((s.mx cl).resv.any fun o => o.set == k) && (AMap.find (s.mx tgt).sets k).isNone &&
    (s.mx cl).tiles.all fun t => t.2.owner != some k || ((s.mx tgt).tiles.get {} t.1).owner.isNone

/-- A set moves to another cluster with its tiles, when its own cluster is unavailable (R497). -/
def moveSet (s : State) (cl k tgt : Nat) : State :=
  let mx := s.mx cl
  let mine := mx.tiles.filter fun t => t.2.owner == some k
  let s := s.modMx tgt fun m =>
    { m with sets := m.sets.set k (mx.sets.get {} k), tiles := mine.foldl (fun x t => AMap.set x t.1 t.2) m.tiles }
  let s := s.modMx cl fun m => { m with sets := AMap.erase m.sets k, tiles := m.tiles.filter fun t => t.2.owner != some k }
  { s with groups := s.groups.map fun g => match g.mset with
      | some (c, j, n) => if c = cl ∧ j = k then { g with mset := some (tgt, j, n) } else g
      | none => g }

/-- The sets of a team whose cluster is unavailable go with it (R497). -/
def moveSets (s : State) (t core : Nat) : State :=
  (s.team t).groups.foldl (fun s g => match (s.group g).mset with
    | some (cl, k, _) => if cl ≠ clusterOf core ∧ !s.available cl then moveSet s cl k (clusterOf core) else s
    | none => s) s

/-- The team fits a core beside what is there (R16, R221); a team whose set owns a tile stays in its cluster (R469). -/
def State.fitsOn (s : State) (t core : Nat) : Bool :=
  let tm := s.team t
  let e := (s.launch tm.launch).e
  let home := tm.groups.all fun g => match (s.group g).mset with
    | some (cl, k, _) => cl == clusterOf core ||
        (if s.available cl then !((s.mx cl).tiles.any fun x => x.2.owner == some k) else s.setMovable cl k (clusterOf core))
    | none => true
  s.usable core && home && (s.coreGroups core).length + (s.needs t).1 ≤ 32 && s.regsUsed core + (s.needs t).2 ≤ 196608 &&
    e.nbanks ≤ (s.freeBanksOf (clusterOf core)).length

/-- The core of a die where a team goes: the most free registers, then the lowest (R342). -/
def State.bestCore (s : State) (t die : Nat) : Option Nat :=
  ((List.range 96).map fun i => 96 * die + i).foldl (fun best c =>
    if !s.fitsOn t c then best
    else match best with
      | none => some c
      | some b => if s.regsUsed c < s.regsUsed b then some c else some b) none

/-- The die that takes a team, in rotation from the one after the last (R341), and the core. -/
def State.dieFor (s : State) (t : Nat) : Option (Nat × Nat) :=
  [1, 2, 3, 4].findSome? fun i =>
    let d := (s.lastDie + i) % 4
    (s.bestCore t d).map fun c => (d, c)

/-- A launch claims a bank at the placement of its first team on a cluster (R424): of placements of one turn, the lower-numbered context's. -/
def claimFirst (s : State) (cl b ctx : Nat) : State :=
  s.modFifo cl b fun f => match f.claim with
    | none => { f with claim := some ctx, claimAt := s.clock + 1 }
    | some x => if f.claimAt = s.clock + 1 && ctx < x then { f with claim := some ctx } else f

/-- The start of a team on a core, also that of a restored one, discards the core's lines, and the cluster's ways for the first team there; its launch
claims the banks that its table names (R262, R424). -/
def startOn (s : State) (l core : Nat) : State :=
  let cl := clusterOf core
  let first := !(s.launch l).clusters.elem cl
  let s := dropLines s fun c => c.holder == core || (first && c.holder == ccHolder cl)
  let s := if first then s.modLaunch l fun la => { la with clusters := la.clusters ++ [cl] } else s
  (s.launch l).caps.foldl (fun s c => if c.2.kind = 6 then claimFirst s cl (c.2.ep 20 16) (s.launch l).ctx else s) s

/-- Gives a team its scratch banks (R221) (DESIGN CHOICE, log entry 8). -/
def giveBanks (s : State) (t core : Nat) : State :=
  let cl := clusterOf core
  let bs := (s.freeBanksOf cl).take (s.launch (s.team t).launch).e.nbanks
  (s.modCluster cl fun c => { c with owner := bs.foldl (fun m b => AMap.set m b t) c.owner }).modTeam t fun tm => { tm with banks := bs }

/-- PLACING A TEAM on a core (R30, R342, R467): fresh groups, or the groups of its image, with fresh windows on another core than before; `st` is
resident, or reserved for a gang that spans devices (R395). -/
def placeTeam (s : State) (t core : Nat) (st : TeamSt) : State :=
  let tm := s.team t
  let l := tm.launch
  let e := (s.launch l).e
  let s := startOn (moveSets (giveBanks s t core) t core) l core
  let s := s.modTeam t fun tm => { tm with st := st, core := core, since := s.stamp, head := false, saved := false, image := tm.saved }
  let s := if tm.saved then
      let s := tm.groups.foldl (fun s g =>
        if (s.group g).ended then s
        else s.modGroup g fun x =>
          { x with core := core, octet := (if core = tm.core then x.octet else s.pickOctet core x.width), slot := s.pickSlot core, resident := true,
                   records := x.records.map fun r => { r with entered := false } }) s
      { acquire s core (s.launch l).ctx 4 .all with saveFrames := s.saveFrames + 1 }
    else
      (List.range e.ngroups).foldl (fun s kg =>
        addGroup s t (newGroup s t kg core (BitVec.ofNat 32 e.entry) (fun _ _ => 0) fun n => e.args.getD n 0)) s
  s.tick

/-- Teams that are placed together: a team, or the members of its gang that this device hosts (R341). -/
def State.unit (s : State) (t : Nat) : List Nat :=
  match s.gangOf t with
  | none => [t]
  | some (k, _) => (s.members k).filter fun m => match (s.team m).st with
    | .done => false
    | .held => false
    | _ => true

/-- Its gang spans devices (R394). -/
def State.isSpanning (s : State) (t : Nat) : Bool := (s.launch (s.team t).launch).e.gdom != 0

/-- The state in which a team stands once placed. -/
def State.placedAs (s : State) (t : Nat) : TeamSt := if s.isSpanning t then .reserved else .resident

/-- Places every team of a unit, each on the die and core of R341 and R342, all or none. -/
def placeUnit (s : State) (ts : List Nat) : Option State :=
  ts.foldl (fun acc t => acc.bind fun s => (s.dieFor t).map fun dc =>
    { placeTeam s t dc.2 (s.placedAs t) with lastDie := dc.1 }) (some s)

/-- A restored team waits for no page request any longer (R468). -/
def State.pagesOver (s : State) (t : Nat) : Bool :=
  (s.team t).groups.all fun g => (s.group g).ended || ((s.group g).lanes.all fun l => match l.st with
    | .blocked (.page c v) => !s.pageReqs.any fun r => r.ctx == c && r.vpn == v
    | _ => true) && (match (s.group g).hold with
    | .page c v => !s.pageReqs.any fun r => r.ctx == c && r.vpn == v
    | _ => true)

/-- Every team of every earlier launch of the same queue has been placed (R334). -/
def State.inTurn (s : State) (l : Nat) : Bool :=
  (List.range l).all fun x =>
    let a := s.launch x
    a.queue != (s.launch l).queue || a.finished || a.cancelled ||
      (a.e.hosted ≤ a.made && s.teams.all fun t => t.launch != x || t.isSup || (match t.st with
        | .pending => t.saved
        | .offered _ => t.saved
        | .loggia => t.saved
        | _ => true))

/-- Order among gangs that span devices (R395): PRIO, highest first, then GKEY, then G. -/
def spanKey (s : State) (t : Nat) : Nat :=
  let tm := s.team t
  let e := (s.launch tm.launch).e
  ((3 - tm.prio) * 2 ^ 32 + e.gkey) * 2 ^ 32 + tm.kteam / max e.gang 1

/-- A team waits for a place: pending, or swapped out with its image written. -/
def Team.waiting (t : Team) : Bool := !t.isSup && (t.st == .pending || t.st == .swapped)

/-- The first device of a domain launch has the acceptance of every device (R395), as it has told the others. -/
def State.allAccepted (s : State) (l : Nat) : Bool := (s.launch l).allIn

/-- The first device of a spanning gang that was swapped out has every device's reply (R396). -/
def State.swappedEverywhere (s : State) (t : Nat) : Bool :=
  match s.gangOf t with
  | none => true
  | some (k, _) => let e := (s.launch (s.team t).launch).e
    e.gdom == 0 || e.devs.headD 0 != s.kdev || e.devs.all (s.gangs.getD k {}).swapReplies.elem

/-- A team, or the gang it leads, may be placed now, apart from room. -/
def State.mayPlace (s : State) (t : Nat) : Bool :=
  let tm := s.team t
  let la := s.launch tm.launch
  tm.waiting && !la.finished && !la.cancelled && !la.rolling && (s.unit t).head? == some t &&
    (s.unit t).all (fun x => (s.team x).waiting && s.pagesOver x) && (tm.saved || s.inTurn tm.launch) &&
    (!tm.saved || s.swappedEverywhere t) &&
    (!s.isSpanning t ||
      (s.allAccepted tm.launch && !s.teams.any (fun x => x.st == .reserved) &&
        (List.range s.teams.length).all fun x => !((s.team x).waiting && s.isSpanning x && s.allAccepted (s.team x).launch) ||
          spanKey s t ≤ spanKey s x))

/-- Rank of a waiting team (R343, R355): PRIO 3 first, those at the head of their priority, then in order of acceptance. -/
def State.rank (s : State) (t : Nat) : Nat :=
  let tm := s.team t
  (((3 - tm.prio) * 2 + (if tm.head then 0 else 1)) * 2 ^ 32 + tm.launch) * 2 ^ 24 + tm.kteam

/-- The waiting team that is placed next (R343): the first in rank of those that fit. -/
def State.nextToPlace (s : State) : Option Nat :=
  (List.range s.teams.length).foldl (fun best t =>
    if !s.mayPlace t then best
    else
      let better := match best with
        | none => true
        | some b => s.rank t < s.rank b
      if better && (placeUnit s (s.unit t)).isSome then some t else best) none

/-- `TEAM_DISPATCH` (R341): the team is offered to the die that takes it. -/
def execTeamDispatch (team : Nat) (s : State) : Res :=
  .next (if s.nextToPlace != some team || (s.team team).saved then s
    else
      match s.dieFor team with
      | none => s
      | some (d, _) => (s.unit team).foldl (fun s t => s.modTeam t fun tm => { tm with st := .offered d }) s)

/-- A gang is whole again after it was parked (R387). -/
def unparkGang (s : State) (t : Nat) : State :=
  match s.gangOf t with
  | none => s
  | some (k, _) => if s.isSpanning t then s else s.modGang k fun g => { g with parked := false }

/-- The gang of a domain launch that this device hosts members of: its launch and its place in `gangs`. -/
def State.spanGang (s : State) (gkey g : Nat) : Option Nat :=
  s.gangs.findIdx? fun x => x.idx == g && (s.launch x.launch).e.gkey == gkey && (s.launch x.launch).e.gdom != 0 && !(s.launch x.launch).finished

/-- GO: the reserved members of a gang issue (R395). -/
def goGang (s : State) (gkey g : Nat) : State :=
  match s.spanGang gkey g with
  | none => s
  | some k =>
    let ms := (s.members k).filter fun t => (s.team t).st == .reserved
    if ms.isEmpty then s
    else
      (ms.foldl (fun s t => s.modTeam t fun tm => { tm with st := .resident }) s).modGang k fun x => { x with go := true, parked := false }

/-- The first device holds READY from every device: it sends GO (R395). -/
def checkGo (s : State) (gkey g : Nat) : State :=
  match s.spanGang gkey g with
  | none => s
  | some k =>
    let devs := (s.launch (s.gangs.getD k {}).launch).e.devs
    if devs.headD 0 != s.kdev || !devs.all (fun d => s.readies.elem [d, gkey, g]) then s
    else
      goGang (sendMsgs { s with readies := s.readies.filter fun r => r.drop 1 != [gkey, g] } 23 (devs.drop 1) [gkey, g]) gkey g

/-- READY goes to the first device of the domain (R395). -/
def sayReady (s : State) (t : Nat) : State :=
  if !s.isSpanning t then s
  else
    let e := (s.launch (s.team t).launch).e
    let g := (s.team t).kteam / max e.gang 1
    let d0 := e.devs.headD 0
    if d0 = s.kdev then checkGo { s with readies := s.readies ++ [[s.kdev, e.gkey, g]] } e.gkey g
    else sendMsg s 22 d0 [e.gkey, g]

/-- `TEAM_PLACEMENT` (R342, R30, R395): an offered team, with the members of its gang, takes its core. What no longer fits is
pending again. -/
def execTeamPlacement (team core : Nat) (s : State) : Res :=
  .next (match (s.team team).st with
  | .offered d =>
    let ts := s.unit team
    let back := ts.foldl (fun s t => s.modTeam t fun tm => { tm with st := .pending }) s
    if s.bestCore team d ≠ some core then (if (s.bestCore team d).isNone then back else s)
    else
      match placeUnit s ts with
      | none => back
      | some s => makeNext (sayReady s team) (s.team team).launch
  | _ => s)

/-- `TEAM_RESTORE` (R467, R468, R469, R396). -/
def execTeamRestore (team core : Nat) (s : State) : Res :=
  .next (if s.nextToPlace != some team || !(s.team team).saved then s
    else
      match s.dieFor team with
      | some (_, c) =>
        if c ≠ core then s
        else
          match placeUnit s (s.unit team) with
          | some s => unparkGang (sayReady s team) team
          | none => s
      | none => s)

/-- A group's dirty private lines are written back (R261), and whether none waits. -/
def writeBackPrv (s : State) (gid : Nat) : State × Bool :=
  (s.group gid).prvLines.foldl (fun acc l => let r := prvEvict acc.1 gid l; (r.1, acc.2 && r.2.isNone)) (s, true)

/-- The slot of a core serves a team. -/
def State.served_ (s : State) (t : Nat) : Bool := (s.core (s.team t).core).serves == some t

/-- A swap-out of these teams may start (R466, R470): frames are free, the spill engines rest and no slot serves one. -/
def State.maySwapOut (s : State) (ts : List Nat) : Bool :=
  ts.length ≤ s.saveFrames && ts.all fun t => (s.team t).st == .resident && (s.core (s.team t).core).spilling.isEmpty && !s.served_ t

/-- SWAPPING A TEAM OUT (R261, R465, R466): write-backs, drains, and the outgoing image. What the write-backs and drains still await ends before the
image counts as written, and so before any restore. -/
def swapOut (s : State) (t : Nat) : State :=
  let tm := s.team t
  let core := tm.core
  let live := tm.groups.filter fun g => !(s.group g).ended
  let s := live.foldl (fun s g => (writeBackPrv s g).1) s
  let s := performStores s.stores.length s fun st => tm.groups.elem st.group
  let s := (s.core core).red.foldl (fun s e => flushRed s core e) s
  let s := drainWcb s core fun _ => true
  let s := live.foldl (fun s g => s.modGroup g fun x => { x with resident := false }) s
  let s := s.modCluster (clusterOf core) fun c => { c with owner := c.owner.filter fun p => !tm.banks.elem p.1 }
  let s := s.modTeam t fun tm => { tm with st := .outgoing, banks := [], saved := true, head := true }
  { s with saveFrames := s.saveFrames - 1 }.modCore core fun c => { c with spilling := c.spilling ++ [t] }

/-- Swaps out a victim with its whole gang (R355, R387). -/
def swapOutUnit (s : State) (t : Nat) : State :=
  let s := (s.unit t).foldl swapOut s
  match s.gangOf t with
  | none => s
  | some (k, _) => s.modGang k fun g => { g with parked := true, asked := false }

/-- A swap request for a spanning gang is noted, and the first device passes it on (R396). -/
def noteSwap (s : State) (gkey g : Nat) : State :=
  match s.spanGang gkey g with
  | none => s
  | some k =>
    if s.swapReqs.elem (gkey, g) || (s.gangs.getD k {}).parked then s
    else
      let devs := (s.launch (s.gangs.getD k {}).launch).e.devs
      let s := { s with swapReqs := s.swapReqs ++ [(gkey, g)] }.modGang k fun x => { x with swapReplies := [] }
      if devs.headD 0 != s.kdev then s
      else sendMsgs s 25 (devs.drop 1) [gkey, g]

/-- Asks the first device of the domain to swap a spanning gang out (R396). -/
def askSwap (s : State) (t : Nat) : State :=
  let e := (s.launch (s.team t).launch).e
  let g := (s.team t).kteam / max e.gang 1
  if e.devs.headD 0 = s.kdev then noteSwap s e.gkey g
  else
    match s.gangOf t with
    | none => s
    | some (k, _) =>
      if (s.gangs.getD k {}).asked then s
      else
        sendMsg (s.modGang k fun x => { x with asked := true }) 25 (e.devs.headD 0) [e.gkey, g]

/-- The first device records a reply (R396). -/
def swapReply (s : State) (org gkey g : Nat) : State :=
  match s.spanGang gkey g with
  | none => s
  | some k => s.modGang k fun x => { x with swapReplies := if x.swapReplies.elem org then x.swapReplies else x.swapReplies ++ [org] }

/-- A noted swap request is carried out when its members may be swapped out (R396). -/
def doSwap (s : State) (gkey g : Nat) : State :=
  match s.spanGang gkey g with
  | none => { s with swapReqs := s.swapReqs.erase (gkey, g) }
  | some k =>
    let ts := (s.members k).filter fun t => (s.team t).st == .resident
    let onto (s : State) : State :=
      let s := { s with swapReqs := s.swapReqs.erase (gkey, g) }
      let d0 := (s.launch (s.gangs.getD k {}).launch).e.devs.headD 0
      if d0 = s.kdev then swapReply s s.kdev gkey g else sendMsg s 26 d0 [gkey, g]
    match ts with
    | [] => onto s
    | t :: _ => if s.maySwapOut (s.unit t) then onto (swapOutUnit s t) else s

/-- Writes of a team that its core has not yet performed, or whose acknowledgement it awaits (R261). -/
def State.teamWrites (s : State) (t core : Nat) : Bool :=
  let mine (g : Nat) : Bool := (s.team t).groups.elem g
  (s.stores.any fun st => mine st.group) || ((s.core core).red.any fun e => e.writers.any fun w => mine w.1) ||
    ((s.core core).wcb.any fun e => e.writers.any fun w => mine w.1) ||
    (s.fabReqs.any fun r => r.eng == 0 && (r.kind == 1 || r.kind == 4) && (mine r.group || r.writers.any fun w => mine w.1)) ||
    s.hostReqs.any fun r => r.eng == 0 && (r.kind == 1 || r.kind == 4) && (mine r.group || r.writers.any fun w => mine w.1)

/-- `IMAGE_SAVE_DONE` (R261, R466): the team's last write-backs and drains, then its image is written. That of a cancelled team is discarded, and each
of its groups ends (R470). -/
def execImageSaveDone (team : Nat) (s : State) : Res :=
  let core := (s.team team).core
  .next (if !(s.core core).spilling.elem team then s
    else
      let live := (s.team team).groups.filter fun g => !(s.group g).ended
      let (s, fine) := live.foldl (fun (acc : State × Bool) g => let r := writeBackPrv acc.1 g; (r.1, acc.2 && r.2)) (s, true)
      let s := performStores s.stores.length s fun st => (s.team team).groups.elem st.group
      let s := (s.core core).red.foldl (fun s e => if e.writers.any (fun w => (s.team team).groups.elem w.1) then flushRed s core e else s) s
      if !fine || s.teamWrites team core then s
      else
        let s := s.modCore core fun c => { c with spilling := c.spilling.erase team }
        if (s.team team).st != .outgoing then s
        else if (s.launch (s.team team).launch).cancelled then live.foldl killGroup s
        else s.modTeam team fun t => { t with st := .swapped })

/-- Bytes of a team's image for the loggia (R464): registers, and by lane predicates, PC, state and FIFOs, by group its uniform
and group registers and its CSRs (DEDUCED, log entry 48). -/
def State.imageBytes (s : State) (t : Nat) : Nat :=
  let e := (s.launch (s.team t).launch).e
  let n := (s.needs t).1
  (s.needs t).2 * 4 + n * (e.width * (1 + 4 + 1 + 8 * 4 * 4) + 24 * 8 + 7 * 9 + 19 * 8)

/-- The state with a victim and its gang gone, for the tests of R355. -/
def State.without (s : State) (v : Nat) : State :=
  (s.unit v).foldl (fun s t =>
    let tm := s.team t
    (tm.groups.foldl (fun s g => s.modGroup g fun x => { x with resident := false }) s).modCluster (clusterOf tm.core) fun c =>
      { c with owner := c.owner.filter fun p => !tm.banks.elem p.1 }) s

/-- A resident team may be the victim of a waiting one on a core (R355); a cancelled one retires, and is none (R356). -/
def State.victimOk (s : State) (core t v : Nat) : Bool :=
  let vt := s.team v
  vt.st == .resident && !vt.isSup && vt.core == core && !(s.launch vt.launch).cancelled && vt.prio ≤ (s.team t).prio && (s.without v).fitsOn t core

/-- The victim on a core: the lowest PRIO, then the longest resident (R355). -/
def State.victimOn (s : State) (core t : Nat) : Option Nat :=
  (List.range s.teams.length).foldl (fun best v =>
    if !s.victimOk core t v then best
    else match best with
      | none => some v
      | some b =>
        if (s.team v).prio < (s.team b).prio || ((s.team v).prio == (s.team b).prio && (s.team v).since < (s.team b).since) then some v
        else some b) none

/-- A waiting team that fits no core may go into a loggia (R343, R355, R464). Members of a gang wait for ordinary placement. -/
def State.mayLoad (s : State) (t : Nat) : Bool :=
  s.mayPlace t && (s.gangOf t).isNone && (s.dieFor t).isNone && s.imageBytes t ≤ 262144

/-- A load that can end in a swap: with slices off only one of PRIO 3 over a lower victim can (R355, DEDUCED, log entry 22). -/
def State.loadSwaps (s : State) (core t v : Nat) : Bool :=
  (s.core core).slice != 0 || ((s.team t).prio == 3 && (s.team v).prio < 3)

/-- `LOGGIA_LOAD` (R355). -/
def execLoggiaLoad (core team victim : Nat) (s : State) : Res :=
  let c := s.core core
  .next (if c.loggia.isSome || !c.spilling.isEmpty || !s.mayLoad team || s.victimOn core team ≠ some victim || !s.loadSwaps core team victim then s
    else
      (s.modTeam team fun t => { t with st := .loggia }).modCore core fun c =>
        { c with loggia := some (team, victim, if c.slice = 0 then none else some (c.slice * 1024)) })

/-- The swap of a core's loggia team for its victim (R355, R465). It waits for a free frame, and for the slot; an incoming team
that no longer fits is pending again. -/
def swapNow (s : State) (core : Nat) : State :=
  match (s.core core).loggia with
  | none => s
  | some (t, v, _) =>
    if (s.launch (s.team v).launch).cancelled then evictLoggia s core
    else if s.isSpanning v then askSwap s v
    else if !s.maySwapOut (s.unit v) then s
    else if !(s.without v).fitsOn t core then evictLoggia s core
    else
      let s := (swapOutUnit s v).modCore core fun c => { c with loggia := none }
      makeNext (placeTeam s t core .resident) (s.team t).launch

/-- The victim is no longer resident, or is cancelled: the timer stops and the loggia team is placed by ordinary placement (R356). A loggia whose team
was cancelled is empty. -/
def loggiaSweep (s : State) (core : Nat) : State :=
  match (s.core core).loggia with
  | none => s
  | some (t, v, _) =>
    if (s.team t).st != .loggia then s.modCore core fun c => { c with loggia := none }
    else if (s.team v).st == .resident && (s.team v).core == core && !(s.launch (s.team v).launch).cancelled then s
    else evictLoggia s core

/-- `SLICE_EXPIRY` (R355): with SLICE.LEN = 0 no timer runs. -/
def execSliceExpiry (core : Nat) (s : State) : Res :=
  .next (match (s.core core).loggia with
  | some (_, _, some 0) => if (s.core core).slice = 0 then s else swapNow s core
  | _ => s)

/-- `TEAM_SWAP` (R355, R449, R465): a PRIO 3 loggia team takes the place of a victim of lower PRIO at once, and PREEMPTREQ swaps
out a core's teams. -/
def execTeamSwap (core team : Nat) (s : State) : Res :=
  .next (match (s.core core).loggia with
  | some (t, v, _) =>
    if v = team ∧ (s.team t).prio = 3 ∧ (s.team v).prio < 3 then swapNow s core
    else if (s.core core).preemptReq then evictLoggia s core
    else s
  | none =>
    if (s.core core).preemptReq && (s.team team).core == core && !(s.team team).isSup && (s.team team).st == .resident then
      if s.isSpanning team then askSwap s team
      else if s.maySwapOut (s.unit team) then swapOutUnit s team
      else s
    else s)

/-- A team is in a fault wait (R468) (DEDUCED, log entry 49). -/
def State.faultWait (s : State) (t : Nat) : Bool :=
  let gs := (s.team t).groups.filter fun g => !(s.group g).ended
  let held (g : Nat) : Bool := match (s.group g).hold with
    | .page _ _ => true
    | .wait _ => true
    | .reg _ _ => true
    | .load => true
    | _ => false
  let page (g : Nat) : Bool := ((s.group g).lanes.any fun l => match l.st with
    | .blocked (.page _ _) => true
    | _ => false) || (match (s.group g).hold with
    | .page _ _ => true
    | _ => false)
  (s.team t).st == .resident && gs.all (fun g => held g || (s.group g).live.all fun i => match ((s.group g).lane i).st with
    | .blocked _ => true
    | .parked => true
    | _ => false) && gs.any page

/-- `FAULT_WAIT_SWAP` (R468, R396). -/
def execFaultWaitSwap (team : Nat) (s : State) : Res :=
  .next (if !(s.unit team).all s.faultWait then s
    else if s.isSpanning team then askSwap s team
    else if s.maySwapOut (s.unit team) then swapOutUnit s team
    else s)

/-- `BANK_MODE_CHANGE` (R219, R220): performed or refused (DEDUCED, log entry 51). A claim made before stays (R424). -/
def execBankModeChange (cl bank : Nat) (s : State) : Res :=
  .next (match AMap.find (s.cluster cl).wanted bank with
  | none => s
  | some m =>
    let c := s.cluster cl
    let s := s.modCluster cl fun c => { c with wanted := AMap.erase c.wanted bank }
    let f := s.fifo cl bank
    let ok := match c.modes.get 0 bank with
      | 0 => true
      | 1 => (AMap.find c.owner bank).isNone
      | _ => f.claim.isNone && f.filled = 0 && f.free = 1024
    if !ok || m = c.modes.get 0 bank then s
    else
      let s := if c.modes.get 0 bank = 0 then dropLines s fun x => x.holder == ccHolder cl else s
      ((freeBank s cl bank).modFifo cl bank fun x => { x with claim := f.claim }).modCluster cl fun c => { c with modes := c.modes.set bank m })

/-- `TEARDOWN` (R405): once every team and engine operation of the context has ended. -/
def execTeardown (ctx : Nat) (s : State) : Res :=
  let mine (l : Nat) : Bool := (s.launch l).ctx == ctx
  .next (if !(s.context ctx).teardown || s.teams.any (fun t => !t.isSup && mine t.launch && t.st != .done) ||
      s.engOps.any (fun o => o.ctx == ctx && o.status == 0) || s.clusters.any (fun c => c.2.mx.resv.any fun o => o.ctx == ctx) then s
    else
      let s := dropTlb s ctx fun _ _ => true
      let s := endClaims s ctx true
      s.modContext ctx fun c => { c with bindings := [], teardown := false })

end Sys2Proof.Machine
end

