-- ==== Sys2Proof/Machine/Fabric.lean ====
section
/-! DEFINITION. The fabric and the gangs that span devices: requests that arrive and answers (R305 to R313, R421, R422),
multicast (R316), and the coordination messages (R394 to R396). -/

namespace Sys2Proof.Machine

/-- The engine operation that a request belongs to: an engine queue's or a cluster's. -/
def modEngOp (s : State) (eng : Nat) (f : EngOp → EngOp) (m : MxOp → MxOp) : State :=
  if eng = 0 then s
  else
    let code := eng - 1
    if code % 2 = 0 then s.modEng (code / 2) f
    else s.modMx (code / 2 % 96) fun mx => { mx with resv := mx.resv.map fun o => if o.id = code / 2 / 96 then m o else o }

/-- Writes of an engine operation have been answered: a matrix operation that awaited its last one completes (R307). -/
def engAcked (s : State) (eng : Nat) : State :=
  if eng = 0 || (eng - 1) % 2 = 0 then s else closeOps s ((eng - 1) / 2 % 96)

/-- The lane that an access came from, or its group for a uniform word, still waits at its word for the answer. -/
def State.awaits (s : State) (d : Dst) (pc : Word) (unif : Bool) : Bool :=
  let g := s.group d.group
  let l := g.lane d.lane
  !g.ended && (if unif then g.hold == .load else l.st == .blocked .remote && l.pc == pc)

/-- A lane's own access to another device or to the host is answered: the lane, which waited at its word, retires with the value and its flags
(DESIGN CHOICE, log entry 11); a uniform word's group likewise (DEDUCED, log entry 58). -/
def retire (s : State) (d : Dst) (pc : Word) (ext unif writes : Bool) (v : Nat) (fl : Nat := 0) : State :=
  if !s.awaits d pc unif then s
  else if unif then
    s.modGroup d.group fun g =>
      let g := match d.slot with
        | .glob k => if writes then g.setU k (BitVec.ofNat 64 (uExtend d.ext v)) else g
        | .stack _ => g
      { g with hold := .none, failed := none, lanes := g.lanes.map fun l => if l.isExited then l else { l with pc := pc + 4, waited := 0 } }
  else
    let s := s.modGroup d.group fun g => (g.orFlags fl).modLane d.lane fun l =>
      { l.unmark with st := .active, pc := pc + (if ext then 8 else 4), waited := 0, failed := none, force := false }
    if writes then land s d v else s

/-- The lane's push found its FIFO full: it executes again from its first step (R381, R409). -/
def pushAgain (s : State) (d : Dst) (pc : Word) : State :=
  if s.awaits d pc false then s.modGroup d.group fun g => g.modLane d.lane fun l => { l with st := .active } else s

/-- The lane or group takes a trap instead. -/
def retireTrap (s : State) (d : Dst) (pc : Word) (ext unif : Bool) (c : Cause) (va : Nat) : State :=
  if !s.awaits d pc unif then s
  else if unif then takeTrap s d.group c pc false true ((s.group d.group).live.map fun i => (i, BitVec.ofNat 64 va))
  else takeTrap s d.group c pc ext false [(d.lane, BitVec.ofNat 64 va)]

/-- The acquire that a lane's word makes after its answer (R246): of the object that a `glob` address names, else of I. -/
def acquireAfter (s : State) (gid acq va : Nat) (glob : Bool) : State :=
  if acq = 0 then s
  else
    let g := s.group gid
    acquire s g.core (s.ctxOf g) (acq - 1) (if glob then s.objectAt (s.ctxOf g) va else .obj 0)

/-- A reader's line comes, or why it does not: an engine learns that it is refused or lost (DESIGN CHOICE, log entry 76). -/
def giveAnswer (s : State) (r : Reader) (t : Target) (bad : Nat) (bytes : List Byte) : State :=
  { s with answers := s.answers.filter (fun a => !(a.who == r && a.tgt == t)) ++
      [{ who := r, tgt := t, bad := bad, bytes := (bytes ++ List.replicate 128 0).take 128 }] }

/-- The reader is an engine. -/
def Reader.engine (r : Reader) : Bool :=
  match r with
  | .op _ | .win _ | .feed _ _ => true
  | _ => false

/-- The last reply word of a gathered call has landed: its record is over (R442). -/
def endMail (s : State) (ctx addr : Nat) : State :=
  match s.teams.findIdx? fun t => !t.isSup && (s.launch t.launch).ctx == ctx && t.mail.any fun m => m.addr == addr with
  | none => s
  | some t =>
    let core := (s.team t).core
    (acquire s core ctx 7 .all).modTeam t fun tm => { tm with mail := tm.mail.filter fun m => m.addr != addr }

/-- Reply words of a record that are still on their way. -/
def State.mailPending (s : State) (ctx addr : Nat) : Bool :=
  (s.fabReqs.any fun r => r.kind == 0 && r.cmp.toNat == addr + 1 && s.ctxAt r.group == ctx) ||
    s.hostReqs.any fun r => r.kind == 0 && r.cmp.toNat == addr + 1 && s.ctxAt r.group == ctx

/-- One reply word lands (R442, R20). A poisoned one leaves its register empty and traps its lane where it stands; a lane already parked takes no
second record (R431; DEDUCED, log entry 54). -/
def mailWord (s : State) (d : Dst) (addr v : Nat) (bad : Bool) : State :=
  let ctx := s.ctxAt d.group
  let l := (s.group d.group).lane d.lane
  let s := if !bad then land s d v
    else if (s.group d.group).ended || l.isExited || l.st == .parked then s
    else takeTrap s d.group .poison l.pc false false [(d.lane, BitVec.ofNat 64 addr)]
  if s.mailPending ctx addr then s else endMail s ctx addr

/-- A lost or refused write is recorded against every group whose bytes it carries (R313, R422). -/
def loseWrites (s : State) (r : FabReq) (c : Cause) : State :=
  (if r.writers.isEmpty then [(r.group, r.va)] else r.writers).foldl (fun s w => loseWrite s w.1 c w.2 r.peer) s

/-- A request has failed, or its answer refuses it: `c` is the cause (R313, R422). A failed write of an engine stops its operation
as FAULTED, a collective packet loses the peer. -/
def requestFails (s : State) (r : FabReq) (c : Cause) (lost : Bool) : State :=
  match r.who, r.dst with
  | some w, _ =>
    let s := match w with
      | .op c | .win c => if lost then modEngOp s (c + 1) (fun o => if o.kind = 1 then { o with peerLost := true } else o) id else s
      | _ => s
    let bad := if w.engine && (lost || c == .perm || c == .gangDeparted || c == .bound) then 3
      else if c == .poison then 1 else if c == .cmpFrame then 2 else 4
    giveAnswer s w (.peer r.peer r.off) bad []
  | none, some d =>
    if r.kind = 0 && r.cmp ≠ 0 then mailWord s d (r.cmp.toNat - 1) 0 true
    else if r.kind = 1 || r.kind = 4 || (lost && (r.kind = 9 || r.kind = 12)) then loseWrites (retire s d r.pc r.ext r.unif false 0) r c
    else retireTrap s d r.pc r.ext r.unif c r.va
  | none, none =>
    if r.kind = 5 then modEngOp s r.eng (fun o => { o with peerLost := true }) id
    else if r.eng ≠ 0 then
      engAcked (modEngOp s r.eng (fun o => { o.lostFrom r.va with peerLost := o.peerLost || (lost && o.kind == 1) })
        fun o => { o with refused := true }) r.eng
    else if 16 ≤ r.kind then s
    else loseWrites s r c

/-- A request has been performed, with the bytes it answers. -/
def requestDone (s : State) (r : FabReq) (data : List Byte) : State :=
  match r.who, r.dst with
  | some w, _ => giveAnswer s w (.peer r.peer r.off) 0 data
  | none, some d =>
    let v := bytesNat (data.take r.size)
    if r.kind = 0 && r.cmp ≠ 0 then mailWord s d (r.cmp.toNat - 1) v false
    else
      let k := r.kind % 8
      acquireAfter (retire s d r.pc r.ext r.unif (r.kind < 16 && (k == 0 || k == 2 || k == 3)) v r.fl) d.group r.acq r.va (r.kind < 8)
  | none, none => engAcked s r.eng

/-- Takes a request off the list of those outstanding. -/
def dropReq (s : State) (r : FabReq) : State :=
  { s with fabReqs := s.fabReqs.filter fun x => !x.named r.peer r.seq r.tagged }

/-- The request of a peer, a number and a tag that has been sent (R311). -/
def State.reqAt (s : State) (peer seq : Nat) (tagged : Bool) : Option FabReq :=
  s.fabReqs.find? fun r => r.named peer seq tagged && r.sends != 0

/-- The cause that an answer's status gives (R307, R311, R422): 1 POISON, 2 badly framed, 3 refused; in gang packets 4 departed,
5 no slice or no lane. -/
def statusCause (st : Nat) : Cause :=
  match st with
  | 1 => .poison
  | 2 => .cmpFrame
  | 4 => .gangDeparted
  | 5 => .bound
  | _ => .perm

/-- `FABRIC_RESPONSE_ARRIVAL` (R311): the first answer counts, of each device of a multicast (R316), and a stomped one is none (R312). A write onto a bad line was performed there
(R231), and its origin is not told. -/
def execFabricResponseArrival (peer : Nat) (no : ReqNo) (status : Nat) (data : Answered) (s : State) : Res :=
  .next (match (if data.stomped then none else s.reqAt peer no.seq no.tagged) with
  | none => s
  | some r =>
    if r.acked.elem data.frm then s
    else if 1 < r.acks then ackFab s peer no.seq data.frm
    else
      let s := dropReq s r
      if r.kind = 16 && status = 6 then (match r.dst with
        | some d => pushAgain s d r.pc
        | none => s)
      else if status = 0 || ((r.kind = 1 || r.kind = 4) && (status = 1 || status = 2)) then requestDone s r data.bytes
      else requestFails s r (statusCause status) false)

/-- Launches that span a device which the fabric reports lost (R395, R313): their reservations go and their counters end lost. -/
def loseDevice (s : State) (dev : Nat) : State :=
  (List.range s.launches.length).foldl (fun s l =>
    let la := s.launch l
    if la.e.gdom ≠ 0 && la.e.devs.elem dev && !la.finished && la.accepted && !la.cancelled then killLaunch s l 0x20 else s) s

/-- `TRANSACTION_TIMEOUT` (R312, R313): the request goes again, by the other way if there is one; after four sends it has failed. -/
def execTransactionTimeout (peer : Nat) (no : ReqNo) (s : State) : Res :=
  .next (match s.reqAt peer no.seq no.tagged with
  | none => s
  | some r =>
    let path := if 100 ≤ peer then r.path else s.otherPath peer r.path
    if r.sends < 4 && (100 ≤ peer || path ≠ 0) then
      let r' := { r with sends := r.sends + 1, path := path }
      { s with fabReqs := s.fabReqs.map fun x => if x.named peer no.seq no.tagged then r' else x
               sent := s.sent ++ s.packets r' }
    else
      let s := dropReq (logged s [0x313, peer, r.group, r.va]) r
      loseDevice (requestFails s r .poison true) peer)

/-- An inbound window's fields (R422). -/
def winBase (w : UWord) : Nat := fld w 39 16 * 65536
def winOk (w : UWord) : Bool := w.getLsbD 0 && 16 ≤ fld w 45 40 && fld w 45 40 ≤ 36

/-- What came of a request at its home: it waits, or its status and the bytes it answers. -/
inductive Served where
  | wait
  /-- a value for a FIFO of many senders: its answer comes with its delivery (R380) -/
  | later
  | done (status : Nat) (bytes : List Byte)
deriving DecidableEq, Repr

/-- The domain launch of a key on this device: the one not yet finished, else the last one. -/
def State.lastSpan (s : State) (gkey : Nat) : Option Nat :=
  let of (fin : Bool) : List Nat := (List.range s.launches.length).filter fun l =>
    let la := s.launch l
    la.e.gdom != 0 && la.e.gkey == gkey && la.accepted && la.finished == fin
  match of false with
  | l :: _ => some l
  | [] => (of true).getLast?

/-- The member that a gang packet names, on this device, also one whose launch has finished (DESIGN CHOICE, log entry 18). -/
def State.spanMember (s : State) (at_ : Nat) : Option (Nat × Nat) :=
  let kteam := at_ / 2 ^ 20 % 2 ^ 24
  match s.lastSpan (at_ / 2 ^ 44) with
  | none => none
  | some l =>
    match s.teams.findIdx? fun t => t.launch == l && t.kteam == kteam && !t.isSup with
    | none => none
    | some t => some (t, at_ % 2 ^ 20)

/-- A member has departed, or ended with its launch (R385, R392). -/
def Team.left (t : Team) : Bool := t.departed || t.st == .done

/-- A request performed at the home that it names (R213, R252), as an access from outside (R476). -/
def serveHome (s : State) (r : InReq) : State × Served :=
  let lines := if r.kind = 1 then (r.bytes.map fun b => lineOf b.1).eraseDups else linesOf r.at_ r.size
  match lines.find? fun l => s.snoopNeeded l (r.kind != 0) with
  | some l => (sendSnoop s l, .wait)
  | none =>
    match r.kind with
    | 0 =>
      let s := lines.foldl (fun s l => expose s none l) s
      match lines.find? fun l => s.lineClass l ≠ 0 with
      | some l => (s, .done (s.lineClass l) [])
      | none => (s, .done 0 (s.bytes r.at_ r.size))
    | 1 => (homeWrites s none r.bytes, .done 0 [])
    | k =>
      let (s, old, cls) := homeRmw s none r.at_ (8 * r.size) (rmwFun k r.aop (8 * r.size) r.data.toNat r.cmp.toNat)
      if cls = 0 then (s, .done 0 (natBytes 8 old))
      else if k = 4 then ({ s with tags := AMap.set s.tags (lineOf r.at_) 15 }, .done 0 [])
      else (s, .done cls [])

/-- The gang of a domain launch that a packet names by key and `kteam`, made if this device hosts none of its members yet, and the member's number. -/
def gangFor (s : State) (gkey kteam : Nat) : State × Option (Nat × Nat) :=
  match s.launches.findIdx? fun la => la.e.gdom != 0 && la.e.gkey == gkey && la.accepted && !la.finished with
  | none => (s, none)
  | some l =>
    let e := (s.launch l).e
    let g := kteam / max e.gang 1
    let s := if (s.spanGang gkey g).isSome then s
      else { s with gangs := s.gangs ++ [{ launch := l, idx := g, n := e.gang, go := false }] }
    (s, (s.spanGang gkey g).map fun k => (k, kteam % max e.gang 1))

/-- A report on a member of a spanning gang (R387, R388, R390, R391, R393), or that every ACCEPT of a launch is in (R395; DESIGN CHOICE, log entry
18). -/
def serveReport (s : State) (r : InReq) : State :=
  if r.kind = 29 then
    match s.lastSpan (r.at_ / 2 ^ 44) with
    | some l => s.modLaunch l fun la => { la with allIn := true }
    | none => s
  else
  match gangFor s (r.at_ / 2 ^ 44) (r.at_ / 2 ^ 20 % 2 ^ 24) with
  | (s, none) => s
  | (s, some (k, m)) =>
    let v := r.data.toNat
    let add (l : List Nat) : List Nat := if l.elem m then l else l ++ [m]
    match r.kind with
    | 17 =>
      let s := s.modGang k fun g => { g with away := add g.away, rowLen := if g.rowLen = 0 then v else g.rowLen }
      if s.gangFormed k then s.modGang k fun g => { g with formed := true } else s
    | 18 => s.modGang k fun g => { g with slices := add g.slices, zsize := if g.zsize = 0 then v else g.zsize }
    | 19 => syncSettle (s.modGang k fun g => { g with reached := g.reached.set m (max v (g.reached.get 0 m)) }) k
    | _ => gangSweep (s.modGang k fun g => { g with awayDet := add g.awayDet, gone := if v = 1 then add g.gone else g.gone }) k

/-- Scratch bytes written by a window write of another device: the places of the packet's bytes count from the member's slice. -/
def sliceWrite (s : State) (t b : Nat) (bytes : AMap Byte) : State :=
  s.modTeam t fun tm => { tm with scratch := memPut tm.scratch (bytes.map fun c => (b + c.1 % 2 ^ 20, c.2)) }

/-- A request of a spanning gang's member: a window access, a push, or a report (R260, R381, R389). Status 6 answers a push to a full FIFO, which then
executes again (R409). -/
def serveGang (s : State) (r : InReq) : State × Served :=
  if 17 ≤ r.kind then (serveReport s r, .done 0 [])
  else
  match s.spanMember r.at_ with
  | none => (s, .done 5 [])
  | some (t, o) =>
    let tm := s.team t
    let parked := match s.gangOf t with
      | some (k, _) => (s.gangs.getD k {}).parked
      | none => false
    if r.kind = 16 then
      if tm.left then (s, .done 4 [])
      else if parked then (s, .wait)
      else
        let w := (s.launch tm.launch).e.width
        match s.laneAt t w (o / 8) with
        | .here g i =>
          if 6 ≤ o % 8 then
            ({ s with pushes := s.pushes ++ [{ member := r.cmp.toNat / 2 ^ 32, v0 := r.cmp.toNat % 2 ^ 32, group := g, lane := i, q := o % 8,
                                               val := r.data.setWidth 32, req := some r }] }, .later)
          else
            match deliver s g i (o % 8) (r.data.setWidth 32) with
            | some s => (s, .done 0 [])
            | none => (s, .done 6 [])
        | _ => (s, .done 5 [])
    else
      match tm.slice with
      | none => (s, .done 5 [])
      | some b =>
        if tm.left then (s, .done 4 [])
        else if parked then (s, .wait)
        else
          match r.kind with
          | 8 => (s, .done 0 ((List.range r.size).map fun i => AMap.get 0 tm.scratch (b + o + i)))
          | 9 => (sliceWrite s t b r.bytes, .done 0 [])
          | _ =>
            let q : GlobAcc := { gid := 0, ctx := 0, va := 0, n := r.size, kind := r.kind % 8, aop := r.aop, cmp := r.cmp.toNat,
                                 data := r.data.toNat }
            match scrAccess s t (b + o) q with
            | (s, .val v) => (s, .done 0 (natBytes 8 v))
            | (s, _) => (s, .done 0 [])

/-- An answer goes back, and a tagged request's is kept (R311). The device's own multicast delivery is acknowledged in place (R316). -/
def answer (s : State) (r : InReq) (status : Nat) (bytes : List Byte) : State :=
  let s := match r.filt with
    | none => s
    | some f => noteSeen s f r.seq status (BitVec.ofNat 64 (bytesNat (bytes.take 8)))
  if !r.answer then s
  else if r.org = s.kdev then ackFab s r.via r.seq s.kdev
  else sendAnswer s r.org r.via r.seq r.filt.isSome status bytes

/-- Serves a request, or holds it. -/
def serve (s : State) (r : InReq) : State :=
  match (if r.kind < 8 then serveHome s r else serveGang s r) with
  | (s, .done st b) => answer s r st b
  | (s, .later) => s
  | (s, .wait) => { s with heldIn := s.heldIn ++ [r] }

/-- What a push is told of its value's end (R380, R381): 0 delivered, 6 no room; of any other status a push of this device executes again and meets its
trap. -/
def pushEnds (s : State) (p : Push) (status : Nat) : State :=
  let s := match p.frm with
    | none => s
    | some (g, i) => s.modGroup g fun x => x.modLane i fun l =>
        if l.st != .blocked .pushing then l
        else if status = 0 then { l with st := .active, pc := l.pc + 4, waited := 0, failed := none, force := false }
        else { l with st := if status = 6 then .blocked (.room p.group p.lane p.q) else .active }
  match p.req with
  | none => s
  | some r => answer s r status []

/-- The values pushed in one cycle to FIFOs of many senders enter in ascending order of (member, v0), as far as there is room (R380). -/
def deliverAll (s : State) : State :=
  let before (a b : Push) : Bool := a.member < b.member || (a.member == b.member && a.v0 < b.v0)
  let sorted := s.pushes.foldl (fun (acc : List Push) p => acc.filter (fun x => !before p x) ++ [p] ++ acc.filter (before p)) []
  sorted.foldl (fun s p =>
    if (s.team (s.group p.group).team).left then pushEnds s p 4
    else if (s.group p.group).ended || ((s.group p.group).lane p.lane).isExited then pushEnds s p 5
    else
      match deliver s p.group p.lane p.q p.val with
      | some s => pushEnds s p 0
      | none => pushEnds s p 6) { s with pushes := [] }

/-- Held requests that can now be served, in order of arrival. -/
def settleHeld (s : State) : State :=
  s.heldIn.foldl (fun s r => serve s r) { s with heldIn := [] }

/-- A tagged request against the filter (R311): stale, answered before, held, or new. -/
def filtered (s : State) (r : InReq) (new : State → State) : State :=
  match r.filt with
  | none => new s
  | some f =>
    let d := s.filters.get {} f
    if r.seq < d.flr then s
    else
      match AMap.find d.seen r.seq with
      | some (st, v) => if r.answer then sendAnswer s r.org r.via r.seq true st (natBytes 8 v.toNat) else s
      | none =>
        let same (x : InReq) : Bool := x.filt == r.filt && x.seq == r.seq
        if s.heldIn.any same || s.pushes.any (fun p => p.req.any same) then s else new s

/-- `FABRIC_REQUEST_ARRIVAL` (R311, R422). Kinds 8 and up are the device's own gang packets. A stomped packet is discarded (R312). A window that
reaches past device memory refuses there (DESIGN CHOICE, log entry 88). -/
def execFabricRequestArrival (org seq flr kind win off size : Nat) (data : UWord) (aop : Nat) (cmp : UWord) (body : Masked)
    (s : State) : Res :=
  let filt := if kind = 0 ∨ kind = 8 then none else some org
  let w := s.windows.get 0 (16 * org + win)
  let base := if kind < 8 then winBase w else 0
  let r : InReq := { org := org, filt := filt, seq := seq, kind := kind, at_ := base + off, size := size, data := data,
                     aop := aop, cmp := cmp, bytes := body.bytes.map fun b => (base + b.1, b.2), via := s.kdev }
  let may := 8 ≤ kind || (winOk w && off < 2 ^ fld w 45 40 && base + off < dpaLimit && w.getLsbD (if kind = 0 then 1 else if kind = 1 then 2 else 3))
  .next (if body.stomped then s
    else
      let s := match filt with
        | some f => raiseFloor s f flr
        | none => s
      filtered s r fun s => if may then serve s r else answer s r 3 [])

/-- `RELAY_FORWARD` (R310, R312): to the relay's own direct port; discarded when the port is down or a header error is found in time, and stomped when
it is found too late. -/
def execRelayForward (org dst : Nat) (pkt : Relayed) (s : State) : Res :=
  .next (if (pkt.hdrErr && !pkt.late) || s.path dst ≠ 1 then s
    else { s with sent := s.sent ++ [{ kind := "relayed", dst := dst, args := [org, if pkt.hdrErr || pkt.late then 1 else 0], bytes := pkt.body }] })

/-- `LINK_STATE_CHANGE` (R309). -/
def execLinkStateChange (port : Nat) (up : Bool) (s : State) : Res :=
  .next { s with links := if up then (if s.links.elem port then s.links else s.links ++ [port]) else s.links.filter fun p => p != port }

/-- The number of a multicast delivery's filter: an origin and a group, as its numbers count per group (R311; DESIGN CHOICE, log entry 102). -/
def mcFilter (org grp : Nat) : Nat := 256 + 64 * org + grp

/-- `MULTICAST_DELIVERY` (R316): the entry forwards, and delivers at most once. An offset outside the window is discarded, counted and acknowledged
(DESIGN CHOICE, log entry 59). -/
def execMulticastDelivery (grp : Nat) (msg : Sent) (hop off : Nat) (bytes : List (Nat × BitVec 8)) (stomped : Bool) (s : State) : Res :=
  let e := s.mcast.get 0 grp
  .next (if stomped || !mcValid e then s
    else
      let r : InReq := { org := msg.org, filt := some (mcFilter msg.org grp), seq := msg.seq, kind := 1, at_ := mcBase e + off, size := bytes.length,
                         bytes := bytes.map fun b => (mcBase e + b.1, b.2), via := 100 + grp }
      let s := if hop < 4 then
          { s with sent := s.sent ++ (mcPorts e).map fun p =>
              { kind := "multicast", dst := 200 + p, args := [grp, msg.org, msg.seq, msg.flr, hop + 1, off] ++ bytes.map (fun b => b.1),
                bytes := bytes.map fun b => b.2 } }
        else s
      if !e.getLsbD 15 then s
      else
        filtered (raiseFloor s (mcFilter msg.org grp) msg.flr) r fun s =>
          if mcSize e ≤ off || dpaLimit ≤ mcBase e + off then answer { s with mcDiscards := s.mcDiscards + 1 } r 0 [] else serve s r)

/-- Reservations of a gang are withdrawn: its members wait again (R395). -/
def unreserve (s : State) (t : Nat) : State :=
  let tm := s.team t
  if tm.st != .reserved then s
  else
    let s := s.modCluster (clusterOf tm.core) fun c => { c with owner := c.owner.filter fun p => !tm.banks.elem p.1 }
    if !tm.image then
      let s := tm.groups.foldl (fun s g => s.modGroup g fun x => { x with resident := false, ended := true }) s
      s.modTeam t fun tm => { tm with st := .pending, groups := [], banks := [] }
    else
      let s := tm.groups.foldl (fun s g => s.modGroup g fun x => { x with resident := false }) s
      { s.modTeam t (fun tm => { tm with st := .swapped, banks := [], saved := true }) with saveFrames := s.saveFrames - 1 }

/-- The members of a gang that a device had reserved are no longer: its READY is void (R395). -/
def unready (s : State) (dev gkey g : Nat) : State := { s with readies := s.readies.filter fun r => r != [dev, gkey, g] }

/-- Withdraws this device's reservation of a gang (R395). -/
def releaseGang (s : State) (gkey g : Nat) : State :=
  let s := unready s s.kdev gkey g
  match s.spanGang gkey g with
  | none => s
  | some k => (s.members k).foldl unreserve s

/-- A reservation gives way to a gang earlier in the order (R395). -/
def withdraw (s : State) : State :=
  match s.teams.findIdx? fun t => t.st == .reserved with
  | none => s
  | some t =>
    let earlier := (List.range s.teams.length).any fun x =>
      (s.team x).waiting && s.isSpanning x && s.allAccepted (s.team x).launch && spanKey s x < spanKey s t
    if !earlier then s
    else
      let e := (s.launch (s.team t).launch).e
      let g := (s.team t).kteam / max e.gang 1
      let s := releaseGang s e.gkey g
      if e.devs.headD 0 = s.kdev then s else sendMsg s 24 (e.devs.headD 0) [e.gkey, g]

/-- The domain launch of a key on this device that has not finished. -/
def State.spanLaunch (s : State) (gkey : Nat) : Option Nat := (s.lastSpan gkey).filter fun l => !(s.launch l).finished

/-- What another device says of a domain launch that this device has not accepted is kept for its acceptance; one that has been cancelled here needs
no more (DESIGN CHOICE, log entry 18). -/
def noteEarly (s : State) (gkey code : Nat) : State :=
  if s.early.elem (gkey, code) || (s.lastSpan gkey).any (fun l => (s.launch l).cancelled) then s else { s with early := s.early ++ [(gkey, code)] }

/-- A coordination message arrives: it acts once, and is answered (R311, R395). -/
def message (s : State) (m : Sent) (act : State → State) : State :=
  let r : InReq := { org := m.org, filt := some m.org, seq := m.seq, kind := 24, at_ := 0, size := 0, via := s.kdev }
  filtered (raiseFloor s m.org m.flr) r fun s => answer (act s) r 0 []

/-- `ACCEPT` (R395): at the first device, an acceptance is noted; one that differs ends the launch on every device. -/
def execAccept (msg : Sent) (gkey nteams gang gdom prio : Nat) (s : State) : Res :=
  .next (message s msg fun s =>
    let s := { s with accepts := s.accepts ++ [[msg.org, gkey, nteams, gang, gdom, prio]] }
    match s.spanLaunch gkey with
    | none => s
    | some l =>
      let e := (s.launch l).e
      if [nteams, gang, gdom, prio] != [e.nteams, e.gang, e.gdom, e.prio] then killLaunch (tellMismatch s e) l 7 else tellAccepted s l)

/-- `READY` (R395). -/
def execReady (msg : Sent) (gkey g : Nat) (s : State) : Res :=
  .next (message s msg fun s =>
    checkGo { s with readies := if s.readies.elem [msg.org, gkey, g] then s.readies else s.readies ++ [[msg.org, gkey, g]] } gkey g)

/-- `GO` (R395). -/
def execGo (msg : Keyed) (g : Nat) (s : State) : Res := .next (message s msg.toSent fun s => goGang s msg.gkey g)

/-- `RELEASE` (R395): at the first device, the sender's reservation is withdrawn; from the first device, this one's. -/
def execRelease (msg : Keyed) (g : Nat) (s : State) : Res :=
  .next (message s msg.toSent fun s =>
    match s.spanLaunch msg.gkey with
    | none =>
      let s := unready s msg.org msg.gkey g
      if g = 2 ^ 24 then noteEarly s msg.gkey 7 else s
    | some l =>
      let e := (s.launch l).e
      if e.devs.headD 0 = s.kdev then unready s msg.org msg.gkey g
      else if e.nteams / max e.gang 1 ≤ g then killLaunch s l 7
      else releaseGang s msg.gkey g)

/-- `GANG_SWAP_REQUEST` (R396). -/
def execGangSwapRequest (msg : Keyed) (g : Nat) (s : State) : Res :=
  .next (message s msg.toSent fun s => doSwap (noteSwap s msg.gkey g) msg.gkey g)

/-- `GANG_SWAP_REPLY` (R396). -/
def execGangSwapReply (msg : Sent) (gkey g : Nat) (s : State) : Res := .next (message s msg fun s => swapReply s msg.org gkey g)

/-- `GANG_CANCEL_MESSAGE` (R396): the device cancels its own counter. -/
def execGangCancelMessage (msg : Keyed) (s : State) : Res :=
  .next (message s msg.toSent fun s =>
    match s.spanLaunch msg.gkey with
    | none => noteEarly s msg.gkey 0x13
    | some l => cancelTree false 5 s (s.launch l).e.lcnt)

/-- `MEMBER_DEPARTED_REPORT` (R396, R392). -/
def execMemberDepartedReport (msg : Keyed) (m : Nat) (s : State) : Res :=
  .next (message s msg.toSent fun s =>
    match gangFor s msg.gkey m with
    | (s, none) => s
    | (s, some (k, i)) =>
      gangSweep (s.modGang k fun x => { x with gone := (if x.gone.elem i then x.gone else x.gone ++ [i]), depEarly := x.depEarly || !x.formed }) k)

end Sys2Proof.Machine
end

