-- ==== Sys2Proof/Machine/HostPort.lean ====
section
/-! DEFINITION. The host's side: CXL accesses both ways (R323, R324), the reply doorbell (R442), and the registers that the host
driver writes (R333, R336, R338, R340, R405, R485). -/

namespace Sys2Proof.Machine

/-- The host may cache a line from now on; `own` says that it may hold it modified (R324). -/
def hostTakes (s : State) (line : Nat) (own : Bool) : State :=
  let m := match s.hostLines.find line with
    | some m => m || own
    | none => own
  { s with hostLines := s.hostLines.set line m, hostOrder := if s.hostOrder.elem line then s.hostOrder else s.hostOrder ++ [line] }

/-- The oldest line of a die's filter when it is full (R324). -/
def State.filterFull (s : State) (line : Nat) : Option Nat :=
  let mine := s.hostOrder.filter fun l => s.home l == s.home line
  if s.hostOrder.elem line || mine.length < 2 ^ 20 then none else mine.head?

/-- A host access is performed at the home, or waits: one after which the host caches the line needs room in the filter (R324). -/
def hostAccess (s : State) (h : HostAcc) : State :=
  let line := lineOf h.dpa
  if s.recalWaits line then { s with hostHeld := s.hostHeld ++ [h] }
  else
  match (if h.wr && !h.own then none else s.filterFull line) with
  | some old => { sendSnoop s old with hostHeld := s.hostHeld ++ [h] }
  | none =>
    if h.wr then
      let s := homeWrites s none h.bytes
      let s := if h.own then hostTakes s line true else s
      { s with sent := s.sent ++ [{ kind := "hostWritten", dst := 255, args := [h.dpa] }] }
    else
      let s := expose s none h.dpa
      let cls := s.lineClass h.dpa
      let s := if cls = 0 then hostTakes s line h.own else s
      { s with sent := s.sent ++ [{ kind := "hostData", dst := 255, args := [h.dpa, cls], bytes := if cls = 0 then s.bytes line 128 else [] }] }

/-- `HOST_MEM_ACCESS` (R324): the host sees device memory through its window alone (R322) (DESIGN CHOICE, log entry 26). -/
def execHostMemAccess (dpa : Nat) (wr : Bool) (bytes : List (Nat × BitVec 8)) (own : Bool) (s : State) : Res :=
  .next (if s.hdm * 2 ^ 30 ≤ dpa then s
    else hostAccess s { dpa := dpa, wr := wr, bytes := bytes.filter fun b => b.1 < s.hdm * 2 ^ 30, own := own })

/-- Host accesses that waited and can now be performed. -/
def settleHost (s : State) : State := s.hostHeld.foldl hostAccess { s with hostHeld := [] }

/-- `BACK_INVALIDATE_RESPONSE` (R324): modified bytes go to the home, the filter entry is dropped. -/
def execBackInvalidateResponse (line : Nat) (bytes : List (Nat × BitVec 8)) (s : State) : Res :=
  let line := lineOf line
  let s := { s with hostLines := AMap.erase s.hostLines line, hostOrder := s.hostOrder.filter fun l => l != line,
                    sent := s.sent.erase { kind := "backInvalidate", dst := 255, args := [line] } }
  .next (homeWrites s none bytes)

/-- `HOST_SNOOP` (R323): an owned line is answered with its bytes as they are after the RMW in progress. -/
def execHostSnoop (line : Nat) (s : State) : Res :=
  let line := lineOf line
  .next (match s.ownedLine line with
  | none => s
  | some b =>
    { s with owned := s.owned.filter fun x => x.1 != line
             sent := s.sent ++ [{ kind := "snoopResponse", dst := 255, args := [line], bytes := b }] })

/-- The lanes of a TSO store to the host end it: performed in the ownership cache, or with POISON (R256, R323; DESIGN CHOICE, log entry 79). -/
def hostStored (s : State) (r : HostReq) (data : List Byte) (poison : Bool) : State :=
  if poison then r.lanes.foldl (fun s x => retireTrap s x.1 r.pc r.ext r.unif .poison x.2.2) s
  else
    let s := r.bytes.foldl (fun s c => putOwned s c.1 [c.2]) (takeOwned s (lineOf r.addr) data)
    r.lanes.foldl (fun s x => retire s x.1 r.pc r.ext r.unif false 0 x.2.1) s

/-- The host has answered a request with a line, its ownership or an acknowledgement (R323). A line that the port owns by now is the owned one. -/
def hostAnswered (s : State) (r : HostReq) (data : List Byte) (poison : Bool) : State :=
  let line := lineOf r.addr
  match r.who with
  | some w =>
    if r.kind = 5 && !poison then takeOwned s line data else giveAnswer s w (.host line) (if poison then 1 else 0) data
  | none =>
    match r.kind, r.dst with
    | 1, _ => if r.tso then hostStored s r data poison else engAcked s r.eng
    | 0, some d =>
      let v := bytesNat ((((s.ownedLine line).getD data).drop (r.addr % 128)).take r.size)
      if r.cmp ≠ 0 then mailWord s d (r.cmp.toNat - 1) v poison
      else if poison then retireTrap s d r.pc r.ext r.unif .poison r.va
      else acquireAfter (retire s d r.pc r.ext r.unif true v) d.group r.acq r.va true
    | 0, none => s
    | k, d =>
      let kind := if k = 4 then 2 else k
      let r' := hostRmw (takeOwned s line data) r.addr (8 * r.size) (rmwFun kind r.aop (8 * r.size) r.data.toNat r.cmp.toNat)
      match d with
      | none => if poison then s else r'.1
      | some d =>
        if poison then retireTrap s d r.pc r.ext r.unif .poison r.va
        else acquireAfter (retire r'.1 d r.pc r.ext r.unif (k != 4) r'.2) d.group r.acq r.va true

/-- A waiting request to the host whose turn has come (R323): done in the ownership cache when the port owns its line by then, else sent. -/
def pumpHostAt : Nat → State → Nat → State
  | 0, s, _ => s
  | n + 1, s, k =>
    match s.hostReqs[k]? with
    | none => s
    | some r =>
      if r.sent || !s.mayAskHost k r then pumpHostAt n s (k + 1)
      else
        match s.ownedLine r.addr with
        | some b =>
          let s := { s with hostReqs := s.hostReqs.eraseIdx k }
          let s := if r.kind = 1 then r.bytes.foldl (fun s c => putOwned s c.1 [c.2]) s else s
          pumpHostAt n (hostAnswered s r b false) k
        | none =>
          pumpHostAt n
            { s with hostReqs := s.hostReqs.set k { r with sent := true }
                     sent := s.sent ++ [{ kind := "hostRequest", dst := 255, bytes := r.bytes.map fun b => b.2,
                                          args := [r.kind, r.addr, r.size, r.data.toNat, r.aop, r.cmp.toNat, s.hostPort r.addr] ++ r.bytes.map fun b => b.1 }] }
            (k + 1)

/-- Sends, or does, the host requests that waited and may now go, in order. -/
def pumpHost (s : State) : State := pumpHostAt s.hostReqs.length s 0

/-- `CXL_DATA_RESPONSE` (R323): data, ownership or an acknowledgement for a request that has gone to the host. A poisoned answer to a reduction flush
changes nothing, as a merge into a bad line raises nothing (DEDUCED, log entry 79). -/
def execCxlDataResponse (k : Nat) (data : List (BitVec 8)) (poison : Bool) (s : State) : Res :=
  .next (match s.hostReqs[k]? with
  | none => s
  | some r => if r.sent then hostAnswered { s with hostReqs := s.hostReqs.eraseIdx k } r data poison else s)

/-- The record of a context at an address that awaits its reply, with its team. -/
def State.mailAt (s : State) (ctx addr : Nat) : Option (Nat × Mail) :=
  match s.teams.findIdx? fun t => !t.isSup && (s.launch t.launch).ctx == ctx && t.mail.any fun m => m.addr == addr with
  | none => none
  | some t => ((s.team t).mail.find? fun m => m.addr == addr).map fun m => (t, m)

/-- The reply words of a record are read (R442): from device memory at once, from the host or another device by requests whose
answers land (DEDUCED, log entry 54). A bad line in a unit that the launch has snapshotted starts its rollback, with no record (R477). -/
def readReply (s : State) (ctx addr : Nat) : State :=
  match s.mailAt ctx addr with
  | none => { s with bells := s.bells + 1 }
  | some (t, m) =>
    let core := (s.team t).core
    let dstOf (x : Nat × Slot) : Dst := { group := m.group, lane := x.1, slot := x.2, pair := false }
    match s.trans core ctx addr 0 false with
    | (s, .ok (.dpa a) _) =>
      match (linesOf a 320).find? fun l => s.snoopNeeded l false with
      | some l => { sendSnoop s l with doorbells := s.doorbells ++ [(ctx, addr)] }
      | none =>
        let s := m.dst.foldl (fun s x =>
          let w := a + 64 + 4 * x.1
          let s := expose s (some (s.team t).launch) w
          let l := (s.team t).launch
          if s.lineClass w ≠ 0 && s.ownSnap l w then { s with agenda := s.agenda ++ [.rollback l] }
          else mailWord s (dstOf x) addr (bytesNat (s.bytes w 4)) (s.lineClass w != 0)) s
        endMail s ctx addr
    | (s, .ok (.host a) _) =>
      let req (x : Nat × Slot) : HostReq :=
        { kind := 0, addr := a + 64 + 4 * x.1, size := 4, cmp := BitVec.ofNat 64 (addr + 1), core := core, group := m.group,
          dst := some (dstOf x), va := addr }
      { s with hostReqs := s.hostReqs ++ m.dst.map req }
    | (s, .ok (.peer d o) _) =>
      let req (x : Nat × Slot) : FabReq :=
        { peer := d, seq := 0, tagged := false, kind := 0, off := o + 64 + 4 * x.1, size := 4, cmp := BitVec.ofNat 64 (addr + 1),
          core := core, group := m.group, dst := some (dstOf x), va := addr }
      if (s.peerCap (s.team t).launch d true false).isNone then { s with bells := s.bells + 1 } else m.dst.foldl (fun s x => sendFab s (req x)) s
    | (s, .wait _ _) => { s with doorbells := s.doorbells ++ [(ctx, addr)] }
    | (s, .hold _) => { s with doorbells := s.doorbells ++ [(ctx, addr)] }
    | (s, _) => { s with bells := s.bells + 1 }

/-- `GCALL_REPLY` (R442). -/
def execGcallReply (ctx addr : Nat) (s : State) : Res :=
  .next (if s.mailPending ctx addr || s.doorbells.elem (ctx, addr) then { s with bells := s.bells + 1 } else readReply s ctx addr)

/-- Replies that waited for a page or a snoop. -/
def settleBells (s : State) : State := s.doorbells.foldl (fun s d => readReply s d.1 d.2) { s with doorbells := [] }

/-- `QUEUE_PRODUCER_WRITE` (R333). -/
def execQueueProducerWrite (ctx q prod : Nat) (s : State) : Res :=
  .next (s.modQueue (16 * ctx + q) fun x => { x with prod := prod % 2 ^ 64 })

/-- EN written: from 0 to 1 it clears HALT and QERR (R336). -/
def Queue.setEn (q : Queue) (en : Bool) : Queue :=
  if en && !q.en then { q with en := true, halt := false, errIdx := 0, errCode := 0 } else { q with en := en }

/-- `QUEUE_ENABLE` (R336). -/
def execQueueEnable (ctx q : Nat) (s : State) : Res := .next (s.modQueue (16 * ctx + q) fun x => x.setEn true)

/-- `CANCEL_REGISTER_WRITE` (R340): a counter of the context whose CANCEL register is written. -/
def execCancelRegisterWrite (ctx counter : Nat) (s : State) : Res :=
  .next (if counter < 65536 && (s.counter counter).ctx = ctx then cancel s counter else s)

/-- A reserved field of a descriptor is not zero (R404, R405, R414). -/
def descReserved (d : List UWord) : Bool :=
  let f (i hi lo : Nat) : Nat := fld (d.getD i 0) hi lo
  f 0 11 6 != 0 || f 0 63 32 != 0 || f 3 63 56 != 0 || f 5 63 16 != 0 || d.getD 7 0 != 0

/-- An alignment rule of R404 fails. -/
def descMisaligned (d : List UWord) : Bool :=
  let w (i : Nat) : Nat := (d.getD i 0).toNat
  w 1 % 4096 != 0 || w 2 % 2 ^ 30 != 0 || w 4 % 2 ^ 30 != 0

/-- A descriptor as it is stored: the zero fields read as zero, TEARDOWN is read-only (R7, R404, R414). -/
def descStored (d : List UWord) : List UWord :=
  [d.getD 0 0 &&& 0xFFFFF01F, d.getD 1 0, d.getD 2 0, d.getD 3 0 &&& 0xFFFFFFFFFFFFFF, d.getD 4 0, d.getD 5 0 &&& 0xFFFF, d.getD 6 0, 0]

/-- `CONTEXT_DESCRIPTOR_WRITE` (R405). -/
def execContextDescriptorWrite (ctx : Nat) (desc : List UWord) (s : State) : Res :=
  let c := s.context ctx
  let v := (desc.getD 0 0).getLsbD 0
  let new := descStored desc
  .next (if 1023 < ctx then s
    else if c.valid then
      if v then s
      else
        let s := s.modContext ctx fun c => { c with desc := (c.desc.headD 0 &&& ~~~ (1 : UWord)) :: c.desc.drop 1, teardown := true }
        let s := dropMisses { s with pageReqs := s.pageReqs.filter fun r => r.ctx != ctx } ctx
        ((s.counters.filter fun k => k.2.ctx == ctx && k.2.state == 1).map fun k => k.1).foldl cancel s
    else
      let twin := (List.range 1024).any fun x => x != ctx && (s.context x).valid && (s.context x).d 0 31 12 == fld (desc.getD 0 0) 31 12
      let bad := twin || descReserved desc || (!(desc.getD 0 0).getLsbD 1 && (desc.getD 0 0).getLsbD 2) || descMisaligned desc || c.teardown
      let new := if v && bad then (new.headD 0 &&& ~~~ (1 : UWord)) :: new.drop 1 else new
      s.modContext ctx fun c => { c with desc := new })

/-- GO is refused (R485). -/
def State.ckptRefused (s : State) : Bool :=
  s.ckptRun.isSome || s.queues.any (fun q => q.2.en) || s.teams.any (fun t => !t.isSup && t.st != .done) || s.engOps.any (fun o => o.status == 0) ||
    s.clusters.any fun c => !c.2.mx.resv.isEmpty

/-- Where an image holds a line's tag (R485): the byte's offset from BASE, and whether it is the byte's high half. A die's tags stand in the order of
its data, the first in the low half (DESIGN CHOICE, log entry 77). -/
def State.tagPlace (s : State) (line : Nat) : Nat × Bool :=
  let k := s.local_ line / 128
  (1020 * 2 ^ 30 + s.home line * (1020 * 2 ^ 20) + k / 2, k % 2 == 1)

/-- The lines whose tags a byte of an image holds, low half first. -/
def State.taggedLines (s : State) (off : Nat) : List Nat :=
  let o := off - 1020 * 2 ^ 30
  let at_ (h : Nat) : Nat := s.fromLocal (o / (1020 * 2 ^ 20)) (128 * (2 * (o % (1020 * 2 ^ 20)) + h))
  [at_ 0, at_ 1]

/-- A line place as it is stored (R225, R485): the bytes of its used sectors, and of the others free ones. -/
def State.place (s : State) (line : Nat) : List Byte :=
  let st := s.stored line
  st ++ (List.range (128 - st.length)).map fun i => Config.unusedByte s.draw (line + st.length + i)

/-- The image of device memory (R485): the line places that are not a ZERO line's, then the tags of all dies. -/
def State.image (s : State) : List Host.Cell :=
  let lines := (((s.mem.map fun c => lineOf c.1) ++ s.tags.map fun t => t.1).eraseDups).filter fun l => s.lineTag l != 1
  let tagged (m : List Host.Cell) (l : Nat) : List Host.Cell :=
    let p := s.tagPlace l
    let old := (AMap.get 0x11 m p.1).toNat
    AMap.set m p.1 (BitVec.ofNat 8 (if p.2 then old % 16 + 16 * s.lineTag l else old / 16 * 16 + s.lineTag l))
  lines.foldl tagged (lines.foldl (fun m l => (spread l (s.place l)).foldl (fun m c => AMap.set m c.1 c.2) m) [])

/-- Device memory as an image gives it (R485): every line, tag and POISON state. -/
def restoreImage (s : State) (m : List Host.Cell) : State :=
  let cells := (m.filter fun c => 1020 * 2 ^ 30 ≤ c.1 && c.1 < 1020 * 2 ^ 30 + 4 * (1020 * 2 ^ 20)).flatMap fun c =>
    (s.taggedLines c.1).zip [c.2.toNat % 16, c.2.toNat / 16]
  cells.foldl (fun s x => if x.2 = 1 then s else setStored s x.1 x.2 ((List.range 128).map fun i => AMap.get 0 m (x.1 + i)))
    { s with mem := [], tags := [], caches := [] }

/-- A write of CKPTCTL with GO (R484, R485): DIR is written, and a transfer starts or is refused. `img` is the host's image for a restore, by offset from
CKPTBASE. -/
def ckptGo (s : State) (dir : Bool) (img : List (Nat × Byte)) : State :=
  let s := { s with ckptDir := dir }
  if s.ckptRefused then { s with ckptErr := true }
  else
    { s with ckptErr := false, ckptRun := some (s.ckptBase.toNat, dir)
             ckptImage := if dir then some (s.ckptBase.toNat, img.foldl (fun m c => AMap.set m c.1 c.2) []) else none }

/-- `CHECKPOINT_DEVICE_TO_HOST` (R484, R485): a write of CKPTCTL with GO and without DIR. -/
def execCheckpointDeviceToHost (v : UWord) (s : State) : Res :=
  .next (if v.getLsbD 0 && !v.getLsbD 1 then ckptGo s false [] else s)

/-- `CHECKPOINT_HOST_TO_DEVICE` (R484, R485): a write of CKPTCTL with GO and DIR; the image is what host memory holds. -/
def execCheckpointHostToDevice (v : UWord) (image tags : List (Nat × BitVec 8)) (s : State) : Res :=
  .next (if v.getLsbD 0 && v.getLsbD 1 then ckptGo s true (image ++ tags.map fun c => (1020 * 2 ^ 30 + c.1, c.2)) else s)

/-- `CHECKPOINT_TRANSFER_DONE` (R485): once the host's copies are recalled (R324), the copy as a whole (DESIGN CHOICE, log entry 77). -/
def execCheckpointTransferDone (s : State) : Res :=
  .next (match s.ckptRun with
  | none => s
  | some (base, dir) =>
    match s.hostLines.filter fun h => dir || h.2 with
    | [] =>
      let s := match dir, s.ckptImage with
        | true, some (_, m) => restoreImage s m
        | true, none => s
        | false, _ => { s with ckptImage := some (base, s.image), draw := s.draw + 1 }
      { s with ckptRun := none }
    | l => l.foldl (fun s h => sendSnoop s h.1) s)

/-- `BANKMODE_WRITE` (R219). -/
def execBankmodeWrite (cl : Nat) (v : UWord) (s : State) : Res := .next (bankmodeSet s cl v)

/-- `LOGGIA_EVICT` (R435). -/
def execLoggiaEvict (core : Nat) (s : State) : Res := .next (evictLoggia s core)

/-- `PREEMPTREQ_WRITE` (R449). -/
def execPreemptreqWrite (core : Nat) (s : State) : Res := .next (s.modCore core fun c => { c with preemptReq := true })

/-- `TRAPGRP_WRITE` (R432). -/
def execTrapgrpWrite (core : Nat) (v : UWord) (s : State) : Res := .next (trapgrpSet s core v)

/-- `REGVAL_WRITE` (R433). -/
def execRegvalWrite (core : Nat) (v : UWord) (s : State) : Res := .next (regvalSet s core v)

/-- `MAILBOX_REMOVE_CORE` (R449). -/
def execMailboxRemoveCore (die core : Nat) (s : State) : Res := .next (requestRemoval s die core)

/-- `MAILBOX_UNDEFINED_REQUEST` (R449): logged; REQ returns to 0. -/
def execMailboxUndefinedRequest (die req : Nat) (s : State) : Res :=
  .next (if req < 2 ∨ 255 < req then s else logged s [0x449, die, req])

end Sys2Proof.Machine
end

