-- ==== Sys2Proof/Machine/MatrixDrain.lean ====
section
/-! DEFINITION. The drain of an accumulator tile: the check phase (R177 to R183), the write phase (R172 to R174) and the commit
(R175, R208). -/

namespace Sys2Proof.Machine

/-- The magnitude of a value. -/
def XR.abs (x : XR) : XR :=
  match x with
  | .fin _ m e => .fin false m e
  | .inf _ => .inf false
  | r => r

/-- REL × 2^−30 × |E| + 2^ABS, where ABS −256 stands for no second term (R177, R178). -/
def threshold (rel : Nat) (abs : Int) (e : XR) : XR :=
  let a := XR.mul (.fin false rel (-30)) e.abs
  if abs = -256 then a else a.add (.fin false 1 abs)

/-- A row or column is tested: its expected sum is finite (R177), and in an i32 tile it holds no clamped element (R179). -/
def Tile.rowTested (t : Tile) (i : Nat) : Bool := (t.er.get (.fin false 0 0) i).isFin && !t.skipR.elem i
def Tile.colTested (t : Tile) (j : Nat) : Bool := (t.ec.get (.fin false 0 0) j).isFin && !t.skipC.elem j

/-- An observed sum mismatches a finite expected sum (R177, R179). -/
def Tile.differs (t : Tile) (e o : XR) : Bool :=
  if t.isInt then (e.toInt - o.toInt) % (2 ^ 32 : Nat) != 0
  else !o.isFin || (threshold t.rel t.abs e).lt ((o.add e.flip).abs)

def Tile.rowBad (t : Tile) (i : Nat) (o : XR) : Bool := t.rowTested i && t.differs (t.er.get (.fin false 0 0) i) o
def Tile.colBad (t : Tile) (j : Nat) (o : XR) : Bool := t.colTested j && t.differs (t.ec.get (.fin false 0 0) j) o

/-- The mismatched rows and columns (R180), and how many rows and columns were not tested (R177). -/
def Tile.check (t : Tile) : List Nat × List Nat × Nat :=
  ((List.range 256).filter fun i => t.rowBad i (t.obsRow i),
   (List.range t.nb).filter fun j => t.colBad j (t.obsCol j),
   ((List.range 256).filter fun i => !t.rowTested i).length + ((List.range t.nb).filter fun j => !t.colTested j).length)

/-- Writes one element. -/
def Tile.setEl (t : Tile) (i j : Nat) (w : Word) : Tile :=
  { t with el := if w = 0 then AMap.erase t.el (512 * i + j) else t.el.set (512 * i + j) w }

/-- The fix of R180: v', δ and whether it passes. -/
def Tile.fix (t : Tile) (i j : Nat) : Option (Word × XR) :=
  let o := t.obsRow i
  let v := t.val i j
  if !o.isFin || !v.isFin then none
  else
    let d := (t.er.get (.fin false 0 0) i).add o.flip
    let w : Word :=
      if t.isInt then BitVec.ofNat 32 (wrap 32 (v.toInt + d.toInt)) else BitVec.ofNat 32 (rne fmtF32 (odd (v.add d))).1
    let t' := t.setEl i j w
    if !(t'.val i j).isFin || t'.rowBad i (t'.obsRow i) || t'.colBad j (t'.obsCol j) then none else some (w, d)

/-- One byte of CRC-64 in the polynomial of ECMA-182, most significant bit first (R182). -/
def crcBits : Nat → UWord → UWord
  | 0, c => c
  | n + 1, c => crcBits n (if c.getLsbD 63 then (c <<< 1) ^^^ 0x42F0E1EBA9EA3693#64 else c <<< 1)
def crcByte (c : UWord) (b : Byte) : UWord := crcBits 8 (c ^^^ ((b.setWidth 64) <<< 56))
def crc64 (l : List Byte) : UWord := l.foldl crcByte 0

/-- The mismatch vector: MR in bits 255 to 0, MC in bits 767 to 256 (R182), least significant byte first (DESIGN CHOICE, log entry 96). -/
def mismatchVector (mr mc : List Nat) : List Byte :=
  natBytes 96 ((mr.map fun i => 2 ^ i).sum + (mc.map fun j => 2 ^ (256 + j)).sum)

/-- The granted drain of a cluster. -/
def Matrix.draining (mx : Matrix) : Option MxOp := mx.resv.find? fun o => o.kind == 3 && o.granted

/-- The check ends with an outcome that lets the write phase run. -/
def checkGood (s : State) (cl : Nat) (o : MxOp) (out unchk : Nat) : State :=
  (s.modTile cl o.tile fun t => { t with outcome := out, unchk := unchk }).modOp cl o.id fun o =>
    { o with outcome := out, streamed := 0, fl := 0, page := none, failed := false }

/-- The check ends the drain: the tile is Held (R180). -/
def checkBad (s : State) (cl : Nat) (o : MxOp) (out : Nat) (loc : Option (Nat × Nat × Word × XR)) : State :=
  endWith s cl o out fun s => s.modTile cl o.tile fun t => { t with st := .held, outcome := out, loc := loc }

/-- The check ends because an access has failed for good (R471). -/
def checkStops (s : State) (cl : Nat) (o : MxOp) (status : Nat) : State :=
  let (s, o) := beginsEnd s cl o status
  checkBad s cl o status none

/-- `DRAIN_CHECK_END` (R180, R182): the outcome of the check; a RETRY writes the signature once (R192). A drain that resumes a stopped one keeps its outcome (R207) (DEDUCED, log entry 38). -/
def execDrainCheckEnd (cl : Nat) (s : State) : Res :=
  .next (match (s.mx cl).draining with
  | none => s
  | some o =>
    if o.outcome ≠ 0 then s
    else if o.signed then checkBad s cl o 5 none
    else if let some st := o.ends then checkBad s cl o st none
    else
      let t := s.tile cl o.tile
      match t.stopped with
      | some (_, rows, fl) =>
        (s.modTile cl o.tile fun t => { t with stopped := none }).modOp cl o.id fun o =>
          { o with outcome := t.outcome, streamed := rows, fl := fl.toNat }
      | none =>
        let (mr, mc, unchk) := t.check
        let fixed := match mr, mc with
          | [i], [j] => (t.fix i j).map fun f => (i, j, f.1, f.2)
          | _, _ => none
        match mr, mc, fixed with
        | [], [], _ => checkGood s cl o (if t.fixed then 3 else 2) unchk
        | _, _, some (i, j, w, d) =>
          if blkFld o.words 430 430 = 1 then checkGood (s.modTile cl o.tile fun t => t.setEl i j w) cl o 3 unchk
          else checkBad s cl o 4 (some (i, j, w, d))
        | _, _, none =>
          match rdRange s (s.mxAcc cl o t.openCtx) (t.openBlk + 64) 24 with
          | (s, .page v) => opWaits s cl o.id v
          | (s, .hold) => s
          | (s, .status c) => checkStops s cl o (if c = 10 then 10 else 11)
          | (s, .ok b) =>
            let r := (b.headD 0).toNat
            let sig := natBytes 8 (crc64 t.image).toNat ++ natBytes 8 (crc64 (mismatchVector mr mc)).toNat
            if 1 ≤ rcount r && b.drop 8 == sig then checkGood s cl o 6 unchk
            else if rlimit r ≤ rcount r then checkBad s cl o 7 none
            else blkPut s cl o t.openCtx (t.openBlk + 72) sig fun s done =>
              if done then checkBad (s.modOp cl o.id fun o => { o with signed := true }) cl o 5 none else checkStops s cl o 11)

/-- The drain's generator (R114). -/
def State.drainGen (s : State) (cl : Nat) : UWord := (s.cluster cl).genD.getD (genLoad 0 s.kdev 2 cl)

/-- The fields of a drain's output (R189). -/
def MxOp.dfmt (o : MxOp) : Nat := blkFld o.words 419 416
def MxOp.dm (o : MxOp) : Nat := blkFld o.words 464 456
def MxOp.dn (o : MxOp) : Nat := blkFld o.words 474 465
def MxOp.drow0 (o : MxOp) : Nat := blkFld o.words 455 448

/-- Exact values of an output row after its bound (R172): nothing under a trap. -/
def drainRow (o : MxOp) (t : Tile) (r : Nat) : Option (List XR × Nat) :=
  (List.range o.dn).foldl (fun acc j => match acc with
    | none => none
    | some (xs, fl) =>
      match o.bnd with
      | none => some (xs ++ [t.val r j], fl)
      | some b => (bndValue b (t.val r j)).map fun v => (xs ++ [v.1], fl ||| v.2)) (some ([], 0))

/-- A line of MX blocks of which some, but not all, are zero (R174): blocks lie `pb` bytes apart from the row's start, with
`eb` bytes of elements each. -/
def partlyZero (eb pb off : Nat) (row : List Byte) : Bool :=
  let line := (row.drop off).take 128
  !line.all (· == 0) &&
    (List.range (row.length / pb)).any fun t =>
      off ≤ pb * t && pb * t + eb ≤ off + 128 && ((row.drop (pb * t)).take eb).all (· == 0)

/-- The MXZ tag of a line, or RAW when it has more than 23 stored granules (R174, R226) (DEDUCED, log entry 41). -/
def mxzTag (line : List Byte) : Nat :=
  let n := ((lineWords 4 line).filter (· != 0)).length
  if n ≤ 7 then 8 else if n ≤ 15 then 9 else if n ≤ 23 then 10 else 0

/-- The lines of an output row, from byte `off` of the row on: a whole partly zero MX line of device memory has its own tag (R174). -/
def tagLines (mx : Bool) (eb pb : Nat) (row : List Byte) : Nat → List OutLine → List OutLine
  | _, [] => []
  | off, l :: r =>
    let own := mx && l.bytes.length == 128 && partlyZero eb pb off row && (match l.tgt with
      | .dpa _ => true
      | _ => false)
    (if own then { l with tag := some (mxzTag (l.bytes.map fun c => c.2)) } else l) :: tagLines mx eb pb row (off + l.bytes.length) r

/-- Makes the remaining rows of a drain; each row's progress, flags and generator are kept (R207). The words of an i32 tile written unchanged
draw nothing, whatever the rounding field (DESIGN CHOICE, log entry 10). -/
def drainRows (cl id : Nat) : Nat → State → State × EngRes
  | 0, s => (s, .ok [])
  | k + 1, s =>
    match (s.mx cl).resv.find? fun o => o.id == id with
    | none => (s, .ok [])
    | some o =>
      if o.dm ≤ o.streamed then (s, .ok [])
      else
        let a := s.mxAcc cl o o.ctx
        let t := s.tile cl o.tile
        let r := o.drow0 + o.streamed
        let fmt := o.dfmt
        let bsz := bszOf (blkFld o.words 427 426)
        let packed := blkFld o.words 428 428 == 1
        let va := blkFld o.words 319 256 + o.streamed * blkFld o.words 351 320
        let vs := blkFld o.words 415 352 + o.streamed * (o.dn / bsz)
        let cv : Cvt := { mode := blkFld o.words 422 420, sat := blkFld o.words 423 423 == 1, subst := blkFld o.words 425 424,
                          cvsub := o.cvsub.toNat }
        let v := (drainRow o t r).getD ([], 0)
        let out : RowOut :=
          if t.isInt && fmt = 0 then
            { bytes := v.1.flatMap fun x => natBytes 4 (wrap 32 x.toInt), scales := [], fl := 0, gen := s.drainGen cl, lines := o.lines }
          else encodeRow fmt bsz packed cv (s.drainGen cl) o.lines va v.1
        let eb := bsz * fmtBits fmt / 8
        match placeRange s a va out.bytes with
        | (s, .inl r) => (s, r)
        | (s, .inr l) =>
          match placeRange s a vs out.scales with
          | (s, .inl r) => (s, r)
          | (s, .inr m) =>
            let l := tagLines (isMx fmt) eb (if packed then eb + 1 else eb) out.bytes 0 l ++ m
            let s := if cv.mode = 6 then s.modCluster cl fun c => { c with genD := some out.gen } else s
            drainRows cl id k
              (s.modOp cl id fun o => { o with streamed := o.streamed + 1, fl := o.fl ||| v.2 ||| out.fl, lines := out.lines, page := none, failed := false,
                                               out := l.foldl addLine o.out })

/-- Writes the rows made so far, each line once (R213); whether all are written and acknowledged (R307). -/
def drainFlush (s : State) (cl : Nat) (o : MxOp) : State × Bool :=
  let (s, out) := putLines s (s.mxAcc cl o o.ctx) o.out
  let s := s.modOp cl o.id fun o => { o with out := out }
  (s, out.isEmpty && !s.unacked (mxCode cl o.id))

/-- Adds with saturation (R189). -/
def satAdd (n v k : Nat) : Nat := min (2 ^ n - 1) (v + k)

/-- A drain stops (R207): the rows written stay, DPROG and DSTAT say so, and the tile stays Checking. After a refused write no row counts (DESIGN
CHOICE, log entry 83). -/
def stopDrain (s : State) (cl : Nat) (o : MxOp) : State :=
  let (s, o) := if o.ends.isSome then (s, o) else beginsEnd s cl o 11
  let o := if o.refused then { o with streamed := 0, fl := 0 } else o
  blkPut s cl o o.ctx (o.blk + 124) (natBytes 2 o.streamed) fun s _ =>
    endWith s cl o 11 fun s => s.modTile cl o.tile fun t => { t with stopped := some (o.blk, o.streamed, BitVec.ofNat 64 o.fl) }

/-- The tile after a commit (R169, R175): Kept or Zeroed. -/
def committedTile (keep : Bool) (t : Tile) : Tile :=
  if keep then
    { t with st := .kept, keptR := t.obs.1, keptC := t.obs.2, er := [], ec := [], skipR := [], skipC := [], pend := 0, clamps := 0,
             loc := none, fixed := false, was := 1 }
  else { owner := t.owner, outcome := t.outcome }

/-- Bytes 104 to 120 of a block after a commit, from the old ones (R189, R208): DSTAT, DFLAGS, UNCHK, the counters and DRETRY. -/
def commitRecord (old : List Byte) (o : MxOp) (t : Tile) (fl : UWord) (retries : Nat) : List Byte :=
  let at_ (i n : Nat) : Nat := bytesNat ((old.drop i).take n)
  let cnt (code i : Nat) : List Byte := natBytes 2 (satAdd 16 (at_ i 2) (if o.outcome = code then 1 else 0))
  [BitVec.ofNat 8 o.outcome] ++ natBytes 2 fl.toNat ++ (old.drop 3).take 1 ++ natBytes 2 t.unchk ++ cnt 2 6 ++ cnt 3 8 ++ cnt 6 10 ++
    natBytes 4 (satAdd 32 (at_ 12 4) t.clamps) ++ [BitVec.ofNat 8 retries]

/-- The drain commits (R175, R183, R208) with one write of its record (DEDUCED, log entries 37 and 72). -/
def commitDrain (s : State) (cl : Nat) (o : MxOp) : State :=
  let t := s.tile cl o.tile
  let denied : MxOp := { o with ends := some 11 }
  match rdRange s (s.mxAcc cl o o.ctx) (o.blk + 104) 16 with
  | (s, .page v) => opWaits s cl o.id v
  | (s, .hold) => s
  | (s, .status _) => stopDrain s cl denied
  | (s, .ok old) =>
    match (if t.was ≠ 1 then (s, EngRes.ok [0]) else rdRange s (s.mxAcc cl o t.openCtx) (t.openBlk + 64) 1) with
    | (s, .page v) => opWaits s cl o.id v
    | (s, .hold) => s
    | (s, .status _) => stopDrain s cl o
    | (s, .ok r) =>
      let fl := t.pend ||| BitVec.ofNat 64 o.fl
      blkPut s cl o o.ctx (o.blk + 104) (commitRecord old o t fl (rcount (r.headD 0).toNat)) fun s done =>
        if done then
          closeOp (s.modTile cl o.tile (committedTile (t.was == 2 || (t.was == 1 && blkFld o.words 429 429 == 1)))) cl o o.outcome fl
        else stopDrain s cl denied

/-- `DRAIN_COMMIT` (R172, R175, R206, R207): the write phase, and the commit at its end. A trap bound stops it before anything is
written; a row that cannot be written stops it after the rows before; a write refused by another device (R422) stops it with no row counted
(DESIGN CHOICE, log entry 83). -/
def execDrainCommit (cl : Nat) (s : State) : Res :=
  .next (match (s.mx cl).draining with
  | none => s
  | some o =>
    if o.outcome = 0 then s
    else if o.ends.isSome then stopDrain s cl o
    else
      let t := s.tile cl o.tile
      if (List.range o.dm).any fun r => (drainRow o t (o.drow0 + r)).isNone then
        endWith s cl o 8 fun s => s.modTile cl o.tile fun t => { t with st := .held, outcome := 8 }
      else
        let end_ (s : State) (k : State → MxOp → State) : State := match (s.mx cl).draining with
          | none => s
          | some o => match drainFlush s cl o with
            | (s, true) => k s o
            | (s, false) => s
        match drainRows cl o.id (o.dm + 1) s with
        | (s, .ok _) => end_ s fun s o => if o.refused then stopDrain s cl o else commitDrain s cl o
        | (s, .page v) => opWaits s cl o.id v
        | (s, .hold) => s
        | (s, .status _) => end_ s fun s o => stopDrain s cl o)

end Sys2Proof.Machine
end

