-- ==== Sys2Proof/Machine/Scan.lean ====
section
/-! DEFINITION. `scant.chunk` and what aborts a chunk (R445, R446). -/

namespace Sys2Proof.Machine

/-- A waiting team that may be placed pends on a die (R341, R446): no core takes it now, or the die that takes it is this one (DEDUCED, log entry
94). -/
def State.pendsOn (s : State) (x die : Nat) : Bool :=
  match (s.team x).st with
  | .offered d => d == die
  | _ => s.mayPlace x && (match s.dieFor x with
    | some (d, _) => d == die
    | none => true)

/-- A PRIO 3 team pends on the target's die and would fit the target (R16, R221, R446). -/
def State.urgent (s : State) (t : Nat) : Bool :=
  (List.range s.teams.length).any fun x =>
    let tm := s.team x
    !tm.isSup && tm.prio == 3 && s.pendsOn x (dieOf t) && (s.needs x).1 ≤ 32 && (s.needs x).2 ≤ 196608 &&
      (s.launch tm.launch).e.nbanks ≤ (s.freeBanksOf (clusterOf t)).length

/-- `scant.chunk` (R445, R446): the group waits while the chunk runs. -/
def execScantChunk (o : UOp) (s : State) : Res :=
  .next (scanWord s o 0x1F01FF fun s t =>
    let c := (s.u o.a).toNat / 2 ^ 16 % 32
    if !s.claims t then advance (setU s o.d (refuse 2))
    else if c ≠ (s.core t).next ∨ 19 < c then advance (setU s o.d (refuse 3))
    else if s.urgent t then advance (setU s o.d (refuse 4))
    else holdGroup (s.modCore t fun k => { k with chunk := some c, chunkBy := some (s.cur, o.d) }) (.scan t))

end Sys2Proof.Machine
end

