-- ==== Sys2Proof/Machine/Recovery.lean ====
section
/-! DEFINITION. Memory errors (R227, R477), rollback (R478 to R480), warm reset (R482, R483), removal of a core and migration of
sets (R473, R496, R497), and scan chunks (R445, R446). -/

namespace Sys2Proof.Machine

/-- `HBM_UNCORRECTABLE_ERROR` (R227): the line has the stored sectors and the tag that the error leaves. -/
def execHbmUncorrectableError (line tag : Nat) (stored : List (BitVec 8)) (s : State) : Res := .next (setStored s (lineOf line) tag stored)

/-- Every team of a launch ends without the handler; swapped-out ones are discarded; its sets lose their members (R478 step 1). -/
def endTeams (s : State) (l : Nat) : State :=
  let ts := (List.range s.teams.length).filter fun t => (s.team t).launch == l && !(s.team t).isSup && (s.team t).st != .done
  let s := ts.foldl (fun s t =>
    let gs := (s.team t).groups.filter fun g => !(s.group g).ended
    if gs.isEmpty then (if (s.team t).st == .held then s else completeTeam s t) else gs.foldl killGroup s) s
  let s := ts.foldl (fun s t => if (s.team t).st == .held then endHeld s t else s) s
  { s with engOps := s.engOps.map fun o => if o.launch = l then { o with gone := true } else o }

/-- A launch starts to roll back (R478). -/
def startRollback (s : State) (l : Nat) : State :=
  endTeams (s.modLaunch l fun la => { la with rolling := true }) l

/-- A snapshotted unit is as it was before the launch's first write (R478). -/
def restoreUnit (s : State) (sn : Snap) : State :=
  { s with
    mem := memPut (s.mem.filter fun c => unitOf c.1 != sn.unit) sn.bytes
    tags := sn.tags.foldl (fun m t => AMap.set m t.1 t.2) (s.tags.filter fun t => unitOf t.1 != sn.unit) }

/-- Every unit of a launch is restored and its frames freed. -/
def restoreUnits (s : State) (l : Nat) : State :=
  freeFrames ((s.launch l).snaps.foldl restoreUnit s) l

/-- Lines of a launch's units that the host may cache: they are recalled before the units are restored (R324). -/
def State.unitCopies (s : State) (l : Nat) : List Nat :=
  (s.hostLines.filter fun h => (s.launch l).snaps.any fun sn => sn.unit == unitOf h.1).map fun h => h.1
def recallUnits (s : State) (l : Nat) : State := (s.unitCopies l).foldl sendSnoop s

/-- A launch's counter has reached its target and is on its way to complete (R339). -/
def State.ending (s : State) (l : Nat) : Bool :=
  let c := (s.launch l).e.lcnt
  (s.counter c).fin != 0 && s.launchAt c == some l

/-- A launch's counter ends with a status (R478, R483). -/
def endCounter (s : State) (l status : Nat) : State :=
  (s.modLaunch l fun la => { la with rolling := false, finished := false, cancelled := true, made := la.e.hosted }).modCounter (s.launch l).e.lcnt fun c =>
    { c with done := c.target, status := if c.status = 0 then status else c.status }

/-- The counter of a launch that a graph rollback takes up again is open, also that of a member that had completed (R479). -/
def reopen (s : State) (c : Nat) : State :=
  s.modCounter c fun c => if c.state = 2 then { c with state := 1, done := 0, status := 0, fin := 0 } else c

/-- A launch is placed again from the sequencer's copy of its entry (R478, R263), unless it may not be: it is then reported lost,
and a cancelled one ends cancelled. -/
def replay (s : State) (l : Nat) : State :=
  let la := s.launch l
  let s := reopen s la.e.lcnt
  let c := s.counter la.e.lcnt
  if c.state = 3 then endCounter s l 0x13
  else if la.unrollable || 3 ≤ la.replays then endCounter s l 0x20
  else
    let s := s.modLaunch l fun la => { la with finished := true, rolling := false }
    let new : Launch := { ctx := la.ctx, queue := la.queue, e := la.e, caps := la.caps, replays := la.replays + 1 }
    let s := ({ s with launches := s.launches ++ [new] }).modCounter la.e.lcnt fun c => { c with done := 0, state := 1, status := 0 }
    makeNext s s.launches.length.pred

/-- The launches of a graph that have started, in order of acceptance (R479). -/
def State.graphLaunches (s : State) (g : Nat) : List Nat :=
  (List.range s.launches.length).filter fun l =>
    let la := s.launch l
    la.accepted && s.graphOf l == some g && !la.clusters.isEmpty && (!la.finished || !la.snaps.isEmpty || !(s.launches.drop (l + 1)).any fun x => x.e.lcnt == la.e.lcnt)

/-- A launch meets an error that it cannot go on from (R477, R478): it rolls back; one that took no snapshot, or that is unprotected, is
reported lost (R477, R480). -/
def launchError (s : State) (launch : Nat) : State :=
  let la := s.launch launch
  if s.launches.length ≤ launch || la.finished || la.rolling || !la.accepted || s.ending launch then s
  else if !la.e.snap then killLaunch s launch 0x20
  else if la.unprotected && (s.unitCopies launch).isEmpty then killLaunch (restoreUnits s launch) launch 0x20
  else startRollback s launch

/-- `ROLLBACK` (R477, R478). -/
def execRollback (launch : Nat) (s : State) : Res := .next (launchError s launch)

/-- `SRAM_UNCORRECTABLE_ERROR` (R477). -/
def execSramUncorrectableError (launch : Nat) (s : State) : Res := .next (launchError s launch)

/-- The device after a warm reset (R482, R483): `lost` are the contexts reported lost (DEDUCED, log entry 52). A launch whose units the host still
caches goes on as a rollback that finds none exposed (R324). -/
def warmResetBy (s : State) (lost : List Nat) : State :=
  let started (l : Nat) : Bool := s.teams.any fun t => t.launch == l && !t.isSup && (match t.st with
    | .pending => t.saved
    | .offered _ => t.saved
    | .loggia => t.saved
    | _ => true)
  let open_ := (List.range s.launches.length).filter fun l => (s.launch l).accepted && !(s.launch l).finished && !s.ending l
  let s1 : State :=
    { s with
      issues := [], curOld := none
      groups := s.groups.map fun g => { g with resident := false, ended := true, mset := none, records := [], hold := .none }
      teams := s.teams.map fun t => if t.isSup || started t.launch then { t with st := .done, banks := [], mail := [], saved := false }
        else { t with st := .pending }
      cores := s.cores.map fun c => (c.1, { scanexp := c.2.scanexp }), clusters := []
      dies := s.dies.map fun d => (d.1, { map := d.2.map, good := d.2.good, failedCores := d.2.failedCores, lost := d.2.lost, tokens := d.2.loadedTokens,
                                          loadedTokens := d.2.loadedTokens, mingap := d.2.mingap, ring := List.range d.2.loadedTokens })
      caches := [], tlbs := [], walks := [], misses := [], pageReqs := [], invals := [], stores := [], landing := [], inbox := [], pushes := [], answers := []
      engOps := s.engOps.map fun o => if o.status = 0 then { o with status := 25 } else o
      fabReqs := [], hostReqs := [], heldIn := [], owned := [], doorbells := [], swapReqs := [], readies := []
      saveFrames := s.saveFrames + (s.teams.filter fun t => t.saved && !t.isSup).length
      clock := 0 }
  let s2 := open_.foldl (fun s l =>
    let la := s.launch l
    if lost.elem la.ctx then endCounter (freeFrames s l) l 0x20
    else if !started l then s
    else if la.e.snap && !la.unprotected then
      if (s.unitCopies l).isEmpty then replay (restoreUnits s l) l
      else s.modLaunch l fun la => { la with rolling := true, snaps := la.snaps.map fun sn => { sn with exp := false, gonly := false } }
    else if (s.unitCopies l).isEmpty then endCounter (restoreUnits s l) l 0x20
    else s.modLaunch l fun la => { la with rolling := true, snaps := la.snaps.map fun sn => { sn with exp := false, gonly := false } }) s1
  lost.eraseDups.foldl (fun s c =>
    let s := s.modContext c fun x => { x with desc := (x.desc.headD 0 &&& ~~~ (1 : UWord)) :: x.desc.drop 1, teardown := true }
    ((s.counters.filter fun k => k.2.ctx == c && k.2.state == 1 && k.2.level != 0).map fun k => k.1).foldl (fun s k =>
      s.modCounter k fun x => { x with done := x.target, status := if x.status = 0 then 0x20 else x.status }) s) s2

/-- `WARM_RESET` (R482). -/
def execWarmReset (s : State) : Res := .next (warmResetBy s [])

/-- A cancelled rollback ends after its first step (R478). -/
def State.rollCancelled (s : State) (l : Nat) : Bool := (s.counter (s.launch l).e.lcnt).state == 3

/-- `ROLLBACK_RESTORE` (R478 steps 2 to 4, R479). -/
def execRollbackRestore (launch : Nat) (s : State) : Res :=
  let la := s.launch launch
  .next (if !la.rolling then s
    else if !s.enginesOver launch then s
    else
      let s := pushLaunch s launch
      if !s.writesOver launch then s
      else if s.rollCancelled launch then endCounter (freeFrames s launch) launch 0x13
      else if la.unprotected then
        if (s.unitCopies launch).isEmpty then endCounter (restoreUnits s launch) launch 0x20 else recallUnits s launch
      else
        let exposed := (s.launch launch).snaps.filter fun sn => sn.exp
        if exposed.isEmpty then
          if (s.unitCopies launch).isEmpty then replay (restoreUnits s launch) launch else recallUnits s launch
        else
          match s.graphOf launch with
          | some g =>
            let ls := s.graphLaunches g
            let waiting := ls.filter fun l => !(s.launch l).rolling && !(s.launch l).finished && !s.ending l
            let units := ls.flatMap fun l => (s.launch l).snaps.filter fun sn => sn.exp
            if !units.all (fun sn => sn.gonly) then
              warmResetBy s (la.ctx :: units.flatMap fun sn => sn.by_)
            else if !waiting.isEmpty then waiting.foldl startRollback s
            else if !ls.all (fun l => s.enginesOver l && s.writesOver l && !s.ending l) then ls.foldl pushLaunch s
            else if !ls.all (fun l => (s.unitCopies l).isEmpty) then ls.foldl recallUnits s
            else
              let s := ls.reverse.foldl restoreUnits s
              let s := s.modCounter g fun c => { c with done := 0 }
              ls.foldl replay s
          | none => warmResetBy s (la.ctx :: exposed.flatMap fun sn => sn.by_))

/-- A set's tiles after its migration (R473): an open interval is Held after RETRY, any other owned tile Zeroed (DEDUCED, log entry 53);
pending events are discarded (R168). -/
def migrateTile (draw : Nat) (t : Tile) : Tile :=
  if t.owner.isNone then t
  else
    match t.st with
    | .accumulating | .checking | .held =>
      { t with st := .held, outcome := 5, loc := none, stopped := none, pend := 0, clamps := 0, el := (List.range 131072).map fun i => (i, Config.lostElem draw i) }
    | _ => { owner := t.owner }

/-- The sets of a cluster that own a tile migrate (R473), or every set when no spare takes the cluster's place (R497): what has not completed is
ABANDONED, the trellis was never loaded, and the members take PREEMPT after their restore. -/
def migrateSets (s : State) (cl : Nat) (every : Bool) : State :=
  let owning := (s.mx cl).sets.filter fun k => every || (s.mx cl).tiles.any fun t => t.2.owner == some k.1
  let s := ((s.mx cl).resv.filter fun o => owning.any fun k => k.1 == o.set).foldl (fun s o => endOp s cl o 9) s
  let s := s.modMx cl fun mx =>
    { mx with
      resv := mx.resv.map fun o => if owning.any fun k => k.1 == o.set then { o with doomed := true, granted := false } else o
      b := none, feeds := [], fetches := [], burst := none
      sets := mx.sets.map fun k => (k.1, { k.2 with loaded := false })
      tiles := mx.tiles.map fun t => (t.1, migrateTile s.draw t.2) }
  { s with
    draw := s.draw + 1
    groups := s.groups.map fun g => match g.mset with
      | some (c, k, _) => if c = cl ∧ owning.any (fun x => x.1 == k) then { g with preempt := true } else g
      | none => g }

/-- A group takes PREEMPT where its lanes stand (R473): a record for each PC. -/
def takePreempt (s : State) (gid : Nat) : State :=
  let g := s.group gid
  let at_ := g.lanesWith fun l => !l.isExited && l.st != .parked
  let pcs := (at_.map fun i => (g.lane i).pc).eraseDups
  let s := s.modGroup gid fun g => { g with preempt := false }
  pcs.foldl (fun s pc => takeTrap s gid .preempt pc false true ((at_.filter fun i => (g.lane i).pc == pc).map fun i => (i, 0))) s

/-- The lowest spare of a die: a good physical cluster that is not mapped and holds no failed core (R495, R496). -/
def Die.spare (d : Die) : Option Nat :=
  d.good.foldl (fun best p =>
    if d.map.any (fun m => m.2 == some p) || d.failedCores.any (fun f => f.1 == p) then best
    else match best with
      | none => some p
      | some b => some (min b p)) none

/-- The next removal request enters the MAILBOX (R449). -/
def nextRemoval (d : Die) : Die :=
  match d.boxNext with
  | c :: r => { d with boxReq := 1, boxArg := c, boxBusy := true, boxNext := r, removing := none, removeStep := 0 }
  | [] => { d with boxReq := 0, boxArg := 0, boxBusy := false, removing := none, removeStep := 0 }

/-- The group that waits for a chunk goes on with a result (R445). -/
def chunkResult (s : State) (core : Nat) (v : UWord) : State :=
  match (s.core core).chunkBy with
  | none => s
  | some (g, d) =>
    let s := s.modCore core fun c => { c with chunkBy := none }
    if (s.group g).hold != .scan core then s
    else
      s.modGroup g fun x =>
        { x.setU d v with hold := .none, lanes := x.lanes.map fun l => if l.isExited then l else { l with pc := l.pc + 4, waited := 0 } }

/-- The cores of a logical cluster. -/
def coresOf (cl : Nat) : List Nat := [0, 1, 2, 3].map fun i => 4 * cl + i

/-- A logical cluster leaves its physical cluster `p`: what its cores, caches, TLBs and banks held is gone, but for the claims on its banks; a chunk
in progress is aborted, and a physical core keeps the outcome of its last scan (R448, R505) (DEDUCED, log entry 87). -/
def vacate (s : State) (cl p : Nat) : State :=
  let cs := coresOf cl
  let s := cs.foldl (fun s c => if (s.core c).chunk.isSome then chunkResult s c (refuse 4) else s) s
  let s := s.modDie (cl / 24) fun d => { d with failedScans := d.failedScans ++ (cs.filter fun c => (s.core c).mismatch).map fun c => (p, c % 4) }
  let s := dropLines s fun c => cs.elem c.holder || c.holder == ccHolder cl
  let s := s.modCluster cl fun c => { mx := c.mx, fifos := c.fifos.map fun f => (f.1, { claim := f.2.claim }) }
  { s with cores := s.cores.filter fun c => !cs.elem c.1
           tlbs := s.tlbs.filter fun e => !((e.place.level == 0 && cs.elem e.place.idx) || (e.place.level == 1 && e.place.idx == cl)) }

/-- The buffered writes of a cluster's cores go on their way (R253, R308), and whether none is left. -/
def emptyBuffers (s : State) (cl : Nat) : State × Bool :=
  let s := (coresOf cl).foldl (fun s c => drainWcb ((s.core c).red.foldl (fun s e => flushRed s c e) s) c fun _ => true) s
  (s, (coresOf cl).all fun c => (s.core c).red.isEmpty && (s.core c).wcb.isEmpty)

/-- Steps 2 to 4 of a removal, one at a time (R496, R497): the core fails and its physical cluster is unmapped; a spare, if there is one, takes the
cluster's numbers; the MAILBOX is free and the cluster rejoins placement. -/
def removalStep (s : State) (die core : Nat) : State :=
  let cl := clusterOf core
  let n := cl % 24
  let d := s.die die
  match d.removeStep with
  | 1 =>
    s.modDie die fun d => match d.map.get none n with
      | some p => { d with failedCores := d.failedCores ++ [(p, core % 4)], map := d.map.set n none, lost := d.lost.set n p, removeStep := 2 }
      | none => d
  | 2 =>
    let s := s.modDie die fun d => { d with map := d.map.set n d.spare, removeStep := 3 }
    { s with firm := { s.firm with degraded := s.firm.degraded || !s.available cl } }
  | _ => s.modDie die nextRemoval

/-- `CORE_REMOVAL` (R496, R497): a request for a core that is unmapped only sets FAILED; else the cluster's teams are swapped out and its sets
migrate, and the further steps follow. -/
def execCoreRemoval (die : Nat) (s : State) : Res :=
  let d := s.die die
  .next (if !d.boxBusy || d.boxReq ≠ 1 then s
    else if d.removeStep ≠ 0 then removalStep s die d.boxArg
    else
      let core := d.boxArg
      let cl := clusterOf core
      let n := cl % 24
      match (if core < 384 && dieOf core = die then d.map.get none n else none) with
      | none =>
        s.modDie die fun d => nextRemoval (match (if core < 384 && dieOf core = die then d.lost.find n else none) with
          | some p => { d with failedCores := if d.failedCores.elem (p, core % 4) then d.failedCores else d.failedCores ++ [(p, core % 4)] }
          | none => d)
      | some p =>
        let s := s.modDie die fun d => { d with removing := some core }
        let s := [0, 1, 2, 3].foldl (fun s i => evictLoggia s (4 * cl + i)) s
        let here (s : State) : List Nat := (List.range s.teams.length).filter fun t =>
          let tm := s.team t
          !tm.isSup && clusterOf tm.core == cl && (tm.st == .resident || tm.st == .outgoing || tm.st == .reserved)
        let s := (here s).foldl (fun s t =>
          if (s.team t).st != .resident then unreserve s t
          else if s.isSpanning t then askSwap s t
          else if s.maySwapOut (s.unit t) then swapOutUnit s t
          else s) s
        let (s, empty) := emptyBuffers s cl
        if !(here s).isEmpty || !empty then s
        else
          let s := migrateSets (vacate s cl p) cl (d.spare.isNone)
          s.modDie die fun d => { d with removeStep := 1 })

/-- A claimed core's L1 and TLB are empty after a chunk (R445). -/
def scanFlush (s : State) (core : Nat) : State :=
  let s := dropLines s fun c => c.holder == core
  { s with tlbs := s.tlbs.filter fun e => e.place != { level := 0, idx := core } }

/-- `SCAN_CHUNK_COMPLETE` (R445). -/
def execScanChunkComplete (core : Nat) (s : State) : Res :=
  .next (match (s.core core).chunk with
  | none => s
  | some n =>
    let phys := ((s.die (dieOf core)).map.get none (core / 4 % 24)).getD 0 * 4 + core % 4
    let s := s.modCore core fun c => { c with scansig := Config.scanFold phys n c.scansig s.draw, next := n + 1, chunk := none }
    chunkResult { scanFlush s core with draw := s.draw + 1 } core 0)

/-- `SCAN_CHUNK_ABORT` (R446). -/
def execScanChunkAbort (core : Nat) (s : State) : Res :=
  .next (if (s.core core).chunk.isNone || !s.urgent core then s
    else chunkResult (scanFlush (s.modCore core fun c => { c with chunk := none }) core) core (refuse 4))

end Sys2Proof.Machine
end

