-- ==== Sys2Proof/Machine/Firmware.lean ====
section
/-! DEFINITION. Rypepin: power-on and the safe state (R490 to R495), the sideband (R494), live service (R498 to R500, R502), loaded
tables (R309, R315, R317, R422), SPDM (R426, R427), and registers with no row of their own (R7). -/

namespace Sys2Proof.Machine

/-- The core map of a die from its good clusters (R495). -/
def Die.ofGood (good : List Nat) : Die :=
  { map := (List.range 24).map fun n => (n, good[n]?), good := good,
    failedCores := ((List.range 26).filter fun p => !good.elem p).flatMap fun p => [0, 1, 2, 3].map fun c => (p, c) }

/-- The safe state with its failure record (R492, R493): nothing of the device runs. Measurements stay until the next power-on (R426). -/
def safeState (f : Firm) (stage code die unit : Nat) (rom : Bool) (good : List (List Nat)) : State :=
  { firm := { f with safe := true, stage := (if stage = 0 then f.stage else stage - 1), failStage := stage, failRom := rom, failCode := code, failDie := die, failUnit := unit,
                     failGood := good, microcode := none, running := [], recal := none, recalPeers := [] } }

/-- A die's good clusters as power-on finds them. -/
def goodOf (r : PowerReport) (d : Nat) : List Nat :=
  (List.range 26).filter fun p => (r.good.getD d []).elem p

/-- The tokens that a ring control word gives a die (R352): 0 and 25 to 31 act as 24. -/
def tokensOf (v : Nat) : Nat :=
  let t := v % 32
  if t = 0 ∨ 24 < t then 24 else t

/-- The ring control words of stage 6, by die (R352, R490). -/
def ringOf (r : PowerReport) (d : Nat) : Nat × Nat :=
  let w := r.rings.getD d (24, 0)
  (tokensOf w.1, w.2 % 8192)

/-- The fields of the loaded tables that are not `0` (R7): route entries (R309; UP is not written), multicast entries (R315), tree entries
([5:0], [11:8] and [143:16], R317) and inbound window entries (R422). -/
def routeMask : Word := 0x3FF
def mcastMask : UWord := 0x00FFFFFF3F1FFFFF
def treeMask : BitVec 256 := BitVec.ofNat 256 (2 ^ 144 - 2 ^ 16 + 0xF3F)
def windowMask : UWord := 0x00003FFFFFFF000F

/-- Measurement 5 takes a new value (R426): its kind and its fields. -/
def extendTables (s : State) (v : List Nat) : State :=
  { s with firm := { s.firm with extended := s.firm.extended ++ [.table v] } }

/-- Rypepin loads one entry of a table (R309, R315, R317, R422). -/
def loadRoute (s : State) (peer : Nat) (v : Word) : State :=
  if 15 < peer then s else extendTables { s with route := s.route.set peer (v &&& routeMask) } [1, peer, v.toNat]
def loadMcast (s : State) (grp : Nat) (v : UWord) (devs : Nat) : State :=
  if 63 < grp then s
  else extendTables { s with mcast := s.mcast.set grp (v &&& mcastMask), mcastDevs := s.mcastDevs.set grp devs } [2, grp, v.toNat]
def loadTree (s : State) (idx : Nat) (v : BitVec 256) : State :=
  if 255 < idx then s else extendTables { s with trees := s.trees.set idx (v &&& treeMask) } [3, idx, v.toNat]
def loadWindow (s : State) (org win : Nat) (v : UWord) : State :=
  if 15 < org ∨ 15 < win then s
  else extendTables { s with windows := s.windows.set (16 * org + win) (v &&& windowMask) } [4, org, win, v.toNat]

/-- Stage 6 of power-on (R490): the tables, and the token-ring words of the dies. -/
def stage6 (r : PowerReport) (s : State) : State :=
  let s := r.routes.foldl (fun s x => loadRoute s x.1 x.2) s
  let s := r.mcasts.foldl (fun s x => loadMcast s x.1 x.2.1 x.2.2) s
  let s := r.trees.foldl (fun s x => loadTree s x.1 x.2) s
  let s := r.windows.foldl (fun s x => loadWindow s x.1 x.2.1 x.2.2) s
  (List.range 4).foldl (fun s d =>
    let w := ringOf r d
    extendTables (s.modDie d fun x => { x with tokens := w.1, loadedTokens := w.1, mingap := w.2, ring := List.range w.1 }) [5, d, w.1, w.2]) s

/-- The image that the boot ROM starts (R425, R498): that of the preferred slot, else that of the other. Its slot, or the code of the check
that the last one failed (DEDUCED, log entry 91). -/
def bootSlot (prefersB : Bool) (a b : Nat) : Bool ⊕ Nat :=
  let first := if prefersB then b else a
  let second := if prefersB then a else b
  if first = 0 then .inl prefersB else if second = 0 then .inl (!prefersB) else .inr second

/-- `POWER_ON` (R490 to R495): stages 1 to 7. The save pool has at least two frames for each logical core (R466). -/
def execPowerOn (r : PowerReport) (s : State) : Res :=
  let f : Firm := { slotA := s.firm.slotA, slotB := s.firm.slotB, prefersB := s.firm.prefersB, runsB := s.firm.prefersB, draws := s.firm.draws }
  let goods := (List.range 4).map (goodOf r)
  let few := (List.range 4).find? fun d => (goodOf r d).length < 20
  let keep (t : State) : State := { t with agenda := s.agenda, draw := s.draw }
  .next (keep (
    match bootSlot f.prefersB r.imageA r.imageB with
    | .inr c => safeState f 1 c 0 0 true []
    | .inl b =>
    let f := { f with runsB := b }
    if r.microcode ≠ 0 then safeState f 2 r.microcode 0 0 false []
    else if r.stage3.1 ≠ 0 then safeState f 3 r.stage3.1 r.stage3.2.1 r.stage3.2.2 false goods
    else
      match few with
      | some d => safeState f 3 9 d 0 false goods
      | none =>
        if r.stage4.1 ≠ 0 then safeState f 4 r.stage4.1 r.stage4.2.1 r.stage4.2.2 false goods
        else
          stage6 r
          { dies := (List.range 4).map fun d => (d, Die.ofGood (goodOf r d)), interleave := r.interleave,
            saveFrames := max r.saveFrames (8 * (goods.map fun g => min g.length 24).sum),
            snapFrames := r.snapFrames, hdm := min r.hdm 1020, hostRanges := r.hostRanges, links := r.portsUp, kdev := r.kdev, domSize := r.domSize,
            firm := { f with degraded := goods.any fun g => g.length < 24, failGood := goods, extended := [.table [0, r.interleave]] } }))

/-- `THERMAL_SHUTDOWN` (R502). -/
def execThermalShutdown (die : Nat) (s : State) : Res :=
  let f := s.firm
  .next { safeState f 0 10 die 0 false f.failGood with draw := s.draw, agenda := s.agenda }

/-- The tokens of a die's ring change (R352): fewer are retired as they are released, more join at cluster 0 (DEDUCED, log entry 60). -/
def Die.setTokens (d : Die) (n : Nat) : Die :=
  if n < d.tokens then { d with tokens := n, retire := d.retire + (d.tokens - n) }
  else { d with tokens := n, retire := d.retire - (n - d.tokens), ring := d.ring ++ List.replicate (n - d.tokens - d.retire) 0 }

/-- `THERMAL_THROTTLE` (R502): one less, down to 6. -/
def execThermalThrottle (die : Nat) (s : State) : Res :=
  .next (s.modDie die fun d => if 6 < d.tokens then d.setTokens (d.tokens - 1) else d)

/-- `THERMAL_RECOVERY` (R502). -/
def execThermalRecovery (die : Nat) (s : State) : Res := .next (s.modDie die fun d => d.setTokens d.loadedTokens)

/-- A reply on the sideband, which takes Rypepin some of its cycles. -/
def reply (s : State) (code : Nat) (fields : List Nat) (bytes : List Byte := []) : State :=
  { s with firm := { s.firm with turns := s.firm.turns + 1
                                 replies := s.firm.replies ++ [{ code := code, fields := fields, bytes := bytes }] } }

/-- A command that the safe state does not support (R494). -/
def live (s : State) (k : State → State) : State := if s.firm.safe then reply s 1 [] else k s

/-- `SET_TOKENS` (R352, R494). -/
def execSetTokens (die tokens mingap : Nat) (s : State) : Res :=
  let n := tokensOf tokens
  .next (live s fun s =>
    if 3 < die then reply s 3 []
    else reply (extendTables (s.modDie die fun d => { d.setTokens n with loadedTokens := n, mingap := mingap % 8192 }) [5, die, n, mingap % 8192]) 0 [])

/-- `GET_STATE` (R494). -/
def execGetState (s : State) : Res :=
  .next (reply s 0 [s.firm.stage, bit01 s.firm.safe, bit01 s.firm.degraded, s.firmCycles])

/-- `GET_FAILREC` (R493, R494): each field in its place. -/
def execGetFailrec (s : State) : Res :=
  let f := s.firm
  let good := ((List.range 4).map fun d => ((f.failGood.getD d []).map fun c => 2 ^ (26 * d + c)).sum).sum
  let w := f.failStage % 16 + bit01 f.failRom * 2 ^ 4 + f.failCode % 256 * 2 ^ 8 + f.failDie % 4 * 2 ^ 16 + f.failUnit % 256 * 2 ^ 24 +
    good % 2 ^ 104 * 2 ^ 64 + (if f.failCode = 0 then 0 else (Config.failDetail f.draws).toNat) * 2 ^ 192
  .next (reply s 0 [] (natBytes 64 w))

/-- The dies as GET_COREMAP shows them in the safe state (R494, R495): from the results of stage 3; before stage 3 no core is mapped or failed. -/
def State.tested (s : State) : AMap Die :=
  (List.range 4).map fun d =>
    (d, if s.firm.failStage = 1 ∨ s.firm.failStage = 2 then {} else Die.ofGood (s.firm.failGood.getD d []))

/-- `GET_COREMAP` (R494): every physical core. -/
def execGetCoremap (s : State) : Res :=
  let dies : State := if s.firm.safe then { s with dies := s.tested } else s
  .next (reply s 0 ((List.range 4).flatMap fun d => (List.range 26).flatMap fun p => [0, 1, 2, 3].map fun c => dies.coremap d p c))

/-- `GET_LOG` (R494): the next part of the event log; 32 entries of 8 bytes stand for 256 bytes (PRESUMED, log entry 9). -/
def execGetLog (s : State) : Res :=
  let n := ((s.firm.log.drop s.firm.logAt).take 32).length
  .next (reply { s with firm := { s.firm with logAt := s.firm.logAt + n } } 0 (((s.firm.log.drop s.firm.logAt).take 32).flatMap fun e => e))

/-- The checks of R425. -/
def passes (i : ImageCheck) : Bool := i.sigOk && i.keyOk && i.versionOk

/-- `STAGE_IMAGE` (R498): the image goes into the slot that does not run, which the next power-on prefers. -/
def execStageImage (img : ImageCheck) (s : State) : Res :=
  let f := s.firm
  .next (if passes img then
      reply { s with firm := { f with slotA := if f.runsB then some img.digest else f.slotA, slotB := if f.runsB then f.slotB else some img.digest
                                      prefersB := !f.runsB } } 0 []
    else reply s 3 [])

/-- `STAGE_MICROCODE` (R499): verified, measured into index 5, and each sequencer switches in its turn. -/
def execStageMicrocode (img : ImageCheck) (s : State) : Res :=
  .next (live s fun s =>
    if passes img then
      reply { s with firm := { s.firm with microcode := some img.digest, extended := s.firm.extended ++ [.digest img.digest] } } 0 []
    else reply s 3 [])

/-- `MICROCODE_SWITCH` (R499): a step between two acceptances or dispatches. A launch keeps the microcode under which its dispatch began. -/
def execMicrocodeSwitch (seqr : Nat) (s : State) : Res :=
  .next (match s.firm.microcode with
  | some m => if 4 < seqr then s else { s with firm := { s.firm with running := s.firm.running.set seqr m } }
  | none => s)

/-- Sets or clears PV of a route entry (R309). -/
def setPv (s : State) (peer : Nat) (v : Bool) : State :=
  let e := s.route.get 0 peer
  { s with route := s.route.set peer (if v then e ||| 16 else e &&& ~~~ (16 : Word)) }

/-- PV of the route entries of peers is set or cleared, here and by their Rypepin on the peers (R500). -/
def setPvs (s : State) (peers : List Nat) (v : Bool) : State :=
  let s := peers.foldl (fun s p => setPv s p v) s
  { s with sent := s.sent ++ peers.map fun p => { kind := "routePv", dst := p, args := [s.kdev, bit01 v] } }

/-- `RECAL` (R500): one at a time. A port's route entries lose PV; an access to a stack's line that L2 does not hold waits. -/
def execRecal (isPort : Bool) (n : Nat) (s : State) : Res :=
  .next (live s fun s =>
    if s.firm.recal.isSome then reply s 2 []
    else if (if isPort then 14 else 15) < n then reply s 3 []
    else
      let peers := if isPort then (s.route.filter fun e => e.2.getLsbD 4 && fld e.2 3 0 == n).map fun e => e.1 else []
      let s := setPvs s peers false
      reply { s with draw := s.draw + 1, firm := { s.firm with recal := some (isPort, n), recalPeers := peers, recalDraw := s.draw } } 0 [])

/-- `RECAL_COMPLETE` (R500): a port must be up. -/
def execRecalComplete (s : State) : Res :=
  .next (match s.firm.recal with
  | none => s
  | some (isPort, n) =>
    if isPort && !s.links.elem n then s
    else
      let s := setPvs s s.firm.recalPeers true
      { s with firm := { s.firm with recal := none, recalPeers := [] } })

/-- `ROUTE_TABLE_LOAD` (R309). -/
def execRouteTableLoad (peer : Nat) (v : Word) (s : State) : Res := .next (loadRoute s peer v)

/-- `MULTICAST_ENTRY_LOAD` (R315). -/
def execMulticastEntryLoad (grp : Nat) (v : UWord × Nat) (s : State) : Res := .next (loadMcast s grp v.1 v.2)

/-- `TREE_ENTRY_LOAD` (R317). -/
def execTreeEntryLoad (idx : Nat) (v : BitVec 256) (s : State) : Res := .next (loadTree s idx v)

/-- `INBOUND_WINDOW_LOAD` (R422). -/
def execInboundWindowLoad (org win : Nat) (v : UWord) (s : State) : Res := .next (loadWindow s org win v)

/-- SPDM response codes of DSP0274 (PRESUMED, log entry 9). -/
def spdm (s : State) (code : Nat) (fields : List Nat) (bytes : List Byte := []) : State := reply s code fields bytes

/-- The digest of a value that extends measurement 5. -/
def Measured.value (m : Measured) : BitVec 384 :=
  match m with
  | .digest d => d
  | .table v => Config.tableDigest v

/-- A measurement as Rypepin reports it (R426): index 2 is the running image, 2 and 7 standing for the images that the slots came with; index 5 is
extended. -/
def State.measured (s : State) (i : Nat) : BitVec 384 :=
  match i with
  | 2 => if s.firm.runsB then s.firm.slotB.getD (Config.measurement 7) else s.firm.slotA.getD (Config.measurement 2)
  | 5 => s.firm.extended.foldl (fun d m => Config.extend d m.value) (Config.measurement 5)
  | n => Config.measurement n

/-- `GET_VERSION` (R427): 1.3. -/
def execGetVersion (s : State) : Res := .next (spdm s 0x04 [0x13])

/-- `GET_CAPABILITIES` (R427): certificates, challenge and signed measurements; no sessions, keys or mutual authentication. -/
def execGetCapabilities (s : State) : Res := .next (spdm s 0x61 [0x16])

/-- `NEGOTIATE_ALGORITHMS` (R427): ECDSA on P-384 with SHA-384, when offered. -/
def execNegotiateAlgorithms (p384 sha384 : Bool) (s : State) : Res :=
  .next (spdm s 0x63 [if p384 then 0x80 else 0, if sha384 then 2 else 0])

/-- `GET_DIGESTS` (R427): slot 0. -/
def execGetDigests (s : State) : Res := .next (spdm s 0x01 [1] (natBytes 48 Config.certDigest.toNat))

/-- An SPDM error: 1 invalid request, 7 unsupported request. -/
def spdmError (s : State) (e : Nat) : State := spdm s 0x7F [e]

/-- `GET_CERTIFICATE` (R427): the chain of slot 0. -/
def execGetCertificate (slot : Nat) (s : State) : Res := .next (if slot = 0 then spdm s 0x02 [0] Config.certChain else spdmError s 1)

/-- A signature by the device identity key. -/
def signed (s : State) (k : State → List Byte → State) : State :=
  k { s with firm := { s.firm with draws := s.firm.draws + 1 } } (natBytes 96 (Config.spdmSignature s.firm.draws).toNat)

/-- `CHALLENGE` (R427). -/
def execChallenge (slot : Nat) (nonce : BitVec 256) (s : State) : Res :=
  .next (if slot ≠ 0 then spdmError s 1
    else signed s fun s sig => spdm s 0x03 [0] (natBytes 48 Config.certDigest.toNat ++ natBytes 32 nonce.toNat ++ sig))

/-- `GET_MEASUREMENTS` (R426, R427): index 0 gives their count, 255 all of them. -/
def execGetMeasurements (idx : Nat) (isSigned : Bool) (s : State) : Res :=
  let one (i : Nat) : List Byte := natBytes 48 (s.measured i).toNat
  let body : Option (List Nat × List Byte) :=
    if idx = 0 then some ([6], [])
    else if idx = 255 then some ([1, 2, 3, 4, 5, 6], [1, 2, 3, 4, 5, 6].flatMap one)
    else if idx ≤ 6 then some ([idx], one idx)
    else none
  .next (match body with
  | none => spdmError s 1
  | some (f, b) => if isSigned then signed s fun s sig => spdm s 0x60 f (b ++ sig) else spdm s 0x60 f b)

/-- `SPDM_UNSUPPORTED_REQUEST` (R427); a command byte that R494 does not list is answered with completion 1. -/
def execSpdmUnsupportedRequest (req : Unlisted) (s : State) : Res :=
  .next (match req with
  | .spdm code => spdm s 0x7F [7, code]
  | .command byte => if 1 ≤ byte ∧ byte ≤ 8 then s else reply s 1 [])

/-- A write of COREMAP by Rypepin (R448): the core map; the other fields are fused, or the device's own. `i` numbers physical cores:
104 × die + 4 × cluster + core. -/
def coremapSet (s : State) (i : Nat) (v : UWord) : State :=
  let die := i / 104
  let p := i % 104 / 4
  let l := fld v 8 0
  s.modDie die fun d =>
    let d := { d with map := d.map.map fun m => if m.2 = some p then (m.1, none) else m }
    if v.getLsbD 18 && l / 96 == die && l < 384 then { d with map := d.map.set (l / 4 % 24) (some p) } else d

/-- Firmware writes a control register of a core (R28, R429): those whose scope is the core, and through the supervisor slot's group
those that name its selection. -/
def firmwareCsr (s : State) (core num : Nat) (v : UWord) : State :=
  match num with
  | 0x830 => s.modCore core fun c => { c with slice := fld v 23 0 }
  | 0xC00 => coremapSet s core v
  | 0xC10 => s.modCore core fun c => { c with scansig := v }
  | 0xC11 => s.modCore core fun c => { c with scanexp := v }
  | n =>
    if 0x800 ≤ n ∧ n < 0xC00 ∧ n ≠ 0x804 ∧ n ≠ 0x806 ∧ n ≠ 0x820 ∧ n ≠ 0x840 then
      match (s.core core).slot with
      | some g => csrWrite s g n v
      | none => s
    else s

/-- `REGISTER_WRITE` (R7): the writable fields of a register with no row of its own (DESIGN CHOICE, log entry 56). -/
def execRegisterWrite (r : MmioReg) (v : UWord) (s : State) : Res :=
  .next (match r with
  | .qbase c q => s.modQueue (16 * c + q) fun x => { x with base := v.toNat }
  | .qctl c q => s.modQueue (16 * c + q) fun x => { x.setEn (v.getLsbD 5) with logn := fld v 4 0 }
  | .counterLo i => s.modCounter i fun c => { c with target := fld v 31 0, done := fld v 63 32 }
  | .counterMid i => s.modCounter i fun c =>
      { c with parent := fld v 15 0, level := fld v 17 16, state := fld v 20 18, status := fld v 31 24, ctx := fld v 41 32 }
  | .counterCaddr i => s.modCounter i fun c => { c with caddr := v.toNat }
  | .counterCval i => s.modCounter i fun c => { c with cval := v }
  | .ckptbase => { s with ckptBase := v &&& ~~~ (0xFFF : UWord) }
  | .ckptctl =>
    if v.getLsbD 0 then ckptGo s (v.getLsbD 1) (match s.ckptImage with
      | some (b, m) => if b = s.ckptBase.toNat then m else []
      | none => [])
    else { s with ckptDir := v.getLsbD 1 }
  | .timeout => if 5 ≤ v.toNat ∧ v.toNat ≤ 100 then { s with timeout := v.toNat } else s
  | .prAlloc => { s with prAlloc := some (v.toNat % 2 ^ 32) }
  | .csr core num => firmwareCsr s core num v
  | .supImage => { s with firm := { s.firm with supBase := v.toNat } }
  | .warmReset => if v.getLsbD 0 then warmResetBy s [] else s)

end Sys2Proof.Machine
end

