-- ==== Sys2Proof/Machine/Dispatch.lean ====
section
/-! DEFINITION. One arm for each instruction and event: its meaning. -/

namespace Sys2Proof.Machine

/-- What an instruction or event does in a state. -/
def exec (i : Instr) (s : State) : Host.Outcome State Fault Refusal :=
  match i with
  | .ill o => Sys2Proof.Machine.execIll o s
  | .iadd o => Sys2Proof.Machine.execIadd o s
  | .isub o => Sys2Proof.Machine.execIsub o s
  | .imul o => Sys2Proof.Machine.execImul o s
  | .imulhu o => Sys2Proof.Machine.execImulhu o s
  | .imulhs o => Sys2Proof.Machine.execImulhs o s
  | .imad o => Sys2Proof.Machine.execImad o s
  | .idivu o => Sys2Proof.Machine.execIdivu o s
  | .idivs o => Sys2Proof.Machine.execIdivs o s
  | .iremu o => Sys2Proof.Machine.execIremu o s
  | .irems o => Sys2Proof.Machine.execIrems o s
  | .imin o => Sys2Proof.Machine.execImin o s
  | .imax o => Sys2Proof.Machine.execImax o s
  | .umin o => Sys2Proof.Machine.execUmin o s
  | .umax o => Sys2Proof.Machine.execUmax o s
  | .iabs o => Sys2Proof.Machine.execIabs o s
  | .ineg o => Sys2Proof.Machine.execIneg o s
  | .and o => Sys2Proof.Machine.execAnd o s
  | .or o => Sys2Proof.Machine.execOr o s
  | .xor o => Sys2Proof.Machine.execXor o s
  | .andn o => Sys2Proof.Machine.execAndn o s
  | .not o => Sys2Proof.Machine.execNot o s
  | .shl o => Sys2Proof.Machine.execShl o s
  | .shr o => Sys2Proof.Machine.execShr o s
  | .sar o => Sys2Proof.Machine.execSar o s
  | .rotl o => Sys2Proof.Machine.execRotl o s
  | .popc o => Sys2Proof.Machine.execPopc o s
  | .clz o => Sys2Proof.Machine.execClz o s
  | .brev o => Sys2Proof.Machine.execBrev o s
  | .bfxu o => Sys2Proof.Machine.execBfxu o s
  | .bfxs o => Sys2Proof.Machine.execBfxs o s
  | .bfi o => Sys2Proof.Machine.execBfi o s
  | .lea1 o => Sys2Proof.Machine.execLea1 o s
  | .lea2 o => Sys2Proof.Machine.execLea2 o s
  | .lea4 o => Sys2Proof.Machine.execLea4 o s
  | .lea8 o => Sys2Proof.Machine.execLea8 o s
  | .icmp o => Sys2Proof.Machine.execIcmp o s
  | .sel o => Sys2Proof.Machine.execSel o s
  | .plopAnd o => Sys2Proof.Machine.execPlopAnd o s
  | .plopOr o => Sys2Proof.Machine.execPlopOr o s
  | .plopXor o => Sys2Proof.Machine.execPlopXor o s
  | .plopNot o => Sys2Proof.Machine.execPlopNot o s
  | .mov o => Sys2Proof.Machine.execMov o s
  | .fadd o => Sys2Proof.Machine.execFadd o s
  | .fsub o => Sys2Proof.Machine.execFsub o s
  | .fmul o => Sys2Proof.Machine.execFmul o s
  | .ffma o => Sys2Proof.Machine.execFfma o s
  | .fmin o => Sys2Proof.Machine.execFmin o s
  | .fmax o => Sys2Proof.Machine.execFmax o s
  | .fabs o => Sys2Proof.Machine.execFabs o s
  | .fneg o => Sys2Proof.Machine.execFneg o s
  | .fcmp o => Sys2Proof.Machine.execFcmp o s
  | .frcp o => Sys2Proof.Machine.execFrcp o s
  | .frsq o => Sys2Proof.Machine.execFrsq o s
  | .fsqrt o => Sys2Proof.Machine.execFsqrt o s
  | .fex2 o => Sys2Proof.Machine.execFex2 o s
  | .flg2 o => Sys2Proof.Machine.execFlg2 o s
  | .fdiv o => Sys2Proof.Machine.execFdiv o s
  | .fclass o => Sys2Proof.Machine.execFclass o s
  | .hadd2 o => Sys2Proof.Machine.execHadd2 o s
  | .hmul2 o => Sys2Proof.Machine.execHmul2 o s
  | .hfma2 o => Sys2Proof.Machine.execHfma2 o s
  | .hmin2 o => Sys2Proof.Machine.execHmin2 o s
  | .hmax2 o => Sys2Proof.Machine.execHmax2 o s
  | .hdot2 o => Sys2Proof.Machine.execHdot2 o s
  | .cvt o => Sys2Proof.Machine.execCvt o s
  | .bamax o => Sys2Proof.Machine.execBamax o s
  | .bscale o => Sys2Proof.Machine.execBscale o s
  | .bquant o => Sys2Proof.Machine.execBquant o s
  | .bpack o => Sys2Proof.Machine.execBpack o s
  | .bunpack o => Sys2Proof.Machine.execBunpack o s
  | .bdeq o => Sys2Proof.Machine.execBdeq o s
  | .shfl o => Sys2Proof.Machine.execShfl o s
  | .vote o => Sys2Proof.Machine.execVote o s
  | .gred o => Sys2Proof.Machine.execGred o s
  | .gscan o => Sys2Proof.Machine.execGscan o s
  | .gbcast o => Sys2Proof.Machine.execGbcast o s
  | .push o => Sys2Proof.Machine.execPush o s
  | .pull o => Sys2Proof.Machine.execPull o s
  | .ptry o => Sys2Proof.Machine.execPtry o s
  | .ld o => Sys2Proof.Machine.execLd o s
  | .st o => Sys2Proof.Machine.execSt o s
  | .atom o => Sys2Proof.Machine.execAtom o s
  | .red o => Sys2Proof.Machine.execRed o s
  | .cas o => Sys2Proof.Machine.execCas o s
  | .pref o => Sys2Proof.Machine.execPref o s
  | .ldtag o => Sys2Proof.Machine.execLdtag o s
  | .fewait o => Sys2Proof.Machine.execFewait o s
  | .cbget o => Sys2Proof.Machine.execCbget o s
  | .cbput o => Sys2Proof.Machine.execCbput o s
  | .cbrel o => Sys2Proof.Machine.execCbrel o s
  | .jmpr o => Sys2Proof.Machine.execJmpr o s
  | .mmfeed o => Sys2Proof.Machine.execMmfeed o s
  | .mmread o => Sys2Proof.Machine.execMmread o s
  | .bra o => Sys2Proof.Machine.execBra o s
  | .call o => Sys2Proof.Machine.execCall o s
  | .ret o => Sys2Proof.Machine.execRet o s
  | .callr o => Sys2Proof.Machine.execCallr o s
  | .join o => Sys2Proof.Machine.execJoin o s
  | .exit o => Sys2Proof.Machine.execExit o s
  | .gcall o => Sys2Proof.Machine.execGcall o s
  | .bkpt o => Sys2Proof.Machine.execBkpt o s
  | .kaluAdd u => Sys2Proof.Machine.execKaluAdd u s
  | .kaluSub u => Sys2Proof.Machine.execKaluSub u s
  | .kaluMul u => Sys2Proof.Machine.execKaluMul u s
  | .kaluMulhu u => Sys2Proof.Machine.execKaluMulhu u s
  | .kaluMulhs u => Sys2Proof.Machine.execKaluMulhs u s
  | .kaluAnd u => Sys2Proof.Machine.execKaluAnd u s
  | .kaluOr u => Sys2Proof.Machine.execKaluOr u s
  | .kaluXor u => Sys2Proof.Machine.execKaluXor u s
  | .kaluShl u => Sys2Proof.Machine.execKaluShl u s
  | .kaluShr u => Sys2Proof.Machine.execKaluShr u s
  | .kaluSar u => Sys2Proof.Machine.execKaluSar u s
  | .kaluMin u => Sys2Proof.Machine.execKaluMin u s
  | .kaluMax u => Sys2Proof.Machine.execKaluMax u s
  | .kaluMinu u => Sys2Proof.Machine.execKaluMinu u s
  | .kaluMaxu u => Sys2Proof.Machine.execKaluMaxu u s
  | .kaluSlt u => Sys2Proof.Machine.execKaluSlt u s
  | .kaluSltu u => Sys2Proof.Machine.execKaluSltu u s
  | .kaluiAddi u => Sys2Proof.Machine.execKaluiAddi u s
  | .kaluiAndi u => Sys2Proof.Machine.execKaluiAndi u s
  | .kaluiOri u => Sys2Proof.Machine.execKaluiOri u s
  | .kaluiXori u => Sys2Proof.Machine.execKaluiXori u s
  | .kaluiSlti u => Sys2Proof.Machine.execKaluiSlti u s
  | .kaluiSltiu u => Sys2Proof.Machine.execKaluiSltiu u s
  | .kaluiShli u => Sys2Proof.Machine.execKaluiShli u s
  | .kaluiShri u => Sys2Proof.Machine.execKaluiShri u s
  | .kaluiSari u => Sys2Proof.Machine.execKaluiSari u s
  | .klui u => Sys2Proof.Machine.execKlui u s
  | .kauipc u => Sys2Proof.Machine.execKauipc u s
  | .kld u => Sys2Proof.Machine.execKld u s
  | .kst u => Sys2Proof.Machine.execKst u s
  | .kldc u => Sys2Proof.Machine.execKldc u s
  | .kread u => Sys2Proof.Machine.execKread u s
  | .kballot u => Sys2Proof.Machine.execKballot u s
  | .bru u => Sys2Proof.Machine.execBru u s
  | .ju u => Sys2Proof.Machine.execJu u s
  | .jur u => Sys2Proof.Machine.execJur u s
  | .loop u => Sys2Proof.Machine.execLoop u s
  | .mmconvJoin u => Sys2Proof.Machine.execMmconvJoin u s
  | .mmconvLeave u => Sys2Proof.Machine.execMmconvLeave u s
  | .mmpost u => Sys2Proof.Machine.execMmpost u s
  | .mmldb u => Sys2Proof.Machine.execMmldb u s
  | .mmwait u => Sys2Proof.Machine.execMmwait u s
  | .mmwaitTest u => Sys2Proof.Machine.execMmwaitTest u s
  | .mmdrain u => Sys2Proof.Machine.execMmdrain u s
  | .mmzero u => Sys2Proof.Machine.execMmzero u s
  | .mchkloc u => Sys2Proof.Machine.execMchkloc u s
  | .mchkfixAuto u => Sys2Proof.Machine.execMchkfixAuto u s
  | .mchkfixVal u => Sys2Proof.Machine.execMchkfixVal u s
  | .mmretry u => Sys2Proof.Machine.execMmretry u s
  | .xpost u => Sys2Proof.Machine.execXpost u s
  | .xgath u => Sys2Proof.Machine.execXgath u s
  | .qfence u => Sys2Proof.Machine.execQfence u s
  | .qwait u => Sys2Proof.Machine.execQwait u s
  | .qwaitTest u => Sys2Proof.Machine.execQwaitTest u s
  | .cpost u => Sys2Proof.Machine.execCpost u s
  | .barSync u => Sys2Proof.Machine.execBarSync u s
  | .barArr u => Sys2Proof.Machine.execBarArr u s
  | .acq u => Sys2Proof.Machine.execAcq u s
  | .rel u => Sys2Proof.Machine.execRel u s
  | .bind u => Sys2Proof.Machine.execBind u s
  | .unbind u => Sys2Proof.Machine.execUnbind u s
  | .fence u => Sys2Proof.Machine.execFence u s
  | .spawn u => Sys2Proof.Machine.execSpawn u s
  | .yield u => Sys2Proof.Machine.execYield u s
  | .yieldSwap u => Sys2Proof.Machine.execYieldSwap u s
  | .part u => Sys2Proof.Machine.execPart u s
  | .gangJoin u => Sys2Proof.Machine.execGangJoin u s
  | .gangDetach u => Sys2Proof.Machine.execGangDetach u s
  | .gangSync u => Sys2Proof.Machine.execGangSync u s
  | .gangQuery u => Sys2Proof.Machine.execGangQuery u s
  | .winmapSet u => Sys2Proof.Machine.execWinmapSet u s
  | .winmapAddr u => Sys2Proof.Machine.execWinmapAddr u s
  | .seed u => Sys2Proof.Machine.execSeed u s
  | .csrr u => Sys2Proof.Machine.execCsrr u s
  | .csrw u => Sys2Proof.Machine.execCsrw u s
  | .csrwSet u => Sys2Proof.Machine.execCsrwSet u s
  | .csrwClr u => Sys2Proof.Machine.execCsrwClr u s
  | .capset u => Sys2Proof.Machine.execCapset u s
  | .trap u => Sys2Proof.Machine.execTrap u s
  | .rteReplay u => Sys2Proof.Machine.execRteReplay u s
  | .rteSkip u => Sys2Proof.Machine.execRteSkip u s
  | .rteKill u => Sys2Proof.Machine.execRteKill u s
  | .rteEnd u => Sys2Proof.Machine.execRteEnd u s
  | .scantStart u => Sys2Proof.Machine.execScantStart u s
  | .scantChunk u => Sys2Proof.Machine.execScantChunk u s
  | .scantCheck u => Sys2Proof.Machine.execScantCheck u s
  | .scantEnd u => Sys2Proof.Machine.execScantEnd u s
  | .cancel u => Sys2Proof.Machine.execCancel u s
  | .resultLands k => Sys2Proof.Machine.execResultLands k s
  | .waitDeadlockRelease g => Sys2Proof.Machine.execWaitDeadlockRelease g s
  | .yieldExpiry g => Sys2Proof.Machine.execYieldExpiry g s
  | .homeAccess k => Sys2Proof.Machine.execHomeAccess k s
  | .reductionFlush core k => Sys2Proof.Machine.execReductionFlush core k s
  | .reductionEntryAgeExpiry core k => Sys2Proof.Machine.execReductionEntryAgeExpiry core k s
  | .wcbDrain core k => Sys2Proof.Machine.execWcbDrain core k s
  | .wcbEntryAgeExpiry core k => Sys2Proof.Machine.execWcbEntryAgeExpiry core k s
  | .launchEntryAccept ctx q => Sys2Proof.Machine.execLaunchEntryAccept ctx q s
  | .teamDispatch team => Sys2Proof.Machine.execTeamDispatch team s
  | .teamPlacement team core => Sys2Proof.Machine.execTeamPlacement team core s
  | .loggiaLoad core team victim => Sys2Proof.Machine.execLoggiaLoad core team victim s
  | .sliceExpiry core => Sys2Proof.Machine.execSliceExpiry core s
  | .teamSwap core team => Sys2Proof.Machine.execTeamSwap core team s
  | .faultWaitSwap team => Sys2Proof.Machine.execFaultWaitSwap team s
  | .imageSaveDone team => Sys2Proof.Machine.execImageSaveDone team s
  | .teamRestore team core => Sys2Proof.Machine.execTeamRestore team core s
  | .supervisorEntry core => Sys2Proof.Machine.execSupervisorEntry core s
  | .cancelDelivery g => Sys2Proof.Machine.execCancelDelivery g s
  | .launchCounterComplete counter => Sys2Proof.Machine.execLaunchCounterComplete counter s
  | .matrixAccept cl k => Sys2Proof.Machine.execMatrixAccept cl k s
  | .reservationAging cl k => Sys2Proof.Machine.execReservationAging cl k s
  | .reservationGrant cl unit => Sys2Proof.Machine.execReservationGrant cl unit s
  | .tokenTake cl => Sys2Proof.Machine.execTokenTake cl s
  | .burstStart cl => Sys2Proof.Machine.execBurstStart cl s
  | .burstEnd cl => Sys2Proof.Machine.execBurstEnd cl s
  | .feedFetchLands cl k => Sys2Proof.Machine.execFeedFetchLands cl k s
  | .rowGroupStream cl => Sys2Proof.Machine.execRowGroupStream cl s
  | .passComplete cl => Sys2Proof.Machine.execPassComplete cl s
  | .bLoadComplete cl => Sys2Proof.Machine.execBLoadComplete cl s
  | .tileZeroComplete cl => Sys2Proof.Machine.execTileZeroComplete cl s
  | .retryRestoreComplete cl => Sys2Proof.Machine.execRetryRestoreComplete cl s
  | .elementFixComplete cl => Sys2Proof.Machine.execElementFixComplete cl s
  | .drainCheckEnd cl => Sys2Proof.Machine.execDrainCheckEnd cl s
  | .drainCommit cl => Sys2Proof.Machine.execDrainCommit cl s
  | .engineAccept k => Sys2Proof.Machine.execEngineAccept k s
  | .transferComplete k => Sys2Proof.Machine.execTransferComplete k s
  | .collectiveComplete k => Sys2Proof.Machine.execCollectiveComplete k s
  | .transactionTimeout peer no => Sys2Proof.Machine.execTransactionTimeout peer no s
  | .bankModeChange cl bank => Sys2Proof.Machine.execBankModeChange cl bank s
  | .teardown ctx => Sys2Proof.Machine.execTeardown ctx s
  | .coreRemoval die => Sys2Proof.Machine.execCoreRemoval die s
  | .scanChunkComplete core => Sys2Proof.Machine.execScanChunkComplete core s
  | .scanChunkAbort core => Sys2Proof.Machine.execScanChunkAbort core s
  | .rollback launch => Sys2Proof.Machine.execRollback launch s
  | .rollbackRestore launch => Sys2Proof.Machine.execRollbackRestore launch s
  | .microcodeSwitch seqr => Sys2Proof.Machine.execMicrocodeSwitch seqr s
  | .illegalEncoding w => Sys2Proof.Machine.execIllegalEncoding w s
  | .collectivePacketArrival msg die cid leg blk data hdr => Sys2Proof.Machine.execCollectivePacketArrival msg die cid leg blk data hdr s
  | .multicastDelivery grp msg hop off bytes stomped => Sys2Proof.Machine.execMulticastDelivery grp msg hop off bytes stomped s
  | .go msg g => Sys2Proof.Machine.execGo msg g s
  | .release msg g => Sys2Proof.Machine.execRelease msg g s
  | .pageWalk core ctx va kind => Sys2Proof.Machine.execPageWalk core ctx va kind s
  | .pageRequestResponse ctx va code => Sys2Proof.Machine.execPageRequestResponse ctx va code s
  | .atsInvalidation ctx va size => Sys2Proof.Machine.execAtsInvalidation ctx va size s
  | .tlbInvalidation ctx va size => Sys2Proof.Machine.execTlbInvalidation ctx va size s
  | .fabricRequestArrival org seq flr kind win off size data aop cmp body => Sys2Proof.Machine.execFabricRequestArrival org seq flr kind win off size data aop cmp body s
  | .fabricResponseArrival peer no status data => Sys2Proof.Machine.execFabricResponseArrival peer no status data s
  | .relayForward org dst pkt => Sys2Proof.Machine.execRelayForward org dst pkt s
  | .linkStateChange port up => Sys2Proof.Machine.execLinkStateChange port up s
  | .accept msg gkey nteams gang gdom prio => Sys2Proof.Machine.execAccept msg gkey nteams gang gdom prio s
  | .ready msg gkey g => Sys2Proof.Machine.execReady msg gkey g s
  | .gangSwapRequest msg g => Sys2Proof.Machine.execGangSwapRequest msg g s
  | .gangCancelMessage msg => Sys2Proof.Machine.execGangCancelMessage msg s
  | .memberDepartedReport msg m => Sys2Proof.Machine.execMemberDepartedReport msg m s
  | .hostMemAccess dpa wr bytes own => Sys2Proof.Machine.execHostMemAccess dpa wr bytes own s
  | .backInvalidateResponse line bytes => Sys2Proof.Machine.execBackInvalidateResponse line bytes s
  | .hostSnoop line => Sys2Proof.Machine.execHostSnoop line s
  | .gcallReply ctx addr => Sys2Proof.Machine.execGcallReply ctx addr s
  | .queueProducerWrite ctx q prod => Sys2Proof.Machine.execQueueProducerWrite ctx q prod s
  | .queueEnable ctx q => Sys2Proof.Machine.execQueueEnable ctx q s
  | .cancelRegisterWrite ctx counter => Sys2Proof.Machine.execCancelRegisterWrite ctx counter s
  | .contextDescriptorWrite ctx desc => Sys2Proof.Machine.execContextDescriptorWrite ctx desc s
  | .checkpointDeviceToHost v => Sys2Proof.Machine.execCheckpointDeviceToHost v s
  | .checkpointHostToDevice v image tags => Sys2Proof.Machine.execCheckpointHostToDevice v image tags s
  | .checkpointTransferDone => Sys2Proof.Machine.execCheckpointTransferDone s
  | .bankmodeWrite cl v => Sys2Proof.Machine.execBankmodeWrite cl v s
  | .loggiaEvict core => Sys2Proof.Machine.execLoggiaEvict core s
  | .preemptreqWrite core => Sys2Proof.Machine.execPreemptreqWrite core s
  | .trapgrpWrite core v => Sys2Proof.Machine.execTrapgrpWrite core v s
  | .regvalWrite core v => Sys2Proof.Machine.execRegvalWrite core v s
  | .registerWrite r v => Sys2Proof.Machine.execRegisterWrite r v s
  | .mailboxRemoveCore die core => Sys2Proof.Machine.execMailboxRemoveCore die core s
  | .mailboxUndefinedRequest die req => Sys2Proof.Machine.execMailboxUndefinedRequest die req s
  | .hbmUncorrectableError line tag stored => Sys2Proof.Machine.execHbmUncorrectableError line tag stored s
  | .sramUncorrectableError launch => Sys2Proof.Machine.execSramUncorrectableError launch s
  | .warmReset => Sys2Proof.Machine.execWarmReset s
  | .powerOn r => Sys2Proof.Machine.execPowerOn r s
  | .thermalThrottle die => Sys2Proof.Machine.execThermalThrottle die s
  | .thermalRecovery die => Sys2Proof.Machine.execThermalRecovery die s
  | .thermalShutdown die => Sys2Proof.Machine.execThermalShutdown die s
  | .getState => Sys2Proof.Machine.execGetState s
  | .getFailrec => Sys2Proof.Machine.execGetFailrec s
  | .getCoremap => Sys2Proof.Machine.execGetCoremap s
  | .getLog => Sys2Proof.Machine.execGetLog s
  | .stageImage img => Sys2Proof.Machine.execStageImage img s
  | .stageMicrocode img => Sys2Proof.Machine.execStageMicrocode img s
  | .recal isPort n => Sys2Proof.Machine.execRecal isPort n s
  | .recalComplete => Sys2Proof.Machine.execRecalComplete s
  | .setTokens die tokens mingap => Sys2Proof.Machine.execSetTokens die tokens mingap s
  | .routeTableLoad peer v => Sys2Proof.Machine.execRouteTableLoad peer v s
  | .multicastEntryLoad grp v => Sys2Proof.Machine.execMulticastEntryLoad grp v s
  | .treeEntryLoad idx v => Sys2Proof.Machine.execTreeEntryLoad idx v s
  | .inboundWindowLoad org win v => Sys2Proof.Machine.execInboundWindowLoad org win v s
  | .getVersion => Sys2Proof.Machine.execGetVersion s
  | .getCapabilities => Sys2Proof.Machine.execGetCapabilities s
  | .negotiateAlgorithms p384 sha384 => Sys2Proof.Machine.execNegotiateAlgorithms p384 sha384 s
  | .getDigests => Sys2Proof.Machine.execGetDigests s
  | .getCertificate slot => Sys2Proof.Machine.execGetCertificate slot s
  | .challenge slot nonce => Sys2Proof.Machine.execChallenge slot nonce s
  | .getMeasurements idx signed => Sys2Proof.Machine.execGetMeasurements idx signed s
  | .spdmUnsupportedRequest req => Sys2Proof.Machine.execSpdmUnsupportedRequest req s
  | .cxlDataResponse k data poison => Sys2Proof.Machine.execCxlDataResponse k data poison s
  | .gangSwapReply msg gkey g => Sys2Proof.Machine.execGangSwapReply msg gkey g s

end Sys2Proof.Machine
end

