-- ==== Sys2Proof/Machine/Due.lean ====
section
/-! DEFINITION. The events that the device itself owes, in the order in which the model takes them (DESIGN CHOICE, log entry 1), and what the
turn of a cycle settles. -/

namespace Sys2Proof.Machine

/-- Numbers below a list's length that pass a test. -/
def idxs {α : Type} (l : List α) (p : α → Bool) : List Nat :=
  (List.range l.length).filter fun i => match l[i]? with
    | some x => p x
    | none => false

/-- Events of memory that may be due (R20, R213, R253, R308). -/
def dueMemory (s : State) : List Instr :=
  (List.range s.landing.length).map .resultLands ++
  ((s.misses.filter fun m => m.place.level == 2 && !m.paging).map fun m => .pageWalk m.core m.ctx (m.vpn * 4096) m.kind) ++
  (List.range s.stores.length).map .homeAccess ++
  s.cores.flatMap (fun c =>
    (idxs c.2.red fun e => e.born + 8192 ≤ s.clock).map (.reductionEntryAgeExpiry c.1) ++
    (idxs c.2.wcb fun e => e.born + 4096 ≤ s.clock).map (.wcbEntryAgeExpiry c.1))

/-- Events of the matrix engines (R191, R351, R352). -/
def dueMatrix (s : State) : List Instr :=
  s.clusters.flatMap fun c =>
    let cl := c.1
    let mx := c.2.mx
    if mx.resv.isEmpty && mx.fetches.isEmpty && !mx.token && mx.burst.isNone then []
    else
      (idxs mx.resv fun o => !o.accepted && !(o.page.any fun v => s.pageReqs.any fun r => r.ctx == o.ctx && r.vpn == v)).map (.matrixAccept cl) ++
      (List.range mx.fetches.length).map (.feedFetchLands cl) ++
      (idxs mx.resv fun o => o.accepted && !o.granted).map (.reservationAging cl) ++
      [.reservationGrant cl 0, .reservationGrant cl 1, .tokenTake cl, .burstStart cl, .rowGroupStream cl, .passComplete cl, .bLoadComplete cl,
       .tileZeroComplete cl, .retryRestoreComplete cl, .elementFixComplete cl, .drainCheckEnd cl, .drainCommit cl, .burstEnd cl]

/-- Events of the transfer and collective engines (R292, R300). -/
def dueEngines (s : State) : List Instr :=
  (idxs s.engOps fun o => o.status == 0 && !o.accepted).map .engineAccept ++
  (idxs s.engOps fun o => o.status == 0 && o.accepted && o.kind == 0).map .transferComplete ++
  (idxs s.engOps fun o => o.status == 0 && o.accepted && o.kind == 1).map .collectiveComplete

/-- Waiting teams. -/
def State.waiters (s : State) : List Nat := idxs s.teams Team.waiting

/-- Events of a loggia and of a core's swaps (R355, R449, R465, R466). -/
def dueSwaps (s : State) : List Instr :=
  s.cores.flatMap fun c =>
    c.2.spilling.map .imageSaveDone ++
    (match c.2.loggia with
     | some (_, v, some 0) => [.sliceExpiry c.1, .teamSwap c.1 v]
     | some (_, v, _) => [.teamSwap c.1 v]
     | none => []) ++
    (if c.2.preemptReq then (idxs s.teams fun t => t.core == c.1 && t.st == .resident && !t.isSup).map (.teamSwap c.1) else [])

/-- A loggia that may be loaded, and a fault wait that gives way to a waiting team (R355, R468). -/
def dueLoads (s : State) : List Instr :=
  (s.waiters.filter s.mayLoad).flatMap fun t =>
    (List.range 384).filterMap (fun core =>
      if (s.core core).loggia.isSome || !(s.core core).spilling.isEmpty then none
      else (s.victimOn core t).map fun v => .loggiaLoad core t v) ++
    (idxs s.teams fun v => v.st == .resident && !v.isSup && v.core < 384).filterMap fun v =>
      if s.faultWait v && (s.without v).fitsOn t (s.team v).core then some (.faultWaitSwap v) else none

/-- Events of the sequencers (R334, R339, R341, R342, R467): the queues take turns, from the one after the last. -/
def dueSequencer (s : State) : List Instr :=
  ((s.counters.filter fun c => s.counterDue c.1 && !(c.2.page.any fun v => s.pageReqs.any fun r => r.ctx == c.2.ctx && r.vpn == v)).map fun c =>
    .launchCounterComplete c.1) ++
  (let ready := (s.queues.filter fun q => s.queueReady q.1).map fun q => q.1
   ((ready.filter fun k => s.turn < k) ++ ready.filter fun k => k ≤ s.turn).map fun k => .launchEntryAccept (k / 16) (k % 16)) ++
  (idxs s.teams fun t => match t.st with
    | .offered _ => true
    | _ => false).map (fun t => .teamPlacement t (match (s.team t).st with
      | .offered d => (s.bestCore t d).getD 0
      | _ => 0)) ++
  (if s.waiters.isEmpty then []
   else
     match s.nextToPlace with
     | none => dueLoads s
     | some t => [.teamDispatch t] ++ (match s.dieFor t with
       | some (_, c) => [.teamRestore t c]
       | none => []))

/-- Events of groups and cores (R340, R364, R378, R445, R459). -/
def dueGroups (s : State) : List Instr :=
  (idxs s.groups fun g => g.cancelled).map .cancelDelivery ++
  (idxs s.groups fun g => g.hold matches .yield _).map .yieldExpiry ++
  (idxs s.groups fun g => s.runs g && g.deadlocked).map .waitDeadlockRelease ++
  (((idxs s.groups fun g => g.resident && g.records.any fun r => !r.entered).map fun g => (s.group g).core).eraseDups).map .supervisorEntry ++
  ((s.cores.filter fun c => c.2.chunk.isSome).flatMap fun c => [.scanChunkAbort c.1, .scanChunkComplete c.1])

/-- Events of service and recovery (R220, R405, R478, R485, R496, R499). -/
def dueService (s : State) : List Instr :=
  (s.clusters.flatMap fun c => c.2.wanted.map fun w => .bankModeChange c.1 w.1) ++
  ((s.contexts.filter fun c => c.2.teardown).map fun c => .teardown c.1) ++
  (idxs s.launches fun l => l.rolling).map .rollbackRestore ++
  ((s.dies.filter fun d => d.2.boxBusy).map fun d => .coreRemoval d.1) ++
  (if s.ckptRun.isSome then [.checkpointTransferDone] else []) ++
  (if s.firm.microcode.isSome then (List.range 5).map .microcodeSwitch else [])

/-- Events that may be due. -/
def candidates (s : State) : List Instr :=
  dueGroups s ++ dueMemory s ++ dueMatrix s ++ dueEngines s ++ dueSwaps s ++ dueSequencer s ++ dueService s

/-- The state after an event that has something to do: one whose meaning changes the state. -/
def progress (s : State) (e : Instr) : Option State :=
  match exec e s with
  | .next t => if t = s then none else some t
  | _ => none

/-- The first event due; the values pushed in the cycle enter their FIFOs before any (R380). -/
def due (s : State) : Option State := if s.pushes.isEmpty then (candidates s).findSome? (progress s) else some (deliverAll s)

/-- What the turn of a cycle settles: requests, invalidations and replies that waited, gangs that span devices, loggias whose victim is
gone, and PREEMPT (R325, R356, R395, R396, R442, R473). -/
def settle (s : State) : State :=
  let s := settleBells (settleHost (settleHeld (settleInvals s)))
  let s := s.swapReqs.foldl (fun s r => doSwap s r.1 r.2) (withdraw s)
  let s := s.cores.foldl (fun s c =>
    let s := loggiaSweep s c.1
    if c.2.preemptReq && !s.teams.any (fun t => t.core == c.1 && t.st == .resident && !t.isSup) then
      s.modCore c.1 fun k => { k with preemptReq := false }
    else s) s
  (idxs s.groups fun g => g.preempt && s.runs g).foldl takePreempt (pumpHost s)

end Sys2Proof.Machine
end

