-- ==== Sys2Proof/Machine/Step.lean ====
section
/-! DEFINITION. One step of the machine, and the placing of an instruction where the next step fetches it. -/

namespace Sys2Proof.Machine

/-- What Rypepin, or the boot ROM, still answers in the safe state (R492, R494); the ports are shut to everything else. -/
def answeredInSafeState (e : Instr) : Bool :=
  match e with
  | .powerOn _ | .getState | .getFailrec | .getCoremap | .getLog | .stageImage _ | .stageMicrocode _ | .recal _ _ | .setTokens _ _ _ => true
  | .getVersion | .getCapabilities | .negotiateAlgorithms _ _ | .getDigests | .getCertificate _ | .challenge _ _ => true
  | .getMeasurements _ _ | .spdmUnsupportedRequest _ => true
  | _ => false

/-- One step (DESIGN CHOICE, log entry 1): the next event of the agenda; else the next issue of the cycle; else the next event that the device
owes; else the next cycle. In the safe state only the sideband acts (R492). -/
def step (s : State) : Host.Outcome State Fault Refusal :=
  match s.agenda with
  | e :: rest => if s.firm.safe && !answeredInSafeState e then .next { s with agenda := rest } else exec e { s with agenda := rest }
  | [] =>
    if s.firm.safe then .fault .safeState
    else
      match s.issues with
      | i :: rest =>
        let s := { s with issues := rest }
        if s.live i then
          match issueOne s i with
          | (s, some x) => exec x s
          | (s, none) => .next s
        else .next s
      | [] =>
        match due s with
        | some t => .next t
        | none => .next (nextCycle (settle s))

/-- The state `s` with an instruction placed where the next step issues it (DESIGN CHOICE, log entry 13). -/
def State.withFetchWord (s : State) (nbits w : Nat) : State := placeWord s (w % 2 ^ nbits)

end Sys2Proof.Machine
end

