-- ==== Sys2Proof/Safety.lean ====
section
/-! DEFINITION. The terms that claims use: safe states and runs, what an instruction leaves alone, and the plain forms of a result. -/

namespace Sys2Proof.Machine

/-- The invariant of device memory: its canonical form. -/
def State.Ok (s : State) : Prop := Memory.wf s.mem

/-- A state that some number of steps reaches from another. -/
inductive Reaches : State → State → Prop where
  | refl (s : State) : Reaches s s
  | step {s t u : State} (h : Reaches s t) (hs : Sys2Proof.Machine.step t = .next u) : Reaches s u

/-- The issuing group, and the lanes of the issuing run (R344). -/
abbrev State.me (s : State) : Group := s.group s.cur
abbrev State.myRun (s : State) : List Nat := s.me.run s.curPc

/-- A lane past a word of `len` bytes that did its part. -/
def Lane.past (len : Nat) (l : Lane) : Lane := { l with pc := l.pc + BitVec.ofNat 32 len, waited := 0, failed := none, force := false, op := none }

/-- A lane that did its part and goes to another PC. -/
def Lane.sentTo (pc : Word) (l : Lane) : Lane :=
  { l with pc := pc, waited := 0, failed := none, force := false, op := none }

/-- A lane that waits at its word. -/
def Lane.blockedOn (w : Why) (l : Lane) : Lane := { l with st := .blocked w, waited := 0, marked := [], op := none }

/-- Every lane of the run becomes what `f` gives for it, and the flags that `fl` gives for it are added to FLAGS. -/
def State.eachLane (s : State) (f : Nat → Lane → Lane) (fl : Nat → Lane → Nat := fun _ _ => 0) : State :=
  s.modGroup s.cur fun g =>
    { g with
      lanes := g.lanes.mapIdx fun i l => if s.myRun.elem i then f i l else l
      flags := s.myRun.foldl (fun x i => x ||| BitVec.ofNat 64 (fl i (g.lane i))) g.flags }

/-- The true lanes of the run become what `f` gives; every lane of the run goes past the word (R22). -/
def State.trueLanes (s : State) (o : LaneOp) (f : Nat → Lane → Lane) (fl : Nat → Lane → Nat := fun _ _ => 0) : State :=
  s.eachLane (fun i l => (if l.guard o then f i l else l).past (opLen o)) fun i l => if l.guard o then fl i l else 0

/-- The true lanes of the run read and write full registers alone (R20). -/
def State.Ready (s : State) (o : LaneOp) (sh : Shape) : Prop :=
  ∀ i ∈ s.myRun, (s.me.lane i).guard o = true →
    (s.sources s.me i o sh).1.gaps = [] ∧ (s.sources s.me i o sh).2.1.gaps = [] ∧ (s.sources s.me i o sh).2.2.gaps = [] ∧
      (sh.wd = true → (s.me.lane i).gaps i o.d sh.pair = [])

/-- The operand that a lane reads, on the operand's width. -/
def State.argA (s : State) (o : LaneOp) (sh : Shape) (n i : Nat) : BitVec n := BitVec.ofNat n (s.sources s.me i o sh).1.v
def State.argB (s : State) (o : LaneOp) (sh : Shape) (n i : Nat) : BitVec n := BitVec.ofNat n (s.sources s.me i o sh).2.1.v
def State.argC (s : State) (o : LaneOp) (sh : Shape) (n i : Nat) : BitVec n := BitVec.ofNat n (s.sources s.me i o sh).2.2.v

/-- The group whose lanes that have not exited stand at another PC. -/
def Group.movedTo (pc : Word) (g : Group) : Group :=
  { g with failed := none, lanes := g.lanes.map fun l => if l.isExited then l else { l with pc := pc, waited := 0 } }

/-- The result of a uniform word that writes one uniform register and goes on. -/
def State.wroteU (s : State) (d : Nat) (v : UWord) : State := s.modGroup s.cur fun g => (g.setU d v).movedTo (s.curPc + 4)

/-- The result of a uniform word that only moves its group. -/
def State.wentTo (s : State) (pc : Word) : State := s.modGroup s.cur (Group.movedTo pc)

/-- Nothing of the issuing core is buffered or awaited, and no lost write stands against the issuing group (R247, R313): a release
has nothing to do. -/
def State.Drained (s : State) : Prop :=
  s.me.lost = none ∧ (∀ st ∈ s.stores, st.core ≠ s.me.core) ∧ (s.core s.me.core).red = [] ∧ (s.core s.me.core).wcb = [] ∧
    (∀ r ∈ s.hostReqs, r.core ≠ s.me.core) ∧ ∀ r ∈ s.fabReqs, r.core ≠ s.me.core

/-- The issuing group is converged (R25, R347). -/
abbrev State.Conv (s : State) : Prop := s.converged s.me = true

/-- Lane `i` of the issuing group becomes what `f` gives. -/
def State.laneDone (s : State) (i : Nat) (f : Lane → Lane) : State := s.modGroup s.cur fun g => g.modLane i f

/-- Nothing but the lanes and FLAGS of the issuing group differs, and of the lanes only those of the run. -/
def OnlyLanes (s t : State) : Prop :=
  t = { s with groups := t.groups } ∧ t.groups.length = s.groups.length ∧ (∀ k, k ≠ s.cur → t.group k = s.group k) ∧
    t.group s.cur = { s.me with lanes := (t.group s.cur).lanes, flags := (t.group s.cur).flags } ∧
    (∀ i, i ∉ s.myRun → (t.group s.cur).lane i = s.me.lane i) ∧ ∀ a, t.byte a = s.byte a

/-- Nothing but the issuing group differs. -/
def OnlyMe (s t : State) : Prop :=
  t = { s with groups := t.groups } ∧ t.groups.length = s.groups.length ∧ (∀ k, k ≠ s.cur → t.group k = s.group k) ∧
    ∀ a, t.byte a = s.byte a

end Sys2Proof.Machine
end

