-- ==== Sys2Proof/Certificates/Slice0/Obligations.lean ====
section
/-! DEFINITION. The statements about this model, for the provers. -/

open Sys2Proof Sys2Proof.Machine
/-! ## Lane words on integers (R121 to R132) -/

namespace Sys2Proof.Claims

/-- The words of two sources of R123 and R128 with the value they write, on bit vectors of the operand's width. -/
def intWords : List ((LaneOp → Instr) × ((n : Nat) → BitVec n → BitVec n → BitVec n)) :=
  [(.iadd, fun _ a b => a + b), (.isub, fun _ a b => a - b), (.imul, fun _ a b => a * b),
   (.imulhu, fun n a b => BitVec.ofNat n (a.toNat * b.toNat / 2 ^ n)),
   (.imulhs, fun n a b => BitVec.ofInt n (a.toInt * b.toInt / (2 ^ n : Nat))),
   (.and, fun _ a b => a &&& b), (.or, fun _ a b => a ||| b), (.xor, fun _ a b => a ^^^ b), (.andn, fun _ a b => a &&& ~~~b),
   (.imin, fun _ a b => if a.sle b then a else b), (.imax, fun _ a b => if a.sle b then b else a),
   (.umin, fun _ a b => if a ≤ b then a else b), (.umax, fun _ a b => if a ≤ b then b else a),
   (.lea1, fun _ a b => a + b * 1), (.lea2, fun _ a b => a + b * 2), (.lea4, fun _ a b => a + b * 4), (.lea8, fun _ a b => a + b * 8)]

/-- The words of one source of R123 and R132. -/
def intUnary : List ((LaneOp → Instr) × ((n : Nat) → BitVec n → BitVec n)) :=
  [(.iabs, fun _ a => if a.toInt < 0 then -a else a), (.ineg, fun _ a => -a), (.not, fun _ a => ~~~a), (.mov, fun _ a => a)]

/-- The divisions of R124. -/
def divisions : List ((LaneOp → Instr) × ((n : Nat) → BitVec n → BitVec n → BitVec n)) :=
  [(.idivu, fun n a b => if b = 0 then BitVec.allOnes n else a / b),
   (.idivs, fun n a b => if b = 0 then BitVec.allOnes n else a.sdiv b),
   (.iremu, fun _ a b => if b = 0 then a else a % b),
   (.irems, fun _ a b => if b = 0 then a else a.srem b)]

/-- The shifts of R125, by the amount b mod n. -/
def shifts : List ((LaneOp → Instr) × ((n : Nat) → BitVec n → Nat → BitVec n)) :=
  [(.shl, fun _ a t => a <<< t), (.shr, fun _ a t => a >>> t), (.sar, fun _ a t => a.sshiftRight t), (.rotl, fun _ a t => a.rotateLeft t)]

/-- The operand shape of an integer word. -/
def wide (o : LaneOp) : Shape := { pair := o.s }
def wide1 (o : LaneOp) : Shape := { pair := o.s, rb := false }
def wide3 (o : LaneOp) : Shape := { pair := o.s, rc := true }

/-- The effective length of R126. -/
def fieldLength (n : Nat) (b : BitVec n) : Nat :=
  if b.toNat % 64 < n then min (b.toNat / 256 % 128) (n - b.toNat % 64) else 0

/-- The conditions of `icmp` (R129). -/
def icmpHolds {n : Nat} (cond : Nat) (a b : BitVec n) : Bool :=
  match cond with
  | 0 => a == b
  | 1 => a != b
  | 2 => a.slt b
  | 3 => a.sle b
  | 4 => b.slt a
  | 5 => b.sle a
  | 6 => a.ult b
  | _ => b.ule a

/-- The conditions of `fcmp` (R129): eq, ne, lt, le, gt, ge, unordered, ordered. -/
def fcmpHolds (cond : Nat) (x y : XR) : Bool :=
  let nan := x.isNan || y.isNan
  match cond with
  | 0 => !nan && !x.lt y && !y.lt x
  | 1 => nan || x.lt y || y.lt x
  | 2 => x.lt y
  | 3 => !nan && !y.lt x
  | 4 => y.lt x
  | 5 => !nan && !x.lt y
  | 6 => nan
  | _ => !nan

/-- NV of `fcmp` (R129). -/
def fcmpFlags (cond : Nat) (x y : XR) : Nat :=
  if x.isSig || y.isSig || ((x.isNan || y.isNan) && (cond == 2 || cond == 3 || cond == 4 || cond == 5)) then fNV else 0

/-- The shape of an FP word: an immediate stands for its bits shifted left by 2 (R46). -/
def fpShape (o : LaneOp) (rb rc : Bool) : Shape := { pair := o.s, imm := 1, rb := rb, rc := rc }

end Sys2Proof.Claims

/-- R123, R128: every true lane of a run whose registers are full writes the rule's value, no flag is set, every lane of the run goes
past the word, and nothing else changes. -/
def Sys2Proof.Claims.IntegerWordsOfTwoSources : Prop :=
  ∀ p ∈ Claims.intWords, ∀ (s : State) (o : LaneOp), swzLegal s.me.width o.x = true → s.Ready o (Claims.wide o) →
    exec (p.1 o) s = .next (s.trueLanes o fun i l =>
      l.wrOp s.me.depth o.d o.s (p.2 (opBits o) (s.argA o (Claims.wide o) _ i) (s.argB o (Claims.wide o) _ i)).toNat)

/-- R123, R132: as above for the words that read a alone. -/
def Sys2Proof.Claims.UnaryIntegerWords : Prop :=
  ∀ p ∈ Claims.intUnary, ∀ (s : State) (o : LaneOp), swzLegal s.me.width o.x = true → s.Ready o (Claims.wide1 o) →
    exec (p.1 o) s = .next (s.trueLanes o fun i l =>
      l.wrOp s.me.depth o.d o.s (p.2 (opBits o) (s.argA o (Claims.wide1 o) _ i)).toNat)

/-- R123, R128, R132: the integer words of two sources and of one write the value of their rule in every true lane. -/
def Obligations.IntegerWordsWriteTheRuleValue : Prop :=
  Claims.IntegerWordsOfTwoSources ∧ Claims.UnaryIntegerWords

/-- R124: quotients truncate toward zero, remainders take the sign of the dividend, a divisor of zero gives all ones and the dividend. -/
def Sys2Proof.Claims.DivisionWordsWriteTheRuleValue : Prop :=
  ∀ p ∈ Claims.divisions, ∀ (s : State) (o : LaneOp), swzLegal s.me.width o.x = true → s.Ready o (Claims.wide o) →
    exec (p.1 o) s = .next (s.trueLanes o fun i l =>
      l.wrOp s.me.depth o.d o.s (p.2 (opBits o) (s.argA o (Claims.wide o) _ i) (s.argB o (Claims.wide o) _ i)).toNat)

/-- R125: a shift takes b mod n of a register, and an immediate amount of a well-formed word lies below n. -/
def Sys2Proof.Claims.ShiftWordsTakeTheAmountModuloTheWidth : Prop :=
  ∀ p ∈ Claims.shifts,
    (∀ (s : State) (o : LaneOp), swzLegal s.me.width o.x = true → s.Ready o (Claims.wide o) →
      exec (p.1 o) s = .next (s.trueLanes o fun i l =>
        l.wrOp s.me.depth o.d o.s (p.2 (opBits o) (s.argA o (Claims.wide o) _ i)
          ((s.argB o (Claims.wide o) (opBits o) i).toNat % opBits o)).toNat)) ∧
    ∀ (o : LaneOp) (v : Nat), o.x = .imm v → (p.1 o).wellFormed = true → v < opBits o

/-- R124, R125: divisions, with their corners, and shifts by b mod n. -/
def Obligations.DivisionsAndShiftsWriteTheRuleValue : Prop :=
  Claims.DivisionWordsWriteTheRuleValue ∧ Claims.ShiftWordsTakeTheAmountModuloTheWidth

/-- R123: `imad` writes the low bits of a × b + c, where c is d unless SRC names it. -/
def Sys2Proof.Claims.MultiplyAddWritesTheLowBits : Prop :=
  ∀ (s : State) (o : LaneOp), swzLegal s.me.width o.x = true → s.Ready o (Claims.wide3 o) →
    exec (.imad o) s = .next (s.trueLanes o fun i l =>
      l.wrOp s.me.depth o.d o.s
        (s.argA o (Claims.wide3 o) (opBits o) i * s.argB o (Claims.wide3 o) _ i + s.argC o (Claims.wide3 o) _ i).toNat) ∧
    ((∀ c am ap bm bp cm ta tb tc, o.x ≠ .src c am ap bm bp cm ta tb tc) → (∀ v, o.x ≠ .imm v) →
      ∀ i, (s.sources s.me i o (Claims.wide3 o)).2.2.v = (s.me.lane i).rdOp s.me.depth o.d o.s)

/-- R123: `popc` counts the 1 bits of a, `clz` the 0 bits above the highest 1 bit (n when a is zero), `brev` reverses a. -/
def Sys2Proof.Claims.BitCountWordsWriteTheCount : Prop :=
  ∀ (s : State) (o : LaneOp), swzLegal s.me.width o.x = true → s.Ready o (Claims.wide1 o) →
    ∃ pc cl br : Nat → Nat,
      exec (.popc o) s = .next (s.trueLanes o fun i l => l.wrOp s.me.depth o.d o.s (pc i)) ∧
      exec (.clz o) s = .next (s.trueLanes o fun i l => l.wrOp s.me.depth o.d o.s (cl i)) ∧
      exec (.brev o) s = .next (s.trueLanes o fun i l => l.wrOp s.me.depth o.d o.s (br i)) ∧
      ∀ i, let a := s.argA o (Claims.wide1 o) (opBits o) i
        pc i = (List.range (opBits o)).countP a.getLsbD ∧
        cl i ≤ opBits o ∧ (∀ j, opBits o - cl i ≤ j → a.getLsbD j = false) ∧
        (cl i < opBits o → a.getLsbD (opBits o - 1 - cl i) = true) ∧
        br i < 2 ^ opBits o ∧ ∀ j, j < opBits o → (br i).testBit j = a.getLsbD (opBits o - 1 - j)

/-- R123: `imad`, `popc`, `clz`, `brev`. -/
def Obligations.MultiplyAddAndBitCountsWriteTheRuleValue : Prop :=
  Claims.MultiplyAddWritesTheLowBits ∧ Claims.BitCountWordsWriteTheCount

/-- R126: the field at POS of length L is extracted with zeros or copies of its highest bit, or inserted into the old d; an immediate
descriptor of a well-formed word has POS below n, LEN at most n and no other bit. -/
def Obligations.FieldWordsExtractAndInsert : Prop :=
  (∀ (s : State) (o : LaneOp), swzLegal s.me.width o.x = true → s.Ready o (Claims.wide o) →
    ∃ xu xs xi : Nat → Nat,
      exec (.bfxu o) s = .next (s.trueLanes o fun i l => l.wrOp s.me.depth o.d o.s (xu i)) ∧
      exec (.bfxs o) s = .next (s.trueLanes o fun i l => l.wrOp s.me.depth o.d o.s (xs i)) ∧
      exec (.bfi o) s = .next (s.trueLanes o fun i l => l.wrOp s.me.depth o.d o.s (xi i)) ∧
      ∀ i j, j < opBits o →
        let a := s.argA o (Claims.wide o) (opBits o) i
        let b := s.argB o (Claims.wide o) (opBits o) i
        let pos := b.toNat % 64
        let len := Claims.fieldLength (opBits o) b
        (xu i).testBit j = (decide (j < len) && a.getLsbD (pos + j)) ∧
        (xs i).testBit j = (decide (0 < len) && a.getLsbD (pos + min j (len - 1))) ∧
        (xi i).testBit j = (if pos ≤ j ∧ j < pos + len then a.getLsbD (j - pos)
          else ((s.me.lane i).rdOp s.me.depth o.d o.s).testBit j)) ∧
  ∀ (i : LaneOp → Instr), i ∈ [Instr.bfxu, Instr.bfxs, Instr.bfi] → ∀ (o : LaneOp) (v : Nat), o.x = .imm v → (i o).wellFormed = true →
    v % 64 < opBits o ∧ v / 64 % 4 = 0 ∧ v / 256 % 128 ≤ opBits o ∧ v / 2 ^ 15 = 0

/-- R130: `sel` writes every lane of the run: a where the guard holds, else b. -/
def Sys2Proof.Claims.SelWritesEveryLaneOfTheRun : Prop :=
  ∀ (s : State) (o : LaneOp), swzLegal s.me.width o.x = true → s.Ready { o with g := 7, gn := false } (Claims.wide o) →
    exec (.sel o) s = .next (s.eachLane fun i l =>
      (l.wrOp s.me.depth o.d o.s
        (if l.guard o then (s.argA o (Claims.wide o) (opBits o) i).toNat else (s.argB o (Claims.wide o) (opBits o) i).toNat)).past (opLen o))

/-- R129: `icmp` and `fcmp` set pd to their condition in true lanes alone; `fcmp` sets NV for a signalling NaN, and under the ordered
conditions for any NaN. -/
def Sys2Proof.Claims.ComparisonsSetThePredicate : Prop :=
  ∀ (s : State) (o : LaneOp), swzLegal s.me.width o.x = true → o.d < 64 →
    (s.Ready o { Claims.wide o with wd := false } →
      exec (.icmp o) s = .next (s.trueLanes o fun i l =>
        l.setPred (o.d % 8) (Claims.icmpHolds (o.d / 8)
          (s.argA o { Claims.wide o with wd := false } (opBits o) i) (s.argB o { Claims.wide o with wd := false } (opBits o) i)))) ∧
    (s.Ready o { Claims.fpShape o true false with wd := false } →
      exec (.fcmp o) s = .next (s.trueLanes o
        (fun i l => l.setPred (o.d % 8) (Claims.fcmpHolds (o.d / 8)
          (decodeFp (fpFmt o) (s.sources s.me i o { Claims.fpShape o true false with wd := false }).1.v)
          (decodeFp (fpFmt o) (s.sources s.me i o { Claims.fpShape o true false with wd := false }).2.1.v)))
        fun i _ => Claims.fcmpFlags (o.d / 8)
          (decodeFp (fpFmt o) (s.sources s.me i o { Claims.fpShape o true false with wd := false }).1.v)
          (decodeFp (fpFmt o) (s.sources s.me i o { Claims.fpShape o true false with wd := false }).2.1.v)))

/-- R131: `plop` combines two predicates into pd. -/
def Sys2Proof.Claims.PlopCombinesPredicates : Prop :=
  ∀ p ∈ [(Instr.plopAnd, fun a b : Bool => a && b), (Instr.plopOr, fun a b => a || b), (Instr.plopXor, fun a b => a != b),
      (Instr.plopNot, fun a _ => !a)],
    ∀ (s : State) (o : LaneOp), o.x = .none →
      exec (p.1 o) s = .next (s.trueLanes o fun _ l => l.setPred (o.d % 8) (p.2 (l.pred (o.a % 8)) (l.pred (o.a / 8))))

/-- R129 to R131: `sel`, the comparisons, the operations on predicates. -/
def Obligations.SelectsAndPredicatesFollowTheGuard : Prop :=
  Claims.SelWritesEveryLaneOfTheRun ∧ Claims.ComparisonsSetThePredicate ∧ Claims.PlopCombinesPredicates

/-- R17, R18, R20, R22: a write of an operand marks it full and reads back, whatever its window; it leaves the other registers of the
window; `p7` reads true and takes no write. -/
def Obligations.WrittenOperandsReadBack : Prop :=
  ∀ (l : Lane) (d n : Nat) (pair : Bool) (v : Nat), 64 ≤ d → n < 64 → (pair = true → n % 2 = 0) →
    (l.wrOp d n pair v).rdOp d n pair = v % 2 ^ (if pair then 64 else 32) ∧
    (∀ i, (l.wrOp d n pair v).gaps i n pair = []) ∧
    (∀ m, m < 64 → m ≠ n → (pair = true → m ≠ n + 1) →
      (l.wrOp d n pair v).rdOp d m false = l.rdOp d m false ∧ ∀ i, (l.wrOp d n pair v).gaps i m false = l.gaps i m false) ∧
    (∀ b, (l.setPred 7 b) = l ∧ l.pred 7 = true) ∧
    ∀ k b, k < 7 → (l.setPred k b).pred k = b ∧ ∀ j, j < 8 → j ≠ k → (l.setPred k b).pred j = l.pred j

/-! ## Floating point, conversions, cross-lane words (R133 to R151, R363, R368 to R375) -/

namespace Sys2Proof.Claims

/-- The FP words: which of b and c they read, and the value and flags they give for codes of their format (R133 to R137). -/
def fpWords : List ((LaneOp → Instr) × Bool × Bool × (FpFmt → Nat → Nat → Nat → Nat × Nat)) :=
  [(.fadd, true, false, fun f a b _ => fpResult f [decodeFp f a, decodeFp f b] ((decodeFp f a).add (decodeFp f b))),
   (.fsub, true, false, fun f a b _ => fpResult f [decodeFp f a, decodeFp f b] ((decodeFp f a).add (decodeFp f b).flip)),
   (.fmul, true, false, fun f a b _ => fpResult f [decodeFp f a, decodeFp f b] ((decodeFp f a).mul (decodeFp f b))),
   (.ffma, true, true, ffmaOp), (.fmin, true, false, fun f a b _ => fpMinMax f false a b),
   (.fmax, true, false, fun f a b _ => fpMinMax f true a b), (.fabs, false, false, fun f a _ _ => (a % 2 ^ (f.ew + f.mw), 0)),
   (.fneg, false, false, fun f a _ _ => (a ^^^ 2 ^ (f.ew + f.mw), 0)), (.frcp, false, false, fun f a _ _ => frcpOp f a),
   (.frsq, false, false, fun f a _ _ => frsqOp f a), (.fsqrt, false, false, fun f a _ _ => fsqrtOp f a),
   (.fex2, false, false, fun f a _ _ => fex2Op f a), (.flg2, false, false, fun f a _ _ => flg2Op f a),
   (.fdiv, true, false, fun f a b _ => fdivOp f a b), (.fclass, false, false, fun f a _ _ => (fclassOp f a, 0))]

/-- The packed words with what they give for codes of one element (R138). -/
def packedWords : List ((LaneOp → Instr) × Bool × (FpFmt → Nat → Nat → Nat → Nat × Nat)) :=
  [(.hadd2, false, fun f a b _ => fpResult f [decodeFp f a, decodeFp f b] ((decodeFp f a).add (decodeFp f b))),
   (.hmul2, false, fun f a b _ => fpResult f [decodeFp f a, decodeFp f b] ((decodeFp f a).mul (decodeFp f b))),
   (.hfma2, true, ffmaOp), (.hmin2, false, fun f a b _ => fpMinMax f false a b), (.hmax2, false, fun f a b _ => fpMinMax f true a b)]

/-- Element `e` of a packed register. -/
def half (e v : Nat) : Nat := v / 2 ^ (16 * e) % 2 ^ 16

/-- The shape of a packed word. -/
def packShape (rc : Bool) : Shape := { imm := 1, rc := rc }

/-- Every true lane reads full registers alone, and k registers from d on are full (R20, R145). -/
def Full (s : State) (o : LaneOp) (k : Nat) (srcs : Nat → List Src) : Prop :=
  ∀ i ∈ s.myRun, (s.me.lane i).guard o = true → (∀ x ∈ srcs i, x.gaps = []) ∧ (s.me.lane i).regsGaps i o.d k = []

/-- The result of a word that writes k registers from d on, from the values of its sources. -/
def blockWord (s : State) (o : LaneOp) (k : Nat) (srcs : Nat → List Src) (f : Nat → List Nat → Nat × Nat) : State :=
  s.trueLanes o (fun i l => l.wrRegs s.me.depth o.d k (f i ((srcs i).map Src.v)).1) fun i _ => (f i ((srcs i).map Src.v)).2

/-- The lanes of lane i's subgroup that take part: present, of the partition, true (R369). -/
def present (s : State) (o : LaneOp) (n i : Nat) : List Nat :=
  (s.me.subgroup n i).filter fun j => s.myRun.elem j && (s.me.lane j).guard o

/-- The operand a of lane j in a collective. -/
def collArg (s : State) (o : LaneOp) (j : Nat) : Nat := (s.sources s.me j o { pair := o.s, rb := false }).1.v

/-- The contributions at the offsets of lane i's subgroup (R373). -/
def offered (s : State) (o : LaneOp) (n i : Nat) : List (Option Nat) :=
  let k := subLen s.me.width (s.me.greg n).size
  (List.range k).map fun t => if (present s o n i).elem (i / k * k + t) then some (collArg s o (i / k * k + t)) else none

/-- Every true member lane becomes what `f` gives; every lane of the run goes past the word. -/
def members (s : State) (o : LaneOp) (n : Nat) (f : Nat → Lane → Lane) (fl : Nat → Nat) : State :=
  s.trueLanes o (fun i l => if s.me.isMember n i then f i l else l) fun i _ => if s.me.isMember n i then fl i else 0

/-- Registers that the true member lanes of a collective touch are full. -/
def CollFull (s : State) (o : LaneOp) (n : Nat) : Prop :=
  ∀ i ∈ s.myRun, s.me.isMember n i = true → (s.me.lane i).guard o = true →
    (s.sources s.me i o { pair := o.s, rb := false }).1.gaps = [] ∧ (s.me.lane i).gaps i o.d o.s = []

/-- Every lane that a member of the run awaits is in the run, and nobody waits at this word yet (R363, R369). -/
def Gathered (s : State) (n : Nat) : Prop :=
  (∀ i ∈ s.myRun, s.me.isMember n i = true → ∀ j ∈ s.me.awaited n i, j ∈ s.myRun) ∧
    (∀ i, (s.me.lane i).st = .joining n → (s.me.lane i).pc ≠ s.curPc) ∧ ∀ i ∈ s.myRun, (s.me.lane i).force = false

end Sys2Proof.Claims

/-- R133, R134, R136, R137, R138, R139: FP and packed words write the value and set the flags of their exact result rounded once. -/
def Obligations.FloatWordsWriteTheRoundedResult : Prop :=
  (∀ p ∈ Claims.fpWords, ∀ (s : State) (o : LaneOp), swzLegal s.me.width o.x = true → s.Ready o (Claims.fpShape o p.2.1 p.2.2.1) →
    let r (i : Nat) : Nat × Nat :=
      let x := s.sources s.me i o (Claims.fpShape o p.2.1 p.2.2.1)
      p.2.2.2 (fpFmt o) x.1.v x.2.1.v x.2.2.v
    exec (p.1 o) s = .next (s.trueLanes o (fun i l => l.wrOp s.me.depth o.d o.s (r i).1) fun i _ => (r i).2)) ∧
  (∀ p ∈ Claims.packedWords, ∀ (s : State) (o : LaneOp), swzLegal s.me.width o.x = true → s.Ready o (Claims.packShape p.2.1) →
    let r (i e : Nat) : Nat × Nat :=
      let x := s.sources s.me i o (Claims.packShape p.2.1)
      p.2.2 (packFmt o) (Claims.half e x.1.v) (Claims.half e x.2.1.v) (Claims.half e x.2.2.v)
    exec (p.1 o) s = .next (s.trueLanes o
      (fun i l => l.wrOp s.me.depth o.d false ((r i 0).1 % 2 ^ 16 + 2 ^ 16 * ((r i 1).1 % 2 ^ 16))) fun i _ => (r i 0).2 ||| (r i 1).2)) ∧
  ∀ (s : State) (o : LaneOp), swzLegal s.me.width o.x = true → s.Ready o (Claims.packShape true) →
    let r (i : Nat) : Nat × Nat :=
      let x := s.sources s.me i o (Claims.packShape true)
      hdot2Op (packFmt o) x.1.v x.2.1.v x.2.2.v
    exec (.hdot2 o) s = .next (s.trueLanes o (fun i l => l.wrOp s.me.depth o.d false (r i).1) fun i _ => (r i).2)

/-- R95, R133, R135, R137: a value that the format holds rounds to itself with no flag; a NaN operand gives the canonical NaN, with NV
exactly for a signalling one; `fneg` and `fabs` act on the sign bit alone; `fclass` gives one class. -/
def Obligations.FloatResultsKeepExactValuesAndNans : Prop :=
  ∀ f ∈ [fmtF16, fmtBf16, fmtF32, fmtF64],
    (∀ c, c < 2 ^ (f.ew + f.mw + 1) → (decodeFp f c).isNan = false → rne f (decodeFp f c) = (c, 0)) ∧
    (∀ (ops : List XR) (x : XR), (∃ y ∈ ops, y.isNan = true) →
      fpResult f ops x = (f.nanCode, if ops.any XR.isSig then fNV else 0)) ∧
    (∀ a, a < 2 ^ (f.ew + f.mw + 1) → ∀ j,
      (a ^^^ 2 ^ (f.ew + f.mw)).testBit j = (if j = f.ew + f.mw then !a.testBit j else a.testBit j) ∧
      (a % 2 ^ (f.ew + f.mw)).testBit j = (if j = f.ew + f.mw then false else a.testBit j)) ∧
    ∀ a, ∃ k, k < 10 ∧ fclassOp f a = 2 ^ k

namespace Sys2Proof.Claims

/-- The floating-point formats of lane arithmetic (R133, R138). -/
def laneFmts : List FpFmt := [fmtF16, fmtBf16, fmtF32, fmtF64]

/-- The rational number that a finite value is. -/
def value (x : XR) : ℚ :=
  match x with
  | .fin n m e => (if n then -1 else 1) * m * (2 : ℚ) ^ e
  | _ => 0

/-- A code and flags are what rne gives for the real number `x` ≠ 0 in a format (R100, R102, R105): past half a spacing above the largest finite magnitude
an infinity with OF and NX; else the nearest finite value, of even code on a tie, with x's sign, no flag when it is x, else NX, and UF when x rounded
to the format's precision lies below the smallest normal. -/
def RoundsTo (f : FpFmt) (x : ℝ) (r : Nat × Nat) : Prop :=
  let v : ℝ := value (decodeFp f r.1)
  let top : ℝ := (2 ^ (f.mw + 2) - 1) * 2 ^ (f.maxMag.2 - 1)
  let normal : ℝ := (2 ^ (f.mw + 2) - 1) * 2 ^ (-(f.bias : ℤ) - f.mw - 1)
  (top ≤ |x| → r.2 = fOF + fNX ∧ (0 < x → r.1 = f.infCode) ∧ (x < 0 → r.1 = f.signed true f.infCode)) ∧
  (|x| < top → r.1 < 2 ^ (f.ew + f.mw + 1) ∧ (decodeFp f r.1).isFin = true ∧ ((decodeFp f r.1).neg = true ↔ x < 0) ∧
    (∀ c, (decodeFp f c).isFin = true → let u : ℝ := value (decodeFp f c); |x - v| ≤ |x - u| ∧ (|x - v| = |x - u| → u ≠ v → r.1 % 2 = 0)) ∧
    (v = x → r.2 = 0) ∧ (v ≠ x → normal ≤ |x| → r.2 = fNX) ∧ (v ≠ x → |x| < normal → r.2 = fNX + fUF))

/-- The result for an exact value: a real number rounded, or a zero of the given sign. -/
def Exactly (f : FpFmt) (x : ℚ) (zero : Bool) (r : Nat × Nat) : Prop :=
  if x = 0 then r = (f.signed zero 0, 0) else RoundsTo f (x : ℝ) r

/-- The place of a code among the codes of its format that are no NaN, by value, −0 before +0 (R134). -/
def place (f : FpFmt) (c : Nat) : Int :=
  let m : Nat := c % 2 ^ (f.ew + f.mw)
  if c / 2 ^ (f.ew + f.mw) % 2 = 1 then -(m : Int) - 1 else m

/-- The class bit of a value (R137). -/
def classBit (f : FpFmt) (x : XR) : Nat :=
  match x with
  | .inf n => if n then 0 else 7
  | .nan _ s => if s then 8 else 9
  | .fin n m _ =>
    if m = 0 then (if n then 3 else 4)
    else if |value x| < (2 : ℚ) ^ (1 - (f.bias : ℤ)) then (if n then 2 else 5)
    else if n then 1 else 6

/-- 0 × ∞ (R133). -/
def ZeroTimesInf (x y : XR) : Prop := (∃ n, x = .inf n ∧ y.isZero = true) ∨ ∃ n, y = .inf n ∧ x.isZero = true

end Sys2Proof.Claims

/-- R100, R102, R105, R133, R134, R136, R137, R139: rounding, sums, products, fused sums, quotients, reciprocals and roots give the exact value rounded once,
with the zeros, infinities and NaNs of the rules' special cases; `fmin` and `fmax` give the operand that comes first or last; `fclass`
names the class. -/
def Obligations.FloatOperationsRoundTheExactValue : Prop :=
  (∀ f ∈ Claims.laneFmts, ∀ a b c : Nat,
    let x := decodeFp f a
    let y := decodeFp f b
    let z := decodeFp f c
    let nan : Nat × Nat := (f.nanCode, fNV)
    let inf (n : Bool) : Nat × Nat := (f.signed n f.infCode, 0)
    let n := x.neg != y.neg
    (∀ w : XR, w.isFin = true → Claims.Exactly f (Claims.value w) w.neg (rne f w)) ∧
    (x.isFin = true → y.isFin = true →
      Claims.Exactly f (Claims.value x + Claims.value y) (x.neg && y.neg) (faddOp f a b) ∧
      Claims.Exactly f (Claims.value x - Claims.value y) (x.neg && !y.neg) (fsubOp f a b) ∧
      Claims.Exactly f (Claims.value x * Claims.value y) n (fmulOp f a b) ∧
      (z.isFin = true → Claims.Exactly f (Claims.value x * Claims.value y + Claims.value z) (n && z.neg) (ffmaOp f a b c)) ∧
      (∀ p, z = .inf p → ffmaOp f a b c = inf p) ∧
      (y.isZero = false → Claims.Exactly f (Claims.value x / Claims.value y) n (fdivOp f a b)) ∧
      (y.isZero = true → fdivOp f a b = if x.isZero then nan else (f.signed n f.infCode, fDZ))) ∧
    (∀ p, x = .inf p →
      (y.isFin = true → faddOp f a b = inf p ∧ fsubOp f a b = inf p ∧ fdivOp f a b = inf n) ∧
      (y = .inf p → faddOp f a b = inf p ∧ fsubOp f a b = nan) ∧ (y = .inf (!p) → faddOp f a b = nan ∧ fsubOp f a b = inf p) ∧
      (∀ q, y = .inf q → fdivOp f a b = nan)) ∧
    (∀ q, y = .inf q → x.isFin = true → faddOp f a b = inf q ∧ fsubOp f a b = inf (!q) ∧ fdivOp f a b = (f.signed n 0, 0)) ∧
    (Claims.ZeroTimesInf x y → fmulOp f a b = nan ∧ (z.isNan = false → ffmaOp f a b c = nan) ∧
      (z.isNan = true → (ffmaOp f a b c).1 = f.nanCode ∧ (ffmaOp f a b c).2 = fNV)) ∧
    ((∃ p, x = .inf p ∨ y = .inf p) → x.isNan = false → y.isNan = false → ¬Claims.ZeroTimesInf x y →
      fmulOp f a b = inf n ∧ (z = .inf (!n) → ffmaOp f a b c = nan) ∧ (z.isFin = true ∨ z = .inf n → ffmaOp f a b c = inf n)) ∧
    (x.isNan = true ∨ y.isNan = true →
      let r := (f.nanCode, if x.isSig || y.isSig then fNV else 0)
      faddOp f a b = r ∧ fsubOp f a b = r ∧ fmulOp f a b = r ∧ fdivOp f a b = r) ∧
    (x.isNan = true ∨ y.isNan = true ∨ z.isNan = true → ¬Claims.ZeroTimesInf x y →
      ffmaOp f a b c = (f.nanCode, if x.isSig || y.isSig || z.isSig then fNV else 0)) ∧
    (x.isNan = false → y.isNan = false →
      fpMinMax f false a b = (if Claims.place f a < Claims.place f b then a else b, 0) ∧
      fpMinMax f true a b = (if Claims.place f a < Claims.place f b then b else a, 0)) ∧
    (x.isFin = true → y.isFin = true → Claims.value x < Claims.value y → Claims.place f a < Claims.place f b) ∧
    (∀ big, let nv := if x.isSig || y.isSig then fNV else 0
      (x.isNan = true → y.isNan = true → fpMinMax f big a b = (f.nanCode, nv)) ∧
      (x.isNan = true → y.isNan = false → fpMinMax f big a b = (b, nv)) ∧ (x.isNan = false → y.isNan = true → fpMinMax f big a b = (a, nv))) ∧
    fclassOp f a = 2 ^ Claims.classBit f x ∧
    (x.isNan = true → let r := (f.nanCode, if x.isSig then fNV else 0)
      frcpOp f a = r ∧ frsqOp f a = r ∧ fsqrtOp f a = r ∧ fex2Op f a = r ∧ flg2Op f a = r) ∧
    (∀ p, x = .inf p → frcpOp f a = (f.signed p 0, 0) ∧ frsqOp f a = (if p then nan else (0, 0)) ∧ fsqrtOp f a = (if p then nan else inf false) ∧
      fex2Op f a = (if p then (0, 0) else inf false) ∧ flg2Op f a = (if p then nan else inf false)) ∧
    (x.isZero = true → frcpOp f a = (f.signed x.neg f.infCode, fDZ) ∧ frsqOp f a = (f.signed x.neg f.infCode, fDZ) ∧
      fsqrtOp f a = (f.signed x.neg 0, 0) ∧ Claims.RoundsTo f 1 (fex2Op f a) ∧ flg2Op f a = (f.signed true f.infCode, fDZ)) ∧
    (x.isFin = true → x.isZero = false →
      let v : ℝ := Claims.value x
      Claims.RoundsTo f (1 / v) (frcpOp f a) ∧
      (x.neg = true → frsqOp f a = nan ∧ fsqrtOp f a = nan ∧ flg2Op f a = nan) ∧
      (x.neg = false → Claims.RoundsTo f (1 / Real.sqrt v) (frsqOp f a) ∧ Claims.RoundsTo f (Real.sqrt v) (fsqrtOp f a)))) ∧
  ∀ f ∈ [fmtF16, fmtBf16], ∀ a b c : Nat,
    let x (e : Nat) := decodeFp f (Claims.half e a)
    let y (e : Nat) := decodeFp f (Claims.half e b)
    let z := decodeFp fmtF32 c
    let n (e : Nat) := (x e).neg != (y e).neg
    let r := hdot2Op f a b c
    ((∀ e < 2, (x e).isFin = true ∧ (y e).isFin = true) → z.isFin = true →
      Claims.Exactly fmtF32 (Claims.value (x 0) * Claims.value (y 0) + Claims.value (x 1) * Claims.value (y 1) + Claims.value z) (n 0 && n 1 && z.neg) r) ∧
    ((∃ e < 2, (x e).isNan = true ∨ (y e).isNan = true) ∨ z.isNan = true → r.1 = fmtF32.nanCode) ∧
    ((∃ e < 2, Claims.ZeroTimesInf (x e) (y e)) → r.1 = fmtF32.nanCode ∧ r.2 = fNV) ∧
    ((∀ e < 2, (x e).isNan = false ∧ (y e).isNan = false ∧ ¬Claims.ZeroTimesInf (x e) (y e)) → z.isNan = false →
      let terms : List XR := [(x 0).mul (y 0), (x 1).mul (y 1), z]
      (.inf true ∈ terms → .inf false ∈ terms → r = (fmtF32.nanCode, fNV)) ∧
      ∀ p, .inf p ∈ terms → .inf (!p) ∉ terms → r = (fmtF32.signed p fmtF32.infCode, 0))

/-- R136: `fex2` and `flg2` of a finite value give the exact function value rounded once, exactly where it is an integer power or an integer, and elsewhere unless a
rounding boundary lies closer to the exact value than the model computes it (log entry 3): 2^−240 of it for `fex2`, 2^−198 for
`flg2`. -/
def Obligations.ExponentialAndLogarithmRoundTheExactValue : Prop :=
  ∀ f ∈ Claims.laneFmts, ∀ a : Nat, let x := decodeFp f a
    x.isFin = true → x.isZero = false →
    let v : ℝ := Claims.value x
    (∀ k : ℤ, v = k → Claims.RoundsTo f ((2 : ℝ) ^ k) (fex2Op f a)) ∧
    (∀ r, (∀ z : ℝ, |z - (2 : ℝ) ^ v| ≤ (2 : ℝ) ^ (v - 240) → Claims.RoundsTo f z r) → fex2Op f a = r) ∧
    (x.neg = false →
      (∀ k : ℤ, v = (2 : ℝ) ^ k → Claims.Exactly f (k : ℚ) false (flg2Op f a)) ∧
      ∀ r, (∀ z : ℝ, |z - Real.logb 2 v| ≤ (2 : ℝ) ^ (-198 : ℤ) → Claims.RoundsTo f z r) → flg2Op f a = r)

/-- R140 to R151: `cvt` and the block words write, in true lanes, what their rule gives for the value and code layouts; a word whose
rounding field is `sr` steps the lane generator once for the issue (R112; for the words that round nothing, log entry 68). -/
def Obligations.ConversionWordsWriteTheRuleValue : Prop :=
  ∀ (s : State) (o : LaneOp) (sfmt dfmt rnd : Nat) (sat : Bool) (subst bsz c opx : Nat), o.x = .cvt sfmt dfmt rnd sat subst bsz c opx →
    let t := stepLaneGen s rnd
    let epl := eplOf opx
    let m := bszOf bsz / epl
    let one (t : State) (k i : Nat) : List Src := [t.regsSrc t.me i o.a k]
    let two (t : State) (k i : Nat) : List Src := [t.regsSrc t.me i o.a k, t.regsSrc t.me i c 1]
    let seg (k i : Nat) : List Src := (segment m i).map fun j => t.regsSrc t.me j o.a k
    let cv (sat : Bool) (rot : Nat) : Cvt :=
      { mode := rnd, sat := sat, subst := subst, cvsub := t.me.cvsub.toNat, r := genDraw (t.laneGen t.me.core) rot }
    let flags (l : List (Nat × Nat)) : Nat := l.foldl (fun f r => f ||| r.2) 0
    (let ks := if cvtWide sfmt (opx % 8) then 2 else 1
     let kd := if cvtWide dfmt (opx / 8 % 8) then 2 else 1
     Claims.Full t o kd (one t ks) → exec (.cvt o) s = .next (Claims.blockWord t o kd (one t ks) fun i xs =>
       cvtValue (cvtFmt sfmt (opx % 8)) (cvtFmt dfmt (opx / 8 % 8)) (cv sat (5 * i)) (xs.headD 0))) ∧
    (m ≤ s.me.width → Claims.Full t o 1 (seg (Machine.valRegs sfmt epl)) →
     exec (.bamax o) s = .next (Claims.blockWord t o 1 (seg (Machine.valRegs sfmt epl)) fun _ xs =>
       (toF32 (amaxOf (xs.flatMap fun v => (List.range epl).map fun e => valElem sfmt v e)), 0))) ∧
    (Claims.Full t o 1 (one t 1) → exec (.bscale o) s = .next (Claims.blockWord t o 1 (one t 1) fun _ xs =>
       scaleCode dfmt (decodeFp fmtF32 (xs.headD 0)))) ∧
    (Claims.Full t o (Machine.codeRegs dfmt epl) (two t (Machine.valRegs sfmt epl)) →
     exec (.bquant o) s = .next (Claims.blockWord t o (Machine.codeRegs dfmt epl) (two t (Machine.valRegs sfmt epl)) fun i xs =>
       let rs := (List.range epl).map fun e => mxQuant dfmt (cv false (5 * i + 16 * e)) (xs.getD 1 0 % 256) (valElem sfmt (xs.headD 0) e)
       (packStream (fmtBits dfmt) (rs.map fun r => r.1), flags rs))) ∧
    (let k := Machine.packRegs dfmt epl
     let w := epl * fmtBits dfmt
     (m ≤ s.me.width → Claims.Full t o k (seg (Machine.codeRegs dfmt epl)) →
      exec (.bpack o) s = .next (Claims.blockWord t o k (seg (Machine.codeRegs dfmt epl)) fun i xs =>
        (packStream w (xs.map fun v => v % 2 ^ w) / 2 ^ (32 * k * (i % m)) % 2 ^ (32 * k), 0))) ∧
     (m ≤ s.me.width → Claims.Full t o (Machine.codeRegs dfmt epl) (seg k) →
      exec (.bunpack o) s = .next (Claims.blockWord t o (Machine.codeRegs dfmt epl) (seg k) fun i xs =>
        (packStream (32 * k) xs / 2 ^ (w * (i % m)) % 2 ^ w, 0)))) ∧
    (Claims.Full t o (Machine.valRegs dfmt epl) (two t (Machine.codeRegs sfmt epl)) →
     exec (.bdeq o) s = .next (Claims.blockWord t o (Machine.valRegs dfmt epl) (two t (Machine.codeRegs sfmt epl)) fun i xs =>
       let rs := (List.range epl).map fun e => convert (fmtOf dfmt) (cv sat (5 * i + 16 * e))
         (quietValue (mxValue sfmt (streamElem (fmtBits sfmt) (xs.headD 0) e) (xs.getD 1 0 % 256)))
       (valPack dfmt (rs.map fun r => r.1), flags rs))) ∧
    (s.me.width < m → exec (.bamax o) s = .next (illegalRun s true) ∧ exec (.bpack o) s = .next (illegalRun s true) ∧
      exec (.bunpack o) s = .next (illegalRun s true))

/-- R368: `shfl` writes, in a true lane, the operand a of the lane that its b names modulo the width, in the run or not. -/
def Obligations.ShflReadsTheNamedLane : Prop :=
  ∀ (s : State) (o : LaneOp), swzLegal s.me.width o.x = true →
    let b (i : Nat) : Src := (s.sources s.me i o { pair := o.s }).2.1
    let a (j : Nat) : Src := s.indexed s.me j o { pair := o.s }
    (∀ i ∈ s.myRun, (s.me.lane i).guard o = true →
      (b i).gaps = [] ∧ (s.me.lane i).gaps i o.d o.s = [] ∧ (a ((b i).v % s.me.width)).gaps = []) →
    exec (.shfl o) s = .next (s.trueLanes o fun i l => l.wrOp s.me.depth o.d o.s (a ((b i).v % s.me.width)).v)

/-- R369 to R375: without `.sync`, the true member lanes of a run combine the contributions of their subgroup's present true members and
write the result; every other lane of the run only goes on. -/
def Sys2Proof.Claims.CollectivesCombineThePresentTrueMembers : Prop :=
  ∀ (s : State) (o : LaneOp),
    (tb o.b 1 = false →
      exec (.vote o) s = .next (Claims.members s o (o.a / 8)
        (fun i l => l.setPred (o.d % 8)
          (let ps := (Claims.present s o (o.a / 8) i).map fun j => (s.me.lane j).pred (o.a % 8)
           if tb o.b 0 then ps.all id else ps.any id)) fun _ => 0)) ∧
    (let n := o.b / 8
     swzLegal s.me.width o.x = true → tb o.b 2 = false → Claims.CollFull s o n →
      (let r (i : Nat) : Option Nat × Nat := treeRoot (collOp (opBits o) (o.b % 4)) 6 (Claims.offered s o n i)
       exec (.gred o) s = .next (Claims.members s o n
        (fun i l => l.wrOp s.me.depth o.d o.s ((r i).1.getD (collId (opBits o) (o.b % 4)))) fun i => (r i).2)) ∧
      (let r (i : Nat) : Option Nat × Nat := scanFold (collOp (opBits o) (o.b % 4))
         ((Claims.offered s o n i).take (i % subLen s.me.width (s.me.greg n).size + 1))
       exec (.gscan o) s = .next (Claims.members s o n
        (fun i l => l.wrOp s.me.depth o.d o.s ((r i).1.getD (collId (opBits o) (o.b % 4)))) fun i => (r i).2)) ∧
      exec (.gbcast o) s = .next (Claims.members s o n
        (fun i l => match (Claims.present s o n i).head? with
          | some j => l.wrOp s.me.depth o.d o.s (Claims.collArg s o j)
          | none => l) fun _ => 0))

/-- R363, R369: `join`, and a collective under `.sync`, act at once when every awaited lane is in the run; else a member lane waits where
it stands. -/
def Sys2Proof.Claims.SyncWordsWaitForTheAwaitedLanes : Prop :=
  ∀ (s : State) (o : LaneOp),
    (Claims.Gathered s (o.b % 8) → exec (.join o) s = .next (s.eachLane fun _ l => l.past (opLen o))) ∧
    (s.curOld = none → tb o.b 1 = false → Claims.Gathered s (o.a / 8) → exec (.vote { o with b := o.b + 2 }) s = exec (.vote o) s) ∧
    (∀ p ∈ [Instr.gred, Instr.gscan, Instr.gbcast], s.curOld = none → tb o.b 2 = false → swzLegal s.me.width o.x = true →
      Claims.CollFull s o (o.b / 8) → Claims.Gathered s (o.b / 8) → exec (p { o with b := o.b + 4 }) s = exec (p o) s) ∧
    ∀ i ∈ s.myRun, ∀ j, (s.me.lane i).force = false → s.me.isMember (o.b % 8) i = true → j ∈ s.me.awaited (o.b % 8) i →
      j ∉ s.myRun → (s.me.lane j).st ≠ .joining (o.b % 8) →
      ∃ t, exec (.join o) s = .next t ∧ (t.group s.cur).lane i = { s.me.lane i with st := .joining (o.b % 8), waited := 0 }

/-- R363, R369 to R375: collectives, and the words that wait for lanes. -/
def Obligations.CollectivesCombineAndWait : Prop :=
  Claims.CollectivesCombineThePresentTrueMembers ∧ Claims.SyncWordsWaitForTheAwaitedLanes

/-! ## Ports, lane control, traps (R358 to R362, R379 to R384, R431, R437 to R443, R455, R456) -/

namespace Sys2Proof.Claims

/-- The lanes of the run whose guard holds. -/
def trueRun (s : State) (o : LaneOp) : List Nat := s.myRun.filter fun i => (s.me.lane i).guard o

/-- A call's move of the window (R360). -/
def called (d fr : Nat) (ret tgt : Word) (l : Lane) : Lane :=
  let w := l.w + 8 * fr
  ({ (l.put d (.stack w) ret).fill (.stack w) with w := w, cdep := l.cdep + 1 } : Lane).sentTo tgt

/-- The lanes of a list trap with one cause and address; a trap of the supervisor slot resets it once (R463). -/
def laneTraps (s t : State) (ls : List Nat) (c : Cause) (addr : Nat) : State :=
  (if s.me.priv = .supervisor then ls.take 1 else ls).foldl
    (fun t i => takeTrap t s.cur c s.curPc false false [(i, BitVec.ofNat 64 addr)]) t

/-- A lane may call (R360). -/
def MayCall (d fr : Nat) (l : Lane) : Prop :=
  l.cdep ≠ 65535 ∧ l.w + 8 * fr + 56 ≤ 65536 ∧ l.w + 8 * fr + 56 ≤ l.rb + d ∧ l.isEmpty (.stack (l.w + 8 * fr)) = false

end Sys2Proof.Claims

/-- R382, R383: `pull` takes the oldest entry, or queues its destination as a pending pull (four at most) and marks it empty; `ptry` takes
an entry or clears its predicate. -/
def Obligations.PullsTakeTheOldestEntry : Prop :=
  ∀ (s : State) (o : LaneOp), (∀ i ∈ s.myRun, (s.me.lane i).guard o = true → (s.me.lane i).gaps i o.d false = []) →
    exec (.pull o) s = .next (s.eachLane fun _ l =>
      if l.guard o = false then l.past 4
      else if l.fifos.get [] (o.b % 8) = [] ∧ 4 ≤ (l.pulls.get [] (o.b % 8)).length then l.blockedOn (.pulls (o.b % 8))
      else if l.fifos.get [] (o.b % 8) = [] then
        ({ l with pulls := l.pulls.set (o.b % 8) (l.pulls.get [] (o.b % 8) ++ [l.slotOf o.d]) }.mark o.d false).past 4
      else
        ({ l with fifos := l.fifos.set (o.b % 8) (l.fifos.get [] (o.b % 8)).tail }.wrOp s.me.depth o.d false
          ((l.fifos.get [] (o.b % 8)).headD 0).toNat).past 4) ∧
    exec (.ptry o) s = .next (s.eachLane fun _ l =>
      if l.guard o = false then l.past 4
      else if l.fifos.get [] (o.b % 8) = [] then (l.setPred (o.a % 8) false).past 4
      else
        (({ l with fifos := l.fifos.set (o.b % 8) (l.fifos.get [] (o.b % 8)).tail }.wrOp s.me.depth o.d false
          ((l.fifos.get [] (o.b % 8)).headD 0).toNat).setPred (o.a % 8) true).past 4)

/-- R380, R381: a push of one lane to a peer lane of this device enters the peer's FIFO when no pull waits and it holds fewer than four
entries, and the lane goes on; it blocks when it is full. Through ports 6 and 7 the value enters, or finds the FIFO full, at the end of the cycle,
and the lane waits until then (DESIGN CHOICE, log entry 92). Port 6 or 7 without a SEND entry of KIND 2 takes CAP_INVALID. -/
def Obligations.PushesEnterThePeerFifo : Prop :=
  ∀ (s : State) (o : LaneOp) (i pg pl : Nat), s.myRun = [i] → (s.me.lane i).guard o = true →
    let q := peerFifo (o.b % 8)
    let p := (s.group pg).lane pl
    let c := s.cap s.me o.d
    ((o.b % 8 < 6 ∨ (c.kind = 2 ∧ c.send = true)) → (s.me.lane i).gaps i o.a false = [] → s.peer s.me i (o.b % 8) c = .here pg pl →
      p.pulls.get [] q = [] → pl < (s.group pg).lanes.length → pg < s.groups.length →
      let v := (s.me.lane i).rd s.me.depth ((s.me.lane i).slotOf o.a)
      let entered : State := s.modGroup pg fun g => g.modLane pl fun l => { l with fifos := l.fifos.set q (l.fifos.get [] q ++ [v]) }
      let x : Push := { member := ((s.gangOf s.me.team).map fun y => y.2).getD 0, v0 := s.me.ident i, group := pg, lane := pl, q := q, val := v,
                        frm := some (s.cur, i) }
      let given : State := ({ s with pushes := s.pushes ++ [x] } : State).laneDone i (Lane.blockedOn .pushing)
      let full : State := s.laneDone i (Lane.blockedOn (.room pg pl q))
      (q < 6 →
        ((p.fifos.get [] q).length < 4 → exec (.push o) s = .next (entered.laneDone i (Lane.past 4))) ∧
        (4 ≤ (p.fifos.get [] q).length → exec (.push o) s = .next full)) ∧
      (6 ≤ q → exec (.push o) s = .next given ∧
        (s.pushes = [] → (s.team (s.group pg).team).left = false → (s.group pg).ended = false → p.isExited = false →
          ((p.fifos.get [] q).length < 4 →
            deliverAll given = entered.laneDone i fun l => { l.past 4 with st := .active, marked := [] }) ∧
          (4 ≤ (p.fifos.get [] q).length → deliverAll given = full)))) ∧
    (6 ≤ o.b % 8 → (c.kind ≠ 2 ∨ c.send = false) →
      exec (.push o) s = .next (takeTrap (s.laneDone i fun l => { l with failed := none }) s.cur .capInvalid s.curPc false false
        [(i, BitVec.ofNat 64 o.d)]))

/-- R359, R360, R361: true lanes of `bra` and `jmpr` go to their target; a call saves the return address in slot W' + 0 of the new window
and counts; `ret` undoes the move. The other lanes of the run go on. -/
def Sys2Proof.Claims.BranchesAndCallsMoveTrueLanes : Prop :=
  ∀ (s : State) (o : LaneOp),
    let d := s.me.depth
    let each (f : Lane → Lane) : State := s.eachLane fun _ l => if l.guard o then f l else l.past 4
    let all (p : Nat → Lane → Prop) : Prop := ∀ i ∈ s.myRun, (s.me.lane i).guard o = true → p i (s.me.lane i)
    exec (.bra o) s = .next (each (Lane.sentTo (target s.curPc 18 (laneOff18 o)))) ∧
    ((all fun i l => l.gaps i o.a false = [] ∧ l.rdOp d o.a false % 4 = 0) →
      exec (.jmpr o) s = .next (each fun l => l.sentTo (BitVec.ofNat 32 (l.rdOp d o.a false)))) ∧
    (s.curPc.toNat % 4 = 0 → (all fun _ l => Claims.MayCall d (laneFrame o) l) →
      exec (.call o) s = .next (each fun l => Claims.called d (laneFrame o) (s.curPc + 4) (target s.curPc 15 (laneOff15 o)) l)) ∧
    ((all fun i l => Claims.MayCall d (laneFrame o) l ∧ l.gaps i o.a false = [] ∧ l.rdOp d o.a false % 4 = 0) →
      exec (.callr o) s = .next (each fun l => Claims.called d (laneFrame o) (s.curPc + 4) (BitVec.ofNat 32 (l.rdOp d o.a false)) l)) ∧
    let f := o.b % 8
    ((all fun i l => l.cdep ≠ 0 ∧ l.gaps i 8 false = [] ∧ l.rdOp d 8 false % 4 = 0 ∧ 8 * f ≤ l.w ∧ l.rb ≤ l.w - 8 * f) →
      exec (.ret o) s = .next (each fun l =>
        ({ l with w := l.w - 8 * f, cdep := l.cdep - 1 } : Lane).sentTo (BitVec.ofNat 32 (l.rdOp d 8 false))))

/-- R362: `exit`, and `ret` at depth 0, make every true lane of the run exit while another lane of the group lives; a group whose last
lanes exit ends. -/
def Sys2Proof.Claims.ExitsEndLanesAndTheirGroup : Prop :=
  ∀ (s : State) (o : LaneOp) (p : LaneOp → Instr),
    (p = .exit ∨ (p = .ret ∧ ∀ i ∈ s.myRun, (s.me.lane i).guard o = true → (s.me.lane i).cdep = 0)) →
    ((∃ j ∈ s.me.live, j ∉ Claims.trueRun s o) →
      exec (p o) s = .next (s.eachLane fun _ l => if l.guard o then l.exit s.me.depth else l.past 4)) ∧
    (s.myRun ≠ [] → s.me.ended = false → (∀ j ∈ s.me.live, j ∈ Claims.trueRun s o) →
      ∃ t, exec (p o) s = .next t ∧ (t.group s.cur).ended = true ∧ (t.group s.cur).resident = false ∧
        ∀ j < s.me.lanes.length, ((t.group s.cur).lane j).isExited = true)

/-- R359 to R362: branches, calls, returns and exits. -/
def Obligations.LaneControlMovesAndEndsLanes : Prop :=
  Claims.BranchesAndCallsMoveTrueLanes ∧ Claims.ExitsEndLanesAndTheirGroup

/-- R63, R437, R438: words that trap. `ill` and an encoding that no instruction has raise ILLEGAL in the run; a uniform word does so in a group
record, which has every live lane when the group is converged and in a diverged one the lanes at the word (DESIGN CHOICE, log entry 65); `bkpt` parks its
true lanes and `trap` the group, with the immediate as the address. -/
def Obligations.TrappingWordsTakeTheirCause : Prop :=
  ∀ (s : State) (o : LaneOp) (u : UOp) (w : Nat),
    let run := s.myRun.map fun i => (i, (0 : UWord))
    let live (v : UWord) := s.me.live.map fun i => (i, v)
    exec (.ill o) s = .next (takeTrap s s.cur .illegal s.curPc false false run) ∧
    exec (.illegalEncoding w) s = .next (if 2 ^ 31 ≤ w then takeTrap s s.cur .illegal s.curPc false true run
      else takeTrap s s.cur .illegal s.curPc (w.testBit 1) false run) ∧
    (s.Conv → run = live 0) ∧
    (s.Conv → exec (.trap u) s = .next (takeTrap s s.cur .trap s.curPc false true (live (BitVec.ofNat 64 u.imm12)))) ∧
    exec (.bkpt o) s = .next (Claims.laneTraps s (s.eachLane fun _ l => if l.guard o then { l with failed := none } else l.past 4)
      (Claims.trueRun s o) .bkpt (o.a * 64 + o.b)) ∧
    (swzLegal s.me.width o.x = false → exec (.iadd o) s = .next (takeTrap s s.cur .illegal s.curPc (o.x != .none) false run))

/-- R431, R432, R455, R456, R463: a trap of a user group parks its lanes where they stand and makes one record of the cause, the PC, the lanes
and the address of each, a group record one address for every lane, or adds the lanes to the record of the same cause and PC; a trap of the supervisor
slot frees the slot. -/
def Obligations.TakingATrapParksAndRecords : Prop :=
  ∀ (s : State) (gid : Nat) (c : Cause) (pc : Word) (ext unif : Bool) (lanes : List (Nat × UWord)) (status : Nat),
    gid < s.groups.length → lanes ≠ [] →
    let g := s.group gid
    let t := takeTrap s gid c pc ext unif lanes status
    let r : Record := { cause := c, pc := pc, ext := ext, unif := unif, lanes := maskOf (lanes.map fun x => x.1),
                        addrs := if unif then (List.range g.lanes.length).map fun i => (i, (lanes.headD (0, 0)).2)
                          else lanes.foldl (fun m x => AMap.set m x.1 x.2) []
                        status := status, age := s.stamp }
    (g.priv = .user →
      (t.group gid).records = addRecord g.records r ∧
      ((∀ x ∈ g.records, x.cause ≠ c ∨ x.pc ≠ pc ∨ x.unif = true) → addRecord g.records r = g.records ++ [r]) ∧
      (t.group gid).hold = .none ∧ t.stamp = s.stamp + 1 ∧ t.mem = s.mem ∧
      (∀ i < g.lanes.length, (t.group gid).lane i =
        if i ∈ lanes.map (fun x => x.1) then { (g.lane i).unmark with st := .parked, pc := pc } else g.lane i) ∧
      ∀ k, k ≠ gid → t.group k = s.group k) ∧
    (g.priv = .supervisor → (t.core g.core).serves = none)

/-- R441, R443: `gcall` of a run whose registers are full writes one record of 320 bytes into the next slot of the mailbox, leaves each
true lane's d empty for the reply, and goes on. -/
def Obligations.GcallPostsOneRecord : Prop :=
  ∀ (s : State) (o : LaneOp) (a : Nat) (tso : Bool),
    let g := s.me
    let tm := s.teamOf g
    let ms := Claims.trueRun s o
    ms ≠ [] → (∀ i ∈ ms, (g.lane i).gaps i o.a false = [] ∧ (g.lane i).gaps i o.d false = []) →
    (s.cap g o.b).kind = 5 → (s.cap g o.b).send = true → tm.svcOn = true → s.mailFull s.cur o.b = false → s.Drained →
    s.trans g.core (s.ctxOf g) tm.svcSlot 1 (ms.any fun i => (g.lane i).failed.isSome) = (s, .ok (.dpa a) tso) →
    (∀ x ∈ linesOf a 320, s.snoopNeeded x true = false) →
    let bytes := mailBytes s g s.curPc (maskOf ms) o.b
      ((List.range 64).map fun i => if ms.elem i then (g.lane i).rdOp g.depth o.a false else 0)
    let m : Mail := { seq := tm.svcnext, addr := tm.svcSlot, group := s.cur, cap := o.b, dst := ms.map fun i => (i, (g.lane i).slotOf o.d) }
    exec (.gcall o) s = .next (((putMail s g.core s.cur tm.svcSlot (some tm.launch) (.dpa a) bytes).modTeam g.team fun t =>
      { t with mail := t.mail ++ [m], svcnext := (t.svcnext + 1) % 2 ^ 32 }).trueLanes { o with x := .none } fun _ l => l.mark o.d false)


/-! ## Lane memory words (R265 to R281, R200 to R203, R303) -/

namespace Sys2Proof.Claims

/-- One lane issues a lane memory word of space `space` with room for one more operation (R303) and for its TLB miss (R419), its address register
full; a release has nothing to do, and no write-combining entry of the core is full (R308). -/
def OneAccess (s : State) (o : LaneOp) (i space scope order aop hint disp : Nat) : Prop :=
  o.x = .mem space scope order aop hint disp ∧ s.myRun = [i] ∧ (s.me.lane i).guard o = true ∧ s.outstanding s.cur < 64 ∧
    s.missShort o space disp = false ∧ (s.me.lane i).gaps i o.a (space == 0) = [] ∧ (2 ≤ order → s.Drained) ∧
    ∀ e ∈ (s.core s.me.core).wcb, e.bytes.length ≠ 128

/-- The name of lane i's issue: that of the word at which it has waited, else a new one (R303). -/
def opOf (s : State) (i : Nat) : Nat := (s.me.lane i).op.getD s.stamp

/-- The value `v` is on its way to lane i's d, which is empty meanwhile (R20). -/
def brings (s t : State) (o : LaneOp) (i ext v : Nat) : State :=
  ({ t with landing := t.landing ++
      [{ dst := { group := s.cur, lane := i, slot := (s.me.lane i).slotOf o.d, pair := o.s, ext := ext }, val := BitVec.ofNat 64 v, op := opOf s i }] } :
    State).laneDone i fun l => (l.mark o.d o.s).past 8

/-- Lane i goes past its word with flags. -/
def goesOn (t : State) (i fl : Nat) : State :=
  t.modGroup t.cur fun g => { g.modLane i (Lane.past 8) with flags := g.flags ||| BitVec.ofNat 64 fl }

/-- What `st` stores of b: as given, or as the bound of BNDIDX makes it (R271); none for a trap. -/
def stored (s : State) (o : LaneOp) (i : Nat) : Option (Nat × Nat) :=
  let v := (s.me.lane i).rdOp s.me.depth o.b o.s
  if o.d.testBit 3 then bndCheck ((s.launchOf s.me).bnd.get {} (s.me.bndidx.toNat % 64)) v else some (v, 0)

/-- Bytes of an atomic operand. -/
def wideBytes (o : LaneOp) : Nat := if o.s then 8 else 4

end Sys2Proof.Claims

/-- R266, R269 to R275: a scratch access of one lane inside the team's scratch and aligned reads, writes or updates the bytes at once; a
read brings the old value to d. -/
def Obligations.ScratchAccessesActAtOnce : Prop :=
  ∀ (s : State) (o : LaneOp) (i scope order aop hint disp : Nat), Claims.OneAccess s o i 1 scope order aop hint disp →
    let l := s.me.lane i
    let own := (s.served s.cur).1
    let ea := effAddr s.me l o.a 1 disp
    let n := Claims.wideBytes o
    let b := l.rdOp s.me.depth o.b o.s
    let inside (n : Nat) : Prop := 0 ≤ ea ∧ ea + n ≤ (s.launch (s.team own).launch).e.scratch ∧ ea.toNat % n = 0
    let old (n : Nat) : Nat := (s.team own).scr ea.toNat n
    let put (n v : Nat) : State := s.tick.modTeam own fun tm => { tm with scratch := memPut tm.scratch (spread ea.toNat (natBytes n v)) }
    let fin (t : State) : State := if order % 2 = 1 then laneAcquire t scope [.obj 0] else t
    let full (r : Nat) : Prop := l.gaps i r o.s = []
    (full o.d → inside (ldBytes (o.b % 8)) →
      exec (.ld o) s = .next (fin (Claims.brings s s.tick o i (ldExt (o.b % 8)) (old (ldBytes (o.b % 8)))))) ∧
    (∀ v fl, full o.b → inside (ldBytes (o.d % 8)) → Claims.stored s o i = some (v, fl) →
      exec (.st o) s = .next (fin (Claims.goesOn (put (ldBytes (o.d % 8)) (v % 2 ^ (8 * ldBytes (o.d % 8)))) i fl))) ∧
    (inside n → full o.b → full o.d →
      exec (.atom o) s = .next (fin (Claims.brings s (put n (rmw aop (8 * n) (old n) b)) o i 0 (old n))) ∧
      exec (.cas o) s = .next (fin (Claims.brings s (if old n = l.rdOp s.me.depth o.d o.s then put n b else s.tick) o i 0 (old n)))) ∧
    (inside n → full o.b → exec (.red o) s = .next (Claims.goesOn (put n (rmw aop (8 * n) (old n) b)) i 0))

/-- R240, R252, R253, R267 to R275: a `glob` access of one lane whose page is in the core's TLB, to a good line of device memory that nothing
caches or buffers: a load brings the bytes of the home; a store waits in order for its home; an atomic acts at the home; a reduction
enters the reduction buffer. -/
def Obligations.GlobalAccessesReachTheirHome : Prop :=
  ∀ (s : State) (o : LaneOp) (i scope order aop hint disp a n kind : Nat), Claims.OneAccess s o i 0 scope order aop hint disp →
    let g := s.me
    let l := g.lane i
    let va := wrap 64 (effAddr g l o.a 0 disp)
    let who := some (s.teamOf g).launch
    let b := l.rdOp g.depth o.b o.s
    let d := l.rdOp g.depth o.d o.s
    let old := bytesNat (s.bytes a n)
    let full (r : Nat) : Prop := l.gaps i r o.s = []
    let fin (t : State) : State := if order % 2 = 1 then laneAcquire t scope [s.objectAt (s.ctxOf g) va] else t
    let upd (v : Nat) : State :=
      storeL1 (dropWay (homeWrite s.tick who a (spread a (natBytes n v))) g.core a) g.core a (natBytes n v) false
    s.Drained → va % n = 0 → a % n = 0 → n ∈ [1, 2, 4, 8] → s.lineClass a = 0 → s.snoopNeeded a true = false →
    s.tick.trans g.core (s.ctxOf g) va kind l.failed.isSome = (s.tick, .ok (.dpa a) false) →
    (kind = 0 → n = ldBytes (o.b % 8) → full o.d →
      (∀ c ∈ s.caches, c.dpa = lineOf a → c.holder ≠ g.core ∧ c.holder ≠ ccHolder (clusterOf g.core)) →
      exec (.ld o) s = .next (fin (Claims.brings s
        (readLine s.tick who g.core (s.ctxOf g) va a n (order % 2 == 1 && 2 ≤ scope) false (hint != 3) true (hint == 1)).1 o i (ldExt (o.b % 8)) old))) ∧
    (∀ v fl, kind = 1 → n = ldBytes (o.d % 8) → full o.b → Claims.stored s o i = some (v, fl) → (∀ st ∈ s.stores, st.op ≠ Claims.opOf s i) →
      let bs := natBytes n (v % 2 ^ (8 * n))
      exec (.st o) s = .next (fin (Claims.goesOn { storeL1 s.tick g.core a bs (hint == 3) with
        stores := s.stores ++ [{ core := g.core, group := s.cur, launch := (s.teamOf g).launch, dpa := a, bytes := spread a bs,
                                 op := Claims.opOf s i }] } i fl))) ∧
    (kind = 2 → n = Claims.wideBytes o → full o.b →
      (full o.d →
        exec (.atom o) s = .next (fin (Claims.brings s (upd (rmw aop (8 * n) old b)) o i 0 old)) ∧
        (old = d → exec (.cas o) s = .next (fin (Claims.brings s (upd b) o i 0 old))) ∧
        (old ≠ d → exec (.cas o) s = .next (fin (Claims.brings s
          (storeL1 (dropWay (expose s.tick who a) g.core a) g.core a (natBytes n old) false) o i 0 old)))) ∧
      exec (.red o) s = .next (Claims.goesOn (s.tick.modCore g.core fun c => { c with red := c.red ++
        [{ ctx := s.ctxOf g, group := s.cur, tgt := .dpa a, op := aop, wide := o.s, val := BitVec.ofNat 64 b, born := s.clock,
           writers := [(s.cur, va)] }] }) i 0))

/-- R277, R278, R279: `pref` writes no register; `ldtag` writes the line's tag and sectors; `fewait` holds a true lane until every register
that it names is full. -/
def Sys2Proof.Claims.PrefetchTagAndFullWordsGoOn : Prop :=
  ∀ (s : State) (o : LaneOp) (i space scope aop hint disp : Nat),
    (Claims.OneAccess s o i 0 scope 0 aop hint disp →
      let va := wrap 64 (effAddr s.me (s.me.lane i) o.a 0 disp)
      exec (.pref o) s = .next ((prefetch s.tick s.me va (o.d % 4) hint false).laneDone i (Lane.past 8)) ∧
      ∀ a tso t, s.Drained → s.tick.trans s.me.core (s.ctxOf s.me) va 0 (s.me.lane i).failed.isSome = (s.tick, .ok t tso) →
        (s.me.lane i).gaps i o.d false = [] →
        let writes (u : State) (v : Nat) : State := u.laneDone i fun l => (l.wrOp s.me.depth o.d false v).past 8
        (t = .dpa a → s.snoopNeeded a false = false →
          exec (.ldtag o) s = .next (writes (expose s.tick (some (s.teamOf s.me).launch) a) (s.lineTag a + 16 * tagSectors (s.lineTag a)))) ∧
        (∀ d, t = .host a ∨ (t = .peer d a ∧ s.me.priv = .user ∧ (s.peerCap (s.teamOf s.me).launch d true false).isSome = true) →
          exec (.ldtag o) s = .next (writes s.tick 64))) ∧
    (Claims.OneAccess s o i space scope 0 aop hint disp → space ≠ 0 → s.me.priv = .user →
      let ea := effAddr s.me (s.me.lane i) o.a space disp
      let e := (s.launchOf s.me).e
      exec (.pref o) s = .next ((if 0 ≤ ea ∧ ea < e.cs then prefetch s.tick s.me (e.cb + ea.toNat) (o.d % 4) hint true else s.tick).laneDone i
        (Lane.past 8))) ∧
    (o.a + o.b < 64 → exec (.fewait o) s = .next (s.eachLane fun i l =>
      if l.guard o = false ∨ l.regsGaps i o.a (o.b + 1) = [] then l.past 4 else l.blockedOn (.regs (l.regsGaps i o.a (o.b + 1))))) ∧
    (64 ≤ o.a + o.b → exec (.fewait o) s = .next (illegalRun s false))

/-- The true slot lanes of the run, and those of them whose register `r` is full. -/
def Sys2Proof.Claims.slotRun (s : State) (o : LaneOp) : List Nat := s.myRun.filter fun i => slotTrue o i (s.me.lane i)
def Sys2Proof.Claims.slotFull (s : State) (o : LaneOp) (r : Nat) : List Nat :=
  (Claims.slotRun s o).filter fun i => ((s.me.lane i).gaps i r o.s).isEmpty

/-- The true slot lanes become what `f` gives, those with an empty register `r` wait for it, and the other lanes of the run go on. -/
def Sys2Proof.Claims.slotLane (s : State) (o : LaneOp) (r : Option Nat) (f : Nat → Lane → Lane) : State :=
  s.eachLane fun i l =>
    let gaps : List (Nat × Slot) := match r with
      | some n => l.gaps i n o.s
      | none => []
    if slotTrue o i l = false then l.past 4 else if gaps.isEmpty then f i l else l.blockedOn (.regs gaps)

/-- A lane that waits for a slot, its destinations empty meanwhile, its issue counted (R20, R281, R303). -/
def Sys2Proof.Claims.awaits (ds : List Slot) (op : Nat) (w : Why) (l : Lane) : Lane :=
  { ds.foldl Lane.drain l with st := .blocked w, waited := 0, marked := ds, op := some (l.op.getD op) }

/-- R280, R281, R224: with a FIFO bank entry, `cbput` fills the producer's slot with the true slot lanes' words or waits for a free slot, `cbget`
takes the consumer's slot and brings its words, waits for a filled one, or takes BOUND at a ninth held slot, `cbrel` releases the oldest held
slot or takes BOUND; a word whose entry lacks the permission takes CAP_INVALID; a word with no true slot lane only goes on. -/
def Sys2Proof.Claims.FifoWordsMoveSlots : Prop :=
  ∀ (s : State) (o : LaneOp),
    let g := s.me
    let c := s.cap g o.b
    let cl := clusterOf g.core
    let bank := c.ep 20 16
    let n := Claims.wideBytes o
    let F := s.fifo cl bank
    let room := s.outstanding s.cur < 64
    let some_ := Claims.slotRun s o ≠ []
    let ends (l : Lane) : Lane := { l with failed := none }
    (Claims.slotRun s o = [] → exec (.cbrel o) s = .next (s.eachLane fun _ l => l.past 4) ∧
      (room → exec (.cbput o) s = .next (s.eachLane fun _ l => l.past 4) ∧ exec (.cbget o) s = .next (s.eachLane fun _ l => l.past 4))) ∧
    (some_ → room → c.kind = 6 → c.send = true →
      let full := Claims.slotFull s o o.a
      let bytes : List Byte := (List.range (slotLanes o)).flatMap fun i => natBytes n (if full.elem i then (g.lane i).rdOp g.depth o.a o.s else 0)
      (full ≠ [] → 0 < F.free → exec (.cbput o) s = .next (Claims.slotLane (fifoPut s cl bank bytes) o (some o.a) fun _ l => l.past 4)) ∧
      (full = [] → exec (.cbput o) s = .next (Claims.slotLane s o (some o.a) fun _ l => l)) ∧
      (full ≠ [] → F.free = 0 →
        exec (.cbput o) s = .next (Claims.slotLane s.tick o (some o.a) fun _ l => Claims.awaits [] s.stamp (.free cl bank) l))) ∧
    (some_ → room → c.kind = 6 → c.recv = true →
      let full := Claims.slotFull s o o.d
      let held := g.held.get [] bank
      let eight := 8 ≤ (held.filter fun x => x.1 == cl).length
      (full ≠ [] → ¬ eight → 0 < F.filled →
        let t := ((fifoTake s cl bank).1.modGroup s.cur fun g => { g with held := g.held.set bank (held ++ [(cl, F.cons)]) }).tick
        let word (i : Nat) : Nat := bytesNat (((F.bytes.get [] F.cons).drop (n * i)).take n)
        exec (.cbget o) s = .next (Claims.slotLane
          { t with landing := s.landing ++ full.map fun i =>
              { dst := { group := s.cur, lane := i, slot := (g.lane i).slotOf o.d, pair := o.s }, val := BitVec.ofNat 64 (word i), op := s.stamp } }
          o (some o.d) fun _ l => (l.mark o.d o.s).past 4)) ∧
      (full = [] → exec (.cbget o) s = .next (Claims.slotLane s o (some o.d) fun _ l => l)) ∧
      (full ≠ [] → ¬ eight → F.filled = 0 → exec (.cbget o) s =
        .next (Claims.slotLane s.tick o (some o.d) fun _ l => Claims.awaits (l.opSlots o.d o.s) s.stamp (.filled cl bank) l)) ∧
      (full ≠ [] → eight →
        exec (.cbget o) s = .next (Claims.laneTraps s (Claims.slotLane s o (some o.d) fun _ l => ends l) full .bound 0))) ∧
    (some_ → c.kind = 6 → c.recv = true →
      (∀ slot r, g.held.get [] bank = slot :: r →
        exec (.cbrel o) s = .next ((fifoRelease (s.modGroup s.cur fun g => { g with held := g.held.set bank r }) slot.1 bank slot.2).eachLane
          fun _ l => l.past 4)) ∧
      (g.held.get [] bank = [] →
        exec (.cbrel o) s = .next (Claims.laneTraps s (Claims.slotLane s o none fun _ l => ends l) (Claims.slotRun s o) .bound 0))) ∧
    (some_ → c.kind ≠ 6 ∨ c.recv = false →
      let t := Claims.laneTraps s (Claims.slotLane s o none fun _ l => ends l) (Claims.slotRun s o) .capInvalid o.b
      exec (.cbrel o) s = .next t ∧ (room → exec (.cbget o) s = .next t)) ∧
    (some_ → room → c.kind ≠ 6 ∨ c.send = false →
      exec (.cbput o) s = .next (Claims.laneTraps s (Claims.slotLane s o none fun _ l => ends l) (Claims.slotRun s o) .capInvalid o.b))

/-- R224, R277 to R281: `pref`, `ldtag`, `fewait` and the words on FIFO slots. -/
def Obligations.PrefetchTagFullAndFifoWordsAct : Prop :=
  Claims.PrefetchTagAndFullWordsGoOn ∧ Claims.FifoWordsMoveSlots

/-- R200, R201, R203: a feed of one lane to a pass in the bow asks for its bytes and scales; a read of an element of an owned tile leaves d
empty until the earlier operations of its set have ended. -/
def Obligations.FeedsAndReadsReachTheMatrixEngine : Prop :=
  ∀ (s : State) (o : LaneOp) (i cl k m : Nat), s.myRun = [i] → (s.me.lane i).guard o = true → s.me.mset = some (cl, k, m) →
    let g := s.me
    let l := g.lane i
    let ctx := s.ctxOf g
    (∀ (p : MxOp) (t : Target) (tt : Bool) (u : Target) (ut : Bool), s.outstanding s.cur < 64 → l.gaps i o.a true = [] → l.gaps i o.d true = [] → l.gaps i o.b false = [] →
      let tag := l.rdOp g.depth o.b false
      let va := l.rdOp g.depth o.a true
      let vs := l.rdOp g.depth o.d true
      let gj := (memberGroups p.k (s.mset cl k).count m).length
      let na := 2 * gj * fmtBits p.afmt
      let ns := if Machine.isMx p.afmt then gj else 0
      feedAt (s.mx cl) k (tag / 256) = .pass p → tag < 65536 → tag % 256 < p.m → va % 4 = 0 → inPage va na = true → inPage vs ns = true →
      feedRange s.tick g va na l.failed.isSome = (s.tick, .ok t tt) → feedRange s.tick g vs ns l.failed.isSome = (s.tick, .ok u ut) →
      exec (.mmfeed o) s = .next ((s.tick.tick.modMx cl fun mx => { mx with fetches := mx.fetches ++
        [{ set := k, seq := p.seq, row := tag % 256, member := m, group := s.cur, ctx := ctx, va := va, vs := vs, nbytes := na, nscales := ns,
           tgt := t, stgt := u, op := Claims.opOf s i, no := s.stamp + 1 }] }).laneDone i (Lane.past 4))) ∧
    (let a := l.rdOp g.depth o.a false
     let t := a / 2 ^ 28 % 4
     l.gaps i o.a false = [] → l.gaps i o.d false = [] → a / 2 ^ 9 % 2 ^ 7 = 0 → a / 2 ^ 24 % 16 = 0 → a < 2 ^ 30 →
      (s.tile cl t).owner = some k →
      exec (.mmread o) s = .next (settleReads ((s.modMx cl fun mx => { mx with reads := mx.reads ++
        [(k, mx.nextId, t, 512 * (a / 2 ^ 16 % 256) + a % 512,
          ({ group := s.cur, lane := i, slot := l.slotOf o.d, pair := false } : Dst))] }).laneDone i
            fun l => (l.mark o.d false).past 4) (clusterOf g.core)))

/-! ## Uniform words: arithmetic, control, memory, ordering, teams (R152 to R155, R283 to R288, R365 to R367, R371, R376 to R393) -/

namespace Sys2Proof.Claims

/-- A truth value as a uniform register holds it. -/
def bit (b : Bool) : UWord := if b then 1 else 0

/-- `kalu` (R153): the value of two operands. -/
def kaluWords : List ((UOp → Instr) × (UWord → UWord → UWord)) :=
  [(.kaluAdd, fun a b => a + b), (.kaluSub, fun a b => a - b), (.kaluMul, fun a b => a * b),
   (.kaluMulhu, fun a b => BitVec.ofNat 64 (a.toNat * b.toNat / 2 ^ 64)), (.kaluMulhs, fun a b => BitVec.ofInt 64 (a.toInt * b.toInt / 2 ^ 64)),
   (.kaluAnd, fun a b => a &&& b), (.kaluOr, fun a b => a ||| b), (.kaluXor, fun a b => a ^^^ b),
   (.kaluShl, fun a b => a <<< (b.toNat % 64)), (.kaluShr, fun a b => a >>> (b.toNat % 64)), (.kaluSar, fun a b => a.sshiftRight (b.toNat % 64)),
   (.kaluMin, fun a b => if a.sle b then a else b), (.kaluMax, fun a b => if a.sle b then b else a),
   (.kaluMinu, fun a b => if a ≤ b then a else b), (.kaluMaxu, fun a b => if a ≤ b then b else a),
   (.kaluSlt, fun a b => bit (a.slt b)), (.kaluSltu, fun a b => bit (a.ult b))]

/-- `kalui` (R154): the value of an operand and the sign-extended immediate. -/
def kaluiWords : List ((UOp → Instr) × (UWord → UWord → UWord)) :=
  [(.kaluiAddi, fun a b => a + b), (.kaluiAndi, fun a b => a &&& b), (.kaluiOri, fun a b => a ||| b), (.kaluiXori, fun a b => a ^^^ b),
   (.kaluiSlti, fun a b => bit (a.slt b)), (.kaluiSltiu, fun a b => bit (a.ult b))]

/-- The shifts of `kalui` by imm12[5:0] (R154). -/
def kaluiShifts : List ((UOp → Instr) × (UWord → Nat → UWord)) :=
  [(.kaluiShli, fun a t => a <<< t), (.kaluiShri, fun a t => a >>> t), (.kaluiSari, fun a t => a.sshiftRight t)]

/-- sext(imm12, 64) and sext(imm20 << 12, 64). -/
def low (o : UOp) : UWord := (BitVec.ofNat 12 o.imm12).signExtend 64
def high (o : UOp) : UWord := (BitVec.ofNat 32 (o.imm20 * 2 ^ 12)).signExtend 64

/-- The conditions of `bru` (R53). -/
def bruHolds (cond : Nat) (a b : UWord) : Bool :=
  match cond with
  | 0 => a == b
  | 1 => a != b
  | 2 => a.slt b
  | 3 => b.sle a
  | 4 => a.ult b
  | 5 => b.ule a
  | 6 => a == 0
  | _ => a != 0

/-- PC + 4 × the sign-extended offset of n bits (R51). -/
def jump (pc : Word) (n off : Nat) : Word := pc + 4 * (BitVec.ofNat n off).signExtend 32

/-- The kinds of extension of `kld` (R283): bytes, then the value of a read of those bytes. -/
def kldSize (f3 : Nat) : Nat := if f3 ≤ 1 then 1 else if f3 ≤ 3 then 2 else if f3 ≤ 5 then 4 else 8
def kldValue (f3 v : Nat) : UWord :=
  match f3 with
  | 1 => (BitVec.ofNat 8 v).signExtend 64
  | 3 => (BitVec.ofNat 16 v).signExtend 64
  | 5 => (BitVec.ofNat 32 v).signExtend 64
  | _ => BitVec.ofNat 64 v

/-- The state with a binding added (R287). -/
def bound (s : State) (b : Binding) : State :=
  s.modContext (s.ctxOf s.me) fun c => { c with bindings := c.bindings ++ [b] }

end Sys2Proof.Claims

/-- R152 to R155: in a converged group a uniform arithmetic word writes its value into its uniform register, and the group goes on. -/
def Obligations.UniformWordsWriteTheRuleValue : Prop :=
  ∀ (s : State) (o : UOp), s.Conv →
    (∀ p ∈ Claims.kaluWords, exec (p.1 o) s = .next (s.wroteU o.d (p.2 (s.u o.a) (s.u o.b)))) ∧
    (∀ p ∈ Claims.kaluiWords, exec (p.1 o) s = .next (s.wroteU o.d (p.2 (s.u o.a) (Claims.low o)))) ∧
    (∀ p ∈ Claims.kaluiShifts, exec (p.1 o) s = .next (s.wroteU o.d (p.2 (s.u o.a) (o.imm12 % 64)))) ∧
    exec (.klui o) s = .next (s.wroteU o.d (Claims.high o)) ∧
    exec (.kauipc o) s = .next (s.wroteU o.d (BitVec.ofNat 64 (s.kcode s.me) + s.curPc.setWidth 64 + Claims.high o))

/-- R51, R53, R365: uniform branches move the whole group; `loop` counts down and goes on at zero; a `jur` target that is no multiple of 4
takes ALIGN. -/
def Obligations.UniformBranchesMoveTheGroup : Prop :=
  ∀ (s : State) (o : UOp), s.Conv →
    exec (.bru o) s = .next (s.wentTo (if Claims.bruHolds o.f3 (s.u o.d) (s.u o.a) then Claims.jump s.curPc 12 o.imm12 else s.curPc + 4)) ∧
    exec (.ju o) s = .next (s.wentTo (Claims.jump s.curPc 25 o.off25)) ∧
    ((s.u o.a).toNat % 4 = 0 → exec (.jur o) s = .next (s.wentTo ((s.u o.a).setWidth 32))) ∧
    ((s.u o.a).toNat % 4 ≠ 0 → exec (.jur o) s = .next (groupTrap s s.cur .align ((s.u o.a).toNat % 2 ^ 32))) ∧
    exec (.loop o) s = .next (s.modGroup s.cur fun g =>
      (g.setU o.d (s.u o.d - 1)).movedTo (if s.u o.d = 1 then s.curPc + 4 else Claims.jump s.curPc 12 o.imm12))

/-- R366, R367, R371, R378: `kread` reads a full register of a lane, `kballot` a mask of live lanes, `part` makes a group register (a write
to `g0` is discarded), `yield` gives up the issue until a later cycle. -/
def Obligations.GroupWordsReadLanesAndYield : Prop :=
  ∀ (s : State) (o : UOp), s.Conv →
    (let i := o.imm12 / 64
     let n := o.imm12 % 64
     let v := (s.me.lane i).rdOp s.me.depth n (o.f3 == 2)
     (i < s.me.width → ((s.me.lane i).isExited = true ∨ (s.me.lane i).gaps i n (o.f3 == 2) = []) →
      exec (.kread o) s = .next (s.wroteU o.d (if o.f3 = 1 then (BitVec.ofNat 32 v).signExtend 64 else BitVec.ofNat 64 v))) ∧
     (i < s.me.width → (s.me.lane i).isExited = false → (s.me.lane i).gaps i n (o.f3 == 2) ≠ [] →
      exec (.kread o) s = .next (s.modGroup s.cur fun g => { g with hold := .reg i ((s.me.lane i).opSlots n (o.f3 == 2)) })) ∧
     (s.me.width ≤ i → exec (.kread o) s = .next (groupTrap s s.cur .bound 0))) ∧
    exec (.kballot o) s = .next (s.wroteU o.d (s.me.ballot (o.imm12 % 8))) ∧
    (∀ p i, s.me.lanes.length ≤ 64 → i < s.me.lanes.length →
      (s.me.ballot p).getLsbD i = (!(s.me.lane i).isExited && (s.me.lane i).pred p)) ∧
    (o.d % 8 ≠ 0 → exec (.part o) s = .next (s.modGroup s.cur fun g =>
      ({ g with gregs := g.gregs.set (o.d % 8) { members := g.ballot (o.imm12 / 8 % 8), size := o.imm12 % 8 } } : Group).movedTo (s.curPc + 4))) ∧
    (o.d % 8 = 0 → exec (.part o) s = .next (s.wentTo (s.curPc + 4))) ∧
    exec (.yield o) s = .next (s.modGroup s.cur fun g =>
      { g.movedTo (s.curPc + 4) with age := 0, ageU := 0, hold := .yield (s.clock + o.imm12 + 1) }) ∧
    ((∀ t v x, (s.core s.me.core).loggia = some (t, v, x) → v ≠ s.me.team) → exec (.yieldSwap o) s = .next (s.wentTo (s.curPc + 4))) ∧
    ∀ t x, (s.core s.me.core).loggia = some (t, s.me.team, x) →
      exec (.yieldSwap o) s = .next ((s.wentTo (s.curPc + 4)).modCore s.me.core fun c => { c with loggia := some (t, s.me.team, some 0) })

/-- R283, R284: an aligned uniform access whose page is in the core's TLB, to a good line of device memory that nothing caches or buffers,
loads the extended bytes of the home, or stores its register's low bytes in order; `kldc` reads the constant region. -/
def Obligations.UniformAccessesReachTheirHome : Prop :=
  ∀ (s : State) (o : UOp) (a kind : Nat), s.Conv → s.outstanding s.cur < 64 → s.Drained →
    let g := s.me
    let who := some (s.teamOf g).launch
    let n := Claims.kldSize o.f3
    let e := (s.launchOf g).e
    let va := (s.u o.a + Claims.low o).toNat
    let off : Int := (s.u o.a).toNat + (Claims.low o).toInt
    let at_ (va : Nat) : Prop := s.tick.trans g.core (s.ctxOf g) va kind g.failed.isSome = (s.tick, .ok (.dpa a) false)
    a % n = 0 → s.lineClass a = 0 → s.snoopNeeded a true = false →
    (∀ c ∈ s.caches, c.dpa = lineOf a → c.holder ≠ g.core ∧ c.holder ≠ ccHolder (clusterOf g.core)) →
    (kind = 0 → va % n = 0 → at_ va →
      exec (.kld o) s = .next ((readLine s.tick who g.core (s.ctxOf g) va a n false false true true false).1.wroteU o.d
        (Claims.kldValue o.f3 (bytesNat (s.bytes a n))))) ∧
    (kind = 1 → va % n = 0 → at_ va → (∀ st ∈ s.stores, st.op ≠ s.stamp) →
      let bs := natBytes n ((s.u o.d).toNat % 2 ^ (8 * n))
      exec (.kst o) s = .next (({ storeL1 s.tick g.core a bs false with
        stores := s.stores ++ [{ core := g.core, group := s.cur, launch := (s.teamOf g).launch, dpa := a, bytes := spread a bs,
                                 op := s.stamp }] } : State).wentTo (s.curPc + 4))) ∧
    (kind = 0 → g.priv = .user → 0 ≤ off → off + n ≤ e.cs → off % n = 0 → e.cb + e.cs < 2 ^ 64 → at_ (e.cb + off.toNat) →
      exec (.kldc o) s = .next ((readLine s.tick who g.core (s.ctxOf g) (e.cb + off.toNat) a n false true true true false).1.wroteU o.d
        (Claims.kldValue o.f3 (bytesNat (s.bytes a n)))))

/-- R247, R285, R286: with nothing to perform a release goes on at once; an acquire of device scope or wider drops every copy of the core
and of its cluster that it covers; `fence` does both, the release first. -/
def Sys2Proof.Claims.OrderingWordsReleaseAndAcquire : Prop :=
  ∀ (s : State) (o : UOp), s.Conv →
    let ctx := s.ctxOf s.me
    let acq (x : ObjSet) : State := acquire s s.me.core ctx o.f3 x
    exec (.acq o) s = .next ((acq (s.objectAt ctx (s.u o.a).toNat)).wentTo (s.curPc + 4)) ∧
    (s.Drained → exec (.rel o) s = .next (s.wentTo (s.curPc + 4))) ∧
    ((2 ≤ o.imm12 % 4 → s.Drained) →
      exec (.fence o) s = .next ((if o.imm12 % 2 = 1 then acq (.obj 0) else s).wentTo (s.curPc + 4))) ∧
    ∀ x, 3 ≤ o.f3 → (acq x).mem = s.mem ∧
      ∀ c, c ∈ (acq x).caches ↔ c ∈ s.caches ∧
        ¬((c.holder = s.me.core ∨ c.holder = ccHolder (clusterOf s.me.core)) ∧ s.covers ctx x c = true)

/-- R287, R288: `bind` adds a binding of its context, or writes the code of the first check that fails; `unbind` removes the bindings of an
object, or the one at a base, and counts them. -/
def Sys2Proof.Claims.BindingsAreAddedAndRemoved : Prop :=
  ∀ (s : State) (o : UOp), s.Conv →
    let ctx := s.ctxOf s.me
    let bs := (s.context ctx).bindings
    let obj := (s.u o.a).toNat
    let base := (s.u o.b).toNat
    let len := (s.u o.d).toNat
    let badObj : Prop := obj = 0 ∨ obj % 8 ≠ 0
    let badRange : Prop := base % 128 ≠ 0 ∨ len = 0 ∨ len % 128 ≠ 0 ∨ 2 ^ 48 < len
    let clash : Prop := ∃ b ∈ bs, base < b.base + b.len ∧ b.base < base + len
    let mine (b : Binding) : Bool := b.obj == obj && (base == 0 || b.base == base)
    (badObj → exec (.bind o) s = .next (s.wroteU o.d 1)) ∧
    (¬badObj → badRange → exec (.bind o) s = .next (s.wroteU o.d 2)) ∧
    (¬badObj → ¬badRange → clash → exec (.bind o) s = .next (s.wroteU o.d 3)) ∧
    (¬badObj → ¬badRange → ¬clash → 256 ≤ bs.length → exec (.bind o) s = .next (s.wroteU o.d 4)) ∧
    (¬badObj → ¬badRange → ¬clash → bs.length < 256 →
      exec (.bind o) s = .next ((Claims.bound s { obj := obj, base := base, len := len }).wroteU o.d 0)) ∧
    exec (.unbind o) s = .next ((s.modContext ctx fun c => { c with bindings := c.bindings.filter fun b => !mine b }).wroteU o.d
      (BitVec.ofNat 64 (bs.filter mine).length))

/-- R247, R285 to R288: releases, acquires, fences and bindings. -/
def Obligations.OrderingAndBindingWordsAct : Prop :=
  Claims.OrderingWordsReleaseAndAcquire ∧ Claims.BindingsAreAddedAndRemoved

/-- R376: the last live group of a team to arrive at a barrier completes its generation and goes on; an earlier one is held, and goes on when its
generation has completed; `bar.arr` arrives without waiting. -/
def Obligations.BarriersHoldUntilTheTeamArrives : Prop :=
  ∀ (s : State) (o : UOp), s.Conv → s.cur < s.groups.length → s.me.team < s.teams.length →
    let b := o.imm12 % 16
    let t := s.me.team
    let bar := (s.team t).bars.get (0, []) b
    let arr := if bar.2.elem s.cur then bar.2 else bar.2 ++ [s.cur]
    let at_ (s : State) (x : Nat × List Nat) : State := s.modTeam t fun tm => { tm with bars := tm.bars.set b x }
    let all : Prop := ∀ g ∈ (s.team t).groups, (s.group g).ended = true ∨ g ∈ arr
    (s.me.barAt = none →
      (all → exec (.barSync o) s = .next ((at_ (at_ s (bar.1, arr)) (bar.1 + 1, [])).wentTo (s.curPc + 4))) ∧
      (¬all → exec (.barSync o) s = .next ((at_ s (bar.1, arr)).modGroup s.cur fun g => { g with barAt := some (b, bar.1), hold := .bar }))) ∧
    (∀ gen, s.me.barAt = some (b, gen) → bar.2 = [] →
      (gen < bar.1 → exec (.barSync o) s = .next ((s.modGroup s.cur fun g => { g with barAt := none }).wentTo (s.curPc + 4))) ∧
      (bar.1 ≤ gen → exec (.barSync o) s = .next (s.modGroup s.cur fun g => { g with hold := .bar }))) ∧
    (s.Drained →
      (all → exec (.barArr o) s = .next ((at_ (at_ s (bar.1, arr)) (bar.1 + 1, [])).wentTo (s.curPc + 4))) ∧
      (¬all → exec (.barArr o) s = .next ((at_ s (bar.1, arr)).wentTo (s.curPc + 4))))

/-- R30, R349, R377: `spawn` makes a group with the lowest free number, whose lanes start at the entry with the registers that R30 gives,
and writes its number; it writes code 2 for an unaligned entry and code 1 when there is no room. -/
def Sys2Proof.Claims.SpawnMakesOneGroup : Prop :=
  ∀ (s : State) (o : UOp), s.Conv → s.cur < s.groups.length →
    let g := s.me
    let tm := s.teamOf g
    let entry := (s.u o.a).setWidth 32
    let live := tm.groups.filter fun x => !(s.group x).ended
    let fits : Prop := tm.isSup = false ∧ live.length < 16 ∧ (s.coreGroups g.core).length < 32 ∧
      s.regsUsed g.core + g.width * (8 + g.depth) ≤ 196608
    (entry.toNat % 4 ≠ 0 → exec (.spawn o) s = .next (s.wroteU o.d (BitVec.ofNat 64 (2 ^ 63 + 2)))) ∧
    (entry.toNat % 4 = 0 → ¬fits → exec (.spawn o) s = .next (s.wroteU o.d (BitVec.ofNat 64 (2 ^ 63 + 1)))) ∧
    (entry.toNat % 4 = 0 → fits → ∃ kg, kg < 16 ∧ (∀ x ∈ live, (s.group x).kgrp ≠ kg) ∧ (∀ m < kg, ∃ x ∈ live, (s.group x).kgrp = m) ∧
      exec (.spawn o) s = .next ((addGroup s g.team (newGroup s g.team kg g.core entry
        (fun i n => (g.lane i).globals.get 0 n) fun n => g.uregs.get 0 n)).wroteU o.d (BitVec.ofNat 64 kg)))

/-- R30: the lanes of a new group: active at its entry, every register full, v0 the identity and v1 the lane, v2 to v7 as given, window and
call depth 0, predicates clear; its uniform registers k0 to k7 as given, the others 0. -/
def Sys2Proof.Claims.NewGroupsHoldTheStartValues : Prop :=
  ∀ (s : State) (t kgrp core : Nat) (pc : Word) (v : Nat → Nat → Word) (k : Nat → UWord) (i n : Nat),
    let e := (s.launch (s.team t).launch).e
    let g := newGroup s t kgrp core pc v k
    let l := g.lane i
    i < e.width →
    g.lanes.length = e.width ∧ g.width = e.width ∧ g.depth = e.depth ∧ g.team = t ∧ g.kgrp = kgrp ∧ g.core = core ∧ g.resident = true ∧
    g.flags = 0 ∧ g.qcntWord = 0 ∧ g.cvsub = 0 ∧ g.srseed = 0 ∧ g.bndidx = 0 ∧ g.records = [] ∧ g.greg n = g.greg 0 ∧
    g.mxtol.get (mxtolReset n) n = mxtolReset n ∧
    l.st = .active ∧ l.pc = pc ∧ l.w = 0 ∧ l.cdep = 0 ∧ l.rb = 0 ∧ l.preds = 0 ∧ l.empty = [] ∧ l.fifos = [] ∧ l.pulls = [] ∧
    l.globals.get 0 0 = BitVec.ofNat 32 (kgrp * e.width + i) ∧ l.globals.get 0 1 = BitVec.ofNat 32 i ∧
    (2 ≤ n → n < 8 → l.globals.get 0 n = v i n) ∧ l.slots.get 0 n = 0 ∧
    g.uregs.get 0 n = if n < 8 then k n else 0

/-- R30, R349, R377: `spawn`, and the registers of a new group. -/
def Obligations.SpawnMakesAGroupOfStartValues : Prop :=
  Claims.SpawnMakesOneGroup ∧ Claims.NewGroupsHoldTheStartValues

/-- R385 to R393: `gang.join` attaches its team and goes on when the gang forms, or writes the code of the check that fails; `gang.detach`,
`gang.sync` and `gang.query` act for an attached member. -/
def Sys2Proof.Claims.GangWordsJoinDetachAndSync : Prop :=
  ∀ (s : State) (o : UOp) (k m : Nat), s.Conv →
    let g := s.me
    let ga := s.gangs.getD k {}
    let l := o.imm12 % 512
    let code (c : Nat) : State := s.wroteU o.d (BitVec.ofNat 64 (2 ^ 63 + c))
    (s.gangOf g.team = none → exec (.gangJoin o) s = .next (code 0x30) ∧ exec (.gangDetach o) s = .next (code 0x30) ∧
      exec (.gangSync o) s = .next (groupTrap s s.cur .perm 0)) ∧
    exec (.gangQuery o) s = .next (s.wroteU o.d (gangInfo s s.cur)) ∧
    (s.gangOf g.team = some (k, m) →
      (let bad : Prop := l = 0 ∨ ga.n < l ∨ ga.n % l ≠ 0
       let other : Prop := ga.rowLen ≠ 0 ∧ ga.rowLen ≠ l
       let told := if (s.teamOf g).attached then s else
         reportGang ((s.modTeam g.team fun tm => { tm with attached := true }).modGang k fun x => { x with rowLen := l }) k g.team 17 l
       let t := told.modGroup s.cur fun g => { g with joinedGang := true }
       let formed := t.modGang k fun x => { x with formed := true }
       let everyone : Prop := (∀ x ∈ t.members k, (t.team x).attached = true) ∧ ga.n ≤ (t.members k).length + ga.away.length
       (bad → exec (.gangJoin o) s = .next (code 0x31)) ∧ (¬bad → other → exec (.gangJoin o) s = .next (code 0x32)) ∧
       (¬bad → ¬other → ga.depEarly = true → exec (.gangJoin o) s = .next
         ((s.modTeam g.team fun tm => { tm with attached := false }).wroteU o.d (BitVec.ofNat 64 (2 ^ 63 + 0x34)))) ∧
       (¬bad → ¬other → ga.depEarly = false → (ga.formed = true ∨ everyone) →
         exec (.gangJoin o) s = .next (formed.wroteU o.d (gangInfo formed s.cur))) ∧
       (¬bad → ¬other → ga.depEarly = false → ga.formed = false → ¬everyone →
         exec (.gangJoin o) s = .next (t.modGroup s.cur fun g => { g with hold := .gang }))) ∧
      ((s.teamOf g).attached = true → s.Drained →
        exec (.gangDetach o) s = .next (gangSweep ((s.modGroup s.cur fun g => { g with detached := true }).wroteU o.d 0) k) ∧
        (g.detached = false → g.syncAt = none →
          let n := g.syncs + 1
          let t := s.modGroup s.cur fun x => { x with syncs := n, syncAt := some n }
          let told := tellReach t k
          let all : Prop := (∀ x ∈ t.members k, (t.team x).attached = false ∨ t.teamDetached x = true ∨ t.teamReached x n = true) ∧
            (∀ y ∈ ga.away, y ∈ ga.gone ∨ y ∈ ga.awayDet ∨ n ≤ ga.reached.get 0 y) ∧
            ∃ x ∈ t.members k, ∃ y ∈ (t.team x).groups, n ≤ (t.group y).syncs
          (ga.syncDone = g.syncs → all → exec (.gangSync o) s = .next ((acquire ((told.modGang k fun x => { x with syncDone := n }).modGroup s.cur
            fun g => { g with syncAt := none }) g.core (s.ctxOf g) 5 (.obj 0)).wentTo (s.curPc + 4))) ∧
          (ga.syncDone = g.syncs → ¬all → exec (.gangSync o) s = .next (told.modGroup s.cur fun g => { g with hold := .sync })))) ∧
      ((s.teamOf g).attached = true → g.detached = false → ∀ n, g.syncAt = some n →
        (n ≤ ga.syncDone → exec (.gangSync o) s = .next ((acquire (s.modGroup s.cur fun g => { g with syncAt := none }) g.core (s.ctxOf g) 5
          (.obj 0)).wentTo (s.curPc + 4))) ∧
        (ga.syncDone < n → exec (.gangSync o) s = .next (s.modGroup s.cur fun g => { g with hold := .sync }))) ∧
      ((s.teamOf g).attached = true → g.detached = true → exec (.gangSync o) s = .next (groupTrap s s.cur .perm 0)) ∧
      ((s.teamOf g).attached = false → exec (.gangDetach o) s = .next (code 0x35) ∧ exec (.gangSync o) s = .next (groupTrap s s.cur .perm 0)))

/-- R388: `winmap.set` gives a member its slice of a size that is a power of two from 4 KiB to 1 MiB, the same for every member, inside its
scratch; `winmap.addr` gives the window offset of a member's byte, or the refusal value. -/
def Sys2Proof.Claims.WindowWordsMapSlices : Prop :=
  ∀ (s : State) (o : UOp) (k m : Nat), s.Conv →
    let a := (s.u o.a).toNat
    let b := (s.u o.b).toNat
    let ga := s.gangs.getD k {}
    let code (c : Nat) : State := s.wroteU o.d (BitVec.ofNat 64 (2 ^ 63 + c))
    let size : Prop := (∃ j, 12 ≤ j ∧ j ≤ 20 ∧ b = 2 ^ j) ∧ (ga.zsize = 0 ∨ b = ga.zsize)
    let place : Prop := a % b = 0 ∧ a + b ≤ (s.launchOf s.me).e.scratch
    (s.gangOf s.me.team = none → exec (.winmapSet o) s = .next (code 0x30) ∧ exec (.winmapAddr o) s = .next (code 0)) ∧
    (s.gangOf s.me.team = some (k, m) →
      (¬size → exec (.winmapSet o) s = .next (code 0x36)) ∧ (size → ¬place → exec (.winmapSet o) s = .next (code 0x37)) ∧
      (size → place → (s.teamOf s.me).slice ≠ none → exec (.winmapSet o) s = .next (code 0x38)) ∧
      (size → place → (s.teamOf s.me).slice = none → exec (.winmapSet o) s = .next
        ((reportGang ((s.modTeam s.me.team fun tm => { tm with slice := some a }).modGang k fun x => { x with zsize := b }) k s.me.team 18
          b).wroteU o.d 0)) ∧
      (ga.zsize ≠ 0 → a < ga.n → b < ga.zsize → exec (.winmapAddr o) s = .next (s.wroteU o.d (BitVec.ofNat 64 (a * ga.zsize + b)))) ∧
      ((ga.zsize = 0 ∨ ga.n ≤ a ∨ ga.zsize ≤ b) → exec (.winmapAddr o) s = .next (code 0)))

/-- R385 to R393: the words on gangs and on their windows. -/
def Obligations.GangAndWindowWordsAct : Prop :=
  Claims.GangWordsJoinDetachAndSync ∧ Claims.WindowWordsMapSlices

/-! ## System words, and posts to the engines (R26 to R28, R185 to R205, R289 to R291, R428 to R447) -/

namespace Sys2Proof.Claims

/-- A refusal code in a uniform register: bit 63 and the code. -/
def refusal (c : Nat) : UWord := BitVec.ofNat 64 (2 ^ 63 + c)

/-- The writes of a control register (R428): the new value from the old and ka. -/
def csrWrites : List ((UOp → Instr) × (UWord → UWord → UWord)) :=
  [(.csrw, fun _ a => a), (.csrwSet, fun v a => v ||| a), (.csrwClr, fun v a => v &&& ~~~a)]

/-- The supervisor words and the words that return from a trap (R402, R436, R439, R445). -/
def supervisorWords : List (UOp → Instr) :=
  [.capset, .rteReplay, .rteSkip, .rteKill, .rteEnd, .scantStart, .scantChunk, .scantCheck, .scantEnd]

/-- The queue that a matrix post names, and the operation it makes (R197). -/
def matrixPosts : List ((UOp → Instr) × (UOp → Nat) × Bool × (State → UOp → MxOp)) :=
  let block (k : Nat) (s : State) (o : UOp) : MxOp := { set := 0, seq := 0, group := 0, kind := k, blk := (s.u o.a).toNat }
  [(.mmpost, fun o => o.f % 8, true, block 0), (.mmldb, fun o => o.f % 8, true, block 1),
   (.mmdrain, fun o => o.f % 8, true, block 3), (.mmretry, fun o => o.f % 8, true, block 4),
   (.mmzero, fun o => o.imm12 % 8, false, fun _ o => { set := 0, seq := 0, group := 0, kind := 2, tile := o.imm12 / 8 % 4 }),
   (.mchkfixAuto, fun o => o.f % 8, false, fun s o => { block 5 s o with tile := (s.u o.a).toNat % 4 }),
   (.mchkfixVal, fun o => o.f % 8, false, fun s o =>
     { block 6 s o with tile := (s.u o.a).toNat % 4, val := (s.u o.b).setWidth 32 })]

/-- The posts to the transfer and collective engines: engine kind and IDX (R289). -/
def enginePosts : List ((UOp → Instr) × Nat × (State → UOp → Option UWord)) :=
  [(.xpost, 0, fun _ _ => none), (.xgath, 0, fun s o => some (s.u o.b)), (.cpost, 1, fun _ _ => none)]

/-- One more outstanding post of queue n (R27). -/
def counted (s : State) (n : Nat) : State := s.modGroup s.cur fun g => { g with qcnt := g.qcnt.set n (g.qcnt.get 0 n + 1) }

end Sys2Proof.Claims

/-- R28, R64, R402, R428, R456: a supervisor word in a user group takes PRIV; so does a control register out of reach, or a write of a
read-only one; an undefined number is ILLEGAL; a uniform word waits while a lane is blocked, and else takes UNIFORM_DIVERGED. -/
def Obligations.PrivilegeAndDivergenceTrap : Prop :=
  ∀ (s : State) (o : UOp),
    (∀ p ∈ Claims.supervisorWords, s.Conv → s.me.priv = .user → exec (p o) s = .next (groupTrap s s.cur .priv 0)) ∧
    (∀ p ∈ Instr.csrr :: Claims.csrWrites.map (fun x => x.1),
      (csrRead s s.cur o.imm12 = none →
        exec (p o) s = .next (takeTrap s s.cur .illegal s.curPc false true (s.myRun.map fun i => (i, 0)))) ∧
      (s.Conv → csrRead s s.cur o.imm12 ≠ none → (s.me.priv = .user ∧ 0x800 ≤ o.imm12 ∨ 0xC00 ≤ o.imm12) →
        exec (p o) s = .next (groupTrap s s.cur .priv 0))) ∧
    (∀ p ∈ Claims.csrWrites, s.Conv → csrRead s s.cur o.imm12 ≠ none → o.imm12 < 0x400 → exec (p.1 o) s = .next (groupTrap s s.cur .priv 0)) ∧
    ∀ p ∈ Claims.supervisorWords ++ [.kaluAdd, .bru, .ju, .acq, .rel, .barSync, .spawn, .trap, .mmwait, .qwait, .seed, .cancel],
      ¬s.Conv →
        ((∃ l ∈ s.me.lanes, l.isBlocked = true) → exec (p o) s = .next s) ∧
        ((∀ l ∈ s.me.lanes, l.isBlocked = false) → exec (p o) s = .next
          (takeTrap s s.cur .uniformDiverged s.curPc false true (s.myRun.map fun i => (i, 0))))

/-- R28, R116, R193, R428 to R435: `csrr` writes a register's value, and a read of REGVAL sets FE; a write form writes ka, or sets or clears its
bits; the writable fields of a group's own registers read back. -/
def Obligations.ControlRegistersReadAndWrite : Prop :=
  ∀ (s : State) (o : UOp) (v : UWord), s.Conv → csrRead s s.cur o.imm12 = some v → o.imm12 < 0xC00 → (s.me.priv = .user → o.imm12 < 0x800) →
    (o.imm12 ≠ 0x806 → exec (.csrr o) s = .next (s.wroteU o.d v)) ∧
    (o.imm12 = 0x806 → exec (.csrr o) s = .next
      (({ s.modCore s.me.core fun c => { c with regFe := (s.regSel s.me.core).2.1 } with draw := s.draw + 1 } : State).wroteU o.d v)) ∧
    (∀ p ∈ Claims.csrWrites, 0x400 ≤ o.imm12 → o.imm12 ≠ 0x850 →
      exec (p.1 o) s = .next ((csrWrite s s.cur o.imm12 (p.2 v (s.u o.a))).wentTo (s.curPc + 4))) ∧
    ∀ (g : Nat) (x : UWord), g < s.groups.length → ∀ p ∈ [(0x410, (0x1FF : UWord)), (0x411, -1), (0x412, -1), (0x520, 0x3F), (0x500, 0x1FFFFFF)],
      csrRead (csrWrite s g p.1 x) g p.1 = some (x &&& p.2)

/-- R114, R340, R439, R440, R444: `seed` loads the named generator from SRSEED; `capset` replaces an entry of the served team's launch and writes the
old one; `cancel` of a counter of the context cancels it and writes its state. -/
def Obligations.SeedCapsetAndCancelAct : Prop :=
  ∀ (s : State) (o : UOp), s.Conv →
    let g := s.me
    let core := g.core
    let goes (t : State) : State := t.wentTo (s.curPc + 4)
    (o.f = 0 → exec (.seed o) s = .next (goes (s.modCore core fun c => { c with gen := some (genLoad g.srseed s.kdev 0 core) }))) ∧
    (o.f = 1 → exec (.seed o) s = .next (goes (s.modCluster (core / 4) fun c => { c with genX := some (genLoad g.srseed s.kdev 1 (core / 4)) }))) ∧
    (o.f = 2 → exec (.seed o) s = .next (goes (s.modCluster (core / 4) fun c => { c with genD := some (genLoad g.srseed s.kdev 2 (core / 4)) }))) ∧
    (o.f = 3 → exec (.seed o) s = .next (goes (s.modDie (core / 96) fun d => { d with genC := some (genLoad g.srseed s.kdev 3 (core / 96)) }))) ∧
    (let l := (s.team (s.served s.cur).1).launch
     let n := o.f % 64
     let c := Cap.load (s.u o.a) 0
     g.priv = .supervisor → c.kind ≠ 6 →
      exec (.capset o) s = .next ((s.modLaunch l fun la => { la with caps := la.caps.set n c }).wroteU o.d ((s.launch l).caps.get {} n).lo)) ∧
    (let c := s.counter (s.u o.a).toNat
     ((s.u o.a).toNat < 65536 → c.ctx = s.ctxOf g → c.state ≤ 3 →
      exec (.cancel o) s = .next (cancel (s.wroteU o.d (BitVec.ofNat 64 c.state)) (s.u o.a).toNat)) ∧
     ((65536 ≤ (s.u o.a).toNat ∨ c.ctx ≠ s.ctxOf g) → exec (.cancel o) s = .next (s.wroteU o.d (Claims.refusal 1))))

/-- R436, R461: `rte.replay`, `rte.skip` and `rte.kill` resume the lanes that TRAPLANES selects of the selected record, at TRAPPC, after the word,
or by an exit; the emptied record goes; `rte.end` enters the handler for the served team's oldest record not yet entered, or frees the slot. That the
lanes resumed leave TRAPLANES, and that `rte.end` takes the served team's records alone, are the model's readings (log entries 86, 93). -/
def Obligations.ReturnsFromATrapResumeLanes : Prop :=
  ∀ (s : State) (o : UOp) (gid : Nat) (r : Record), s.Conv → s.me.priv = .supervisor →
    let core := s.me.core
    let c := s.core core
    let lanes := lanesOf (r.lanes &&& c.trapLanes)
    (∀ p ∈ [(Instr.rteReplay, 0), (Instr.rteSkip, 1), (Instr.rteKill, 2)],
      (s.selRecord core = none ∨ c.trapLanes = 0 → exec (p.1 o) s = .next (s.wroteU o.d (Claims.refusal 1))) ∧
      (s.selRecord core = some (gid, r) → c.trapLanes ≠ 0 → exec (p.1 o) s = .next ((retrap (resume s gid c.trapRec p.2 lanes c.trapPc) core r lanes).wroteU o.d 0))) ∧
    (let t := ((s.wroteU o.d 0).modGroup s.cur fun g => { g with resident := false }).modCore core fun c => { c with serves := none }
     ((c.serves = none ∨ t.nextRecord core c.serves = none) → exec (.rteEnd o) s = .next t) ∧
     ∀ tm g k, c.serves = some tm → t.nextRecord core (some tm) = some (g, k) →
      exec (.rteEnd o) s = .next (enterRecord t core g k) ∧ (t.group g).team = tm ∧ (t.group g).core = core ∧
      ∃ x, (t.group g).records[k]? = some x ∧ x.entered = false ∧
        ∀ (g' k' : Nat) (y : Record), g' < t.groups.length → (t.group g').team = tm → (t.group g').core = core → (t.group g').resident = true →
          (t.group g').ended = false → (t.group g').priv = .user → (t.group g').records[k']? = some y → y.entered = false → x.age ≤ y.age) ∧
    (let left := r.lanes &&& ~~~ maskOf lanes
     left ≠ 0 → retrap s core r lanes = s.modCore core fun c => { c with trapLanes := c.trapLanes &&& r.lanes &&& ~~~ maskOf lanes }) ∧
    ∀ (k act : Nat) (ls : List Nat) (pc : Word), gid < s.groups.length → (s.group gid).records[k]? = some r → r.cause ≠ .cancel → act < 2 →
      let t := resume s gid k act ls pc
      (∀ i < (s.group gid).lanes.length, (t.group gid).lane i = if i ∈ ls then
        { (s.group gid).lane i with st := .active, pc := if act = 0 then pc else r.pc + (if r.ext then 8 else 4) } else (s.group gid).lane i) ∧
      (r.lanes &&& ~~~ maskOf ls = 0 → (t.group gid).records = (s.group gid).records.eraseIdx k) ∧
      ∀ j, j ≠ gid → t.group j = s.group j

/-- R445 to R447: a scan word names another mapped core; `start` claims an empty one, `chunk` runs the next of 20 chunks, `check` compares the
signature after the last, `end` releases the claim or asks for the core's removal; a reserved bit of ka is ILLEGAL. -/
def Obligations.ScanWordsClaimAndCheckACore : Prop :=
  ∀ (s : State) (o : UOp), s.Conv → s.me.priv = .supervisor →
    let v := (s.u o.a).toNat
    let t := v % 512
    let me := s.me.core
    let c := s.core t
    let code (n : Nat) : State := s.wroteU o.d (Claims.refusal n)
    (v < 512 →
      ((t = me ∨ s.mappedCore (dieOf me) t = false) → exec (.scantStart o) s = .next (code 7)) ∧
      (t ≠ me → s.mappedCore (dieOf me) t = true →
        ((s.coreGroups t ≠ [] ∨ c.loggia ≠ none ∨ c.claimed ≠ none ∨ s.beingRemoved t = true) → exec (.scantStart o) s = .next (code 1)) ∧
        (s.coreGroups t = [] → c.loggia = none → c.claimed = none → s.beingRemoved t = false →
          exec (.scantStart o) s = .next ((s.modCore t fun c => { c with claimed := some me, next := 0, scansig := 0, mismatch := false }).wroteU
            o.d 0))) ∧
      (s.claims t = false → exec (.scantCheck o) s = .next (code 2)) ∧
      (s.claims t = true → c.next < 20 → exec (.scantCheck o) s = .next (code 5)) ∧
      (s.claims t = true → 20 ≤ c.next →
        let bad := c.scansig != c.scanexp
        exec (.scantCheck o) s = .next ((s.modCore t fun c => { c with mismatch := bad }).wroteU o.d (Claims.bit bad)))) ∧
    (let n := v / 2 ^ 16 % 32
     v % 65536 < 512 → v < 2 ^ 21 →
      (s.claims t = false → exec (.scantChunk o) s = .next (code 2)) ∧
      (s.claims t = true → (n ≠ c.next ∨ 19 < n) → exec (.scantChunk o) s = .next (code 3)) ∧
      (s.claims t = true → n = c.next → n ≤ 19 →
        (s.urgent t = true → exec (.scantChunk o) s = .next (code 4)) ∧
        (s.urgent t = false →
          let held := (s.modCore t fun k => { k with chunk := some n, chunkBy := some (s.cur, o.d) }).modGroup s.cur fun g => { g with hold := .scan t }
          exec (.scantChunk o) s = .next held ∧
          ∃ u, exec (.scanChunkComplete t) held = .next u ∧ (u.core t).chunk = none ∧ (u.core t).next = n + 1 ∧
            (s.cur < s.groups.length → s.me.hold = .none → s.me.failed = none → u.group s.cur = (s.wroteU o.d 0).group s.cur)))) ∧
    (let freed := s.modCore t fun c => { c with claimed := none, next := 0, scansig := 0, chunk := none }
     (v < 512 → s.claims t = false → exec (.scantEnd o) s = .next (code 2)) ∧
     (v < 512 → s.claims t = true → exec (.scantEnd o) s = .next (freed.wroteU o.d 0)) ∧
     (v = 2 ^ 24 + t → s.claims t = true →
      (c.mismatch = false → exec (.scantEnd o) s = .next (freed.wroteU o.d (Claims.refusal 6))) ∧
      (c.mismatch = true → exec (.scantEnd o) s = .next ((requestRemoval freed (dieOf t) t).wroteU o.d 1)))) ∧
    (v % 1024 / 512 = 1 → ∀ p ∈ [Instr.scantStart, .scantChunk, .scantCheck, .scantEnd], exec (p o) s = .next (groupTrap s s.cur .illegal 0))

/-- R185 to R187, R196: a group joins the set of its key as the next member, or makes it in the lowest free place, and gets its number; it leaves
it; without a bound queue a join takes CAP_INVALID. -/
def Obligations.ConveningSetsGainAndLoseMembers : Prop :=
  ∀ (s : State) (o : UOp) (k : Nat), s.Conv →
    let g := s.me
    let n := o.imm12 % 8
    let c := o.imm12 / 8 % 8 + 1
    let cl := clusterOf g.core
    let l := (s.teamOf g).launch
    let key := s.u o.a
    let code (x : Nat) : State := s.wroteU o.d (Claims.refusal x)
    let join (t : State) (i : Nat) : State :=
      ((t.modSet cl k fun st => { st with joined := i + 1, members := st.members.set i s.cur }).modGroup s.cur fun g =>
        { g with mset := some (cl, k, i) }).wroteU o.d (BitVec.ofNat 64 ((c - 1) * 8 + i))
    ((s.cap g n).queue 2 = false → exec (.mmconvJoin o) s = .next (groupTrap s s.cur .capInvalid n)) ∧
    ((s.cap g n).queue 2 = true →
      (g.mset ≠ none → exec (.mmconvJoin o) s = .next (code 0x20)) ∧
      (g.mset = none → findSet (s.mx cl) l key = some k →
        let st := s.mset cl k
        (st.count ≠ c → exec (.mmconvJoin o) s = .next (code 0x22)) ∧
        (st.count = c → (st.joined = c ∨ st.broken = true) → exec (.mmconvJoin o) s = .next (code 0x21)) ∧
        (st.count = c → st.joined ≠ c → st.broken = false → st.queue ≠ n → exec (.mmconvJoin o) s = .next (code 0x26)) ∧
        (st.count = c → st.joined ≠ c → st.broken = false → st.queue = n → exec (.mmconvJoin o) s = .next (join s st.joined))) ∧
      (g.mset = none → findSet (s.mx cl) l key = none →
        ((∀ j < 8, ((s.mx cl).sets.find j).isSome = true) → exec (.mmconvJoin o) s = .next (code 0x23)) ∧
        (k < 8 → (s.mx cl).sets.find k = none → (∀ j < k, ((s.mx cl).sets.find j).isSome = true) →
          exec (.mmconvJoin o) s = .next (join (s.modSet cl k fun _ => { launch := l, key := key, count := c, queue := n }) 0)))) ∧
    (g.mset = none → exec (.mmconvLeave o) s = .next (code 0x24)) ∧
    ∀ cl i, g.mset = some (cl, k, i) → exec (.mmconvLeave o) s = .next ((leaveSet s s.cur).wroteU o.d 0)

/-- R27, R186, R187, R197, R259: a post of the elected member of a set enters the reservation table and writes its ticket; the refusals come in
the rule's order; a full queue or table stalls issue. -/
def Obligations.MatrixPostsEnterTheReservationTable : Prop :=
  ∀ p ∈ Claims.matrixPosts, ∀ (s : State) (o : UOp), s.Conv →
    let n := p.2.1 o
    let code (x : Nat) : State := s.wroteU o.d (Claims.refusal x)
    ((s.cap s.me n).queue 2 = false → exec (p.1 o) s = .next (groupTrap s s.cur .capInvalid n)) ∧
    ((s.cap s.me n).queue 2 = true → s.me.mset = none → exec (p.1 o) s = .next (code 0x24)) ∧
    ∀ cl k m, (s.cap s.me n).queue 2 = true → s.me.mset = some (cl, k, m) →
      let st := s.mset cl k
      let mx := s.mx cl
      let op := p.2.2.2 s o
      let odd : Prop := p.2.2.1 = true ∧ (s.u o.a).toNat % 256 ≠ 0
      (st.elected ≠ some m → exec (p.1 o) s = .next (code 0x25)) ∧
      (st.elected = some m → st.queue ≠ n → exec (p.1 o) s = .next (code 0x26)) ∧
      (st.elected = some m → st.queue = n → odd → exec (p.1 o) s = .next (code 0x27)) ∧
      (st.elected = some m → st.queue = n → ¬odd → (16 ≤ mx.resv.length ∨ s.queueFull s.me n = true) → exec (p.1 o) s = .next s) ∧
      (st.elected = some m → st.queue = n → ¬odd → mx.resv.length < 16 → s.queueFull s.me n = false → s.Drained →
        exec (p.1 o) s = .next ((Claims.counted ((s.modMx cl fun mx => { mx with
            resv := mx.resv ++ [{ op with set := k, seq := st.seq, group := s.cur, queue := n, ctx := s.ctxOf s.me, cvsub := s.me.cvsub, id := mx.nextId,
                                          behind := s.me.fenced n, doomed := st.broken && op.kind == 0 }]
            nextId := mx.nextId + 1 }).modSet cl k fun st => { st with seq := (st.seq + 1) % 2 ^ 32 }) n).wroteU o.d
          (BitVec.ofNat 64 (st.seq + n * 2 ^ 32))))

/-- R204, R205: a wait of a member writes the status of a completed operation, EXPIRED or BAD; `mmwait` holds the group while it is pending and
`mmwait.test` writes 0; a status that traps takes its cause; `mchkloc` reads a location once the earlier operations of its set have ended. -/
def Obligations.MatrixWaitsReadTheirTicket : Prop :=
  ∀ (s : State) (o : UOp) (cl k m : Nat), s.Conv → s.me.mset = some (cl, k, m) →
    let ti := s.mxTicket cl k (s.u o.a).toNat
    (∀ p ∈ [Instr.mmwait, .mmwaitTest],
      (ti = .bad → exec (p o) s = .next (s.wroteU o.d 0xFE)) ∧ (ti = .expired → exec (p o) s = .next (s.wroteU o.d 0xFF)) ∧
      (∀ st kind fl, ti = .done st kind fl → kind < 2 → st ≠ 11 →
        exec (p o) s = .next ((acquire s s.me.core (s.ctxOf s.me) 7 .all).wroteU o.d (BitVec.ofNat 64 st))) ∧
      (∀ st kind fl, ti = .done st kind fl → kind < 2 → st = 11 → exec (p o) s = .next
        (groupTrap (s.modGroup s.cur fun g => g.setU o.d (BitVec.ofNat 64 st)) s.cur .engine 0 st)) ∧
      (∀ st kind fl, ti = .done st kind fl → 2 ≤ kind → mxStatusTrap st kind = none →
        exec (p o) s = .next (((acquire s s.me.core (s.ctxOf s.me) (kind - 2) .all).modGroup s.cur fun g => { g with flags := g.flags ||| fl }).wroteU
          o.d (BitVec.ofNat 64 st)))) ∧
    (ti = .pending → exec (.mmwait o) s = .next (s.modGroup s.cur fun g => { g with hold := .mticket (s.u o.a).toNat }) ∧
      exec (.mmwaitTest o) s = .next (s.wroteU o.d 0)) ∧
    (4 ≤ (s.u o.a).toNat → exec (.mchkloc o) s = .next (s.wroteU o.d 0xFE)) ∧
    ((s.u o.a).toNat < 4 → s.me.mwait = none → (∀ e ∈ (s.mx cl).resv, e.set ≠ k) →
      exec (.mchkloc o) s = .next (s.wroteU o.d (s.chkLoc cl k (s.u o.a).toNat (o.f % 4))))

/-- R27, R259, R289 to R291: a post to a transfer or collective engine enters its queue and writes its ticket; a block off its alignment is
refused; `qfence` remembers what is outstanding; a wait writes the status and acquires at the record's scope. -/
def Obligations.EnginePostsAndWaits : Prop :=
  ∀ (s : State) (o : UOp), s.Conv →
    let g := s.me
    (∀ p ∈ Claims.enginePosts,
      let n := o.f % 8
      let seq := g.qseq.get 0 n
      ((s.cap g n).queue p.2.1 = false → exec (p.1 o) s = .next (groupTrap s s.cur .capInvalid n)) ∧
      ((s.cap g n).queue p.2.1 = true → (s.u o.a).toNat % 128 ≠ 0 → exec (p.1 o) s = .next (s.wroteU o.d (Claims.refusal 0x27))) ∧
      ((s.cap g n).queue p.2.1 = true → (s.u o.a).toNat % 128 = 0 → s.queueFull g n = true → exec (p.1 o) s = .next s) ∧
      ((s.cap g n).queue p.2.1 = true → (s.u o.a).toNat % 128 = 0 → s.queueFull g n = false → s.Drained →
        exec (p.1 o) s = .next (((Claims.counted { s with
          engOps := s.engOps ++ [{ id := s.nextOp, kind := p.2.1, group := s.cur, launch := (s.teamOf g).launch, ctx := s.ctxOf g, core := g.core,
                                   queue := n, qn := (s.cap g n).ep 20 18, seq := seq, blk := (s.u o.a).toNat, idx := p.2.2 s o, cvsub := g.cvsub,
                                   behind := g.fenced n }]
          nextOp := s.nextOp + 1 } n).modGroup s.cur fun g => { g with qseq := g.qseq.set n ((seq + 1) % 2 ^ 32) }).wroteU o.d
            (BitVec.ofNat 64 (seq + n * 2 ^ 32))))) ∧
    (let mask := o.imm12 % 256
     let ops := s.postedTo s.cur mask
     (∀ n < 8, mask.testBit n = true → (s.cap g n).kind = 1 ∧ (s.cap g n).send = true) →
      exec (.qfence o) s = .next (s.modGroup s.cur fun g => ({ g with fences :=
        (g.fences.filter fun f => f.2.any fun c => s.codePending c) ++ (if ops = [] then [] else [(mask, ops)]) } : Group).movedTo (s.curPc + 4))) ∧
    (let v := (s.u o.a).toNat
     let ti := s.engTicket s.cur v
     (s.cap g (v / 2 ^ 32 % 8)).queue 2 = false →
      (∀ p ∈ [Instr.qwait, .qwaitTest],
        (ti = .bad → exec (p o) s = .next (s.wroteU o.d 0xFE)) ∧ (ti = .expired → exec (p o) s = .next (s.wroteU o.d 0xFF)) ∧
        (∀ st sc fl, ti = .done st sc fl → engStatusTrap st = none →
          exec (p o) s = .next (((acquire s g.core (s.ctxOf g) sc .all).modGroup s.cur fun g => { g with flags := g.flags ||| fl }).wroteU o.d
            (BitVec.ofNat 64 st)))) ∧
      (ti = .pending → exec (.qwait o) s = .next (s.modGroup s.cur fun g => { g with hold := .ticket v }) ∧
        exec (.qwaitTest o) s = .next (s.wroteU o.d 0)))

/-! ## Events of memory, translation and the sequencer -/

namespace Sys2Proof.Claims

/-- How a loaded value fills a register (R269): 1 a signed byte, 2 a signed half. -/
def extended (ext : Nat) (v : UWord) : Word :=
  match ext with
  | 1 => (v.setWidth 8).signExtend 32
  | 2 => (v.setWidth 16).signExtend 32
  | _ => v.setWidth 32

/-- The bytes `vs` stand from `a` on, and every other byte of device memory is as before. -/
def Stored (s t : State) (a : Nat) (vs : List Byte) : Prop :=
  (∀ i < vs.length, t.byte (a + i) = vs.getD i 0) ∧ ∀ x, x < a ∨ a + vs.length ≤ x → t.byte x = s.byte x

/-- A request enters the list of requests on the fabric, with the next sequence number of its peer. -/
def Requested (s t : State) (peer off : Nat) (bytes : List (Nat × Byte)) : Prop :=
  (∃ r, t.fabReqs = s.fabReqs ++ [r] ∧ r.peer = peer ∧ r.off = off ∧ r.kind = 1 ∧ r.bytes = bytes ∧ r.tagged = true ∧
    r.seq = s.fabSeq.get 0 peer) ∧ t.fabSeq.get 0 peer = s.fabSeq.get 0 peer + 1

/-- Lane `i` of group `g` waits at a collective. -/
def joins (g : Group) (i : Nat) : Prop := ∃ n, (g.lane i).st = .joining n

/-- A lane's page request has failed (R325). -/
def pageFailed (ctx vpn : Nat) (l : Lane) : Lane := if l.st = .blocked (.page ctx vpn) then { l with failed := some vpn } else l

end Sys2Proof.Claims

/-- R20, R213, R252, R253, R308: a result lands in its register and fills it; a store, and a reduction, is performed at its home; a
write-combining entry drains as one request; an entry's age ends its wait. -/
def Obligations.MemoryEventsPerformWhatWaits : Prop :=
  ∀ (s : State) (k core : Nat),
    (∀ x, s.landing[k]? = some x →
      let d := x.dst
      let l := (s.group d.group).lane d.lane
      d.pair = false → (s.group d.group).ended = false → l.isExited = false → (∀ n, d.slot = .stack n → l.rb ≤ n ∧ n < l.rb + (s.group d.group).depth) →
      exec (.resultLands k) s = .next (({ s with landing := s.landing.eraseIdx k } : State).modGroup d.group fun g => g.modLane d.lane fun l =>
        (l.put g.depth d.slot (Claims.extended d.ext x.val)).fill d.slot)) ∧
    (∀ st vs, s.stores[k]? = some st → st.bytes = spread st.dpa vs →
      (∀ j < k, ∀ x, s.stores[j]? = some x → x.core = st.core → lineOf x.dpa ≠ lineOf st.dpa) → s.lineClass st.dpa = 0 →
      s.snoopNeeded st.dpa true = false →
      ∃ t, exec (.homeAccess k) s = .next t ∧ t.stores = s.stores.eraseIdx k ∧ t.groups = s.groups ∧ Claims.Stored s t st.dpa vs) ∧
    (∀ e a, (s.core core).red[k]? = some e → e.tgt = .dpa a → s.lineClass a = 0 → s.snoopNeeded a true = false →
      let n := if e.wide then 8 else 4
      let old := bytesNat (s.bytes a n)
      let done (i : Instr) : Prop := ∃ t, exec i s = .next t ∧ (t.core core).red = (s.core core).red.erase e ∧ t.groups = s.groups ∧
        Claims.Stored s t a (natBytes n (rmw e.op (8 * n) old e.val.toNat))
      done (.reductionFlush core k) ∧ (e.born + 8192 ≤ s.clock → done (.reductionEntryAgeExpiry core k)) ∧
      (s.clock < e.born + 8192 → exec (.reductionEntryAgeExpiry core k) s = .next s)) ∧
    ∀ e peer off, (s.core core).wcb[k]? = some e → e.tgt = .peer peer off →
      let done (i : Instr) : Prop := ∃ t, exec i s = .next t ∧ (t.core core).wcb = (s.core core).wcb.erase e ∧ t.groups = s.groups ∧
        t.mem = s.mem ∧ Claims.Requested s t peer off e.bytes
      done (.wcbDrain core k) ∧ (e.born + 4096 ≤ s.clock → done (.wcbEntryAgeExpiry core k)) ∧
      (s.clock < e.born + 4096 → exec (.wcbEntryAgeExpiry core k) s = .next s)

/-- R325, R364, R378, R418, R420: a walk that answers leaves an entry in the TLBs that it went through; a response ends its page request; an
invalidation leaves no entry of its context that meets its range; a group none of whose lanes can go on has its lowest waiting lanes
released; a yield ends. -/
def Obligations.TranslationAndWaitEventsEndWaits : Prop :=
  ∀ (s : State) (core ctx va kind size g : Nat),
    (∀ t a tso, s.trans core ctx va kind false = (t, .ok a tso) → exec (.pageWalk core ctx va kind) s = .next t ∧
      ∃ e ∈ t.tlbs, e.place ∈ tlbPlaces core ∧ e.ctx = ctx ∧ e.base ≤ va ∧ va < e.base + e.size ∧ permits kind e.rp e.wp e.xp = true ∧
        a = e.tgt.off (va - e.base)) ∧
    (let vpn := va / 4096
     let rest (t : State) : Prop := ∀ r ∈ t.pageReqs, r.ctx = ctx → r.vpn ≠ vpn
     let open_ : Prop := ∃ r ∈ s.pageReqs, r.ctx = ctx ∧ r.vpn = vpn
     (∀ code, ¬open_ → exec (.pageRequestResponse ctx va code) s = .next s) ∧
     (open_ → exec (.pageRequestResponse ctx va 0) s = .next { s with
       pageReqs := s.pageReqs.filter fun r => !(r.ctx == ctx && r.vpn == vpn)
       misses := s.misses.map fun m => if m.ctx = ctx ∧ m.vpn = vpn then { m with paging := false } else m }) ∧
     (open_ → ∃ t, exec (.pageRequestResponse ctx va 1) s = .next t ∧ rest t ∧ (∀ m ∈ t.misses, m.ctx = ctx → m.vpn ≠ vpn) ∧ t.groups.length = s.groups.length ∧
       ∀ k < s.groups.length, (t.group k).lanes = (s.group k).lanes.map (Claims.pageFailed ctx vpn)) ∧
     (open_ → ∃ t, exec (.pageRequestResponse ctx va 2) s = .next t ∧ ∀ r ∈ t.pageReqs, r.ctx ≠ ctx)) ∧
    (∀ i ∈ [Instr.atsInvalidation ctx va size, .tlbInvalidation ctx va size], ∃ t, exec i s = .next t ∧
      (∀ e ∈ t.tlbs, e.ctx = ctx → ¬(e.base < va + size ∧ va < e.base + e.size)) ∧ ∀ e ∈ s.tlbs, e.ctx ≠ ctx → e ∈ t.tlbs) ∧
    (let x := s.group g
     s.runs x = true → (∀ l ∈ x.lanes, l.isActive = false ∧ l.isBlocked = false) → (∃ i < x.lanes.length, Claims.joins x i) → x.waitDone = [] →
      ∃ t, exec (.waitDeadlockRelease g) s = .next t ∧ (∀ j, j ≠ g → t.group j = s.group j) ∧ ∀ i < x.lanes.length,
        let lowest : Prop := Claims.joins x i ∧ ∀ j < x.lanes.length, Claims.joins x j → (x.lane i).pc ≤ (x.lane j).pc
        (lowest → (t.group g).lane i = { x.lane i with st := .active, force := true }) ∧ (¬lowest → (t.group g).lane i = x.lane i)) ∧
    (∀ u, (s.group g).hold = .yield u →
      (u ≤ s.clock + 1 → exec (.yieldExpiry g) s = .next (s.modGroup g fun x => { x with hold := .none, age := 0, ageU := 0 })) ∧
      (s.clock + 1 < u → exec (.yieldExpiry g) s = .next s))

/-- R333 to R340, R406, R457, R459, R508: the sequencer takes an entry whose bytes it reads, starts or rejects its launch or sets a wait, and halts on
an error of R333; a counter at its target becomes complete, then writes CVAL at CADDR, then counts in its parent; CANCEL parks a group's live
lanes; the free supervisor slot takes the next record at offset 0. -/
def Obligations.SequencerEventsStartAndEndLaunches : Prop :=
  ∀ (s : State) (ctx q c g core : Nat),
    (∀ b, let k := 16 * ctx + q
      let r := s.queue k
      let e := entryOf b
      let n := s.launches.length
      q ≤ 15 → s.queueReady k = true → s.seqWrites = false → 4 ≤ r.logn → r.logn ≤ 16 →
      rdRange s (seqAcc s (.queue k) ctx none r.failed) (r.base + 256 * (r.cons % 2 ^ r.logn)) 256 = (s, .ok b) →
      let go (code : Nat) (t : State) : Prop := exec (.launchEntryAccept ctx q) s = .next t ∧ (t.queue k).cons = r.cons + 1 ∧
        (t.launch n).e = e ∧ (t.launch n).ctx = ctx ∧ t.groups = s.groups ∧ (t.counter e.lcnt).target = e.hosted ∧
        (code ≠ 0 → t.teams = s.teams ∧ (t.counter e.lcnt).done = e.hosted ∧
          (t.counter e.lcnt).status = if (s.counter e.lcnt).status = 0 then code else (s.counter e.lcnt).status)
      (e.kind = 1 → s.waitOk ctx e.lcnt = true →
        exec (.launchEntryAccept ctx q) s = .next ((advanceQueue s k).modQueue k fun q => { q with waiting := some e.lcnt })) ∧
      ((e.kind = 1 ∧ s.waitOk ctx e.lcnt = false) ∨ (e.kind ≠ 1 ∧ s.lcntOk ctx e.lcnt = false) →
        exec (.launchEntryAccept ctx q) s = .next (haltQueue s k 4)) ∧
      (e.kind ≠ 1 → s.lcntOk ctx e.lcnt = true →
        (s.entryCheck b e ≠ 0 → ∃ t, go (s.entryCheck b e) t) ∧
        (s.entryCheck b e = 0 → e.capt = 0 → s.entryFit e ≠ 0 → ∃ t, go (s.entryFit e) t) ∧
        (s.entryCheck b e = 0 → e.capt = 0 → s.entryFit e = 0 → (s.counter e.lcnt).state = 1 → e.gang = 0 → e.gdom = 0 →
          ∃ t, go 0 t ∧ (t.counter e.lcnt).done = 0 ∧ t.teams = s.teams ++ [{ launch := n, kteam := 0, prio := e.prio }]))) ∧
    (let k := s.counter c
     let l := if k.level = 0 then s.launchAt c else none
     s.counterDue c = true →
      (k.fin = 0 → (∀ x, l = some x → (pushLaunch s x).writesOver x = true) →
        ∃ t, exec (.launchCounterComplete c) s = .next t ∧ (t.counter c).state = 2 ∧ (t.counter c).fin = 1 ∧
          (t.counter c).status = if k.status = 0 ∧ ∃ x, l = some x ∧ (s.launch x).lostWrite = true then 0x20 else k.status) ∧
      (k.fin = 1 →
        let goes (u t : State) : Prop := exec (.launchCounterComplete c) s = .next t ∧ (t.counter c).fin = 2 ∧ t.mem = u.mem ∧ t.groups = u.groups
        (k.caddr = 0 → ∃ t, goes s t) ∧
        ∀ u b, k.caddr ≠ 0 → wrRange s { seqAcc s (.counter c) k.ctx l k.failed with code := counterCode c + 1 } k.caddr (natBytes 8 k.cval.toNat) =
            (u, .ok b) → ∃ t, goes u t) ∧
      (1 < k.fin → s.unacked (counterCode c) = false →
        ∃ t, exec (.launchCounterComplete c) s = .next t ∧ (t.counter c).fin = 0 ∧ (∀ x, l = some x → (t.launch x).finished = true) ∧
          (k.parent ≠ 0xFFFF → k.parent ≠ c → (t.counter k.parent).done = (s.counter k.parent).done + 1 ∧
            (t.counter k.parent).status = if (s.counter k.parent).status = 0 then k.status else (s.counter k.parent).status))) ∧
    (s.counterDue c = false → exec (.launchCounterComplete c) s = .next s) ∧
    (let x := s.group g
     g < s.groups.length → x.cancelled = true → x.ended = false → x.resident = true → x.priv = .user → x.live ≠ [] →
      ∃ t r, exec (.cancelDelivery g) s = .next t ∧ (t.group g).records = [r] ∧ r.cause = .cancel ∧ r.unif = true ∧ r.lanes = maskOf x.live ∧
        (t.group g).cancelled = false ∧ (t.group g).mset = none ∧ ∀ i ∈ x.live, ((t.group g).lane i).st = .parked) ∧
    ∀ r y, (s.core core).serves = none → s.nextRecord core none = some (g, r) → (s.group g).records[r]? = some y →
      (∀ p, (s.core core).slot = some p → p < s.groups.length ∧ (s.group p).priv = .supervisor) →
      ∃ t p, exec (.supervisorEntry core) s = .next t ∧ (t.core core).slot = some p ∧ (t.core core).serves = some (s.group g).team ∧
        (t.core core).trapGrp = (s.group g).kgrp ∧ (t.core core).trapRec = r ∧ (t.group p).resident = true ∧ (t.group p).priv = .supervisor ∧
        (∀ l ∈ (t.group p).lanes, l.pc = 0 ∧ l.st = .active) ∧ (t.group g).records[r]? = some { y with entered := true }

/-! ## Events of placement and of the matrix engine -/

namespace Sys2Proof.Claims

/-- The loggia team `t` stands in its victim's place (R355). -/
def swappedIn (s : State) (core t v : Nat) : State :=
  makeNext (placeTeam ((swapOutUnit s v).modCore core fun c => { c with loggia := none }) t core .resident) (s.team t).launch

/-- Team `t` is on its way out: its image takes a save frame, its groups issue no more (R465, R466). -/
def Outgoing (s u : State) (t : Nat) : Prop :=
  (u.team t).st = .outgoing ∧ (u.team t).saved = true ∧ (u.team t).banks = [] ∧ u.saveFrames = s.saveFrames - 1 ∧
    t ∈ (u.core (s.team t).core).spilling ∧ ∀ g ∈ (s.team t).groups, (s.group g).ended = false → (u.group g).resident = false

/-- A matrix operation ends with a status: its bytes at its block are written, `f` is done, and its entry leaves the table (R189, R209). Lines that
await a snoop, pages and acknowledgements hold it back. -/
def Ends (s : State) (cl : Nat) (o : MxOp) (status : Nat) (f : State → State) (r : Res) : Prop :=
  ∀ u b, wrRange s (s.mxAcc cl o o.ctx) (o.blk + (o.report status).1) (o.report status).2 = (u, .ok b) → u.unacked (mxCode cl o.id) = false →
    r = .next (finishOp (mxUsed (f u) cl o.id) cl o status 0)

/-- The same for an operation that reports in no block. -/
def EndsAt (s : State) (cl : Nat) (o : MxOp) (status : Nat) (r : Res) : Prop :=
  s.unacked (mxCode cl o.id) = false → r = .next (finishOp (mxUsed s cl o.id) cl o status 0)

/-- How the engine reads the bytes of a feed: for its lane, through its core's own window check (R201). -/
def feedAcc (s : State) (cl : Nat) (f : Fetch) : EngAcc :=
  { clusterAcc s cl f.group f.ctx 0 true with
    who := .feed cl f.no, code := 0, core := (s.group f.group).core, granted := List.range 32 }

/-- An element of a tile after a pass with A' rows of the bow and the B tile `b` (R165 to R167). -/
def added (mx : Matrix) (o : MxOp) (b : BTile) (old : Word) (r j : Nat) : Word :=
  let l := products (passRow mx o r) (b.col j)
  (accumulate b.int (blkFld o.words 38 38 == 1) old (if b.int then exactSum l else treeSum l)).1

end Sys2Proof.Claims

/-- R30, R220, R221, R341 to R343, R355, R387, R405, R465 to R468: a team is offered to a die and takes a core, where its groups start at the
entry; the loggia takes a team, whose victim leaves for it when the slice ends; a team in a fault wait leaves; an image is complete once its last
writes are acknowledged; a bank changes its mode or keeps it; a torn down context has no binding. -/
def Obligations.PlacementEventsMoveTeams : Prop :=
  ∀ (s : State) (team core v cl bank ctx : Nat),
    (∀ d c, s.nextToPlace = some team → (s.team team).saved = false → s.dieFor team = some (d, c) →
      exec (.teamDispatch team) s = .next ((s.unit team).foldl (fun s t => s.modTeam t fun tm => { tm with st := .offered d }) s)) ∧
    (∀ d, (s.team team).st = .offered d → s.gangOf team = none → s.isSpanning team = false →
      (s.bestCore team d = some core → s.dieFor team = some (d, core) → exec (.teamPlacement team core) s =
        .next (makeNext { placeTeam s team core .resident with lastDie := d } (s.team team).launch)) ∧
      (s.bestCore team d = none → exec (.teamPlacement team core) s = .next (s.modTeam team fun tm => { tm with st := .pending }))) ∧
    (∀ st, team < s.teams.length → (s.team team).saved = false →
      let t := placeTeam s team core st
      let e := (s.launch (s.team team).launch).e
      (t.team team).st = st ∧ (t.team team).core = core ∧ t.groups.length = s.groups.length + e.ngroups ∧ ∀ j < e.ngroups,
        let g := t.group (s.groups.length + j)
        g.team = team ∧ g.kgrp = j ∧ g.core = core ∧ g.resident = true ∧ g.ended = false ∧ (∀ n < 8, g.uregs.get 0 n = e.args.getD n 0) ∧
        ∀ i < e.width, (g.lane i).st = .active ∧ (g.lane i).pc = BitVec.ofNat 32 e.entry ∧
          (g.lane i).globals.get 0 0 = BitVec.ofNat 32 (j * e.width + i)) ∧
    (∀ d, s.nextToPlace = some team → (s.team team).saved = true → s.dieFor team = some (d, core) → s.gangOf team = none →
      s.isSpanning team = false →
      exec (.teamRestore team core) s = .next { placeTeam s team core .resident with lastDie := d }) ∧
    ((s.core core).loggia = none → (s.core core).spilling = [] → s.mayLoad team = true → s.victimOn core team = some v →
      s.loadSwaps core team v = true →
      exec (.loggiaLoad core team v) s = .next ((s.modTeam team fun t => { t with st := .loggia }).modCore core fun c =>
        { c with loggia := some (team, v, if c.slice = 0 then none else some (c.slice * 1024)) })) ∧
    (∀ x, (s.core core).loggia = some (team, v, x) →
      (x = some 0 → (s.core core).slice = 0 → exec (.sliceExpiry core) s = .next s) ∧
      ((s.launch (s.team v).launch).cancelled = false → s.isSpanning v = false → s.maySwapOut (s.unit v) = true →
        (s.without v).fitsOn team core = true →
        (x = some 0 → (s.core core).slice ≠ 0 → exec (.sliceExpiry core) s = .next (Claims.swappedIn s core team v)) ∧
        ((s.team team).prio = 3 → (s.team v).prio < 3 → exec (.teamSwap core v) s = .next (Claims.swappedIn s core team v)))) ∧
    (team < s.teams.length → s.gangOf team = none → s.faultWait team = true → s.isSpanning team = false → s.maySwapOut [team] = true →
      ∃ t, exec (.faultWaitSwap team) s = .next t ∧ Claims.Outgoing s t team) ∧
    (team ∈ (s.core (s.team team).core).spilling → (∀ g ∈ (s.team team).groups, (s.group g).ended = true ∨ (s.group g).prvLines = []) →
      s.teamWrites team (s.team team).core = false →
      let saved := s.modCore (s.team team).core fun c => { c with spilling := c.spilling.erase team }
      ((s.team team).st ≠ .outgoing → exec (.imageSaveDone team) s = .next saved) ∧
      ((s.team team).st = .outgoing → (s.launch (s.team team).launch).cancelled = false →
        exec (.imageSaveDone team) s = .next (saved.modTeam team fun t => { t with st := .swapped })) ∧
      ((s.team team).st = .outgoing → (s.launch (s.team team).launch).cancelled = true →
        ∃ t, exec (.imageSaveDone team) s = .next t ∧ ∀ g ∈ (s.team team).groups, g < s.groups.length → (t.group g).ended = true)) ∧
    (∀ m, (s.cluster cl).wanted.find bank = some m →
      let old := (s.cluster cl).modes.get 0 bank
      let free : Prop := old = 0 ∨ (old = 1 ∧ (s.cluster cl).owner.find bank = none) ∨
        (2 ≤ old ∧ (s.fifo cl bank).claim = none ∧ (s.fifo cl bank).filled = 0 ∧ (s.fifo cl bank).free = 1024)
      ∃ t, exec (.bankModeChange cl bank) s = .next t ∧ (t.cluster cl).wanted.find bank = none ∧
        (free → (t.cluster cl).modes.get 0 bank = m ∧ (m ≠ old → t.fifo cl bank = { claim := (s.fifo cl bank).claim })) ∧
        (¬free → (t.cluster cl).modes.get 0 bank = old)) ∧
    ((s.context ctx).teardown = true → (∀ t ∈ s.teams, t.isSup = false → (s.launch t.launch).ctx = ctx → t.st = .done) →
      (∀ o ∈ s.engOps, o.ctx = ctx → o.status ≠ 0) → (∀ c ∈ s.clusters, ∀ o ∈ c.2.mx.resv, o.ctx ≠ ctx) →
      ∃ t, exec (.teardown ctx) s = .next t ∧ (t.context ctx).bindings = [] ∧ (t.context ctx).teardown = false ∧
        ∀ e, e ∈ t.tlbs ↔ e ∈ s.tlbs ∧ e.ctx ≠ ctx)

/-- R161 to R169, R176, R185 to R187, R191 to R193, R198, R201, R209, R351, R352: an entry is accepted with its block and its tile, ages, and is
granted, or ends with the status of its check; a pass keeps its bow slot while others get theirs; tokens and bursts; feeds land, row-groups stream, a pass adds its products to its tile; loads,
zeros; an ended entry leaves the table and its set keeps the status. -/
def Obligations.MatrixEventsRunTheReservationTable : Prop :=
  ∀ (s : State) (cl k unit : Nat),
    let mx := s.mx cl
    let die := s.die (cl / 24)
    (∀ o, mx.resv[k]? = some o → o.accepted = false → o.doomed = false → o.closing = none →
      let acc := s.mxAcc cl o o.ctx
      let taken (tl : Nat) (ws : List UWord) : Prop := ∃ t, exec (.matrixAccept cl k) s = .next t ∧
        ((s.tile cl tl).owner = none → (t.tile cl tl).owner = if o.kind = 1 then none else some o.set) ∧
        ∃ p ∈ (t.mx cl).resv, p.id = o.id ∧ p.accepted = true ∧ p.tile = tl ∧ p.words = ws ∧ p.since = s.clock ∧
          p.prio = (s.launch (s.teamOf (s.group o.group)).launch).e.prio ∧
          (∀ x, o.kind ≠ 1 → (s.tile cl tl).owner = some x → p.outcome = if x = o.set then 0 else 20)
      (o.kind ∈ [2, 5, 6] → taken o.tile []) ∧
      (∀ b, o.kind ∉ [2, 5, 6] → rdRange s acc o.blk 256 = (s, .ok b) → taken (blkFld (wordsOf 32 b) 1 0) (wordsOf 32 b))) ∧
    (∀ o, mx.resv[k]? = some o →
      (o.accepted = true → o.granted = false → o.since + 8192 ≤ s.clock → exec (.reservationAging cl k) s = .next (s.modOp cl o.id fun o =>
        { o with prio := min 3 (o.prio + 1), since := o.since + 8192 })) ∧
      (s.clock < o.since + 8192 → exec (.reservationAging cl k) s = .next s)) ∧
    (∀ o, s.best cl unit = some o →
      let grant (u : State) : State := u.modOp cl o.id fun o => { o with granted := true, page := none, failed := false }
      (o.ends = none → s.opCheck cl o = 0 → o.kind ∈ [2, 5, 6] ∨ mxMayReach s cl o = (s, .ok []) →
        (o.kind ∈ [1, 2, 4, 5, 6] ∨ (o.kind = 0 ∧ burstRoom mx o = true ∧ (s.tile cl o.tile).st ≠ .kept) →
          exec (.reservationGrant cl unit) s = .next (grant s)) ∧
        (∀ u b, o.kind = 0 → burstRoom mx o = true → (s.tile cl o.tile).st = .kept →
          wrRange s (s.mxAcc cl o o.ctx) (blkFld o.words 127 64) (s.tile cl o.tile).image = (u, .ok b) →
          exec (.reservationGrant cl unit) s = .next (grant u)) ∧
        (o.kind = 3 → (s.tile cl o.tile).stopped = none →
          ∃ t, exec (.reservationGrant cl unit) s = .next t ∧ (t.tile cl o.tile).st = .checking ∧ (t.tile cl o.tile).el = (s.tile cl o.tile).el ∧
            ∀ p ∈ (t.mx cl).resv, p.id = o.id → p.granted = true)) ∧
      (o.ends = none → s.opCheck cl o ≠ 0 → Claims.Ends s cl o (s.opCheck cl o) id (exec (.reservationGrant cl unit) s)) ∧
      (∀ st, o.ends = some st → st ≠ 0 → Claims.Ends s cl o st id (exec (.reservationGrant cl unit) s))) ∧
    (∀ o ∈ mx.resv, o.bow = true → o ∈ mx.giveBow.resv) ∧
    (∀ (o : MxOp) (st : Nat) (fl : UWord), let t := finishOp s cl o st fl
      (∀ p ∈ (t.mx cl).resv, p.id ≠ o.id) ∧ (t.group o.group).qcnt.get 0 o.queue = (if o.group < s.groups.length then
        (s.group o.group).qcnt.get 0 o.queue - 1 else 0) ∧
      ((s.mset cl o.set).members ≠ [] → (t.mset cl o.set).done = ((o.seq, st, o.doneKind, fl) :: (s.mset cl o.set).done).take 64)) ∧
    (mx.token = false → cl % 24 ∈ die.ring → s.wantsToken cl = true → (mx.relCycle = 0 ∨ mx.relCycle + 24 ≤ s.clock) →
      exec (.tokenTake cl) s = .next ((s.modMx cl fun mx => { mx with token := true }).modDie (cl / 24) fun d =>
        { d with ring := d.ring.erase (cl % 24) })) ∧
    (mx.token = true → mx.burst = none → (∀ c, die.lastBurst = some c → c + die.mingap ≤ s.clock) →
      exec (.burstStart cl) s = .next ((s.modMx cl fun mx => { mx with burst := some 4096 }).modDie (cl / 24) fun d =>
        { d with lastBurst := some s.clock })) ∧
    (mx.token = true → s.burstOver cl = true →
      exec (.burstEnd cl) s = .next ((s.modMx cl fun mx => { mx with token := false, burst := none, relCycle := s.clock }).modDie (cl / 24) fun d =>
        if d.retire = 0 then { d with ring := d.ring ++ [(cl + 1) % 24] } else { d with retire := d.retire - 1 })) ∧
    (∀ f b sc o, mx.fetches[k]? = some f → engReadAt s (Claims.feedAcc s cl f) f.tgt f.nbytes = (s, .ok b) →
      (f.nscales = 0 ∧ sc = []) ∨ (f.nscales ≠ 0 ∧ engReadAt s (Claims.feedAcc s cl f) f.stgt f.nscales = (s, .ok sc)) →
      mx.resv.find? (fun o => o.set == f.set && o.seq == f.seq && o.kind == 0) = some o → o.streamed ≤ f.row / 4 →
      let same (x : Feed) : Bool := x.set == f.set && x.seq == f.seq && x.row == f.row && x.member == f.member
      let behind : Prop := ∃ x ∈ mx.feeds, same x = true ∧ f.no < x.no
      ∃ t, exec (.feedFetchLands cl k) s = .next t ∧ (t.mx cl).fetches = mx.fetches.erase f ∧
        (behind → (t.mx cl).feeds = mx.feeds) ∧
        (¬behind → (t.mx cl).feeds = (mx.feeds.filter fun x => !same x) ++
          [{ set := f.set, seq := f.seq, row := f.row, member := f.member, bytes := b, scales := sc, no := f.no }])) ∧
    (∀ o, mx.resv.find? (fun o => o.kind == 0 && o.granted) = some o → 4 * o.streamed < o.m → groupFed mx o o.streamed = true →
      exec (.rowGroupStream cl) s = .next ((s.modOp cl o.id fun p =>
        { p with streamed := p.streamed + 1,
                 sconf := p.sconf || (List.range 4).any fun r => rowConflict mx o (4 * o.streamed + r) }).modMx cl fun m =>
          { m.giveBow with burst := m.burst.map fun n => n - rowCycles o.afmt })) ∧
    (∀ o b, mx.resv.find? (fun o => o.kind == 0 && o.granted && (o.doomed || o.m ≤ 4 * o.streamed)) = some o → mx.b = some b →
      let r := exec (.passComplete cl) s
      (o.doomed = true → Claims.Ends s cl o 9 id r) ∧
      (o.doomed = false → o.outcome = 11 → Claims.Ends s cl o 11 id r) ∧
      (o.doomed = false → o.outcome ≠ 11 → o.poisoned = true → Claims.Ends s cl o 10 id r) ∧
      (o.doomed = false → o.outcome ≠ 11 → o.poisoned = false → Claims.Ends s cl o 1 (fun u => u.modTile cl o.tile (passTile mx o b)) r)) ∧
    (∀ (o : MxOp) (b : BTile) (t : Tile) (i j : Nat), j < 512 → (passTile mx o b t).el.get 0 (512 * i + j) =
      if o.row0 ≤ i ∧ i < o.row0 + o.m ∧ j < b.nb then Claims.added mx o b (t.el.get 0 (512 * i + j)) (i - o.row0) j
      else t.el.get 0 (512 * i + j)) ∧
    (∀ o b, mx.resv.find? (fun o => o.kind == 1 && o.granted) = some o → o.ends = none →
      let w := o.words
      let fmt := blkFld w 195 192
      let kb := blkFld w 207 198
      let bsz := blkFld w 197 196
      let nb := if fmt = 0 then 256 else 512
      let per := kb * fmtBits fmt / 8
      kb ≤ 512 → Machine.isMx fmt = false → rdRange s (s.mxAcc cl o o.ctx) (blkFld w 191 128) (nb * per) = (s, .ok b) →
      ∃ el, Claims.Ends s cl o 1 (fun u => u.modMx cl fun mx =>
          { mx with b := some { fmt := fmt, bsz := bsz, kb := kb, el := el },
                    sets := mx.sets.map fun p => (p.1, { p.2 with loaded := true }) }) (exec (.bLoadComplete cl) s) ∧
        ∀ j < nb, ∀ k < kb, AMap.get 0 el (512 * j + k) = streamElem (fmtBits fmt) (bytesNat ((b.drop (j * per)).take per)) k) ∧
    (∀ o, mx.resv.find? (fun o => o.kind == 2 && o.granted) = some o → s.unacked (mxCode cl o.id) = false →
      exec (.tileZeroComplete cl) s = .next (finishOp (mxUsed (s.modTile cl o.tile fun t => { owner := t.owner }) cl o.id) cl o 1 0))

/-- R172 to R183, R189, R198, R206 to R208: a retry restores its tile from the checkpoint, or ends as RETRYLIMIT; a fix writes the located element; the
check of a drain ends as CLEAN when no row or column mismatches, corrects or locates one wrong element, or asks for a retry with the signature
recorded, until the signature or the limit ends that; a trapping bound ends it with the tile Held; a drain whose rows are written commits with
its record. -/
def Obligations.DrainEventsCheckAndCommit : Prop :=
  ∀ (s : State) (cl : Nat),
    let mx := s.mx cl
    (∀ o b, mx.resv.find? (fun o => o.kind == 4 && o.granted) = some o → o.ends = none →
      rdRange s (s.mxAcc cl o o.ctx) (o.blk + 64) 1 = (s, .ok [b]) →
      let t := s.tile cl o.tile
      (rcount b.toNat = rlimit b.toNat → Claims.EndsAt s cl o 24 (exec (.retryRestoreComplete cl) s)) ∧
      (∀ img u c, rcount b.toNat ≠ rlimit b.toNat → t.ckptZero = true ∨ rdRange s (s.mxAcc cl o o.ctx) t.save 524288 = (s, .ok img) →
        wrRange s (s.mxAcc cl o o.ctx) (o.blk + 64) [b + 1] = (u, .ok c) → u.unacked (mxCode cl o.id) = false →
        let t0 : Tile := { t with el := if t.ckptZero then [] else tileOfImage img }
        exec (.retryRestoreComplete cl) s = .next (finishOp (mxUsed (u.modTile cl o.tile fun _ =>
          { t0 with st := .accumulating, er := if t.ckptZero then [] else t.keptR, ec := if t.ckptZero then [] else t.keptC, pend := 0, clamps := 0,
                    skipR := [], skipC := [], loc := none, fixed := false, outcome := 0, stopped := none }) cl o.id) cl o 1 0))) ∧
    (∀ o i j v d, mx.resv.find? (fun o => (o.kind == 5 || o.kind == 6) && o.granted) = some o →
      (s.tile cl o.tile).loc = some (i, j, v, d) → s.unacked (mxCode cl o.id) = false →
      exec (.elementFixComplete cl) s = .next (finishOp (mxUsed (s.modTile cl o.tile fun t =>
        { t.setEl i j (if o.kind = 5 then v else o.val) with fixed := true }) cl o.id) cl o 1 0)) ∧
    (∀ o, mx.draining = some o → o.outcome = 0 → o.signed = false → o.ends = none → (s.tile cl o.tile).stopped = none →
      let t := s.tile cl o.tile
      let n := ((List.range 256).countP fun i => !t.rowTested i) + (List.range t.nb).countP fun j => !t.colTested j
      let rows (i : Nat) : Prop := i < 256 ∧ t.rowBad i (t.obsRow i) = true
      let cols (j : Nat) : Prop := j < t.nb ∧ t.colBad j (t.obsCol j) = true
      ((∀ i, ¬rows i) → (∀ j, ¬cols j) →
        exec (.drainCheckEnd cl) s = .next (checkGood s cl o (if t.fixed then 3 else 2) n)) ∧
      (∀ i j w d, (∀ x, rows x ↔ x = i) → (∀ x, cols x ↔ x = j) → t.fix i j = some (w, d) →
        (blkFld o.words 430 430 = 1 → exec (.drainCheckEnd cl) s = .next (checkGood (s.modTile cl o.tile fun t => t.setEl i j w) cl o 3 n)) ∧
        (blkFld o.words 430 430 ≠ 1 → Claims.Ends s cl o 4
          (fun u => u.modTile cl o.tile fun t => { t with st := .held, outcome := 4, loc := some (i, j, w, d) }) (exec (.drainCheckEnd cl) s))) ∧
      (∀ mr mc b, t.check = (mr, mc, n) → mr ≠ [] ∨ mc ≠ [] → (∀ i j, mr = [i] → mc = [j] → t.fix i j = none) →
        rdRange s (s.mxAcc cl o t.openCtx) (t.openBlk + 64) 24 = (s, .ok b) →
        let r := (b.headD 0).toNat
        let sig := natBytes 8 (crc64 t.image).toNat ++ natBytes 8 (crc64 (mismatchVector mr mc)).toNat
        let same : Prop := 1 ≤ rcount r ∧ b.drop 8 = sig
        let held (out : Nat) (u : State) : State := u.modTile cl o.tile fun t => { t with st := .held, outcome := out, loc := none }
        (same → exec (.drainCheckEnd cl) s = .next (checkGood s cl o 6 n)) ∧
        (¬same → rlimit r ≤ rcount r → Claims.Ends s cl o 7 (held 7) (exec (.drainCheckEnd cl) s)) ∧
        (∀ v c, ¬same → rcount r < rlimit r → wrRange s (s.mxAcc cl o t.openCtx) (t.openBlk + 72) sig = (v, .ok c) →
          Claims.Ends (v.modOp cl o.id fun o => { o with signed := true }) cl o 5 (held 5) (exec (.drainCheckEnd cl) s)))) ∧
    (∀ o, mx.draining = some o → o.outcome ≠ 0 → o.ends = none →
      let t := s.tile cl o.tile
      ((∃ r < o.dm, drainRow o t (o.drow0 + r) = none) → Claims.Ends s cl o 8
        (fun u => u.modTile cl o.tile fun t => { t with st := .held, outcome := 8 }) (exec (.drainCommit cl) s)) ∧
      (∀ u v p, (∀ r < o.dm, drainRow o t (o.drow0 + r) ≠ none) → drainRows cl o.id (o.dm + 1) s = (u, .ok []) →
        (u.mx cl).draining = some p → drainFlush u cl p = (v, true) → p.refused = false →
        exec (.drainCommit cl) s = .next (commitDrain v cl p))) ∧
    (∀ o old r u c, let t := s.tile cl o.tile
      let fl := t.pend ||| BitVec.ofNat 64 o.fl
      let keep := t.was == 2 || (t.was == 1 && blkFld o.words 429 429 == 1)
      rdRange s (s.mxAcc cl o o.ctx) (o.blk + 104) 16 = (s, .ok old) →
      (t.was ≠ 1 ∧ r = [0]) ∨ (t.was = 1 ∧ rdRange s (s.mxAcc cl o t.openCtx) (t.openBlk + 64) 1 = (s, .ok r)) →
      wrRange s (s.mxAcc cl o o.ctx) (o.blk + 104) (commitRecord old o t fl (rcount (r.headD 0).toNat)) = (u, .ok c) →
      u.unacked (mxCode cl o.id) = false →
      commitDrain s cl o = finishOp (mxUsed (u.modTile cl o.tile (committedTile keep)) cl o.id) cl o o.outcome fl)

/-! ## Events of the engines, of the fabric and of gangs that span devices -/

namespace Sys2Proof.Claims

/-- An operation as its acceptance reads it (R292, R294, R299, R408). -/
def acceptedOp (s : State) (o : EngOp) (b : List Byte) : EngOp :=
  let w := wordsOf 16 b
  let x := o.kind == 0
  let prog := if x then blkFld w 663 640 else blkFld w 415 384
  let p : EngOp :=
    { o with accepted := true, words := w, page := none, failed := false, prog := prog, peers := s.grants o.launch,
             flags := if prog = 0 then 0 else BitVec.ofNat 64 (if x then blkFld w 680 672 else blkFld w 432 424),
             scope := if x then blkFld w 12 10 else blkFld w 31 29,
             bnd := if o.kind = 0 ∧ blkFld w 14 14 = 1 then some ((s.launch o.launch).bnd.get {} (blkFld w 20 15)) else none,
             tree := if o.kind = 1 then s.trees.get 0 (blkFld w 39 32) else 0 }
  { p with banks := (s.sideBank p p.src, s.sideBank p p.dst) }

/-- A response to `org`: the number by which it knows the delivery, its request's number and tag, a status and bytes (R311). -/
def response (s : State) (org via seq tag status : Nat) (bytes : List Byte) : State :=
  { s with sent := s.sent ++ [{ kind := "response", dst := org, args := [via, seq, tag, status], bytes := bytes }] }

/-- A lane that waited for its word's answer goes past it. -/
def answered (l : Lane) (pc : Word) (ext : Bool) : Lane :=
  { l.unmark with st := .active, pc := pc + (if ext then 8 else 4), waited := 0, failed := none, force := false }

/-- An operation begins to end with a status, and goes as far as it can (R292). -/
def ending (s : State) (id status : Nat) : State := engEndRun 6 (engEnd s id status) id

/-- The `n` bytes from `a` on lie in one good line that an access may write at once. -/
def OneGoodLine (s : State) (a n : Nat) : Prop :=
  0 < n ∧ lineOf (a + n - 1) = lineOf a ∧ s.snoopNeeded a true = false ∧ s.lineClass a = 0

/-- No request of a filter and a number is in service: held, or a push whose value is on its way (R311). -/
def NotInService (s : State) (filt seq : Nat) : Prop :=
  (∀ h ∈ s.heldIn, h.filt ≠ some filt ∨ h.seq ≠ seq) ∧ ∀ p ∈ s.pushes, ∀ h, p.req = some h → h.filt ≠ some filt ∨ h.seq ≠ seq

end Sys2Proof.Claims

/-- R291 to R293, R299 to R302, R307, R311, R312, R317: an operation is accepted with its block, or ends with the status of its check; a transfer ends
when every row is made, a collective when its result is; an operation that ends writes its record once its output is acknowledged, then its
completion value, then keeps its status; a packet reaches its operation once, or waits for it. -/
def Obligations.EngineEventsAcceptAndComplete : Prop :=
  ∀ (s : State) (k : Nat),
    (∀ o b, s.engOps[k]? = some o → o.accepted = false → o.status = 0 → s.engMayBegin o = true → rdRange s (s.engAcc o) o.blk 128 = (s, .ok b) →
      let p := Claims.acceptedOp s o b
      let u := (engUsed s o).modEng o.id fun _ => p
      let bad := if o.kind = 0 then u.xferCheck p else u.collCheck p
      (bad ≠ 0 → o.gone = false → exec (.engineAccept k) s = .next (Claims.ending u o.id bad)) ∧
      (o.gone = true → exec (.engineAccept k) s =
        .next (Claims.ending (if o.kind = 1 ∧ p.tree.getLsbD 5 = true then collTell u p [26] else u) o.id 25)) ∧
      (bad = 0 → o.gone = false → o.kind = 0 →
        (p.fd 13 13 = 0 → exec (.engineAccept k) s = .next u) ∧
        (p.fd 13 13 = 1 → exec (.engineAccept k) s = .next (u.modCluster (clusterOf o.core) fun c =>
          { c with genX := some (genLoad (s.group o.group).srseed s.kdev 1 (clusterOf o.core)) }))) ∧
      (bad = 0 → o.gone = false → o.kind = 1 → p.fd 48 48 = 0 → u.keptOp p = none → s.inbox = [] → exec (.engineAccept k) s = .next u)) ∧
    (∀ o, s.engOps[k]? = some o → s.engOps.find? (fun x => x.id == o.id) = some o → o.accepted = true → o.status = 0 →
      (o.endStep ≠ 0 → exec (if o.kind = 0 then .transferComplete k else .collectiveComplete k) s =
        .next (if o.kind < 2 then engEndRun 6 s o.id else s)) ∧
      (o.endStep = 0 → o.kind = 0 →
        let r := exec (.transferComplete k) s
        (o.gone = true → r = .next (Claims.ending s o.id 25)) ∧
        (o.gone = false → o.refused = true → r = .next (Claims.ending s o.id 11)) ∧
        (o.gone = false → o.refused = false → ∀ u, (o.began = true ∧ u = s) ∨ (o.began = false ∧ transferBegin s o = (u, .more)) →
          ∀ t, (transferUnits (o.drows + 1) u o.id = (t, .more) → r = .next (Claims.ending t o.id 1)) ∧
            ∀ c, transferUnits (o.drows + 1) u o.id = (t, .stop c) → r = .next (Claims.ending t o.id c))) ∧
      (o.endStep = 0 → o.kind = 1 →
        let r := exec (.collectiveComplete k) s
        (o.gone = true → r = .next (Claims.ending (collTell s o [26]) o.id 25)) ∧
        (o.gone = false → o.mismatch = true → r = .next (Claims.ending (collTell s o []) o.id 27)) ∧
        (o.gone = false → o.mismatch = false → o.peerLost = true → r = .next (Claims.ending (collTell s o [26]) o.id 26)) ∧
        (o.gone = false → o.mismatch = false → o.peerLost = false → o.refused = false → o.met = true → o.began = true →
          let up := collUp s o
          let down := collDown up (up.engById o.id o)
          ∀ t, (collUnits (o.outCount + 1) down o.id = (t, .more) → r = .next (Claims.ending t o.id 1)) ∧
            ∀ c, collUnits (o.outCount + 1) down o.id = (t, .stop c) → r = .next (Claims.ending t o.id c)))) ∧
    (∀ o n, s.engOps.find? (fun x => x.id == o.id) = some o →
      let acked : Prop := s.unacked (engCode o.id) = false
      let goes (u : State) (f : EngOp → EngOp) : Prop := engEndRun (n + 1) s o.id = engEndRun n (u.modEng o.id f) o.id
      let last := if o.ending = 1 ∧ o.kind = 1 ∧ o.peerLost = true then 26 else if o.ending = 1 ∧ o.refused = true then 11 else o.ending
      (o.endStep = 1 → o.out = [] → o.obuf = [] → acked → goes s fun x => { x with obuf := [], out := [], ending := last, endStep := 2 }) ∧
      (∀ u b, o.endStep = 2 →
        let v := s.modEng o.id fun x => { x with ending := last }
        let p := { o with ending := last }
        wrRange v (v.engAcc p) p.record.1 p.record.2 = (u, .ok b) → goes u fun x => { x with page := none, failed := false, endStep := 3 }) ∧
      (o.endStep = 3 → acked → goes s fun x => { x with endStep := 4 }) ∧
      (o.endStep = 4 → o.caddr = 0 ∨ o.caddr % 8 ≠ 0 → goes s fun x => { x with endStep := 5 }) ∧
      (∀ u b, o.endStep = 4 → o.caddr ≠ 0 → o.caddr % 8 = 0 → wrRange s (s.engAcc o) o.caddr (natBytes 8 o.cval) = (u, .ok b) →
        goes u fun x => { x with page := none, failed := false, endStep := 5 }) ∧
      (o.endStep = 5 → acked → engEndRun (n + 1) s o.id = engFinish s o o.ending)) ∧
    (∀ (org seq flr die cid frm dir blk : Nat) (data : List (BitVec 8)) (hdr : List Nat),
      let m : ColMsg := { die := die, cid := cid, frm := frm, dir := dir, blk := blk, data := data, hdr := hdr }
      let arrive (stomped : Bool) : Res := exec (.collectivePacketArrival ⟨org, seq, flr⟩ die cid ⟨frm, dir⟩ blk ⟨data, stomped⟩ hdr) s
      let f := s.filters.get {} org
      let u := sendAnswer (noteSeen s org seq 0 0) org s.kdev seq true 0 []
      arrive true = .next s ∧ (seq < max f.flr flr → arrive false = .next (raiseFloor s org flr)) ∧
      (flr ≤ f.flr → f.flr ≤ seq → (f.seen.find seq).isSome = true → arrive false = .next (sendAnswer s org s.kdev seq true 0 [])) ∧
      (flr ≤ f.flr → f.flr ≤ seq → f.seen.find seq = none →
        ((∀ o ∈ s.engOps, m.isFor o = false) → u.lateNotice m = none →
          (∃ o ∈ s.engOps, o.kind = 1 ∧ o.accepted = false ∧ o.status = 0 ∧ dieOf o.core = die) → arrive false = .next { u with inbox := s.inbox ++ [m] }) ∧
        (∀ o, s.engOps.find? (fun o => m.isFor o) = some o →
          let becomes (g : EngOp → EngOp) : Prop := arrive false = .next (u.modEng o.id g)
          (hdr = o.header →
            ((dir = 0 ∧ frm ∈ o.children ∧ o.ckind ≠ 3 ∧ (o.ckind = 2 → o.isRoot = true)) ∨ (dir = 1 ∧ o.isRoot = false ∧ frm = o.parent)) →
            becomes fun o => { o with got := o.got ++ [m] }) ∧
          (hdr = o.agree → dir = 1 → o.isRoot = false → frm = o.parent → o.met = false → o.children = [] → becomes fun o => { o with met := true }) ∧
          (hdr = [26] → o.waitsOn frm = true → becomes fun o => { o with peerLost := true }) ∧
          (hdr = [26] → frm ∉ o.children → o.isRoot = true ∨ frm ≠ o.parent → becomes fun o => { o with mismatch := true }) ∧
          (hdr = [] → becomes fun o => { o with mismatch := true, knows := o.knows ++ [frm] }) ∧
          (hdr ≠ [26] → hdr ≠ [] → hdr ≠ o.agree → hdr ≠ o.header → becomes fun o => { o with mismatch := true })))) ∧
    ∀ (o : EngOp) (st : Nat), let t := engFinish s o st
      (∃ p ∈ t.engOps, p.id = o.id) ∧ ∀ p ∈ t.engOps, p.id = o.id → p.status = st ∧ p.seq = o.seq ∧ p.ibuf = [] ∧ p.obuf = []

/-- R305 to R313, R316, R422: a request is served at its home as its window permits, once; an answer retires what waits for it; a timeout sends the
request again by the other way, four times in all, and then loses it; a relay forwards to its direct port; a multicast packet goes on and is
delivered once; what is stomped is discarded. That an address at or beyond the end of the device's memory is refused, or discarded, is the model's
choice (log entry 88). -/
def Obligations.FabricEventsServeAndAnswer : Prop :=
  ∀ (s : State) (peer seq flr win off : Nat),
    let w := s.windows.get 0 (16 * peer + win)
    let a := winBase w + off
    let f := s.filters.get {} peer
    (∀ n, (winOk w = true → off < 2 ^ fld w 45 40 → a < dpaLimit → w.getLsbD 1 = true →
        (∀ x ∈ linesOf a n, s.snoopNeeded x false = false ∧ s.lineClass x = 0) →
        exec (.fabricRequestArrival peer seq flr 0 win off n 0 0 0 ⟨[], false⟩) s =
          .next (Claims.response ((linesOf a n).foldl (fun s x => expose s none x) s) peer s.kdev seq 0 0 (s.bytes a n))) ∧
      (winOk w = false ∨ 2 ^ fld w 45 40 ≤ off ∨ dpaLimit ≤ a ∨ w.getLsbD 1 = false →
        exec (.fabricRequestArrival peer seq flr 0 win off n 0 0 0 ⟨[], false⟩) s = .next (Claims.response s peer s.kdev seq 0 3 []))) ∧
    (∀ kind n d aop c bs, exec (.fabricRequestArrival peer seq flr kind win off n d aop c ⟨bs, true⟩) s = .next s) ∧
    (∀ vs, winOk w = true → off < 2 ^ fld w 45 40 → a < dpaLimit → flr ≤ f.flr →
      let r := exec (.fabricRequestArrival peer seq flr 1 win off 128 0 0 0 ⟨spread off vs, false⟩) s
      (∀ st v, f.seen.find seq = some (st, v) → f.flr ≤ seq → r = .next (Claims.response s peer s.kdev seq 1 st (natBytes 8 v.toNat))) ∧
      (seq < f.flr → r = .next s) ∧
      (f.seen.find seq = none → f.flr ≤ seq → Claims.NotInService s peer seq → peer ≠ s.kdev → w.getLsbD 2 = true →
        Claims.OneGoodLine s a vs.length →
        ∃ t, r = .next t ∧ Claims.Stored s t a vs ∧ (t.filters.get {} peer).seen.find seq = some (0, 0) ∧
          t.sent = s.sent ++ [{ kind := "response", dst := peer, args := [s.kdev, seq, 1, 0] }])) ∧
    (∀ tg r, s.reqAt peer seq tg = some r →
      ∀ frm, let gets (st : Nat) (data : List (BitVec 8)) : Res := exec (.fabricResponseArrival peer ⟨seq, tg⟩ st ⟨⟨data, false⟩, frm⟩) s
      (∀ st data, exec (.fabricResponseArrival peer ⟨seq, tg⟩ st ⟨⟨data, true⟩, frm⟩) s = .next s) ∧
      (∀ st data, frm ∈ r.acked → gets st data = .next s) ∧
      (∀ st data, frm ∉ r.acked → 1 < r.acks → gets st data = .next (ackFab s peer seq frm)) ∧
      (frm ∉ r.acked → r.acks ≤ 1 →
        (∀ data, r.who = none → r.dst = none → r.eng = 0 → gets 0 data = .next (dropReq s r)) ∧
        (∀ data q, r.who = some q → gets 0 data = .next (giveAnswer (dropReq s r) q (.peer r.peer r.off) 0 data)) ∧
        (∀ data g va, r.who = none → r.dst = none → r.kind = 1 → r.eng = 0 → r.writers = [(g, va)] →
          gets 3 data = .next (loseWrite (dropReq s r) g .perm va peer)) ∧
        (∀ data d, r.who = none → r.dst = some d → r.kind = 0 → r.cmp = 0 → r.acq = 0 → r.unif = false → (s.group d.group).ended = false →
          ((s.group d.group).lane d.lane).st = .blocked .remote → ((s.group d.group).lane d.lane).pc = r.pc →
          gets 0 data = .next (land ((dropReq s r).modGroup d.group fun g => (g.orFlags r.fl).modLane d.lane fun l =>
            Claims.answered l r.pc r.ext) d
              (bytesNat (data.take r.size))))) ∧
      (r.sends < 4 → peer < 100 → s.otherPath peer r.path ≠ 0 →
        let p := { r with sends := r.sends + 1, path := s.otherPath peer r.path }
        exec (.transactionTimeout peer ⟨seq, tg⟩) s = .next { s with
          fabReqs := s.fabReqs.map fun x => if x.named peer seq tg then p else x, sent := s.sent ++ s.packets p }) ∧
      (∀ g va, 4 ≤ r.sends → r.who = none → r.dst = none → r.kind = 1 → r.eng = 0 → r.writers = [(g, va)] → (∀ l ∈ s.launches, l.e.gdom = 0) →
        exec (.transactionTimeout peer ⟨seq, tg⟩) s = .next (loseWrite (dropReq (logged s [0x313, peer, r.group, r.va]) r) g .poison va peer))) ∧
    (∀ dst hdrErr late body,
      (s.path dst = 1 → hdrErr = false ∨ late = true → exec (.relayForward peer dst ⟨hdrErr, late, body⟩) s = .next { s with sent := s.sent ++
        [{ kind := "relayed", dst := dst, args := [peer, if hdrErr || late then 1 else 0], bytes := body }] }) ∧
      ((s.path dst ≠ 1 ∨ (hdrErr = true ∧ late = false)) → exec (.relayForward peer dst ⟨hdrErr, late, body⟩) s = .next s)) ∧
    (∀ port, (port ∉ s.links → exec (.linkStateChange port true) s = .next { s with links := s.links ++ [port] }) ∧
      exec (.linkStateChange port false) s = .next { s with links := s.links.filter fun p => p != port }) ∧
    ∀ grp hop vs, let e := s.mcast.get 0 grp
      let x := s.filters.get {} (mcFilter peer grp)
      let bs := spread off vs
      exec (.multicastDelivery grp ⟨peer, seq, flr⟩ hop off bs true) s = .next s ∧
      (mcValid e = false → exec (.multicastDelivery grp ⟨peer, seq, flr⟩ hop off bs false) s = .next s) ∧
      (mcValid e = true → e.getLsbD 15 = false → hop < 4 →
        exec (.multicastDelivery grp ⟨peer, seq, flr⟩ hop off bs false) s = .next { s with sent := s.sent ++ (mcPorts e).map fun p =>
          { kind := "multicast", dst := 200 + p, args := [grp, peer, seq, flr, hop + 1, off] ++ bs.map (fun b => b.1), bytes := bs.map fun b => b.2 } }) ∧
      (mcValid e = true → e.getLsbD 15 = true → off < mcSize e → mcBase e + off < dpaLimit → flr ≤ x.flr → x.seen.find seq = none → x.flr ≤ seq →
        Claims.NotInService s (mcFilter peer grp) seq → Claims.OneGoodLine s (mcBase e + off) vs.length →
        ∃ t, exec (.multicastDelivery grp ⟨peer, seq, flr⟩ hop off bs false) s = .next t ∧ Claims.Stored s t (mcBase e + off) vs ∧
          (t.filters.get {} (mcFilter peer grp)).seen.find seq = some (0, 0)) ∧
      (mcValid e = true → e.getLsbD 15 = true → mcSize e ≤ off ∨ dpaLimit ≤ mcBase e + off → flr ≤ x.flr → x.seen.find seq = none → x.flr ≤ seq →
        Claims.NotInService s (mcFilter peer grp) seq →
        ∃ t, exec (.multicastDelivery grp ⟨peer, seq, flr⟩ hop off bs false) s = .next t ∧ t.mem = s.mem ∧ t.mcDiscards = s.mcDiscards + 1)

/-- R311, R391, R395, R396: a coordination message acts once and is answered; the first device notes acceptances and readiness, and lets a gang go
when every device is ready; a release withdraws what is reserved; swaps, cancels and departures of a spanning gang act on its members here. What is
said of a launch that is not accepted yet is kept for its acceptance, by the model's choice (log entry 18). -/
def Obligations.SpanningGangEventsCoordinateDevices : Prop :=
  ∀ (s : State) (org seq flr gkey g : Nat),
    let f := s.filters.get {} org
    let ans (t : State) : State := sendAnswer (noteSeen t org seq 0 0) org s.kdev seq true 0 []
    flr ≤ f.flr →
    (∀ i ∈ [Instr.ready ⟨org, seq, flr⟩ gkey g, .go ⟨⟨org, seq, flr⟩, gkey⟩ g, .release ⟨⟨org, seq, flr⟩, gkey⟩ g,
        .gangSwapRequest ⟨⟨org, seq, flr⟩, gkey⟩ g,
        .gangSwapReply ⟨org, seq, flr⟩ gkey g, .gangCancelMessage ⟨⟨org, seq, flr⟩, gkey⟩, .memberDepartedReport ⟨⟨org, seq, flr⟩, gkey⟩ g],
      (seq < f.flr → exec i s = .next s) ∧
      ∀ st v, f.flr ≤ seq → f.seen.find seq = some (st, v) → exec i s = .next (sendAnswer s org s.kdev seq true st (natBytes 8 v.toNat))) ∧
    (f.flr ≤ seq → f.seen.find seq = none → Claims.NotInService s org seq → org ≠ s.kdev →
      (∀ nteams gang gdom prio, let t : State := { s with accepts := s.accepts ++ [[org, gkey, nteams, gang, gdom, prio]] }
        let r := exec (.accept ⟨org, seq, flr⟩ gkey nteams gang gdom prio) s
        (s.spanLaunch gkey = none → r = .next (ans t)) ∧
        ∀ l, s.spanLaunch gkey = some l →
          let e := (s.launch l).e
          let same : Prop := nteams = e.nteams ∧ gang = e.gang ∧ gdom = e.gdom ∧ prio = e.prio
          (same → r = .next (ans (tellAccepted t l))) ∧ (¬same → r = .next (ans (killLaunch (tellMismatch t e) l 7))) ∧
          (e.devs.headD 0 = s.kdev → (∀ d ∈ e.devs, ∃ a ∈ t.accepts, a.getD 0 0 = d ∧ a.getD 1 0 = gkey) →
            (tellAccepted t l).allAccepted l = true)) ∧
      (s.spanGang gkey g = none → [org, gkey, g] ∉ s.readies →
        exec (.ready ⟨org, seq, flr⟩ gkey g) s = .next (ans { s with readies := s.readies ++ [[org, gkey, g]] })) ∧
      (∀ k, s.spanGang gkey g = some k →
        let devs := (s.launch (s.gangs.getD k {}).launch).e.devs
        let ms := (s.members k).filter fun t => (s.team t).st == .reserved
        (devs.headD 0 = s.kdev → (∀ d ∈ devs, d = org ∨ [d, gkey, g] ∈ s.readies) →
          exec (.ready ⟨org, seq, flr⟩ gkey g) s = .next (ans (goGang
            (sendMsgs { s with readies := s.readies.filter fun r => r.drop 1 != [gkey, g] } 23 (devs.drop 1) [gkey, g]) gkey g))) ∧
        (ms ≠ [] → exec (.go ⟨⟨org, seq, flr⟩, gkey⟩ g) s = .next (ans ((ms.foldl (fun s t => s.modTeam t fun tm => { tm with st := .resident }) s).modGang k
          fun x => { x with go := true, parked := false }))) ∧
        (ms = [] → exec (.go ⟨⟨org, seq, flr⟩, gkey⟩ g) s = .next (ans s)) ∧
        (∀ l, s.spanLaunch gkey = some l →
          let first : Prop := (s.launch l).e.devs.headD 0 = s.kdev
          let gangs := (s.launch l).e.nteams / max (s.launch l).e.gang 1
          (first → exec (.release ⟨⟨org, seq, flr⟩, gkey⟩ g) s = .next (ans { s with readies := s.readies.filter fun r => r != [org, gkey, g] })) ∧
          (¬first → g < gangs → ∃ t, exec (.release ⟨⟨org, seq, flr⟩, gkey⟩ g) s = .next t ∧ [s.kdev, gkey, g] ∉ t.readies ∧
            ∀ m ∈ ms, (s.team m).image = false → (t.team m).st = .pending ∧ (t.team m).groups = []) ∧
          (¬first → gangs ≤ g → exec (.release ⟨⟨org, seq, flr⟩, gkey⟩ g) s = .next (ans (killLaunch s l 7)))) ∧
        (devs.headD 0 ≠ s.kdev → (gkey, g) ∉ s.swapReqs → (s.gangs.getD k {}).parked = false →
          let noted := { s with swapReqs := s.swapReqs ++ [(gkey, g)] }.modGang k fun x => { x with swapReplies := [] }
          let replies (u : State) : State := ans (sendMsg { u with swapReqs := u.swapReqs.erase (gkey, g) } 26 (devs.headD 0) [gkey, g])
          let here := (s.members k).filter fun t => (s.team t).st == .resident
          (here = [] → exec (.gangSwapRequest ⟨⟨org, seq, flr⟩, gkey⟩ g) s = .next (replies noted)) ∧
          ∀ t r, here = t :: r →
            (noted.maySwapOut (noted.unit t) = false → exec (.gangSwapRequest ⟨⟨org, seq, flr⟩, gkey⟩ g) s = .next (ans noted)) ∧
            (noted.maySwapOut (noted.unit t) = true →
              exec (.gangSwapRequest ⟨⟨org, seq, flr⟩, gkey⟩ g) s = .next (replies (swapOutUnit noted t)))) ∧
        (org ∉ (s.gangs.getD k {}).swapReplies → exec (.gangSwapReply ⟨org, seq, flr⟩ gkey g) s = .next (ans (s.modGang k fun x =>
          { x with swapReplies := x.swapReplies ++ [org] })))) ∧
      (∀ l, s.spanLaunch gkey = some l →
        exec (.gangCancelMessage ⟨⟨org, seq, flr⟩, gkey⟩) s = .next (ans (cancelTree false 5 s (s.launch l).e.lcnt))) ∧
      (s.lastSpan gkey = none →
        ((gkey, 0x13) ∉ s.early →
          exec (.gangCancelMessage ⟨⟨org, seq, flr⟩, gkey⟩) s = .next (ans { s with early := s.early ++ [(gkey, 0x13)] })) ∧
        ((gkey, 7) ∉ s.early → exec (.release ⟨⟨org, seq, flr⟩, gkey⟩ (2 ^ 24)) s =
          .next (ans { s with readies := s.readies.filter (fun r => r != [org, gkey, 2 ^ 24]), early := s.early ++ [(gkey, 7)] }))) ∧
      ∀ l k m, s.spanLaunch gkey = some l → s.spanGang gkey (m / max (s.launch l).e.gang 1) = some k →
        ∃ t, exec (.memberDepartedReport ⟨⟨org, seq, flr⟩, gkey⟩ m) s = .next t ∧ m % max (s.launch l).e.gang 1 ∈ (t.gangs.getD k {}).gone)

/-! ## Events of the host, of recovery and of firmware -/

namespace Sys2Proof.Claims

/-- A packet to the host. -/
def toHost (s : State) (kind : String) (args : List Nat) (bytes : List Byte) : State :=
  { s with sent := s.sent ++ [{ kind := kind, dst := 255, args := args, bytes := bytes }] }

/-- The `k`-th request to the host has been answered. -/
def hostTook (s : State) (k : Nat) : State := { s with hostReqs := s.hostReqs.eraseIdx k }



/-- Nothing bars a checkpoint (R485). -/
def Quiet (s : State) : Prop :=
  s.ckptRun = none ∧ (∀ q ∈ s.queues, q.2.en = false) ∧ (∀ t ∈ s.teams, t.isSup = true ∨ t.st = .done) ∧ (∀ o ∈ s.engOps, o.status ≠ 0) ∧
    ∀ c ∈ s.clusters, c.2.mx.resv = []

/-- The reply to a command on the sideband (R494). -/
def said (s : State) (code : Nat) (fields : List Nat) (bytes : List Byte) : State :=
  { s with firm := { s.firm with turns := s.firm.turns + 1
                                 replies := s.firm.replies ++ [{ code := code, fields := fields, bytes := bytes }] } }

/-- Measurement 5 is extended by a loaded table, of which it takes kind and fields (R426). -/
def extended5 (s : State) (v : List Nat) : State :=
  { s with firm := { s.firm with extended := s.firm.extended ++ [.table v] } }

/-- Bits 47:0 of a GET_FAILREC record (R493). -/
def failBits (f : Firm) : Nat :=
  f.failStage % 16 + bit01 f.failRom * 2 ^ 4 + f.failCode % 256 * 2 ^ 8 + f.failDie % 4 * 2 ^ 16 + f.failUnit % 256 * 2 ^ 24

/-- The image that power-on tries first, and the other: what the boot ROM finds of each (R425, R498). -/
def firstImage (f : Firm) (r : PowerReport) : Nat := if f.prefersB then r.imageB else r.imageA
def secondImage (f : Firm) (r : PowerReport) : Nat := if f.prefersB then r.imageA else r.imageB

/-- TOKENS of a ring control word as it acts (R352). -/
def tokens (n : Nat) : Nat := if n % 32 = 0 ∨ 24 < n % 32 then 24 else n % 32

/-- What stage 6 loads, in order, as measurement 5 takes it (R426, R490). -/
def tablesOf (r : PowerReport) : List Measured :=
  (r.routes.filter fun x => x.1 < 16).map (fun x => .table [1, x.1, x.2.toNat]) ++
    (r.mcasts.filter fun x => x.1 < 64).map (fun x => .table [2, x.1, x.2.1.toNat]) ++
    (r.trees.filter fun x => x.1 < 256).map (fun x => .table [3, x.1, x.2.toNat]) ++
    (r.windows.filter fun x => x.1 < 16 && x.2.1 < 16).map (fun x => .table [4, x.1, x.2.1, x.2.2.toNat]) ++
    (List.range 4).map fun d => .table [5, d, tokens (r.rings.getD d (24, 0)).1, (r.rings.getD d (24, 0)).2 % 8192]

end Sys2Proof.Claims

/-- R322 to R324, R442: a host access to a good line of its window is performed at its home and answered; a snoop response ends the host's hold of a line; an owned
line goes back; the host's answer lands, or traps when it is poisoned; a reply doorbell brings its word to the lane that called, or is counted. -/
def Obligations.HostAccessesAndAnswers : Prop :=
  ∀ (s : State) (a k : Nat),
    (a < s.hdm * 2 ^ 30 → s.filterFull (lineOf a) = none → s.lineClass a = 0 → s.recalWaits (lineOf a) = false → ∀ own, exec (.hostMemAccess a false [] own) s =
      .next (Claims.toHost (hostTakes (expose s none a) (lineOf a) own) "hostData" [a, 0] (s.bytes (lineOf a) 128))) ∧
    (∀ wr bs own, s.hdm * 2 ^ 30 ≤ a → exec (.hostMemAccess a wr bs own) s = .next s) ∧
    (∀ vs, a + vs.length ≤ s.hdm * 2 ^ 30 → Claims.OneGoodLine s a vs.length → ∃ t, exec (.hostMemAccess a true (spread a vs) false) s = .next t ∧ Claims.Stored s t a vs ∧
      t.groups = s.groups) ∧
    (∀ vs, vs.length ≤ 128 → 0 < vs.length → s.lineClass a = 0 → ∃ t, exec (.backInvalidateResponse a (spread (lineOf a) vs)) s = .next t ∧
      Claims.Stored s t (lineOf a) vs ∧ t.hostLines.find (lineOf a) = none ∧ lineOf a ∉ t.hostOrder) ∧
    (s.ownedLine (lineOf a) = none → exec (.hostSnoop a) s = .next s) ∧
    (∀ b, s.ownedLine (lineOf a) = some b → exec (.hostSnoop a) s =
      .next (Claims.toHost { s with owned := s.owned.filter fun x => x.1 != lineOf a } "snoopResponse" [lineOf a] b)) ∧
    (∀ (r : HostReq) (data : List (BitVec 8)), s.hostReqs[k]? = some r →
      let gets (poison : Bool) : Res := exec (.cxlDataResponse k data poison) s
      let took := Claims.hostTook s k
      (r.sent = false → gets false = .next s ∧ gets true = .next s) ∧
      (r.sent = true →
        (∀ q, r.who = some q → r.kind ≠ 5 →
          gets false = .next (giveAnswer took q (.host (lineOf r.addr)) 0 data) ∧ gets true = .next (giveAnswer took q (.host (lineOf r.addr)) 1 data)) ∧
        (r.who = none → r.kind = 1 → r.tso = false → r.eng = 0 → gets false = .next took) ∧
        (∀ d, r.who = none → r.dst = some d → r.cmp = 0 → r.acq = 0 → r.unif = false → (s.group d.group).ended = false →
          ((s.group d.group).lane d.lane).st = .blocked .remote → ((s.group d.group).lane d.lane).pc = r.pc →
          let back (t : State) (v : Nat) : Res :=
            .next (land (t.modGroup d.group fun g => g.modLane d.lane fun l => Claims.answered l r.pc r.ext) d v)
          (r.kind = 0 → gets false = back took (bytesNat ((((s.ownedLine (lineOf r.addr)).getD data).drop (r.addr % 128)).take r.size))) ∧
          (r.kind = 2 ∨ r.kind = 3 →
            let q := hostRmw (takeOwned took (lineOf r.addr) data) r.addr (8 * r.size) (rmwFun r.kind r.aop (8 * r.size) r.data.toNat r.cmp.toNat)
            gets false = back q.1 q.2) ∧
          (r.kind = 0 ∨ r.kind = 2 ∨ r.kind = 3 → (s.group d.group).priv = .user → d.lane < (s.group d.group).lanes.length →
            ∃ t, gets true = .next t ∧ ((t.group d.group).lane d.lane).st = .parked)))) ∧
    ∀ ctx,
      (s.mailPending ctx a = false → (ctx, a) ∉ s.doorbells → s.mailAt ctx a = none → exec (.gcallReply ctx a) s = .next { s with bells := s.bells + 1 }) ∧
      (s.mailPending ctx a = true ∨ (ctx, a) ∈ s.doorbells → exec (.gcallReply ctx a) s = .next { s with bells := s.bells + 1 }) ∧
      ∀ t m i sl p tso, s.mailPending ctx a = false → (ctx, a) ∉ s.doorbells → s.mailAt ctx a = some (t, m) → m.dst = [(i, sl)] →
        s.trans (s.team t).core ctx a 0 false = (s, .ok (.dpa p) tso) → (∀ l ∈ linesOf p 320, s.snoopNeeded l false = false) →
        s.lineClass (p + 64 + 4 * i) = 0 →
        let g := s.group m.group
        g.ended = false → i < g.lanes.length → (g.lane i).isExited = false → (∀ n, sl = .stack n → (g.lane i).rb ≤ n ∧ n < (g.lane i).rb + g.depth) → m.group < s.groups.length →
        ∃ u, exec (.gcallReply ctx a) s = .next u ∧ (∀ x ∈ (u.team t).mail, x.addr ≠ a) ∧
          (u.group m.group).lane i = ((g.lane i).put g.depth sl (BitVec.ofNat 32 (bytesNat (s.bytes (p + 64 + 4 * i) 4)))).fill sl

/-- R219, R324, R333, R336, R340, R404, R405, R432, R433, R435, R449, R484, R485: the driver's writes set queues, cancel counters, enable and tear down
contexts, move memory by checkpoints, and set the fields of a core and of a cluster that they name. -/
def Obligations.HostRegisterWritesAct : Prop :=
  ∀ (s : State) (ctx q c cl core die : Nat) (v : UWord),
    (∀ prod, exec (.queueProducerWrite ctx q prod) s = .next (s.modQueue (16 * ctx + q) fun x => { x with prod := prod % 2 ^ 64 })) ∧
    exec (.queueEnable ctx q) s = .next (s.modQueue (16 * ctx + q) fun x =>
      if x.en = true then x else { x with en := true, halt := false, errIdx := 0, errCode := 0 }) ∧
    (c < 65536 → (s.counter c).ctx = ctx → exec (.cancelRegisterWrite ctx c) s = .next (cancel s c)) ∧
    ((s.counter c).ctx ≠ ctx → exec (.cancelRegisterWrite ctx c) s = .next s) ∧
    (∀ desc : List UWord, ctx < 1024 →
      let on : Prop := (desc.getD 0 0).getLsbD 0 = true
      let x := s.context ctx
      (x.valid = true → on → exec (.contextDescriptorWrite ctx desc) s = .next s) ∧
      (x.valid = true → ¬on → ∃ t, exec (.contextDescriptorWrite ctx desc) s = .next t ∧ (t.context ctx).teardown = true ∧
        (t.context ctx).valid = false ∧ (∀ r ∈ t.pageReqs, r.ctx ≠ ctx) ∧ t.mem = s.mem) ∧
      (x.valid = false → x.teardown = false → on → descReserved desc = false → descMisaligned desc = false →
        ((desc.getD 0 0).getLsbD 2 = true → (desc.getD 0 0).getLsbD 1 = true) →
        ((∀ y < 1024, y ≠ ctx → (s.context y).valid = true → (s.context y).d 0 31 12 ≠ fld (desc.getD 0 0) 31 12) →
          exec (.contextDescriptorWrite ctx desc) s = .next (s.modContext ctx fun x => { x with desc := descStored desc })) ∧
        ∀ y < 1024, y ≠ ctx → (s.context y).valid = true → (s.context y).d 0 31 12 = fld (desc.getD 0 0) 31 12 →
          ∃ t, exec (.contextDescriptorWrite ctx desc) s = .next t ∧ (t.context ctx).valid = false)) ∧
    exec (.registerWrite .ckptbase v) s = .next { s with ckptBase := v &&& ~~~ (0xFFF : UWord) } ∧
    (v.getLsbD 0 = false → exec (.registerWrite .ckptctl v) s = .next { s with ckptDir := v.getLsbD 1 }) ∧
    (∀ img tags : List (Nat × Byte), let base := s.ckptBase.toNat
      let all : List (Nat × Byte) := img ++ tags.map fun x => (1020 * 2 ^ 30 + x.1, x.2)
      let held := all.foldl (fun m x => AMap.set m x.1 x.2) []
      (v.getLsbD 0 = true → v.getLsbD 1 = false → exec (.checkpointHostToDevice v img tags) s = .next s ∧
        (Claims.Quiet s → exec (.checkpointDeviceToHost v) s =
          .next { s with ckptDir := false, ckptErr := false, ckptRun := some (base, false), ckptImage := none }) ∧
        (¬Claims.Quiet s → exec (.checkpointDeviceToHost v) s = .next { s with ckptDir := false, ckptErr := true })) ∧
      (v.getLsbD 0 = true → v.getLsbD 1 = true → exec (.checkpointDeviceToHost v) s = .next s ∧
        (Claims.Quiet s → exec (.checkpointHostToDevice v img tags) s =
          .next { s with ckptDir := true, ckptErr := false, ckptRun := some (base, true), ckptImage := some (base, held) }) ∧
        (¬Claims.Quiet s → exec (.checkpointHostToDevice v img tags) s = .next { s with ckptDir := true, ckptErr := true }))) ∧
    (s.ckptRun = none → exec .checkpointTransferDone s = .next s) ∧
    (∀ b, s.ckptRun = some (b, false) → (∀ h ∈ s.hostLines, h.2 = false) →
      exec .checkpointTransferDone s = .next { s with ckptImage := some (b, s.image), draw := s.draw + 1, ckptRun := none }) ∧
    (∀ b c m, s.ckptRun = some (b, true) → s.ckptImage = some (c, m) → s.hostLines = [] →
      exec .checkpointTransferDone s = .next { restoreImage s m with ckptRun := none }) ∧
    (∃ t, exec (.bankmodeWrite cl v) s = .next t ∧ ∀ b < 32,
      let w := v.toNat / 4 ^ b % 4
      (t.cluster cl).modes = (s.cluster cl).modes ∧
      (t.cluster cl).wanted.find b =
        if w = 3 then (s.cluster cl).wanted.find b else if w = (s.cluster cl).modes.get 0 b then none else some w) ∧
    (∀ t y x, (s.core core).loggia = some (t, y, x) → exec (.loggiaEvict core) s = .next ((s.modTeam t fun tm =>
      { tm with st := if tm.saved then .swapped else .pending, head := true }).modCore core fun c => { c with loggia := none })) ∧
    exec (.preemptreqWrite core) s = .next (s.modCore core fun c => { c with preemptReq := true }) ∧
    (∃ t, exec (.trapgrpWrite core v) s = .next t ∧ (t.core core).trapGrp = fld v 3 0 ∧ (t.core core).trapLane = fld v 13 8 ∧
      (t.core core).trapRec = fld v 21 16) ∧
    (∀ g, s.selGroup core = some g → (s.regSel core).2.2 = false → (s.core core).regKind = 0 →
      exec (.regvalWrite core v) s = .next (s.modGroup g fun g =>
        g.modLane (s.core core).trapLane fun l => l.wrOp g.depth (s.core core).regNum false v.toNat)) ∧
    exec (.mailboxRemoveCore die core) s = .next (s.modDie die fun d =>
      if d.boxBusy then { d with boxNext := d.boxNext ++ [core] } else { d with boxReq := 1, boxArg := core, boxBusy := true }) ∧
    ∀ req, 2 ≤ req → req ≤ 255 → exec (.mailboxUndefinedRequest die req) s =
      .next { s with firm := { s.firm with log := s.firm.log ++ [[s.firmCycles, 0x449, die, req]] } }

/-- R227, R445, R446, R473, R477 to R483, R496: errors of a line and of a launch; a rollback restores the units that its launch wrote and replays it; a
warm reset stops every group and empties the cores; a core leaves its cluster's place to a spare; a chunk of a scan ends or gives way. That a warm
reset keeps SCANEXP, and that a cluster that is removed leaves reset cores and banks, is the model's reading (log entries 52 and 87). -/
def Obligations.RecoveryEventsRestore : Prop :=
  ∀ (s : State) (l core die : Nat),
    (∀ line tag stored, tag < 16 →
      (11 ≤ tag → exec (.hbmUncorrectableError line tag stored) s = .next { s with tags := s.tags.set (lineOf line) tag }) ∧
      (tag < 11 → ∀ b, decodeLine tag (stored.take (32 * tagSectors tag) ++ List.replicate 128 0) = some b →
        ∃ t, exec (.hbmUncorrectableError line tag stored) s = .next t ∧ Claims.Stored s t (lineOf line) b ∧ t.lineClass line = 0 ∧
          t.groups = s.groups) ∧
      (tag < 11 → decodeLine tag (stored.take (32 * tagSectors tag) ++ List.replicate 128 0) = none →
        ∃ t, exec (.hbmUncorrectableError line tag stored) s = .next t ∧ t.lineClass line = 2 ∧
          Claims.Stored s t (lineOf line) ((stored.take (32 * tagSectors tag) ++ List.replicate 128 0).take 128))) ∧
    (∀ i ∈ [Instr.rollback l, .sramUncorrectableError l],
      ((s.launches.length ≤ l ∨ (s.launch l).finished = true) → exec i s = .next s) ∧
      (l < s.launches.length → (s.launch l).finished = false → (s.launch l).rolling = false → (s.launch l).accepted = true → s.ending l = false →
        ((s.launch l).e.snap = false → exec i s = .next (killLaunch s l 0x20)) ∧
        ((s.launch l).e.snap = true → (s.launch l).unprotected = true → s.unitCopies l = [] →
          exec i s = .next (killLaunch (restoreUnits s l) l 0x20)) ∧
        ((s.launch l).e.snap = true → (s.launch l).unprotected = false → ∃ t, exec i s = .next t ∧ (t.launch l).rolling = true))) ∧
    ((s.launch l).rolling = true → s.enginesOver l = true → s.writesOver l = true → s.rollCancelled l = false →
      s.unitCopies l = [] →
      ((s.launch l).unprotected = true → exec (.rollbackRestore l) s = .next (endCounter (restoreUnits s l) l 0x20)) ∧
      ((s.launch l).unprotected = false → (∀ sn ∈ (s.launch l).snaps, sn.exp = false) →
        exec (.rollbackRestore l) s = .next (replay (restoreUnits s l) l))) ∧
    (∀ (sn : Snap) (a : Nat), Memory.wf sn.bytes → (∀ c ∈ sn.bytes, unitOf c.1 = sn.unit) →
      (restoreUnit s sn).byte a = if unitOf a = sn.unit then AMap.get 0 sn.bytes a else s.byte a) ∧
    (∃ t, exec .warmReset s = .next t ∧ (∀ g ∈ t.groups, g.ended = true ∧ g.resident = false) ∧ (∀ c ∈ t.cores, c.2 = { scanexp := c.2.scanexp }) ∧ t.clusters = [] ∧
      t.caches = [] ∧ t.tlbs = [] ∧ t.stores = [] ∧ t.clock = 0 ∧ t.route = s.route ∧ t.links = s.links ∧
      ((∀ x ∈ s.launches, x.finished = true) → t.mem = s.mem ∧ t.tags = s.tags)) ∧
    ((s.die die).boxBusy = false → exec (.coreRemoval die) s = .next s) ∧
    (∀ p, let d := s.die die
      let cl := clusterOf d.boxArg
      let n := cl % 24
      d.boxBusy = true → d.boxReq = 1 → d.boxArg < 384 → dieOf d.boxArg = die → d.removeStep = 0 → d.map.get none n = some p →
      (∀ i < 4, let c := s.core (4 * cl + i); c.loggia = none ∧ c.red = [] ∧ c.wcb = []) →
      (∀ t ∈ s.teams, t.isSup = false → clusterOf t.core = cl → t.st ≠ .resident ∧ t.st ≠ .outgoing ∧ t.st ≠ .reserved) →
      ∃ t, exec (.coreRemoval die) s = .next t ∧ (t.die die).removeStep = 1 ∧ (t.die die).map = d.map ∧ (t.die die).boxBusy = true ∧
        (t.cluster cl).mx.b = none ∧ (t.cluster cl).modes = [] ∧ ∀ i < 4, t.core (4 * cl + i) = {}) ∧
    (let d := s.die die
      let n := clusterOf d.boxArg % 24
      d.boxBusy = true → d.boxReq = 1 →
      (∀ p, d.removeStep = 1 → d.map.get none n = some p → exec (.coreRemoval die) s = .next (s.modDie die fun d =>
        { d with failedCores := d.failedCores ++ [(p, d.boxArg % 4)], map := d.map.set n none, lost := d.lost.set n p, removeStep := 2 })) ∧
      (d.removeStep = 2 → dieOf d.boxArg = die → ∃ t, exec (.coreRemoval die) s = .next t ∧ (t.die die).map.get none n = d.spare ∧
        (t.die die).removeStep = 3 ∧ (d.spare = none → t.firm.degraded = true)) ∧
      (d.removeStep = 3 → ∃ t, exec (.coreRemoval die) s = .next t ∧ (t.die die).boxBusy = !d.boxNext.isEmpty ∧ (t.die die).removeStep = 0 ∧
        (t.die die).map = d.map)) ∧
    ∀ n g d, (s.core core).chunk = some n → (s.core core).chunkBy = some (g, d) → (s.group g).hold = .scan core → g < s.groups.length →
      let phys := ((s.die (dieOf core)).map.get none (core / 4 % 24)).getD 0 * 4 + core % 4
      let goes (t : State) (v : UWord) : Prop := t.group g = { (s.group g).setU d v with
        hold := .none, lanes := (s.group g).lanes.map fun l => if l.isExited then l else { l with pc := l.pc + 4, waited := 0 } }
      (∃ t, exec (.scanChunkComplete core) s = .next t ∧ (t.core core).next = n + 1 ∧ (t.core core).chunk = none ∧
        (t.core core).scansig = Config.scanFold phys n (s.core core).scansig s.draw ∧ goes t 0) ∧
      (s.urgent core = true → ∃ t, exec (.scanChunkAbort core) s = .next t ∧ (t.core core).chunk = none ∧
        (t.core core).next = (s.core core).next ∧ goes t (Claims.refusal 4)) ∧
      (s.urgent core = false → exec (.scanChunkAbort core) s = .next s)

/-- R309, R315, R317, R352, R422, R425, R426, R448, R490 to R495, R498 to R502: a power-on whose tests pass leaves a running device with the good clusters
mapped in order, and one that fails leaves the safe state with its record; thermal events change the ring; staging, recalibration and the
loading of tables act as the sideband says, and extend measurement 5. -/
def Obligations.FirmwareEventsServeTheDevice : Prop :=
  ∀ (s : State) (r : PowerReport) (die n g : Nat) (v : UWord) (img : ImageCheck),
    (Claims.firstImage s.firm r = 0 ∨ Claims.secondImage s.firm r = 0 →
      r.microcode = 0 → r.stage3.1 = 0 → r.stage4.1 = 0 → (∀ d < 4, 20 ≤ (goodOf r d).length) →
      ∃ t, exec (.powerOn r) s = .next t ∧ t.firm.safe = false ∧ t.firm.stage = 7 ∧ t.groups = [] ∧ t.launches = [] ∧ t.mem = [] ∧ t.kdev = r.kdev ∧
        t.links = r.portsUp ∧ t.interleave = r.interleave ∧ t.hdm = min r.hdm 1020 ∧ t.hostRanges = r.hostRanges ∧
        t.firm.runsB = (if Claims.firstImage s.firm r = 0 then s.firm.prefersB else !s.firm.prefersB) ∧
        t.firm.slotA = s.firm.slotA ∧ t.firm.slotB = s.firm.slotB ∧
        t.firm.extended = .table [0, r.interleave] :: Claims.tablesOf r ∧
        t.route = (r.routes.filter fun x => x.1 < 16).foldl (fun m x => AMap.set m x.1 (x.2 &&& 0x3FF)) [] ∧
        t.mcast = (r.mcasts.filter fun x => x.1 < 64).foldl (fun m x => AMap.set m x.1 (x.2.1 &&& 0x00FFFFFF3F1FFFFF)) [] ∧
        t.trees = (r.trees.filter fun x => x.1 < 256).foldl (fun m x => AMap.set m x.1 (x.2 &&& treeMask)) [] ∧
        t.windows = (r.windows.filter fun x => x.1 < 16 && x.2.1 < 16).foldl (fun m x => AMap.set m (16 * x.1 + x.2.1) (x.2.2 &&& 0x00003FFFFFFF000F)) [] ∧
        ∀ d < 4, (t.die d).tokens = Claims.tokens (r.rings.getD d (24, 0)).1 ∧ (t.die d).mingap = (r.rings.getD d (24, 0)).2 % 8192 ∧
          ∀ k < 24, (t.die d).map.get none k = (goodOf r d)[k]?) ∧
    (((Claims.firstImage s.firm r ≠ 0 ∧ Claims.secondImage s.firm r ≠ 0) ∨ r.microcode ≠ 0 ∨ r.stage3.1 ≠ 0 ∨ r.stage4.1 ≠ 0 ∨
        ∃ d < 4, (goodOf r d).length < 20) →
      ∃ t, exec (.powerOn r) s = .next t ∧ t.firm.safe = true ∧ t.firm.failCode ≠ 0 ∧ t.groups = [] ∧ t.dies = []) ∧
    exec (.thermalThrottle die) s = .next (s.modDie die fun d => if 6 < d.tokens then { d with tokens := d.tokens - 1, retire := d.retire + 1 } else d) ∧
    (∃ t, exec (.thermalRecovery die) s = .next t ∧ (t.die die).tokens = (s.die die).loadedTokens ∧ t.mem = s.mem ∧ t.groups = s.groups) ∧
    (∃ t, exec (.thermalShutdown die) s = .next t ∧ t.firm.safe = true ∧ t.firm.failCode = 10 ∧ t.firm.failDie = die ∧ t.groups = []) ∧
    exec .getState s = .next (Claims.said s 0 [s.firm.stage, bit01 s.firm.safe, bit01 s.firm.degraded, s.firmCycles] []) ∧
    (∃ b, exec .getFailrec s = .next (Claims.said s 0 [] b) ∧ b.length = 64 ∧ bytesNat (b.take 6) = Claims.failBits s.firm) ∧
    (∃ l, exec .getCoremap s = .next (Claims.said s 0 l []) ∧ l.length = 416) ∧
    (let part := (s.firm.log.drop s.firm.logAt).take 32
     exec .getLog s = .next (Claims.said { s with firm := { s.firm with logAt := s.firm.logAt + part.length } } 0 part.flatten [])) ∧
    (passes img = true → s.firm.runsB = false →
      exec (.stageImage img) s = .next (Claims.said { s with firm := { s.firm with slotB := some img.digest, prefersB := true } } 0 [] [])) ∧
    (passes img = true → s.firm.runsB = true →
      exec (.stageImage img) s = .next (Claims.said { s with firm := { s.firm with slotA := some img.digest, prefersB := false } } 0 [] [])) ∧
    (passes img = false → exec (.stageImage img) s = .next (Claims.said s 3 [] [])) ∧
    (s.firm.safe = true → exec (.stageMicrocode img) s = .next (Claims.said s 1 [] []) ∧ exec (.setTokens die n g) s = .next (Claims.said s 1 [] [])) ∧
    (s.firm.safe = false →
      (passes img = true → exec (.stageMicrocode img) s = .next (Claims.said { s with firm := { s.firm with
        microcode := some img.digest, extended := s.firm.extended ++ [.digest img.digest] } } 0 [] [])) ∧
      (die < 4 → ∃ t, exec (.setTokens die n g) s = .next t ∧ (t.die die).tokens = Claims.tokens n ∧
        (t.die die).loadedTokens = (t.die die).tokens ∧ (t.die die).mingap = g % 8192 ∧
        t.firm.extended = s.firm.extended ++ [.table [5, die, Claims.tokens n, g % 8192]]) ∧
      (s.firm.recal = none → n ≤ 15 → exec (.recal false n) s = .next (Claims.said { s with
        draw := s.draw + 1, firm := { s.firm with recal := some (false, n), recalPeers := [], recalDraw := s.draw } } 0 [] [])) ∧
      (s.firm.recal = none → n ≤ 14 → ∃ t, exec (.recal true n) s = .next t ∧ t.firm.recal = some (true, n) ∧
        ∀ p, fld (s.route.get 0 p) 3 0 = n → (t.route.get 0 p).getLsbD 4 = false) ∧
      ∀ x p, s.firm.recal = some x → exec (.recal p n) s = .next (Claims.said s 2 [] [])) ∧
    (∀ x, n ≤ 4 → s.firm.microcode = some x →
      exec (.microcodeSwitch n) s = .next { s with firm := { s.firm with running := s.firm.running.set n x } }) ∧
    (∀ k, s.firm.recal = some (false, k) → s.firm.recalPeers = [] →
      exec .recalComplete s = .next { s with firm := { s.firm with recal := none } }) ∧
    (∀ e : Word, n < 16 → exec (.routeTableLoad n e) s = .next (Claims.extended5 { s with route := s.route.set n (e &&& 0x3FF) } [1, n, e.toNat])) ∧
    (∀ ds, g < 64 → exec (.multicastEntryLoad g (v, ds)) s = .next (Claims.extended5
      { s with mcast := s.mcast.set g (v &&& 0x00FFFFFF3F1FFFFF), mcastDevs := s.mcastDevs.set g ds } [2, g, v.toNat])) ∧
    (∀ e, n < 256 → exec (.treeEntryLoad n e) s = .next (Claims.extended5 { s with trees := s.trees.set n (e &&& treeMask) } [3, n, e.toNat])) ∧
    (n < 16 → g < 16 → exec (.inboundWindowLoad n g v) s = .next (Claims.extended5 { s with
      windows := s.windows.set (16 * n + g) (v &&& 0x00003FFFFFFF000F) } [4, n, g, v.toNat]))

/-- R7, R333, R336, R338, R416, R485: a register with no row of its own takes its writable fields. R426, R427: the SPDM requests of slot 0 are answered, others
and unsupported ones with an error; the codes of the replies are the family's (log entry 9). -/
def Obligations.RegistersAndAttestationAnswer : Prop :=
  ∀ (s : State) (c q slot : Nat) (v : UWord) (nonce : BitVec 256),
    exec (.registerWrite (.qbase c q) v) s = .next (s.modQueue (16 * c + q) fun x => { x with base := v.toNat }) ∧
    exec (.registerWrite (.counterCaddr c) v) s = .next (s.modCounter c fun x => { x with caddr := v.toNat }) ∧
    exec (.registerWrite (.counterCval c) v) s = .next (s.modCounter c fun x => { x with cval := v }) ∧
    exec (.registerWrite (.counterLo c) v) s = .next (s.modCounter c fun x =>
      { x with target := v.toNat % 2 ^ 32, done := v.toNat / 2 ^ 32 }) ∧
    (5 ≤ v.toNat → v.toNat ≤ 100 → exec (.registerWrite .timeout v) s = .next { s with timeout := v.toNat }) ∧
    exec (.registerWrite .prAlloc v) s = .next { s with prAlloc := some (v.toNat % 2 ^ 32) } ∧
    exec .getVersion s = .next (Claims.said s 0x04 [0x13] []) ∧
    exec .getCapabilities s = .next (Claims.said s 0x61 [0x16] []) ∧
    exec (.negotiateAlgorithms true true) s = .next (Claims.said s 0x63 [0x80, 2] []) ∧
    exec .getDigests s = .next (Claims.said s 0x01 [1] (natBytes 48 Config.certDigest.toNat)) ∧
    exec (.getCertificate 0) s = .next (Claims.said s 0x02 [0] Config.certChain) ∧
    (slot ≠ 0 → exec (.getCertificate slot) s = .next (Claims.said s 0x7F [1] []) ∧ exec (.challenge slot nonce) s = .next (Claims.said s 0x7F [1] [])) ∧
    (let t := { s with firm := { s.firm with draws := s.firm.draws + 1 } }
     let sig := natBytes 96 (Config.spdmSignature s.firm.draws).toNat
     exec (.challenge 0 nonce) s = .next (Claims.said t 0x03 [0] (natBytes 48 Config.certDigest.toNat ++ natBytes 32 nonce.toNat ++ sig)) ∧
     ∀ i, 1 ≤ i → i ≤ 6 →
      exec (.getMeasurements i false) s = .next (Claims.said s 0x60 [i] (natBytes 48 (s.measured i).toNat)) ∧
      exec (.getMeasurements i true) s = .next (Claims.said t 0x60 [i] (natBytes 48 (s.measured i).toNat ++ sig))) ∧
    exec (.getMeasurements 0 false) s = .next (Claims.said s 0x60 [6] []) ∧
    (∀ code, exec (.spdmUnsupportedRequest (.spdm code)) s = .next (Claims.said s 0x7F [7, code] [])) ∧
    ∀ code, (code = 0 ∨ 8 < code) → exec (.spdmUnsupportedRequest (.command code)) s = .next (Claims.said s 1 [] [])

/-! ## The machine: fetch, decode, reset, frames, the invariant -/

namespace Sys2Proof.Claims

/-- The state in which the issue `i` runs. -/
def issuing (s : State) (i : Issue) (rest : List Issue) : State :=
  { s with issues := rest, cur := i.group, curPc := i.pc, curOld := i.old, curFused := i.fused }

/-- A lane of the issuing run has had its page request refused. -/
def noPage (s : State) (i : Issue) : Bool := ((s.group i.group).run i.pc).any fun l => ((s.group i.group).lane l).failed.isSome

/-- The words that read and write lane registers alone and set no flag. -/
def registerWords : List (LaneOp → Instr) :=
  intWords.map (fun p => p.1) ++ intUnary.map (fun p => p.1) ++ divisions.map (fun p => p.1) ++ shifts.map (fun p => p.1) ++
    [.imad, .popc, .clz, .brev, .bfxu, .bfxs, .bfi]

/-- The words that read and write uniform registers alone. -/
def uniformWords : List (UOp → Instr) :=
  kaluWords.map (fun p => p.1) ++ kaluiWords.map (fun p => p.1) ++ kaluiShifts.map (fun p => p.1) ++ [.klui, .kauipc]

/-- Registers other than those of an operand keep value and full/empty bit; so do predicates, window, FIFOs and pulls. -/
def SameButOperand (l l' : Lane) (depth d : Nat) (pair : Bool) : Prop :=
  (∀ n, Slot.glob n ∉ l.opSlots d pair → l'.globals.get 0 n = l.globals.get 0 n) ∧
    (∀ k, (∀ n, Slot.stack n ∈ l.opSlots d pair → n % depth ≠ k) → l'.slots.get 0 k = l.slots.get 0 k) ∧
    (∀ x, x ∉ l.opSlots d pair → l'.isEmpty x = l.isEmpty x) ∧
    l'.w = l.w ∧ l'.rb = l.rb ∧ l'.cdep = l.cdep ∧ l'.preds = l.preds ∧ l'.fifos = l.fifos ∧ l'.pulls = l.pulls

/-- Words written out from the encoding tables of R36, R41, R43, R46 to R50, with the instruction that each stands for. -/
def specWords : List (Nat × Nat × Instr) :=
  [(0x333051BA, 0x1421A001,
      .ffma { d := 12, a := 5, b := 6, g := 7, gn := false, s := false, x := .src 20 1 3 2 0 0 false false true }),
   (0x98322FFA, 0, .bru { d := 3, a := 4, b := 11, f := 1018 }), (0xD8000000, 0, .barSync { d := 0, a := 0, b := 0, f := 0 }),
   (0xEE000000, 0, .seed { d := 0, a := 0, b := 0, f := 0 }), (0xF8801000, 0, .rteSkip { d := 8, a := 0, b := 4, f := 0 })]

end Sys2Proof.Claims

/-- R33, R34, R63, R64, R344: the word at the issuing PC, with the word after it when bit 1 of a lane word is set, is decoded, and the step is
that instruction's; a word that no instruction has is ILLEGAL_ENCODING, before its extension is fetched when no extension could make it
legal; the fetched lines of the host count as used; a run that issues again after a wait reads its registers as before its marks; a word of a good line that no one else holds is the line's bytes; an
event of the agenda comes first. -/
def Obligations.StepRunsTheDecodedInstruction : Prop :=
  (∀ (s u : State) (i : Issue) (rest : List Issue) (w : Nat),
    s.agenda = [] → s.firm.safe = false → s.issues = i :: rest → s.live i = true →
    let t := Claims.issuing s i rest
    let long : Bool := decide (w < 2 ^ 31) && w.testBit 1
    fetchWord t i.group (t.codeVa i.group i.pc) (Claims.noPage t i) = (u, .word w) →
    (long = false →
      let u' := reissueRun (usedCode u i.group [u.codeVa i.group i.pc]) i.group i.pc
      (∀ x n, decode w 0 = .ok x n → Machine.step s = exec x u') ∧ ∀ e, decode w 0 = .bad e → Machine.step s = exec (.illegalEncoding w) u') ∧
    (long = true → (∀ y, ∃ e, decode w y = .bad e) → Machine.step s = exec (.illegalEncoding w) u) ∧
    ∀ v y, long = true → fetchWord u i.group (u.codeVa i.group (i.pc + 4)) (Claims.noPage t i) = (v, .word y) →
      let v' := reissueRun (usedCode v i.group [v.codeVa i.group i.pc, v.codeVa i.group (i.pc + 4)]) i.group i.pc
      (∀ x n, decode w y = .ok x n → Machine.step s = exec x v') ∧
      ∀ e z x n, decode w y = .bad e → decode w z = .ok x n → Machine.step s = exec (.illegalEncoding w) v') ∧
  (∀ (s : State) (g : Nat) (vas : List Nat), s.answers = [] → usedCode s g vas = s) ∧
  (∀ (s : State) (g : Nat) (pc : Word), let t := reissueRun s g pc
    ((∀ i ∈ (s.group g).run pc, ((s.group g).lane i).marked = []) → t = s) ∧ (∀ i ∈ (t.group g).run pc, ((t.group g).lane i).marked = []) ∧
    ∀ i ∈ (s.group g).run pc, ∀ x ∈ ((s.group g).lane i).marked, ((t.group g).lane i).isEmpty x = false) ∧
  (∀ (s : State) (g va a : Nat) (f tso : Bool), let core := (s.group g).core
    s.trans core (s.ctxOf (s.group g)) va 3 f = (s, .ok (.dpa a) tso) → a % 4 = 0 → s.lineClass a = 0 → s.snoopNeeded a false = false →
    (∀ st ∈ s.stores, st.core ≠ core) → (s.core core).red = [] →
    (∀ c ∈ s.caches, c.dpa = lineOf a → c.holder ≠ core ∧ c.holder ≠ ccHolder (clusterOf core)) →
    ∃ u, fetchWord s g va f = (u, .word (bytesNat (s.bytes a 4))) ∧ u.mem = s.mem ∧ u.groups = s.groups ∧ u.teams = s.teams) ∧
  ∀ (s : State) (e : Instr) (rest : List Instr), s.agenda = e :: rest → s.firm.safe = false → Machine.step s = exec e { s with agenda := rest }

/-- R12, R30, R217, R309, R312, R315, R317, R333, R338, R352, R404, R422, R490: right after reset nothing runs and memory reads 0; every queue, counter, context,
route, multicast, tree and window entry and every ring control has its reset value; logical cluster n is physical cluster n (log entry 23). -/
def Obligations.ResetLeavesTheResetValues : Prop :=
  let s := State.reset
  s.Ok ∧ (∀ a, s.byte a = 0 ∧ s.lineClass a = 0) ∧ s.agenda = [] ∧ s.groups = [] ∧ s.teams = [] ∧ s.launches = [] ∧ s.engOps = [] ∧ s.caches = [] ∧
  s.tlbs = [] ∧ s.stores = [] ∧ s.firm.safe = false ∧ s.firm.stage = 7 ∧ s.clock = 0 ∧ s.timeout = 20 ∧ s.prAlloc = none ∧
  (∀ k, (s.queue k).en = false ∧ (s.queue k).halt = false ∧ (s.queue k).prod = 0 ∧ (s.queue k).cons = 0) ∧
  (∀ c, (s.counter c).state = 0 ∧ (s.counter c).done = 0 ∧ (s.counter c).status = 0) ∧
  (∀ c, (s.context c).valid = false ∧ (s.context c).teardown = false) ∧
  (∀ n, s.route.get 0 n = 0 ∧ s.mcast.get 0 n = 0 ∧ s.trees.get 0 n = 0 ∧ s.windows.get 0 n = 0) ∧
  ∀ d < 4, (s.die d).tokens = 24 ∧ (s.die d).mingap = 0 ∧ ∀ n < 24, (s.die d).map.get none n = some n

/-- R22, R25, R123, R153: the frame. Whatever the outcome, a word on lane registers changes, in a user group, at most its destination and the
places and states of the run's lanes, and the trap records; a word on uniform registers at most its destination; no byte of memory, no flag and no
other group changes. A scratch store leaves every other byte as it was. The issuing run holds no marks, as after every step's reissueRun (see
StepRunsTheDecodedInstruction). -/
def Obligations.RegisterWordsChangeNothingElse : Prop :=
  ∀ (s t : State), s.me.priv = .user → (∀ i ∈ s.myRun, (s.me.lane i).marked = []) →
    (∀ p ∈ Claims.registerWords, ∀ o : LaneOp, exec (p o) s = .next t →
      t = { s with groups := t.groups, stamp := t.stamp } ∧ (∀ k, k ≠ s.cur → t.group k = s.group k) ∧
      t.me = { s.me with lanes := t.me.lanes, records := t.me.records, hold := t.me.hold } ∧
      (∀ i, i ∉ s.myRun → t.me.lane i = s.me.lane i) ∧
      ∀ i, Claims.SameButOperand (s.me.lane i) (t.me.lane i) s.me.depth o.d o.s) ∧
    (∀ p ∈ Claims.uniformWords, ∀ o : UOp, exec (p o) s = .next t →
      t = { s with groups := t.groups, stamp := t.stamp } ∧ (∀ k, k ≠ s.cur → t.group k = s.group k) ∧
      t.me = { s.me with lanes := t.me.lanes, records := t.me.records, hold := t.me.hold, uregs := t.me.uregs, failed := t.me.failed } ∧
      (∀ n, n ≠ o.d → t.me.uregs.get 0 n = s.me.uregs.get 0 n) ∧
      ∀ i, let l := t.me.lane i
        l = { s.me.lane i with pc := l.pc, st := l.st, waited := l.waited, op := l.op }) ∧
    ∀ (o : LaneOp) (i scope hint disp v fl : Nat), Claims.OneAccess s o i 1 scope 0 0 hint disp → (s.me.lane i).gaps i o.b o.s = [] →
      Claims.stored s o i = some (v, fl) → exec (.st o) s = .next t →
      let own := (s.served s.cur).1
      let ea := effAddr s.me (s.me.lane i) o.a 1 disp
      let n := ldBytes (o.d % 8)
      (0 ≤ ea ∧ ea + n ≤ (s.launch (s.team own).launch).e.scratch ∧ ea.toNat % n = 0) →
      (∀ a, a < ea.toNat ∨ ea.toNat + n ≤ a → AMap.get 0 (t.team own).scratch a = AMap.get 0 (s.team own).scratch a) ∧
      (∀ a, t.byte a = s.byte a) ∧ ∀ k, k ≠ own → t.team k = s.team k

/-- R33, R36, R41, R43, R46 to R50: words of the encoding tables decode to their instructions. -/
def Obligations.SpecWordsDecode : Prop :=
  ∀ p ∈ Claims.specWords, decode p.1 p.2.1 = .ok p.2.2 (if p.2.1 = 0 then 4 else 8)

/-- R33 to R50, R61, R62, R65: the decoder gives back every well-formed word from its encoding, with its length, whatever word comes after; a
word that it accepts is well formed. -/
def Obligations.EncodedWordsDecodeToThemselves : Prop :=
  (∀ i : Instr, i.wellFormed = true → i.isWord = true → (∀ w ∈ encode i, w < 2 ^ 32) ∧
    ∀ e, decode ((encode i).getD 0 0) ((encode i).getD 1 e) = .ok i (4 * (encode i).length)) ∧
  ∀ w e i n, decode w e = .ok i n → i.wellFormed = true ∧ (n = 4 ∨ n = 8)

/-- R217, R226: device memory keeps its canonical form in every step. -/
def Obligations.EveryStepKeepsMemoryCanonical : Prop :=
  ∀ s t : State, s.Ok → Machine.step s = .next t → t.Ok
end

