-- ==== Sys2Proof/Laws/State.lean ====
section
/-! SUPPORT. One lemma for each field of the state under each of its updates: what an update does not write reads as before, and the
part it writes is the one it names. -/

namespace Sys2Proof.Machine

/-! `modGroup` writes `groups` alone. -/
@[simp] theorem State.modGroup_agenda (s : State) (g : Nat) (f : Group → Group) : (s.modGroup g f).agenda = s.agenda := rfl
@[simp] theorem State.modGroup_cur (s : State) (g : Nat) (f : Group → Group) : (s.modGroup g f).cur = s.cur := rfl
@[simp] theorem State.modGroup_curPc (s : State) (g : Nat) (f : Group → Group) : (s.modGroup g f).curPc = s.curPc := rfl
@[simp] theorem State.modGroup_curOld (s : State) (g : Nat) (f : Group → Group) : (s.modGroup g f).curOld = s.curOld := rfl
@[simp] theorem State.modGroup_curFused (s : State) (g : Nat) (f : Group → Group) : (s.modGroup g f).curFused = s.curFused := rfl
@[simp] theorem State.modGroup_issues (s : State) (g : Nat) (f : Group → Group) : (s.modGroup g f).issues = s.issues := rfl
@[simp] theorem State.modGroup_draw (s : State) (g : Nat) (f : Group → Group) : (s.modGroup g f).draw = s.draw := rfl
@[simp] theorem State.modGroup_teams (s : State) (g : Nat) (f : Group → Group) : (s.modGroup g f).teams = s.teams := rfl
@[simp] theorem State.modGroup_gangs (s : State) (g : Nat) (f : Group → Group) : (s.modGroup g f).gangs = s.gangs := rfl
@[simp] theorem State.modGroup_launches (s : State) (g : Nat) (f : Group → Group) : (s.modGroup g f).launches = s.launches := rfl
@[simp] theorem State.modGroup_counters (s : State) (g : Nat) (f : Group → Group) : (s.modGroup g f).counters = s.counters := rfl
@[simp] theorem State.modGroup_queues (s : State) (g : Nat) (f : Group → Group) : (s.modGroup g f).queues = s.queues := rfl
@[simp] theorem State.modGroup_turn (s : State) (g : Nat) (f : Group → Group) : (s.modGroup g f).turn = s.turn := rfl
@[simp] theorem State.modGroup_contexts (s : State) (g : Nat) (f : Group → Group) : (s.modGroup g f).contexts = s.contexts := rfl
@[simp] theorem State.modGroup_cores (s : State) (g : Nat) (f : Group → Group) : (s.modGroup g f).cores = s.cores := rfl
@[simp] theorem State.modGroup_clusters (s : State) (g : Nat) (f : Group → Group) : (s.modGroup g f).clusters = s.clusters := rfl
@[simp] theorem State.modGroup_dies (s : State) (g : Nat) (f : Group → Group) : (s.modGroup g f).dies = s.dies := rfl
@[simp] theorem State.modGroup_mem (s : State) (g : Nat) (f : Group → Group) : (s.modGroup g f).mem = s.mem := rfl
@[simp] theorem State.modGroup_tags (s : State) (g : Nat) (f : Group → Group) : (s.modGroup g f).tags = s.tags := rfl
@[simp] theorem State.modGroup_interleave (s : State) (g : Nat) (f : Group → Group) : (s.modGroup g f).interleave = s.interleave := rfl
@[simp] theorem State.modGroup_caches (s : State) (g : Nat) (f : Group → Group) : (s.modGroup g f).caches = s.caches := rfl
@[simp] theorem State.modGroup_tlbs (s : State) (g : Nat) (f : Group → Group) : (s.modGroup g f).tlbs = s.tlbs := rfl
@[simp] theorem State.modGroup_walks (s : State) (g : Nat) (f : Group → Group) : (s.modGroup g f).walks = s.walks := rfl
@[simp] theorem State.modGroup_misses (s : State) (g : Nat) (f : Group → Group) : (s.modGroup g f).misses = s.misses := rfl
@[simp] theorem State.modGroup_pageReqs (s : State) (g : Nat) (f : Group → Group) : (s.modGroup g f).pageReqs = s.pageReqs := rfl
@[simp] theorem State.modGroup_prAlloc (s : State) (g : Nat) (f : Group → Group) : (s.modGroup g f).prAlloc = s.prAlloc := rfl
@[simp] theorem State.modGroup_invals (s : State) (g : Nat) (f : Group → Group) : (s.modGroup g f).invals = s.invals := rfl
@[simp] theorem State.modGroup_stores (s : State) (g : Nat) (f : Group → Group) : (s.modGroup g f).stores = s.stores := rfl
@[simp] theorem State.modGroup_landing (s : State) (g : Nat) (f : Group → Group) : (s.modGroup g f).landing = s.landing := rfl
@[simp] theorem State.modGroup_pushes (s : State) (g : Nat) (f : Group → Group) : (s.modGroup g f).pushes = s.pushes := rfl
@[simp] theorem State.modGroup_engOps (s : State) (g : Nat) (f : Group → Group) : (s.modGroup g f).engOps = s.engOps := rfl
@[simp] theorem State.modGroup_inbox (s : State) (g : Nat) (f : Group → Group) : (s.modGroup g f).inbox = s.inbox := rfl
@[simp] theorem State.modGroup_nextOp (s : State) (g : Nat) (f : Group → Group) : (s.modGroup g f).nextOp = s.nextOp := rfl
@[simp] theorem State.modGroup_kdev (s : State) (g : Nat) (f : Group → Group) : (s.modGroup g f).kdev = s.kdev := rfl
@[simp] theorem State.modGroup_domSize (s : State) (g : Nat) (f : Group → Group) : (s.modGroup g f).domSize = s.domSize := rfl
@[simp] theorem State.modGroup_route (s : State) (g : Nat) (f : Group → Group) : (s.modGroup g f).route = s.route := rfl
@[simp] theorem State.modGroup_links (s : State) (g : Nat) (f : Group → Group) : (s.modGroup g f).links = s.links := rfl
@[simp] theorem State.modGroup_mcast (s : State) (g : Nat) (f : Group → Group) : (s.modGroup g f).mcast = s.mcast := rfl
@[simp] theorem State.modGroup_mcastDevs (s : State) (g : Nat) (f : Group → Group) : (s.modGroup g f).mcastDevs = s.mcastDevs := rfl
@[simp] theorem State.modGroup_trees (s : State) (g : Nat) (f : Group → Group) : (s.modGroup g f).trees = s.trees := rfl
@[simp] theorem State.modGroup_windows (s : State) (g : Nat) (f : Group → Group) : (s.modGroup g f).windows = s.windows := rfl
@[simp] theorem State.modGroup_filters (s : State) (g : Nat) (f : Group → Group) : (s.modGroup g f).filters = s.filters := rfl
@[simp] theorem State.modGroup_fabSeq (s : State) (g : Nat) (f : Group → Group) : (s.modGroup g f).fabSeq = s.fabSeq := rfl
@[simp] theorem State.modGroup_fabReqs (s : State) (g : Nat) (f : Group → Group) : (s.modGroup g f).fabReqs = s.fabReqs := rfl
@[simp] theorem State.modGroup_hostReqs (s : State) (g : Nat) (f : Group → Group) : (s.modGroup g f).hostReqs = s.hostReqs := rfl
@[simp] theorem State.modGroup_mcDiscards (s : State) (g : Nat) (f : Group → Group) : (s.modGroup g f).mcDiscards = s.mcDiscards := rfl
@[simp] theorem State.modGroup_heldIn (s : State) (g : Nat) (f : Group → Group) : (s.modGroup g f).heldIn = s.heldIn := rfl
@[simp] theorem State.modGroup_hostHeld (s : State) (g : Nat) (f : Group → Group) : (s.modGroup g f).hostHeld = s.hostHeld := rfl
@[simp] theorem State.modGroup_readies (s : State) (g : Nat) (f : Group → Group) : (s.modGroup g f).readies = s.readies := rfl
@[simp] theorem State.modGroup_swapReqs (s : State) (g : Nat) (f : Group → Group) : (s.modGroup g f).swapReqs = s.swapReqs := rfl
@[simp] theorem State.modGroup_doorbells (s : State) (g : Nat) (f : Group → Group) : (s.modGroup g f).doorbells = s.doorbells := rfl
@[simp] theorem State.modGroup_bells (s : State) (g : Nat) (f : Group → Group) : (s.modGroup g f).bells = s.bells := rfl
@[simp] theorem State.modGroup_timeout (s : State) (g : Nat) (f : Group → Group) : (s.modGroup g f).timeout = s.timeout := rfl
@[simp] theorem State.modGroup_sent (s : State) (g : Nat) (f : Group → Group) : (s.modGroup g f).sent = s.sent := rfl
@[simp] theorem State.modGroup_owned (s : State) (g : Nat) (f : Group → Group) : (s.modGroup g f).owned = s.owned := rfl
@[simp] theorem State.modGroup_hostLines (s : State) (g : Nat) (f : Group → Group) : (s.modGroup g f).hostLines = s.hostLines := rfl
@[simp] theorem State.modGroup_hostOrder (s : State) (g : Nat) (f : Group → Group) : (s.modGroup g f).hostOrder = s.hostOrder := rfl
@[simp] theorem State.modGroup_answers (s : State) (g : Nat) (f : Group → Group) : (s.modGroup g f).answers = s.answers := rfl
@[simp] theorem State.modGroup_hostRanges (s : State) (g : Nat) (f : Group → Group) : (s.modGroup g f).hostRanges = s.hostRanges := rfl
@[simp] theorem State.modGroup_saveFrames (s : State) (g : Nat) (f : Group → Group) : (s.modGroup g f).saveFrames = s.saveFrames := rfl
@[simp] theorem State.modGroup_accepts (s : State) (g : Nat) (f : Group → Group) : (s.modGroup g f).accepts = s.accepts := rfl
@[simp] theorem State.modGroup_early (s : State) (g : Nat) (f : Group → Group) : (s.modGroup g f).early = s.early := rfl
@[simp] theorem State.modGroup_snapFrames (s : State) (g : Nat) (f : Group → Group) : (s.modGroup g f).snapFrames = s.snapFrames := rfl
@[simp] theorem State.modGroup_hdm (s : State) (g : Nat) (f : Group → Group) : (s.modGroup g f).hdm = s.hdm := rfl
@[simp] theorem State.modGroup_lastDie (s : State) (g : Nat) (f : Group → Group) : (s.modGroup g f).lastDie = s.lastDie := rfl
@[simp] theorem State.modGroup_stamp (s : State) (g : Nat) (f : Group → Group) : (s.modGroup g f).stamp = s.stamp := rfl
@[simp] theorem State.modGroup_clock (s : State) (g : Nat) (f : Group → Group) : (s.modGroup g f).clock = s.clock := rfl
@[simp] theorem State.modGroup_ckptBase (s : State) (g : Nat) (f : Group → Group) : (s.modGroup g f).ckptBase = s.ckptBase := rfl
@[simp] theorem State.modGroup_ckptDir (s : State) (g : Nat) (f : Group → Group) : (s.modGroup g f).ckptDir = s.ckptDir := rfl
@[simp] theorem State.modGroup_ckptErr (s : State) (g : Nat) (f : Group → Group) : (s.modGroup g f).ckptErr = s.ckptErr := rfl
@[simp] theorem State.modGroup_ckptRun (s : State) (g : Nat) (f : Group → Group) : (s.modGroup g f).ckptRun = s.ckptRun := rfl
@[simp] theorem State.modGroup_ckptImage (s : State) (g : Nat) (f : Group → Group) : (s.modGroup g f).ckptImage = s.ckptImage := rfl
@[simp] theorem State.modGroup_firm (s : State) (g : Nat) (f : Group → Group) : (s.modGroup g f).firm = s.firm := rfl

/-! `modTeam` writes `teams` alone. -/
@[simp] theorem State.modTeam_agenda (s : State) (t : Nat) (f : Team → Team) : (s.modTeam t f).agenda = s.agenda := rfl
@[simp] theorem State.modTeam_cur (s : State) (t : Nat) (f : Team → Team) : (s.modTeam t f).cur = s.cur := rfl
@[simp] theorem State.modTeam_curPc (s : State) (t : Nat) (f : Team → Team) : (s.modTeam t f).curPc = s.curPc := rfl
@[simp] theorem State.modTeam_curOld (s : State) (t : Nat) (f : Team → Team) : (s.modTeam t f).curOld = s.curOld := rfl
@[simp] theorem State.modTeam_curFused (s : State) (t : Nat) (f : Team → Team) : (s.modTeam t f).curFused = s.curFused := rfl
@[simp] theorem State.modTeam_issues (s : State) (t : Nat) (f : Team → Team) : (s.modTeam t f).issues = s.issues := rfl
@[simp] theorem State.modTeam_draw (s : State) (t : Nat) (f : Team → Team) : (s.modTeam t f).draw = s.draw := rfl
@[simp] theorem State.modTeam_groups (s : State) (t : Nat) (f : Team → Team) : (s.modTeam t f).groups = s.groups := rfl
@[simp] theorem State.modTeam_gangs (s : State) (t : Nat) (f : Team → Team) : (s.modTeam t f).gangs = s.gangs := rfl
@[simp] theorem State.modTeam_launches (s : State) (t : Nat) (f : Team → Team) : (s.modTeam t f).launches = s.launches := rfl
@[simp] theorem State.modTeam_counters (s : State) (t : Nat) (f : Team → Team) : (s.modTeam t f).counters = s.counters := rfl
@[simp] theorem State.modTeam_queues (s : State) (t : Nat) (f : Team → Team) : (s.modTeam t f).queues = s.queues := rfl
@[simp] theorem State.modTeam_turn (s : State) (t : Nat) (f : Team → Team) : (s.modTeam t f).turn = s.turn := rfl
@[simp] theorem State.modTeam_contexts (s : State) (t : Nat) (f : Team → Team) : (s.modTeam t f).contexts = s.contexts := rfl
@[simp] theorem State.modTeam_cores (s : State) (t : Nat) (f : Team → Team) : (s.modTeam t f).cores = s.cores := rfl
@[simp] theorem State.modTeam_clusters (s : State) (t : Nat) (f : Team → Team) : (s.modTeam t f).clusters = s.clusters := rfl
@[simp] theorem State.modTeam_dies (s : State) (t : Nat) (f : Team → Team) : (s.modTeam t f).dies = s.dies := rfl
@[simp] theorem State.modTeam_mem (s : State) (t : Nat) (f : Team → Team) : (s.modTeam t f).mem = s.mem := rfl
@[simp] theorem State.modTeam_tags (s : State) (t : Nat) (f : Team → Team) : (s.modTeam t f).tags = s.tags := rfl
@[simp] theorem State.modTeam_interleave (s : State) (t : Nat) (f : Team → Team) : (s.modTeam t f).interleave = s.interleave := rfl
@[simp] theorem State.modTeam_caches (s : State) (t : Nat) (f : Team → Team) : (s.modTeam t f).caches = s.caches := rfl
@[simp] theorem State.modTeam_tlbs (s : State) (t : Nat) (f : Team → Team) : (s.modTeam t f).tlbs = s.tlbs := rfl
@[simp] theorem State.modTeam_walks (s : State) (t : Nat) (f : Team → Team) : (s.modTeam t f).walks = s.walks := rfl
@[simp] theorem State.modTeam_misses (s : State) (t : Nat) (f : Team → Team) : (s.modTeam t f).misses = s.misses := rfl
@[simp] theorem State.modTeam_pageReqs (s : State) (t : Nat) (f : Team → Team) : (s.modTeam t f).pageReqs = s.pageReqs := rfl
@[simp] theorem State.modTeam_prAlloc (s : State) (t : Nat) (f : Team → Team) : (s.modTeam t f).prAlloc = s.prAlloc := rfl
@[simp] theorem State.modTeam_invals (s : State) (t : Nat) (f : Team → Team) : (s.modTeam t f).invals = s.invals := rfl
@[simp] theorem State.modTeam_stores (s : State) (t : Nat) (f : Team → Team) : (s.modTeam t f).stores = s.stores := rfl
@[simp] theorem State.modTeam_landing (s : State) (t : Nat) (f : Team → Team) : (s.modTeam t f).landing = s.landing := rfl
@[simp] theorem State.modTeam_pushes (s : State) (t : Nat) (f : Team → Team) : (s.modTeam t f).pushes = s.pushes := rfl
@[simp] theorem State.modTeam_engOps (s : State) (t : Nat) (f : Team → Team) : (s.modTeam t f).engOps = s.engOps := rfl
@[simp] theorem State.modTeam_inbox (s : State) (t : Nat) (f : Team → Team) : (s.modTeam t f).inbox = s.inbox := rfl
@[simp] theorem State.modTeam_nextOp (s : State) (t : Nat) (f : Team → Team) : (s.modTeam t f).nextOp = s.nextOp := rfl
@[simp] theorem State.modTeam_kdev (s : State) (t : Nat) (f : Team → Team) : (s.modTeam t f).kdev = s.kdev := rfl
@[simp] theorem State.modTeam_domSize (s : State) (t : Nat) (f : Team → Team) : (s.modTeam t f).domSize = s.domSize := rfl
@[simp] theorem State.modTeam_route (s : State) (t : Nat) (f : Team → Team) : (s.modTeam t f).route = s.route := rfl
@[simp] theorem State.modTeam_links (s : State) (t : Nat) (f : Team → Team) : (s.modTeam t f).links = s.links := rfl
@[simp] theorem State.modTeam_mcast (s : State) (t : Nat) (f : Team → Team) : (s.modTeam t f).mcast = s.mcast := rfl
@[simp] theorem State.modTeam_mcastDevs (s : State) (t : Nat) (f : Team → Team) : (s.modTeam t f).mcastDevs = s.mcastDevs := rfl
@[simp] theorem State.modTeam_trees (s : State) (t : Nat) (f : Team → Team) : (s.modTeam t f).trees = s.trees := rfl
@[simp] theorem State.modTeam_windows (s : State) (t : Nat) (f : Team → Team) : (s.modTeam t f).windows = s.windows := rfl
@[simp] theorem State.modTeam_filters (s : State) (t : Nat) (f : Team → Team) : (s.modTeam t f).filters = s.filters := rfl
@[simp] theorem State.modTeam_fabSeq (s : State) (t : Nat) (f : Team → Team) : (s.modTeam t f).fabSeq = s.fabSeq := rfl
@[simp] theorem State.modTeam_fabReqs (s : State) (t : Nat) (f : Team → Team) : (s.modTeam t f).fabReqs = s.fabReqs := rfl
@[simp] theorem State.modTeam_hostReqs (s : State) (t : Nat) (f : Team → Team) : (s.modTeam t f).hostReqs = s.hostReqs := rfl
@[simp] theorem State.modTeam_mcDiscards (s : State) (t : Nat) (f : Team → Team) : (s.modTeam t f).mcDiscards = s.mcDiscards := rfl
@[simp] theorem State.modTeam_heldIn (s : State) (t : Nat) (f : Team → Team) : (s.modTeam t f).heldIn = s.heldIn := rfl
@[simp] theorem State.modTeam_hostHeld (s : State) (t : Nat) (f : Team → Team) : (s.modTeam t f).hostHeld = s.hostHeld := rfl
@[simp] theorem State.modTeam_readies (s : State) (t : Nat) (f : Team → Team) : (s.modTeam t f).readies = s.readies := rfl
@[simp] theorem State.modTeam_swapReqs (s : State) (t : Nat) (f : Team → Team) : (s.modTeam t f).swapReqs = s.swapReqs := rfl
@[simp] theorem State.modTeam_doorbells (s : State) (t : Nat) (f : Team → Team) : (s.modTeam t f).doorbells = s.doorbells := rfl
@[simp] theorem State.modTeam_bells (s : State) (t : Nat) (f : Team → Team) : (s.modTeam t f).bells = s.bells := rfl
@[simp] theorem State.modTeam_timeout (s : State) (t : Nat) (f : Team → Team) : (s.modTeam t f).timeout = s.timeout := rfl
@[simp] theorem State.modTeam_sent (s : State) (t : Nat) (f : Team → Team) : (s.modTeam t f).sent = s.sent := rfl
@[simp] theorem State.modTeam_owned (s : State) (t : Nat) (f : Team → Team) : (s.modTeam t f).owned = s.owned := rfl
@[simp] theorem State.modTeam_hostLines (s : State) (t : Nat) (f : Team → Team) : (s.modTeam t f).hostLines = s.hostLines := rfl
@[simp] theorem State.modTeam_hostOrder (s : State) (t : Nat) (f : Team → Team) : (s.modTeam t f).hostOrder = s.hostOrder := rfl
@[simp] theorem State.modTeam_answers (s : State) (t : Nat) (f : Team → Team) : (s.modTeam t f).answers = s.answers := rfl
@[simp] theorem State.modTeam_hostRanges (s : State) (t : Nat) (f : Team → Team) : (s.modTeam t f).hostRanges = s.hostRanges := rfl
@[simp] theorem State.modTeam_saveFrames (s : State) (t : Nat) (f : Team → Team) : (s.modTeam t f).saveFrames = s.saveFrames := rfl
@[simp] theorem State.modTeam_accepts (s : State) (t : Nat) (f : Team → Team) : (s.modTeam t f).accepts = s.accepts := rfl
@[simp] theorem State.modTeam_early (s : State) (t : Nat) (f : Team → Team) : (s.modTeam t f).early = s.early := rfl
@[simp] theorem State.modTeam_snapFrames (s : State) (t : Nat) (f : Team → Team) : (s.modTeam t f).snapFrames = s.snapFrames := rfl
@[simp] theorem State.modTeam_hdm (s : State) (t : Nat) (f : Team → Team) : (s.modTeam t f).hdm = s.hdm := rfl
@[simp] theorem State.modTeam_lastDie (s : State) (t : Nat) (f : Team → Team) : (s.modTeam t f).lastDie = s.lastDie := rfl
@[simp] theorem State.modTeam_stamp (s : State) (t : Nat) (f : Team → Team) : (s.modTeam t f).stamp = s.stamp := rfl
@[simp] theorem State.modTeam_clock (s : State) (t : Nat) (f : Team → Team) : (s.modTeam t f).clock = s.clock := rfl
@[simp] theorem State.modTeam_ckptBase (s : State) (t : Nat) (f : Team → Team) : (s.modTeam t f).ckptBase = s.ckptBase := rfl
@[simp] theorem State.modTeam_ckptDir (s : State) (t : Nat) (f : Team → Team) : (s.modTeam t f).ckptDir = s.ckptDir := rfl
@[simp] theorem State.modTeam_ckptErr (s : State) (t : Nat) (f : Team → Team) : (s.modTeam t f).ckptErr = s.ckptErr := rfl
@[simp] theorem State.modTeam_ckptRun (s : State) (t : Nat) (f : Team → Team) : (s.modTeam t f).ckptRun = s.ckptRun := rfl
@[simp] theorem State.modTeam_ckptImage (s : State) (t : Nat) (f : Team → Team) : (s.modTeam t f).ckptImage = s.ckptImage := rfl
@[simp] theorem State.modTeam_firm (s : State) (t : Nat) (f : Team → Team) : (s.modTeam t f).firm = s.firm := rfl

/-! `modLaunch` writes `launches` alone. -/
@[simp] theorem State.modLaunch_agenda (s : State) (l : Nat) (f : Launch → Launch) : (s.modLaunch l f).agenda = s.agenda := rfl
@[simp] theorem State.modLaunch_cur (s : State) (l : Nat) (f : Launch → Launch) : (s.modLaunch l f).cur = s.cur := rfl
@[simp] theorem State.modLaunch_curPc (s : State) (l : Nat) (f : Launch → Launch) : (s.modLaunch l f).curPc = s.curPc := rfl
@[simp] theorem State.modLaunch_curOld (s : State) (l : Nat) (f : Launch → Launch) : (s.modLaunch l f).curOld = s.curOld := rfl
@[simp] theorem State.modLaunch_curFused (s : State) (l : Nat) (f : Launch → Launch) : (s.modLaunch l f).curFused = s.curFused := rfl
@[simp] theorem State.modLaunch_issues (s : State) (l : Nat) (f : Launch → Launch) : (s.modLaunch l f).issues = s.issues := rfl
@[simp] theorem State.modLaunch_draw (s : State) (l : Nat) (f : Launch → Launch) : (s.modLaunch l f).draw = s.draw := rfl
@[simp] theorem State.modLaunch_groups (s : State) (l : Nat) (f : Launch → Launch) : (s.modLaunch l f).groups = s.groups := rfl
@[simp] theorem State.modLaunch_teams (s : State) (l : Nat) (f : Launch → Launch) : (s.modLaunch l f).teams = s.teams := rfl
@[simp] theorem State.modLaunch_gangs (s : State) (l : Nat) (f : Launch → Launch) : (s.modLaunch l f).gangs = s.gangs := rfl
@[simp] theorem State.modLaunch_counters (s : State) (l : Nat) (f : Launch → Launch) : (s.modLaunch l f).counters = s.counters := rfl
@[simp] theorem State.modLaunch_queues (s : State) (l : Nat) (f : Launch → Launch) : (s.modLaunch l f).queues = s.queues := rfl
@[simp] theorem State.modLaunch_turn (s : State) (l : Nat) (f : Launch → Launch) : (s.modLaunch l f).turn = s.turn := rfl
@[simp] theorem State.modLaunch_contexts (s : State) (l : Nat) (f : Launch → Launch) : (s.modLaunch l f).contexts = s.contexts := rfl
@[simp] theorem State.modLaunch_cores (s : State) (l : Nat) (f : Launch → Launch) : (s.modLaunch l f).cores = s.cores := rfl
@[simp] theorem State.modLaunch_clusters (s : State) (l : Nat) (f : Launch → Launch) : (s.modLaunch l f).clusters = s.clusters := rfl
@[simp] theorem State.modLaunch_dies (s : State) (l : Nat) (f : Launch → Launch) : (s.modLaunch l f).dies = s.dies := rfl
@[simp] theorem State.modLaunch_mem (s : State) (l : Nat) (f : Launch → Launch) : (s.modLaunch l f).mem = s.mem := rfl
@[simp] theorem State.modLaunch_tags (s : State) (l : Nat) (f : Launch → Launch) : (s.modLaunch l f).tags = s.tags := rfl
@[simp] theorem State.modLaunch_interleave (s : State) (l : Nat) (f : Launch → Launch) : (s.modLaunch l f).interleave = s.interleave := rfl
@[simp] theorem State.modLaunch_caches (s : State) (l : Nat) (f : Launch → Launch) : (s.modLaunch l f).caches = s.caches := rfl
@[simp] theorem State.modLaunch_tlbs (s : State) (l : Nat) (f : Launch → Launch) : (s.modLaunch l f).tlbs = s.tlbs := rfl
@[simp] theorem State.modLaunch_walks (s : State) (l : Nat) (f : Launch → Launch) : (s.modLaunch l f).walks = s.walks := rfl
@[simp] theorem State.modLaunch_misses (s : State) (l : Nat) (f : Launch → Launch) : (s.modLaunch l f).misses = s.misses := rfl
@[simp] theorem State.modLaunch_pageReqs (s : State) (l : Nat) (f : Launch → Launch) : (s.modLaunch l f).pageReqs = s.pageReqs := rfl
@[simp] theorem State.modLaunch_prAlloc (s : State) (l : Nat) (f : Launch → Launch) : (s.modLaunch l f).prAlloc = s.prAlloc := rfl
@[simp] theorem State.modLaunch_invals (s : State) (l : Nat) (f : Launch → Launch) : (s.modLaunch l f).invals = s.invals := rfl
@[simp] theorem State.modLaunch_stores (s : State) (l : Nat) (f : Launch → Launch) : (s.modLaunch l f).stores = s.stores := rfl
@[simp] theorem State.modLaunch_landing (s : State) (l : Nat) (f : Launch → Launch) : (s.modLaunch l f).landing = s.landing := rfl
@[simp] theorem State.modLaunch_pushes (s : State) (l : Nat) (f : Launch → Launch) : (s.modLaunch l f).pushes = s.pushes := rfl
@[simp] theorem State.modLaunch_engOps (s : State) (l : Nat) (f : Launch → Launch) : (s.modLaunch l f).engOps = s.engOps := rfl
@[simp] theorem State.modLaunch_inbox (s : State) (l : Nat) (f : Launch → Launch) : (s.modLaunch l f).inbox = s.inbox := rfl
@[simp] theorem State.modLaunch_nextOp (s : State) (l : Nat) (f : Launch → Launch) : (s.modLaunch l f).nextOp = s.nextOp := rfl
@[simp] theorem State.modLaunch_kdev (s : State) (l : Nat) (f : Launch → Launch) : (s.modLaunch l f).kdev = s.kdev := rfl
@[simp] theorem State.modLaunch_domSize (s : State) (l : Nat) (f : Launch → Launch) : (s.modLaunch l f).domSize = s.domSize := rfl
@[simp] theorem State.modLaunch_route (s : State) (l : Nat) (f : Launch → Launch) : (s.modLaunch l f).route = s.route := rfl
@[simp] theorem State.modLaunch_links (s : State) (l : Nat) (f : Launch → Launch) : (s.modLaunch l f).links = s.links := rfl
@[simp] theorem State.modLaunch_mcast (s : State) (l : Nat) (f : Launch → Launch) : (s.modLaunch l f).mcast = s.mcast := rfl
@[simp] theorem State.modLaunch_mcastDevs (s : State) (l : Nat) (f : Launch → Launch) : (s.modLaunch l f).mcastDevs = s.mcastDevs := rfl
@[simp] theorem State.modLaunch_trees (s : State) (l : Nat) (f : Launch → Launch) : (s.modLaunch l f).trees = s.trees := rfl
@[simp] theorem State.modLaunch_windows (s : State) (l : Nat) (f : Launch → Launch) : (s.modLaunch l f).windows = s.windows := rfl
@[simp] theorem State.modLaunch_filters (s : State) (l : Nat) (f : Launch → Launch) : (s.modLaunch l f).filters = s.filters := rfl
@[simp] theorem State.modLaunch_fabSeq (s : State) (l : Nat) (f : Launch → Launch) : (s.modLaunch l f).fabSeq = s.fabSeq := rfl
@[simp] theorem State.modLaunch_fabReqs (s : State) (l : Nat) (f : Launch → Launch) : (s.modLaunch l f).fabReqs = s.fabReqs := rfl
@[simp] theorem State.modLaunch_hostReqs (s : State) (l : Nat) (f : Launch → Launch) : (s.modLaunch l f).hostReqs = s.hostReqs := rfl
@[simp] theorem State.modLaunch_mcDiscards (s : State) (l : Nat) (f : Launch → Launch) : (s.modLaunch l f).mcDiscards = s.mcDiscards := rfl
@[simp] theorem State.modLaunch_heldIn (s : State) (l : Nat) (f : Launch → Launch) : (s.modLaunch l f).heldIn = s.heldIn := rfl
@[simp] theorem State.modLaunch_hostHeld (s : State) (l : Nat) (f : Launch → Launch) : (s.modLaunch l f).hostHeld = s.hostHeld := rfl
@[simp] theorem State.modLaunch_readies (s : State) (l : Nat) (f : Launch → Launch) : (s.modLaunch l f).readies = s.readies := rfl
@[simp] theorem State.modLaunch_swapReqs (s : State) (l : Nat) (f : Launch → Launch) : (s.modLaunch l f).swapReqs = s.swapReqs := rfl
@[simp] theorem State.modLaunch_doorbells (s : State) (l : Nat) (f : Launch → Launch) : (s.modLaunch l f).doorbells = s.doorbells := rfl
@[simp] theorem State.modLaunch_bells (s : State) (l : Nat) (f : Launch → Launch) : (s.modLaunch l f).bells = s.bells := rfl
@[simp] theorem State.modLaunch_timeout (s : State) (l : Nat) (f : Launch → Launch) : (s.modLaunch l f).timeout = s.timeout := rfl
@[simp] theorem State.modLaunch_sent (s : State) (l : Nat) (f : Launch → Launch) : (s.modLaunch l f).sent = s.sent := rfl
@[simp] theorem State.modLaunch_owned (s : State) (l : Nat) (f : Launch → Launch) : (s.modLaunch l f).owned = s.owned := rfl
@[simp] theorem State.modLaunch_hostLines (s : State) (l : Nat) (f : Launch → Launch) : (s.modLaunch l f).hostLines = s.hostLines := rfl
@[simp] theorem State.modLaunch_hostOrder (s : State) (l : Nat) (f : Launch → Launch) : (s.modLaunch l f).hostOrder = s.hostOrder := rfl
@[simp] theorem State.modLaunch_answers (s : State) (l : Nat) (f : Launch → Launch) : (s.modLaunch l f).answers = s.answers := rfl
@[simp] theorem State.modLaunch_hostRanges (s : State) (l : Nat) (f : Launch → Launch) : (s.modLaunch l f).hostRanges = s.hostRanges := rfl
@[simp] theorem State.modLaunch_saveFrames (s : State) (l : Nat) (f : Launch → Launch) : (s.modLaunch l f).saveFrames = s.saveFrames := rfl
@[simp] theorem State.modLaunch_accepts (s : State) (l : Nat) (f : Launch → Launch) : (s.modLaunch l f).accepts = s.accepts := rfl
@[simp] theorem State.modLaunch_early (s : State) (l : Nat) (f : Launch → Launch) : (s.modLaunch l f).early = s.early := rfl
@[simp] theorem State.modLaunch_snapFrames (s : State) (l : Nat) (f : Launch → Launch) : (s.modLaunch l f).snapFrames = s.snapFrames := rfl
@[simp] theorem State.modLaunch_hdm (s : State) (l : Nat) (f : Launch → Launch) : (s.modLaunch l f).hdm = s.hdm := rfl
@[simp] theorem State.modLaunch_lastDie (s : State) (l : Nat) (f : Launch → Launch) : (s.modLaunch l f).lastDie = s.lastDie := rfl
@[simp] theorem State.modLaunch_stamp (s : State) (l : Nat) (f : Launch → Launch) : (s.modLaunch l f).stamp = s.stamp := rfl
@[simp] theorem State.modLaunch_clock (s : State) (l : Nat) (f : Launch → Launch) : (s.modLaunch l f).clock = s.clock := rfl
@[simp] theorem State.modLaunch_ckptBase (s : State) (l : Nat) (f : Launch → Launch) : (s.modLaunch l f).ckptBase = s.ckptBase := rfl
@[simp] theorem State.modLaunch_ckptDir (s : State) (l : Nat) (f : Launch → Launch) : (s.modLaunch l f).ckptDir = s.ckptDir := rfl
@[simp] theorem State.modLaunch_ckptErr (s : State) (l : Nat) (f : Launch → Launch) : (s.modLaunch l f).ckptErr = s.ckptErr := rfl
@[simp] theorem State.modLaunch_ckptRun (s : State) (l : Nat) (f : Launch → Launch) : (s.modLaunch l f).ckptRun = s.ckptRun := rfl
@[simp] theorem State.modLaunch_ckptImage (s : State) (l : Nat) (f : Launch → Launch) : (s.modLaunch l f).ckptImage = s.ckptImage := rfl
@[simp] theorem State.modLaunch_firm (s : State) (l : Nat) (f : Launch → Launch) : (s.modLaunch l f).firm = s.firm := rfl

/-! `modCore` writes `cores` alone. -/
@[simp] theorem State.modCore_agenda (s : State) (c : Nat) (f : Core → Core) : (s.modCore c f).agenda = s.agenda := rfl
@[simp] theorem State.modCore_cur (s : State) (c : Nat) (f : Core → Core) : (s.modCore c f).cur = s.cur := rfl
@[simp] theorem State.modCore_curPc (s : State) (c : Nat) (f : Core → Core) : (s.modCore c f).curPc = s.curPc := rfl
@[simp] theorem State.modCore_curOld (s : State) (c : Nat) (f : Core → Core) : (s.modCore c f).curOld = s.curOld := rfl
@[simp] theorem State.modCore_curFused (s : State) (c : Nat) (f : Core → Core) : (s.modCore c f).curFused = s.curFused := rfl
@[simp] theorem State.modCore_issues (s : State) (c : Nat) (f : Core → Core) : (s.modCore c f).issues = s.issues := rfl
@[simp] theorem State.modCore_draw (s : State) (c : Nat) (f : Core → Core) : (s.modCore c f).draw = s.draw := rfl
@[simp] theorem State.modCore_groups (s : State) (c : Nat) (f : Core → Core) : (s.modCore c f).groups = s.groups := rfl
@[simp] theorem State.modCore_teams (s : State) (c : Nat) (f : Core → Core) : (s.modCore c f).teams = s.teams := rfl
@[simp] theorem State.modCore_gangs (s : State) (c : Nat) (f : Core → Core) : (s.modCore c f).gangs = s.gangs := rfl
@[simp] theorem State.modCore_launches (s : State) (c : Nat) (f : Core → Core) : (s.modCore c f).launches = s.launches := rfl
@[simp] theorem State.modCore_counters (s : State) (c : Nat) (f : Core → Core) : (s.modCore c f).counters = s.counters := rfl
@[simp] theorem State.modCore_queues (s : State) (c : Nat) (f : Core → Core) : (s.modCore c f).queues = s.queues := rfl
@[simp] theorem State.modCore_turn (s : State) (c : Nat) (f : Core → Core) : (s.modCore c f).turn = s.turn := rfl
@[simp] theorem State.modCore_contexts (s : State) (c : Nat) (f : Core → Core) : (s.modCore c f).contexts = s.contexts := rfl
@[simp] theorem State.modCore_clusters (s : State) (c : Nat) (f : Core → Core) : (s.modCore c f).clusters = s.clusters := rfl
@[simp] theorem State.modCore_dies (s : State) (c : Nat) (f : Core → Core) : (s.modCore c f).dies = s.dies := rfl
@[simp] theorem State.modCore_mem (s : State) (c : Nat) (f : Core → Core) : (s.modCore c f).mem = s.mem := rfl
@[simp] theorem State.modCore_tags (s : State) (c : Nat) (f : Core → Core) : (s.modCore c f).tags = s.tags := rfl
@[simp] theorem State.modCore_interleave (s : State) (c : Nat) (f : Core → Core) : (s.modCore c f).interleave = s.interleave := rfl
@[simp] theorem State.modCore_caches (s : State) (c : Nat) (f : Core → Core) : (s.modCore c f).caches = s.caches := rfl
@[simp] theorem State.modCore_tlbs (s : State) (c : Nat) (f : Core → Core) : (s.modCore c f).tlbs = s.tlbs := rfl
@[simp] theorem State.modCore_walks (s : State) (c : Nat) (f : Core → Core) : (s.modCore c f).walks = s.walks := rfl
@[simp] theorem State.modCore_misses (s : State) (c : Nat) (f : Core → Core) : (s.modCore c f).misses = s.misses := rfl
@[simp] theorem State.modCore_pageReqs (s : State) (c : Nat) (f : Core → Core) : (s.modCore c f).pageReqs = s.pageReqs := rfl
@[simp] theorem State.modCore_prAlloc (s : State) (c : Nat) (f : Core → Core) : (s.modCore c f).prAlloc = s.prAlloc := rfl
@[simp] theorem State.modCore_invals (s : State) (c : Nat) (f : Core → Core) : (s.modCore c f).invals = s.invals := rfl
@[simp] theorem State.modCore_stores (s : State) (c : Nat) (f : Core → Core) : (s.modCore c f).stores = s.stores := rfl
@[simp] theorem State.modCore_landing (s : State) (c : Nat) (f : Core → Core) : (s.modCore c f).landing = s.landing := rfl
@[simp] theorem State.modCore_pushes (s : State) (c : Nat) (f : Core → Core) : (s.modCore c f).pushes = s.pushes := rfl
@[simp] theorem State.modCore_engOps (s : State) (c : Nat) (f : Core → Core) : (s.modCore c f).engOps = s.engOps := rfl
@[simp] theorem State.modCore_inbox (s : State) (c : Nat) (f : Core → Core) : (s.modCore c f).inbox = s.inbox := rfl
@[simp] theorem State.modCore_nextOp (s : State) (c : Nat) (f : Core → Core) : (s.modCore c f).nextOp = s.nextOp := rfl
@[simp] theorem State.modCore_kdev (s : State) (c : Nat) (f : Core → Core) : (s.modCore c f).kdev = s.kdev := rfl
@[simp] theorem State.modCore_domSize (s : State) (c : Nat) (f : Core → Core) : (s.modCore c f).domSize = s.domSize := rfl
@[simp] theorem State.modCore_route (s : State) (c : Nat) (f : Core → Core) : (s.modCore c f).route = s.route := rfl
@[simp] theorem State.modCore_links (s : State) (c : Nat) (f : Core → Core) : (s.modCore c f).links = s.links := rfl
@[simp] theorem State.modCore_mcast (s : State) (c : Nat) (f : Core → Core) : (s.modCore c f).mcast = s.mcast := rfl
@[simp] theorem State.modCore_mcastDevs (s : State) (c : Nat) (f : Core → Core) : (s.modCore c f).mcastDevs = s.mcastDevs := rfl
@[simp] theorem State.modCore_trees (s : State) (c : Nat) (f : Core → Core) : (s.modCore c f).trees = s.trees := rfl
@[simp] theorem State.modCore_windows (s : State) (c : Nat) (f : Core → Core) : (s.modCore c f).windows = s.windows := rfl
@[simp] theorem State.modCore_filters (s : State) (c : Nat) (f : Core → Core) : (s.modCore c f).filters = s.filters := rfl
@[simp] theorem State.modCore_fabSeq (s : State) (c : Nat) (f : Core → Core) : (s.modCore c f).fabSeq = s.fabSeq := rfl
@[simp] theorem State.modCore_fabReqs (s : State) (c : Nat) (f : Core → Core) : (s.modCore c f).fabReqs = s.fabReqs := rfl
@[simp] theorem State.modCore_hostReqs (s : State) (c : Nat) (f : Core → Core) : (s.modCore c f).hostReqs = s.hostReqs := rfl
@[simp] theorem State.modCore_mcDiscards (s : State) (c : Nat) (f : Core → Core) : (s.modCore c f).mcDiscards = s.mcDiscards := rfl
@[simp] theorem State.modCore_heldIn (s : State) (c : Nat) (f : Core → Core) : (s.modCore c f).heldIn = s.heldIn := rfl
@[simp] theorem State.modCore_hostHeld (s : State) (c : Nat) (f : Core → Core) : (s.modCore c f).hostHeld = s.hostHeld := rfl
@[simp] theorem State.modCore_readies (s : State) (c : Nat) (f : Core → Core) : (s.modCore c f).readies = s.readies := rfl
@[simp] theorem State.modCore_swapReqs (s : State) (c : Nat) (f : Core → Core) : (s.modCore c f).swapReqs = s.swapReqs := rfl
@[simp] theorem State.modCore_doorbells (s : State) (c : Nat) (f : Core → Core) : (s.modCore c f).doorbells = s.doorbells := rfl
@[simp] theorem State.modCore_bells (s : State) (c : Nat) (f : Core → Core) : (s.modCore c f).bells = s.bells := rfl
@[simp] theorem State.modCore_timeout (s : State) (c : Nat) (f : Core → Core) : (s.modCore c f).timeout = s.timeout := rfl
@[simp] theorem State.modCore_sent (s : State) (c : Nat) (f : Core → Core) : (s.modCore c f).sent = s.sent := rfl
@[simp] theorem State.modCore_owned (s : State) (c : Nat) (f : Core → Core) : (s.modCore c f).owned = s.owned := rfl
@[simp] theorem State.modCore_hostLines (s : State) (c : Nat) (f : Core → Core) : (s.modCore c f).hostLines = s.hostLines := rfl
@[simp] theorem State.modCore_hostOrder (s : State) (c : Nat) (f : Core → Core) : (s.modCore c f).hostOrder = s.hostOrder := rfl
@[simp] theorem State.modCore_answers (s : State) (c : Nat) (f : Core → Core) : (s.modCore c f).answers = s.answers := rfl
@[simp] theorem State.modCore_hostRanges (s : State) (c : Nat) (f : Core → Core) : (s.modCore c f).hostRanges = s.hostRanges := rfl
@[simp] theorem State.modCore_saveFrames (s : State) (c : Nat) (f : Core → Core) : (s.modCore c f).saveFrames = s.saveFrames := rfl
@[simp] theorem State.modCore_accepts (s : State) (c : Nat) (f : Core → Core) : (s.modCore c f).accepts = s.accepts := rfl
@[simp] theorem State.modCore_early (s : State) (c : Nat) (f : Core → Core) : (s.modCore c f).early = s.early := rfl
@[simp] theorem State.modCore_snapFrames (s : State) (c : Nat) (f : Core → Core) : (s.modCore c f).snapFrames = s.snapFrames := rfl
@[simp] theorem State.modCore_hdm (s : State) (c : Nat) (f : Core → Core) : (s.modCore c f).hdm = s.hdm := rfl
@[simp] theorem State.modCore_lastDie (s : State) (c : Nat) (f : Core → Core) : (s.modCore c f).lastDie = s.lastDie := rfl
@[simp] theorem State.modCore_stamp (s : State) (c : Nat) (f : Core → Core) : (s.modCore c f).stamp = s.stamp := rfl
@[simp] theorem State.modCore_clock (s : State) (c : Nat) (f : Core → Core) : (s.modCore c f).clock = s.clock := rfl
@[simp] theorem State.modCore_ckptBase (s : State) (c : Nat) (f : Core → Core) : (s.modCore c f).ckptBase = s.ckptBase := rfl
@[simp] theorem State.modCore_ckptDir (s : State) (c : Nat) (f : Core → Core) : (s.modCore c f).ckptDir = s.ckptDir := rfl
@[simp] theorem State.modCore_ckptErr (s : State) (c : Nat) (f : Core → Core) : (s.modCore c f).ckptErr = s.ckptErr := rfl
@[simp] theorem State.modCore_ckptRun (s : State) (c : Nat) (f : Core → Core) : (s.modCore c f).ckptRun = s.ckptRun := rfl
@[simp] theorem State.modCore_ckptImage (s : State) (c : Nat) (f : Core → Core) : (s.modCore c f).ckptImage = s.ckptImage := rfl
@[simp] theorem State.modCore_firm (s : State) (c : Nat) (f : Core → Core) : (s.modCore c f).firm = s.firm := rfl

/-! `modCluster` writes `clusters` alone. -/
@[simp] theorem State.modCluster_agenda (s : State) (c : Nat) (f : Cluster → Cluster) : (s.modCluster c f).agenda = s.agenda := rfl
@[simp] theorem State.modCluster_cur (s : State) (c : Nat) (f : Cluster → Cluster) : (s.modCluster c f).cur = s.cur := rfl
@[simp] theorem State.modCluster_curPc (s : State) (c : Nat) (f : Cluster → Cluster) : (s.modCluster c f).curPc = s.curPc := rfl
@[simp] theorem State.modCluster_curOld (s : State) (c : Nat) (f : Cluster → Cluster) : (s.modCluster c f).curOld = s.curOld := rfl
@[simp] theorem State.modCluster_curFused (s : State) (c : Nat) (f : Cluster → Cluster) : (s.modCluster c f).curFused = s.curFused := rfl
@[simp] theorem State.modCluster_issues (s : State) (c : Nat) (f : Cluster → Cluster) : (s.modCluster c f).issues = s.issues := rfl
@[simp] theorem State.modCluster_draw (s : State) (c : Nat) (f : Cluster → Cluster) : (s.modCluster c f).draw = s.draw := rfl
@[simp] theorem State.modCluster_groups (s : State) (c : Nat) (f : Cluster → Cluster) : (s.modCluster c f).groups = s.groups := rfl
@[simp] theorem State.modCluster_teams (s : State) (c : Nat) (f : Cluster → Cluster) : (s.modCluster c f).teams = s.teams := rfl
@[simp] theorem State.modCluster_gangs (s : State) (c : Nat) (f : Cluster → Cluster) : (s.modCluster c f).gangs = s.gangs := rfl
@[simp] theorem State.modCluster_launches (s : State) (c : Nat) (f : Cluster → Cluster) : (s.modCluster c f).launches = s.launches := rfl
@[simp] theorem State.modCluster_counters (s : State) (c : Nat) (f : Cluster → Cluster) : (s.modCluster c f).counters = s.counters := rfl
@[simp] theorem State.modCluster_queues (s : State) (c : Nat) (f : Cluster → Cluster) : (s.modCluster c f).queues = s.queues := rfl
@[simp] theorem State.modCluster_turn (s : State) (c : Nat) (f : Cluster → Cluster) : (s.modCluster c f).turn = s.turn := rfl
@[simp] theorem State.modCluster_contexts (s : State) (c : Nat) (f : Cluster → Cluster) : (s.modCluster c f).contexts = s.contexts := rfl
@[simp] theorem State.modCluster_cores (s : State) (c : Nat) (f : Cluster → Cluster) : (s.modCluster c f).cores = s.cores := rfl
@[simp] theorem State.modCluster_dies (s : State) (c : Nat) (f : Cluster → Cluster) : (s.modCluster c f).dies = s.dies := rfl
@[simp] theorem State.modCluster_mem (s : State) (c : Nat) (f : Cluster → Cluster) : (s.modCluster c f).mem = s.mem := rfl
@[simp] theorem State.modCluster_tags (s : State) (c : Nat) (f : Cluster → Cluster) : (s.modCluster c f).tags = s.tags := rfl
@[simp] theorem State.modCluster_interleave (s : State) (c : Nat) (f : Cluster → Cluster) : (s.modCluster c f).interleave = s.interleave := rfl
@[simp] theorem State.modCluster_caches (s : State) (c : Nat) (f : Cluster → Cluster) : (s.modCluster c f).caches = s.caches := rfl
@[simp] theorem State.modCluster_tlbs (s : State) (c : Nat) (f : Cluster → Cluster) : (s.modCluster c f).tlbs = s.tlbs := rfl
@[simp] theorem State.modCluster_walks (s : State) (c : Nat) (f : Cluster → Cluster) : (s.modCluster c f).walks = s.walks := rfl
@[simp] theorem State.modCluster_misses (s : State) (c : Nat) (f : Cluster → Cluster) : (s.modCluster c f).misses = s.misses := rfl
@[simp] theorem State.modCluster_pageReqs (s : State) (c : Nat) (f : Cluster → Cluster) : (s.modCluster c f).pageReqs = s.pageReqs := rfl
@[simp] theorem State.modCluster_prAlloc (s : State) (c : Nat) (f : Cluster → Cluster) : (s.modCluster c f).prAlloc = s.prAlloc := rfl
@[simp] theorem State.modCluster_invals (s : State) (c : Nat) (f : Cluster → Cluster) : (s.modCluster c f).invals = s.invals := rfl
@[simp] theorem State.modCluster_stores (s : State) (c : Nat) (f : Cluster → Cluster) : (s.modCluster c f).stores = s.stores := rfl
@[simp] theorem State.modCluster_landing (s : State) (c : Nat) (f : Cluster → Cluster) : (s.modCluster c f).landing = s.landing := rfl
@[simp] theorem State.modCluster_pushes (s : State) (c : Nat) (f : Cluster → Cluster) : (s.modCluster c f).pushes = s.pushes := rfl
@[simp] theorem State.modCluster_engOps (s : State) (c : Nat) (f : Cluster → Cluster) : (s.modCluster c f).engOps = s.engOps := rfl
@[simp] theorem State.modCluster_inbox (s : State) (c : Nat) (f : Cluster → Cluster) : (s.modCluster c f).inbox = s.inbox := rfl
@[simp] theorem State.modCluster_nextOp (s : State) (c : Nat) (f : Cluster → Cluster) : (s.modCluster c f).nextOp = s.nextOp := rfl
@[simp] theorem State.modCluster_kdev (s : State) (c : Nat) (f : Cluster → Cluster) : (s.modCluster c f).kdev = s.kdev := rfl
@[simp] theorem State.modCluster_domSize (s : State) (c : Nat) (f : Cluster → Cluster) : (s.modCluster c f).domSize = s.domSize := rfl
@[simp] theorem State.modCluster_route (s : State) (c : Nat) (f : Cluster → Cluster) : (s.modCluster c f).route = s.route := rfl
@[simp] theorem State.modCluster_links (s : State) (c : Nat) (f : Cluster → Cluster) : (s.modCluster c f).links = s.links := rfl
@[simp] theorem State.modCluster_mcast (s : State) (c : Nat) (f : Cluster → Cluster) : (s.modCluster c f).mcast = s.mcast := rfl
@[simp] theorem State.modCluster_mcastDevs (s : State) (c : Nat) (f : Cluster → Cluster) : (s.modCluster c f).mcastDevs = s.mcastDevs := rfl
@[simp] theorem State.modCluster_trees (s : State) (c : Nat) (f : Cluster → Cluster) : (s.modCluster c f).trees = s.trees := rfl
@[simp] theorem State.modCluster_windows (s : State) (c : Nat) (f : Cluster → Cluster) : (s.modCluster c f).windows = s.windows := rfl
@[simp] theorem State.modCluster_filters (s : State) (c : Nat) (f : Cluster → Cluster) : (s.modCluster c f).filters = s.filters := rfl
@[simp] theorem State.modCluster_fabSeq (s : State) (c : Nat) (f : Cluster → Cluster) : (s.modCluster c f).fabSeq = s.fabSeq := rfl
@[simp] theorem State.modCluster_fabReqs (s : State) (c : Nat) (f : Cluster → Cluster) : (s.modCluster c f).fabReqs = s.fabReqs := rfl
@[simp] theorem State.modCluster_hostReqs (s : State) (c : Nat) (f : Cluster → Cluster) : (s.modCluster c f).hostReqs = s.hostReqs := rfl
@[simp] theorem State.modCluster_mcDiscards (s : State) (c : Nat) (f : Cluster → Cluster) : (s.modCluster c f).mcDiscards = s.mcDiscards := rfl
@[simp] theorem State.modCluster_heldIn (s : State) (c : Nat) (f : Cluster → Cluster) : (s.modCluster c f).heldIn = s.heldIn := rfl
@[simp] theorem State.modCluster_hostHeld (s : State) (c : Nat) (f : Cluster → Cluster) : (s.modCluster c f).hostHeld = s.hostHeld := rfl
@[simp] theorem State.modCluster_readies (s : State) (c : Nat) (f : Cluster → Cluster) : (s.modCluster c f).readies = s.readies := rfl
@[simp] theorem State.modCluster_swapReqs (s : State) (c : Nat) (f : Cluster → Cluster) : (s.modCluster c f).swapReqs = s.swapReqs := rfl
@[simp] theorem State.modCluster_doorbells (s : State) (c : Nat) (f : Cluster → Cluster) : (s.modCluster c f).doorbells = s.doorbells := rfl
@[simp] theorem State.modCluster_bells (s : State) (c : Nat) (f : Cluster → Cluster) : (s.modCluster c f).bells = s.bells := rfl
@[simp] theorem State.modCluster_timeout (s : State) (c : Nat) (f : Cluster → Cluster) : (s.modCluster c f).timeout = s.timeout := rfl
@[simp] theorem State.modCluster_sent (s : State) (c : Nat) (f : Cluster → Cluster) : (s.modCluster c f).sent = s.sent := rfl
@[simp] theorem State.modCluster_owned (s : State) (c : Nat) (f : Cluster → Cluster) : (s.modCluster c f).owned = s.owned := rfl
@[simp] theorem State.modCluster_hostLines (s : State) (c : Nat) (f : Cluster → Cluster) : (s.modCluster c f).hostLines = s.hostLines := rfl
@[simp] theorem State.modCluster_hostOrder (s : State) (c : Nat) (f : Cluster → Cluster) : (s.modCluster c f).hostOrder = s.hostOrder := rfl
@[simp] theorem State.modCluster_answers (s : State) (c : Nat) (f : Cluster → Cluster) : (s.modCluster c f).answers = s.answers := rfl
@[simp] theorem State.modCluster_hostRanges (s : State) (c : Nat) (f : Cluster → Cluster) : (s.modCluster c f).hostRanges = s.hostRanges := rfl
@[simp] theorem State.modCluster_saveFrames (s : State) (c : Nat) (f : Cluster → Cluster) : (s.modCluster c f).saveFrames = s.saveFrames := rfl
@[simp] theorem State.modCluster_accepts (s : State) (c : Nat) (f : Cluster → Cluster) : (s.modCluster c f).accepts = s.accepts := rfl
@[simp] theorem State.modCluster_early (s : State) (c : Nat) (f : Cluster → Cluster) : (s.modCluster c f).early = s.early := rfl
@[simp] theorem State.modCluster_snapFrames (s : State) (c : Nat) (f : Cluster → Cluster) : (s.modCluster c f).snapFrames = s.snapFrames := rfl
@[simp] theorem State.modCluster_hdm (s : State) (c : Nat) (f : Cluster → Cluster) : (s.modCluster c f).hdm = s.hdm := rfl
@[simp] theorem State.modCluster_lastDie (s : State) (c : Nat) (f : Cluster → Cluster) : (s.modCluster c f).lastDie = s.lastDie := rfl
@[simp] theorem State.modCluster_stamp (s : State) (c : Nat) (f : Cluster → Cluster) : (s.modCluster c f).stamp = s.stamp := rfl
@[simp] theorem State.modCluster_clock (s : State) (c : Nat) (f : Cluster → Cluster) : (s.modCluster c f).clock = s.clock := rfl
@[simp] theorem State.modCluster_ckptBase (s : State) (c : Nat) (f : Cluster → Cluster) : (s.modCluster c f).ckptBase = s.ckptBase := rfl
@[simp] theorem State.modCluster_ckptDir (s : State) (c : Nat) (f : Cluster → Cluster) : (s.modCluster c f).ckptDir = s.ckptDir := rfl
@[simp] theorem State.modCluster_ckptErr (s : State) (c : Nat) (f : Cluster → Cluster) : (s.modCluster c f).ckptErr = s.ckptErr := rfl
@[simp] theorem State.modCluster_ckptRun (s : State) (c : Nat) (f : Cluster → Cluster) : (s.modCluster c f).ckptRun = s.ckptRun := rfl
@[simp] theorem State.modCluster_ckptImage (s : State) (c : Nat) (f : Cluster → Cluster) : (s.modCluster c f).ckptImage = s.ckptImage := rfl
@[simp] theorem State.modCluster_firm (s : State) (c : Nat) (f : Cluster → Cluster) : (s.modCluster c f).firm = s.firm := rfl

/-! `modDie` writes `dies` alone. -/
@[simp] theorem State.modDie_agenda (s : State) (d : Nat) (f : Die → Die) : (s.modDie d f).agenda = s.agenda := rfl
@[simp] theorem State.modDie_cur (s : State) (d : Nat) (f : Die → Die) : (s.modDie d f).cur = s.cur := rfl
@[simp] theorem State.modDie_curPc (s : State) (d : Nat) (f : Die → Die) : (s.modDie d f).curPc = s.curPc := rfl
@[simp] theorem State.modDie_curOld (s : State) (d : Nat) (f : Die → Die) : (s.modDie d f).curOld = s.curOld := rfl
@[simp] theorem State.modDie_curFused (s : State) (d : Nat) (f : Die → Die) : (s.modDie d f).curFused = s.curFused := rfl
@[simp] theorem State.modDie_issues (s : State) (d : Nat) (f : Die → Die) : (s.modDie d f).issues = s.issues := rfl
@[simp] theorem State.modDie_draw (s : State) (d : Nat) (f : Die → Die) : (s.modDie d f).draw = s.draw := rfl
@[simp] theorem State.modDie_groups (s : State) (d : Nat) (f : Die → Die) : (s.modDie d f).groups = s.groups := rfl
@[simp] theorem State.modDie_teams (s : State) (d : Nat) (f : Die → Die) : (s.modDie d f).teams = s.teams := rfl
@[simp] theorem State.modDie_gangs (s : State) (d : Nat) (f : Die → Die) : (s.modDie d f).gangs = s.gangs := rfl
@[simp] theorem State.modDie_launches (s : State) (d : Nat) (f : Die → Die) : (s.modDie d f).launches = s.launches := rfl
@[simp] theorem State.modDie_counters (s : State) (d : Nat) (f : Die → Die) : (s.modDie d f).counters = s.counters := rfl
@[simp] theorem State.modDie_queues (s : State) (d : Nat) (f : Die → Die) : (s.modDie d f).queues = s.queues := rfl
@[simp] theorem State.modDie_turn (s : State) (d : Nat) (f : Die → Die) : (s.modDie d f).turn = s.turn := rfl
@[simp] theorem State.modDie_contexts (s : State) (d : Nat) (f : Die → Die) : (s.modDie d f).contexts = s.contexts := rfl
@[simp] theorem State.modDie_cores (s : State) (d : Nat) (f : Die → Die) : (s.modDie d f).cores = s.cores := rfl
@[simp] theorem State.modDie_clusters (s : State) (d : Nat) (f : Die → Die) : (s.modDie d f).clusters = s.clusters := rfl
@[simp] theorem State.modDie_mem (s : State) (d : Nat) (f : Die → Die) : (s.modDie d f).mem = s.mem := rfl
@[simp] theorem State.modDie_tags (s : State) (d : Nat) (f : Die → Die) : (s.modDie d f).tags = s.tags := rfl
@[simp] theorem State.modDie_interleave (s : State) (d : Nat) (f : Die → Die) : (s.modDie d f).interleave = s.interleave := rfl
@[simp] theorem State.modDie_caches (s : State) (d : Nat) (f : Die → Die) : (s.modDie d f).caches = s.caches := rfl
@[simp] theorem State.modDie_tlbs (s : State) (d : Nat) (f : Die → Die) : (s.modDie d f).tlbs = s.tlbs := rfl
@[simp] theorem State.modDie_walks (s : State) (d : Nat) (f : Die → Die) : (s.modDie d f).walks = s.walks := rfl
@[simp] theorem State.modDie_misses (s : State) (d : Nat) (f : Die → Die) : (s.modDie d f).misses = s.misses := rfl
@[simp] theorem State.modDie_pageReqs (s : State) (d : Nat) (f : Die → Die) : (s.modDie d f).pageReqs = s.pageReqs := rfl
@[simp] theorem State.modDie_prAlloc (s : State) (d : Nat) (f : Die → Die) : (s.modDie d f).prAlloc = s.prAlloc := rfl
@[simp] theorem State.modDie_invals (s : State) (d : Nat) (f : Die → Die) : (s.modDie d f).invals = s.invals := rfl
@[simp] theorem State.modDie_stores (s : State) (d : Nat) (f : Die → Die) : (s.modDie d f).stores = s.stores := rfl
@[simp] theorem State.modDie_landing (s : State) (d : Nat) (f : Die → Die) : (s.modDie d f).landing = s.landing := rfl
@[simp] theorem State.modDie_pushes (s : State) (d : Nat) (f : Die → Die) : (s.modDie d f).pushes = s.pushes := rfl
@[simp] theorem State.modDie_engOps (s : State) (d : Nat) (f : Die → Die) : (s.modDie d f).engOps = s.engOps := rfl
@[simp] theorem State.modDie_inbox (s : State) (d : Nat) (f : Die → Die) : (s.modDie d f).inbox = s.inbox := rfl
@[simp] theorem State.modDie_nextOp (s : State) (d : Nat) (f : Die → Die) : (s.modDie d f).nextOp = s.nextOp := rfl
@[simp] theorem State.modDie_kdev (s : State) (d : Nat) (f : Die → Die) : (s.modDie d f).kdev = s.kdev := rfl
@[simp] theorem State.modDie_domSize (s : State) (d : Nat) (f : Die → Die) : (s.modDie d f).domSize = s.domSize := rfl
@[simp] theorem State.modDie_route (s : State) (d : Nat) (f : Die → Die) : (s.modDie d f).route = s.route := rfl
@[simp] theorem State.modDie_links (s : State) (d : Nat) (f : Die → Die) : (s.modDie d f).links = s.links := rfl
@[simp] theorem State.modDie_mcast (s : State) (d : Nat) (f : Die → Die) : (s.modDie d f).mcast = s.mcast := rfl
@[simp] theorem State.modDie_mcastDevs (s : State) (d : Nat) (f : Die → Die) : (s.modDie d f).mcastDevs = s.mcastDevs := rfl
@[simp] theorem State.modDie_trees (s : State) (d : Nat) (f : Die → Die) : (s.modDie d f).trees = s.trees := rfl
@[simp] theorem State.modDie_windows (s : State) (d : Nat) (f : Die → Die) : (s.modDie d f).windows = s.windows := rfl
@[simp] theorem State.modDie_filters (s : State) (d : Nat) (f : Die → Die) : (s.modDie d f).filters = s.filters := rfl
@[simp] theorem State.modDie_fabSeq (s : State) (d : Nat) (f : Die → Die) : (s.modDie d f).fabSeq = s.fabSeq := rfl
@[simp] theorem State.modDie_fabReqs (s : State) (d : Nat) (f : Die → Die) : (s.modDie d f).fabReqs = s.fabReqs := rfl
@[simp] theorem State.modDie_hostReqs (s : State) (d : Nat) (f : Die → Die) : (s.modDie d f).hostReqs = s.hostReqs := rfl
@[simp] theorem State.modDie_mcDiscards (s : State) (d : Nat) (f : Die → Die) : (s.modDie d f).mcDiscards = s.mcDiscards := rfl
@[simp] theorem State.modDie_heldIn (s : State) (d : Nat) (f : Die → Die) : (s.modDie d f).heldIn = s.heldIn := rfl
@[simp] theorem State.modDie_hostHeld (s : State) (d : Nat) (f : Die → Die) : (s.modDie d f).hostHeld = s.hostHeld := rfl
@[simp] theorem State.modDie_readies (s : State) (d : Nat) (f : Die → Die) : (s.modDie d f).readies = s.readies := rfl
@[simp] theorem State.modDie_swapReqs (s : State) (d : Nat) (f : Die → Die) : (s.modDie d f).swapReqs = s.swapReqs := rfl
@[simp] theorem State.modDie_doorbells (s : State) (d : Nat) (f : Die → Die) : (s.modDie d f).doorbells = s.doorbells := rfl
@[simp] theorem State.modDie_bells (s : State) (d : Nat) (f : Die → Die) : (s.modDie d f).bells = s.bells := rfl
@[simp] theorem State.modDie_timeout (s : State) (d : Nat) (f : Die → Die) : (s.modDie d f).timeout = s.timeout := rfl
@[simp] theorem State.modDie_sent (s : State) (d : Nat) (f : Die → Die) : (s.modDie d f).sent = s.sent := rfl
@[simp] theorem State.modDie_owned (s : State) (d : Nat) (f : Die → Die) : (s.modDie d f).owned = s.owned := rfl
@[simp] theorem State.modDie_hostLines (s : State) (d : Nat) (f : Die → Die) : (s.modDie d f).hostLines = s.hostLines := rfl
@[simp] theorem State.modDie_hostOrder (s : State) (d : Nat) (f : Die → Die) : (s.modDie d f).hostOrder = s.hostOrder := rfl
@[simp] theorem State.modDie_answers (s : State) (d : Nat) (f : Die → Die) : (s.modDie d f).answers = s.answers := rfl
@[simp] theorem State.modDie_hostRanges (s : State) (d : Nat) (f : Die → Die) : (s.modDie d f).hostRanges = s.hostRanges := rfl
@[simp] theorem State.modDie_saveFrames (s : State) (d : Nat) (f : Die → Die) : (s.modDie d f).saveFrames = s.saveFrames := rfl
@[simp] theorem State.modDie_accepts (s : State) (d : Nat) (f : Die → Die) : (s.modDie d f).accepts = s.accepts := rfl
@[simp] theorem State.modDie_early (s : State) (d : Nat) (f : Die → Die) : (s.modDie d f).early = s.early := rfl
@[simp] theorem State.modDie_snapFrames (s : State) (d : Nat) (f : Die → Die) : (s.modDie d f).snapFrames = s.snapFrames := rfl
@[simp] theorem State.modDie_hdm (s : State) (d : Nat) (f : Die → Die) : (s.modDie d f).hdm = s.hdm := rfl
@[simp] theorem State.modDie_lastDie (s : State) (d : Nat) (f : Die → Die) : (s.modDie d f).lastDie = s.lastDie := rfl
@[simp] theorem State.modDie_stamp (s : State) (d : Nat) (f : Die → Die) : (s.modDie d f).stamp = s.stamp := rfl
@[simp] theorem State.modDie_clock (s : State) (d : Nat) (f : Die → Die) : (s.modDie d f).clock = s.clock := rfl
@[simp] theorem State.modDie_ckptBase (s : State) (d : Nat) (f : Die → Die) : (s.modDie d f).ckptBase = s.ckptBase := rfl
@[simp] theorem State.modDie_ckptDir (s : State) (d : Nat) (f : Die → Die) : (s.modDie d f).ckptDir = s.ckptDir := rfl
@[simp] theorem State.modDie_ckptErr (s : State) (d : Nat) (f : Die → Die) : (s.modDie d f).ckptErr = s.ckptErr := rfl
@[simp] theorem State.modDie_ckptRun (s : State) (d : Nat) (f : Die → Die) : (s.modDie d f).ckptRun = s.ckptRun := rfl
@[simp] theorem State.modDie_ckptImage (s : State) (d : Nat) (f : Die → Die) : (s.modDie d f).ckptImage = s.ckptImage := rfl
@[simp] theorem State.modDie_firm (s : State) (d : Nat) (f : Die → Die) : (s.modDie d f).firm = s.firm := rfl

/-! `modContext` writes `contexts` alone. -/
@[simp] theorem State.modContext_agenda (s : State) (c : Nat) (f : Context → Context) : (s.modContext c f).agenda = s.agenda := rfl
@[simp] theorem State.modContext_cur (s : State) (c : Nat) (f : Context → Context) : (s.modContext c f).cur = s.cur := rfl
@[simp] theorem State.modContext_curPc (s : State) (c : Nat) (f : Context → Context) : (s.modContext c f).curPc = s.curPc := rfl
@[simp] theorem State.modContext_curOld (s : State) (c : Nat) (f : Context → Context) : (s.modContext c f).curOld = s.curOld := rfl
@[simp] theorem State.modContext_curFused (s : State) (c : Nat) (f : Context → Context) : (s.modContext c f).curFused = s.curFused := rfl
@[simp] theorem State.modContext_issues (s : State) (c : Nat) (f : Context → Context) : (s.modContext c f).issues = s.issues := rfl
@[simp] theorem State.modContext_draw (s : State) (c : Nat) (f : Context → Context) : (s.modContext c f).draw = s.draw := rfl
@[simp] theorem State.modContext_groups (s : State) (c : Nat) (f : Context → Context) : (s.modContext c f).groups = s.groups := rfl
@[simp] theorem State.modContext_teams (s : State) (c : Nat) (f : Context → Context) : (s.modContext c f).teams = s.teams := rfl
@[simp] theorem State.modContext_gangs (s : State) (c : Nat) (f : Context → Context) : (s.modContext c f).gangs = s.gangs := rfl
@[simp] theorem State.modContext_launches (s : State) (c : Nat) (f : Context → Context) : (s.modContext c f).launches = s.launches := rfl
@[simp] theorem State.modContext_counters (s : State) (c : Nat) (f : Context → Context) : (s.modContext c f).counters = s.counters := rfl
@[simp] theorem State.modContext_queues (s : State) (c : Nat) (f : Context → Context) : (s.modContext c f).queues = s.queues := rfl
@[simp] theorem State.modContext_turn (s : State) (c : Nat) (f : Context → Context) : (s.modContext c f).turn = s.turn := rfl
@[simp] theorem State.modContext_cores (s : State) (c : Nat) (f : Context → Context) : (s.modContext c f).cores = s.cores := rfl
@[simp] theorem State.modContext_clusters (s : State) (c : Nat) (f : Context → Context) : (s.modContext c f).clusters = s.clusters := rfl
@[simp] theorem State.modContext_dies (s : State) (c : Nat) (f : Context → Context) : (s.modContext c f).dies = s.dies := rfl
@[simp] theorem State.modContext_mem (s : State) (c : Nat) (f : Context → Context) : (s.modContext c f).mem = s.mem := rfl
@[simp] theorem State.modContext_tags (s : State) (c : Nat) (f : Context → Context) : (s.modContext c f).tags = s.tags := rfl
@[simp] theorem State.modContext_interleave (s : State) (c : Nat) (f : Context → Context) : (s.modContext c f).interleave = s.interleave := rfl
@[simp] theorem State.modContext_caches (s : State) (c : Nat) (f : Context → Context) : (s.modContext c f).caches = s.caches := rfl
@[simp] theorem State.modContext_tlbs (s : State) (c : Nat) (f : Context → Context) : (s.modContext c f).tlbs = s.tlbs := rfl
@[simp] theorem State.modContext_walks (s : State) (c : Nat) (f : Context → Context) : (s.modContext c f).walks = s.walks := rfl
@[simp] theorem State.modContext_misses (s : State) (c : Nat) (f : Context → Context) : (s.modContext c f).misses = s.misses := rfl
@[simp] theorem State.modContext_pageReqs (s : State) (c : Nat) (f : Context → Context) : (s.modContext c f).pageReqs = s.pageReqs := rfl
@[simp] theorem State.modContext_prAlloc (s : State) (c : Nat) (f : Context → Context) : (s.modContext c f).prAlloc = s.prAlloc := rfl
@[simp] theorem State.modContext_invals (s : State) (c : Nat) (f : Context → Context) : (s.modContext c f).invals = s.invals := rfl
@[simp] theorem State.modContext_stores (s : State) (c : Nat) (f : Context → Context) : (s.modContext c f).stores = s.stores := rfl
@[simp] theorem State.modContext_landing (s : State) (c : Nat) (f : Context → Context) : (s.modContext c f).landing = s.landing := rfl
@[simp] theorem State.modContext_pushes (s : State) (c : Nat) (f : Context → Context) : (s.modContext c f).pushes = s.pushes := rfl
@[simp] theorem State.modContext_engOps (s : State) (c : Nat) (f : Context → Context) : (s.modContext c f).engOps = s.engOps := rfl
@[simp] theorem State.modContext_inbox (s : State) (c : Nat) (f : Context → Context) : (s.modContext c f).inbox = s.inbox := rfl
@[simp] theorem State.modContext_nextOp (s : State) (c : Nat) (f : Context → Context) : (s.modContext c f).nextOp = s.nextOp := rfl
@[simp] theorem State.modContext_kdev (s : State) (c : Nat) (f : Context → Context) : (s.modContext c f).kdev = s.kdev := rfl
@[simp] theorem State.modContext_domSize (s : State) (c : Nat) (f : Context → Context) : (s.modContext c f).domSize = s.domSize := rfl
@[simp] theorem State.modContext_route (s : State) (c : Nat) (f : Context → Context) : (s.modContext c f).route = s.route := rfl
@[simp] theorem State.modContext_links (s : State) (c : Nat) (f : Context → Context) : (s.modContext c f).links = s.links := rfl
@[simp] theorem State.modContext_mcast (s : State) (c : Nat) (f : Context → Context) : (s.modContext c f).mcast = s.mcast := rfl
@[simp] theorem State.modContext_mcastDevs (s : State) (c : Nat) (f : Context → Context) : (s.modContext c f).mcastDevs = s.mcastDevs := rfl
@[simp] theorem State.modContext_trees (s : State) (c : Nat) (f : Context → Context) : (s.modContext c f).trees = s.trees := rfl
@[simp] theorem State.modContext_windows (s : State) (c : Nat) (f : Context → Context) : (s.modContext c f).windows = s.windows := rfl
@[simp] theorem State.modContext_filters (s : State) (c : Nat) (f : Context → Context) : (s.modContext c f).filters = s.filters := rfl
@[simp] theorem State.modContext_fabSeq (s : State) (c : Nat) (f : Context → Context) : (s.modContext c f).fabSeq = s.fabSeq := rfl
@[simp] theorem State.modContext_fabReqs (s : State) (c : Nat) (f : Context → Context) : (s.modContext c f).fabReqs = s.fabReqs := rfl
@[simp] theorem State.modContext_hostReqs (s : State) (c : Nat) (f : Context → Context) : (s.modContext c f).hostReqs = s.hostReqs := rfl
@[simp] theorem State.modContext_mcDiscards (s : State) (c : Nat) (f : Context → Context) : (s.modContext c f).mcDiscards = s.mcDiscards := rfl
@[simp] theorem State.modContext_heldIn (s : State) (c : Nat) (f : Context → Context) : (s.modContext c f).heldIn = s.heldIn := rfl
@[simp] theorem State.modContext_hostHeld (s : State) (c : Nat) (f : Context → Context) : (s.modContext c f).hostHeld = s.hostHeld := rfl
@[simp] theorem State.modContext_readies (s : State) (c : Nat) (f : Context → Context) : (s.modContext c f).readies = s.readies := rfl
@[simp] theorem State.modContext_swapReqs (s : State) (c : Nat) (f : Context → Context) : (s.modContext c f).swapReqs = s.swapReqs := rfl
@[simp] theorem State.modContext_doorbells (s : State) (c : Nat) (f : Context → Context) : (s.modContext c f).doorbells = s.doorbells := rfl
@[simp] theorem State.modContext_bells (s : State) (c : Nat) (f : Context → Context) : (s.modContext c f).bells = s.bells := rfl
@[simp] theorem State.modContext_timeout (s : State) (c : Nat) (f : Context → Context) : (s.modContext c f).timeout = s.timeout := rfl
@[simp] theorem State.modContext_sent (s : State) (c : Nat) (f : Context → Context) : (s.modContext c f).sent = s.sent := rfl
@[simp] theorem State.modContext_owned (s : State) (c : Nat) (f : Context → Context) : (s.modContext c f).owned = s.owned := rfl
@[simp] theorem State.modContext_hostLines (s : State) (c : Nat) (f : Context → Context) : (s.modContext c f).hostLines = s.hostLines := rfl
@[simp] theorem State.modContext_hostOrder (s : State) (c : Nat) (f : Context → Context) : (s.modContext c f).hostOrder = s.hostOrder := rfl
@[simp] theorem State.modContext_answers (s : State) (c : Nat) (f : Context → Context) : (s.modContext c f).answers = s.answers := rfl
@[simp] theorem State.modContext_hostRanges (s : State) (c : Nat) (f : Context → Context) : (s.modContext c f).hostRanges = s.hostRanges := rfl
@[simp] theorem State.modContext_saveFrames (s : State) (c : Nat) (f : Context → Context) : (s.modContext c f).saveFrames = s.saveFrames := rfl
@[simp] theorem State.modContext_accepts (s : State) (c : Nat) (f : Context → Context) : (s.modContext c f).accepts = s.accepts := rfl
@[simp] theorem State.modContext_early (s : State) (c : Nat) (f : Context → Context) : (s.modContext c f).early = s.early := rfl
@[simp] theorem State.modContext_snapFrames (s : State) (c : Nat) (f : Context → Context) : (s.modContext c f).snapFrames = s.snapFrames := rfl
@[simp] theorem State.modContext_hdm (s : State) (c : Nat) (f : Context → Context) : (s.modContext c f).hdm = s.hdm := rfl
@[simp] theorem State.modContext_lastDie (s : State) (c : Nat) (f : Context → Context) : (s.modContext c f).lastDie = s.lastDie := rfl
@[simp] theorem State.modContext_stamp (s : State) (c : Nat) (f : Context → Context) : (s.modContext c f).stamp = s.stamp := rfl
@[simp] theorem State.modContext_clock (s : State) (c : Nat) (f : Context → Context) : (s.modContext c f).clock = s.clock := rfl
@[simp] theorem State.modContext_ckptBase (s : State) (c : Nat) (f : Context → Context) : (s.modContext c f).ckptBase = s.ckptBase := rfl
@[simp] theorem State.modContext_ckptDir (s : State) (c : Nat) (f : Context → Context) : (s.modContext c f).ckptDir = s.ckptDir := rfl
@[simp] theorem State.modContext_ckptErr (s : State) (c : Nat) (f : Context → Context) : (s.modContext c f).ckptErr = s.ckptErr := rfl
@[simp] theorem State.modContext_ckptRun (s : State) (c : Nat) (f : Context → Context) : (s.modContext c f).ckptRun = s.ckptRun := rfl
@[simp] theorem State.modContext_ckptImage (s : State) (c : Nat) (f : Context → Context) : (s.modContext c f).ckptImage = s.ckptImage := rfl
@[simp] theorem State.modContext_firm (s : State) (c : Nat) (f : Context → Context) : (s.modContext c f).firm = s.firm := rfl

/-! `modCounter` writes `counters` alone. -/
@[simp] theorem State.modCounter_agenda (s : State) (c : Nat) (f : Counter → Counter) : (s.modCounter c f).agenda = s.agenda := rfl
@[simp] theorem State.modCounter_cur (s : State) (c : Nat) (f : Counter → Counter) : (s.modCounter c f).cur = s.cur := rfl
@[simp] theorem State.modCounter_curPc (s : State) (c : Nat) (f : Counter → Counter) : (s.modCounter c f).curPc = s.curPc := rfl
@[simp] theorem State.modCounter_curOld (s : State) (c : Nat) (f : Counter → Counter) : (s.modCounter c f).curOld = s.curOld := rfl
@[simp] theorem State.modCounter_curFused (s : State) (c : Nat) (f : Counter → Counter) : (s.modCounter c f).curFused = s.curFused := rfl
@[simp] theorem State.modCounter_issues (s : State) (c : Nat) (f : Counter → Counter) : (s.modCounter c f).issues = s.issues := rfl
@[simp] theorem State.modCounter_draw (s : State) (c : Nat) (f : Counter → Counter) : (s.modCounter c f).draw = s.draw := rfl
@[simp] theorem State.modCounter_groups (s : State) (c : Nat) (f : Counter → Counter) : (s.modCounter c f).groups = s.groups := rfl
@[simp] theorem State.modCounter_teams (s : State) (c : Nat) (f : Counter → Counter) : (s.modCounter c f).teams = s.teams := rfl
@[simp] theorem State.modCounter_gangs (s : State) (c : Nat) (f : Counter → Counter) : (s.modCounter c f).gangs = s.gangs := rfl
@[simp] theorem State.modCounter_launches (s : State) (c : Nat) (f : Counter → Counter) : (s.modCounter c f).launches = s.launches := rfl
@[simp] theorem State.modCounter_queues (s : State) (c : Nat) (f : Counter → Counter) : (s.modCounter c f).queues = s.queues := rfl
@[simp] theorem State.modCounter_turn (s : State) (c : Nat) (f : Counter → Counter) : (s.modCounter c f).turn = s.turn := rfl
@[simp] theorem State.modCounter_contexts (s : State) (c : Nat) (f : Counter → Counter) : (s.modCounter c f).contexts = s.contexts := rfl
@[simp] theorem State.modCounter_cores (s : State) (c : Nat) (f : Counter → Counter) : (s.modCounter c f).cores = s.cores := rfl
@[simp] theorem State.modCounter_clusters (s : State) (c : Nat) (f : Counter → Counter) : (s.modCounter c f).clusters = s.clusters := rfl
@[simp] theorem State.modCounter_dies (s : State) (c : Nat) (f : Counter → Counter) : (s.modCounter c f).dies = s.dies := rfl
@[simp] theorem State.modCounter_mem (s : State) (c : Nat) (f : Counter → Counter) : (s.modCounter c f).mem = s.mem := rfl
@[simp] theorem State.modCounter_tags (s : State) (c : Nat) (f : Counter → Counter) : (s.modCounter c f).tags = s.tags := rfl
@[simp] theorem State.modCounter_interleave (s : State) (c : Nat) (f : Counter → Counter) : (s.modCounter c f).interleave = s.interleave := rfl
@[simp] theorem State.modCounter_caches (s : State) (c : Nat) (f : Counter → Counter) : (s.modCounter c f).caches = s.caches := rfl
@[simp] theorem State.modCounter_tlbs (s : State) (c : Nat) (f : Counter → Counter) : (s.modCounter c f).tlbs = s.tlbs := rfl
@[simp] theorem State.modCounter_walks (s : State) (c : Nat) (f : Counter → Counter) : (s.modCounter c f).walks = s.walks := rfl
@[simp] theorem State.modCounter_misses (s : State) (c : Nat) (f : Counter → Counter) : (s.modCounter c f).misses = s.misses := rfl
@[simp] theorem State.modCounter_pageReqs (s : State) (c : Nat) (f : Counter → Counter) : (s.modCounter c f).pageReqs = s.pageReqs := rfl
@[simp] theorem State.modCounter_prAlloc (s : State) (c : Nat) (f : Counter → Counter) : (s.modCounter c f).prAlloc = s.prAlloc := rfl
@[simp] theorem State.modCounter_invals (s : State) (c : Nat) (f : Counter → Counter) : (s.modCounter c f).invals = s.invals := rfl
@[simp] theorem State.modCounter_stores (s : State) (c : Nat) (f : Counter → Counter) : (s.modCounter c f).stores = s.stores := rfl
@[simp] theorem State.modCounter_landing (s : State) (c : Nat) (f : Counter → Counter) : (s.modCounter c f).landing = s.landing := rfl
@[simp] theorem State.modCounter_pushes (s : State) (c : Nat) (f : Counter → Counter) : (s.modCounter c f).pushes = s.pushes := rfl
@[simp] theorem State.modCounter_engOps (s : State) (c : Nat) (f : Counter → Counter) : (s.modCounter c f).engOps = s.engOps := rfl
@[simp] theorem State.modCounter_inbox (s : State) (c : Nat) (f : Counter → Counter) : (s.modCounter c f).inbox = s.inbox := rfl
@[simp] theorem State.modCounter_nextOp (s : State) (c : Nat) (f : Counter → Counter) : (s.modCounter c f).nextOp = s.nextOp := rfl
@[simp] theorem State.modCounter_kdev (s : State) (c : Nat) (f : Counter → Counter) : (s.modCounter c f).kdev = s.kdev := rfl
@[simp] theorem State.modCounter_domSize (s : State) (c : Nat) (f : Counter → Counter) : (s.modCounter c f).domSize = s.domSize := rfl
@[simp] theorem State.modCounter_route (s : State) (c : Nat) (f : Counter → Counter) : (s.modCounter c f).route = s.route := rfl
@[simp] theorem State.modCounter_links (s : State) (c : Nat) (f : Counter → Counter) : (s.modCounter c f).links = s.links := rfl
@[simp] theorem State.modCounter_mcast (s : State) (c : Nat) (f : Counter → Counter) : (s.modCounter c f).mcast = s.mcast := rfl
@[simp] theorem State.modCounter_mcastDevs (s : State) (c : Nat) (f : Counter → Counter) : (s.modCounter c f).mcastDevs = s.mcastDevs := rfl
@[simp] theorem State.modCounter_trees (s : State) (c : Nat) (f : Counter → Counter) : (s.modCounter c f).trees = s.trees := rfl
@[simp] theorem State.modCounter_windows (s : State) (c : Nat) (f : Counter → Counter) : (s.modCounter c f).windows = s.windows := rfl
@[simp] theorem State.modCounter_filters (s : State) (c : Nat) (f : Counter → Counter) : (s.modCounter c f).filters = s.filters := rfl
@[simp] theorem State.modCounter_fabSeq (s : State) (c : Nat) (f : Counter → Counter) : (s.modCounter c f).fabSeq = s.fabSeq := rfl
@[simp] theorem State.modCounter_fabReqs (s : State) (c : Nat) (f : Counter → Counter) : (s.modCounter c f).fabReqs = s.fabReqs := rfl
@[simp] theorem State.modCounter_hostReqs (s : State) (c : Nat) (f : Counter → Counter) : (s.modCounter c f).hostReqs = s.hostReqs := rfl
@[simp] theorem State.modCounter_mcDiscards (s : State) (c : Nat) (f : Counter → Counter) : (s.modCounter c f).mcDiscards = s.mcDiscards := rfl
@[simp] theorem State.modCounter_heldIn (s : State) (c : Nat) (f : Counter → Counter) : (s.modCounter c f).heldIn = s.heldIn := rfl
@[simp] theorem State.modCounter_hostHeld (s : State) (c : Nat) (f : Counter → Counter) : (s.modCounter c f).hostHeld = s.hostHeld := rfl
@[simp] theorem State.modCounter_readies (s : State) (c : Nat) (f : Counter → Counter) : (s.modCounter c f).readies = s.readies := rfl
@[simp] theorem State.modCounter_swapReqs (s : State) (c : Nat) (f : Counter → Counter) : (s.modCounter c f).swapReqs = s.swapReqs := rfl
@[simp] theorem State.modCounter_doorbells (s : State) (c : Nat) (f : Counter → Counter) : (s.modCounter c f).doorbells = s.doorbells := rfl
@[simp] theorem State.modCounter_bells (s : State) (c : Nat) (f : Counter → Counter) : (s.modCounter c f).bells = s.bells := rfl
@[simp] theorem State.modCounter_timeout (s : State) (c : Nat) (f : Counter → Counter) : (s.modCounter c f).timeout = s.timeout := rfl
@[simp] theorem State.modCounter_sent (s : State) (c : Nat) (f : Counter → Counter) : (s.modCounter c f).sent = s.sent := rfl
@[simp] theorem State.modCounter_owned (s : State) (c : Nat) (f : Counter → Counter) : (s.modCounter c f).owned = s.owned := rfl
@[simp] theorem State.modCounter_hostLines (s : State) (c : Nat) (f : Counter → Counter) : (s.modCounter c f).hostLines = s.hostLines := rfl
@[simp] theorem State.modCounter_hostOrder (s : State) (c : Nat) (f : Counter → Counter) : (s.modCounter c f).hostOrder = s.hostOrder := rfl
@[simp] theorem State.modCounter_answers (s : State) (c : Nat) (f : Counter → Counter) : (s.modCounter c f).answers = s.answers := rfl
@[simp] theorem State.modCounter_hostRanges (s : State) (c : Nat) (f : Counter → Counter) : (s.modCounter c f).hostRanges = s.hostRanges := rfl
@[simp] theorem State.modCounter_saveFrames (s : State) (c : Nat) (f : Counter → Counter) : (s.modCounter c f).saveFrames = s.saveFrames := rfl
@[simp] theorem State.modCounter_accepts (s : State) (c : Nat) (f : Counter → Counter) : (s.modCounter c f).accepts = s.accepts := rfl
@[simp] theorem State.modCounter_early (s : State) (c : Nat) (f : Counter → Counter) : (s.modCounter c f).early = s.early := rfl
@[simp] theorem State.modCounter_snapFrames (s : State) (c : Nat) (f : Counter → Counter) : (s.modCounter c f).snapFrames = s.snapFrames := rfl
@[simp] theorem State.modCounter_hdm (s : State) (c : Nat) (f : Counter → Counter) : (s.modCounter c f).hdm = s.hdm := rfl
@[simp] theorem State.modCounter_lastDie (s : State) (c : Nat) (f : Counter → Counter) : (s.modCounter c f).lastDie = s.lastDie := rfl
@[simp] theorem State.modCounter_stamp (s : State) (c : Nat) (f : Counter → Counter) : (s.modCounter c f).stamp = s.stamp := rfl
@[simp] theorem State.modCounter_clock (s : State) (c : Nat) (f : Counter → Counter) : (s.modCounter c f).clock = s.clock := rfl
@[simp] theorem State.modCounter_ckptBase (s : State) (c : Nat) (f : Counter → Counter) : (s.modCounter c f).ckptBase = s.ckptBase := rfl
@[simp] theorem State.modCounter_ckptDir (s : State) (c : Nat) (f : Counter → Counter) : (s.modCounter c f).ckptDir = s.ckptDir := rfl
@[simp] theorem State.modCounter_ckptErr (s : State) (c : Nat) (f : Counter → Counter) : (s.modCounter c f).ckptErr = s.ckptErr := rfl
@[simp] theorem State.modCounter_ckptRun (s : State) (c : Nat) (f : Counter → Counter) : (s.modCounter c f).ckptRun = s.ckptRun := rfl
@[simp] theorem State.modCounter_ckptImage (s : State) (c : Nat) (f : Counter → Counter) : (s.modCounter c f).ckptImage = s.ckptImage := rfl
@[simp] theorem State.modCounter_firm (s : State) (c : Nat) (f : Counter → Counter) : (s.modCounter c f).firm = s.firm := rfl

/-! `modQueue` writes `queues` alone. -/
@[simp] theorem State.modQueue_agenda (s : State) (k : Nat) (f : Queue → Queue) : (s.modQueue k f).agenda = s.agenda := rfl
@[simp] theorem State.modQueue_cur (s : State) (k : Nat) (f : Queue → Queue) : (s.modQueue k f).cur = s.cur := rfl
@[simp] theorem State.modQueue_curPc (s : State) (k : Nat) (f : Queue → Queue) : (s.modQueue k f).curPc = s.curPc := rfl
@[simp] theorem State.modQueue_curOld (s : State) (k : Nat) (f : Queue → Queue) : (s.modQueue k f).curOld = s.curOld := rfl
@[simp] theorem State.modQueue_curFused (s : State) (k : Nat) (f : Queue → Queue) : (s.modQueue k f).curFused = s.curFused := rfl
@[simp] theorem State.modQueue_issues (s : State) (k : Nat) (f : Queue → Queue) : (s.modQueue k f).issues = s.issues := rfl
@[simp] theorem State.modQueue_draw (s : State) (k : Nat) (f : Queue → Queue) : (s.modQueue k f).draw = s.draw := rfl
@[simp] theorem State.modQueue_groups (s : State) (k : Nat) (f : Queue → Queue) : (s.modQueue k f).groups = s.groups := rfl
@[simp] theorem State.modQueue_teams (s : State) (k : Nat) (f : Queue → Queue) : (s.modQueue k f).teams = s.teams := rfl
@[simp] theorem State.modQueue_gangs (s : State) (k : Nat) (f : Queue → Queue) : (s.modQueue k f).gangs = s.gangs := rfl
@[simp] theorem State.modQueue_launches (s : State) (k : Nat) (f : Queue → Queue) : (s.modQueue k f).launches = s.launches := rfl
@[simp] theorem State.modQueue_counters (s : State) (k : Nat) (f : Queue → Queue) : (s.modQueue k f).counters = s.counters := rfl
@[simp] theorem State.modQueue_turn (s : State) (k : Nat) (f : Queue → Queue) : (s.modQueue k f).turn = s.turn := rfl
@[simp] theorem State.modQueue_contexts (s : State) (k : Nat) (f : Queue → Queue) : (s.modQueue k f).contexts = s.contexts := rfl
@[simp] theorem State.modQueue_cores (s : State) (k : Nat) (f : Queue → Queue) : (s.modQueue k f).cores = s.cores := rfl
@[simp] theorem State.modQueue_clusters (s : State) (k : Nat) (f : Queue → Queue) : (s.modQueue k f).clusters = s.clusters := rfl
@[simp] theorem State.modQueue_dies (s : State) (k : Nat) (f : Queue → Queue) : (s.modQueue k f).dies = s.dies := rfl
@[simp] theorem State.modQueue_mem (s : State) (k : Nat) (f : Queue → Queue) : (s.modQueue k f).mem = s.mem := rfl
@[simp] theorem State.modQueue_tags (s : State) (k : Nat) (f : Queue → Queue) : (s.modQueue k f).tags = s.tags := rfl
@[simp] theorem State.modQueue_interleave (s : State) (k : Nat) (f : Queue → Queue) : (s.modQueue k f).interleave = s.interleave := rfl
@[simp] theorem State.modQueue_caches (s : State) (k : Nat) (f : Queue → Queue) : (s.modQueue k f).caches = s.caches := rfl
@[simp] theorem State.modQueue_tlbs (s : State) (k : Nat) (f : Queue → Queue) : (s.modQueue k f).tlbs = s.tlbs := rfl
@[simp] theorem State.modQueue_walks (s : State) (k : Nat) (f : Queue → Queue) : (s.modQueue k f).walks = s.walks := rfl
@[simp] theorem State.modQueue_misses (s : State) (k : Nat) (f : Queue → Queue) : (s.modQueue k f).misses = s.misses := rfl
@[simp] theorem State.modQueue_pageReqs (s : State) (k : Nat) (f : Queue → Queue) : (s.modQueue k f).pageReqs = s.pageReqs := rfl
@[simp] theorem State.modQueue_prAlloc (s : State) (k : Nat) (f : Queue → Queue) : (s.modQueue k f).prAlloc = s.prAlloc := rfl
@[simp] theorem State.modQueue_invals (s : State) (k : Nat) (f : Queue → Queue) : (s.modQueue k f).invals = s.invals := rfl
@[simp] theorem State.modQueue_stores (s : State) (k : Nat) (f : Queue → Queue) : (s.modQueue k f).stores = s.stores := rfl
@[simp] theorem State.modQueue_landing (s : State) (k : Nat) (f : Queue → Queue) : (s.modQueue k f).landing = s.landing := rfl
@[simp] theorem State.modQueue_pushes (s : State) (k : Nat) (f : Queue → Queue) : (s.modQueue k f).pushes = s.pushes := rfl
@[simp] theorem State.modQueue_engOps (s : State) (k : Nat) (f : Queue → Queue) : (s.modQueue k f).engOps = s.engOps := rfl
@[simp] theorem State.modQueue_inbox (s : State) (k : Nat) (f : Queue → Queue) : (s.modQueue k f).inbox = s.inbox := rfl
@[simp] theorem State.modQueue_nextOp (s : State) (k : Nat) (f : Queue → Queue) : (s.modQueue k f).nextOp = s.nextOp := rfl
@[simp] theorem State.modQueue_kdev (s : State) (k : Nat) (f : Queue → Queue) : (s.modQueue k f).kdev = s.kdev := rfl
@[simp] theorem State.modQueue_domSize (s : State) (k : Nat) (f : Queue → Queue) : (s.modQueue k f).domSize = s.domSize := rfl
@[simp] theorem State.modQueue_route (s : State) (k : Nat) (f : Queue → Queue) : (s.modQueue k f).route = s.route := rfl
@[simp] theorem State.modQueue_links (s : State) (k : Nat) (f : Queue → Queue) : (s.modQueue k f).links = s.links := rfl
@[simp] theorem State.modQueue_mcast (s : State) (k : Nat) (f : Queue → Queue) : (s.modQueue k f).mcast = s.mcast := rfl
@[simp] theorem State.modQueue_mcastDevs (s : State) (k : Nat) (f : Queue → Queue) : (s.modQueue k f).mcastDevs = s.mcastDevs := rfl
@[simp] theorem State.modQueue_trees (s : State) (k : Nat) (f : Queue → Queue) : (s.modQueue k f).trees = s.trees := rfl
@[simp] theorem State.modQueue_windows (s : State) (k : Nat) (f : Queue → Queue) : (s.modQueue k f).windows = s.windows := rfl
@[simp] theorem State.modQueue_filters (s : State) (k : Nat) (f : Queue → Queue) : (s.modQueue k f).filters = s.filters := rfl
@[simp] theorem State.modQueue_fabSeq (s : State) (k : Nat) (f : Queue → Queue) : (s.modQueue k f).fabSeq = s.fabSeq := rfl
@[simp] theorem State.modQueue_fabReqs (s : State) (k : Nat) (f : Queue → Queue) : (s.modQueue k f).fabReqs = s.fabReqs := rfl
@[simp] theorem State.modQueue_hostReqs (s : State) (k : Nat) (f : Queue → Queue) : (s.modQueue k f).hostReqs = s.hostReqs := rfl
@[simp] theorem State.modQueue_mcDiscards (s : State) (k : Nat) (f : Queue → Queue) : (s.modQueue k f).mcDiscards = s.mcDiscards := rfl
@[simp] theorem State.modQueue_heldIn (s : State) (k : Nat) (f : Queue → Queue) : (s.modQueue k f).heldIn = s.heldIn := rfl
@[simp] theorem State.modQueue_hostHeld (s : State) (k : Nat) (f : Queue → Queue) : (s.modQueue k f).hostHeld = s.hostHeld := rfl
@[simp] theorem State.modQueue_readies (s : State) (k : Nat) (f : Queue → Queue) : (s.modQueue k f).readies = s.readies := rfl
@[simp] theorem State.modQueue_swapReqs (s : State) (k : Nat) (f : Queue → Queue) : (s.modQueue k f).swapReqs = s.swapReqs := rfl
@[simp] theorem State.modQueue_doorbells (s : State) (k : Nat) (f : Queue → Queue) : (s.modQueue k f).doorbells = s.doorbells := rfl
@[simp] theorem State.modQueue_bells (s : State) (k : Nat) (f : Queue → Queue) : (s.modQueue k f).bells = s.bells := rfl
@[simp] theorem State.modQueue_timeout (s : State) (k : Nat) (f : Queue → Queue) : (s.modQueue k f).timeout = s.timeout := rfl
@[simp] theorem State.modQueue_sent (s : State) (k : Nat) (f : Queue → Queue) : (s.modQueue k f).sent = s.sent := rfl
@[simp] theorem State.modQueue_owned (s : State) (k : Nat) (f : Queue → Queue) : (s.modQueue k f).owned = s.owned := rfl
@[simp] theorem State.modQueue_hostLines (s : State) (k : Nat) (f : Queue → Queue) : (s.modQueue k f).hostLines = s.hostLines := rfl
@[simp] theorem State.modQueue_hostOrder (s : State) (k : Nat) (f : Queue → Queue) : (s.modQueue k f).hostOrder = s.hostOrder := rfl
@[simp] theorem State.modQueue_answers (s : State) (k : Nat) (f : Queue → Queue) : (s.modQueue k f).answers = s.answers := rfl
@[simp] theorem State.modQueue_hostRanges (s : State) (k : Nat) (f : Queue → Queue) : (s.modQueue k f).hostRanges = s.hostRanges := rfl
@[simp] theorem State.modQueue_saveFrames (s : State) (k : Nat) (f : Queue → Queue) : (s.modQueue k f).saveFrames = s.saveFrames := rfl
@[simp] theorem State.modQueue_accepts (s : State) (k : Nat) (f : Queue → Queue) : (s.modQueue k f).accepts = s.accepts := rfl
@[simp] theorem State.modQueue_early (s : State) (k : Nat) (f : Queue → Queue) : (s.modQueue k f).early = s.early := rfl
@[simp] theorem State.modQueue_snapFrames (s : State) (k : Nat) (f : Queue → Queue) : (s.modQueue k f).snapFrames = s.snapFrames := rfl
@[simp] theorem State.modQueue_hdm (s : State) (k : Nat) (f : Queue → Queue) : (s.modQueue k f).hdm = s.hdm := rfl
@[simp] theorem State.modQueue_lastDie (s : State) (k : Nat) (f : Queue → Queue) : (s.modQueue k f).lastDie = s.lastDie := rfl
@[simp] theorem State.modQueue_stamp (s : State) (k : Nat) (f : Queue → Queue) : (s.modQueue k f).stamp = s.stamp := rfl
@[simp] theorem State.modQueue_clock (s : State) (k : Nat) (f : Queue → Queue) : (s.modQueue k f).clock = s.clock := rfl
@[simp] theorem State.modQueue_ckptBase (s : State) (k : Nat) (f : Queue → Queue) : (s.modQueue k f).ckptBase = s.ckptBase := rfl
@[simp] theorem State.modQueue_ckptDir (s : State) (k : Nat) (f : Queue → Queue) : (s.modQueue k f).ckptDir = s.ckptDir := rfl
@[simp] theorem State.modQueue_ckptErr (s : State) (k : Nat) (f : Queue → Queue) : (s.modQueue k f).ckptErr = s.ckptErr := rfl
@[simp] theorem State.modQueue_ckptRun (s : State) (k : Nat) (f : Queue → Queue) : (s.modQueue k f).ckptRun = s.ckptRun := rfl
@[simp] theorem State.modQueue_ckptImage (s : State) (k : Nat) (f : Queue → Queue) : (s.modQueue k f).ckptImage = s.ckptImage := rfl
@[simp] theorem State.modQueue_firm (s : State) (k : Nat) (f : Queue → Queue) : (s.modQueue k f).firm = s.firm := rfl

/-! `modGang` writes `gangs` alone. -/
@[simp] theorem State.modGang_agenda (s : State) (k : Nat) (f : Gang → Gang) : (s.modGang k f).agenda = s.agenda := rfl
@[simp] theorem State.modGang_cur (s : State) (k : Nat) (f : Gang → Gang) : (s.modGang k f).cur = s.cur := rfl
@[simp] theorem State.modGang_curPc (s : State) (k : Nat) (f : Gang → Gang) : (s.modGang k f).curPc = s.curPc := rfl
@[simp] theorem State.modGang_curOld (s : State) (k : Nat) (f : Gang → Gang) : (s.modGang k f).curOld = s.curOld := rfl
@[simp] theorem State.modGang_curFused (s : State) (k : Nat) (f : Gang → Gang) : (s.modGang k f).curFused = s.curFused := rfl
@[simp] theorem State.modGang_issues (s : State) (k : Nat) (f : Gang → Gang) : (s.modGang k f).issues = s.issues := rfl
@[simp] theorem State.modGang_draw (s : State) (k : Nat) (f : Gang → Gang) : (s.modGang k f).draw = s.draw := rfl
@[simp] theorem State.modGang_groups (s : State) (k : Nat) (f : Gang → Gang) : (s.modGang k f).groups = s.groups := rfl
@[simp] theorem State.modGang_teams (s : State) (k : Nat) (f : Gang → Gang) : (s.modGang k f).teams = s.teams := rfl
@[simp] theorem State.modGang_launches (s : State) (k : Nat) (f : Gang → Gang) : (s.modGang k f).launches = s.launches := rfl
@[simp] theorem State.modGang_counters (s : State) (k : Nat) (f : Gang → Gang) : (s.modGang k f).counters = s.counters := rfl
@[simp] theorem State.modGang_queues (s : State) (k : Nat) (f : Gang → Gang) : (s.modGang k f).queues = s.queues := rfl
@[simp] theorem State.modGang_turn (s : State) (k : Nat) (f : Gang → Gang) : (s.modGang k f).turn = s.turn := rfl
@[simp] theorem State.modGang_contexts (s : State) (k : Nat) (f : Gang → Gang) : (s.modGang k f).contexts = s.contexts := rfl
@[simp] theorem State.modGang_cores (s : State) (k : Nat) (f : Gang → Gang) : (s.modGang k f).cores = s.cores := rfl
@[simp] theorem State.modGang_clusters (s : State) (k : Nat) (f : Gang → Gang) : (s.modGang k f).clusters = s.clusters := rfl
@[simp] theorem State.modGang_dies (s : State) (k : Nat) (f : Gang → Gang) : (s.modGang k f).dies = s.dies := rfl
@[simp] theorem State.modGang_mem (s : State) (k : Nat) (f : Gang → Gang) : (s.modGang k f).mem = s.mem := rfl
@[simp] theorem State.modGang_tags (s : State) (k : Nat) (f : Gang → Gang) : (s.modGang k f).tags = s.tags := rfl
@[simp] theorem State.modGang_interleave (s : State) (k : Nat) (f : Gang → Gang) : (s.modGang k f).interleave = s.interleave := rfl
@[simp] theorem State.modGang_caches (s : State) (k : Nat) (f : Gang → Gang) : (s.modGang k f).caches = s.caches := rfl
@[simp] theorem State.modGang_tlbs (s : State) (k : Nat) (f : Gang → Gang) : (s.modGang k f).tlbs = s.tlbs := rfl
@[simp] theorem State.modGang_walks (s : State) (k : Nat) (f : Gang → Gang) : (s.modGang k f).walks = s.walks := rfl
@[simp] theorem State.modGang_misses (s : State) (k : Nat) (f : Gang → Gang) : (s.modGang k f).misses = s.misses := rfl
@[simp] theorem State.modGang_pageReqs (s : State) (k : Nat) (f : Gang → Gang) : (s.modGang k f).pageReqs = s.pageReqs := rfl
@[simp] theorem State.modGang_prAlloc (s : State) (k : Nat) (f : Gang → Gang) : (s.modGang k f).prAlloc = s.prAlloc := rfl
@[simp] theorem State.modGang_invals (s : State) (k : Nat) (f : Gang → Gang) : (s.modGang k f).invals = s.invals := rfl
@[simp] theorem State.modGang_stores (s : State) (k : Nat) (f : Gang → Gang) : (s.modGang k f).stores = s.stores := rfl
@[simp] theorem State.modGang_landing (s : State) (k : Nat) (f : Gang → Gang) : (s.modGang k f).landing = s.landing := rfl
@[simp] theorem State.modGang_pushes (s : State) (k : Nat) (f : Gang → Gang) : (s.modGang k f).pushes = s.pushes := rfl
@[simp] theorem State.modGang_engOps (s : State) (k : Nat) (f : Gang → Gang) : (s.modGang k f).engOps = s.engOps := rfl
@[simp] theorem State.modGang_inbox (s : State) (k : Nat) (f : Gang → Gang) : (s.modGang k f).inbox = s.inbox := rfl
@[simp] theorem State.modGang_nextOp (s : State) (k : Nat) (f : Gang → Gang) : (s.modGang k f).nextOp = s.nextOp := rfl
@[simp] theorem State.modGang_kdev (s : State) (k : Nat) (f : Gang → Gang) : (s.modGang k f).kdev = s.kdev := rfl
@[simp] theorem State.modGang_domSize (s : State) (k : Nat) (f : Gang → Gang) : (s.modGang k f).domSize = s.domSize := rfl
@[simp] theorem State.modGang_route (s : State) (k : Nat) (f : Gang → Gang) : (s.modGang k f).route = s.route := rfl
@[simp] theorem State.modGang_links (s : State) (k : Nat) (f : Gang → Gang) : (s.modGang k f).links = s.links := rfl
@[simp] theorem State.modGang_mcast (s : State) (k : Nat) (f : Gang → Gang) : (s.modGang k f).mcast = s.mcast := rfl
@[simp] theorem State.modGang_mcastDevs (s : State) (k : Nat) (f : Gang → Gang) : (s.modGang k f).mcastDevs = s.mcastDevs := rfl
@[simp] theorem State.modGang_trees (s : State) (k : Nat) (f : Gang → Gang) : (s.modGang k f).trees = s.trees := rfl
@[simp] theorem State.modGang_windows (s : State) (k : Nat) (f : Gang → Gang) : (s.modGang k f).windows = s.windows := rfl
@[simp] theorem State.modGang_filters (s : State) (k : Nat) (f : Gang → Gang) : (s.modGang k f).filters = s.filters := rfl
@[simp] theorem State.modGang_fabSeq (s : State) (k : Nat) (f : Gang → Gang) : (s.modGang k f).fabSeq = s.fabSeq := rfl
@[simp] theorem State.modGang_fabReqs (s : State) (k : Nat) (f : Gang → Gang) : (s.modGang k f).fabReqs = s.fabReqs := rfl
@[simp] theorem State.modGang_hostReqs (s : State) (k : Nat) (f : Gang → Gang) : (s.modGang k f).hostReqs = s.hostReqs := rfl
@[simp] theorem State.modGang_mcDiscards (s : State) (k : Nat) (f : Gang → Gang) : (s.modGang k f).mcDiscards = s.mcDiscards := rfl
@[simp] theorem State.modGang_heldIn (s : State) (k : Nat) (f : Gang → Gang) : (s.modGang k f).heldIn = s.heldIn := rfl
@[simp] theorem State.modGang_hostHeld (s : State) (k : Nat) (f : Gang → Gang) : (s.modGang k f).hostHeld = s.hostHeld := rfl
@[simp] theorem State.modGang_readies (s : State) (k : Nat) (f : Gang → Gang) : (s.modGang k f).readies = s.readies := rfl
@[simp] theorem State.modGang_swapReqs (s : State) (k : Nat) (f : Gang → Gang) : (s.modGang k f).swapReqs = s.swapReqs := rfl
@[simp] theorem State.modGang_doorbells (s : State) (k : Nat) (f : Gang → Gang) : (s.modGang k f).doorbells = s.doorbells := rfl
@[simp] theorem State.modGang_bells (s : State) (k : Nat) (f : Gang → Gang) : (s.modGang k f).bells = s.bells := rfl
@[simp] theorem State.modGang_timeout (s : State) (k : Nat) (f : Gang → Gang) : (s.modGang k f).timeout = s.timeout := rfl
@[simp] theorem State.modGang_sent (s : State) (k : Nat) (f : Gang → Gang) : (s.modGang k f).sent = s.sent := rfl
@[simp] theorem State.modGang_owned (s : State) (k : Nat) (f : Gang → Gang) : (s.modGang k f).owned = s.owned := rfl
@[simp] theorem State.modGang_hostLines (s : State) (k : Nat) (f : Gang → Gang) : (s.modGang k f).hostLines = s.hostLines := rfl
@[simp] theorem State.modGang_hostOrder (s : State) (k : Nat) (f : Gang → Gang) : (s.modGang k f).hostOrder = s.hostOrder := rfl
@[simp] theorem State.modGang_answers (s : State) (k : Nat) (f : Gang → Gang) : (s.modGang k f).answers = s.answers := rfl
@[simp] theorem State.modGang_hostRanges (s : State) (k : Nat) (f : Gang → Gang) : (s.modGang k f).hostRanges = s.hostRanges := rfl
@[simp] theorem State.modGang_saveFrames (s : State) (k : Nat) (f : Gang → Gang) : (s.modGang k f).saveFrames = s.saveFrames := rfl
@[simp] theorem State.modGang_accepts (s : State) (k : Nat) (f : Gang → Gang) : (s.modGang k f).accepts = s.accepts := rfl
@[simp] theorem State.modGang_early (s : State) (k : Nat) (f : Gang → Gang) : (s.modGang k f).early = s.early := rfl
@[simp] theorem State.modGang_snapFrames (s : State) (k : Nat) (f : Gang → Gang) : (s.modGang k f).snapFrames = s.snapFrames := rfl
@[simp] theorem State.modGang_hdm (s : State) (k : Nat) (f : Gang → Gang) : (s.modGang k f).hdm = s.hdm := rfl
@[simp] theorem State.modGang_lastDie (s : State) (k : Nat) (f : Gang → Gang) : (s.modGang k f).lastDie = s.lastDie := rfl
@[simp] theorem State.modGang_stamp (s : State) (k : Nat) (f : Gang → Gang) : (s.modGang k f).stamp = s.stamp := rfl
@[simp] theorem State.modGang_clock (s : State) (k : Nat) (f : Gang → Gang) : (s.modGang k f).clock = s.clock := rfl
@[simp] theorem State.modGang_ckptBase (s : State) (k : Nat) (f : Gang → Gang) : (s.modGang k f).ckptBase = s.ckptBase := rfl
@[simp] theorem State.modGang_ckptDir (s : State) (k : Nat) (f : Gang → Gang) : (s.modGang k f).ckptDir = s.ckptDir := rfl
@[simp] theorem State.modGang_ckptErr (s : State) (k : Nat) (f : Gang → Gang) : (s.modGang k f).ckptErr = s.ckptErr := rfl
@[simp] theorem State.modGang_ckptRun (s : State) (k : Nat) (f : Gang → Gang) : (s.modGang k f).ckptRun = s.ckptRun := rfl
@[simp] theorem State.modGang_ckptImage (s : State) (k : Nat) (f : Gang → Gang) : (s.modGang k f).ckptImage = s.ckptImage := rfl
@[simp] theorem State.modGang_firm (s : State) (k : Nat) (f : Gang → Gang) : (s.modGang k f).firm = s.firm := rfl

/-! `modMx` writes `clusters` alone. -/
@[simp] theorem State.modMx_agenda (s : State) (c : Nat) (f : Matrix → Matrix) : (s.modMx c f).agenda = s.agenda := rfl
@[simp] theorem State.modMx_cur (s : State) (c : Nat) (f : Matrix → Matrix) : (s.modMx c f).cur = s.cur := rfl
@[simp] theorem State.modMx_curPc (s : State) (c : Nat) (f : Matrix → Matrix) : (s.modMx c f).curPc = s.curPc := rfl
@[simp] theorem State.modMx_curOld (s : State) (c : Nat) (f : Matrix → Matrix) : (s.modMx c f).curOld = s.curOld := rfl
@[simp] theorem State.modMx_curFused (s : State) (c : Nat) (f : Matrix → Matrix) : (s.modMx c f).curFused = s.curFused := rfl
@[simp] theorem State.modMx_issues (s : State) (c : Nat) (f : Matrix → Matrix) : (s.modMx c f).issues = s.issues := rfl
@[simp] theorem State.modMx_draw (s : State) (c : Nat) (f : Matrix → Matrix) : (s.modMx c f).draw = s.draw := rfl
@[simp] theorem State.modMx_groups (s : State) (c : Nat) (f : Matrix → Matrix) : (s.modMx c f).groups = s.groups := rfl
@[simp] theorem State.modMx_teams (s : State) (c : Nat) (f : Matrix → Matrix) : (s.modMx c f).teams = s.teams := rfl
@[simp] theorem State.modMx_gangs (s : State) (c : Nat) (f : Matrix → Matrix) : (s.modMx c f).gangs = s.gangs := rfl
@[simp] theorem State.modMx_launches (s : State) (c : Nat) (f : Matrix → Matrix) : (s.modMx c f).launches = s.launches := rfl
@[simp] theorem State.modMx_counters (s : State) (c : Nat) (f : Matrix → Matrix) : (s.modMx c f).counters = s.counters := rfl
@[simp] theorem State.modMx_queues (s : State) (c : Nat) (f : Matrix → Matrix) : (s.modMx c f).queues = s.queues := rfl
@[simp] theorem State.modMx_turn (s : State) (c : Nat) (f : Matrix → Matrix) : (s.modMx c f).turn = s.turn := rfl
@[simp] theorem State.modMx_contexts (s : State) (c : Nat) (f : Matrix → Matrix) : (s.modMx c f).contexts = s.contexts := rfl
@[simp] theorem State.modMx_cores (s : State) (c : Nat) (f : Matrix → Matrix) : (s.modMx c f).cores = s.cores := rfl
@[simp] theorem State.modMx_dies (s : State) (c : Nat) (f : Matrix → Matrix) : (s.modMx c f).dies = s.dies := rfl
@[simp] theorem State.modMx_mem (s : State) (c : Nat) (f : Matrix → Matrix) : (s.modMx c f).mem = s.mem := rfl
@[simp] theorem State.modMx_tags (s : State) (c : Nat) (f : Matrix → Matrix) : (s.modMx c f).tags = s.tags := rfl
@[simp] theorem State.modMx_interleave (s : State) (c : Nat) (f : Matrix → Matrix) : (s.modMx c f).interleave = s.interleave := rfl
@[simp] theorem State.modMx_caches (s : State) (c : Nat) (f : Matrix → Matrix) : (s.modMx c f).caches = s.caches := rfl
@[simp] theorem State.modMx_tlbs (s : State) (c : Nat) (f : Matrix → Matrix) : (s.modMx c f).tlbs = s.tlbs := rfl
@[simp] theorem State.modMx_walks (s : State) (c : Nat) (f : Matrix → Matrix) : (s.modMx c f).walks = s.walks := rfl
@[simp] theorem State.modMx_misses (s : State) (c : Nat) (f : Matrix → Matrix) : (s.modMx c f).misses = s.misses := rfl
@[simp] theorem State.modMx_pageReqs (s : State) (c : Nat) (f : Matrix → Matrix) : (s.modMx c f).pageReqs = s.pageReqs := rfl
@[simp] theorem State.modMx_prAlloc (s : State) (c : Nat) (f : Matrix → Matrix) : (s.modMx c f).prAlloc = s.prAlloc := rfl
@[simp] theorem State.modMx_invals (s : State) (c : Nat) (f : Matrix → Matrix) : (s.modMx c f).invals = s.invals := rfl
@[simp] theorem State.modMx_stores (s : State) (c : Nat) (f : Matrix → Matrix) : (s.modMx c f).stores = s.stores := rfl
@[simp] theorem State.modMx_landing (s : State) (c : Nat) (f : Matrix → Matrix) : (s.modMx c f).landing = s.landing := rfl
@[simp] theorem State.modMx_pushes (s : State) (c : Nat) (f : Matrix → Matrix) : (s.modMx c f).pushes = s.pushes := rfl
@[simp] theorem State.modMx_engOps (s : State) (c : Nat) (f : Matrix → Matrix) : (s.modMx c f).engOps = s.engOps := rfl
@[simp] theorem State.modMx_inbox (s : State) (c : Nat) (f : Matrix → Matrix) : (s.modMx c f).inbox = s.inbox := rfl
@[simp] theorem State.modMx_nextOp (s : State) (c : Nat) (f : Matrix → Matrix) : (s.modMx c f).nextOp = s.nextOp := rfl
@[simp] theorem State.modMx_kdev (s : State) (c : Nat) (f : Matrix → Matrix) : (s.modMx c f).kdev = s.kdev := rfl
@[simp] theorem State.modMx_domSize (s : State) (c : Nat) (f : Matrix → Matrix) : (s.modMx c f).domSize = s.domSize := rfl
@[simp] theorem State.modMx_route (s : State) (c : Nat) (f : Matrix → Matrix) : (s.modMx c f).route = s.route := rfl
@[simp] theorem State.modMx_links (s : State) (c : Nat) (f : Matrix → Matrix) : (s.modMx c f).links = s.links := rfl
@[simp] theorem State.modMx_mcast (s : State) (c : Nat) (f : Matrix → Matrix) : (s.modMx c f).mcast = s.mcast := rfl
@[simp] theorem State.modMx_mcastDevs (s : State) (c : Nat) (f : Matrix → Matrix) : (s.modMx c f).mcastDevs = s.mcastDevs := rfl
@[simp] theorem State.modMx_trees (s : State) (c : Nat) (f : Matrix → Matrix) : (s.modMx c f).trees = s.trees := rfl
@[simp] theorem State.modMx_windows (s : State) (c : Nat) (f : Matrix → Matrix) : (s.modMx c f).windows = s.windows := rfl
@[simp] theorem State.modMx_filters (s : State) (c : Nat) (f : Matrix → Matrix) : (s.modMx c f).filters = s.filters := rfl
@[simp] theorem State.modMx_fabSeq (s : State) (c : Nat) (f : Matrix → Matrix) : (s.modMx c f).fabSeq = s.fabSeq := rfl
@[simp] theorem State.modMx_fabReqs (s : State) (c : Nat) (f : Matrix → Matrix) : (s.modMx c f).fabReqs = s.fabReqs := rfl
@[simp] theorem State.modMx_hostReqs (s : State) (c : Nat) (f : Matrix → Matrix) : (s.modMx c f).hostReqs = s.hostReqs := rfl
@[simp] theorem State.modMx_mcDiscards (s : State) (c : Nat) (f : Matrix → Matrix) : (s.modMx c f).mcDiscards = s.mcDiscards := rfl
@[simp] theorem State.modMx_heldIn (s : State) (c : Nat) (f : Matrix → Matrix) : (s.modMx c f).heldIn = s.heldIn := rfl
@[simp] theorem State.modMx_hostHeld (s : State) (c : Nat) (f : Matrix → Matrix) : (s.modMx c f).hostHeld = s.hostHeld := rfl
@[simp] theorem State.modMx_readies (s : State) (c : Nat) (f : Matrix → Matrix) : (s.modMx c f).readies = s.readies := rfl
@[simp] theorem State.modMx_swapReqs (s : State) (c : Nat) (f : Matrix → Matrix) : (s.modMx c f).swapReqs = s.swapReqs := rfl
@[simp] theorem State.modMx_doorbells (s : State) (c : Nat) (f : Matrix → Matrix) : (s.modMx c f).doorbells = s.doorbells := rfl
@[simp] theorem State.modMx_bells (s : State) (c : Nat) (f : Matrix → Matrix) : (s.modMx c f).bells = s.bells := rfl
@[simp] theorem State.modMx_timeout (s : State) (c : Nat) (f : Matrix → Matrix) : (s.modMx c f).timeout = s.timeout := rfl
@[simp] theorem State.modMx_sent (s : State) (c : Nat) (f : Matrix → Matrix) : (s.modMx c f).sent = s.sent := rfl
@[simp] theorem State.modMx_owned (s : State) (c : Nat) (f : Matrix → Matrix) : (s.modMx c f).owned = s.owned := rfl
@[simp] theorem State.modMx_hostLines (s : State) (c : Nat) (f : Matrix → Matrix) : (s.modMx c f).hostLines = s.hostLines := rfl
@[simp] theorem State.modMx_hostOrder (s : State) (c : Nat) (f : Matrix → Matrix) : (s.modMx c f).hostOrder = s.hostOrder := rfl
@[simp] theorem State.modMx_answers (s : State) (c : Nat) (f : Matrix → Matrix) : (s.modMx c f).answers = s.answers := rfl
@[simp] theorem State.modMx_hostRanges (s : State) (c : Nat) (f : Matrix → Matrix) : (s.modMx c f).hostRanges = s.hostRanges := rfl
@[simp] theorem State.modMx_saveFrames (s : State) (c : Nat) (f : Matrix → Matrix) : (s.modMx c f).saveFrames = s.saveFrames := rfl
@[simp] theorem State.modMx_accepts (s : State) (c : Nat) (f : Matrix → Matrix) : (s.modMx c f).accepts = s.accepts := rfl
@[simp] theorem State.modMx_early (s : State) (c : Nat) (f : Matrix → Matrix) : (s.modMx c f).early = s.early := rfl
@[simp] theorem State.modMx_snapFrames (s : State) (c : Nat) (f : Matrix → Matrix) : (s.modMx c f).snapFrames = s.snapFrames := rfl
@[simp] theorem State.modMx_hdm (s : State) (c : Nat) (f : Matrix → Matrix) : (s.modMx c f).hdm = s.hdm := rfl
@[simp] theorem State.modMx_lastDie (s : State) (c : Nat) (f : Matrix → Matrix) : (s.modMx c f).lastDie = s.lastDie := rfl
@[simp] theorem State.modMx_stamp (s : State) (c : Nat) (f : Matrix → Matrix) : (s.modMx c f).stamp = s.stamp := rfl
@[simp] theorem State.modMx_clock (s : State) (c : Nat) (f : Matrix → Matrix) : (s.modMx c f).clock = s.clock := rfl
@[simp] theorem State.modMx_ckptBase (s : State) (c : Nat) (f : Matrix → Matrix) : (s.modMx c f).ckptBase = s.ckptBase := rfl
@[simp] theorem State.modMx_ckptDir (s : State) (c : Nat) (f : Matrix → Matrix) : (s.modMx c f).ckptDir = s.ckptDir := rfl
@[simp] theorem State.modMx_ckptErr (s : State) (c : Nat) (f : Matrix → Matrix) : (s.modMx c f).ckptErr = s.ckptErr := rfl
@[simp] theorem State.modMx_ckptRun (s : State) (c : Nat) (f : Matrix → Matrix) : (s.modMx c f).ckptRun = s.ckptRun := rfl
@[simp] theorem State.modMx_ckptImage (s : State) (c : Nat) (f : Matrix → Matrix) : (s.modMx c f).ckptImage = s.ckptImage := rfl
@[simp] theorem State.modMx_firm (s : State) (c : Nat) (f : Matrix → Matrix) : (s.modMx c f).firm = s.firm := rfl

/-! `tick` writes `stamp` alone. -/
@[simp] theorem State.tick_agenda (s : State) : (s.tick).agenda = s.agenda := rfl
@[simp] theorem State.tick_cur (s : State) : (s.tick).cur = s.cur := rfl
@[simp] theorem State.tick_curPc (s : State) : (s.tick).curPc = s.curPc := rfl
@[simp] theorem State.tick_curOld (s : State) : (s.tick).curOld = s.curOld := rfl
@[simp] theorem State.tick_curFused (s : State) : (s.tick).curFused = s.curFused := rfl
@[simp] theorem State.tick_issues (s : State) : (s.tick).issues = s.issues := rfl
@[simp] theorem State.tick_draw (s : State) : (s.tick).draw = s.draw := rfl
@[simp] theorem State.tick_groups (s : State) : (s.tick).groups = s.groups := rfl
@[simp] theorem State.tick_teams (s : State) : (s.tick).teams = s.teams := rfl
@[simp] theorem State.tick_gangs (s : State) : (s.tick).gangs = s.gangs := rfl
@[simp] theorem State.tick_launches (s : State) : (s.tick).launches = s.launches := rfl
@[simp] theorem State.tick_counters (s : State) : (s.tick).counters = s.counters := rfl
@[simp] theorem State.tick_queues (s : State) : (s.tick).queues = s.queues := rfl
@[simp] theorem State.tick_turn (s : State) : (s.tick).turn = s.turn := rfl
@[simp] theorem State.tick_contexts (s : State) : (s.tick).contexts = s.contexts := rfl
@[simp] theorem State.tick_cores (s : State) : (s.tick).cores = s.cores := rfl
@[simp] theorem State.tick_clusters (s : State) : (s.tick).clusters = s.clusters := rfl
@[simp] theorem State.tick_dies (s : State) : (s.tick).dies = s.dies := rfl
@[simp] theorem State.tick_mem (s : State) : (s.tick).mem = s.mem := rfl
@[simp] theorem State.tick_tags (s : State) : (s.tick).tags = s.tags := rfl
@[simp] theorem State.tick_interleave (s : State) : (s.tick).interleave = s.interleave := rfl
@[simp] theorem State.tick_caches (s : State) : (s.tick).caches = s.caches := rfl
@[simp] theorem State.tick_tlbs (s : State) : (s.tick).tlbs = s.tlbs := rfl
@[simp] theorem State.tick_walks (s : State) : (s.tick).walks = s.walks := rfl
@[simp] theorem State.tick_misses (s : State) : (s.tick).misses = s.misses := rfl
@[simp] theorem State.tick_pageReqs (s : State) : (s.tick).pageReqs = s.pageReqs := rfl
@[simp] theorem State.tick_prAlloc (s : State) : (s.tick).prAlloc = s.prAlloc := rfl
@[simp] theorem State.tick_invals (s : State) : (s.tick).invals = s.invals := rfl
@[simp] theorem State.tick_stores (s : State) : (s.tick).stores = s.stores := rfl
@[simp] theorem State.tick_landing (s : State) : (s.tick).landing = s.landing := rfl
@[simp] theorem State.tick_pushes (s : State) : (s.tick).pushes = s.pushes := rfl
@[simp] theorem State.tick_engOps (s : State) : (s.tick).engOps = s.engOps := rfl
@[simp] theorem State.tick_inbox (s : State) : (s.tick).inbox = s.inbox := rfl
@[simp] theorem State.tick_nextOp (s : State) : (s.tick).nextOp = s.nextOp := rfl
@[simp] theorem State.tick_kdev (s : State) : (s.tick).kdev = s.kdev := rfl
@[simp] theorem State.tick_domSize (s : State) : (s.tick).domSize = s.domSize := rfl
@[simp] theorem State.tick_route (s : State) : (s.tick).route = s.route := rfl
@[simp] theorem State.tick_links (s : State) : (s.tick).links = s.links := rfl
@[simp] theorem State.tick_mcast (s : State) : (s.tick).mcast = s.mcast := rfl
@[simp] theorem State.tick_mcastDevs (s : State) : (s.tick).mcastDevs = s.mcastDevs := rfl
@[simp] theorem State.tick_trees (s : State) : (s.tick).trees = s.trees := rfl
@[simp] theorem State.tick_windows (s : State) : (s.tick).windows = s.windows := rfl
@[simp] theorem State.tick_filters (s : State) : (s.tick).filters = s.filters := rfl
@[simp] theorem State.tick_fabSeq (s : State) : (s.tick).fabSeq = s.fabSeq := rfl
@[simp] theorem State.tick_fabReqs (s : State) : (s.tick).fabReqs = s.fabReqs := rfl
@[simp] theorem State.tick_hostReqs (s : State) : (s.tick).hostReqs = s.hostReqs := rfl
@[simp] theorem State.tick_mcDiscards (s : State) : (s.tick).mcDiscards = s.mcDiscards := rfl
@[simp] theorem State.tick_heldIn (s : State) : (s.tick).heldIn = s.heldIn := rfl
@[simp] theorem State.tick_hostHeld (s : State) : (s.tick).hostHeld = s.hostHeld := rfl
@[simp] theorem State.tick_readies (s : State) : (s.tick).readies = s.readies := rfl
@[simp] theorem State.tick_swapReqs (s : State) : (s.tick).swapReqs = s.swapReqs := rfl
@[simp] theorem State.tick_doorbells (s : State) : (s.tick).doorbells = s.doorbells := rfl
@[simp] theorem State.tick_bells (s : State) : (s.tick).bells = s.bells := rfl
@[simp] theorem State.tick_timeout (s : State) : (s.tick).timeout = s.timeout := rfl
@[simp] theorem State.tick_sent (s : State) : (s.tick).sent = s.sent := rfl
@[simp] theorem State.tick_owned (s : State) : (s.tick).owned = s.owned := rfl
@[simp] theorem State.tick_hostLines (s : State) : (s.tick).hostLines = s.hostLines := rfl
@[simp] theorem State.tick_hostOrder (s : State) : (s.tick).hostOrder = s.hostOrder := rfl
@[simp] theorem State.tick_answers (s : State) : (s.tick).answers = s.answers := rfl
@[simp] theorem State.tick_hostRanges (s : State) : (s.tick).hostRanges = s.hostRanges := rfl
@[simp] theorem State.tick_saveFrames (s : State) : (s.tick).saveFrames = s.saveFrames := rfl
@[simp] theorem State.tick_accepts (s : State) : (s.tick).accepts = s.accepts := rfl
@[simp] theorem State.tick_early (s : State) : (s.tick).early = s.early := rfl
@[simp] theorem State.tick_snapFrames (s : State) : (s.tick).snapFrames = s.snapFrames := rfl
@[simp] theorem State.tick_hdm (s : State) : (s.tick).hdm = s.hdm := rfl
@[simp] theorem State.tick_lastDie (s : State) : (s.tick).lastDie = s.lastDie := rfl
@[simp] theorem State.tick_clock (s : State) : (s.tick).clock = s.clock := rfl
@[simp] theorem State.tick_ckptBase (s : State) : (s.tick).ckptBase = s.ckptBase := rfl
@[simp] theorem State.tick_ckptDir (s : State) : (s.tick).ckptDir = s.ckptDir := rfl
@[simp] theorem State.tick_ckptErr (s : State) : (s.tick).ckptErr = s.ckptErr := rfl
@[simp] theorem State.tick_ckptRun (s : State) : (s.tick).ckptRun = s.ckptRun := rfl
@[simp] theorem State.tick_ckptImage (s : State) : (s.tick).ckptImage = s.ckptImage := rfl
@[simp] theorem State.tick_firm (s : State) : (s.tick).firm = s.firm := rfl

/-! `Group.modLane` writes `lanes` alone. -/
@[simp] theorem Group.modLane_team (g : Group) (i : Nat) (f : Lane → Lane) : (g.modLane i f).team = g.team := rfl
@[simp] theorem Group.modLane_kgrp (g : Group) (i : Nat) (f : Lane → Lane) : (g.modLane i f).kgrp = g.kgrp := rfl
@[simp] theorem Group.modLane_width (g : Group) (i : Nat) (f : Lane → Lane) : (g.modLane i f).width = g.width := rfl
@[simp] theorem Group.modLane_depth (g : Group) (i : Nat) (f : Lane → Lane) : (g.modLane i f).depth = g.depth := rfl
@[simp] theorem Group.modLane_priv (g : Group) (i : Nat) (f : Lane → Lane) : (g.modLane i f).priv = g.priv := rfl
@[simp] theorem Group.modLane_core (g : Group) (i : Nat) (f : Lane → Lane) : (g.modLane i f).core = g.core := rfl
@[simp] theorem Group.modLane_octet (g : Group) (i : Nat) (f : Lane → Lane) : (g.modLane i f).octet = g.octet := rfl
@[simp] theorem Group.modLane_slot (g : Group) (i : Nat) (f : Lane → Lane) : (g.modLane i f).slot = g.slot := rfl
@[simp] theorem Group.modLane_uregs (g : Group) (i : Nat) (f : Lane → Lane) : (g.modLane i f).uregs = g.uregs := rfl
@[simp] theorem Group.modLane_gregs (g : Group) (i : Nat) (f : Lane → Lane) : (g.modLane i f).gregs = g.gregs := rfl
@[simp] theorem Group.modLane_flags (g : Group) (i : Nat) (f : Lane → Lane) : (g.modLane i f).flags = g.flags := rfl
@[simp] theorem Group.modLane_cvsub (g : Group) (i : Nat) (f : Lane → Lane) : (g.modLane i f).cvsub = g.cvsub := rfl
@[simp] theorem Group.modLane_srseed (g : Group) (i : Nat) (f : Lane → Lane) : (g.modLane i f).srseed = g.srseed := rfl
@[simp] theorem Group.modLane_bndidx (g : Group) (i : Nat) (f : Lane → Lane) : (g.modLane i f).bndidx = g.bndidx := rfl
@[simp] theorem Group.modLane_mxtol (g : Group) (i : Nat) (f : Lane → Lane) : (g.modLane i f).mxtol = g.mxtol := rfl
@[simp] theorem Group.modLane_qcnt (g : Group) (i : Nat) (f : Lane → Lane) : (g.modLane i f).qcnt = g.qcnt := rfl
@[simp] theorem Group.modLane_qseq (g : Group) (i : Nat) (f : Lane → Lane) : (g.modLane i f).qseq = g.qseq := rfl
@[simp] theorem Group.modLane_records (g : Group) (i : Nat) (f : Lane → Lane) : (g.modLane i f).records = g.records := rfl
@[simp] theorem Group.modLane_hold (g : Group) (i : Nat) (f : Lane → Lane) : (g.modLane i f).hold = g.hold := rfl
@[simp] theorem Group.modLane_resident (g : Group) (i : Nat) (f : Lane → Lane) : (g.modLane i f).resident = g.resident := rfl
@[simp] theorem Group.modLane_ended (g : Group) (i : Nat) (f : Lane → Lane) : (g.modLane i f).ended = g.ended := rfl
@[simp] theorem Group.modLane_age (g : Group) (i : Nat) (f : Lane → Lane) : (g.modLane i f).age = g.age := rfl
@[simp] theorem Group.modLane_ageU (g : Group) (i : Nat) (f : Lane → Lane) : (g.modLane i f).ageU = g.ageU := rfl
@[simp] theorem Group.modLane_barAt (g : Group) (i : Nat) (f : Lane → Lane) : (g.modLane i f).barAt = g.barAt := rfl
@[simp] theorem Group.modLane_syncs (g : Group) (i : Nat) (f : Lane → Lane) : (g.modLane i f).syncs = g.syncs := rfl
@[simp] theorem Group.modLane_syncAt (g : Group) (i : Nat) (f : Lane → Lane) : (g.modLane i f).syncAt = g.syncAt := rfl
@[simp] theorem Group.modLane_detached (g : Group) (i : Nat) (f : Lane → Lane) : (g.modLane i f).detached = g.detached := rfl
@[simp] theorem Group.modLane_joinedGang (g : Group) (i : Nat) (f : Lane → Lane) : (g.modLane i f).joinedGang = g.joinedGang := rfl
@[simp] theorem Group.modLane_held (g : Group) (i : Nat) (f : Lane → Lane) : (g.modLane i f).held = g.held := rfl
@[simp] theorem Group.modLane_mset (g : Group) (i : Nat) (f : Lane → Lane) : (g.modLane i f).mset = g.mset := rfl
@[simp] theorem Group.modLane_mwait (g : Group) (i : Nat) (f : Lane → Lane) : (g.modLane i f).mwait = g.mwait := rfl
@[simp] theorem Group.modLane_failed (g : Group) (i : Nat) (f : Lane → Lane) : (g.modLane i f).failed = g.failed := rfl
@[simp] theorem Group.modLane_lost (g : Group) (i : Nat) (f : Lane → Lane) : (g.modLane i f).lost = g.lost := rfl
@[simp] theorem Group.modLane_preempt (g : Group) (i : Nat) (f : Lane → Lane) : (g.modLane i f).preempt = g.preempt := rfl
@[simp] theorem Group.modLane_cancelled (g : Group) (i : Nat) (f : Lane → Lane) : (g.modLane i f).cancelled = g.cancelled := rfl
@[simp] theorem Group.modLane_fences (g : Group) (i : Nat) (f : Lane → Lane) : (g.modLane i f).fences = g.fences := rfl
@[simp] theorem Group.modLane_prvDirty (g : Group) (i : Nat) (f : Lane → Lane) : (g.modLane i f).prvDirty = g.prvDirty := rfl
@[simp] theorem Group.modLane_prvHome (g : Group) (i : Nat) (f : Lane → Lane) : (g.modLane i f).prvHome = g.prvHome := rfl

/-! `Group.orFlags` writes `flags` alone. -/
@[simp] theorem Group.orFlags_team (g : Group) (f : Nat) : (g.orFlags f).team = g.team := rfl
@[simp] theorem Group.orFlags_kgrp (g : Group) (f : Nat) : (g.orFlags f).kgrp = g.kgrp := rfl
@[simp] theorem Group.orFlags_width (g : Group) (f : Nat) : (g.orFlags f).width = g.width := rfl
@[simp] theorem Group.orFlags_depth (g : Group) (f : Nat) : (g.orFlags f).depth = g.depth := rfl
@[simp] theorem Group.orFlags_priv (g : Group) (f : Nat) : (g.orFlags f).priv = g.priv := rfl
@[simp] theorem Group.orFlags_core (g : Group) (f : Nat) : (g.orFlags f).core = g.core := rfl
@[simp] theorem Group.orFlags_octet (g : Group) (f : Nat) : (g.orFlags f).octet = g.octet := rfl
@[simp] theorem Group.orFlags_slot (g : Group) (f : Nat) : (g.orFlags f).slot = g.slot := rfl
@[simp] theorem Group.orFlags_lanes (g : Group) (f : Nat) : (g.orFlags f).lanes = g.lanes := rfl
@[simp] theorem Group.orFlags_uregs (g : Group) (f : Nat) : (g.orFlags f).uregs = g.uregs := rfl
@[simp] theorem Group.orFlags_gregs (g : Group) (f : Nat) : (g.orFlags f).gregs = g.gregs := rfl
@[simp] theorem Group.orFlags_cvsub (g : Group) (f : Nat) : (g.orFlags f).cvsub = g.cvsub := rfl
@[simp] theorem Group.orFlags_srseed (g : Group) (f : Nat) : (g.orFlags f).srseed = g.srseed := rfl
@[simp] theorem Group.orFlags_bndidx (g : Group) (f : Nat) : (g.orFlags f).bndidx = g.bndidx := rfl
@[simp] theorem Group.orFlags_mxtol (g : Group) (f : Nat) : (g.orFlags f).mxtol = g.mxtol := rfl
@[simp] theorem Group.orFlags_qcnt (g : Group) (f : Nat) : (g.orFlags f).qcnt = g.qcnt := rfl
@[simp] theorem Group.orFlags_qseq (g : Group) (f : Nat) : (g.orFlags f).qseq = g.qseq := rfl
@[simp] theorem Group.orFlags_records (g : Group) (f : Nat) : (g.orFlags f).records = g.records := rfl
@[simp] theorem Group.orFlags_hold (g : Group) (f : Nat) : (g.orFlags f).hold = g.hold := rfl
@[simp] theorem Group.orFlags_resident (g : Group) (f : Nat) : (g.orFlags f).resident = g.resident := rfl
@[simp] theorem Group.orFlags_ended (g : Group) (f : Nat) : (g.orFlags f).ended = g.ended := rfl
@[simp] theorem Group.orFlags_age (g : Group) (f : Nat) : (g.orFlags f).age = g.age := rfl
@[simp] theorem Group.orFlags_ageU (g : Group) (f : Nat) : (g.orFlags f).ageU = g.ageU := rfl
@[simp] theorem Group.orFlags_barAt (g : Group) (f : Nat) : (g.orFlags f).barAt = g.barAt := rfl
@[simp] theorem Group.orFlags_syncs (g : Group) (f : Nat) : (g.orFlags f).syncs = g.syncs := rfl
@[simp] theorem Group.orFlags_syncAt (g : Group) (f : Nat) : (g.orFlags f).syncAt = g.syncAt := rfl
@[simp] theorem Group.orFlags_detached (g : Group) (f : Nat) : (g.orFlags f).detached = g.detached := rfl
@[simp] theorem Group.orFlags_joinedGang (g : Group) (f : Nat) : (g.orFlags f).joinedGang = g.joinedGang := rfl
@[simp] theorem Group.orFlags_held (g : Group) (f : Nat) : (g.orFlags f).held = g.held := rfl
@[simp] theorem Group.orFlags_mset (g : Group) (f : Nat) : (g.orFlags f).mset = g.mset := rfl
@[simp] theorem Group.orFlags_mwait (g : Group) (f : Nat) : (g.orFlags f).mwait = g.mwait := rfl
@[simp] theorem Group.orFlags_failed (g : Group) (f : Nat) : (g.orFlags f).failed = g.failed := rfl
@[simp] theorem Group.orFlags_lost (g : Group) (f : Nat) : (g.orFlags f).lost = g.lost := rfl
@[simp] theorem Group.orFlags_preempt (g : Group) (f : Nat) : (g.orFlags f).preempt = g.preempt := rfl
@[simp] theorem Group.orFlags_cancelled (g : Group) (f : Nat) : (g.orFlags f).cancelled = g.cancelled := rfl
@[simp] theorem Group.orFlags_fences (g : Group) (f : Nat) : (g.orFlags f).fences = g.fences := rfl
@[simp] theorem Group.orFlags_prvDirty (g : Group) (f : Nat) : (g.orFlags f).prvDirty = g.prvDirty := rfl
@[simp] theorem Group.orFlags_prvHome (g : Group) (f : Nat) : (g.orFlags f).prvHome = g.prvHome := rfl

/-! `Group.setU` writes `uregs` alone. -/
@[simp] theorem Group.setU_team (g : Group) (c : Nat) (v : UWord) : (g.setU c v).team = g.team := by unfold Group.setU; split <;> rfl
@[simp] theorem Group.setU_kgrp (g : Group) (c : Nat) (v : UWord) : (g.setU c v).kgrp = g.kgrp := by unfold Group.setU; split <;> rfl
@[simp] theorem Group.setU_width (g : Group) (c : Nat) (v : UWord) : (g.setU c v).width = g.width := by unfold Group.setU; split <;> rfl
@[simp] theorem Group.setU_depth (g : Group) (c : Nat) (v : UWord) : (g.setU c v).depth = g.depth := by unfold Group.setU; split <;> rfl
@[simp] theorem Group.setU_priv (g : Group) (c : Nat) (v : UWord) : (g.setU c v).priv = g.priv := by unfold Group.setU; split <;> rfl
@[simp] theorem Group.setU_core (g : Group) (c : Nat) (v : UWord) : (g.setU c v).core = g.core := by unfold Group.setU; split <;> rfl
@[simp] theorem Group.setU_octet (g : Group) (c : Nat) (v : UWord) : (g.setU c v).octet = g.octet := by unfold Group.setU; split <;> rfl
@[simp] theorem Group.setU_slot (g : Group) (c : Nat) (v : UWord) : (g.setU c v).slot = g.slot := by unfold Group.setU; split <;> rfl
@[simp] theorem Group.setU_lanes (g : Group) (c : Nat) (v : UWord) : (g.setU c v).lanes = g.lanes := by unfold Group.setU; split <;> rfl
@[simp] theorem Group.setU_gregs (g : Group) (c : Nat) (v : UWord) : (g.setU c v).gregs = g.gregs := by unfold Group.setU; split <;> rfl
@[simp] theorem Group.setU_flags (g : Group) (c : Nat) (v : UWord) : (g.setU c v).flags = g.flags := by unfold Group.setU; split <;> rfl
@[simp] theorem Group.setU_cvsub (g : Group) (c : Nat) (v : UWord) : (g.setU c v).cvsub = g.cvsub := by unfold Group.setU; split <;> rfl
@[simp] theorem Group.setU_srseed (g : Group) (c : Nat) (v : UWord) : (g.setU c v).srseed = g.srseed := by unfold Group.setU; split <;> rfl
@[simp] theorem Group.setU_bndidx (g : Group) (c : Nat) (v : UWord) : (g.setU c v).bndidx = g.bndidx := by unfold Group.setU; split <;> rfl
@[simp] theorem Group.setU_mxtol (g : Group) (c : Nat) (v : UWord) : (g.setU c v).mxtol = g.mxtol := by unfold Group.setU; split <;> rfl
@[simp] theorem Group.setU_qcnt (g : Group) (c : Nat) (v : UWord) : (g.setU c v).qcnt = g.qcnt := by unfold Group.setU; split <;> rfl
@[simp] theorem Group.setU_qseq (g : Group) (c : Nat) (v : UWord) : (g.setU c v).qseq = g.qseq := by unfold Group.setU; split <;> rfl
@[simp] theorem Group.setU_records (g : Group) (c : Nat) (v : UWord) : (g.setU c v).records = g.records := by unfold Group.setU; split <;> rfl
@[simp] theorem Group.setU_hold (g : Group) (c : Nat) (v : UWord) : (g.setU c v).hold = g.hold := by unfold Group.setU; split <;> rfl
@[simp] theorem Group.setU_resident (g : Group) (c : Nat) (v : UWord) : (g.setU c v).resident = g.resident := by unfold Group.setU; split <;> rfl
@[simp] theorem Group.setU_ended (g : Group) (c : Nat) (v : UWord) : (g.setU c v).ended = g.ended := by unfold Group.setU; split <;> rfl
@[simp] theorem Group.setU_age (g : Group) (c : Nat) (v : UWord) : (g.setU c v).age = g.age := by unfold Group.setU; split <;> rfl
@[simp] theorem Group.setU_ageU (g : Group) (c : Nat) (v : UWord) : (g.setU c v).ageU = g.ageU := by unfold Group.setU; split <;> rfl
@[simp] theorem Group.setU_barAt (g : Group) (c : Nat) (v : UWord) : (g.setU c v).barAt = g.barAt := by unfold Group.setU; split <;> rfl
@[simp] theorem Group.setU_syncs (g : Group) (c : Nat) (v : UWord) : (g.setU c v).syncs = g.syncs := by unfold Group.setU; split <;> rfl
@[simp] theorem Group.setU_syncAt (g : Group) (c : Nat) (v : UWord) : (g.setU c v).syncAt = g.syncAt := by unfold Group.setU; split <;> rfl
@[simp] theorem Group.setU_detached (g : Group) (c : Nat) (v : UWord) : (g.setU c v).detached = g.detached := by unfold Group.setU; split <;> rfl
@[simp] theorem Group.setU_joinedGang (g : Group) (c : Nat) (v : UWord) : (g.setU c v).joinedGang = g.joinedGang := by unfold Group.setU; split <;> rfl
@[simp] theorem Group.setU_held (g : Group) (c : Nat) (v : UWord) : (g.setU c v).held = g.held := by unfold Group.setU; split <;> rfl
@[simp] theorem Group.setU_mset (g : Group) (c : Nat) (v : UWord) : (g.setU c v).mset = g.mset := by unfold Group.setU; split <;> rfl
@[simp] theorem Group.setU_mwait (g : Group) (c : Nat) (v : UWord) : (g.setU c v).mwait = g.mwait := by unfold Group.setU; split <;> rfl
@[simp] theorem Group.setU_failed (g : Group) (c : Nat) (v : UWord) : (g.setU c v).failed = g.failed := by unfold Group.setU; split <;> rfl
@[simp] theorem Group.setU_lost (g : Group) (c : Nat) (v : UWord) : (g.setU c v).lost = g.lost := by unfold Group.setU; split <;> rfl
@[simp] theorem Group.setU_preempt (g : Group) (c : Nat) (v : UWord) : (g.setU c v).preempt = g.preempt := by unfold Group.setU; split <;> rfl
@[simp] theorem Group.setU_cancelled (g : Group) (c : Nat) (v : UWord) : (g.setU c v).cancelled = g.cancelled := by unfold Group.setU; split <;> rfl
@[simp] theorem Group.setU_fences (g : Group) (c : Nat) (v : UWord) : (g.setU c v).fences = g.fences := by unfold Group.setU; split <;> rfl
@[simp] theorem Group.setU_prvDirty (g : Group) (c : Nat) (v : UWord) : (g.setU c v).prvDirty = g.prvDirty := by unfold Group.setU; split <;> rfl
@[simp] theorem Group.setU_prvHome (g : Group) (c : Nat) (v : UWord) : (g.setU c v).prvHome = g.prvHome := by unfold Group.setU; split <;> rfl

/-! `Lane.put` writes `globals slots` alone. -/
@[simp] theorem Lane.put_pc (l : Lane) (d : Nat) (sl : Slot) (v : Word) : (l.put d sl v).pc = l.pc := by cases sl <;> rfl
@[simp] theorem Lane.put_st (l : Lane) (d : Nat) (sl : Slot) (v : Word) : (l.put d sl v).st = l.st := by cases sl <;> rfl
@[simp] theorem Lane.put_empty (l : Lane) (d : Nat) (sl : Slot) (v : Word) : (l.put d sl v).empty = l.empty := by cases sl <;> rfl
@[simp] theorem Lane.put_w (l : Lane) (d : Nat) (sl : Slot) (v : Word) : (l.put d sl v).w = l.w := by cases sl <;> rfl
@[simp] theorem Lane.put_rb (l : Lane) (d : Nat) (sl : Slot) (v : Word) : (l.put d sl v).rb = l.rb := by cases sl <;> rfl
@[simp] theorem Lane.put_cdep (l : Lane) (d : Nat) (sl : Slot) (v : Word) : (l.put d sl v).cdep = l.cdep := by cases sl <;> rfl
@[simp] theorem Lane.put_preds (l : Lane) (d : Nat) (sl : Slot) (v : Word) : (l.put d sl v).preds = l.preds := by cases sl <;> rfl
@[simp] theorem Lane.put_waited (l : Lane) (d : Nat) (sl : Slot) (v : Word) : (l.put d sl v).waited = l.waited := by cases sl <;> rfl
@[simp] theorem Lane.put_marked (l : Lane) (d : Nat) (sl : Slot) (v : Word) : (l.put d sl v).marked = l.marked := by cases sl <;> rfl
@[simp] theorem Lane.put_op (l : Lane) (d : Nat) (sl : Slot) (v : Word) : (l.put d sl v).op = l.op := by cases sl <;> rfl
@[simp] theorem Lane.put_force (l : Lane) (d : Nat) (sl : Slot) (v : Word) : (l.put d sl v).force = l.force := by cases sl <;> rfl
@[simp] theorem Lane.put_failed (l : Lane) (d : Nat) (sl : Slot) (v : Word) : (l.put d sl v).failed = l.failed := by cases sl <;> rfl
@[simp] theorem Lane.put_fifos (l : Lane) (d : Nat) (sl : Slot) (v : Word) : (l.put d sl v).fifos = l.fifos := by cases sl <;> rfl
@[simp] theorem Lane.put_pulls (l : Lane) (d : Nat) (sl : Slot) (v : Word) : (l.put d sl v).pulls = l.pulls := by cases sl <;> rfl

/-! `Lane.fill` writes `empty` alone. -/
@[simp] theorem Lane.fill_pc (l : Lane) (sl : Slot) : (l.fill sl).pc = l.pc := rfl
@[simp] theorem Lane.fill_st (l : Lane) (sl : Slot) : (l.fill sl).st = l.st := rfl
@[simp] theorem Lane.fill_globals (l : Lane) (sl : Slot) : (l.fill sl).globals = l.globals := rfl
@[simp] theorem Lane.fill_slots (l : Lane) (sl : Slot) : (l.fill sl).slots = l.slots := rfl
@[simp] theorem Lane.fill_w (l : Lane) (sl : Slot) : (l.fill sl).w = l.w := rfl
@[simp] theorem Lane.fill_rb (l : Lane) (sl : Slot) : (l.fill sl).rb = l.rb := rfl
@[simp] theorem Lane.fill_cdep (l : Lane) (sl : Slot) : (l.fill sl).cdep = l.cdep := rfl
@[simp] theorem Lane.fill_preds (l : Lane) (sl : Slot) : (l.fill sl).preds = l.preds := rfl
@[simp] theorem Lane.fill_waited (l : Lane) (sl : Slot) : (l.fill sl).waited = l.waited := rfl
@[simp] theorem Lane.fill_marked (l : Lane) (sl : Slot) : (l.fill sl).marked = l.marked := rfl
@[simp] theorem Lane.fill_op (l : Lane) (sl : Slot) : (l.fill sl).op = l.op := rfl
@[simp] theorem Lane.fill_force (l : Lane) (sl : Slot) : (l.fill sl).force = l.force := rfl
@[simp] theorem Lane.fill_failed (l : Lane) (sl : Slot) : (l.fill sl).failed = l.failed := rfl
@[simp] theorem Lane.fill_fifos (l : Lane) (sl : Slot) : (l.fill sl).fifos = l.fifos := rfl
@[simp] theorem Lane.fill_pulls (l : Lane) (sl : Slot) : (l.fill sl).pulls = l.pulls := rfl

/-! `Lane.drain` writes `empty` alone. -/
@[simp] theorem Lane.drain_pc (l : Lane) (sl : Slot) : (l.drain sl).pc = l.pc := by unfold Lane.drain; split <;> rfl
@[simp] theorem Lane.drain_st (l : Lane) (sl : Slot) : (l.drain sl).st = l.st := by unfold Lane.drain; split <;> rfl
@[simp] theorem Lane.drain_globals (l : Lane) (sl : Slot) : (l.drain sl).globals = l.globals := by unfold Lane.drain; split <;> rfl
@[simp] theorem Lane.drain_slots (l : Lane) (sl : Slot) : (l.drain sl).slots = l.slots := by unfold Lane.drain; split <;> rfl
@[simp] theorem Lane.drain_w (l : Lane) (sl : Slot) : (l.drain sl).w = l.w := by unfold Lane.drain; split <;> rfl
@[simp] theorem Lane.drain_rb (l : Lane) (sl : Slot) : (l.drain sl).rb = l.rb := by unfold Lane.drain; split <;> rfl
@[simp] theorem Lane.drain_cdep (l : Lane) (sl : Slot) : (l.drain sl).cdep = l.cdep := by unfold Lane.drain; split <;> rfl
@[simp] theorem Lane.drain_preds (l : Lane) (sl : Slot) : (l.drain sl).preds = l.preds := by unfold Lane.drain; split <;> rfl
@[simp] theorem Lane.drain_waited (l : Lane) (sl : Slot) : (l.drain sl).waited = l.waited := by unfold Lane.drain; split <;> rfl
@[simp] theorem Lane.drain_marked (l : Lane) (sl : Slot) : (l.drain sl).marked = l.marked := by unfold Lane.drain; split <;> rfl
@[simp] theorem Lane.drain_op (l : Lane) (sl : Slot) : (l.drain sl).op = l.op := by unfold Lane.drain; split <;> rfl
@[simp] theorem Lane.drain_force (l : Lane) (sl : Slot) : (l.drain sl).force = l.force := by unfold Lane.drain; split <;> rfl
@[simp] theorem Lane.drain_failed (l : Lane) (sl : Slot) : (l.drain sl).failed = l.failed := by unfold Lane.drain; split <;> rfl
@[simp] theorem Lane.drain_fifos (l : Lane) (sl : Slot) : (l.drain sl).fifos = l.fifos := by unfold Lane.drain; split <;> rfl
@[simp] theorem Lane.drain_pulls (l : Lane) (sl : Slot) : (l.drain sl).pulls = l.pulls := by unfold Lane.drain; split <;> rfl

/-! `Lane.setPred` writes `preds` alone. -/
@[simp] theorem Lane.setPred_pc (l : Lane) (n : Nat) (v : Bool) : (l.setPred n v).pc = l.pc := by unfold Lane.setPred; split <;> rfl
@[simp] theorem Lane.setPred_st (l : Lane) (n : Nat) (v : Bool) : (l.setPred n v).st = l.st := by unfold Lane.setPred; split <;> rfl
@[simp] theorem Lane.setPred_globals (l : Lane) (n : Nat) (v : Bool) : (l.setPred n v).globals = l.globals := by unfold Lane.setPred; split <;> rfl
@[simp] theorem Lane.setPred_slots (l : Lane) (n : Nat) (v : Bool) : (l.setPred n v).slots = l.slots := by unfold Lane.setPred; split <;> rfl
@[simp] theorem Lane.setPred_empty (l : Lane) (n : Nat) (v : Bool) : (l.setPred n v).empty = l.empty := by unfold Lane.setPred; split <;> rfl
@[simp] theorem Lane.setPred_w (l : Lane) (n : Nat) (v : Bool) : (l.setPred n v).w = l.w := by unfold Lane.setPred; split <;> rfl
@[simp] theorem Lane.setPred_rb (l : Lane) (n : Nat) (v : Bool) : (l.setPred n v).rb = l.rb := by unfold Lane.setPred; split <;> rfl
@[simp] theorem Lane.setPred_cdep (l : Lane) (n : Nat) (v : Bool) : (l.setPred n v).cdep = l.cdep := by unfold Lane.setPred; split <;> rfl
@[simp] theorem Lane.setPred_waited (l : Lane) (n : Nat) (v : Bool) : (l.setPred n v).waited = l.waited := by unfold Lane.setPred; split <;> rfl
@[simp] theorem Lane.setPred_marked (l : Lane) (n : Nat) (v : Bool) : (l.setPred n v).marked = l.marked := by unfold Lane.setPred; split <;> rfl
@[simp] theorem Lane.setPred_op (l : Lane) (n : Nat) (v : Bool) : (l.setPred n v).op = l.op := by unfold Lane.setPred; split <;> rfl
@[simp] theorem Lane.setPred_force (l : Lane) (n : Nat) (v : Bool) : (l.setPred n v).force = l.force := by unfold Lane.setPred; split <;> rfl
@[simp] theorem Lane.setPred_failed (l : Lane) (n : Nat) (v : Bool) : (l.setPred n v).failed = l.failed := by unfold Lane.setPred; split <;> rfl
@[simp] theorem Lane.setPred_fifos (l : Lane) (n : Nat) (v : Bool) : (l.setPred n v).fifos = l.fifos := by unfold Lane.setPred; split <;> rfl
@[simp] theorem Lane.setPred_pulls (l : Lane) (n : Nat) (v : Bool) : (l.setPred n v).pulls = l.pulls := by unfold Lane.setPred; split <;> rfl

/-! `Lane.wrOp` writes `globals slots empty` alone. -/
@[simp] theorem Lane.wrOp_pc (l : Lane) (d n : Nat) (p : Bool) (v : Nat) : (l.wrOp d n p v).pc = l.pc := by unfold Lane.wrOp; cases p <;> simp
@[simp] theorem Lane.wrOp_st (l : Lane) (d n : Nat) (p : Bool) (v : Nat) : (l.wrOp d n p v).st = l.st := by unfold Lane.wrOp; cases p <;> simp
@[simp] theorem Lane.wrOp_w (l : Lane) (d n : Nat) (p : Bool) (v : Nat) : (l.wrOp d n p v).w = l.w := by unfold Lane.wrOp; cases p <;> simp
@[simp] theorem Lane.wrOp_rb (l : Lane) (d n : Nat) (p : Bool) (v : Nat) : (l.wrOp d n p v).rb = l.rb := by unfold Lane.wrOp; cases p <;> simp
@[simp] theorem Lane.wrOp_cdep (l : Lane) (d n : Nat) (p : Bool) (v : Nat) : (l.wrOp d n p v).cdep = l.cdep := by unfold Lane.wrOp; cases p <;> simp
@[simp] theorem Lane.wrOp_preds (l : Lane) (d n : Nat) (p : Bool) (v : Nat) : (l.wrOp d n p v).preds = l.preds := by unfold Lane.wrOp; cases p <;> simp
@[simp] theorem Lane.wrOp_waited (l : Lane) (d n : Nat) (p : Bool) (v : Nat) : (l.wrOp d n p v).waited = l.waited := by unfold Lane.wrOp; cases p <;> simp
@[simp] theorem Lane.wrOp_marked (l : Lane) (d n : Nat) (p : Bool) (v : Nat) : (l.wrOp d n p v).marked = l.marked := by unfold Lane.wrOp; cases p <;> simp
@[simp] theorem Lane.wrOp_op (l : Lane) (d n : Nat) (p : Bool) (v : Nat) : (l.wrOp d n p v).op = l.op := by unfold Lane.wrOp; cases p <;> simp
@[simp] theorem Lane.wrOp_force (l : Lane) (d n : Nat) (p : Bool) (v : Nat) : (l.wrOp d n p v).force = l.force := by unfold Lane.wrOp; cases p <;> simp
@[simp] theorem Lane.wrOp_failed (l : Lane) (d n : Nat) (p : Bool) (v : Nat) : (l.wrOp d n p v).failed = l.failed := by unfold Lane.wrOp; cases p <;> simp
@[simp] theorem Lane.wrOp_fifos (l : Lane) (d n : Nat) (p : Bool) (v : Nat) : (l.wrOp d n p v).fifos = l.fifos := by unfold Lane.wrOp; cases p <;> simp
@[simp] theorem Lane.wrOp_pulls (l : Lane) (d n : Nat) (p : Bool) (v : Nat) : (l.wrOp d n p v).pulls = l.pulls := by unfold Lane.wrOp; cases p <;> simp

end Sys2Proof.Machine
end

