-- ==== Sys2Proof/Laws/Memory.lean ====
section
/-! SUPPORT. Sparse maps, the canonical form of memory, and the reads of bytes after the writes. -/

namespace Sys2Proof

theorem AMap.find_set_self {α : Type} (m : AMap α) (i : Nat) (v : α) : AMap.find (AMap.set m i v) i = some v := by
  induction m with
  | nil => simp [AMap.set, AMap.find]
  | cons p r ih =>
    obtain ⟨k, w⟩ := p
    simp only [AMap.set]
    split
    · simp [AMap.find]
    · split
      · simp [AMap.find]
      · rename_i h
        simp [AMap.find, h, ih]

theorem AMap.find_set_ne {α : Type} (m : AMap α) {i j : Nat} (v : α) (h : j ≠ i) : AMap.find (AMap.set m i v) j = AMap.find m j := by
  induction m with
  | nil => simp [AMap.set, AMap.find, h]
  | cons p r ih =>
    obtain ⟨k, w⟩ := p
    simp only [AMap.set]
    split
    · simp [AMap.find, h]
    · split
      · rename_i hk
        subst hk
        simp [AMap.find, h]
      · simp only [AMap.find, ih]

@[simp] theorem AMap.get_set_self {α : Type} (d : α) (m : AMap α) (i : Nat) (v : α) : AMap.get d (AMap.set m i v) i = v := by
  simp [AMap.get, AMap.find_set_self]

theorem AMap.get_set_ne {α : Type} (d : α) (m : AMap α) {i j : Nat} (v : α) (h : j ≠ i) :
    AMap.get d (AMap.set m i v) j = AMap.get d m j := by
  simp [AMap.get, AMap.find_set_ne m v h]

theorem AMap.find_erase_self {α : Type} (m : AMap α) (i : Nat) : AMap.find (AMap.erase m i) i = none := by
  induction m with
  | nil => rfl
  | cons p r ih =>
    obtain ⟨k, w⟩ := p
    simp only [AMap.erase, List.filter_cons] at ih ⊢
    split
    · rename_i h
      have h' : i ≠ k := fun e => by simp [e] at h
      simpa [AMap.find, h'] using ih
    · exact ih

theorem AMap.find_erase_ne {α : Type} (m : AMap α) {i j : Nat} (h : j ≠ i) : AMap.find (AMap.erase m i) j = AMap.find m j := by
  induction m with
  | nil => rfl
  | cons p r ih =>
    obtain ⟨k, w⟩ := p
    simp only [AMap.erase, List.filter_cons] at ih ⊢
    split
    · simp only [AMap.find, ih]
    · rename_i hk
      have hk' : k = i := by simpa using hk
      subst hk'
      simpa [AMap.find, h] using ih

/-- The keys of a set: those of the map and the new one. -/
theorem AMap.mem_set {α : Type} {m : AMap α} {i : Nat} {v : α} {p : Nat × α} (h : p ∈ AMap.set m i v) : p = (i, v) ∨ p ∈ m := by
  induction m with
  | nil => simpa [AMap.set] using h
  | cons q r ih =>
    obtain ⟨k, w⟩ := q
    simp only [AMap.set] at h
    split at h
    · simpa using h
    · split at h
      · rcases List.mem_cons.1 h with h | h
        · exact .inl h
        · exact .inr (List.mem_cons_of_mem _ h)
      · rcases List.mem_cons.1 h with h | h
        · exact .inr (by simp [h])
        · rcases ih h with h | h
          · exact .inl h
          · exact .inr (List.mem_cons_of_mem _ h)

/-- Keys strictly rise. -/
def AMap.Rising {α : Type} (m : AMap α) : Prop := m.Pairwise fun p q => p.1 < q.1

theorem AMap.rising_set {α : Type} {m : AMap α} (i : Nat) (v : α) (h : AMap.Rising m) : AMap.Rising (AMap.set m i v) := by
  induction m with
  | nil => simp [AMap.set, AMap.Rising]
  | cons p r ih =>
    obtain ⟨k, w⟩ := p
    have hr := List.pairwise_cons.1 h
    simp only [AMap.set]
    split
    · rename_i hk
      refine List.pairwise_cons.2 ⟨fun q hq => ?_, h⟩
      rcases List.mem_cons.1 hq with rfl | hq
      · exact hk
      · exact Nat.lt_trans hk (hr.1 q hq)
    · split
      · rename_i hk
        subst hk
        exact List.pairwise_cons.2 ⟨hr.1, hr.2⟩
      · refine List.pairwise_cons.2 ⟨fun q hq => ?_, ih hr.2⟩
        rcases AMap.mem_set hq with rfl | hq
        · simp only
          omega
        · exact hr.1 q hq

theorem AMap.rising_erase {α : Type} {m : AMap α} (i : Nat) (h : AMap.Rising m) : AMap.Rising (AMap.erase m i) :=
  List.Pairwise.sublist List.filter_sublist h

end Sys2Proof

namespace Sys2Proof.Machine

/-- The canonical form, said without recursion: addresses strictly rise and no listed byte is zero. -/
theorem Memory.wf_iff (m : List Host.Cell) : Memory.wf m ↔ AMap.Rising m ∧ ∀ p ∈ m, p.2 ≠ 0 := by
  induction m with
  | nil => simp [Memory.wf, Memory.sorted, AMap.Rising]
  | cons p r ih =>
    obtain ⟨a, b⟩ := p
    cases r with
    | nil => simp [Memory.wf, Memory.sorted, AMap.Rising]
    | cons q r =>
      obtain ⟨c, d⟩ := q
      unfold Memory.wf at ih ⊢
      rw [Memory.sorted]
      simp only [Bool.and_eq_true, bne_iff_ne, ne_eq, decide_eq_true_eq, ih, AMap.Rising, List.pairwise_cons, List.mem_cons]
      constructor
      · rintro ⟨⟨hb, hac⟩, ⟨hc, hr⟩, hz⟩
        refine ⟨⟨?_, hc, hr⟩, ?_⟩
        · rintro x (rfl | hx)
          · exact hac
          · exact Nat.lt_trans hac (hc x hx)
        · rintro x (rfl | hx)
          · exact hb
          · exact hz x hx
      · rintro ⟨⟨h1, hc, hr⟩, hz⟩
        exact ⟨⟨hz _ (.inl rfl), h1 _ (.inl rfl)⟩, ⟨hc, hr⟩, fun x hx => hz x (.inr hx)⟩

theorem memSet_wf {m : List Host.Cell} (a : Nat) (b : Byte) (h : Memory.wf m) : Memory.wf (memSet m a b) := by
  rw [Memory.wf_iff] at h ⊢
  unfold memSet
  split
  · exact ⟨AMap.rising_erase a h.1, fun p hp => h.2 p (List.mem_of_mem_filter hp)⟩
  · rename_i hb
    refine ⟨AMap.rising_set a b h.1, fun p hp => ?_⟩
    rcases AMap.mem_set hp with rfl | hp
    · exact hb
    · exact h.2 p hp

/-- Every write of bytes keeps the canonical form. -/
theorem memPut_wf {m : List Host.Cell} (l : List (Nat × Byte)) (h : Memory.wf m) : Memory.wf (memPut m l) := by
  induction l generalizing m with
  | nil => exact h
  | cons p r ih => exact ih (memSet_wf p.1 p.2 h)

theorem memory_filter_wf {m : List Host.Cell} (p : Host.Cell → Bool) (h : Memory.wf m) : Memory.wf (m.filter p) := by
  rw [Memory.wf_iff] at h ⊢
  exact ⟨List.Pairwise.sublist List.filter_sublist h.1, fun q hq => h.2 q (List.mem_of_mem_filter hq)⟩

theorem get_memSet_self (m : List Host.Cell) (a : Nat) (b : Byte) : AMap.get 0 (memSet m a b) a = b := by
  unfold memSet
  split
  · rename_i h
    subst h
    simp [AMap.get, AMap.find_erase_self]
  · simp

theorem get_memSet_ne (m : List Host.Cell) {a x : Nat} (b : Byte) (h : x ≠ a) : AMap.get 0 (memSet m a b) x = AMap.get 0 m x := by
  unfold memSet
  split
  · simp [AMap.get, AMap.find_erase_ne m h]
  · exact AMap.get_set_ne 0 m b h

/-- A byte that no write of a list names reads as before. -/
theorem get_memPut_out (m : List Host.Cell) (l : List (Nat × Byte)) (x : Nat) (h : ∀ p ∈ l, p.1 ≠ x) :
    AMap.get 0 (memPut m l) x = AMap.get 0 m x := by
  induction l generalizing m with
  | nil => rfl
  | cons p r ih =>
    obtain ⟨a, b⟩ := p
    rw [memPut, ih _ fun q hq => h q (List.mem_cons_of_mem _ hq)]
    exact get_memSet_ne m b fun e => h (a, b) (by simp) e.symm

theorem spread_mem {a : Nat} {l : List Byte} {p : Nat × Byte} (h : p ∈ spread a l) : a ≤ p.1 ∧ p.1 < a + l.length := by
  induction l generalizing a with
  | nil => simp [spread] at h
  | cons b r ih =>
    rcases List.mem_cons.1 h with rfl | h
    · simp
    · have := ih h
      simp only [List.length_cons]
      omega

/-- Bytes laid from an address read back. -/
theorem get_memPut_spread (m : List Host.Cell) (a : Nat) (l : List Byte) (i : Nat) (h : i < l.length) :
    AMap.get 0 (memPut m (spread a l)) (a + i) = l[i] := by
  induction l generalizing m a i with
  | nil => simp at h
  | cons b r ih =>
    rw [spread, memPut]
    cases i with
    | zero =>
      rw [get_memPut_out _ _ _ fun p hp => by have := spread_mem hp; omega]
      simpa using get_memSet_self m a b
    | succ i =>
      have := ih (memSet m a b) (a + 1) i (by simpa using h)
      simpa [Nat.add_assoc, Nat.add_comm 1 i] using this

/-- Bytes outside a range written read as before. -/
theorem get_memPut_spread_out (m : List Host.Cell) (a : Nat) (l : List Byte) (x : Nat) (h : x < a ∨ a + l.length ≤ x) :
    AMap.get 0 (memPut m (spread a l)) x = AMap.get 0 m x :=
  get_memPut_out m _ x fun p hp => by have := spread_mem hp; omega

end Sys2Proof.Machine
end

