-- ==== Sys2Proof/Laws/Access.lean ====
section
/-! SUPPORT. Reading a part after a change of a part: groups, teams, lanes, registers with their full/empty bits, predicates. -/

namespace Sys2Proof.Machine

theorem State.group_modGroup_self (s : State) {g : Nat} (f : Group → Group) (h : g < s.groups.length) :
    (s.modGroup g f).group g = f (s.group g) := by
  simp [State.group, State.modGroup, List.getD_eq_getElem?_getD, h]

@[simp] theorem State.group_modGroup_ne (s : State) {g k : Nat} (f : Group → Group) (h : k ≠ g) :
    (s.modGroup g f).group k = s.group k := by
  simp [State.group, State.modGroup, List.getD_eq_getElem?_getD, Ne.symm h]

@[simp] theorem State.groups_length_modGroup (s : State) (g : Nat) (f : Group → Group) :
    (s.modGroup g f).groups.length = s.groups.length := by
  simp [State.modGroup]

/-- A change of a group looks at that group alone. -/
theorem State.modGroup_congr (s : State) (k : Nat) {f f' : Group → Group} (h : f (s.group k) = f' (s.group k)) :
    s.modGroup k f = s.modGroup k f' := by
  unfold State.modGroup
  congr 1
  apply List.ext_getElem?
  intro j
  rw [List.getElem?_modify, List.getElem?_modify]
  by_cases hj : k = j
  · subst hj
    cases hg : s.groups[k]? with
    | none => rfl
    | some g =>
      have hk : s.group k = g := by simp [State.group, List.getD_eq_getElem?_getD, hg]
      rw [hk] at h
      simp [h]
  · simp [hj]

/-- The lanes of a group, one by one. -/
theorem Group.mapIdx_congr (g : Group) {f f' : Nat → Lane → Lane} (h : ∀ i, i < g.lanes.length → f i (g.lane i) = f' i (g.lane i)) :
    g.lanes.mapIdx f = g.lanes.mapIdx f' := by
  apply List.ext_getElem?
  intro j
  rw [List.getElem?_mapIdx, List.getElem?_mapIdx]
  by_cases hj : j < g.lanes.length
  · have := h j hj
    have e : g.lane j = g.lanes[j] := by simp [Group.lane, List.getD_eq_getElem?_getD, hj]
    rw [e] at this
    simp [hj, this]
  · simp [List.getElem?_eq_none (Nat.le_of_not_lt hj)]

theorem State.team_modTeam_self (s : State) {t : Nat} (f : Team → Team) (h : t < s.teams.length) :
    (s.modTeam t f).team t = f (s.team t) := by
  simp [State.team, State.modTeam, List.getD_eq_getElem?_getD, h]

theorem State.core_modCore_self (s : State) (c : Nat) (f : Core → Core) : (s.modCore c f).core c = f (s.core c) := by
  simp [State.core, State.modCore]

theorem State.cluster_modCluster_self (s : State) (c : Nat) (f : Cluster → Cluster) : (s.modCluster c f).cluster c = f (s.cluster c) := by
  simp [State.cluster, State.modCluster]

theorem State.die_modDie_self (s : State) (d : Nat) (f : Die → Die) : (s.modDie d f).die d = f (s.die d) := by
  simp [State.die, State.modDie]

theorem State.context_modContext_self (s : State) (c : Nat) (f : Context → Context) : (s.modContext c f).context c = f (s.context c) := by
  simp [State.context, State.modContext]

theorem State.counter_modCounter_self (s : State) (c : Nat) (f : Counter → Counter) : (s.modCounter c f).counter c = f (s.counter c) := by
  simp [State.counter, State.modCounter]

theorem State.queue_modQueue_self (s : State) (k : Nat) (f : Queue → Queue) : (s.modQueue k f).queue k = f (s.queue k) := by
  simp [State.queue, State.modQueue]

theorem Group.lane_modLane_self (g : Group) {i : Nat} (f : Lane → Lane) (h : i < g.lanes.length) :
    (g.modLane i f).lane i = f (g.lane i) := by
  simp [Group.lane, Group.modLane, List.getD_eq_getElem?_getD, h]

@[simp] theorem Group.lane_modLane_ne (g : Group) {i j : Nat} (f : Lane → Lane) (h : j ≠ i) : (g.modLane i f).lane j = g.lane j := by
  simp [Group.lane, Group.modLane, List.getD_eq_getElem?_getD, Ne.symm h]

@[simp] theorem Group.lanes_length_modLane (g : Group) (i : Nat) (f : Lane → Lane) : (g.modLane i f).lanes.length = g.lanes.length := by
  simp [Group.modLane]

theorem Group.mem_lanesWith {g : Group} {p : Lane → Bool} {i : Nat} : i ∈ g.lanesWith p ↔ i < g.lanes.length ∧ p (g.lane i) = true := by
  simp [Group.lanesWith]

theorem Group.mem_run {g : Group} {pc : Word} {i : Nat} :
    i ∈ g.run pc ↔ i < g.lanes.length ∧ (g.lane i).isActive = true ∧ (g.lane i).pc = pc := by
  simp [Group.run, Group.mem_lanesWith]

theorem Group.run_nodup (g : Group) (pc : Word) : (g.run pc).Nodup :=
  List.Nodup.sublist List.filter_sublist List.nodup_range

theorem Group.live_nodup (g : Group) : g.live.Nodup :=
  List.Nodup.sublist List.filter_sublist List.nodup_range

/-- A fold of changes of distinct lanes: each named lane once, the others not. -/
theorem Group.foldl_modLane {α : Type} (l : List (Nat × α)) (F : α → Lane → Lane) (g : Group) (nd : (l.map Prod.fst).Nodup) (j : Nat)
    (hj : j < g.lanes.length) :
    (l.foldl (fun g x => g.modLane x.1 (F x.2)) g).lane j =
      match l.find? (fun x => x.1 == j) with
      | some x => F x.2 (g.lane j)
      | none => g.lane j := by
  induction l generalizing g with
  | nil => rfl
  | cons p r ih =>
    obtain ⟨i, a⟩ := p
    rw [List.map_cons, List.nodup_cons] at nd
    rw [List.foldl_cons, ih _ nd.2 (by simpa using hj), List.find?_cons]
    by_cases h : i = j
    · subst h
      have hn : r.find? (fun x => x.1 == i) = none := by
        rw [List.find?_eq_none]
        intro x hx hxi
        exact nd.1 (List.mem_map.2 ⟨x, hx, by simpa using hxi⟩)
      simp [hn, Group.lane_modLane_self g _ hj]
    · have hb : (i == j) = false := by simpa using h
      simp only [hb]
      rw [Group.lane_modLane_ne g _ (Ne.symm h)]

@[simp] theorem Group.foldl_modLane_length {α : Type} (l : List (Nat × α)) (F : α → Lane → Lane) (g : Group) :
    (l.foldl (fun g x => g.modLane x.1 (F x.2)) g).lanes.length = g.lanes.length := by
  induction l generalizing g with
  | nil => rfl
  | cons p r ih => simp [ih]

/-- A fold of changes of lanes writes the lanes alone. -/
theorem Group.foldl_modLane_eq {α : Type} (l : List (Nat × α)) (F : α → Lane → Lane) (g : Group) :
    l.foldl (fun g x => g.modLane x.1 (F x.2)) g = { g with lanes := (l.foldl (fun g x => g.modLane x.1 (F x.2)) g).lanes } := by
  induction l generalizing g with
  | nil => rfl
  | cons p r ih => rw [List.foldl_cons, ih]; rfl

@[simp] theorem Lane.fill_isEmpty_self (l : Lane) (sl : Slot) : (l.fill sl).isEmpty sl = false := by
  simp [Lane.fill, Lane.isEmpty]

theorem Lane.fill_isEmpty_ne (l : Lane) {sl x : Slot} (h : x ≠ sl) : (l.fill sl).isEmpty x = l.isEmpty x := by
  simp [Lane.fill, Lane.isEmpty, h]

theorem Lane.rd_put_self (l : Lane) (d : Nat) (sl : Slot) (v : Word) : (l.put d sl v).rd d sl = v := by
  cases sl <;> simp [Lane.put, Lane.rd]

@[simp] theorem Lane.rd_fill (l : Lane) (d : Nat) (sl x : Slot) : (l.fill sl).rd d x = l.rd d x := by
  cases x <;> rfl

@[simp] theorem Lane.put_isEmpty (l : Lane) (d : Nat) (sl x : Slot) (v : Word) : (l.put d sl v).isEmpty x = l.isEmpty x := by
  cases sl <;> rfl

/-- The registers of one window lie in different places of the stack when it has at least 64 slots (R17). -/
theorem Lane.rd_put_slotOf_ne (l : Lane) {d n m : Nat} (v : Word) (hd : 64 ≤ d) (hn : n < 64) (hm : m < 64) (h : m ≠ n) :
    (l.put d (l.slotOf n) v).rd d (l.slotOf m) = l.rd d (l.slotOf m) := by
  unfold Lane.slotOf
  split <;> split <;> simp only [Lane.put, Lane.rd]
  · exact AMap.get_set_ne _ _ _ h
  · refine AMap.get_set_ne _ _ _ fun e => ?_
    have h1 : (l.w + m - 8) % d = (l.w + n - 8) % d := e
    have hm8 : l.w + m - 8 = l.w + (m - 8) := by omega
    have hn8 : l.w + n - 8 = l.w + (n - 8) := by omega
    rw [hm8, hn8] at h1
    have h2 : (m - 8) % d = (n - 8) % d := Nat.ModEq.add_left_cancel' l.w h1
    rw [Nat.mod_eq_of_lt (by omega), Nat.mod_eq_of_lt (by omega)] at h2
    omega

theorem Lane.pred_setPred_self (l : Lane) {n : Nat} (v : Bool) (h : n < 7) : (l.setPred n v).pred n = v := by
  have h7 : ¬n = 7 := by omega
  obtain rfl | rfl | rfl | rfl | rfl | rfl | rfl : n = 0 ∨ n = 1 ∨ n = 2 ∨ n = 3 ∨ n = 4 ∨ n = 5 ∨ n = 6 := by omega
  all_goals cases v <;> simp [Lane.pred, Lane.setPred]

theorem Lane.setPred_seven (l : Lane) (v : Bool) : l.setPred 7 v = l := by simp [Lane.setPred]

theorem Group.setU_self (g : Group) {c : Nat} (v : UWord) (h : c < 24) : (g.setU c v).uregs.get 0 c = v := by
  simp [Group.setU, h]

theorem Group.setU_discard (g : Group) {c : Nat} (v : UWord) (h : 24 ≤ c) : g.setU c v = g := by
  simp [Group.setU, show ¬c < 24 by omega]

end Sys2Proof.Machine
end

