-- ==== Sys2Proof/Laws/Lanes.lean ====
section
/-! SUPPORT. The run of a lane word: what each lane of the run and everything else hold after it. -/

namespace Sys2Proof.Machine

/-- The lanes' parts of a run. -/
def runParts (s : State) (f : Group → Nat → Lane → LaneRes) : List (Nat × LaneRes) :=
  ((s.group s.cur).run s.curPc).map fun i => (i, f (s.group s.cur) i ((s.group s.cur).lane i))

/-- A part that neither traps nor exits. -/
def LaneRes.plain (r : LaneRes) : Bool :=
  match r.out with
  | .trap _ _ => false
  | .exit => false
  | _ => true

/-- The issuing group after its lanes have acted. -/
def ranGroup (len : Nat) (rs : List (Nat × LaneRes)) (g : Group) : Group :=
  { rs.foldl (fun g x => g.modLane x.1 fun l => settleLane len l x.2) g with
    flags := rs.foldl (fun fl x => fl ||| BitVec.ofNat 64 x.2.fl) g.flags }

theorem trapLanes_plain (s : State) (gid : Nat) (pc : Word) (ext : Bool) (rs : List (Nat × LaneRes))
    (h : ∀ x ∈ rs, x.2.plain = true) : trapLanes s gid pc ext rs = s := by
  have ht : trapsOf rs = [] := by
    unfold trapsOf
    rw [List.filterMap_eq_nil_iff]
    intro x hx
    have := h x hx
    unfold LaneRes.plain at this
    split at this <;> simp_all
  simp [trapLanes, ht]

theorem exitsOf_plain (rs : List (Nat × LaneRes)) (h : ∀ x ∈ rs, x.2.plain = true) : exitsOf rs = [] := by
  unfold exitsOf
  rw [List.filterMap_eq_nil_iff]
  intro x hx
  have := h x hx
  unfold LaneRes.plain at this
  split at this <;> simp_all

/-- A run in which no lane traps or exits changes the issuing group alone: its run's lanes and its FLAGS. -/
theorem runLanes_plain (s : State) (len : Nat) (f : Group → Nat → Lane → LaneRes)
    (h : ∀ i ∈ (s.group s.cur).run s.curPc, (f (s.group s.cur) i ((s.group s.cur).lane i)).plain = true) :
    runLanes s len f = s.modGroup s.cur (ranGroup len (runParts s f)) := by
  have hp : ∀ x ∈ runParts s f, x.2.plain = true := by
    intro x hx
    obtain ⟨i, hi, rfl⟩ := List.mem_map.1 hx
    exact h i hi
  have ht := trapLanes_plain (s.modGroup s.cur (ranGroup len (runParts s f))) s.cur s.curPc (len == 8) (runParts s f) hp
  have he := exitsOf_plain (runParts s f) hp
  unfold runLanes
  unfold ranGroup runParts at *
  simp only [ht, he, List.isEmpty_nil, if_true]

theorem runParts_keys (s : State) (f : Group → Nat → Lane → LaneRes) :
    (runParts s f).map Prod.fst = (s.group s.cur).run s.curPc := by
  simp [runParts, Function.comp_def]

theorem find_runParts (s : State) (f : Group → Nat → Lane → LaneRes) (j : Nat) :
    (runParts s f).find? (fun x => x.1 == j) =
      if j ∈ (s.group s.cur).run s.curPc then some (j, f (s.group s.cur) j ((s.group s.cur).lane j)) else none := by
  unfold runParts
  generalize (s.group s.cur).run s.curPc = l
  induction l with
  | nil => simp
  | cons i r ih =>
    rw [List.map_cons, List.find?_cons]
    by_cases h : i = j
    · subst h; simp
    · have hb : (i == j) = false := by simpa using h
      simp only [hb, ih, List.mem_cons, Ne.symm h, false_or]

/-- The lanes of the issuing group after a plain run. -/
theorem ranGroup_lane (s : State) (len : Nat) (f : Group → Nat → Lane → LaneRes) (j : Nat) (hj : j < (s.group s.cur).lanes.length) :
    (ranGroup len (runParts s f) (s.group s.cur)).lane j =
      if j ∈ (s.group s.cur).run s.curPc then
        settleLane len ((s.group s.cur).lane j) (f (s.group s.cur) j ((s.group s.cur).lane j))
      else (s.group s.cur).lane j := by
  have h := Group.foldl_modLane (runParts s f) (fun r l => settleLane len l r) (s.group s.cur)
    (by rw [runParts_keys]; exact Group.run_nodup _ _) j hj
  rw [find_runParts] at h
  unfold ranGroup
  rw [show ∀ (g : Group) (fl : UWord), ({ g with flags := fl } : Group).lane j = g.lane j from fun _ _ => rfl, h]
  by_cases hi : j ∈ (s.group s.cur).run s.curPc <;> simp [hi]

/-- Everything but the lanes and FLAGS of the issuing group is as before. -/
theorem ranGroup_frame (len : Nat) (rs : List (Nat × LaneRes)) (g : Group) :
    ranGroup len rs g = { g with lanes := (ranGroup len rs g).lanes, flags := (ranGroup len rs g).flags } := by
  unfold ranGroup
  rw [Group.foldl_modLane_eq rs (fun r l => settleLane len l r) g]

theorem ranGroup_lanes_length (len : Nat) (rs : List (Nat × LaneRes)) (g : Group) :
    (ranGroup len rs g).lanes.length = g.lanes.length :=
  Group.foldl_modLane_length rs (fun r l => settleLane len l r) g

theorem ranGroup_flags (len : Nat) (rs : List (Nat × LaneRes)) (g : Group) :
    (ranGroup len rs g).flags = rs.foldl (fun fl x => fl ||| BitVec.ofNat 64 x.2.fl) g.flags := rfl

/-- FLAGS of a run whose parts set none. -/
theorem ranGroup_flags_zero (len : Nat) (rs : List (Nat × LaneRes)) (g : Group) (h : ∀ x ∈ rs, x.2.fl = 0) :
    (ranGroup len rs g).flags = g.flags := by
  rw [ranGroup_flags]
  generalize g.flags = fl
  induction rs generalizing fl with
  | nil => rfl
  | cons p r ih =>
    rw [List.foldl_cons, h p (by simp)]
    simpa using ih (fun x hx => h x (List.mem_cons_of_mem _ hx)) fl

/-- A part that a source or destination register gates: a trap under a marker, else a block, else the act (R20, R64). -/
theorem gated_cases (srcs : List Src) (dst : List (Nat × Slot)) (l : Lane) (act : Unit → LaneRes) :
    gated srcs dst l act =
      if srcs.any (fun x => x.mark && !x.gaps.isEmpty) then { lane := l, out := .trap .emptyRead 0 }
      else if (srcs.flatMap fun x => x.gaps) ++ dst = [] then act ()
      else { lane := l, out := .block (.regs ((srcs.flatMap fun x => x.gaps) ++ dst)) } := by
  unfold gated
  simp only [List.isEmpty_iff]

/-- A gated act with every register full. -/
theorem gated_full (srcs : List Src) (dst : List (Nat × Slot)) (l : Lane) (act : Unit → LaneRes)
    (hs : ∀ x ∈ srcs, x.gaps = []) (hd : dst = []) : gated srcs dst l act = act () := by
  rw [gated_cases]
  have h1 : srcs.any (fun x => x.mark && !x.gaps.isEmpty) = false := by
    rw [List.any_eq_false]
    intro x hx
    simp [hs x hx]
  have h2 : (srcs.flatMap fun x => x.gaps) = [] := by
    rw [List.flatMap_eq_nil_iff]
    exact hs
  simp [h1, h2, hd]

end Sys2Proof.Machine
end

