-- ==== Sys2Proof/Laws/Arith.lean ====
section
/-! SUPPORT. The integer formulas of the lane words on numbers, said again on bit vectors of the operand's width. -/

namespace Sys2Proof.Machine

theorem sx_toInt {n : Nat} (h : 0 < n) (a : Nat) : sx n a = (BitVec.ofNat n a).toInt := by
  unfold sx intOfCode
  rw [BitVec.toInt_eq_toNat_cond]
  simp only [BitVec.toNat_ofNat, Bool.true_and, decide_eq_true_eq]
  have h2 : 2 ^ n = 2 * 2 ^ (n - 1) := by
    conv => lhs; rw [show n = (n - 1) + 1 by omega, Nat.pow_succ, Nat.mul_comm]
  have := Nat.mod_lt a (show 0 < 2 ^ n by positivity)
  split <;> split <;> omega

theorem wrap_ofInt (n : Nat) (i : Int) : wrap n i = (BitVec.ofInt n i).toNat := by
  simp [wrap, BitVec.toNat_ofInt]

theorem toNat_lt_eq {n a : Nat} (h : a < 2 ^ n) : (BitVec.ofNat n a).toNat = a := by
  simpa using Nat.mod_eq_of_lt h

theorem add_bv (n a b : Nat) : (a + b) % 2 ^ n = (BitVec.ofNat n a + BitVec.ofNat n b).toNat := by
  simp

theorem sub_bv {n a b : Nat} (ha : a < 2 ^ n) (hb : b < 2 ^ n) :
    (a + (2 ^ n - b)) % 2 ^ n = (BitVec.ofNat n a - BitVec.ofNat n b).toNat := by
  rw [BitVec.toNat_sub, toNat_lt_eq ha, toNat_lt_eq hb, Nat.add_comm]

theorem mul_bv (n a b : Nat) : a * b % 2 ^ n = (BitVec.ofNat n a * BitVec.ofNat n b).toNat := by
  simp [Nat.mul_mod]

theorem neg_bv {n a : Nat} (ha : a < 2 ^ n) : (2 ^ n - a) % 2 ^ n = (-BitVec.ofNat n a).toNat := by
  rw [BitVec.toNat_neg, toNat_lt_eq ha]

theorem and_bv {n a b : Nat} (ha : a < 2 ^ n) (hb : b < 2 ^ n) : a &&& b = (BitVec.ofNat n a &&& BitVec.ofNat n b).toNat := by
  rw [BitVec.toNat_and, toNat_lt_eq ha, toNat_lt_eq hb]

theorem or_bv {n a b : Nat} (ha : a < 2 ^ n) (hb : b < 2 ^ n) : a ||| b = (BitVec.ofNat n a ||| BitVec.ofNat n b).toNat := by
  rw [BitVec.toNat_or, toNat_lt_eq ha, toNat_lt_eq hb]

theorem xor_bv {n a b : Nat} (ha : a < 2 ^ n) (hb : b < 2 ^ n) : a ^^^ b = (BitVec.ofNat n a ^^^ BitVec.ofNat n b).toNat := by
  rw [BitVec.toNat_xor, toNat_lt_eq ha, toNat_lt_eq hb]

theorem not_bv {n a : Nat} (ha : a < 2 ^ n) : 2 ^ n - 1 - a = (~~~BitVec.ofNat n a).toNat := by
  rw [BitVec.toNat_not, toNat_lt_eq ha]

theorem andn_bv {n a b : Nat} (ha : a < 2 ^ n) (hb : b < 2 ^ n) :
    a &&& (2 ^ n - 1 - b) = (BitVec.ofNat n a &&& ~~~BitVec.ofNat n b).toNat := by
  rw [BitVec.toNat_and, toNat_lt_eq ha, ← not_bv hb]

theorem mulhu_bv {n a b : Nat} (ha : a < 2 ^ n) (hb : b < 2 ^ n) :
    a * b / 2 ^ n = (BitVec.ofNat n ((BitVec.ofNat n a).toNat * (BitVec.ofNat n b).toNat / 2 ^ n)).toNat := by
  rw [toNat_lt_eq ha, toNat_lt_eq hb, toNat_lt_eq]
  rw [Nat.div_lt_iff_lt_mul (by positivity)]
  exact Nat.mul_lt_mul'' ha hb

theorem mulhs_bv {n : Nat} (h : 0 < n) (a b : Nat) :
    wrap n (sx n a * sx n b / (2 ^ n : Nat)) =
      (BitVec.ofInt n ((BitVec.ofNat n a).toInt * (BitVec.ofNat n b).toInt / (2 ^ n : Nat))).toNat := by
  rw [wrap_ofInt, sx_toInt h, sx_toInt h]

theorem divu_bv {n a b : Nat} (ha : a < 2 ^ n) (hb : b < 2 ^ n) :
    (if b = 0 then 2 ^ n - 1 else a / b) =
      (if BitVec.ofNat n b = 0 then BitVec.allOnes n else BitVec.ofNat n a / BitVec.ofNat n b).toNat := by
  have hz : BitVec.ofNat n b = 0 ↔ b = 0 := by
    rw [← BitVec.toNat_inj, toNat_lt_eq hb]; simp
  by_cases h : b = 0
  · simp [h]
  · rw [if_neg h, if_neg (by rw [hz]; exact h), BitVec.toNat_udiv, toNat_lt_eq ha, toNat_lt_eq hb]

theorem remu_bv {n a b : Nat} (ha : a < 2 ^ n) (hb : b < 2 ^ n) :
    (if b = 0 then a else a % b) =
      (if BitVec.ofNat n b = 0 then BitVec.ofNat n a else BitVec.ofNat n a % BitVec.ofNat n b).toNat := by
  have hz : BitVec.ofNat n b = 0 ↔ b = 0 := by
    rw [← BitVec.toNat_inj, toNat_lt_eq hb]; simp
  by_cases h : b = 0
  · simp only [h, if_true]
    rw [if_pos (by simp), toNat_lt_eq ha]
  · rw [if_neg h, if_neg (by rw [hz]; exact h), BitVec.toNat_umod, toNat_lt_eq ha, toNat_lt_eq hb]

theorem sdiv_bv {n a b : Nat} (h : 0 < n) (hb : b < 2 ^ n) :
    sdiv n a b = (if BitVec.ofNat n b = 0 then BitVec.allOnes n else (BitVec.ofNat n a).sdiv (BitVec.ofNat n b)).toNat := by
  have hz : BitVec.ofNat n b = 0 ↔ b = 0 := by
    rw [← BitVec.toNat_inj, toNat_lt_eq hb]; simp
  unfold sdiv
  by_cases hb0 : b = 0
  · simp [hb0]
  · rw [if_neg hb0, if_neg (by rw [hz]; exact hb0), wrap_ofInt, sx_toInt h, sx_toInt h]
    congr 1
    apply BitVec.eq_of_toInt_eq
    rw [BitVec.toInt_ofInt, BitVec.toInt_sdiv]

theorem srem_bv {n a b : Nat} (h : 0 < n) (ha : a < 2 ^ n) (hb : b < 2 ^ n) :
    srem n a b = (if BitVec.ofNat n b = 0 then BitVec.ofNat n a else (BitVec.ofNat n a).srem (BitVec.ofNat n b)).toNat := by
  have hz : BitVec.ofNat n b = 0 ↔ b = 0 := by
    rw [← BitVec.toNat_inj, toNat_lt_eq hb]; simp
  unfold srem
  by_cases hb0 : b = 0
  · simp only [hb0, if_true]
    rw [if_pos (by simp), toNat_lt_eq ha]
  · rw [if_neg hb0, if_neg (by rw [hz]; exact hb0), wrap_ofInt, sx_toInt h, sx_toInt h, ← BitVec.toInt_srem,
      BitVec.ofInt_toInt]

theorem smin_bv {n a b : Nat} (h : 0 < n) (ha : a < 2 ^ n) (hb : b < 2 ^ n) :
    (if sx n a ≤ sx n b then a else b) =
      (if (BitVec.ofNat n a).sle (BitVec.ofNat n b) then BitVec.ofNat n a else BitVec.ofNat n b).toNat := by
  rw [sx_toInt h, sx_toInt h]
  simp only [BitVec.sle, decide_eq_true_eq]
  split <;> simp [Nat.mod_eq_of_lt ha, Nat.mod_eq_of_lt hb]

theorem smax_bv {n a b : Nat} (h : 0 < n) (ha : a < 2 ^ n) (hb : b < 2 ^ n) :
    (if sx n a ≤ sx n b then b else a) =
      (if (BitVec.ofNat n a).sle (BitVec.ofNat n b) then BitVec.ofNat n b else BitVec.ofNat n a).toNat := by
  rw [sx_toInt h, sx_toInt h]
  simp only [BitVec.sle, decide_eq_true_eq]
  split <;> simp [Nat.mod_eq_of_lt ha, Nat.mod_eq_of_lt hb]

theorem umin_bv {n a b : Nat} (ha : a < 2 ^ n) (hb : b < 2 ^ n) :
    min a b = (if BitVec.ofNat n a ≤ BitVec.ofNat n b then BitVec.ofNat n a else BitVec.ofNat n b).toNat := by
  by_cases h : a ≤ b
  · rw [if_pos (by rw [BitVec.le_def, toNat_lt_eq ha, toNat_lt_eq hb]; exact h)]
    simp [Nat.mod_eq_of_lt ha, h]
  · rw [if_neg (by rw [BitVec.le_def, toNat_lt_eq ha, toNat_lt_eq hb]; exact h)]
    simp [Nat.mod_eq_of_lt hb]
    omega

theorem umax_bv {n a b : Nat} (ha : a < 2 ^ n) (hb : b < 2 ^ n) :
    max a b = (if BitVec.ofNat n a ≤ BitVec.ofNat n b then BitVec.ofNat n b else BitVec.ofNat n a).toNat := by
  by_cases h : a ≤ b
  · rw [if_pos (by rw [BitVec.le_def, toNat_lt_eq ha, toNat_lt_eq hb]; exact h)]
    simp [Nat.mod_eq_of_lt hb, h]
  · rw [if_neg (by rw [BitVec.le_def, toNat_lt_eq ha, toNat_lt_eq hb]; exact h)]
    simp [Nat.mod_eq_of_lt ha]
    omega

theorem abs_bv {n a : Nat} (h : 0 < n) (ha : a < 2 ^ n) :
    (if sx n a < 0 then (2 ^ n - a) % 2 ^ n else a) =
      (if (BitVec.ofNat n a).toInt < 0 then -BitVec.ofNat n a else BitVec.ofNat n a).toNat := by
  rw [sx_toInt h]
  split
  · exact neg_bv ha
  · exact (toNat_lt_eq ha).symm

theorem shl_bv {n a : Nat} (t : Nat) : shlOp n a t = (BitVec.ofNat n a <<< t).toNat := by
  simp [shlOp, BitVec.toNat_shiftLeft, Nat.shiftLeft_eq, Nat.mod_mul_mod]

theorem shr_bv {n a : Nat} (ha : a < 2 ^ n) (t : Nat) : shrOp n a t = (BitVec.ofNat n a >>> t).toNat := by
  rw [BitVec.toNat_ushiftRight, toNat_lt_eq ha, Nat.shiftRight_eq_div_pow]
  rfl

theorem sar_bv {n a : Nat} (h : 0 < n) (t : Nat) : sarOp n a t = ((BitVec.ofNat n a).sshiftRight t).toNat := by
  unfold sarOp
  rw [wrap_ofInt, sx_toInt h]
  rw [← Int.shiftRight_eq_div_pow, ← BitVec.toInt_sshiftRight, BitVec.ofInt_toInt]

theorem rot_bv {n a t : Nat} (ha : a < 2 ^ n) (ht : t < n) : rotOp n a t = ((BitVec.ofNat n a).rotateLeft t).toNat := by
  rw [BitVec.rotateLeft_def, Nat.mod_eq_of_lt ht, BitVec.toNat_or, BitVec.toNat_shiftLeft, BitVec.toNat_ushiftRight, toNat_lt_eq ha,
    Nat.shiftLeft_eq, Nat.shiftRight_eq_div_pow]
  unfold rotOp
  have hlt : a / 2 ^ (n - t) < 2 ^ t := by
    rw [Nat.div_lt_iff_lt_mul (by positivity), ← Nat.pow_add, show t + (n - t) = n by omega]
    exact ha
  have hm : a * 2 ^ t % 2 ^ n = 2 ^ t * (a % 2 ^ (n - t)) := by
    conv => lhs; rw [show (2 : Nat) ^ n = 2 ^ (n - t) * 2 ^ t by rw [← Nat.pow_add]; congr 1; omega]
    rw [Nat.mul_mod_mul_right, Nat.mul_comm]
  rw [hm, Nat.two_pow_add_eq_or_of_lt hlt]

theorem brevOp_succ (n a : Nat) : brevOp (n + 1) a = 2 * brevOp n a + a / 2 ^ n % 2 := by
  unfold brevOp
  rw [List.range_succ, List.map_append, List.sum_append]
  simp only [List.map_cons, List.map_nil, List.sum_cons, List.sum_nil, Nat.add_zero, Nat.add_sub_cancel, Nat.sub_self, Nat.pow_zero,
    Nat.mul_one, Nat.add_right_cancel_iff]
  rw [← List.sum_map_mul_left]
  congr 1
  apply List.map_congr_left
  intro i hi
  have hi := List.mem_range.1 hi
  rw [show n - i = n - 1 - i + 1 by omega, Nat.pow_succ]
  ring

theorem testBit_brevOp {n a j : Nat} (hj : j < n) : (brevOp n a).testBit j = a.testBit (n - 1 - j) := by
  induction n generalizing j with
  | zero => omega
  | succ n ih =>
    rw [brevOp_succ]
    cases j with
    | zero =>
      rw [Nat.testBit_zero, Nat.add_sub_cancel, Nat.sub_zero, Nat.testBit_eq_decide_div_mod_eq]
      congr 1
      apply propext
      omega
    | succ j =>
      rw [Nat.testBit_succ, show (2 * brevOp n a + a / 2 ^ n % 2) / 2 = brevOp n a by omega, ih (by omega)]
      congr 1
      omega

theorem brevOp_lt (n a : Nat) : brevOp n a < 2 ^ n := by
  induction n with
  | zero => simp [brevOp]
  | succ n ih =>
    rw [brevOp_succ, Nat.pow_succ]
    omega

theorem testBit_bfxu (n a b j : Nat) :
    (bfxuOp n a b).testBit j = (decide (j < fieldLen n b) && a.testBit (fieldPos b + j)) := by
  unfold bfxuOp
  split
  · rename_i h
    simp [h]
  · rw [Nat.testBit_mod_two_pow, Nat.testBit_div_two_pow, Nat.add_comm]

theorem testBit_bfxs {n a b j : Nat} (hj : j < n) (hL : fieldLen n b ≠ 0) :
    (bfxsOp n a b).testBit j = a.testBit (fieldPos b + min j (fieldLen n b - 1)) := by
  unfold bfxsOp
  rw [if_neg hL, sx_toInt (by omega), wrap_ofInt]
  generalize fieldLen n b = L at *
  rw [← BitVec.signExtend, BitVec.testBit_toNat, BitVec.getLsbD_signExtend]
  simp only [hj, decide_true, Bool.true_and]
  split
  · rename_i h
    rw [BitVec.getLsbD_ofNat, Nat.testBit_div_two_pow, show min j (L - 1) = j by omega, Nat.add_comm]
    simp [h]
  · rw [BitVec.msb_eq_getLsbD_last, BitVec.getLsbD_ofNat, Nat.testBit_div_two_pow, show min j (L - 1) = L - 1 by omega, Nat.add_comm]
    simp
    omega

/-- Numbers with no bit in common add without carries. -/
theorem add_eq_or {x y : Nat} (h : x &&& y = 0) : x + y = x ||| y := by
  obtain ⟨w, hw⟩ : ∃ w, x + y < 2 ^ w := ⟨x + y, Nat.lt_two_pow_self⟩
  have hx : x < 2 ^ w := by omega
  have hy : y < 2 ^ w := by omega
  have hz : BitVec.ofNat w x &&& BitVec.ofNat w y = 0 := by
    rw [← BitVec.toNat_inj, BitVec.toNat_and, toNat_lt_eq hx, toNat_lt_eq hy, h]
    simp
  have := congrArg BitVec.toNat (BitVec.add_eq_or_of_and_eq_zero _ _ hz)
  rwa [BitVec.toNat_add, BitVec.toNat_or, toNat_lt_eq hx, toNat_lt_eq hy, Nat.mod_eq_of_lt hw] at this

/-- Clearing the bits of a mask. -/
theorem sub_and (d m : Nat) : d - (d &&& m) = d ^^^ (d &&& m) := by
  have h0 : (d &&& m) &&& (d ^^^ (d &&& m)) = 0 := by
    apply Nat.eq_of_testBit_eq
    intro i
    simp only [Nat.testBit_and, Nat.testBit_xor, Nat.zero_testBit]
    cases d.testBit i <;> cases m.testBit i <;> rfl
  have h1 : (d &&& m) ||| (d ^^^ (d &&& m)) = d := by
    apply Nat.eq_of_testBit_eq
    intro i
    simp only [Nat.testBit_and, Nat.testBit_xor, Nat.testBit_or]
    cases d.testBit i <;> cases m.testBit i <;> rfl
  have h2 := add_eq_or h0
  rw [h1] at h2
  omega

theorem testBit_bfi (n a b d j : Nat) :
    (bfiOp n a b d).testBit j =
      if fieldPos b ≤ j ∧ j < fieldPos b + fieldLen n b then a.testBit (j - fieldPos b) else d.testBit j := by
  unfold bfiOp
  split
  · rename_i h
    rw [if_neg (by omega)]
  · generalize fieldLen n b = L
    generalize fieldPos b = p
    have hm : ∀ j, ((2 ^ L - 1) * 2 ^ p).testBit j = (decide (p ≤ j) && decide (j < p + L)) := by
      intro j
      rw [Nat.mul_comm, Nat.testBit_two_pow_mul, Nat.testBit_two_pow_sub_one]
      by_cases h : p ≤ j <;> simp [h]
      omega
    have h0 : (d ^^^ (d &&& (2 ^ L - 1) * 2 ^ p)) &&& (a * 2 ^ p &&& (2 ^ L - 1) * 2 ^ p) = 0 := by
      apply Nat.eq_of_testBit_eq
      intro i
      simp only [Nat.testBit_and, Nat.testBit_xor, Nat.zero_testBit]
      cases d.testBit i <;> cases ((2 ^ L - 1) * 2 ^ p).testBit i <;> simp
    simp only []
    rw [sub_and, add_eq_or h0]
    simp only [Nat.testBit_or, Nat.testBit_and, Nat.testBit_xor, hm]
    rw [Nat.mul_comm a, Nat.testBit_two_pow_mul]
    by_cases h1 : p ≤ j <;> by_cases h2 : j < p + L <;> simp [h1, h2]

theorem icmp_bv {n a b : Nat} (h : 0 < n) (ha : a < 2 ^ n) (hb : b < 2 ^ n) (c : Nat) :
    icmpOp n c a b =
      let x := BitVec.ofNat n a
      let y := BitVec.ofNat n b
      match c with
      | 0 => x == y
      | 1 => x != y
      | 2 => x.slt y
      | 3 => x.sle y
      | 4 => y.slt x
      | 5 => y.sle x
      | 6 => x.ult y
      | _ => y.ule x := by
  have he : (BitVec.ofNat n a == BitVec.ofNat n b) = (a == b) := by
    rw [Bool.eq_iff_iff, beq_iff_eq, beq_iff_eq, ← BitVec.toNat_inj, toNat_lt_eq ha, toNat_lt_eq hb]
  unfold icmpOp
  simp only [sx_toInt h, BitVec.slt, BitVec.sle, BitVec.ult, BitVec.ule, toNat_lt_eq ha, toNat_lt_eq hb, bne, he]

end Sys2Proof.Machine
end

