-- ==== Sys2Proof/Laws/Alu.lean ====
section
/-! SUPPORT. What a lane word that reads sources and writes a destination does when every register is full; the width of what a
lane reads. -/

namespace Sys2Proof.Machine

/-- A plain run in one piece. -/
theorem runLanes_eachLane (s : State) (len : Nat) (f : Group → Nat → Lane → LaneRes)
    (h : ∀ i ∈ s.myRun, (f s.me i (s.me.lane i)).plain = true) :
    runLanes s len f = s.eachLane (fun i l => settleLane len l (f s.me i l)) fun i l => (f s.me i l).fl := by
  rw [runLanes_plain s len f h]
  apply State.modGroup_congr
  rw [ranGroup_frame]
  have hl : (ranGroup len (runParts s f) s.me).lanes =
      s.me.lanes.mapIdx fun i l => if s.myRun.elem i then settleLane len l (f s.me i l) else l := by
    apply List.ext_getElem?
    intro j
    by_cases hj : j < s.me.lanes.length
    · have h1 := ranGroup_lane s len f j hj
      have hj2 : j < (ranGroup len (runParts s f) s.me).lanes.length := by rw [ranGroup_lanes_length]; exact hj
      rw [List.getElem?_eq_getElem hj2, List.getElem?_mapIdx, List.getElem?_eq_getElem hj]
      simp only [Option.map_some, Option.some.injEq]
      have e1 : (ranGroup len (runParts s f) s.me).lane j = (ranGroup len (runParts s f) s.me).lanes[j] := by
        simp [Group.lane, List.getD_eq_getElem?_getD, hj2]
      have e2 : s.me.lane j = s.me.lanes[j] := by simp [Group.lane, List.getD_eq_getElem?_getD, hj]
      rw [e1, e2] at h1
      rw [h1]
      by_cases hr : j ∈ s.myRun <;> simp [hr]
    · rw [List.getElem?_eq_none (by rw [ranGroup_lanes_length]; omega), List.getElem?_eq_none (by simp; omega)]
  have hf : (ranGroup len (runParts s f) s.me).flags =
      s.myRun.foldl (fun x i => x ||| BitVec.ofNat 64 (f s.me i (s.me.lane i)).fl) s.me.flags := by
    rw [ranGroup_flags]
    unfold runParts
    rw [List.foldl_map]
  rw [hl, hf]

theorem State.eachLane_congr (s : State) {f f' : Nat → Lane → Lane} {fl fl' : Nat → Lane → Nat}
    (h : ∀ i ∈ s.myRun, f i (s.me.lane i) = f' i (s.me.lane i)) (hf : ∀ i ∈ s.myRun, fl i (s.me.lane i) = fl' i (s.me.lane i)) :
    s.eachLane f fl = s.eachLane f' fl' := by
  apply State.modGroup_congr
  have h1 : (s.group s.cur).lanes.mapIdx (fun i l => if s.myRun.elem i then f i l else l) =
      (s.group s.cur).lanes.mapIdx fun i l => if s.myRun.elem i then f' i l else l := by
    apply Group.mapIdx_congr
    intro i _
    by_cases hi : i ∈ s.myRun
    · simp [hi, h i hi]
    · simp [hi]
  have h2 : s.myRun.foldl (fun x i => x ||| BitVec.ofNat 64 (fl i ((s.group s.cur).lane i))) (s.group s.cur).flags =
      s.myRun.foldl (fun x i => x ||| BitVec.ofNat 64 (fl' i ((s.group s.cur).lane i))) (s.group s.cur).flags := by
    apply List.foldl_ext
    intro x i hi
    rw [hf i hi]
  simp only [h1, h2]

theorem settle_past (len : Nat) (l x : Lane) (fl : Nat) (h : x.pc = l.pc) : settleLane len l { lane := x, fl := fl } = x.past len := by
  simp [settleLane, Lane.past, h]

/-- A lane word whose true lanes find every register full. -/
theorem laneWord_ready (s : State) (o : LaneOp) (sh : Shape) (act : Group → Nat → Lane → Nat → Nat → Nat → LaneRes)
    (legal : swzLegal s.me.width o.x = true) (ready : s.Ready o sh)
    (plain : ∀ g i l a b c, (act g i l a b c).out = .next ∧ (act g i l a b c).lane.pc = l.pc) :
    laneWord s o sh act = s.trueLanes o
      (fun i l => (act s.me i l (s.sources s.me i o sh).1.v (s.sources s.me i o sh).2.1.v (s.sources s.me i o sh).2.2.v).lane)
      fun i l => (act s.me i l (s.sources s.me i o sh).1.v (s.sources s.me i o sh).2.1.v (s.sources s.me i o sh).2.2.v).fl := by
  unfold laneWord
  rw [if_pos legal]
  have part : ∀ i ∈ s.myRun, lanePart s o sh act s.me i (s.me.lane i) =
      if (s.me.lane i).guard o then
        act s.me i (s.me.lane i) (s.sources s.me i o sh).1.v (s.sources s.me i o sh).2.1.v (s.sources s.me i o sh).2.2.v
      else { lane := s.me.lane i } := by
    intro i hi
    unfold lanePart
    by_cases hg : (s.me.lane i).guard o = true
    · obtain ⟨h1, h2, h3, h4⟩ := ready i hi hg
      simp only [hg, Bool.not_true, Bool.false_eq_true, if_false, if_true]
      apply gated_full
      · simp [h1, h2, h3]
      · split
        · rename_i hw
          exact h4 hw
        · rfl
    · simp [hg]
  rw [runLanes_eachLane]
  · unfold State.trueLanes
    apply State.eachLane_congr
    · intro i hi
      rw [part i hi]
      split
      · unfold settleLane
        rw [(plain _ _ _ _ _ _).1, ← (plain s.me i (s.me.lane i) _ _ _).2]
        rfl
      · rfl
    · intro i hi
      rw [part i hi]
      split <;> rfl
  · intro i hi
    rw [part i hi]
    split
    · simp [LaneRes.plain, (plain _ _ _ _ _ _).1]
    · rfl

/-- A word of `aluWord` whose true lanes find every register full. -/
theorem aluWord_ready (s : State) (o : LaneOp) (sh : Shape) (f : Nat → Nat → Nat → Nat × Nat)
    (legal : swzLegal s.me.width o.x = true) (ready : s.Ready o sh) :
    aluWord s o sh f = s.trueLanes o
      (fun i l => l.wrOp s.me.depth o.d sh.pair
        (f (s.sources s.me i o sh).1.v (s.sources s.me i o sh).2.1.v (s.sources s.me i o sh).2.2.v).1)
      fun i _ => (f (s.sources s.me i o sh).1.v (s.sources s.me i o sh).2.1.v (s.sources s.me i o sh).2.2.v).2 := by
  unfold aluWord
  rw [laneWord_ready s o sh _ legal ready]
  intro g i l a b c
  exact ⟨rfl, by simp⟩

/-- A word of `predWord` whose true lanes find every register full. -/
theorem predWord_ready (s : State) (o : LaneOp) (sh : Shape) (f : Nat → Nat → Bool × Nat)
    (legal : swzLegal s.me.width o.x = true) (ready : s.Ready o { sh with wd := false }) :
    predWord s o sh f = s.trueLanes o
      (fun i l => l.setPred (o.d % 8)
        (f (s.sources s.me i o { sh with wd := false }).1.v (s.sources s.me i o { sh with wd := false }).2.1.v).1)
      fun i _ => (f (s.sources s.me i o { sh with wd := false }).1.v (s.sources s.me i o { sh with wd := false }).2.1.v).2 := by
  unfold predWord
  rw [laneWord_ready s o _ _ legal ready]
  intro g i l a b c
  exact ⟨rfl, by simp⟩

/-- Width of an operand. -/
def Shape.bits (sh : Shape) : Nat := if sh.pair then 64 else 32

theorem Lane.rdOp_lt (l : Lane) (d n : Nat) (pair : Bool) : l.rdOp d n pair < 2 ^ (if pair then 64 else 32) := by
  unfold Lane.rdOp
  have h1 := (l.rd d (l.slotOf n)).isLt
  have h2 := (l.rd d (l.slotOf (n + 1))).isLt
  cases pair <;> simp only [if_true, if_false, Bool.false_eq_true] <;> omega

theorem wrap_lt (n : Nat) (i : Int) : wrap n i < 2 ^ n := by
  rw [wrap_ofInt]
  exact (BitVec.ofInt n i).isLt

theorem immVal_lt (c : Nat) (pair : Bool) (v : Nat) : immVal c pair v < 2 ^ (if pair then 64 else 32) := by
  unfold immVal
  split
  · cases pair <;> simp only [if_true, if_false, Bool.false_eq_true] <;> omega
  · exact wrap_lt _ _

theorem State.src_lt (s : State) (g : Group) (i n mode prm : Nat) (pair mark : Bool) :
    (s.src g i n mode prm pair mark).v < 2 ^ (if pair then 64 else 32) := by
  unfold State.src
  split
  · exact Nat.mod_lt _ (by positivity)
  · exact Lane.rdOp_lt _ _ _ _

/-- What a lane reads fits its width. -/
theorem State.sources_lt (s : State) (g : Group) (i : Nat) (o : LaneOp) (sh : Shape) :
    (s.sources g i o sh).1.v < 2 ^ sh.bits ∧ (s.sources g i o sh).2.1.v < 2 ^ sh.bits ∧ (s.sources g i o sh).2.2.v < 2 ^ sh.bits := by
  have z : (0 : Nat) < 2 ^ sh.bits := by positivity
  unfold State.sources Shape.bits at *
  split
  · refine ⟨State.src_lt _ _ _ _ _ _ _ _, ?_, ?_⟩
    · dsimp only
      split
      · exact State.src_lt _ _ _ _ _ _ _ _
      · exact z
    · dsimp only
      split
      · exact State.src_lt _ _ _ _ _ _ _ _
      · exact z
  · split
    · refine ⟨Lane.rdOp_lt _ _ _ _, immVal_lt _ _ _, ?_⟩
      dsimp only
      split
      · exact Lane.rdOp_lt _ _ _ _
      · exact z
    · exact ⟨immVal_lt _ _ _, z, z⟩
  · refine ⟨Lane.rdOp_lt _ _ _ _, ?_, ?_⟩ <;> dsimp only <;> split
    · exact Lane.rdOp_lt _ _ _ _
    · exact z
    · exact Lane.rdOp_lt _ _ _ _
    · exact z

theorem opBits_pos (o : LaneOp) : 0 < opBits o := by unfold opBits; split <;> omega

/-- An integer word of two sources, by the value of its bit vectors. -/
theorem int2_ready (s : State) (o : LaneOp) (f : Nat → Nat → Nat → Nat) (g : (n : Nat) → BitVec n → BitVec n → BitVec n)
    (h : ∀ n a b, 0 < n → a < 2 ^ n → b < 2 ^ n → f n a b = (g n (BitVec.ofNat n a) (BitVec.ofNat n b)).toNat)
    (legal : swzLegal s.me.width o.x = true) (ready : s.Ready o { pair := o.s }) :
    int2 s o f = s.trueLanes o fun i l =>
      l.wrOp s.me.depth o.d o.s (g (opBits o) (s.argA o { pair := o.s } _ i) (s.argB o { pair := o.s } _ i)).toNat := by
  unfold int2
  rw [aluWord_ready s o { pair := o.s } _ legal ready]
  unfold State.trueLanes
  apply State.eachLane_congr
  · intro i _
    have := State.sources_lt s s.me i o { pair := o.s }
    rw [show Shape.bits { pair := o.s } = opBits o from rfl] at this
    have := h (opBits o) _ _ (opBits_pos o) this.1 this.2.1
    simp only [this, State.argA, State.argB]
  · intro i _
    rfl

/-- An integer word of one source. -/
theorem int1_ready (s : State) (o : LaneOp) (f : Nat → Nat → Nat) (g : (n : Nat) → BitVec n → BitVec n)
    (h : ∀ n a, 0 < n → a < 2 ^ n → f n a = (g n (BitVec.ofNat n a)).toNat)
    (legal : swzLegal s.me.width o.x = true) (ready : s.Ready o { pair := o.s, rb := false }) :
    int1 s o f = s.trueLanes o fun i l =>
      l.wrOp s.me.depth o.d o.s (g (opBits o) (s.argA o { pair := o.s, rb := false } _ i)).toNat := by
  unfold int1
  rw [aluWord_ready s o { pair := o.s, rb := false } _ legal ready]
  unfold State.trueLanes
  apply State.eachLane_congr
  · intro i _
    have := State.sources_lt s s.me i o { pair := o.s, rb := false }
    rw [show Shape.bits { pair := o.s, rb := false } = opBits o from rfl] at this
    have := h (opBits o) _ (opBits_pos o) this.1
    simp only [this, State.argA]
  · intro i _
    rfl

end Sys2Proof.Machine
end

