-- ==== Sys2Proof/Laws/Encoding.lean ====
section
/-! SUPPORT. The fields of an encoded word read back: what `parseLane`, `parseExt` and `parseU` answer on the words of
`encodeLane`, `encodeExt` and `encodeU`, and that each well-formedness check bounds the fields it is given. -/

namespace Sys2Proof.Laws.Encoding

/-- The fields of an extension word fit their places (R41, R43, R46, R47, R49). -/
def ExtFits : LExt → Prop
  | .none => True
  | .src c am ap bm bp cm _ _ _ => c < 64 ∧ am < 8 ∧ ap < 64 ∧ bm < 8 ∧ bp < 64 ∧ cm < 8
  | .imm v => v < 2 ^ 30
  | .mem sp sc od ao hi di => sp < 8 ∧ sc < 8 ∧ od < 4 ∧ ao < 16 ∧ hi < 4 ∧ di < 2 ^ 16
  | .cvt sf df rd _ sb bz c ox => sf < 16 ∧ df < 16 ∧ rd < 8 ∧ sb < 4 ∧ bz < 4 ∧ c < 64 ∧ ox < 256

/-- The fields of a lane word fit their places (R36). -/
def Fits (o : LaneOp) : Prop := o.d < 64 ∧ o.a < 64 ∧ o.b < 64 ∧ o.g < 8 ∧ ExtFits o.x

/-- The instruction `i` is read back from its words, whatever word follows them, and each word fits 32 bits. -/
def ReadsBack (i : Instr) : Prop :=
  (∀ w ∈ encode i, w < 2 ^ 32) ∧
    ∀ e, decode ((encode i).getD 0 0) ((encode i).getD 1 e) = .ok i (4 * (encode i).length)

theorem bnat_lt (b : Bool) : bnat b < 2 := by cases b <;> decide

theorem bit_bnat (b : Bool) : (bnat b == 1) = b := by cases b <;> decide

theorem parseExt_encodeExt (x : LExt) (hx : x ≠ .none) (h : ExtFits x) (e : Nat) :
    parseExt ((encodeExt x).getD 0 e) = x ∧ ∀ w ∈ encodeExt x, w < 2 ^ 32 := by
  cases x with
  | none => exact absurd rfl hx
  | src c am ap bm bp cm ta tb tc =>
    obtain ⟨h1, h2, h3, h4, h5, h6⟩ := h
    have k1 := bnat_lt ta
    have k2 := bnat_lt tb
    have k3 := bnat_lt tc
    generalize hw : c * 2 ^ 24 + am * 2 ^ 21 + ap * 2 ^ 15 + bm * 2 ^ 12 + bp * 2 ^ 6 + cm * 2 ^ 3 + bnat ta * 4 +
      bnat tb * 2 + bnat tc = w
    have e0 : bitsAt w 30 2 = 0 := by unfold bitsAt; omega
    have e1 : bitsAt w 24 6 = c := by unfold bitsAt; omega
    have e2 : bitsAt w 21 3 = am := by unfold bitsAt; omega
    have e3 : bitsAt w 15 6 = ap := by unfold bitsAt; omega
    have e4 : bitsAt w 12 3 = bm := by unfold bitsAt; omega
    have e5 : bitsAt w 6 6 = bp := by unfold bitsAt; omega
    have e6 : bitsAt w 3 3 = cm := by unfold bitsAt; omega
    have e7 : bitsAt w 2 1 = bnat ta := by unfold bitsAt; omega
    have e8 : bitsAt w 1 1 = bnat tb := by unfold bitsAt; omega
    have e9 : bitsAt w 0 1 = bnat tc := by unfold bitsAt; omega
    refine ⟨?_, ?_⟩
    · simp only [encodeExt, hw, List.getD_cons_zero, parseExt, e0, e1, e2, e3, e4, e5, e6, bitAt, e7, e8, e9, bit_bnat]
    · simp only [encodeExt, hw, List.mem_singleton]; rintro _ rfl; omega
  | imm v =>
    have h1 : v < 2 ^ 30 := h
    generalize hw : 2 ^ 30 + v = w
    have e0 : bitsAt w 30 2 = 1 := by unfold bitsAt; omega
    have e1 : bitsAt w 0 30 = v := by unfold bitsAt; omega
    refine ⟨?_, ?_⟩
    · simp only [encodeExt, hw, List.getD_cons_zero, parseExt, e0, e1]
    · simp only [encodeExt, hw, List.mem_singleton]; rintro _ rfl; omega
  | mem sp sc od ao hi di =>
    obtain ⟨h1, h2, h3, h4, h5, h6⟩ := h
    generalize hw : 2 ^ 31 + sp * 2 ^ 27 + sc * 2 ^ 24 + od * 2 ^ 22 + ao * 2 ^ 18 + hi * 2 ^ 16 + di = w
    have e0 : bitsAt w 30 2 = 2 := by unfold bitsAt; omega
    have e1 : bitsAt w 27 3 = sp := by unfold bitsAt; omega
    have e2 : bitsAt w 24 3 = sc := by unfold bitsAt; omega
    have e3 : bitsAt w 22 2 = od := by unfold bitsAt; omega
    have e4 : bitsAt w 18 4 = ao := by unfold bitsAt; omega
    have e5 : bitsAt w 16 2 = hi := by unfold bitsAt; omega
    have e6 : bitsAt w 0 16 = di := by unfold bitsAt; omega
    refine ⟨?_, ?_⟩
    · simp only [encodeExt, hw, List.getD_cons_zero, parseExt, e0, e1, e2, e3, e4, e5, e6]
    · simp only [encodeExt, hw, List.mem_singleton]; rintro _ rfl; omega
  | cvt sf df rd sa sb bz c ox =>
    obtain ⟨h1, h2, h3, h4, h5, h6, h7⟩ := h
    have k1 := bnat_lt sa
    generalize hw : 2 ^ 31 + 2 ^ 30 + sf * 2 ^ 26 + df * 2 ^ 22 + rd * 2 ^ 19 + bnat sa * 2 ^ 18 + sb * 2 ^ 16 +
      bz * 2 ^ 14 + c * 2 ^ 8 + ox = w
    have e0 : bitsAt w 30 2 = 3 := by unfold bitsAt; omega
    have e1 : bitsAt w 26 4 = sf := by unfold bitsAt; omega
    have e2 : bitsAt w 22 4 = df := by unfold bitsAt; omega
    have e3 : bitsAt w 19 3 = rd := by unfold bitsAt; omega
    have e4 : bitsAt w 18 1 = bnat sa := by unfold bitsAt; omega
    have e5 : bitsAt w 16 2 = sb := by unfold bitsAt; omega
    have e6 : bitsAt w 14 2 = bz := by unfold bitsAt; omega
    have e7 : bitsAt w 8 6 = c := by unfold bitsAt; omega
    have e8 : bitsAt w 0 8 = ox := by unfold bitsAt; omega
    refine ⟨?_, ?_⟩
    · simp only [encodeExt, hw, List.getD_cons_zero, parseExt, e0, e1, e2, e3, bitAt, e4, e5, e6, e7, e8, bit_bnat]
    · simp only [encodeExt, hw, List.mem_singleton]; rintro _ rfl; omega

/-- The first word of a lane instruction: its fields read back, bit 31 is clear and bits [30:24] are the opcode. -/
theorem lane_word (op : Nat) (o : LaneOp) (ho : op < 128) (h : Fits o) (e : Nat) :
    let w := (encodeLane op o).getD 0 0
    w < 2 ^ 31 ∧ bitAt w 31 = false ∧ bitsAt w 24 7 = op ∧ bitAt w 1 = (o.x != .none) ∧
      parseLane w ((encodeLane op o).getD 1 e) = o := by
  obtain ⟨h1, h2, h3, h4, h5⟩ := h
  have k1 := bnat_lt o.gn
  have k2 := bnat_lt (o.x != .none)
  have k3 := bnat_lt o.s
  intro w
  have hw : op * 2 ^ 24 + o.d * 2 ^ 18 + o.a * 2 ^ 12 + o.b * 2 ^ 6 + o.g * 2 ^ 3 + bnat o.gn * 4 +
    bnat (o.x != .none) * 2 + bnat o.s = w := rfl
  have e0 : bitsAt w 31 1 = 0 := by unfold bitsAt; omega
  have e1 : bitsAt w 24 7 = op := by unfold bitsAt; omega
  have e2 : bitsAt w 18 6 = o.d := by unfold bitsAt; omega
  have e3 : bitsAt w 12 6 = o.a := by unfold bitsAt; omega
  have e4 : bitsAt w 6 6 = o.b := by unfold bitsAt; omega
  have e5 : bitsAt w 3 3 = o.g := by unfold bitsAt; omega
  have e6 : bitsAt w 2 1 = bnat o.gn := by unfold bitsAt; omega
  have e7 : bitsAt w 1 1 = bnat (o.x != .none) := by unfold bitsAt; omega
  have e8 : bitsAt w 0 1 = bnat o.s := by unfold bitsAt; omega
  have hx : bitAt w 1 = (o.x != .none) := by rw [bitAt, e7, bit_bnat]
  refine ⟨by omega, by rw [bitAt, e0]; rfl, e1, hx, ?_⟩
  have hp : (if bitAt w 1 then parseExt ((encodeLane op o).getD 1 e) else .none) = o.x := by
    rw [hx]
    by_cases hn : o.x = .none
    · simp [hn]
    · rw [if_pos (by simpa using hn)]
      exact (parseExt_encodeExt o.x hn h5 e).1
  unfold parseLane
  rw [hp, e2, e3, e4, e5, bitAt, bitAt, e6, e8, bit_bnat, bit_bnat]

/-- A well-formed lane instruction is read back. -/
theorem lane_readsBack {i : Instr} (op : Nat) (o : LaneOp) (ho : op < 128) (h : Fits o) (he : encode i = encodeLane op o)
    (hd : decodeLane op o = some i) (hw : i.wellFormed = true) : ReadsBack i := by
  refine ⟨?_, fun e => ?_⟩
  · rw [he]
    intro w hm
    rcases List.mem_cons.1 hm with rfl | hm
    · have := (lane_word op o ho h 0).1
      simp only [encodeLane, List.getD_cons_zero] at this
      omega
    · by_cases hn : o.x = .none
      · rw [hn] at hm; simp [encodeExt] at hm
      · exact (parseExt_encodeExt o.x hn h.2.2.2.2 0).2 w hm
  · obtain ⟨-, h31, hop, h1, hp⟩ := lane_word op o ho h e
    rw [he, decode, if_neg (by rw [h31]; decide), hop, hp, hd]
    simp only [hw, h1, if_true]
    congr 1
    cases hx : o.x <;> simp [encodeLane, encodeExt, hx]

/-- The word of a uniform instruction: its fields read back (R50). -/
theorem uniform_readsBack {i : Instr} (op : Nat) (u : UOp) (ho : op < 64) (hu : wfU u = true) (he : encode i = encodeU op u)
    (hd : decodeU op u = some i) (hw : i.wellFormed = true) : ReadsBack i := by
  simp only [wfU, Bool.and_eq_true, decide_eq_true_eq] at hu
  obtain ⟨⟨⟨h1, h2⟩, h3⟩, h4⟩ := hu
  generalize hk : 2 ^ 31 + op * 2 ^ 25 + u.d * 2 ^ 20 + u.a * 2 ^ 15 + u.b * 2 ^ 10 + u.f = w
  have e0 : bitsAt w 31 1 = 1 := by unfold bitsAt; omega
  have e1 : bitsAt w 25 6 = op := by unfold bitsAt; omega
  have e2 : bitsAt w 20 5 = u.d := by unfold bitsAt; omega
  have e3 : bitsAt w 15 5 = u.a := by unfold bitsAt; omega
  have e4 : bitsAt w 10 5 = u.b := by unfold bitsAt; omega
  have e5 : bitsAt w 0 10 = u.f := by unfold bitsAt; omega
  have hp : parseU w = u := by unfold parseU; rw [e2, e3, e4, e5]
  refine ⟨?_, fun e => ?_⟩
  · rw [he, encodeU, hk]
    simp only [List.mem_singleton]
    rintro _ rfl
    omega
  · rw [he, encodeU, hk]
    simp [decode, bitAt, e0, e1, hp, hd, hw]

/-! The fields that a check accepts fit their places. -/

theorem fits_none {o : LaneOp} (h : wfBase o = true) (hx : o.x = .none) : Fits o := by
  simp only [wfBase, Bool.and_eq_true, decide_eq_true_eq] at h
  exact ⟨h.1.1.1, h.1.1.2, h.1.2, h.2, by rw [hx]; trivial⟩

theorem fits_ext {o : LaneOp} (h : wfBase o = true) (hx : ExtFits o.x) : Fits o := by
  simp only [wfBase, Bool.and_eq_true, decide_eq_true_eq] at h
  exact ⟨h.1.1.1, h.1.1.2, h.1.2, h.2, hx⟩

theorem fits_plain {o : LaneOp} (h : wfPlain o = true) : Fits o := by
  simp only [wfPlain, Bool.and_eq_true, beq_iff_eq] at h
  exact fits_none h.1.1 h.2

theorem swz_lt {m p f : Nat} (h : wfSwz m p f = true) : m < 8 ∧ p < 64 := by
  unfold wfSwz at h
  split at h <;> simp at h <;> omega

theorem fits_alu {o : LaneOp} {single third immOk pairs : Bool} (h : wfAlu o single third immOk pairs = true) :
    Fits o := by
  simp only [wfAlu, Bool.and_eq_true] at h
  refine fits_ext h.1.1 ?_
  have h2 := h.2
  revert h2
  cases o.x <;> simp only [ExtFits, Bool.and_eq_true, decide_eq_true_eq, Bool.false_eq_true, false_implies, implies_true]
  · rintro ⟨⟨⟨⟨hc, ha⟩, -⟩, hb⟩, h3⟩
    have hb' : ∀ {m p : Nat} {n : Nat} {t q : Bool}, (if single = true then o.b == 0 && m == 0 && p == 0 && !t else
        wfSwz m p n && q) = true → m < 8 ∧ p < 64 := by
      intro m p n t q hh
      split at hh
      · simp only [Bool.and_eq_true, beq_iff_eq] at hh; omega
      · exact swz_lt (Bool.and_eq_true _ _ ▸ hh).1
    have hc' : ∀ {m p : Nat} {n : Nat} {t q : Bool}, (if third = true then wfSwz m p n && q else
        n == 0 && m == 0 && !t) = true → m < 8 := by
      intro m p n t q hh
      split at hh
      · exact (swz_lt (Bool.and_eq_true _ _ ▸ hh).1).1
      · simp only [Bool.and_eq_true, beq_iff_eq] at hh; omega
    exact ⟨hc, (swz_lt ha).1, (swz_lt ha).2, (hb' hb).1, (hb' hb).2, hc' h3⟩
  · rintro ⟨⟨⟨-, hv⟩, -⟩, -⟩
    exact hv

theorem fits_cmp {o : LaneOp} {immOk : Bool} (h : wfCmp o immOk = true) : Fits o := by
  simp only [wfCmp, Bool.and_eq_true, decide_eq_true_eq] at h
  exact ⟨h.1, (fits_alu h.2).2⟩

theorem fits_coll {o : LaneOp} (h : wfColl o = true) : Fits o := by
  simp only [wfColl, Bool.and_eq_true] at h
  refine fits_ext h.1.1 ?_
  have h2 := h.2
  revert h2
  cases o.x <;> simp only [ExtFits, Bool.and_eq_true, beq_iff_eq, Bool.false_eq_true, false_implies, implies_true]
  rintro ⟨⟨⟨⟨⟨⟨⟨ha, -⟩, hc⟩, hb⟩, hp⟩, hm⟩, -⟩, -⟩
  have := swz_lt ha
  omega

/-- The fields that `wfMem` bounds. -/
theorem mem_fits {sp sc od ao hi di : Nat} (h : wfMem sp sc od ao hi di = true) :
    sp < 8 ∧ sc < 8 ∧ od < 4 ∧ ao < 16 ∧ hi < 4 ∧ di < 2 ^ 16 := by
  simp only [wfMem, Bool.and_eq_true, decide_eq_true_eq] at h
  omega

theorem fits_ld {o : LaneOp} (h : wfLd o = true) : Fits o := by
  simp only [wfLd, Bool.and_eq_true] at h
  refine fits_ext h.1 ?_
  have h2 := h.2
  revert h2
  cases o.x <;> simp only [ExtFits, Bool.and_eq_true, Bool.false_eq_true, false_implies]
  exact fun h2 => mem_fits h2.1.1.1.1.1.1.1

theorem fits_st {o : LaneOp} (h : wfSt o = true) : Fits o := by
  simp only [wfSt, Bool.and_eq_true] at h
  refine fits_ext h.1 ?_
  have h2 := h.2
  revert h2
  cases o.x <;> simp only [ExtFits, Bool.and_eq_true, Bool.false_eq_true, false_implies]
  exact fun h2 => mem_fits h2.1.1.1.1.1.1.1.1.1.1

theorem fits_atom {o : LaneOp} (h : wfAtom o = true) : Fits o := by
  simp only [wfAtom, Bool.and_eq_true] at h
  refine fits_ext h.1 ?_
  have h2 := h.2
  revert h2
  cases o.x <;> simp only [ExtFits, Bool.and_eq_true, Bool.false_eq_true, false_implies]
  exact fun h2 => mem_fits h2.1.1.1.1.1

theorem fits_red {o : LaneOp} (h : wfRed o = true) : Fits o := by
  simp only [wfRed, Bool.and_eq_true] at h
  refine fits_ext h.1.1 ?_
  have h2 := h.2
  revert h2
  cases o.x <;> simp only [ExtFits, Bool.and_eq_true, Bool.false_eq_true, false_implies]
  exact fun h2 => mem_fits h2.1.1.1.1.1.1

theorem fits_cas {o : LaneOp} (h : wfCas o = true) : Fits o := by
  simp only [wfCas, Bool.and_eq_true] at h
  refine fits_ext h.1 ?_
  have h2 := h.2
  revert h2
  cases o.x <;> simp only [ExtFits, Bool.and_eq_true, Bool.false_eq_true, false_implies]
  exact fun h2 => mem_fits h2.1.1.1.1.1.1

theorem fits_pref {o : LaneOp} (h : wfPref o = true) : Fits o := by
  simp only [wfPref, Bool.and_eq_true] at h
  refine fits_ext h.1.1.1.1 ?_
  have h2 := h.2
  revert h2
  cases o.x <;> simp only [ExtFits, Bool.and_eq_true, Bool.false_eq_true, false_implies]
  exact fun h2 => mem_fits h2.1.1.1.1

theorem fits_ldtag {o : LaneOp} (h : wfLdtag o = true) : Fits o := by
  simp only [wfLdtag, Bool.and_eq_true] at h
  refine fits_ext h.1.1.1 ?_
  have h2 := h.2
  revert h2
  cases o.x <;> simp only [ExtFits, Bool.and_eq_true, Bool.false_eq_true, false_implies]
  exact fun h2 => mem_fits h2.1.1.1.1.1

theorem cvtX_fits {sf df rd sb bz c ox : Nat} (h : wfCvtX sf df rd sb bz c ox = true) :
    sf < 16 ∧ df < 16 ∧ rd < 8 ∧ sb < 4 ∧ bz < 4 ∧ c < 64 ∧ ox < 256 := by
  simp only [wfCvtX, Bool.and_eq_true, decide_eq_true_eq] at h
  omega

theorem fits_cvt {o : LaneOp} (h : wfCvt o = true) : Fits o := by
  simp only [wfCvt, Bool.and_eq_true] at h
  refine fits_ext h.1.1.1 ?_
  have h2 := h.2
  revert h2
  cases o.x <;> simp only [ExtFits, Bool.and_eq_true, Bool.false_eq_true, false_implies]
  rintro ⟨⟨hx, -⟩, -⟩
  exact cvtX_fits hx

theorem fits_block {o : LaneOp} {k : Nat → Nat → Nat → Nat → Nat → Nat → Nat → Bool} (h : wfBlock o k = true) :
    Fits o := by
  simp only [wfBlock, Bool.and_eq_true] at h
  refine fits_ext h.1.1.1 ?_
  have h2 := h.2
  revert h2
  cases o.x <;> simp only [ExtFits, Bool.and_eq_true, Bool.false_eq_true, false_implies]
  rintro ⟨⟨hx, -⟩, -⟩
  exact cvtX_fits hx

end Sys2Proof.Laws.Encoding
end

