-- ==== Sys2Proof/Laws/FirstWord.lean ====
section
/-! SUPPORT. A first word of the lane set that decodes with some extension decodes with one of the plain ones, so `firstBad` refuses no
word that any extension completes. -/

namespace Sys2Proof

/-- A source that the widest swizzle accepts is even in a pair form. -/
theorem evenSrc_zero {p : Bool} {m q n : Nat} (h : evenSrc p m n = true) (hs : wfSwz m q n = true) : even p n = true := by
  by_cases hm : m = 5
  · subst hm
    have : n = 0 := by simp [wfSwz] at hs; omega
    simp [even, this]
  · have : (m != 5) = true := by simpa using hm
    simpa [evenSrc, this] using h

/-- The plain extension of the words that take SRC. -/
abbrev srcZero : LExt := .src 0 0 0 0 0 0 false false false

theorem wfAlu_src {o : LaneOp} {si th im p : Bool} (hx : o.x ≠ .none) (h : wfAlu o si th im p = true) :
    wfAlu { o with x := srcZero } si th im p = true := by
  obtain ⟨d, a, b, g, gn, s, x⟩ := o
  cases x with
  | none => exact absurd rfl hx
  | src c am ap bm bp cm ta tb tc =>
    simp only [wfAlu, wfBase, Bool.and_eq_true] at h ⊢
    refine ⟨h.1, ?_⟩
    have h := h.2
    obtain ⟨⟨⟨⟨h1, h2⟩, h3⟩, h4⟩, h5⟩ := h
    have ha := evenSrc_zero h3 h2
    have hb : (if si then b == 0 else even (s && p) b) = true := by
      cases si with
      | true => simp_all
      | false => simp only [Bool.false_eq_true, if_false, Bool.and_eq_true] at h4 ⊢; exact evenSrc_zero h4.2 h4.1
    cases si <;> cases th <;> simp_all [wfSwz, evenSrc, even]
  | imm v =>
    simp only [wfAlu, wfBase, Bool.and_eq_true] at h ⊢
    refine ⟨h.1, ?_⟩
    have h := h.2
    cases si <;> cases th <;> simp_all [wfSwz, evenSrc, even]
  | mem => simp [wfAlu] at h
  | cvt => simp [wfAlu] at h

theorem wfCmp_src {o : LaneOp} {im : Bool} (hx : o.x ≠ .none) (h : wfCmp o im = true) : wfCmp { o with x := srcZero } im = true := by
  simp only [wfCmp, Bool.and_eq_true] at h ⊢
  exact ⟨h.1, wfAlu_src (o := { o with d := 0 }) hx h.2⟩

theorem wfColl_src {o : LaneOp} (hx : o.x ≠ .none) (h : wfColl o = true) : wfColl { o with x := srcZero } = true := by
  obtain ⟨d, a, b, g, gn, s, x⟩ := o
  cases x with
  | none => exact absurd rfl hx
  | src c am ap bm bp cm ta tb tc =>
    simp only [wfColl, wfBase, Bool.and_eq_true] at h ⊢
    refine ⟨h.1, ?_⟩
    have h := h.2
    obtain ⟨⟨⟨⟨⟨⟨⟨h1, h2⟩, _⟩, _⟩, _⟩, _⟩, _⟩, _⟩ := h
    have ha := evenSrc_zero h2 h1
    simp_all [wfSwz, evenSrc, even]
  | imm => simp [wfColl] at h
  | mem => simp [wfColl] at h
  | cvt => simp [wfColl] at h

theorem wfPlain_none {o : LaneOp} (hx : o.x ≠ .none) : wfPlain o = false := by
  simp [wfPlain, hx]

/-- The plain extensions of memory words by space. -/
abbrev memZero (sp : Nat) : LExt := .mem sp 0 0 0 0 0

theorem mem_plain (o : LaneOp) :
    (wfLd o = true → ∃ sp ∈ [0, 1, 4], wfLd { o with x := memZero sp } = true) ∧
    (wfSt o = true → ∃ sp ∈ [0, 1, 4], wfSt { o with x := memZero sp } = true) ∧
    (wfAtom o = true → ∃ sp ∈ [0, 1, 4], wfAtom { o with x := memZero sp } = true) ∧
    (wfRed o = true → ∃ sp ∈ [0, 1, 4], wfRed { o with x := memZero sp } = true) ∧
    (wfCas o = true → ∃ sp ∈ [0, 1, 4], wfCas { o with x := memZero sp } = true) ∧
    (wfPref o = true → ∃ sp ∈ [0, 1, 4], wfPref { o with x := memZero sp } = true) ∧
    (wfLdtag o = true → ∃ sp ∈ [0, 1, 4], wfLdtag { o with x := memZero sp } = true) := by
  obtain ⟨d, a, b, g, gn, s, x⟩ := o
  cases x with
  | mem sp sc od ao hi di =>
    refine ⟨?_, ?_, ?_, ?_, ?_, ?_, ?_⟩ <;> intro h <;>
      (first
        | refine ⟨if sp = 0 then 0 else if sp = 4 then 4 else 1, by split_ifs <;> decide, ?_⟩) <;>
      simp only [wfLd, wfSt, wfAtom, wfRed, wfCas, wfPref, wfLdtag, wfMem, wfAddr, wfBase, even, Bool.and_eq_true, Bool.or_eq_true, decide_eq_true_eq, beq_iff_eq, Bool.not_eq_true'] at h ⊢ <;>
      cases s <;> split_ifs <;> simp_all
    all_goals omega
  | _ => simp [wfLd, wfSt, wfAtom, wfRed, wfCas, wfPref, wfLdtag]

/-- The plain extensions of conversions. -/
abbrev cvtZero (sf df : Nat) : LExt := .cvt sf df 0 false 0 0 0 0

theorem cvt_plain (o : LaneOp) :
    (wfCvt o = true → wfCvt { o with x := cvtZero 0 0 } = true) ∧
    (wfBamax o = true → wfBamax { o with x := cvtZero 0 0 } = true) ∧
    (wfBscale o = true → wfBscale { o with x := cvtZero 0 8 } = true) ∧
    (wfBquant o = true → wfBquant { o with x := cvtZero 0 8 } = true) ∧
    (wfBpack o = true → wfBpack { o with x := cvtZero 8 8 } = true) ∧
    (wfBdeq o = true → wfBdeq { o with x := cvtZero 8 0 } = true) := by
  obtain ⟨d, a, b, g, gn, s, x⟩ := o
  have r : ∀ n, ranged n 1 = true := by intro n; simp [ranged, Nat.mod_one]
  cases x with
  | cvt sf df rd sa sb bz c ox =>
    refine ⟨?_, ?_, ?_, ?_, ?_, ?_⟩ <;> intro h <;>
      simp_all [wfBase, wfCvt, wfBamax, wfBscale, wfBquant, wfBpack, wfBdeq, wfBlock, wfCvtX, even, cvtFmt, isVal, isMx, valRegs, codeRegs, mxWidth]
  | _ => simp [wfCvt, wfBamax, wfBscale, wfBquant, wfBpack, wfBdeq, wfBlock]

/-- A lane word with an extension that decodes does so with one of the plain extensions. -/
theorem plain_of_decode {op : Nat} {o : LaneOp} {i : Instr} (hx : o.x ≠ .none) (h : decodeLane op o = some i) (hw : i.wellFormed = true) :
    ∃ x ∈ plainExts, ∃ j, decodeLane op { o with x := x } = some j ∧ j.wellFormed = true := by
  have pl := wfPlain_none hx
  have hn : (o.x == .none) = false := by simpa using hx
  obtain ⟨m1, m2, m3, m4, m5, m6, m7⟩ := mem_plain o
  obtain ⟨c1, c2, c3, c4, c5, c6⟩ := cvt_plain o
  have mem3 : ∀ sp ∈ [0, 1, 4], memZero sp ∈ plainExts := by decide
  unfold decodeLane at h
  split at h <;> (try simp only [Option.some.injEq, reduceCtorEq, decodePlop] at h) <;> (try (split at h <;> simp only [Option.some.injEq, reduceCtorEq] at h)) <;>
    (try subst h) <;> simp only [Instr.wellFormed, pl, hn, laneIll, Bool.false_and, Bool.and_false, Bool.false_eq_true, Bool.and_eq_true] at hw
  all_goals first
    | (with_reducible have q := wfAlu_src hx hw); exact ⟨srcZero, by decide, _, rfl, q⟩
    | (with_reducible have q := wfAlu_src hx hw.1); exact ⟨srcZero, by decide, _, rfl, by simp only [Instr.wellFormed, wfShiftImm, wfFieldImm, Bool.and_true]; exact q⟩
    | (with_reducible have q := wfCmp_src hx hw); exact ⟨srcZero, by decide, _, rfl, q⟩
    | (with_reducible have q := wfColl_src hx hw); exact ⟨srcZero, by decide, _, rfl, q⟩
    | (with_reducible have q := wfColl_src hx hw.1); exact ⟨srcZero, by decide, _, rfl, by simp only [Instr.wellFormed, Bool.and_eq_true]; exact ⟨q, hw.2⟩⟩
    | (with_reducible have q := c1 hw); exact ⟨cvtZero 0 0, by decide, _, rfl, q⟩
    | (with_reducible have q := c2 hw); exact ⟨cvtZero 0 0, by decide, _, rfl, q⟩
    | (with_reducible have q := c3 hw); exact ⟨cvtZero 0 8, by decide, _, rfl, q⟩
    | (with_reducible have q := c4 hw); exact ⟨cvtZero 0 8, by decide, _, rfl, q⟩
    | (with_reducible have q := c5 hw); exact ⟨cvtZero 8 8, by decide, _, rfl, q⟩
    | (with_reducible have q := c6 hw); exact ⟨cvtZero 8 0, by decide, _, rfl, q⟩
    | (with_reducible obtain ⟨sp, h1, h2⟩ := m1 hw); exact ⟨memZero sp, mem3 sp h1, _, rfl, h2⟩
    | (with_reducible obtain ⟨sp, h1, h2⟩ := m2 hw); exact ⟨memZero sp, mem3 sp h1, _, rfl, h2⟩
    | (with_reducible obtain ⟨sp, h1, h2⟩ := m3 hw); exact ⟨memZero sp, mem3 sp h1, _, rfl, h2⟩
    | (with_reducible obtain ⟨sp, h1, h2⟩ := m4 hw); exact ⟨memZero sp, mem3 sp h1, _, rfl, h2⟩
    | (with_reducible obtain ⟨sp, h1, h2⟩ := m5 hw); exact ⟨memZero sp, mem3 sp h1, _, rfl, h2⟩
    | (with_reducible obtain ⟨sp, h1, h2⟩ := m6 hw); exact ⟨memZero sp, mem3 sp h1, _, rfl, h2⟩
    | (with_reducible obtain ⟨sp, h1, h2⟩ := m7 hw); exact ⟨memZero sp, mem3 sp h1, _, rfl, h2⟩
    | exact absurd (congrArg LaneOp.x (eq_of_beq hw)) hx

/-- A first word that decodes with some extension is not ILLEGAL by itself. -/
theorem firstBad_of_ok {w e n : Nat} {i : Instr} (h31 : bitAt w 31 = false) (hx : bitAt w 1 = true) (h : decode w e = .ok i n) :
    firstBad w = false := by
  simp only [decode, h31, Bool.false_eq_true, if_false] at h
  split at h
  · cases h
  · rename_i j hj
    split at h
    · rename_i hw
      obtain ⟨x, hm, k, hk, hkw⟩ := plain_of_decode (by simp only [parseLane, hx, if_true, parseExt]; split <;> simp) hj hw
      simp only [firstBad, Bool.not_eq_false', List.any_eq_true]
      refine ⟨x, hm, ?_⟩
      have : ({ parseLane w 0 with x := x } : LaneOp) = { parseLane w e with x := x } := rfl
      rw [this, hk]; exact hkw
    · cases h

end Sys2Proof
end

