-- ==== Sys2Proof/Laws/MemoryWrites.lean ====
section
/-! SUPPORT. Every operation that writes device memory keeps its canonical form: writes at a home, drained lines, stored lines, restored units and
restored images. -/

namespace Sys2Proof.Machine

@[simp] theorem expose_mem (s : State) (who : Option Nat) (a : Nat) : (expose s who a).mem = s.mem := rfl

@[simp] theorem snapshot_mem (s : State) (who : Option Nat) (a : Nat) : (snapshot s who a).mem = s.mem := by
  cases who with
  | none => rfl
  | some l =>
    simp only [snapshot]
    split
    · rfl
    · split <;> rfl

@[simp] theorem snapshot_expose_mem (s : State) (who : Option Nat) (a : Nat) : (snapshot (expose s who a) who a).mem = s.mem := by
  rw [snapshot_mem, expose_mem]

theorem homeWrite_ok {s : State} (who : Option Nat) (a : Nat) (bs : List (Nat × Byte)) (h : s.Ok) : (homeWrite s who a bs).Ok := by
  have hm := snapshot_expose_mem s who a
  unfold homeWrite
  dsimp only
  split
  · exact memPut_wf bs (hm ▸ h)
  · exact hm ▸ h

/-- An atomic at its home keeps the form, whether it stores or not. -/
theorem homeRmw_ok {s : State} (who : Option Nat) (a n : Nat) (f : Nat → Option Nat) (h : s.Ok) : (homeRmw s who a n f).1.Ok := by
  unfold homeRmw
  split
  · exact h
  · dsimp only
    split
    · exact homeWrite_ok who a _ h
    · exact h

theorem homeLine_ok {s : State} (who : Option Nat) (line tag : Nat) (bs : List Byte) (h : s.Ok) : (homeLine s who line tag bs).Ok :=
  memPut_wf _ ((snapshot_expose_mem s who line).symm ▸ h)

theorem setStored_ok {s : State} (line tag : Nat) (stored : List Byte) (h : s.Ok) : (setStored s line tag stored).Ok := by
  unfold setStored
  dsimp only
  split
  · exact h
  · split <;> exact memPut_wf _ h

theorem restoreUnit_ok {s : State} (sn : Snap) (h : s.Ok) : (restoreUnit s sn).Ok := memPut_wf _ (memory_filter_wf _ h)

/-- A list of steps, each of which keeps the form, keeps it. -/
theorem foldl_ok {α : Type} {f : State → α → State} (hf : ∀ s x, s.Ok → (f s x).Ok) (l : List α) {s : State} (h : s.Ok) : (l.foldl f s).Ok := by
  induction l generalizing s with
  | nil => exact h
  | cons x r ih => exact ih (hf s x h)

theorem homeWrites_ok {s : State} (who : Option Nat) (bs : List (Nat × Byte)) (h : s.Ok) : (homeWrites s who bs).Ok :=
  foldl_ok (fun _ line hs => homeWrite_ok who line _ hs) _ h

theorem restoreImage_ok (s : State) (m : AMap Byte) : (restoreImage s m).Ok := by
  refine foldl_ok (fun s t hs => ?_) _ (s := { s with mem := [], tags := [], caches := [] }) (show Memory.wf [] from by decide)
  split
  · exact hs
  · exact setStored_ok _ _ _ hs

end Sys2Proof.Machine
end

