-- ==== Sys2Proof/Laws/PerInstr.lean ====
section
/-! SUPPORT. The family `Encoding`: every well-formed instruction word reads back from its encoding, one lemma per constructor of
`Instr`; an event of the device has no word. -/

namespace Sys2Proof.Laws.Encoding

/-- A well-formed instruction word is read back from its words, whatever word comes after (R33 to R50, R61, R62). -/
def Statement (i : Instr) : Prop := i.wellFormed = true → i.isWord = true → ReadsBack i


theorem ill (o : LaneOp) : Statement (.ill o) := fun h _ => by
  have ho : o = _ := beq_iff_eq.1 (show (o == _) = true from h)
  exact lane_readsBack 0 o (by decide) (by rw [ho]; exact ⟨by decide, by decide, by decide, by decide, trivial⟩) rfl rfl h

theorem iadd (o : LaneOp) : Statement (.iadd o) := fun h _ =>
  lane_readsBack 1 o (by decide) (fits_alu h) rfl rfl h

theorem isub (o : LaneOp) : Statement (.isub o) := fun h _ =>
  lane_readsBack 2 o (by decide) (fits_alu h) rfl rfl h

theorem imul (o : LaneOp) : Statement (.imul o) := fun h _ =>
  lane_readsBack 3 o (by decide) (fits_alu h) rfl rfl h

theorem imulhu (o : LaneOp) : Statement (.imulhu o) := fun h _ =>
  lane_readsBack 4 o (by decide) (fits_alu h) rfl rfl h

theorem imulhs (o : LaneOp) : Statement (.imulhs o) := fun h _ =>
  lane_readsBack 5 o (by decide) (fits_alu h) rfl rfl h

theorem imad (o : LaneOp) : Statement (.imad o) := fun h _ =>
  lane_readsBack 6 o (by decide) (fits_alu h) rfl rfl h

theorem idivu (o : LaneOp) : Statement (.idivu o) := fun h _ =>
  lane_readsBack 7 o (by decide) (fits_alu h) rfl rfl h

theorem idivs (o : LaneOp) : Statement (.idivs o) := fun h _ =>
  lane_readsBack 8 o (by decide) (fits_alu h) rfl rfl h

theorem iremu (o : LaneOp) : Statement (.iremu o) := fun h _ =>
  lane_readsBack 9 o (by decide) (fits_alu h) rfl rfl h

theorem irems (o : LaneOp) : Statement (.irems o) := fun h _ =>
  lane_readsBack 10 o (by decide) (fits_alu h) rfl rfl h

theorem imin (o : LaneOp) : Statement (.imin o) := fun h _ =>
  lane_readsBack 11 o (by decide) (fits_alu h) rfl rfl h

theorem imax (o : LaneOp) : Statement (.imax o) := fun h _ =>
  lane_readsBack 12 o (by decide) (fits_alu h) rfl rfl h

theorem umin (o : LaneOp) : Statement (.umin o) := fun h _ =>
  lane_readsBack 13 o (by decide) (fits_alu h) rfl rfl h

theorem umax (o : LaneOp) : Statement (.umax o) := fun h _ =>
  lane_readsBack 14 o (by decide) (fits_alu h) rfl rfl h

theorem iabs (o : LaneOp) : Statement (.iabs o) := fun h _ =>
  lane_readsBack 15 o (by decide) (fits_alu h) rfl rfl h

theorem ineg (o : LaneOp) : Statement (.ineg o) := fun h _ =>
  lane_readsBack 16 o (by decide) (fits_alu h) rfl rfl h

theorem and (o : LaneOp) : Statement (.and o) := fun h _ =>
  lane_readsBack 17 o (by decide) (fits_alu h) rfl rfl h

theorem or (o : LaneOp) : Statement (.or o) := fun h _ =>
  lane_readsBack 18 o (by decide) (fits_alu h) rfl rfl h

theorem xor (o : LaneOp) : Statement (.xor o) := fun h _ =>
  lane_readsBack 19 o (by decide) (fits_alu h) rfl rfl h

theorem andn (o : LaneOp) : Statement (.andn o) := fun h _ =>
  lane_readsBack 20 o (by decide) (fits_alu h) rfl rfl h

theorem not (o : LaneOp) : Statement (.not o) := fun h _ =>
  lane_readsBack 21 o (by decide) (fits_alu h) rfl rfl h

theorem shl (o : LaneOp) : Statement (.shl o) := fun h _ => by
  have k : (wfAlu o false false true true && wfShiftImm o) = true := h
  simp only [Bool.and_eq_true] at k
  exact lane_readsBack 22 o (by decide) (fits_alu k.1) rfl rfl h

theorem shr (o : LaneOp) : Statement (.shr o) := fun h _ => by
  have k : (wfAlu o false false true true && wfShiftImm o) = true := h
  simp only [Bool.and_eq_true] at k
  exact lane_readsBack 23 o (by decide) (fits_alu k.1) rfl rfl h

theorem sar (o : LaneOp) : Statement (.sar o) := fun h _ => by
  have k : (wfAlu o false false true true && wfShiftImm o) = true := h
  simp only [Bool.and_eq_true] at k
  exact lane_readsBack 24 o (by decide) (fits_alu k.1) rfl rfl h

theorem rotl (o : LaneOp) : Statement (.rotl o) := fun h _ => by
  have k : (wfAlu o false false true true && wfShiftImm o) = true := h
  simp only [Bool.and_eq_true] at k
  exact lane_readsBack 25 o (by decide) (fits_alu k.1) rfl rfl h

theorem popc (o : LaneOp) : Statement (.popc o) := fun h _ =>
  lane_readsBack 26 o (by decide) (fits_alu h) rfl rfl h

theorem clz (o : LaneOp) : Statement (.clz o) := fun h _ =>
  lane_readsBack 27 o (by decide) (fits_alu h) rfl rfl h

theorem brev (o : LaneOp) : Statement (.brev o) := fun h _ =>
  lane_readsBack 28 o (by decide) (fits_alu h) rfl rfl h

theorem bfxu (o : LaneOp) : Statement (.bfxu o) := fun h _ => by
  have k : (wfAlu o false false true true && wfFieldImm o) = true := h
  simp only [Bool.and_eq_true] at k
  exact lane_readsBack 29 o (by decide) (fits_alu k.1) rfl rfl h

theorem bfxs (o : LaneOp) : Statement (.bfxs o) := fun h _ => by
  have k : (wfAlu o false false true true && wfFieldImm o) = true := h
  simp only [Bool.and_eq_true] at k
  exact lane_readsBack 30 o (by decide) (fits_alu k.1) rfl rfl h

theorem bfi (o : LaneOp) : Statement (.bfi o) := fun h _ => by
  have k : (wfAlu o false false true true && wfFieldImm o) = true := h
  simp only [Bool.and_eq_true] at k
  exact lane_readsBack 31 o (by decide) (fits_alu k.1) rfl rfl h

theorem lea1 (o : LaneOp) : Statement (.lea1 o) := fun h _ =>
  lane_readsBack 32 o (by decide) (fits_alu h) rfl rfl h

theorem lea2 (o : LaneOp) : Statement (.lea2 o) := fun h _ =>
  lane_readsBack 33 o (by decide) (fits_alu h) rfl rfl h

theorem lea4 (o : LaneOp) : Statement (.lea4 o) := fun h _ =>
  lane_readsBack 34 o (by decide) (fits_alu h) rfl rfl h

theorem lea8 (o : LaneOp) : Statement (.lea8 o) := fun h _ =>
  lane_readsBack 35 o (by decide) (fits_alu h) rfl rfl h

theorem icmp (o : LaneOp) : Statement (.icmp o) := fun h _ =>
  lane_readsBack 36 o (by decide) (fits_cmp h) rfl rfl h

theorem sel (o : LaneOp) : Statement (.sel o) := fun h _ =>
  lane_readsBack 37 o (by decide) (fits_alu h) rfl rfl h

theorem plopAnd (o : LaneOp) : Statement (.plopAnd o) := fun h _ => by
  have k : (wfPlain o && o.d < 8 && o.b == 0) = true := h
  simp only [Bool.and_eq_true, beq_iff_eq] at k
  exact lane_readsBack 38 o (by decide) (fits_plain k.1.1) rfl (by simp only [decodeLane, decodePlop, k.2]) h

theorem plopOr (o : LaneOp) : Statement (.plopOr o) := fun h _ => by
  have k : (wfPlain o && o.d < 8 && o.b == 1) = true := h
  simp only [Bool.and_eq_true, beq_iff_eq] at k
  exact lane_readsBack 38 o (by decide) (fits_plain k.1.1) rfl (by simp only [decodeLane, decodePlop, k.2]) h

theorem plopXor (o : LaneOp) : Statement (.plopXor o) := fun h _ => by
  have k : (wfPlain o && o.d < 8 && o.b == 2) = true := h
  simp only [Bool.and_eq_true, beq_iff_eq] at k
  exact lane_readsBack 38 o (by decide) (fits_plain k.1.1) rfl (by simp only [decodeLane, decodePlop, k.2]) h

theorem plopNot (o : LaneOp) : Statement (.plopNot o) := fun h _ => by
  have k : (wfPlain o && o.d < 8 && o.b == 3 && o.a < 8) = true := h
  simp only [Bool.and_eq_true, beq_iff_eq] at k
  exact lane_readsBack 38 o (by decide) (fits_plain k.1.1.1) rfl (by simp only [decodeLane, decodePlop, k.1.2]) h

theorem mov (o : LaneOp) : Statement (.mov o) := fun h _ =>
  lane_readsBack 39 o (by decide) (fits_alu h) rfl rfl h

theorem fadd (o : LaneOp) : Statement (.fadd o) := fun h _ =>
  lane_readsBack 48 o (by decide) (fits_alu h) rfl rfl h

theorem fsub (o : LaneOp) : Statement (.fsub o) := fun h _ =>
  lane_readsBack 49 o (by decide) (fits_alu h) rfl rfl h

theorem fmul (o : LaneOp) : Statement (.fmul o) := fun h _ =>
  lane_readsBack 50 o (by decide) (fits_alu h) rfl rfl h

theorem ffma (o : LaneOp) : Statement (.ffma o) := fun h _ =>
  lane_readsBack 51 o (by decide) (fits_alu h) rfl rfl h

theorem fmin (o : LaneOp) : Statement (.fmin o) := fun h _ =>
  lane_readsBack 52 o (by decide) (fits_alu h) rfl rfl h

theorem fmax (o : LaneOp) : Statement (.fmax o) := fun h _ =>
  lane_readsBack 53 o (by decide) (fits_alu h) rfl rfl h

theorem fabs (o : LaneOp) : Statement (.fabs o) := fun h _ =>
  lane_readsBack 54 o (by decide) (fits_alu h) rfl rfl h

theorem fneg (o : LaneOp) : Statement (.fneg o) := fun h _ =>
  lane_readsBack 55 o (by decide) (fits_alu h) rfl rfl h

theorem fcmp (o : LaneOp) : Statement (.fcmp o) := fun h _ =>
  lane_readsBack 56 o (by decide) (fits_cmp h) rfl rfl h

theorem frcp (o : LaneOp) : Statement (.frcp o) := fun h _ =>
  lane_readsBack 57 o (by decide) (fits_alu h) rfl rfl h

theorem frsq (o : LaneOp) : Statement (.frsq o) := fun h _ =>
  lane_readsBack 58 o (by decide) (fits_alu h) rfl rfl h

theorem fsqrt (o : LaneOp) : Statement (.fsqrt o) := fun h _ =>
  lane_readsBack 59 o (by decide) (fits_alu h) rfl rfl h

theorem fex2 (o : LaneOp) : Statement (.fex2 o) := fun h _ =>
  lane_readsBack 60 o (by decide) (fits_alu h) rfl rfl h

theorem flg2 (o : LaneOp) : Statement (.flg2 o) := fun h _ =>
  lane_readsBack 61 o (by decide) (fits_alu h) rfl rfl h

theorem fdiv (o : LaneOp) : Statement (.fdiv o) := fun h _ =>
  lane_readsBack 62 o (by decide) (fits_alu h) rfl rfl h

theorem fclass (o : LaneOp) : Statement (.fclass o) := fun h _ =>
  lane_readsBack 63 o (by decide) (fits_alu h) rfl rfl h

theorem hadd2 (o : LaneOp) : Statement (.hadd2 o) := fun h _ =>
  lane_readsBack 64 o (by decide) (fits_alu h) rfl rfl h

theorem hmul2 (o : LaneOp) : Statement (.hmul2 o) := fun h _ =>
  lane_readsBack 65 o (by decide) (fits_alu h) rfl rfl h

theorem hfma2 (o : LaneOp) : Statement (.hfma2 o) := fun h _ =>
  lane_readsBack 66 o (by decide) (fits_alu h) rfl rfl h

theorem hmin2 (o : LaneOp) : Statement (.hmin2 o) := fun h _ =>
  lane_readsBack 67 o (by decide) (fits_alu h) rfl rfl h

theorem hmax2 (o : LaneOp) : Statement (.hmax2 o) := fun h _ =>
  lane_readsBack 68 o (by decide) (fits_alu h) rfl rfl h

theorem hdot2 (o : LaneOp) : Statement (.hdot2 o) := fun h _ =>
  lane_readsBack 69 o (by decide) (fits_alu h) rfl rfl h

theorem cvt (o : LaneOp) : Statement (.cvt o) := fun h _ =>
  lane_readsBack 72 o (by decide) (fits_cvt h) rfl rfl h

theorem bamax (o : LaneOp) : Statement (.bamax o) := fun h _ =>
  lane_readsBack 80 o (by decide) (fits_block h) rfl rfl h

theorem bscale (o : LaneOp) : Statement (.bscale o) := fun h _ =>
  lane_readsBack 81 o (by decide) (fits_block h) rfl rfl h

theorem bquant (o : LaneOp) : Statement (.bquant o) := fun h _ =>
  lane_readsBack 82 o (by decide) (fits_block h) rfl rfl h

theorem bpack (o : LaneOp) : Statement (.bpack o) := fun h _ =>
  lane_readsBack 83 o (by decide) (fits_block h) rfl rfl h

theorem bunpack (o : LaneOp) : Statement (.bunpack o) := fun h _ =>
  lane_readsBack 84 o (by decide) (fits_block h) rfl rfl h

theorem bdeq (o : LaneOp) : Statement (.bdeq o) := fun h _ =>
  lane_readsBack 85 o (by decide) (fits_block h) rfl rfl h

theorem shfl (o : LaneOp) : Statement (.shfl o) := fun h _ =>
  lane_readsBack 88 o (by decide) (fits_alu h) rfl rfl h

theorem vote (o : LaneOp) : Statement (.vote o) := fun h _ => by
  have k : (wfPlain o && o.d < 8 && o.b < 4) = true := h
  simp only [Bool.and_eq_true] at k
  exact lane_readsBack 89 o (by decide) (fits_plain k.1.1) rfl rfl h

theorem gred (o : LaneOp) : Statement (.gred o) := fun h _ =>
  lane_readsBack 90 o (by decide) (fits_coll h) rfl rfl h

theorem gscan (o : LaneOp) : Statement (.gscan o) := fun h _ =>
  lane_readsBack 91 o (by decide) (fits_coll h) rfl rfl h

theorem gbcast (o : LaneOp) : Statement (.gbcast o) := fun h _ => by
  have k : (wfColl o && o.b % 4 == 0) = true := h
  simp only [Bool.and_eq_true] at k
  exact lane_readsBack 92 o (by decide) (fits_coll k.1) rfl rfl h

theorem push (o : LaneOp) : Statement (.push o) := fun h _ => by
  have k : (wfPlain o && o.b < 8 && (o.d == 0 || 6 ≤ o.b)) = true := h
  simp only [Bool.and_eq_true] at k
  exact lane_readsBack 96 o (by decide) (fits_plain k.1.1) rfl rfl h

theorem pull (o : LaneOp) : Statement (.pull o) := fun h _ => by
  have k : (wfPlain o && o.a == 0 && o.b < 8) = true := h
  simp only [Bool.and_eq_true] at k
  exact lane_readsBack 97 o (by decide) (fits_plain k.1.1) rfl rfl h

theorem ptry (o : LaneOp) : Statement (.ptry o) := fun h _ => by
  have k : (wfPlain o && o.a < 8 && o.b < 8) = true := h
  simp only [Bool.and_eq_true] at k
  exact lane_readsBack 98 o (by decide) (fits_plain k.1.1) rfl rfl h

theorem ld (o : LaneOp) : Statement (.ld o) := fun h _ =>
  lane_readsBack 104 o (by decide) (fits_ld h) rfl rfl h

theorem st (o : LaneOp) : Statement (.st o) := fun h _ =>
  lane_readsBack 105 o (by decide) (fits_st h) rfl rfl h

theorem atom (o : LaneOp) : Statement (.atom o) := fun h _ =>
  lane_readsBack 106 o (by decide) (fits_atom h) rfl rfl h

theorem red (o : LaneOp) : Statement (.red o) := fun h _ =>
  lane_readsBack 107 o (by decide) (fits_red h) rfl rfl h

theorem cas (o : LaneOp) : Statement (.cas o) := fun h _ =>
  lane_readsBack 108 o (by decide) (fits_cas h) rfl rfl h

theorem pref (o : LaneOp) : Statement (.pref o) := fun h _ =>
  lane_readsBack 109 o (by decide) (fits_pref h) rfl rfl h

theorem ldtag (o : LaneOp) : Statement (.ldtag o) := fun h _ =>
  lane_readsBack 110 o (by decide) (fits_ldtag h) rfl rfl h

theorem fewait (o : LaneOp) : Statement (.fewait o) := fun h _ => by
  have k : (wfPlain o && o.d == 0 && o.a + o.b + 1 ≤ 64) = true := h
  simp only [Bool.and_eq_true] at k
  exact lane_readsBack 111 o (by decide) (fits_plain k.1.1) rfl rfl h

theorem cbget (o : LaneOp) : Statement (.cbget o) := fun h _ => by
  have k : (wfBase o && o.x == .none && o.a == 0 && even o.s o.d) = true := h
  simp only [Bool.and_eq_true, beq_iff_eq] at k
  exact lane_readsBack 112 o (by decide) (fits_none k.1.1.1 k.1.1.2) rfl rfl h

theorem cbput (o : LaneOp) : Statement (.cbput o) := fun h _ => by
  have k : (wfBase o && o.x == .none && o.d == 0 && even o.s o.a) = true := h
  simp only [Bool.and_eq_true, beq_iff_eq] at k
  exact lane_readsBack 113 o (by decide) (fits_none k.1.1.1 k.1.1.2) rfl rfl h

theorem cbrel (o : LaneOp) : Statement (.cbrel o) := fun h _ => by
  have k : (wfPlain o && o.d == 0 && o.a == 0) = true := h
  simp only [Bool.and_eq_true] at k
  exact lane_readsBack 114 o (by decide) (fits_plain k.1.1) rfl rfl h

theorem jmpr (o : LaneOp) : Statement (.jmpr o) := fun h _ => by
  have k : (wfPlain o && o.d == 0 && o.b == 0) = true := h
  simp only [Bool.and_eq_true] at k
  exact lane_readsBack 115 o (by decide) (fits_plain k.1.1) rfl rfl h

theorem mmfeed (o : LaneOp) : Statement (.mmfeed o) := fun h _ => by
  have k : (wfPlain o && even true o.a && even true o.d) = true := h
  simp only [Bool.and_eq_true] at k
  exact lane_readsBack 116 o (by decide) (fits_plain k.1.1) rfl rfl h

theorem mmread (o : LaneOp) : Statement (.mmread o) := fun h _ => by
  have k : (wfPlain o && o.b == 0) = true := h
  simp only [Bool.and_eq_true] at k
  exact lane_readsBack 117 o (by decide) (fits_plain k.1) rfl rfl h

theorem bra (o : LaneOp) : Statement (.bra o) := fun h _ =>
  lane_readsBack 120 o (by decide) (fits_plain h) rfl rfl h

theorem call (o : LaneOp) : Statement (.call o) := fun h _ =>
  lane_readsBack 121 o (by decide) (fits_plain h) rfl rfl h

theorem ret (o : LaneOp) : Statement (.ret o) := fun h _ => by
  have k : (wfPlain o && o.d == 0 && o.a == 0 && o.b < 8) = true := h
  simp only [Bool.and_eq_true] at k
  exact lane_readsBack 122 o (by decide) (fits_plain k.1.1.1) rfl rfl h

theorem callr (o : LaneOp) : Statement (.callr o) := fun h _ => by
  have k : (wfPlain o && o.d % 8 == 0 && o.b == 0) = true := h
  simp only [Bool.and_eq_true] at k
  exact lane_readsBack 123 o (by decide) (fits_plain k.1.1) rfl rfl h

theorem join (o : LaneOp) : Statement (.join o) := fun h _ => by
  have k : (wfPlain o && o.d == 0 && o.a == 0 && o.b < 8 && o.g == 7 && !o.gn) = true := h
  simp only [Bool.and_eq_true] at k
  exact lane_readsBack 124 o (by decide) (fits_plain k.1.1.1.1.1) rfl rfl h

theorem exit (o : LaneOp) : Statement (.exit o) := fun h _ => by
  have k : (wfPlain o && o.d == 0 && o.a == 0 && o.b == 0) = true := h
  simp only [Bool.and_eq_true] at k
  exact lane_readsBack 125 o (by decide) (fits_plain k.1.1.1) rfl rfl h

theorem gcall (o : LaneOp) : Statement (.gcall o) := fun h _ =>
  lane_readsBack 126 o (by decide) (fits_plain h) rfl rfl h

theorem bkpt (o : LaneOp) : Statement (.bkpt o) := fun h _ => by
  have k : (wfPlain o && o.d == 0) = true := h
  simp only [Bool.and_eq_true] at k
  exact lane_readsBack 127 o (by decide) (fits_plain k.1) rfl rfl h

theorem kaluAdd (u : UOp) : Statement (.kaluAdd u) := fun h _ => by
  have k : (wfU u && u.f == 0) = true := h
  simp only [Bool.and_eq_true, beq_iff_eq] at k
  refine uniform_readsBack 1 u (by decide) k.1 rfl (show decodeKalu u = _ from ?_) h
  simp only [decodeKalu, k.2]

theorem kaluSub (u : UOp) : Statement (.kaluSub u) := fun h _ => by
  have k : (wfU u && u.f == 1) = true := h
  simp only [Bool.and_eq_true, beq_iff_eq] at k
  refine uniform_readsBack 1 u (by decide) k.1 rfl (show decodeKalu u = _ from ?_) h
  simp only [decodeKalu, k.2]

theorem kaluMul (u : UOp) : Statement (.kaluMul u) := fun h _ => by
  have k : (wfU u && u.f == 2) = true := h
  simp only [Bool.and_eq_true, beq_iff_eq] at k
  refine uniform_readsBack 1 u (by decide) k.1 rfl (show decodeKalu u = _ from ?_) h
  simp only [decodeKalu, k.2]

theorem kaluMulhu (u : UOp) : Statement (.kaluMulhu u) := fun h _ => by
  have k : (wfU u && u.f == 3) = true := h
  simp only [Bool.and_eq_true, beq_iff_eq] at k
  refine uniform_readsBack 1 u (by decide) k.1 rfl (show decodeKalu u = _ from ?_) h
  simp only [decodeKalu, k.2]

theorem kaluMulhs (u : UOp) : Statement (.kaluMulhs u) := fun h _ => by
  have k : (wfU u && u.f == 4) = true := h
  simp only [Bool.and_eq_true, beq_iff_eq] at k
  refine uniform_readsBack 1 u (by decide) k.1 rfl (show decodeKalu u = _ from ?_) h
  simp only [decodeKalu, k.2]

theorem kaluAnd (u : UOp) : Statement (.kaluAnd u) := fun h _ => by
  have k : (wfU u && u.f == 5) = true := h
  simp only [Bool.and_eq_true, beq_iff_eq] at k
  refine uniform_readsBack 1 u (by decide) k.1 rfl (show decodeKalu u = _ from ?_) h
  simp only [decodeKalu, k.2]

theorem kaluOr (u : UOp) : Statement (.kaluOr u) := fun h _ => by
  have k : (wfU u && u.f == 6) = true := h
  simp only [Bool.and_eq_true, beq_iff_eq] at k
  refine uniform_readsBack 1 u (by decide) k.1 rfl (show decodeKalu u = _ from ?_) h
  simp only [decodeKalu, k.2]

theorem kaluXor (u : UOp) : Statement (.kaluXor u) := fun h _ => by
  have k : (wfU u && u.f == 7) = true := h
  simp only [Bool.and_eq_true, beq_iff_eq] at k
  refine uniform_readsBack 1 u (by decide) k.1 rfl (show decodeKalu u = _ from ?_) h
  simp only [decodeKalu, k.2]

theorem kaluShl (u : UOp) : Statement (.kaluShl u) := fun h _ => by
  have k : (wfU u && u.f == 8) = true := h
  simp only [Bool.and_eq_true, beq_iff_eq] at k
  refine uniform_readsBack 1 u (by decide) k.1 rfl (show decodeKalu u = _ from ?_) h
  simp only [decodeKalu, k.2]

theorem kaluShr (u : UOp) : Statement (.kaluShr u) := fun h _ => by
  have k : (wfU u && u.f == 9) = true := h
  simp only [Bool.and_eq_true, beq_iff_eq] at k
  refine uniform_readsBack 1 u (by decide) k.1 rfl (show decodeKalu u = _ from ?_) h
  simp only [decodeKalu, k.2]

theorem kaluSar (u : UOp) : Statement (.kaluSar u) := fun h _ => by
  have k : (wfU u && u.f == 10) = true := h
  simp only [Bool.and_eq_true, beq_iff_eq] at k
  refine uniform_readsBack 1 u (by decide) k.1 rfl (show decodeKalu u = _ from ?_) h
  simp only [decodeKalu, k.2]

theorem kaluMin (u : UOp) : Statement (.kaluMin u) := fun h _ => by
  have k : (wfU u && u.f == 11) = true := h
  simp only [Bool.and_eq_true, beq_iff_eq] at k
  refine uniform_readsBack 1 u (by decide) k.1 rfl (show decodeKalu u = _ from ?_) h
  simp only [decodeKalu, k.2]

theorem kaluMax (u : UOp) : Statement (.kaluMax u) := fun h _ => by
  have k : (wfU u && u.f == 12) = true := h
  simp only [Bool.and_eq_true, beq_iff_eq] at k
  refine uniform_readsBack 1 u (by decide) k.1 rfl (show decodeKalu u = _ from ?_) h
  simp only [decodeKalu, k.2]

theorem kaluMinu (u : UOp) : Statement (.kaluMinu u) := fun h _ => by
  have k : (wfU u && u.f == 13) = true := h
  simp only [Bool.and_eq_true, beq_iff_eq] at k
  refine uniform_readsBack 1 u (by decide) k.1 rfl (show decodeKalu u = _ from ?_) h
  simp only [decodeKalu, k.2]

theorem kaluMaxu (u : UOp) : Statement (.kaluMaxu u) := fun h _ => by
  have k : (wfU u && u.f == 14) = true := h
  simp only [Bool.and_eq_true, beq_iff_eq] at k
  refine uniform_readsBack 1 u (by decide) k.1 rfl (show decodeKalu u = _ from ?_) h
  simp only [decodeKalu, k.2]

theorem kaluSlt (u : UOp) : Statement (.kaluSlt u) := fun h _ => by
  have k : (wfU u && u.f == 15) = true := h
  simp only [Bool.and_eq_true, beq_iff_eq] at k
  refine uniform_readsBack 1 u (by decide) k.1 rfl (show decodeKalu u = _ from ?_) h
  simp only [decodeKalu, k.2]

theorem kaluSltu (u : UOp) : Statement (.kaluSltu u) := fun h _ => by
  have k : (wfU u && u.f == 16) = true := h
  simp only [Bool.and_eq_true, beq_iff_eq] at k
  refine uniform_readsBack 1 u (by decide) k.1 rfl (show decodeKalu u = _ from ?_) h
  simp only [decodeKalu, k.2]

theorem kaluiAddi (u : UOp) : Statement (.kaluiAddi u) := fun h _ => by
  have k : (wfU u && u.b / 4 == 0) = true := h
  simp only [Bool.and_eq_true, beq_iff_eq] at k
  refine uniform_readsBack 2 u (by decide) k.1 rfl (show decodeKalui u = _ from ?_) h
  have e : u.f3 = 0 := by unfold UOp.f3; omega
  simp only [decodeKalui, e]

theorem kaluiAndi (u : UOp) : Statement (.kaluiAndi u) := fun h _ => by
  have k : (wfU u && u.b / 4 == 1) = true := h
  simp only [Bool.and_eq_true, beq_iff_eq] at k
  refine uniform_readsBack 2 u (by decide) k.1 rfl (show decodeKalui u = _ from ?_) h
  have e : u.f3 = 1 := by unfold UOp.f3; omega
  simp only [decodeKalui, e]

theorem kaluiOri (u : UOp) : Statement (.kaluiOri u) := fun h _ => by
  have k : (wfU u && u.b / 4 == 2) = true := h
  simp only [Bool.and_eq_true, beq_iff_eq] at k
  refine uniform_readsBack 2 u (by decide) k.1 rfl (show decodeKalui u = _ from ?_) h
  have e : u.f3 = 2 := by unfold UOp.f3; omega
  simp only [decodeKalui, e]

theorem kaluiXori (u : UOp) : Statement (.kaluiXori u) := fun h _ => by
  have k : (wfU u && u.b / 4 == 3) = true := h
  simp only [Bool.and_eq_true, beq_iff_eq] at k
  refine uniform_readsBack 2 u (by decide) k.1 rfl (show decodeKalui u = _ from ?_) h
  have e : u.f3 = 3 := by unfold UOp.f3; omega
  simp only [decodeKalui, e]

theorem kaluiSlti (u : UOp) : Statement (.kaluiSlti u) := fun h _ => by
  have k : (wfU u && u.b / 4 == 4) = true := h
  simp only [Bool.and_eq_true, beq_iff_eq] at k
  refine uniform_readsBack 2 u (by decide) k.1 rfl (show decodeKalui u = _ from ?_) h
  have e : u.f3 = 4 := by unfold UOp.f3; omega
  simp only [decodeKalui, e]

theorem kaluiSltiu (u : UOp) : Statement (.kaluiSltiu u) := fun h _ => by
  have k : (wfU u && u.b / 4 == 5) = true := h
  simp only [Bool.and_eq_true, beq_iff_eq] at k
  refine uniform_readsBack 2 u (by decide) k.1 rfl (show decodeKalui u = _ from ?_) h
  have e : u.f3 = 5 := by unfold UOp.f3; omega
  simp only [decodeKalui, e]

theorem kaluiShli (u : UOp) : Statement (.kaluiShli u) := fun h _ => by
  have k : (wfU u && u.b == 24 && u.f / 64 == 0) = true := h
  simp only [Bool.and_eq_true, beq_iff_eq] at k
  refine uniform_readsBack 2 u (by decide) k.1.1 rfl (show decodeKalui u = _ from ?_) h
  have e : u.f3 = 6 := by unfold UOp.f3; omega
  simp only [decodeKalui, e]

theorem kaluiShri (u : UOp) : Statement (.kaluiShri u) := fun h _ => by
  have k : (wfU u && u.b == 28 && u.f / 64 == 0) = true := h
  simp only [Bool.and_eq_true, beq_iff_eq] at k
  refine uniform_readsBack 2 u (by decide) k.1.1 rfl (show decodeKalui u = _ from ?_) h
  have e : u.f3 = 7 := by unfold UOp.f3; omega
  have e2 : u.imm12 / 64 % 2 = 0 := by unfold UOp.imm12; omega
  simp [decodeKalui, e, e2]

theorem kaluiSari (u : UOp) : Statement (.kaluiSari u) := fun h _ => by
  have k : (wfU u && u.b == 28 && u.f / 64 == 1) = true := h
  simp only [Bool.and_eq_true, beq_iff_eq] at k
  refine uniform_readsBack 2 u (by decide) k.1.1 rfl (show decodeKalui u = _ from ?_) h
  have e : u.f3 = 7 := by unfold UOp.f3; omega
  have e2 : u.imm12 / 64 % 2 = 1 := by unfold UOp.imm12; omega
  simp [decodeKalui, e, e2]

theorem klui (u : UOp) : Statement (.klui u) := fun h _ => uniform_readsBack 3 u (by decide) h rfl rfl h

theorem kauipc (u : UOp) : Statement (.kauipc u) := fun h _ => uniform_readsBack 4 u (by decide) h rfl rfl h

theorem kld (u : UOp) : Statement (.kld u) := fun h _ => by
  have k : (wfU u && u.b / 4 < 7) = true := h
  simp only [Bool.and_eq_true] at k
  exact uniform_readsBack 5 u (by decide) k.1 rfl rfl h

theorem kst (u : UOp) : Statement (.kst u) := fun h _ => by
  have k : (wfU u && (u.b / 4 == 0 || u.b / 4 == 2 || u.b / 4 == 4 || u.b / 4 == 6)) = true := h
  simp only [Bool.and_eq_true] at k
  exact uniform_readsBack 6 u (by decide) k.1 rfl rfl h

theorem kldc (u : UOp) : Statement (.kldc u) := fun h _ => by
  have k : (wfU u && u.b / 4 < 7) = true := h
  simp only [Bool.and_eq_true] at k
  exact uniform_readsBack 7 u (by decide) k.1 rfl rfl h

theorem kread (u : UOp) : Statement (.kread u) := fun h _ => by
  have k : (wfU u && u.a == 0 && u.b / 4 < 3 && (u.b / 4 != 2 || u.f % 2 == 0)) = true := h
  simp only [Bool.and_eq_true] at k
  exact uniform_readsBack 8 u (by decide) k.1.1.1 rfl rfl h

theorem kballot (u : UOp) : Statement (.kballot u) := fun h _ => by
  have k : (wfU u && u.a == 0 && u.b == 0 && u.f / 8 == 0) = true := h
  simp only [Bool.and_eq_true] at k
  exact uniform_readsBack 9 u (by decide) k.1.1.1 rfl rfl h

theorem bru (u : UOp) : Statement (.bru u) := fun h _ => by
  have k : (wfU u && (u.b / 4 < 6 || u.a == 0)) = true := h
  simp only [Bool.and_eq_true] at k
  exact uniform_readsBack 12 u (by decide) k.1 rfl rfl h

theorem ju (u : UOp) : Statement (.ju u) := fun h _ => uniform_readsBack 13 u (by decide) h rfl rfl h

theorem jur (u : UOp) : Statement (.jur u) := fun h _ => by
  have k : (wfU u && u.d == 0 && u.b == 0 && u.f == 0) = true := h
  simp only [Bool.and_eq_true] at k
  exact uniform_readsBack 14 u (by decide) k.1.1.1 rfl rfl h

theorem loop (u : UOp) : Statement (.loop u) := fun h _ => by
  have k : (wfU u && u.a == 0 && u.b / 4 == 0) = true := h
  simp only [Bool.and_eq_true] at k
  exact uniform_readsBack 15 u (by decide) k.1.1 rfl rfl h

theorem mmconvJoin (u : UOp) : Statement (.mmconvJoin u) := fun h _ => by
  have k : (wfU u && u.b == 0 && u.f / 64 == 0) = true := h
  simp only [Bool.and_eq_true, beq_iff_eq] at k
  refine uniform_readsBack 24 u (by decide) k.1.1 rfl (show decodeMmconv u = _ from ?_) h
  have e : u.f3 = 0 := by unfold UOp.f3; omega
  simp only [decodeMmconv, e]

theorem mmconvLeave (u : UOp) : Statement (.mmconvLeave u) := fun h _ => by
  have k : (wfU u && u.a == 0 && u.b == 4 && u.f == 0) = true := h
  simp only [Bool.and_eq_true, beq_iff_eq] at k
  refine uniform_readsBack 24 u (by decide) k.1.1.1 rfl (show decodeMmconv u = _ from ?_) h
  have e : u.f3 = 1 := by unfold UOp.f3; omega
  simp only [decodeMmconv, e]

theorem mmpost (u : UOp) : Statement (.mmpost u) := fun h _ => by
  have k : (wfU u && u.b == 0 && u.f / 8 == 0) = true := h
  simp only [Bool.and_eq_true] at k
  exact uniform_readsBack 25 u (by decide) k.1.1 rfl rfl h

theorem mmldb (u : UOp) : Statement (.mmldb u) := fun h _ => by
  have k : (wfU u && u.b == 0 && u.f / 8 == 0) = true := h
  simp only [Bool.and_eq_true] at k
  exact uniform_readsBack 26 u (by decide) k.1.1 rfl rfl h

theorem mmwait (u : UOp) : Statement (.mmwait u) := fun h _ => by
  have k : (wfU u && u.b == 0 && u.f == 0) = true := h
  simp only [Bool.and_eq_true, beq_iff_eq] at k
  refine uniform_readsBack 27 u (by decide) k.1.1 rfl (show decodeMmwait u = _ from ?_) h
  have e : u.f3 = 0 := by unfold UOp.f3; omega
  simp only [decodeMmwait, e]

theorem mmwaitTest (u : UOp) : Statement (.mmwaitTest u) := fun h _ => by
  have k : (wfU u && u.b == 4 && u.f == 0) = true := h
  simp only [Bool.and_eq_true, beq_iff_eq] at k
  refine uniform_readsBack 27 u (by decide) k.1.1 rfl (show decodeMmwait u = _ from ?_) h
  have e : u.f3 = 1 := by unfold UOp.f3; omega
  simp only [decodeMmwait, e]

theorem mmdrain (u : UOp) : Statement (.mmdrain u) := fun h _ => by
  have k : (wfU u && u.b == 0 && u.f / 8 == 0) = true := h
  simp only [Bool.and_eq_true] at k
  exact uniform_readsBack 28 u (by decide) k.1.1 rfl rfl h

theorem mmzero (u : UOp) : Statement (.mmzero u) := fun h _ => by
  have k : (wfU u && u.a == 0 && u.b == 0 && u.f / 32 == 0) = true := h
  simp only [Bool.and_eq_true] at k
  exact uniform_readsBack 29 u (by decide) k.1.1.1 rfl rfl h

theorem mchkloc (u : UOp) : Statement (.mchkloc u) := fun h _ => by
  have k : (wfU u && u.b == 0 && u.f / 4 == 0) = true := h
  simp only [Bool.and_eq_true] at k
  exact uniform_readsBack 30 u (by decide) k.1.1 rfl rfl h

theorem mchkfixAuto (u : UOp) : Statement (.mchkfixAuto u) := fun h _ => by
  have k : (wfU u && u.b == 0 && u.f / 8 == 0) = true := h
  simp only [Bool.and_eq_true, beq_iff_eq] at k
  refine uniform_readsBack 31 u (by decide) k.1.1 rfl (show decodeMchkfix u = _ from ?_) h
  unfold decodeMchkfix
  have k2 := k.2
  split <;> rename_i k3 <;> simp only [beq_iff_eq] at k3 <;> first | rfl | omega

theorem mchkfixVal (u : UOp) : Statement (.mchkfixVal u) := fun h _ => by
  have k : (wfU u && u.f / 8 == 1) = true := h
  simp only [Bool.and_eq_true, beq_iff_eq] at k
  refine uniform_readsBack 31 u (by decide) k.1 rfl (show decodeMchkfix u = _ from ?_) h
  unfold decodeMchkfix
  have k2 := k.2
  split <;> rename_i k3 <;> simp only [beq_iff_eq] at k3 <;> first | rfl | omega

theorem mmretry (u : UOp) : Statement (.mmretry u) := fun h _ => by
  have k : (wfU u && u.b == 0 && u.f / 8 == 0) = true := h
  simp only [Bool.and_eq_true] at k
  exact uniform_readsBack 32 u (by decide) k.1.1 rfl rfl h

theorem xpost (u : UOp) : Statement (.xpost u) := fun h _ => by
  have k : (wfU u && u.b == 0 && u.f / 8 == 0) = true := h
  simp only [Bool.and_eq_true] at k
  exact uniform_readsBack 36 u (by decide) k.1.1 rfl rfl h

theorem xgath (u : UOp) : Statement (.xgath u) := fun h _ => by
  have k : (wfU u && u.f / 8 == 0) = true := h
  simp only [Bool.and_eq_true] at k
  exact uniform_readsBack 37 u (by decide) k.1 rfl rfl h

theorem qfence (u : UOp) : Statement (.qfence u) := fun h _ => by
  have k : (wfU u && u.d == 0 && u.a == 0 && u.b == 0 && u.f / 256 == 0 && u.f != 0) = true := h
  simp only [Bool.and_eq_true] at k
  exact uniform_readsBack 38 u (by decide) k.1.1.1.1.1 rfl rfl h

theorem qwait (u : UOp) : Statement (.qwait u) := fun h _ => by
  have k : (wfU u && u.b == 0 && u.f == 0) = true := h
  simp only [Bool.and_eq_true, beq_iff_eq] at k
  refine uniform_readsBack 39 u (by decide) k.1.1 rfl (show decodeQwait u = _ from ?_) h
  have e : u.f3 = 0 := by unfold UOp.f3; omega
  simp only [decodeQwait, e]

theorem qwaitTest (u : UOp) : Statement (.qwaitTest u) := fun h _ => by
  have k : (wfU u && u.b == 4 && u.f == 0) = true := h
  simp only [Bool.and_eq_true, beq_iff_eq] at k
  refine uniform_readsBack 39 u (by decide) k.1.1 rfl (show decodeQwait u = _ from ?_) h
  have e : u.f3 = 1 := by unfold UOp.f3; omega
  simp only [decodeQwait, e]

theorem cpost (u : UOp) : Statement (.cpost u) := fun h _ => by
  have k : (wfU u && u.b == 0 && u.f / 8 == 0) = true := h
  simp only [Bool.and_eq_true] at k
  exact uniform_readsBack 40 u (by decide) k.1.1 rfl rfl h

theorem barSync (u : UOp) : Statement (.barSync u) := fun h _ => by
  have k : (wfU u && u.d == 0 && u.a == 0 && u.b == 0 && u.f / 16 == 0) = true := h
  simp only [Bool.and_eq_true, beq_iff_eq] at k
  refine uniform_readsBack 44 u (by decide) k.1.1.1.1 rfl (show decodeBar u = _ from ?_) h
  have e : u.f3 = 0 := by unfold UOp.f3; omega
  simp only [decodeBar, e]

theorem barArr (u : UOp) : Statement (.barArr u) := fun h _ => by
  have k : (wfU u && u.d == 0 && u.a == 0 && u.b == 4 && u.f / 16 == 0) = true := h
  simp only [Bool.and_eq_true, beq_iff_eq] at k
  refine uniform_readsBack 44 u (by decide) k.1.1.1.1 rfl (show decodeBar u = _ from ?_) h
  have e : u.f3 = 1 := by unfold UOp.f3; omega
  simp only [decodeBar, e]

theorem acq (u : UOp) : Statement (.acq u) := fun h _ => by
  have k : (wfU u && u.d == 0 && u.b % 4 == 0 && u.f == 0) = true := h
  simp only [Bool.and_eq_true] at k
  exact uniform_readsBack 45 u (by decide) k.1.1.1 rfl rfl h

theorem rel (u : UOp) : Statement (.rel u) := fun h _ => by
  have k : (wfU u && u.d == 0 && u.b % 4 == 0 && u.f == 0) = true := h
  simp only [Bool.and_eq_true] at k
  exact uniform_readsBack 46 u (by decide) k.1.1.1 rfl rfl h

theorem bind (u : UOp) : Statement (.bind u) := fun h _ => by
  have k : (wfU u && u.f == 0) = true := h
  simp only [Bool.and_eq_true] at k
  exact uniform_readsBack 47 u (by decide) k.1 rfl rfl h

theorem unbind (u : UOp) : Statement (.unbind u) := fun h _ => by
  have k : (wfU u && u.f == 0) = true := h
  simp only [Bool.and_eq_true] at k
  exact uniform_readsBack 48 u (by decide) k.1 rfl rfl h

theorem fence (u : UOp) : Statement (.fence u) := fun h _ => by
  have k : (wfU u && u.d == 0 && u.a == 0 && u.b % 4 == 0 && u.f / 4 == 0 && u.f % 4 != 0) = true := h
  simp only [Bool.and_eq_true] at k
  exact uniform_readsBack 49 u (by decide) k.1.1.1.1.1 rfl rfl h

theorem spawn (u : UOp) : Statement (.spawn u) := fun h _ => by
  have k : (wfU u && u.b == 0 && u.f == 0) = true := h
  simp only [Bool.and_eq_true] at k
  exact uniform_readsBack 50 u (by decide) k.1.1 rfl rfl h

theorem yield (u : UOp) : Statement (.yield u) := fun h _ => by
  have k : (wfU u && u.d == 0 && u.a == 0 && u.b / 4 == 0) = true := h
  simp only [Bool.and_eq_true, beq_iff_eq] at k
  refine uniform_readsBack 51 u (by decide) k.1.1.1 rfl (show decodeYield u = _ from ?_) h
  have e : u.f3 = 0 := by unfold UOp.f3; omega
  simp only [decodeYield, e]

theorem yieldSwap (u : UOp) : Statement (.yieldSwap u) := fun h _ => by
  have k : (wfU u && u.d == 0 && u.a == 0 && u.b == 4 && u.f == 0) = true := h
  simp only [Bool.and_eq_true, beq_iff_eq] at k
  refine uniform_readsBack 51 u (by decide) k.1.1.1.1 rfl (show decodeYield u = _ from ?_) h
  have e : u.f3 = 1 := by unfold UOp.f3; omega
  simp only [decodeYield, e]

theorem part (u : UOp) : Statement (.part u) := fun h _ => by
  have k : (wfU u && u.d / 8 == 0 && u.a == 0 && u.b == 0 && u.f / 64 == 0 && u.f % 8 < 4) = true := h
  simp only [Bool.and_eq_true] at k
  exact uniform_readsBack 52 u (by decide) k.1.1.1.1.1 rfl rfl h

theorem gangJoin (u : UOp) : Statement (.gangJoin u) := fun h _ => by
  have k : (wfU u && u.a == 0 && u.b == 0 && u.f / 512 == 0) = true := h
  simp only [Bool.and_eq_true, beq_iff_eq] at k
  refine uniform_readsBack 53 u (by decide) k.1.1.1 rfl (show decodeGang u = _ from ?_) h
  have e : u.f3 = 0 := by unfold UOp.f3; omega
  simp only [decodeGang, e]

theorem gangDetach (u : UOp) : Statement (.gangDetach u) := fun h _ => by
  have k : (wfU u && u.a == 0 && u.b == 4 && u.f == 0) = true := h
  simp only [Bool.and_eq_true, beq_iff_eq] at k
  refine uniform_readsBack 53 u (by decide) k.1.1.1 rfl (show decodeGang u = _ from ?_) h
  have e : u.f3 = 1 := by unfold UOp.f3; omega
  simp only [decodeGang, e]

theorem gangSync (u : UOp) : Statement (.gangSync u) := fun h _ => by
  have k : (wfU u && u.d == 0 && u.a == 0 && u.b == 8 && u.f == 0) = true := h
  simp only [Bool.and_eq_true, beq_iff_eq] at k
  refine uniform_readsBack 53 u (by decide) k.1.1.1.1 rfl (show decodeGang u = _ from ?_) h
  have e : u.f3 = 2 := by unfold UOp.f3; omega
  simp only [decodeGang, e]

theorem gangQuery (u : UOp) : Statement (.gangQuery u) := fun h _ => by
  have k : (wfU u && u.a == 0 && u.b == 12 && u.f == 0) = true := h
  simp only [Bool.and_eq_true, beq_iff_eq] at k
  refine uniform_readsBack 53 u (by decide) k.1.1.1 rfl (show decodeGang u = _ from ?_) h
  have e : u.f3 = 3 := by unfold UOp.f3; omega
  simp only [decodeGang, e]

theorem winmapSet (u : UOp) : Statement (.winmapSet u) := fun h _ => by
  have k : (wfU u && u.f == 0) = true := h
  simp only [Bool.and_eq_true, beq_iff_eq] at k
  refine uniform_readsBack 54 u (by decide) k.1 rfl (show decodeWinmap u = _ from ?_) h
  simp only [decodeWinmap, k.2]

theorem winmapAddr (u : UOp) : Statement (.winmapAddr u) := fun h _ => by
  have k : (wfU u && u.f == 1) = true := h
  simp only [Bool.and_eq_true, beq_iff_eq] at k
  refine uniform_readsBack 54 u (by decide) k.1 rfl (show decodeWinmap u = _ from ?_) h
  simp only [decodeWinmap, k.2]

theorem seed (u : UOp) : Statement (.seed u) := fun h _ => by
  have k : (wfU u && u.d == 0 && u.a == 0 && u.b == 0 && u.f / 4 == 0) = true := h
  simp only [Bool.and_eq_true] at k
  exact uniform_readsBack 55 u (by decide) k.1.1.1.1 rfl rfl h

theorem csrr (u : UOp) : Statement (.csrr u) := fun h _ => by
  have k : (wfU u && u.a == 0 && u.b / 4 == 0) = true := h
  simp only [Bool.and_eq_true] at k
  exact uniform_readsBack 56 u (by decide) k.1.1 rfl rfl h

theorem csrw (u : UOp) : Statement (.csrw u) := fun h _ => by
  have k : (wfU u && u.d == 0 && u.b / 4 == 0) = true := h
  simp only [Bool.and_eq_true, beq_iff_eq] at k
  refine uniform_readsBack 57 u (by decide) k.1.1 rfl (show decodeCsrw u = _ from ?_) h
  have e : u.f3 = 0 := by unfold UOp.f3; omega
  simp only [decodeCsrw, e]

theorem csrwSet (u : UOp) : Statement (.csrwSet u) := fun h _ => by
  have k : (wfU u && u.d == 0 && u.b / 4 == 1) = true := h
  simp only [Bool.and_eq_true, beq_iff_eq] at k
  refine uniform_readsBack 57 u (by decide) k.1.1 rfl (show decodeCsrw u = _ from ?_) h
  have e : u.f3 = 1 := by unfold UOp.f3; omega
  simp only [decodeCsrw, e]

theorem csrwClr (u : UOp) : Statement (.csrwClr u) := fun h _ => by
  have k : (wfU u && u.d == 0 && u.b / 4 == 2) = true := h
  simp only [Bool.and_eq_true, beq_iff_eq] at k
  refine uniform_readsBack 57 u (by decide) k.1.1 rfl (show decodeCsrw u = _ from ?_) h
  have e : u.f3 = 2 := by unfold UOp.f3; omega
  simp only [decodeCsrw, e]

theorem capset (u : UOp) : Statement (.capset u) := fun h _ => by
  have k : (wfU u && u.b == 0 && u.f / 64 == 0) = true := h
  simp only [Bool.and_eq_true] at k
  exact uniform_readsBack 58 u (by decide) k.1.1 rfl rfl h

theorem trap (u : UOp) : Statement (.trap u) := fun h _ => by
  have k : (wfU u && u.d == 0 && u.a == 0 && u.b / 4 == 0) = true := h
  simp only [Bool.and_eq_true] at k
  exact uniform_readsBack 59 u (by decide) k.1.1.1 rfl rfl h

theorem rteReplay (u : UOp) : Statement (.rteReplay u) := fun h _ => by
  have k : (wfU u && u.a == 0 && u.b == 0 && u.f == 0) = true := h
  simp only [Bool.and_eq_true, beq_iff_eq] at k
  refine uniform_readsBack 60 u (by decide) k.1.1.1 rfl (show decodeRte u = _ from ?_) h
  have e : u.f3 = 0 := by unfold UOp.f3; omega
  simp only [decodeRte, e]

theorem rteSkip (u : UOp) : Statement (.rteSkip u) := fun h _ => by
  have k : (wfU u && u.a == 0 && u.b == 4 && u.f == 0) = true := h
  simp only [Bool.and_eq_true, beq_iff_eq] at k
  refine uniform_readsBack 60 u (by decide) k.1.1.1 rfl (show decodeRte u = _ from ?_) h
  have e : u.f3 = 1 := by unfold UOp.f3; omega
  simp only [decodeRte, e]

theorem rteKill (u : UOp) : Statement (.rteKill u) := fun h _ => by
  have k : (wfU u && u.a == 0 && u.b == 8 && u.f == 0) = true := h
  simp only [Bool.and_eq_true, beq_iff_eq] at k
  refine uniform_readsBack 60 u (by decide) k.1.1.1 rfl (show decodeRte u = _ from ?_) h
  have e : u.f3 = 2 := by unfold UOp.f3; omega
  simp only [decodeRte, e]

theorem rteEnd (u : UOp) : Statement (.rteEnd u) := fun h _ => by
  have k : (wfU u && u.a == 0 && u.b == 12 && u.f == 0) = true := h
  simp only [Bool.and_eq_true, beq_iff_eq] at k
  refine uniform_readsBack 60 u (by decide) k.1.1.1 rfl (show decodeRte u = _ from ?_) h
  have e : u.f3 = 3 := by unfold UOp.f3; omega
  simp only [decodeRte, e]

theorem scantStart (u : UOp) : Statement (.scantStart u) := fun h _ => by
  have k : (wfU u && u.b == 0 && u.f == 0) = true := h
  simp only [Bool.and_eq_true, beq_iff_eq] at k
  refine uniform_readsBack 61 u (by decide) k.1.1 rfl (show decodeScant u = _ from ?_) h
  simp only [decodeScant, k.2]

theorem scantChunk (u : UOp) : Statement (.scantChunk u) := fun h _ => by
  have k : (wfU u && u.b == 0 && u.f == 1) = true := h
  simp only [Bool.and_eq_true, beq_iff_eq] at k
  refine uniform_readsBack 61 u (by decide) k.1.1 rfl (show decodeScant u = _ from ?_) h
  simp only [decodeScant, k.2]

theorem scantCheck (u : UOp) : Statement (.scantCheck u) := fun h _ => by
  have k : (wfU u && u.b == 0 && u.f == 2) = true := h
  simp only [Bool.and_eq_true, beq_iff_eq] at k
  refine uniform_readsBack 61 u (by decide) k.1.1 rfl (show decodeScant u = _ from ?_) h
  simp only [decodeScant, k.2]

theorem scantEnd (u : UOp) : Statement (.scantEnd u) := fun h _ => by
  have k : (wfU u && u.b == 0 && u.f == 3) = true := h
  simp only [Bool.and_eq_true, beq_iff_eq] at k
  refine uniform_readsBack 61 u (by decide) k.1.1 rfl (show decodeScant u = _ from ?_) h
  simp only [decodeScant, k.2]

theorem cancel (u : UOp) : Statement (.cancel u) := fun h _ => by
  have k : (wfU u && u.b == 0 && u.f == 0) = true := h
  simp only [Bool.and_eq_true] at k
  exact uniform_readsBack 62 u (by decide) k.1.1 rfl rfl h

theorem resultLands x0 : Statement (.resultLands x0) := fun _ h => Bool.noConfusion h

theorem waitDeadlockRelease x0 : Statement (.waitDeadlockRelease x0) := fun _ h => Bool.noConfusion h

theorem yieldExpiry x0 : Statement (.yieldExpiry x0) := fun _ h => Bool.noConfusion h

theorem homeAccess x0 : Statement (.homeAccess x0) := fun _ h => Bool.noConfusion h

theorem reductionFlush x0 x1 : Statement (.reductionFlush x0 x1) := fun _ h => Bool.noConfusion h

theorem reductionEntryAgeExpiry x0 x1 : Statement (.reductionEntryAgeExpiry x0 x1) := fun _ h => Bool.noConfusion h

theorem wcbDrain x0 x1 : Statement (.wcbDrain x0 x1) := fun _ h => Bool.noConfusion h

theorem wcbEntryAgeExpiry x0 x1 : Statement (.wcbEntryAgeExpiry x0 x1) := fun _ h => Bool.noConfusion h

theorem pageWalk x0 x1 x2 x3 : Statement (.pageWalk x0 x1 x2 x3) := fun _ h => Bool.noConfusion h

theorem pageRequestResponse x0 x1 x2 : Statement (.pageRequestResponse x0 x1 x2) := fun _ h => Bool.noConfusion h

theorem atsInvalidation x0 x1 x2 : Statement (.atsInvalidation x0 x1 x2) := fun _ h => Bool.noConfusion h

theorem tlbInvalidation x0 x1 x2 : Statement (.tlbInvalidation x0 x1 x2) := fun _ h => Bool.noConfusion h

theorem launchEntryAccept x0 x1 : Statement (.launchEntryAccept x0 x1) := fun _ h => Bool.noConfusion h

theorem teamDispatch x0 : Statement (.teamDispatch x0) := fun _ h => Bool.noConfusion h

theorem teamPlacement x0 x1 : Statement (.teamPlacement x0 x1) := fun _ h => Bool.noConfusion h

theorem loggiaLoad x0 x1 x2 : Statement (.loggiaLoad x0 x1 x2) := fun _ h => Bool.noConfusion h

theorem sliceExpiry x0 : Statement (.sliceExpiry x0) := fun _ h => Bool.noConfusion h

theorem teamSwap x0 x1 : Statement (.teamSwap x0 x1) := fun _ h => Bool.noConfusion h

theorem faultWaitSwap x0 : Statement (.faultWaitSwap x0) := fun _ h => Bool.noConfusion h

theorem imageSaveDone x0 : Statement (.imageSaveDone x0) := fun _ h => Bool.noConfusion h

theorem teamRestore x0 x1 : Statement (.teamRestore x0 x1) := fun _ h => Bool.noConfusion h

theorem supervisorEntry x0 : Statement (.supervisorEntry x0) := fun _ h => Bool.noConfusion h

theorem cancelDelivery x0 : Statement (.cancelDelivery x0) := fun _ h => Bool.noConfusion h

theorem launchCounterComplete x0 : Statement (.launchCounterComplete x0) := fun _ h => Bool.noConfusion h

theorem matrixAccept x0 x1 : Statement (.matrixAccept x0 x1) := fun _ h => Bool.noConfusion h

theorem reservationAging x0 x1 : Statement (.reservationAging x0 x1) := fun _ h => Bool.noConfusion h

theorem reservationGrant x0 x1 : Statement (.reservationGrant x0 x1) := fun _ h => Bool.noConfusion h

theorem tokenTake x0 : Statement (.tokenTake x0) := fun _ h => Bool.noConfusion h

theorem burstStart x0 : Statement (.burstStart x0) := fun _ h => Bool.noConfusion h

theorem burstEnd x0 : Statement (.burstEnd x0) := fun _ h => Bool.noConfusion h

theorem feedFetchLands x0 x1 : Statement (.feedFetchLands x0 x1) := fun _ h => Bool.noConfusion h

theorem rowGroupStream x0 : Statement (.rowGroupStream x0) := fun _ h => Bool.noConfusion h

theorem passComplete x0 : Statement (.passComplete x0) := fun _ h => Bool.noConfusion h

theorem bLoadComplete x0 : Statement (.bLoadComplete x0) := fun _ h => Bool.noConfusion h

theorem tileZeroComplete x0 : Statement (.tileZeroComplete x0) := fun _ h => Bool.noConfusion h

theorem retryRestoreComplete x0 : Statement (.retryRestoreComplete x0) := fun _ h => Bool.noConfusion h

theorem elementFixComplete x0 : Statement (.elementFixComplete x0) := fun _ h => Bool.noConfusion h

theorem drainCheckEnd x0 : Statement (.drainCheckEnd x0) := fun _ h => Bool.noConfusion h

theorem drainCommit x0 : Statement (.drainCommit x0) := fun _ h => Bool.noConfusion h

theorem engineAccept x0 : Statement (.engineAccept x0) := fun _ h => Bool.noConfusion h

theorem transferComplete x0 : Statement (.transferComplete x0) := fun _ h => Bool.noConfusion h

theorem collectiveComplete x0 : Statement (.collectiveComplete x0) := fun _ h => Bool.noConfusion h

theorem collectivePacketArrival x0 x1 x2 x3 x4 x5 x6 : Statement (.collectivePacketArrival x0 x1 x2 x3 x4 x5 x6) := fun _ h => Bool.noConfusion h

theorem fabricRequestArrival x0 x1 x2 x3 x4 x5 x6 x7 x8 x9 x10 : Statement (.fabricRequestArrival x0 x1 x2 x3 x4 x5 x6 x7 x8 x9 x10) := fun _ h => Bool.noConfusion h

theorem fabricResponseArrival x0 x1 x2 x3 : Statement (.fabricResponseArrival x0 x1 x2 x3) := fun _ h => Bool.noConfusion h

theorem transactionTimeout x0 x1 : Statement (.transactionTimeout x0 x1) := fun _ h => Bool.noConfusion h

theorem relayForward x0 x1 x2 : Statement (.relayForward x0 x1 x2) := fun _ h => Bool.noConfusion h

theorem multicastDelivery x0 x1 x2 x3 x4 x5 : Statement (.multicastDelivery x0 x1 x2 x3 x4 x5) := fun _ h => Bool.noConfusion h

theorem linkStateChange x0 x1 : Statement (.linkStateChange x0 x1) := fun _ h => Bool.noConfusion h

theorem accept x0 x1 x2 x3 x4 x5 : Statement (.accept x0 x1 x2 x3 x4 x5) := fun _ h => Bool.noConfusion h

theorem ready x0 x1 x2 : Statement (.ready x0 x1 x2) := fun _ h => Bool.noConfusion h

theorem go x0 x1 : Statement (.go x0 x1) := fun _ h => Bool.noConfusion h

theorem release x0 x1 : Statement (.release x0 x1) := fun _ h => Bool.noConfusion h

theorem gangSwapRequest x0 x1 : Statement (.gangSwapRequest x0 x1) := fun _ h => Bool.noConfusion h

theorem gangCancelMessage x0 : Statement (.gangCancelMessage x0) := fun _ h => Bool.noConfusion h

theorem memberDepartedReport x0 x1 : Statement (.memberDepartedReport x0 x1) := fun _ h => Bool.noConfusion h

theorem hostMemAccess x0 x1 x2 x3 : Statement (.hostMemAccess x0 x1 x2 x3) := fun _ h => Bool.noConfusion h

theorem backInvalidateResponse x0 x1 : Statement (.backInvalidateResponse x0 x1) := fun _ h => Bool.noConfusion h

theorem hostSnoop x0 : Statement (.hostSnoop x0) := fun _ h => Bool.noConfusion h

theorem gcallReply x0 x1 : Statement (.gcallReply x0 x1) := fun _ h => Bool.noConfusion h

theorem queueProducerWrite x0 x1 x2 : Statement (.queueProducerWrite x0 x1 x2) := fun _ h => Bool.noConfusion h

theorem queueEnable x0 x1 : Statement (.queueEnable x0 x1) := fun _ h => Bool.noConfusion h

theorem cancelRegisterWrite x0 x1 : Statement (.cancelRegisterWrite x0 x1) := fun _ h => Bool.noConfusion h

theorem contextDescriptorWrite x0 x1 : Statement (.contextDescriptorWrite x0 x1) := fun _ h => Bool.noConfusion h

theorem teardown x0 : Statement (.teardown x0) := fun _ h => Bool.noConfusion h

theorem checkpointDeviceToHost x0 : Statement (.checkpointDeviceToHost x0) := fun _ h => Bool.noConfusion h

theorem checkpointHostToDevice x0 x1 x2 : Statement (.checkpointHostToDevice x0 x1 x2) := fun _ h => Bool.noConfusion h

theorem checkpointTransferDone : Statement .checkpointTransferDone := fun _ h => Bool.noConfusion h

theorem bankmodeWrite x0 x1 : Statement (.bankmodeWrite x0 x1) := fun _ h => Bool.noConfusion h

theorem bankModeChange x0 x1 : Statement (.bankModeChange x0 x1) := fun _ h => Bool.noConfusion h

theorem loggiaEvict x0 : Statement (.loggiaEvict x0) := fun _ h => Bool.noConfusion h

theorem preemptreqWrite x0 : Statement (.preemptreqWrite x0) := fun _ h => Bool.noConfusion h

theorem trapgrpWrite x0 x1 : Statement (.trapgrpWrite x0 x1) := fun _ h => Bool.noConfusion h

theorem regvalWrite x0 x1 : Statement (.regvalWrite x0 x1) := fun _ h => Bool.noConfusion h

theorem registerWrite x0 x1 : Statement (.registerWrite x0 x1) := fun _ h => Bool.noConfusion h

theorem mailboxRemoveCore x0 x1 : Statement (.mailboxRemoveCore x0 x1) := fun _ h => Bool.noConfusion h

theorem mailboxUndefinedRequest x0 x1 : Statement (.mailboxUndefinedRequest x0 x1) := fun _ h => Bool.noConfusion h

theorem coreRemoval x0 : Statement (.coreRemoval x0) := fun _ h => Bool.noConfusion h

theorem scanChunkComplete x0 : Statement (.scanChunkComplete x0) := fun _ h => Bool.noConfusion h

theorem scanChunkAbort x0 : Statement (.scanChunkAbort x0) := fun _ h => Bool.noConfusion h

theorem rollback x0 : Statement (.rollback x0) := fun _ h => Bool.noConfusion h

theorem rollbackRestore x0 : Statement (.rollbackRestore x0) := fun _ h => Bool.noConfusion h

theorem hbmUncorrectableError x0 x1 x2 : Statement (.hbmUncorrectableError x0 x1 x2) := fun _ h => Bool.noConfusion h

theorem sramUncorrectableError x0 : Statement (.sramUncorrectableError x0) := fun _ h => Bool.noConfusion h

theorem warmReset : Statement .warmReset := fun _ h => Bool.noConfusion h

theorem powerOn x0 : Statement (.powerOn x0) := fun _ h => Bool.noConfusion h

theorem thermalThrottle x0 : Statement (.thermalThrottle x0) := fun _ h => Bool.noConfusion h

theorem thermalRecovery x0 : Statement (.thermalRecovery x0) := fun _ h => Bool.noConfusion h

theorem thermalShutdown x0 : Statement (.thermalShutdown x0) := fun _ h => Bool.noConfusion h

theorem getState : Statement .getState := fun _ h => Bool.noConfusion h

theorem getFailrec : Statement .getFailrec := fun _ h => Bool.noConfusion h

theorem getCoremap : Statement .getCoremap := fun _ h => Bool.noConfusion h

theorem getLog : Statement .getLog := fun _ h => Bool.noConfusion h

theorem stageImage x0 : Statement (.stageImage x0) := fun _ h => Bool.noConfusion h

theorem stageMicrocode x0 : Statement (.stageMicrocode x0) := fun _ h => Bool.noConfusion h

theorem microcodeSwitch x0 : Statement (.microcodeSwitch x0) := fun _ h => Bool.noConfusion h

theorem recal x0 x1 : Statement (.recal x0 x1) := fun _ h => Bool.noConfusion h

theorem recalComplete : Statement .recalComplete := fun _ h => Bool.noConfusion h

theorem setTokens x0 x1 x2 : Statement (.setTokens x0 x1 x2) := fun _ h => Bool.noConfusion h

theorem routeTableLoad x0 x1 : Statement (.routeTableLoad x0 x1) := fun _ h => Bool.noConfusion h

theorem multicastEntryLoad x0 x1 : Statement (.multicastEntryLoad x0 x1) := fun _ h => Bool.noConfusion h

theorem treeEntryLoad x0 x1 : Statement (.treeEntryLoad x0 x1) := fun _ h => Bool.noConfusion h

theorem inboundWindowLoad x0 x1 x2 : Statement (.inboundWindowLoad x0 x1 x2) := fun _ h => Bool.noConfusion h

theorem getVersion : Statement .getVersion := fun _ h => Bool.noConfusion h

theorem getCapabilities : Statement .getCapabilities := fun _ h => Bool.noConfusion h

theorem negotiateAlgorithms x0 x1 : Statement (.negotiateAlgorithms x0 x1) := fun _ h => Bool.noConfusion h

theorem getDigests : Statement .getDigests := fun _ h => Bool.noConfusion h

theorem getCertificate x0 : Statement (.getCertificate x0) := fun _ h => Bool.noConfusion h

theorem challenge x0 x1 : Statement (.challenge x0 x1) := fun _ h => Bool.noConfusion h

theorem getMeasurements x0 x1 : Statement (.getMeasurements x0 x1) := fun _ h => Bool.noConfusion h

theorem spdmUnsupportedRequest x0 : Statement (.spdmUnsupportedRequest x0) := fun _ h => Bool.noConfusion h

theorem illegalEncoding x0 : Statement (.illegalEncoding x0) := fun _ h => Bool.noConfusion h

theorem cxlDataResponse x0 x1 x2 : Statement (.cxlDataResponse x0 x1 x2) := fun _ h => Bool.noConfusion h

theorem gangSwapReply x0 x1 x2 : Statement (.gangSwapReply x0 x1 x2) := fun _ h => Bool.noConfusion h


end Sys2Proof.Laws.Encoding
end

