-- ==== Sys2Proof/Tests/Slice0.lean ====
section
/-! SUPPORT. Tests of the decoder, of the well-formedness checks and of single steps. The words of the decode tests are the manual's
worked encodings, or are put together by hand from its field tables; results are worked out by hand from its rules. -/

namespace Sys2Proof.Tests

open Sys2Proof Sys2Proof.Machine

/-- A lane word's fields without an extension, guard `p7`. -/
def ln (d a b : Nat) (g : Nat := 7) (s : Bool := false) : LaneOp := { d := d, a := a, b := b, g := g, gn := false, s := s, x := .none }

/-- The same with an extension. -/
def lx (d a b : Nat) (x : LExt) (g : Nat := 7) (s : Bool := false) : LaneOp := { ln d a b g s with x := x }

/-- Fields of a uniform word. -/
def un (d a b f : Nat) : UOp := { d := d, a := a, b := b, f := f }

/-! ## Words of the manual decode to their instructions -/

-- worked encodings under R46, R53, R129
theorem test_decode_ffma : decode 0x333051BA 0x1421A001 = .ok (.ffma (lx 12 5 6 (.src 20 1 3 2 0 0 false false true))) 8 := by decide
theorem test_decode_iadd : decode 0x010C203A 0x7FFFFFFB = .ok (.iadd (lx 3 2 0 (.imm (2 ^ 30 - 5)))) 8 := by decide
theorem test_decode_iadd_b : decode 0x010C21BA 0x7FFFFFFB = .bad .field := by decide
theorem test_decode_icmp : decode 0x2448303A 0x4000000A = .ok (.icmp (lx 18 3 0 (.imm 10))) 8 := by decide
-- hand-written from R36, R131 and R138: `plop.not p1, p2` has b = 3; `hadd2.bf v1, v2, v3` has s = 1
theorem test_decode_plop : decode 0x260420F8 0 = .ok (.plopNot (ln 1 2 3)) 4 := by decide
theorem test_decode_hadd2 : decode 0x400420F9 0 = .ok (.hadd2 (ln 1 2 3 7 true)) 4 := by decide
-- worked encodings under R142, R370, R372, R380, R384
theorem test_decode_cvt : decode 0x4810603A 0xC0F44000 = .ok (.cvt (lx 4 6 0 (.cvt 0 3 6 true 0 1 0 0))) 8 := by decide
theorem test_decode_vote : decode 0x59081078 0 = .ok (.vote (ln 2 1 1)) 4 := by decide
theorem test_decode_gred : decode 0x5A1062B8 0 = .ok (.gred (ln 4 6 10)) 4 := by decide
theorem test_decode_ports : decode 0x60005038 0 = .ok (.push (ln 0 5 0)) 4 ∧ decode 0x61180078 0 = .ok (.pull (ln 6 0 1)) 4 ∧
    decode 0x621820F8 0 = .ok (.ptry (ln 6 2 3)) 4 := by decide
-- worked encodings under R269, R275, R273 and in the programs of files 12 and 21
theorem test_decode_memory : decode 0x6810A13A 0x84400010 = .ok (.ld (lx 4 10 4 (.mem 0 4 1 0 0 16))) 8 ∧
    decode 0x691101BA 0x80000000 = .ok (.st (lx 4 16 6 (.mem 0 0 0 0 0 0))) 8 ∧
    decode 0x6C10A1BA 0x84C00000 = .ok (.cas (lx 4 10 6 (.mem 0 4 3 0 0 0))) 8 ∧
    decode 0x6A10A1BA 0x86C00000 = .ok (.atom (lx 4 10 6 (.mem 0 6 3 0 0 0))) 8 ∧
    decode 0x6E190012 0x80000000 = .ok (.ldtag (lx 6 16 0 (.mem 0 0 0 0 0 0) 2)) 8 := by decide
theorem test_decode_atom_scr : decode 0x6A94292A 0x88000000 = .ok (.atom (lx 37 2 36 (.mem 1 0 0 0 0 0) 5)) 8 := by decide
-- hand-written from R48 and R280: `fewait v8, #4` names 4 registers by b = 3; `cbput ch1, v4`
theorem test_decode_fewait : decode 0x6F0080F8 0 = .ok (.fewait (ln 0 8 3)) 4 ∧ decode 0x71004078 0 = .ok (.cbput (ln 0 4 1)) 4 := by decide
-- worked encodings of files 07, 13, 16, 20, 21
theorem test_decode_control : decode 0x78FFFF48 0 = .ok (.bra (ln 63 63 61 1)) 4 ∧ decode 0x7F002978 0 = .ok (.bkpt (ln 0 2 37)) 4 ∧
    decode 0x7E1850D0 0 = .ok (.gcall (ln 6 5 3 2)) 4 ∧ decode 0x7430A3B8 0 = .ok (.mmfeed (ln 12 10 14)) 4 := by decide
theorem test_decode_bru : decode 0x98322FFA 0 = .ok (.bru (un 3 4 11 1018)) 4 := by decide
theorem test_decode_loop : decode 0x9E300FFC 0 = .ok (.loop (un 3 0 3 1020)) 4 := by decide
theorem test_decode_kalu : decode 0x87012346 0 = .ok (.klui (un 16 2 8 838)) 4 ∧ decode 0x85080FF0 0 = .ok (.kaluiAddi (un 16 16 3 1008)) 4 := by
  decide
theorem test_decode_kst : decode 0x8C604194 0 = .ok (.kst (un 6 0 16 404)) 4 ∧ decode 0x8D62E010 0 = .ok (.kst (un 22 5 24 16)) 4 := by decide
theorem test_decode_matrix : decode 0xB0810009 0 = .ok (.mmconvJoin (un 8 2 0 9)) 4 ∧ decode 0xBAA00009 0 = .ok (.mmzero (un 10 0 0 9)) 4 ∧
    decode 0xB2B20001 0 = .ok (.mmpost (un 11 4 0 1)) 4 ∧ decode 0xB6C58000 0 = .ok (.mmwait (un 12 11 0 0)) 4 ∧
    decode 0xB1401000 0 = .ok (.mmconvLeave (un 20 0 4 0)) 4 ∧ decode 0xB8F10001 0 = .ok (.mmdrain (un 15 2 0 1)) 4 := by decide
theorem test_decode_engines : decode 0xC8920002 0 = .ok (.xpost (un 9 4 0 2)) 4 ∧ decode 0xCEC58000 0 = .ok (.qwait (un 12 11 0 0)) 4 ∧
    decode 0xD1518002 0 = .ok (.cpost (un 21 3 0 2)) 4 ∧ decode 0xE2007003 0 = .ok (.fence (un 0 0 28 3)) 4 := by decide
theorem test_decode_teams : decode 0xD8000000 0 = .ok (.barSync (un 0 0 0 0)) 4 ∧ decode 0xE4920000 0 = .ok (.spawn (un 9 4 0 0)) 4 ∧
    decode 0xEA800004 0 = .ok (.gangJoin (un 8 0 0 4)) 4 ∧ decode 0xEA002000 0 = .ok (.gangSync (un 0 0 8 0)) 4 ∧
    decode 0xEB401000 0 = .ok (.gangDetach (un 20 0 4 0)) 4 := by decide
theorem test_decode_system : decode 0xF0300410 0 = .ok (.csrr (un 3 0 1 16)) 4 ∧ decode 0xF2020410 0 = .ok (.csrw (un 0 4 1 16)) 4 ∧
    decode 0xF492000C 0 = .ok (.capset (un 9 4 0 12)) 4 ∧ decode 0xF6000123 0 = .ok (.trap (un 0 0 0 291)) 4 ∧
    decode 0xF8801000 0 = .ok (.rteSkip (un 8 0 4 0)) 4 ∧ decode 0xF8E03000 0 = .ok (.rteEnd (un 14 0 12 0)) 4 ∧
    decode 0xEE000000 0 = .ok (.seed (un 0 0 0 0)) 4 ∧ decode 0xFC530000 0 = .ok (.cancel (un 5 6 0 0)) 4 ∧
    decode 0xFAB50001 0 = .ok (.scantChunk (un 11 10 0 1)) 4 := by decide
-- R35: both all-zero words, and reserved opcodes, are no instruction or ILLEGAL
theorem test_decode_ill : decode 0 0 = .ok (.ill (ln 0 0 0 0)) 4 ∧ decode 1 0 = .bad .field ∧ decode 0x80000000 0 = .bad .uniformOpcode ∧
    decode 0x28000038 0 = .bad .laneOpcode := by decide
-- the table's numbering: bit 0 of the first word, a second word from bit 32 on
theorem test_table_word : decodeTableWord 64 (0x010C203A + 2 ^ 32 * 0x7FFFFFFB) = some (.iadd (lx 3 2 0 (.imm (2 ^ 30 - 5)))) ∧
    decodeTableWord 32 0xD8000000 = some (.barSync (un 0 0 0 0)) := by decide

/-! ## Each check of well-formedness refuses an ill-formed term -/

theorem test_wf_base : (Instr.iadd (ln 64 0 0)).wellFormed = false ∧ (Instr.iadd (ln 0 0 0 8)).wellFormed = false := by decide
theorem test_wf_plain : (Instr.bra (ln 0 0 0 7 true)).wellFormed = false ∧ (Instr.bra (lx 0 0 0 (.imm 0))).wellFormed = false := by decide
theorem test_wf_pair : (Instr.iadd (ln 1 0 0 7 true)).wellFormed = false ∧ (Instr.iadd (ln 0 0 3 7 true)).wellFormed = false ∧
    (Instr.iadd (ln 0 2 4 7 true)).wellFormed = true := by decide
theorem test_wf_swz : wfSwz 0 1 0 = false ∧ wfSwz 4 7 0 = false ∧ wfSwz 5 32 0 = false ∧ wfSwz 5 1 1 = false ∧ wfSwz 6 0 0 = false ∧
    wfSwz 1 64 0 = false ∧ wfSwz 4 6 0 = true := by decide
theorem test_wf_alu : (Instr.iabs (ln 0 0 1)).wellFormed = false ∧ (Instr.iadd (lx 0 0 1 (.imm 0))).wellFormed = false ∧
    (Instr.iadd (lx 0 0 0 (.imm (2 ^ 30)))).wellFormed = false ∧ (Instr.iadd (lx 0 0 0 (.mem 0 0 0 0 0 0))).wellFormed = false ∧
    (Instr.fadd (lx 0 0 0 (.imm 0) 7 true)).wellFormed = false ∧
    (Instr.iadd (lx 0 0 0 (.src 1 0 0 0 0 0 false false false))).wellFormed = false := by decide
theorem test_wf_cmp : (Instr.icmp (ln 64 0 0)).wellFormed = false ∧ (Instr.icmp (ln 63 0 0)).wellFormed = true := by decide
theorem test_wf_shift : (Instr.shl (lx 0 0 0 (.imm 32))).wellFormed = false ∧ (Instr.shl (lx 0 0 0 (.imm 31))).wellFormed = true ∧
    (Instr.shl (lx 0 0 0 (.imm 32) 7 true)).wellFormed = true := by decide
theorem test_wf_field : (Instr.bfxu (lx 0 0 0 (.imm 32))).wellFormed = false ∧ (Instr.bfxu (lx 0 0 0 (.imm (256 * 33)))).wellFormed = false ∧
    (Instr.bfxu (lx 0 0 0 (.imm 64))).wellFormed = false ∧ (Instr.bfxu (lx 0 0 0 (.imm (31 + 256 * 32)))).wellFormed = true := by decide
theorem test_wf_plop : (Instr.plopAnd (ln 8 0 0)).wellFormed = false ∧ (Instr.plopNot (ln 0 8 3)).wellFormed = false := by decide
theorem test_wf_coll : (Instr.gbcast (ln 0 0 1)).wellFormed = false ∧ (Instr.gred (lx 0 0 0 (.imm 0))).wellFormed = false ∧
    (Instr.vote (ln 8 0 0)).wellFormed = false := by decide
theorem test_wf_ports : (Instr.push (ln 1 0 5)).wellFormed = false ∧ (Instr.pull (ln 0 1 0)).wellFormed = false ∧
    (Instr.ptry (ln 0 8 0)).wellFormed = false := by decide
theorem test_wf_mem : wfMem 5 0 0 0 0 0 = false ∧ wfMem 0 0 0 14 0 0 = false ∧ (Instr.ld (ln 0 0 0)).wellFormed = false := by decide
theorem test_wf_ld : (Instr.ld (lx 0 1 4 (.mem 0 0 0 0 0 0))).wellFormed = false ∧ (Instr.ld (lx 0 0 6 (.mem 0 0 0 0 0 0))).wellFormed = false ∧
    (Instr.ld (lx 0 0 4 (.mem 0 0 2 0 0 0))).wellFormed = false ∧ (Instr.ld (lx 0 0 5 (.mem 0 0 0 0 0 0))).wellFormed = false := by decide
theorem test_wf_st : (Instr.st (lx 1 0 0 (.mem 0 0 0 0 0 0))).wellFormed = false ∧ (Instr.st (lx 4 0 0 (.mem 0 0 1 0 0 0))).wellFormed = false ∧
    (Instr.st (lx 4 0 0 (.mem 4 0 0 0 0 0))).wellFormed = false ∧ (Instr.st (lx 12 0 0 (.mem 1 0 0 0 0 0))).wellFormed = false := by decide
theorem test_wf_atomics : (Instr.atom (lx 0 0 0 (.mem 3 0 0 0 0 0))).wellFormed = false ∧ (Instr.red (lx 0 0 0 (.mem 0 0 0 8 0 0))).wellFormed = false ∧
    (Instr.cas (lx 0 0 0 (.mem 0 0 0 1 0 0))).wellFormed = false ∧ (Instr.pref (lx 3 0 0 (.mem 0 0 0 0 0 0))).wellFormed = false ∧
    (Instr.ldtag (lx 0 0 0 (.mem 1 0 0 0 0 0))).wellFormed = false := by decide
theorem test_wf_fewait : (Instr.fewait (ln 0 63 1)).wellFormed = false ∧ (Instr.fewait (ln 0 63 0)).wellFormed = true := by decide
theorem test_wf_cvt : (Instr.cvt (lx 0 0 0 (.cvt 8 0 0 false 0 0 0 0))).wellFormed = false ∧
    (Instr.cvt (lx 0 0 0 (.cvt 0 3 7 false 0 0 0 0))).wellFormed = false ∧ (Instr.cvt (lx 1 0 0 (.cvt 0 14 0 false 0 0 0 0))).wellFormed = false := by
  decide
theorem test_wf_block : (Instr.bquant (lx 0 0 0 (.cvt 0 8 0 false 0 0 0 4))).wellFormed = false ∧
    (Instr.bamax (lx 0 0 0 (.cvt 3 0 0 false 0 0 0 0))).wellFormed = false ∧ (Instr.bscale (lx 0 0 0 (.cvt 0 8 0 false 0 0 0 1))).wellFormed = false ∧
    (Instr.bpack (lx 0 0 0 (.cvt 8 9 0 false 0 0 0 0))).wellFormed = false ∧ (Instr.bdeq (lx 0 0 0 (.cvt 8 8 0 false 0 0 0 0))).wellFormed = false := by
  decide
theorem test_wf_lane_control : (Instr.join (ln 0 0 0 6)).wellFormed = false ∧ (Instr.ret (ln 0 0 8)).wellFormed = false ∧
    (Instr.callr (ln 1 0 0)).wellFormed = false ∧ (Instr.exit (ln 0 0 1)).wellFormed = false ∧ (Instr.bkpt (ln 1 0 0)).wellFormed = false ∧
    (Instr.mmfeed (ln 0 1 0)).wellFormed = false := by decide
theorem test_wf_uniform : (Instr.klui (un 32 0 0 0)).wellFormed = false ∧ (Instr.kaluAdd (un 0 0 0 1)).wellFormed = false ∧
    (Instr.kaluiSari (un 0 0 28 63)).wellFormed = false ∧ (Instr.kld (un 0 0 28 0)).wellFormed = false ∧
    (Instr.kst (un 0 0 4 0)).wellFormed = false ∧ (Instr.kread (un 0 0 8 1)).wellFormed = false ∧ (Instr.bru (un 0 1 24 0)).wellFormed = false ∧
    (Instr.jur (un 1 0 0 0)).wellFormed = false := by decide
theorem test_wf_groups : (Instr.fence (un 0 0 28 0)).wellFormed = false ∧ (Instr.fence (un 0 0 28 4)).wellFormed = false ∧
    (Instr.barSync (un 0 0 0 16)).wellFormed = false ∧ (Instr.qfence (un 0 0 0 0)).wellFormed = false ∧
    (Instr.mmzero (un 0 0 0 32)).wellFormed = false ∧ (Instr.part (un 0 0 0 4)).wellFormed = false ∧
    (Instr.gangJoin (un 0 0 0 512)).wellFormed = false ∧ (Instr.seed (un 0 0 0 4)).wellFormed = false ∧
    (Instr.capset (un 0 0 0 64)).wellFormed = false ∧ (Instr.rteEnd (un 0 0 8 0)).wellFormed = false ∧
    (Instr.scantEnd (un 0 0 0 2)).wellFormed = false := by decide

/-! ## Single steps -/

/-- One team of one group of 8 lanes at the word `w`, its registers as `f` makes them. -/
def runs (w : Nat) (f : Group → Group := id) : State := (placeWord State.reset w).modGroup 0 f

/-- The state after one step. -/
def after (s : State) : State :=
  match step s with
  | .next t => t
  | _ => s

/-- Every lane holds `v` in register `n`. -/
def withReg (n : Nat) (v : Nat) (g : Group) : Group := { g with lanes := g.lanes.map fun l => l.wrOp g.depth n false v }

/-- Register `n` of lane 3. -/
def reg (s : State) (n : Nat) : Nat := ((s.group 0).lane 3).rdOp 64 n false

-- R123: a sum wraps; `iadd v3, v2, #-5` of 3
theorem test_iadd_wraps : reg (after (runs (0x010C203A + 2 ^ 32 * 0x7FFFFFFB) (withReg 2 3))) 3 = 0xFFFFFFFE := by decide
-- R124: −7 by 2 gives −3 and −1; 7 by 0 gives ones and 7 (the manual's example)
theorem test_idivs : reg (after (runs 0x080420F8 fun g => withReg 2 0xFFFFFFF9 (withReg 3 2 g))) 1 = 0xFFFFFFFD ∧
    reg (after (runs 0x0A0420F8 fun g => withReg 2 0xFFFFFFF9 (withReg 3 2 g))) 1 = 0xFFFFFFFF := by decide
theorem test_idivu_zero : reg (after (runs 0x070420F8 (withReg 2 7))) 1 = 0xFFFFFFFF ∧ reg (after (runs 0x090420F8 (withReg 2 7))) 1 = 7 := by decide
-- R125: `sar v1, v2, v3` shifts by 33 mod 32; `rotl`
theorem test_shifts : reg (after (runs 0x180420F8 fun g => withReg 2 0x80000000 (withReg 3 33 g))) 1 = 0xC0000000 ∧
    reg (after (runs 0x190420F8 fun g => withReg 2 0x80000001 (withReg 3 4 g))) 1 = 0x18 := by decide
-- R123: clz of 0 is 32; brev of 1 is the high bit
theorem test_bits : reg (after (runs 0x1B042038 (withReg 2 0))) 1 = 32 ∧ reg (after (runs 0x1C042038 (withReg 2 1))) 1 = 0x80000000 := by decide
-- R133: 1.0 + 2^-24 rounds to even with NX; 0x33800000 is 2^-24
theorem test_fadd : reg (after (runs 0x300420F8 fun g => withReg 2 0x3F800000 (withReg 3 0x33800000 g))) 1 = 0x3F800000 ∧
    ((after (runs 0x300420F8 fun g => withReg 2 0x3F800000 (withReg 3 0x33800000 g))).group 0).flags ≠ 0 := by decide
-- R142's worked example: 460.0 to e4m3 with saturation lies above the largest value 448, code 0x7E
theorem test_cvt : reg (after (runs (0x4810603A + 2 ^ 32 * 0xC0C44000) (withReg 6 0x44000000))) 4 = 0x7E := by decide
-- R35, R437: the all-zero word parks the run with cause ILLEGAL
theorem test_ill : ((after (runs 0)).group 0).records.map (fun r => (r.cause, r.lanes)) = [(.illegal, 0xFF)] := by decide
-- R438: `trap #0x123` parks the group with the immediate as address
theorem test_trap : ((after (runs 0xF6000123)).group 0).records.map (fun r => (r.cause, r.unif, AMap.get 0 r.addrs 7)) =
    [(.trap, true, 0x123)] := by decide
-- R402: `capset` in a user group takes PRIV
theorem test_priv : ((after (runs 0xF492000C)).group 0).records.map (fun r => r.cause) = [.priv] := by decide
-- R155, R154: `klui k16, 0x12346` and `kalui.addi k16, k16, #0xFF0` give 0x12345FF0 (the manual's example)
theorem test_klui : ((after (runs 0x87012346)).group 0).uregs.get 0 16 = 0x12346000 ∧
    ((after (runs 0x85080FF0 fun g => g.setU 16 0x12346000)).group 0).uregs.get 0 16 = 0x12345FF0 := by decide
-- R365: `loop k3` moves back 16 bytes while the count is not 0
theorem test_loop : ((after (runs 0x9E300FFC fun g => g.setU 3 2)).group 0).uregs.get 0 3 = 1 ∧
    (((after (runs 0x9E300FFC fun g => g.setU 3 2)).group 0).lane 0).pc = 0xFFFFFFF0 := by decide
-- R371: `kballot` of p7 is the mask of live lanes
theorem test_kballot : ((after (runs 0x92300007)).group 0).uregs.get 0 3 = 0xFF := by decide
-- R362: `exit` of every lane ends the group
theorem test_exit : ((after (runs 0x7D000038)).group 0).ended = true := by decide
-- R428, R116: FLAGS takes its nine bits
theorem test_csrw : ((after (runs 0xF2020410 fun g => g.setU 4 0x3FF)).group 0).flags = 0x1FF := by decide

end Sys2Proof.Tests
end

