-- ==== Sys2Proof/Tests/Witness.lean ====
section
/-! SUPPORT. Witnesses: for each statement of the obligations, concrete states and operands that meet the premises of each of its
clauses together. -/

namespace Sys2Proof.Tests

open Sys2Proof Sys2Proof.Machine

/-- A lane word's fields without an extension, guard `p7`. -/
def wl (d a b : Nat) (g : Nat := 7) (s : Bool := false) : LaneOp := { d := d, a := a, b := b, g := g, gn := false, s := s, x := .none }

/-- The same with an extension. -/
def wx (d a b : Nat) (x : LExt) (g : Nat := 7) (s : Bool := false) : LaneOp := { wl d a b g s with x := x }

/-- One team of one group of 8 active lanes at offset 0. -/
def w0 : State := placeWord State.reset 0

/-- Its group changed. -/
def wg (f : Group → Group) : State := w0.modGroup 0 f

/-- Only lane 0 of it is active; the others have exited. -/
def w1 : State := wg fun g => { g with lanes := g.lanes.mapIdx fun i l => if i = 0 then l else { l with st := .exited } }

/-- Its group is in supervisor privilege. -/
def ws : State := wg fun g => { g with priv := .supervisor }

/-- Fields of a uniform word. -/
def wu (d a b f : Nat) : UOp := { d := d, a := a, b := b, f := f }

/-! ## Lane words -/

theorem witness_IntegerWordsWriteTheRuleValue :
    (swzLegal w0.me.width (wl 3 2 1).x = true ∧ w0.Ready (wl 3 2 1) (Claims.wide (wl 3 2 1))) ∧
    (let o := wx 62 60 0 (.imm 5) 7 true; swzLegal w0.me.width o.x = true ∧ w0.Ready o (Claims.wide o)) ∧
    let o := wx 3 2 1 (.src 0 4 3 5 1 0 true false false); swzLegal w0.me.width o.x = true ∧ w0.Ready o (Claims.wide1 o) := by
  unfold State.Ready; decide

theorem witness_DivisionsAndShiftsWriteTheRuleValue :
    (swzLegal w0.me.width (wl 3 2 1).x = true ∧ w0.Ready (wl 3 2 1) (Claims.wide (wl 3 2 1))) ∧
    (Instr.shl (wx 3 2 0 (.imm 31))).wellFormed = true ∧ (Instr.rotl (wx 2 2 0 (.imm 63) 7 true)).wellFormed = true := by
  unfold State.Ready; decide

theorem witness_MultiplyAddAndBitCountsWriteTheRuleValue :
    (swzLegal w0.me.width (wl 3 2 1).x = true ∧ w0.Ready (wl 3 2 1) (Claims.wide3 (wl 3 2 1)) ∧
      (∀ c am ap bm bp cm ta tb tc, (wl 3 2 1).x ≠ .src c am ap bm bp cm ta tb tc) ∧ ∀ v, (wl 3 2 1).x ≠ .imm v) ∧
    swzLegal w0.me.width (wl 3 2 0).x = true ∧ w0.Ready (wl 3 2 0) (Claims.wide1 (wl 3 2 0)) :=
  ⟨⟨by decide, by unfold State.Ready; decide, by simp [wl], by simp [wl]⟩, by decide, by unfold State.Ready; decide⟩

theorem witness_FieldWordsExtractAndInsert :
    (swzLegal w0.me.width (wl 3 2 1).x = true ∧ w0.Ready (wl 3 2 1) (Claims.wide (wl 3 2 1))) ∧
    (Instr.bfxu (wx 3 2 0 (.imm (31 + 256 * 32)))).wellFormed = true ∧ (Instr.bfi (wx 2 2 0 (.imm (63 + 256 * 64)) 7 true)).wellFormed = true := by
  unfold State.Ready; decide

theorem witness_SelectsAndPredicatesFollowTheGuard :
    (swzLegal w0.me.width (wl 3 2 1 6).x = true ∧ w0.Ready { wl 3 2 1 6 with g := 7, gn := false } (Claims.wide (wl 3 2 1))) ∧
    (let o := wl 63 2 1; swzLegal w0.me.width o.x = true ∧ o.d < 64 ∧ w0.Ready o { Claims.wide o with wd := false } ∧
      w0.Ready o { Claims.fpShape o true false with wd := false }) ∧
    (wl 7 63 3).x = .none := by
  unfold State.Ready; decide

theorem witness_WrittenOperandsReadBack : (64 : Nat) ≤ 64 ∧ (62 : Nat) < 64 ∧ (true = true → 62 % 2 = 0) ∧ (7 : Nat) < 64 ∧ 7 ≠ 62 ∧
    (6 : Nat) < 7 := by decide

theorem witness_FloatWordsWriteTheRoundedResult :
    (let o := wl 3 2 1; swzLegal w0.me.width o.x = true ∧ w0.Ready o (Claims.fpShape o true true) ∧ w0.Ready o (Claims.packShape true)) ∧
    let o := wx 3 2 0 (.imm (0x3F800000 / 4)); swzLegal w0.me.width o.x = true ∧ w0.Ready o (Claims.fpShape o true false) := by
  unfold State.Ready; decide

theorem witness_FloatResultsKeepExactValuesAndNans :
    (0x7F7FFFFF < 2 ^ (fmtF32.ew + fmtF32.mw + 1) ∧ (decodeFp fmtF32 0x7F7FFFFF).isNan = false) ∧
    (∃ y ∈ [XR.nan false true], y.isNan = true) ∧ 1 < 2 ^ (fmtF16.ew + fmtF16.mw + 1) := by decide

theorem witness_FloatOperationsRoundTheExactValue :
    fmtF32 ∈ Claims.laneFmts ∧
    (let x (c : Nat) := decodeFp fmtF32 c
     (x 0x3F800000).isFin = true ∧ (x 0x3F800000).isZero = false ∧ (x 0x3F800000).neg = false ∧ (x 0xBF800000).neg = true ∧ (x 0x80000000).isZero = true ∧
      x 0xFF800000 = .inf true ∧ x 0x7F800000 = .inf false ∧ (x 0x7FC00000).isNan = true ∧ (x 0x7F800001).isSig = true) ∧
    Claims.ZeroTimesInf (decodeFp fmtF32 0x80000000) (decodeFp fmtF32 0x7F800000) ∧
    (∃ p, decodeFp fmtF32 0x7F800000 = .inf p ∨ decodeFp fmtF32 0x3F800000 = .inf p) ∧
    (let x (e : Nat) := decodeFp fmtF16 (Claims.half e 0x3C00BC00)
     (∀ e < 2, (x e).isFin = true) ∧ (decodeFp fmtF16 (Claims.half 0 0x7E00)).isNan = true ∧
      .inf true ∈ [(decodeFp fmtF16 0x7C00).mul (x 0)] ∧ .inf false ∈ [(decodeFp fmtF16 0x7C00).mul (x 1)] ∧
      .inf true ∉ [(decodeFp fmtF16 0x7C00).mul (x 1)]) := by
  refine ⟨by decide, by decide, .inr ⟨false, by decide, by decide⟩, ⟨false, .inl (by decide)⟩, by decide⟩

theorem witness_ExponentialAndLogarithmRoundTheExactValue :
    fmtF64 ∈ Claims.laneFmts ∧ (let x := decodeFp fmtF64 0x4000000000000000; x.isFin = true ∧ x.isZero = false ∧ x.neg = false ∧ Claims.value x = 2) ∧
    ((decodeFp fmtF64 0x3FE0000000000000).isFin = true ∧ Claims.value (decodeFp fmtF64 0x3FE0000000000000) = 2 ^ (-1 : ℤ)) := by
  refine ⟨by decide, ⟨by decide, by decide, by decide, ?_⟩, by decide, ?_⟩ <;>
    norm_num [decodeFp, Claims.value, fmtF64]

/-- `cvt.e4m3.f32.sr`, and a block word of 16 elements in two registers to a lane. -/
def wCvt : LaneOp := wx 4 6 0 (.cvt 0 3 6 true 0 1 0 0)
def wBlk : LaneOp := wx 8 16 0 (.cvt 0 12 0 false 0 0 2 1)

theorem witness_ConversionWordsWriteTheRuleValue :
    (wCvt.x = .cvt 0 3 6 true 0 1 0 0 ∧
      Claims.Full (stepLaneGen w0 6) wCvt 1 (fun i => [(stepLaneGen w0 6).regsSrc (stepLaneGen w0 6).me i wCvt.a 1])) ∧
    (wBlk.x = .cvt 0 12 0 false 0 0 2 1 ∧
      Claims.Full w0 wBlk 1 (fun i => [w0.regsSrc w0.me i wBlk.a 1]) ∧
      Claims.Full w0 wBlk 2 (fun i => [w0.regsSrc w0.me i wBlk.a 2, w0.regsSrc w0.me i 2 1]) ∧
      bszOf 0 / eplOf 1 ≤ w0.me.width ∧
      Claims.Full w0 wBlk 2 (fun i => (segment (bszOf 0 / eplOf 1) i).map fun j => w0.regsSrc w0.me j wBlk.a 2)) ∧
    w0.me.width < bszOf 2 / eplOf 0 := by
  unfold Claims.Full; decide

theorem witness_ShflReadsTheNamedLane :
    let o := wl 3 2 1
    swzLegal w0.me.width o.x = true ∧ ∀ i ∈ w0.myRun, (w0.me.lane i).guard o = true →
      (w0.sources w0.me i o { pair := o.s }).2.1.gaps = [] ∧ (w0.me.lane i).gaps i o.d o.s = [] ∧
      (w0.indexed w0.me ((w0.sources w0.me i o { pair := o.s }).2.1.v % w0.me.width) o { pair := o.s }).gaps = [] := by
  decide

/-- Lane 7 stands at another word: the others wait for it. -/
def wBehind : State := wg fun g => g.modLane 7 fun l => { l with pc := 16 }

theorem witness_CollectivesCombineAndWait :
    tb (wl 2 1 1).b 1 = false ∧
    (let o := wl 4 6 (8 * 0 + 2); swzLegal w0.me.width o.x = true ∧ tb o.b 2 = false ∧ Claims.CollFull w0 o (o.b / 8) ∧
      w0.curOld = none ∧ Claims.Gathered w0 (o.b / 8)) ∧
    (Claims.Gathered w0 ((wl 0 0 0).b % 8) ∧ Claims.Gathered w0 ((wl 2 1 1).a / 8)) ∧
    (0 ∈ wBehind.myRun ∧ (wBehind.me.lane 0).force = false ∧ wBehind.me.isMember 0 0 = true ∧ 7 ∈ wBehind.me.awaited 0 0 ∧
      7 ∉ wBehind.myRun ∧ (wBehind.me.lane 7).st ≠ .joining 0) := by
  refine ⟨by decide, ⟨by decide, by decide, by unfold Claims.CollFull; decide, rfl, ?_⟩, ⟨?_, ?_⟩, by decide⟩ <;>
  · refine ⟨by decide, fun i h => ?_, by decide⟩
    have : ∀ i < 8, (w0.me.lane i).st = .active := by decide
    by_cases hi : i < 8
    · rw [this i hi] at h; cases h
    · have : w0.me.lane i = {} := by
        unfold Group.lane
        exact List.getD_eq_default _ _ (by have : w0.me.lanes.length = 8 := by decide
                                           omega)
      rw [this] at h; cases h

/-! ## Ports, lane control and traps -/

/-- The launch of `w0`, changed. -/
def wl0 (f : Launch → Launch) (s : State) : State := s.modLaunch 0 f

/-- A channel entry of its capability table. -/
def withCap (n : Nat) (v : UWord) : State → State := wl0 fun l => { l with caps := AMap.set l.caps n { lo := v } }

theorem witness_PullsTakeTheOldestEntry : ∀ i ∈ w0.myRun, (w0.me.lane i).guard (wl 6 0 1) = true → (w0.me.lane i).gaps i (wl 6 0 1).d false = [] := by
  decide

/-- Lane 0 alone issues; the others stand elsewhere. -/
def wA : State := wg fun g => { g with lanes := g.lanes.mapIdx fun i l => if i = 0 then l else { l with pc := 16 } }

/-- The peer's FIFO holds four entries. -/
def wFull : State := wA.modGroup 0 fun g => g.modLane 1 fun l => { l with fifos := AMap.set l.fifos 1 [1, 2, 3, 4] }

theorem witness_PushesEnterThePeerFifo :
    let o := wl 0 5 0
    (wA.myRun = [0] ∧ (wA.me.lane 0).guard o = true ∧ o.b % 8 < 6 ∧ (wA.me.lane 0).gaps 0 o.a false = [] ∧
      wA.peer wA.me 0 (o.b % 8) (wA.cap wA.me o.d) = .here 0 1 ∧ ((wA.group 0).lane 1).pulls.get [] (peerFifo (o.b % 8)) = [] ∧
      1 < (wA.group 0).lanes.length ∧ 0 < wA.groups.length ∧ (((wA.group 0).lane 1).fifos.get [] (peerFifo (o.b % 8))).length < 4 ∧
      wA.pushes = [] ∧ peerFifo (o.b % 8) < 6 ∧ (wA.group 0).ended = false ∧ ((wA.group 0).lane 1).isExited = false) ∧
    (wFull.myRun = [0] ∧ wFull.peer wFull.me 0 (o.b % 8) (wFull.cap wFull.me o.d) = .here 0 1 ∧
      ((wFull.group 0).lane 1).pulls.get [] (peerFifo (o.b % 8)) = [] ∧
      4 ≤ (((wFull.group 0).lane 1).fifos.get [] (peerFifo (o.b % 8))).length) ∧
    (wA.myRun = [0] ∧ 6 ≤ (wl 0 5 6).b % 8 ∧ (wA.cap wA.me 0).kind ≠ 2) ∧
    let t := withCap 0 0x10012 wA
    (t.cap t.me 0).kind = 2 ∧ (t.cap t.me 0).send = true ∧ t.peer t.me 0 6 (t.cap t.me 0) = .here 0 0 ∧ 6 ≤ peerFifo 6 ∧ t.pushes = [] ∧
    (t.team (t.group 0).team).left = false ∧ (t.group 0).ended = false ∧ ((t.group 0).lane 0).isExited = false ∧ t.myRun = [0] ∧
    ((t.group 0).lane 0).pulls.get [] 6 = [] ∧ (((t.group 0).lane 0).fifos.get [] 6).length < 4 ∧
    (let u := t.modGroup 0 fun g => g.modLane 0 fun l => { l with fifos := AMap.set l.fifos 6 [1, 2, 3, 4] }
     u.peer u.me 0 6 (u.cap u.me 0) = .here 0 0 ∧ u.pushes = [] ∧ 4 ≤ (((u.group 0).lane 0).fifos.get [] 6).length) := by decide

/-- A lane at call depth 1 whose return address is aligned, and one at the deepest window that still takes a call. -/
def wCall : State := w1.modGroup 0 fun g => g.modLane 0 fun l => { l with w := 8, cdep := 1 }
def wDeep : State := w1.modGroup 0 fun g => g.modLane 0 fun l => { l with w := 65464, cdep := 65534, rb := 65464 }

theorem witness_LaneControlMovesAndEndsLanes :
    (∀ i ∈ w0.myRun, (w0.me.lane i).guard (wl 0 5 0) = true → (w0.me.lane i).gaps i 5 false = [] ∧ (w0.me.lane i).rdOp w0.me.depth 5 false % 4 = 0) ∧
    (w0.curPc.toNat % 4 = 0 ∧ ∀ i ∈ w0.myRun, (w0.me.lane i).guard (wl 8 0 0) = true →
      Claims.MayCall w0.me.depth (laneFrame (wl 8 0 0)) (w0.me.lane i)) ∧
    (∀ i ∈ wDeep.myRun, Claims.MayCall wDeep.me.depth (laneFrame (wl 8 0 0)) (wDeep.me.lane i)) ∧
    (∀ i ∈ wCall.myRun, (wCall.me.lane i).cdep ≠ 0 ∧ (wCall.me.lane i).gaps i 8 false = [] ∧
      (wCall.me.lane i).rdOp wCall.me.depth 8 false % 4 = 0 ∧ 8 * ((wl 0 0 1).b % 8) ≤ (wCall.me.lane i).w ∧
      (wCall.me.lane i).rb ≤ (wCall.me.lane i).w - 8 * ((wl 0 0 1).b % 8)) ∧
    (∃ j ∈ w0.me.live, j ∉ Claims.trueRun w0 (wl 0 0 0 0)) ∧
    (∀ i ∈ w0.myRun, (w0.me.lane i).guard (wl 0 0 0) = true → (w0.me.lane i).cdep = 0) ∧
    (w0.myRun ≠ [] ∧ w0.me.ended = false ∧ ∀ j ∈ w0.me.live, j ∈ Claims.trueRun w0 (wl 0 0 0)) := by
  unfold Claims.MayCall; decide

theorem witness_TrappingWordsTakeTheirCause :
    w0.Conv ∧ swzLegal w0.me.width (wx 3 2 1 (.src 0 2 8 0 0 0 false false false)).x = false := by decide

theorem witness_TakingATrapParksAndRecords :
    (0 < w0.groups.length ∧ [(3, (5 : UWord))] ≠ [] ∧ (w0.group 0).priv = .user ∧
      ∀ x ∈ (w0.group 0).records, x.cause ≠ Cause.illegal ∨ x.pc ≠ 0 ∨ x.unif = true) ∧
    0 < ws.groups.length ∧ (ws.group 0).priv = .supervisor := by decide

/-- A SERVICE entry in channel 3, and a mailbox at the mapped page. -/
def wMail : State := (withCap 3 0x15 w0).modTeam 0 fun t => { t with svcbase := 65536, svcen := true }

theorem witness_GcallPostsOneRecord :
    let o := wl 6 5 3
    let g := wMail.me
    let tm := wMail.teamOf g
    Claims.trueRun wMail o ≠ [] ∧ (∀ i ∈ Claims.trueRun wMail o, (g.lane i).gaps i o.a false = [] ∧ (g.lane i).gaps i o.d false = []) ∧
    (wMail.cap g o.b).kind = 5 ∧ (wMail.cap g o.b).send = true ∧ tm.svcOn = true ∧ wMail.mailFull wMail.cur o.b = false ∧ wMail.Drained ∧
    wMail.trans g.core (wMail.ctxOf g) tm.svcSlot 1 ((Claims.trueRun wMail o).any fun i => (g.lane i).failed.isSome) = (wMail, .ok (.dpa 65536) false) ∧
    ∀ x ∈ linesOf 65536 320, wMail.snoopNeeded x true = false := by
  unfold State.Drained; decide

/-! ## Lane memory words -/

/-- Lane 0 alone, 64 bytes of scratch, its register pair v10 at device memory. -/
def wMem : State :=
  (wl0 (fun l => { l with e := { l.e with scratch := 64, cs := 128, cb := 65536 } }) w1).modGroup 0 fun g =>
    g.modLane 0 fun l => (l.wrOp g.depth 12 false 56).wrOp g.depth 10 true (65536 + 256)

/-- A memory extension with no order. -/
def wmx (space : Nat) (disp : Nat := 0) : LExt := .mem space 0 0 0 0 disp

theorem witness_ScratchAccessesActAtOnce :
    (Claims.OneAccess wMem (wx 4 12 4 (wmx 1 4)) 0 1 0 0 0 0 4 ∧ (wMem.served wMem.cur).1 = 0 ∧
      effAddr wMem.me (wMem.me.lane 0) 12 1 4 = 60 ∧ (wMem.launch (wMem.team 0).launch).e.scratch = 64 ∧ (60 : Int) + 4 ≤ (64 : Nat) ∧
      (60 : Int).toNat % 4 = 0 ∧ (wMem.me.lane 0).gaps 0 4 false = [] ∧ ldBytes (4 % 8) = 4 ∧
      Claims.stored wMem (wx 4 12 6 (wmx 1 4)) 0 = some (0, 0)) ∧
    Claims.OneAccess wMem (wx 4 12 6 (.mem 1 5 3 7 0 0) 7 true) 0 1 5 3 7 0 0 := by
  unfold Claims.OneAccess State.Drained; decide

theorem witness_GlobalAccessesReachTheirHome :
    let a := 65536 + 256
    Claims.OneAccess wMem (wx 4 10 4 (wmx 0)) 0 0 0 0 0 0 0 ∧ wMem.Drained ∧ wrap 64 (effAddr wMem.me (wMem.me.lane 0) 10 0 0) = a ∧
    a % 8 = 0 ∧ (8 : Nat) ∈ [1, 2, 4, 8] ∧ wMem.lineClass a = 0 ∧ wMem.snoopNeeded a true = false ∧
    (∀ k < 3, wMem.tick.trans wMem.me.core (wMem.ctxOf wMem.me) a k (wMem.me.lane 0).failed.isSome = (wMem.tick, .ok (.dpa a) false)) ∧
    (wMem.me.lane 0).gaps 0 4 true = [] ∧ ldBytes (5 % 8) = 8 ∧ (∀ c ∈ wMem.caches, c.dpa = lineOf a → False) ∧
    Claims.stored wMem (wx 12 10 6 (wmx 0)) 0 = some (0, 0) ∧ (∀ st ∈ wMem.stores, st.op ≠ wMem.stamp) ∧
    Claims.wideBytes (wx 4 10 6 (wmx 0)) = 4 ∧ bytesNat (wMem.bytes a 4) = (wMem.me.lane 0).rdOp 64 4 false ∧
    bytesNat (wMem.bytes a 4) ≠ (wMem.me.lane 0).rdOp 64 12 false := by
  unfold Claims.OneAccess State.Drained; decide

/-- An entry for FIFO bank 3 with both permissions, and the bank with one filled slot. -/
def wCap6 : State := (withCap 1 0x30036 w1).modCluster 0 fun c => { c with modes := [(3, 2)] }
def wFifo : State := wCap6.modFifo 0 3 fun f => { f with filled := 1, free := 1023, st := [(0, 2)], bytes := [(0, natBytes 4 7)] }
def wHeld : State := wFifo.modGroup 0 fun g => { g with held := [(3, (List.range 7).map fun k => (0, k))] }

/-- Its page translated to the host, or to device 2 with a window entry. -/
def wFar (t : Target) : State := { withCap 2 0x20044 wMem with tlbs := wMem.tlbs.map fun p => { p with tgt := t } }

/-- Lane 0's `v4` is empty. -/
def hollow (s : State) : State := s.modGroup 0 fun g => g.modLane 0 fun l => l.mark 4 false

theorem witness_PrefetchTagFullAndFifoWordsAct :
    (Claims.OneAccess wMem (wx 0 10 0 (wmx 0)) 0 0 0 0 0 0 0 ∧ wMem.Drained ∧
      wMem.tick.trans wMem.me.core (wMem.ctxOf wMem.me) (65536 + 256) 0 false = (wMem.tick, .ok (.dpa (65536 + 256)) false) ∧
      wMem.snoopNeeded (65536 + 256) false = false ∧ (wMem.me.lane 0).gaps 0 6 false = []) ∧
    (∀ t ∈ [Target.host 65536, .peer 2 65536], (wFar t).Drained ∧ Claims.OneAccess (wFar t) (wx 0 10 0 (wmx 0)) 0 0 0 0 0 0 0 ∧
      ∃ u, (wFar t).tick.trans (wFar t).me.core ((wFar t).ctxOf (wFar t).me) (65536 + 256) 0 false = ((wFar t).tick, .ok u false) ∧
        (u = .host (65536 + 256) ∨ (u = .peer 2 (65536 + 256) ∧ (wFar t).me.priv = .user ∧
          ((wFar t).peerCap ((wFar t).teamOf (wFar t).me).launch 2 true false).isSome = true))) ∧
    (Claims.OneAccess wMem (wx 0 12 0 (wmx 4)) 0 4 0 0 0 0 0 ∧ wMem.me.priv = .user) ∧
    (wl 0 63 0).a + (wl 0 63 0).b < 64 ∧ 64 ≤ (wl 0 63 1).a + (wl 0 63 1).b ∧
    (let o := wl 0 4 1
     Claims.slotRun wCap6 o ≠ [] ∧ (wCap6.cap wCap6.me o.b).kind = 6 ∧ (wCap6.cap wCap6.me o.b).send = true ∧ wCap6.outstanding wCap6.cur < 64 ∧
      Claims.slotFull wCap6 o o.a ≠ [] ∧ 0 < (wCap6.fifo 0 ((wCap6.cap wCap6.me o.b).ep 20 16)).free ∧ Claims.slotFull (hollow wCap6) o o.a = [] ∧
      Claims.slotRun w0 (wl 0 4 1 0) = []) ∧
    (let o := wl 4 0 1
     let c := wHeld.cap wHeld.me o.b
     c.kind = 6 ∧ c.recv = true ∧ wHeld.outstanding wHeld.cur < 64 ∧ Claims.slotRun wHeld o ≠ [] ∧ Claims.slotFull wHeld o o.d ≠ [] ∧
      ¬ 8 ≤ ((wHeld.me.held.get [] (c.ep 20 16)).filter fun x => x.1 == 0).length ∧ 0 < (wHeld.fifo 0 (c.ep 20 16)).filled ∧ Claims.slotFull (hollow wHeld) o o.d = [] ∧
      (∃ x r, wHeld.me.held.get [] (c.ep 20 16) = x :: r) ∧
      (wCap6.me.held.get [] (c.ep 20 16) = [] ∧ (wCap6.fifo 0 (c.ep 20 16)).filled = 0 ∧ Claims.slotFull wCap6 o o.d ≠ []) ∧
      (let t := wHeld.modGroup 0 fun g => { g with held := [(3, (List.range 8).map fun k => (0, k))] }
       8 ≤ ((t.me.held.get [] (c.ep 20 16)).filter fun x => x.1 == 0).length ∧ Claims.slotFull t o o.d ≠ []) ∧
      let u := wCap6.modFifo 0 3 fun f => { f with free := 0 }
      (u.fifo 0 3).free = 0 ∧ Claims.slotFull u (wl 0 4 1) 4 ≠ []) ∧
    (Claims.slotRun w1 (wl 0 0 1) ≠ [] ∧ (w1.cap w1.me 1).kind ≠ 6) := by
  refine ⟨?_, ?_, ?_, ?_, ?_, ?_, ⟨?_, ?_, ?_, ?_, ?_, ?_, ?_, ?_, ⟨_, _, rfl⟩, ?_, ?_, ?_⟩, by decide⟩ <;> first | (unfold Claims.OneAccess State.Drained; decide) | decide |
    (intro t ht; fin_cases ht <;> refine ⟨by unfold State.Drained; decide, by unfold Claims.OneAccess State.Drained; decide, ?_⟩ <;>
      first | exact ⟨.host (65536 + 256), by decide, by decide⟩ | exact ⟨.peer 2 (65536 + 256), by decide, by decide⟩)

/-- A pass of e4m3 with one row-group in set 0 of cluster 0, whose one member is the group. -/
def wPass : MxOp := { set := 0, seq := 0, group := 0, kind := 0, tile := 1, accepted := true, granted := true, bow := true,
                      words := [0x0000001800802000, 0, 0, 0] }
def wMx : State := (w1.modMx 0 fun mx => { mx with
    sets := [(0, { count := 1, joined := 1, members := [(0, 0)], seq := 1, loaded := true })], resv := [wPass], tiles := [(1, { owner := some 0 })],
    nextId := 1 }).modGroup 0 fun g =>
      { g.modLane 0 fun l => (l.wrOp 64 10 true (65536 + 256)).wrOp 64 12 true (65536 + 512) with mset := some (0, 0, 0) }

theorem witness_FeedsAndReadsReachTheMatrixEngine :
    (let o := wl 12 10 14
     wMx.myRun = [0] ∧ (wMx.me.lane 0).guard o = true ∧ wMx.me.mset = some (0, 0, 0) ∧ wMx.outstanding wMx.cur < 64 ∧
      (wMx.me.lane 0).gaps 0 o.a true = [] ∧ (wMx.me.lane 0).gaps 0 o.d true = [] ∧ (wMx.me.lane 0).gaps 0 o.b false = [] ∧
      feedAt (wMx.mx 0) 0 ((wMx.me.lane 0).rdOp 64 o.b false / 256) = .pass wPass ∧ (wMx.me.lane 0).rdOp 64 o.b false < 65536 ∧
      (wMx.me.lane 0).rdOp 64 o.b false % 256 < wPass.m ∧ (wMx.me.lane 0).rdOp 64 o.a true % 4 = 0) ∧
    (let va := 65536 + 256
     let vs := 65536 + 512
     let gj := (memberGroups wPass.k (wMx.mset 0 0).count 0).length
     (wMx.me.lane 0).rdOp 64 10 true = va ∧ (wMx.me.lane 0).rdOp 64 12 true = vs ∧ inPage va (2 * gj * fmtBits wPass.afmt) = true ∧
      inPage vs (if Machine.isMx wPass.afmt then gj else 0) = true ∧
      feedRange wMx.tick wMx.me va (2 * gj * fmtBits wPass.afmt) false = (wMx.tick, .ok (.dpa va) false) ∧
      feedRange wMx.tick wMx.me vs (if Machine.isMx wPass.afmt then gj else 0) false = (wMx.tick, .ok (.dpa vs) false)) ∧
    let o := wl 4 1 0
    let g := wMx.me.modLane 0 fun l => l.wrOp 64 1 false (2 ^ 28)
    let t := wMx.modGroup 0 fun _ => g
    (t.me.lane 0).rdOp t.me.depth o.a false = 2 ^ 28 ∧ 2 ^ 28 / 2 ^ 9 % 2 ^ 7 = 0 ∧ 2 ^ 28 / 2 ^ 24 % 16 = 0 ∧ 2 ^ 28 < 2 ^ 30 ∧
      (t.me.lane 0).gaps 0 o.a false = [] ∧ (t.me.lane 0).gaps 0 o.d false = [] ∧ (t.tile 0 1).owner = some 0 := by
  refine ⟨?_, ?_, ?_⟩ <;> decide

/-! ## Uniform words -/

/-- The group of `w0` with `k4` and `k5` set. -/
def wk (a b : UWord) : State := wg fun g => (g.setU 4 a).setU 5 b

theorem witness_UniformWordsWriteTheRuleValue : w0.Conv := by decide

theorem witness_UniformBranchesMoveTheGroup :
    ((wk 8 0).Conv ∧ ((wk 8 0).u (wu 0 4 0 0).a).toNat % 4 = 0) ∧ ((wk 6 0).Conv ∧ ((wk 6 0).u (wu 0 4 0 0).a).toNat % 4 ≠ 0) := by decide

/-- Lane 7's `v4` is empty; a loggia waits for the team of `w0`. -/
def wEmpty : State := wg fun g => g.modLane 7 fun l => l.mark 4 false
def wLoggia : State := w0.modCore 0 fun c => { c with loggia := some (1, 0, some 5) }

theorem witness_GroupWordsReadLanesAndYield :
    (w0.Conv ∧ (wu 1 0 0 (64 * 7 + 63)).imm12 / 64 < w0.me.width ∧ (w0.me.lane 7).gaps 7 63 false = []) ∧
    (w1.Conv ∧ (w1.me.lane 7).isExited = true) ∧
    (wEmpty.Conv ∧ (wu 1 0 0 (64 * 7 + 4)).imm12 / 64 < wEmpty.me.width ∧ (wEmpty.me.lane 7).isExited = false ∧
      (wEmpty.me.lane 7).gaps 7 4 false ≠ []) ∧
    w0.me.width ≤ (wu 1 0 0 512).imm12 / 64 ∧ (w0.me.lanes.length ≤ 64 ∧ 7 < w0.me.lanes.length) ∧
    (wu 7 0 0 3).d % 8 ≠ 0 ∧ (wu 0 0 0 3).d % 8 = 0 ∧ (w0.core w0.me.core).loggia = none ∧
    (wLoggia.Conv ∧ (wLoggia.core wLoggia.me.core).loggia = some (1, wLoggia.me.team, some 5)) := by decide

/-- `k4` names mapped device memory, `k5` the last doubleword of a constant region of 128 bytes. -/
def wUni : State := wl0 (fun l => { l with e := { l.e with cs := 128, cb := 65536 } }) (wk (65536 + 256) 120)

theorem witness_UniformAccessesReachTheirHome :
    let n := Claims.kldSize 6
    (wUni.Conv ∧ wUni.outstanding wUni.cur < 64 ∧ wUni.Drained ∧ n = 8 ∧ (65536 + 256) % n = 0 ∧ wUni.lineClass (65536 + 256) = 0 ∧
      wUni.hostLines.find (lineOf (65536 + 256)) = none ∧ wUni.caches = [] ∧ wUni.stores = [] ∧ wUni.me.priv = .user) ∧
    (∀ k < 2, (wUni.u 4 + Claims.low (wu 6 4 24 0)).toNat = 65536 + 256 ∧
      wUni.tick.trans wUni.me.core (wUni.ctxOf wUni.me) (65536 + 256) k wUni.me.failed.isSome = (wUni.tick, .ok (.dpa (65536 + 256)) false)) ∧
    ((wUni.u 5).toNat + (Claims.low (wu 6 5 24 0)).toInt = 120 ∧ 120 + n ≤ (wUni.launchOf wUni.me).e.cs ∧ 120 % n = 0 ∧
      (wUni.launchOf wUni.me).e.cb + (wUni.launchOf wUni.me).e.cs < 2 ^ 64 ∧
      wUni.tick.trans wUni.me.core (wUni.ctxOf wUni.me) (65536 + 120) 0 wUni.me.failed.isSome = (wUni.tick, .ok (.dpa (65536 + 120)) false)) := by
  unfold State.Drained; decide

/-- Bindings of context 1. -/
def wBind (bs : List Binding) (s : State) : State := s.modContext 1 fun c => { c with bindings := bs }

/-- `k4` an object, `k5` a base and `k6` a length. -/
def wk3 (obj base len : UWord) : State := wg fun g => ((g.setU 4 obj).setU 5 base).setU 6 len

set_option maxRecDepth 100000 in
theorem witness_OrderingAndBindingWordsAct :
    (w0.Conv ∧ w0.Drained ∧ 2 ≤ (wu 0 0 28 3).imm12 % 4 ∧ 3 ≤ (wu 0 0 28 3).f3) ∧
    (let bad (s : State) : Prop := (s.u 4).toNat = 0 ∨ (s.u 4).toNat % 8 ≠ 0
     let off (s : State) : Prop := (s.u 5).toNat % 128 ≠ 0 ∨ (s.u 6).toNat = 0 ∨ (s.u 6).toNat % 128 ≠ 0 ∨ 2 ^ 48 < (s.u 6).toNat
     let clash (s : State) : Prop := ∃ b ∈ (s.context (s.ctxOf s.me)).bindings, (s.u 5).toNat < b.base + b.len ∧ b.base < (s.u 5).toNat + (s.u 6).toNat
     (bad (wk3 0 0 0) ∧ bad (wk3 4 0 128)) ∧ (¬bad (wk3 8 0 0) ∧ off (wk3 8 0 0)) ∧ off (wk3 8 64 128) ∧
      (let s := wBind [{ obj := 16, base := 128, len := 128 }] (wk3 8 0 256); ¬bad s ∧ ¬off s ∧ clash s) ∧
      (let s := wBind (List.replicate 256 { obj := 16, base := 2 ^ 40, len := 128 }) (wk3 8 0 256)
       ¬bad s ∧ ¬off s ∧ ¬clash s ∧ 256 ≤ (s.context (s.ctxOf s.me)).bindings.length) ∧
      (let s := wBind (List.replicate 255 { obj := 16, base := 256, len := 128 }) (wk3 8 0 256)
       ¬bad s ∧ ¬off s ∧ ¬clash s ∧ (s.context (s.ctxOf s.me)).bindings.length < 256)) := by
  refine ⟨by unfold State.Drained; decide, ?_⟩
  decide

/-- A second live group of the same team. -/
def wTwo : State := { w0 with
  groups := w0.groups ++ [{ w0.me with kgrp := 1 }]
  teams := w0.teams.map fun t => { t with groups := [0, 1] } }

theorem witness_BarriersHoldUntilTheTeamArrives :
    (w0.Conv ∧ w0.cur < w0.groups.length ∧ w0.me.team < w0.teams.length ∧ w0.me.barAt = none ∧ w0.Drained ∧
      ∀ g ∈ (w0.team w0.me.team).groups, (w0.group g).ended = true ∨ g ∈ [w0.cur]) ∧
    (let s := wTwo.modGroup 0 fun g => { g with barAt := some (15, 0) }
     let t := s.modTeam 0 fun t => { t with bars := [(15, (1, []))] }
     s.Conv ∧ s.me.barAt = some (15, 0) ∧ ((s.team 0).bars.get (0, []) 15) = (0, []) ∧ t.me.barAt = some (15, 0) ∧
      ((t.team 0).bars.get (0, []) 15) = (1, [])) ∧
    (wTwo.Conv ∧ wTwo.me.barAt = none ∧ wTwo.Drained ∧ ((wTwo.team 0).bars.get (0, []) 15).2 = [] ∧
      ¬∀ g ∈ (wTwo.team wTwo.me.team).groups, (wTwo.group g).ended = true ∨ g ∈ [wTwo.cur]) := by
  unfold State.Drained; decide

theorem witness_SpawnMakesAGroupOfStartValues :
    (let fits (s : State) : Prop := (s.teamOf s.me).isSup = false ∧ ((s.teamOf s.me).groups.filter fun x => !(s.group x).ended).length < 16 ∧
       (s.coreGroups s.me.core).length < 32 ∧ s.regsUsed s.me.core + s.me.width * (8 + s.me.depth) ≤ 196608
     ((wk 2 0).Conv ∧ (wk 2 0).cur < (wk 2 0).groups.length ∧ (((wk 2 0).u 4).setWidth 32).toNat % 4 ≠ 0) ∧
      ((wk 4 0).Conv ∧ (((wk 4 0).u 4).setWidth 32).toNat % 4 = 0 ∧ fits (wk 4 0)) ∧
      ((wTwo.modTeam 0 fun t => { t with isSup := true }).Conv ∧ ¬fits (wTwo.modTeam 0 fun t => { t with isSup := true }))) ∧
    7 < (w0.launch (w0.team 0).launch).e.width := by decide

/-- A gang of two teams, `n` of them attached. -/
def wGang (ga : Gang) (n : Nat) : State := { w0 with
  launches := w0.launches.map fun l => { l with e := { l.e with gang := 2, nteams := 2, scratch := 8192 } }
  groups := w0.groups ++ [{ w0.me with team := 1 }]
  teams := [{ launch := 0, st := .resident, groups := [0], attached := decide (0 < n) },
            { launch := 0, kteam := 1, st := .resident, groups := [1], attached := decide (1 < n) }]
  gangs := [{ ga with launch := 0, idx := 0, n := 2 }] }

theorem witness_GangAndWindowWordsAct :
    (w0.Conv ∧ w0.gangOf w0.me.team = none) ∧
    (let s := wGang {} 1; s.Conv ∧ s.gangOf s.me.team = some (0, 0) ∧ (wu 1 0 0 0).imm12 % 512 = 0 ∧ ¬((wu 1 0 0 2).imm12 % 512 = 0) ∧
      (wu 1 0 0 2).imm12 % 512 = (s.gangs.getD 0 {}).n ∧ (s.gangs.getD 0 {}).rowLen = 0 ∧ (s.gangs.getD 0 {}).depEarly = false ∧
      (s.gangs.getD 0 {}).formed = false ∧ (∃ x ∈ s.members 0, (s.team x).attached = false) ∧ (s.teamOf s.me).attached = true ∧ s.Drained ∧
      s.me.detached = false ∧ s.me.syncAt = none ∧
      let t := s.modGroup s.cur fun x => { x with syncs := s.me.syncs + 1, syncAt := some (s.me.syncs + 1) }
      (∀ x ∈ t.members 0, (t.team x).attached = false ∨ t.teamDetached x = true ∨ t.teamReached x (s.me.syncs + 1) = true) ∧
      (s.gangs.getD 0 {}).syncDone = s.me.syncs ∧ (s.gangs.getD 0 {}).away = [] ∧
      ∃ x ∈ t.members 0, ∃ y ∈ (t.team x).groups, s.me.syncs + 1 ≤ (t.group y).syncs) ∧
    (((wGang { rowLen := 1 } 1).gangs.getD 0 {}).rowLen = 1 ∧ ((wGang { depEarly := true } 1).gangs.getD 0 {}).depEarly = true) ∧
    (let s := wGang {} 2; (∀ x ∈ s.members 0, (s.team x).attached = true) ∧
      (s.gangs.getD 0 {}).n ≤ (s.members 0).length + (s.gangs.getD 0 {}).away.length ∧
      (let u := (wGang { syncDone := 1 } 2).modGroup 0 fun g => { g with syncs := 1, syncAt := some 1 }
       u.me.syncAt = some 1 ∧ 1 ≤ (u.gangs.getD 0 {}).syncDone ∧ ((wGang {} 2).gangs.getD 0 {}).syncDone < 1 ∧
        ((u.modGroup 0 fun g => { g with detached := true }).me.detached = true)) ∧
      let t := s.modGroup s.cur fun x => { x with syncs := s.me.syncs + 1, syncAt := some (s.me.syncs + 1) }
      ¬∀ x ∈ t.members 0, (t.team x).attached = false ∨ t.teamDetached x = true ∨ t.teamReached x (s.me.syncs + 1) = true) ∧
    (let s := wGang {} 0; s.gangOf s.me.team = some (0, 0) ∧ (s.teamOf s.me).attached = false) ∧
    (let at_ (a b : UWord) (ga : Gang) : State := (wGang ga 2).modGroup 0 fun g => (g.setU 4 a).setU 5 b
     (¬(((at_ 0 2048 {}).u 5).toNat = 2 ^ 12)) ∧
      (((at_ 4096 4096 {}).u 5).toNat = 2 ^ 12 ∧ ((at_ 4096 4096 {}).u 4).toNat % 4096 = 0 ∧
        ((at_ 4096 4096 {}).u 4).toNat + 4096 ≤ ((at_ 4096 4096 {}).launchOf (at_ 4096 4096 {}).me).e.scratch ∧
        ((at_ 4096 4096 {}).teamOf (at_ 4096 4096 {}).me).slice = none ∧ ((at_ 4096 4096 {}).gangs.getD 0 {}).zsize = 0) ∧
      ((at_ 8192 4096 {}).launchOf (at_ 8192 4096 {}).me).e.scratch < ((at_ 8192 4096 {}).u 4).toNat + 4096 ∧
      (((at_ 4096 4096 {}).modTeam 0 fun t => { t with slice := some 0 }).teamOf (at_ 4096 4096 {}).me).slice ≠ none ∧
      (((at_ 1 4095 { zsize := 4096 }).gangs.getD 0 {}).zsize ≠ 0 ∧ ((at_ 1 4095 { zsize := 4096 }).u 4).toNat < 2 ∧
        ((at_ 1 4095 { zsize := 4096 }).u 5).toNat < 4096) ∧
      ((at_ 2 0 { zsize := 4096 }).gangs.getD 0 {}).n ≤ ((at_ 2 0 { zsize := 4096 }).u 4).toNat) := by
  refine ⟨?_, ?_, ?_, ?_, ?_, ?_⟩ <;> first | (unfold State.Drained; decide) | decide

/-! ## System words and posts -/

/-- A lane of `w0` is at another word; one is blocked. -/
def wSplit : State := wg fun g => g.modLane 3 fun l => { l with pc := 8 }
def wBlocked : State := wg fun g => g.modLane 3 fun l => { l with st := .blocked .remote }

theorem witness_PrivilegeAndDivergenceTrap :
    (w0.Conv ∧ w0.me.priv = .user) ∧ csrRead w0 w0.cur (wu 0 0 0 2).imm12 = none ∧
    (csrRead w0 w0.cur 0x800 ≠ none ∧ 0x800 ≤ (wu 0 0 2 0).imm12) ∧ (ws.Conv ∧ csrRead ws ws.cur 0xC00 ≠ none ∧ 0xC00 ≤ (wu 0 0 3 0).imm12) ∧
    (csrRead w0 w0.cur (wu 0 0 0 1).imm12 ≠ none ∧ (wu 0 0 0 1).imm12 < 0x400) ∧
    (¬wBlocked.Conv ∧ ∃ l ∈ wBlocked.me.lanes, l.isBlocked = true) ∧ (¬wSplit.Conv ∧ ∀ l ∈ wSplit.me.lanes, l.isBlocked = false) := by decide

theorem witness_ControlRegistersReadAndWrite :
    (w0.Conv ∧ csrRead w0 w0.cur (wu 0 0 1 16).imm12 = some 0 ∧ (wu 0 0 1 16).imm12 < 0xC00 ∧ (w0.me.priv = .user → (wu 0 0 1 16).imm12 < 0x800) ∧
      0x400 ≤ (wu 0 0 1 16).imm12 ∧ (wu 0 0 1 16).imm12 ≠ 0x850) ∧
    (ws.Conv ∧ csrRead ws ws.cur 0x806 = some (ws.regSel ws.me.core).1 ∧ (wu 0 0 2 6).imm12 = 0x806 ∧ ws.me.priv ≠ .user) ∧ 0 < w0.groups.length := by
  exact ⟨by decide, ⟨by decide, rfl, by decide, by decide⟩, by decide⟩

/-- A counter of context 1. -/
def wCtr : State := (wk 5 0).modCounter 5 fun c => { c with ctx := 1, state := 3 }

theorem witness_SeedCapsetAndCancelAct :
    (w0.Conv ∧ (wu 0 0 0 3).f = 3) ∧ (ws.Conv ∧ ws.me.priv = .supervisor ∧ (Cap.load (ws.u 0) 0).kind ≠ 6) ∧
    (wCtr.Conv ∧ (wCtr.u 4).toNat < 65536 ∧ (wCtr.counter (wCtr.u 4).toNat).ctx = wCtr.ctxOf wCtr.me ∧ (wCtr.counter (wCtr.u 4).toNat).state ≤ 3) ∧
    (65536 ≤ ((wk 65536 0).u 4).toNat ∧ ((wk 6 0).counter 6).ctx ≠ (wk 6 0).ctxOf (wk 6 0).me) := by decide

/-- Group 0 has a trap record of lanes 0 and 1; group 1 is the supervisor slot that serves its team. -/
def wRec : Record := { cause := .bkpt, pc := 0, lanes := 3, entered := true }
def wRte (sel : UWord) : State := { w0 with
  cur := 1
  groups := [{ w0.me with records := [wRec], lanes := w0.me.lanes.mapIdx fun i l => if i < 2 then { l with st := .parked } else l },
             { w0.me with priv := .supervisor }]
  cores := [(0, { slot := some 1, serves := some 0, trapLanes := sel })] }

theorem witness_ReturnsFromATrapResumeLanes :
    ((wRte 3).Conv ∧ (wRte 3).me.priv = .supervisor ∧ (wRte 3).selRecord (wRte 3).me.core = some (0, wRec) ∧
      ((wRte 3).core (wRte 3).me.core).trapLanes ≠ 0) ∧
    ((wRte 0).Conv ∧ ((wRte 0).core (wRte 0).me.core).trapLanes = 0) ∧
    (0 < (wRte 3).groups.length ∧ ((wRte 3).group 0).records[0]? = some wRec ∧ wRec.cause ≠ .cancel ∧ wRec.lanes &&& ~~~ maskOf [0, 1] = 0) ∧
    wRec.lanes &&& ~~~ maskOf (lanesOf (wRec.lanes &&& ((wRte 1).core (wRte 1).me.core).trapLanes)) ≠ 0 ∧
    (let after (s : State) : State := ((s.wroteU 0 0).modGroup s.cur fun g => { g with resident := false }).modCore 0 fun c => { c with serves := none }
     (wRte 3).me.core = 0 ∧ ((wRte 3).core 0).serves = some 0 ∧ (after (wRte 3)).nextRecord 0 (some 0) = none ∧
      (after ((wRte 3).modGroup 0 fun g => { g with records := [{ wRec with entered := false }] })).nextRecord 0 (some 0) = some (0, 0)) := by
  decide

/-- A supervisor group whose `k4` holds `v`; core 1 as given. -/
def wScan (v : UWord) (c : Core) : State := (ws.modGroup 0 fun g => g.setU 4 v).modCore 1 fun _ => c

set_option maxRecDepth 100000 in
theorem witness_ScanWordsClaimAndCheckACore :
    (let s := wScan 1 {}; s.Conv ∧ s.me.priv = .supervisor ∧ (s.u 4).toNat = 1 ∧ s.me.core ≠ 1 ∧ s.mappedCore (dieOf s.me.core) 1 = true ∧
      s.coreGroups 1 = [] ∧ (s.core 1).loggia = none ∧ (s.core 1).claimed = none ∧ s.beingRemoved 1 = false ∧ s.claims 1 = false) ∧
    ((wScan 511 {}).mappedCore 0 511 = false ∧ ((wScan 511 {}).u 4).toNat < 512) ∧
    ((wScan 1 { claimed := some 7 }).core 1).claimed ≠ none ∧
    ((wScan 1 { claimed := some 0, next := 19 }).claims 1 = true ∧ ((wScan 1 { claimed := some 0, next := 19 }).core 1).next < 20) ∧
    ((wScan 1 { claimed := some 0, next := 20 }).claims 1 = true ∧ 20 ≤ ((wScan 1 { claimed := some 0, next := 20 }).core 1).next) ∧
    (let s := wScan (1 + 19 * 2 ^ 16) { claimed := some 0, next := 19 }
     s.me.hold = .none ∧ s.me.failed = none ∧ s.cur < s.groups.length ∧ (s.u 4).toNat % 65536 < 512 ∧ (s.u 4).toNat < 2 ^ 21 ∧ s.claims 1 = true ∧ (s.u 4).toNat / 2 ^ 16 % 32 = (s.core 1).next ∧ s.urgent 1 = false ∧
      let t : State := { s with teams := s.teams ++ [{ launch := 0, prio := 3 }] }
      t.urgent 1 = true ∧ t.claims 1 = true) ∧
    ((wScan (1 + 20 * 2 ^ 16) { claimed := some 0, next := 20 }).u 4).toNat / 2 ^ 16 % 32 = 20 ∧
    (let s := wScan (2 ^ 24 + 1) { claimed := some 0, mismatch := true }
     (s.u 4).toNat = 2 ^ 24 + (s.u 4).toNat % 512 ∧ s.claims ((s.u 4).toNat % 512) = true ∧ (s.core 1).mismatch = true ∧
      ((wScan (2 ^ 24 + 1) { claimed := some 0 }).core 1).mismatch = false) ∧
    ((wScan 512 {}).u 4).toNat % 1024 / 512 = 1 := by
  refine ⟨?_, ?_, ?_, ?_, ?_, ?_, ?_, ?_, ?_⟩ <;> decide

/-- `q1` bound to the matrix queue, `q2` to the transfer and `q3` to the collective engine; a set of the group's own. -/
def wQ (s : State) : State := withCap 1 0x20011 (withCap 2 0x11 (withCap 3 0x10011 s))
def wSet : MSet := { count := 2, queue := 1, joined := 1, members := [(0, 0)], seq := 3 }
def wIn (st : MSet) (mx : Matrix) (s : State) : State :=
  (s.modMx 0 fun _ => { mx with sets := [(0, st)] }).modGroup 0 fun g => { g with mset := some (0, 0, 0) }

theorem witness_ConveningSetsGainAndLoseMembers :
    (w0.Conv ∧ (w0.cap w0.me 1).queue 2 = false) ∧
    (let s := wQ w0; s.Conv ∧ (s.cap s.me 1).queue 2 = true ∧ s.me.mset = none ∧ findSet (s.mx 0) 0 (s.u 4) = none ∧ 0 < 8 ∧
      (s.mx 0).sets.find 0 = none ∧ (∀ j < 0, ((s.mx 0).sets.find j).isSome = true) ∧
      let t := s.modMx 0 fun mx => { mx with sets := (List.range 8).map fun j => (j, { wSet with key := 9 }) }
      findSet (t.mx 0) 0 (t.u 4) = none ∧ ∀ j < 8, ((t.mx 0).sets.find j).isSome = true) ∧
    (let s := (wQ w0).modMx 0 fun mx => { mx with sets := [(0, wSet)] }
     s.me.mset = none ∧ findSet (s.mx 0) 0 (s.u 4) = some 0 ∧ (s.mset 0 0).count = 2 ∧ (s.mset 0 0).joined ≠ 2 ∧ (s.mset 0 0).broken = false ∧
      (s.mset 0 0).queue = 1 ∧ (s.mset 0 0).count ≠ 1) ∧
    (let s := (withCap 4 0x20011 (wQ w0)).modMx 0 fun mx => { mx with sets := [(0, wSet)] }
     (s.cap s.me 4).queue 2 = true ∧ (s.mset 0 0).queue ≠ 4) ∧
    (let s := (wQ w0).modMx 0 fun mx => { mx with sets := [(0, { wSet with joined := 2 })] }; (s.mset 0 0).joined = 2) ∧
    (let s := wIn wSet {} (wQ w0); s.Conv ∧ s.me.mset = some (0, 0, 0)) := by
  refine ⟨?_, ?_, ?_, ?_, ?_, ?_⟩ <;> decide

theorem witness_MatrixPostsEnterTheReservationTable :
    (w0.Conv ∧ (w0.cap w0.me 1).queue 2 = false) ∧ ((wQ w0).Conv ∧ ((wQ w0).cap (wQ w0).me 1).queue 2 = true ∧ (wQ w0).me.mset = none) ∧
    (let s := wIn wSet {} (wQ (wk 65536 0))
     s.Conv ∧ (s.cap s.me 1).queue 2 = true ∧ s.me.mset = some (0, 0, 0) ∧ (s.mset 0 0).elected = some 0 ∧ (s.mset 0 0).queue = 1 ∧
      (s.u 4).toNat % 256 = 0 ∧ (s.mx 0).resv.length < 16 ∧ s.queueFull s.me 1 = false ∧ s.Drained) ∧
    (let s := wIn { wSet with members := [(1, 0)] } {} (wQ w0); (s.mset 0 0).elected ≠ some 0) ∧
    (let s := wIn { wSet with queue := 2 } {} (wQ w0); (s.mset 0 0).elected = some 0 ∧ (s.mset 0 0).queue ≠ 1) ∧
    (let s := wIn wSet {} (wQ (wk 65664 0)); (s.u 4).toNat % 256 ≠ 0) ∧
    (let s := wIn wSet { resv := List.replicate 16 wPass } (wQ (wk 65536 0)); 16 ≤ (s.mx 0).resv.length) := by
  refine ⟨?_, ?_, ?_, ?_, ?_, ?_, ?_⟩ <;> first | (unfold State.Drained; decide) | decide

/-- A member whose `k4` holds the ticket of SEQ 2 on `q1`; its operation stands as `f` makes it. -/
def wTick (v : UWord) (st : MSet) (mx : Matrix) : State := wIn st mx (wQ (wk v 0))

theorem witness_MatrixWaitsReadTheirTicket :
    ((wTick 3 wSet {}).Conv ∧ (wTick 3 wSet {}).me.mset = some (0, 0, 0) ∧ (wTick 3 wSet {}).mxTicket 0 0 3 = .bad) ∧
    (wTick (2 ^ 32 + 2) wSet {}).mxTicket 0 0 (2 ^ 32 + 2) = .expired ∧
    (wTick (2 ^ 32 + 2) { wSet with done := [(2, 1, 0, 0)] } {}).mxTicket 0 0 (2 ^ 32 + 2) = .done 1 0 0 ∧
    (wTick (2 ^ 32 + 2) { wSet with done := [(2, 11, 0, 0)] } {}).mxTicket 0 0 (2 ^ 32 + 2) = .done 11 0 0 ∧
    ((wTick (2 ^ 32 + 2) { wSet with done := [(2, 2, 5, 4)] } {}).mxTicket 0 0 (2 ^ 32 + 2) = .done 2 5 4 ∧ mxStatusTrap 2 5 = none) ∧
    (wTick (2 ^ 32 + 2) wSet { resv := [{ wPass with seq := 2 }] }).mxTicket 0 0 (2 ^ 32 + 2) = .pending ∧
    4 ≤ ((wTick 4 wSet {}).u 4).toNat ∧
    (let s := wTick 3 wSet {}; (s.u 4).toNat < 4 ∧ s.me.mwait = none ∧ ∀ e ∈ (s.mx 0).resv, e.set ≠ 0) := by
  decide

/-- An operation that the group posted on `q2` as SEQ 0. -/
def wOp : EngOp := { id := 0, kind := 0, group := 0, launch := 0, ctx := 1, core := 0, queue := 2, qn := 0, seq := 0, blk := 65664 }
def wPosted (o : EngOp) : State := { wQ (wk (2 ^ 33) 0) with
  engOps := [o]
  groups := [{ (wQ (wk (2 ^ 33) 0)).me with qseq := [(2, 1)] }] }

theorem witness_EnginePostsAndWaits :
    (w0.Conv ∧ (w0.cap w0.me 2).queue 0 = false) ∧
    (let s := wQ (wk 65664 0); s.Conv ∧ (s.cap s.me 2).queue 0 = true ∧ (s.cap s.me 3).queue 1 = true ∧ (s.u 4).toNat % 128 = 0 ∧
      s.queueFull s.me 2 = false ∧ s.Drained) ∧
    (((wQ (wk 65600 0)).u 4).toNat % 128 ≠ 0) ∧
    (let s := (wQ (wk 65664 0)).modGroup 0 fun g => { g with qcnt := [(2, 15)] }; s.queueFull s.me 2 = true) ∧
    (let s := wQ w0; ∀ n < 8, Nat.testBit 0b1110 n = true → (s.cap s.me n).kind = 1 ∧ (s.cap s.me n).send = true) ∧
    (let s := wPosted wOp; s.Conv ∧ (s.cap s.me ((s.u 4).toNat / 2 ^ 32 % 8)).queue 2 = false ∧ s.engTicket s.cur (s.u 4).toNat = .pending) ∧
    (let s := wPosted { wOp with status := 1 }; s.engTicket s.cur (s.u 4).toNat = .done 1 0 0 ∧ engStatusTrap 1 = none) ∧
    (let s := wPosted { wOp with seq := 9 }; s.engTicket s.cur (s.u 4).toNat = .expired) ∧
    (let s := wQ (wk (2 ^ 33) 0); s.engTicket s.cur (s.u 4).toNat = .bad) := by
  refine ⟨?_, ?_, ?_, ?_, ?_, ?_, ?_, ?_, ?_⟩ <;> first | (unfold State.Drained; decide) | decide

/-! ## Events of memory, translation and the sequencer -/

/-- A store, a reduction, a write-combining entry and a result of the group of `w0`, as far as given. -/
def wSt : Store := { core := 0, group := 0, launch := 0, dpa := 65792, bytes := spread 65792 [1, 2], op := 0 }
def wRed : RedEntry := { ctx := 1, group := 0, tgt := .dpa 65792, op := 0, wide := false, val := 3, born := 0 }
def wWc : WcEntry := { tgt := .peer 2 256, group := 0, bytes := [(256, 9)], born := 0 }
def wBuf (clock : Nat) : State := { w0.modCore 0 (fun c => { c with red := [wRed], wcb := [wWc] }) with
  clock := clock
  stores := [wSt]
  landing := [{ dst := { group := 0, lane := 7, slot := .glob 4, pair := false }, val := 5 }] }

theorem witness_MemoryEventsPerformWhatWaits :
    (∃ x, (wBuf 0).landing[0]? = some x ∧ x.dst.pair = false ∧ ((wBuf 0).group x.dst.group).ended = false ∧
      (((wBuf 0).group x.dst.group).lane x.dst.lane).isExited = false ∧ ∀ n, x.dst.slot = .stack n → False) ∧
    ((wBuf 0).stores[0]? = some wSt ∧ wSt.bytes = spread wSt.dpa [1, 2] ∧
      (∀ j < 0, ∀ x, (wBuf 0).stores[j]? = some x → x.core = wSt.core → lineOf x.dpa ≠ lineOf wSt.dpa) ∧ (wBuf 0).lineClass wSt.dpa = 0 ∧
      (wBuf 0).snoopNeeded wSt.dpa true = false ∧ (wBuf 0).snoopNeeded 65792 true = false) ∧
    (((wBuf 8192).core 0).red[0]? = some wRed ∧ wRed.tgt = .dpa 65792 ∧ wRed.born + 8192 ≤ (wBuf 8192).clock ∧ (wBuf 8191).clock < wRed.born + 8192) ∧
    ((wBuf 4096).core 0).wcb[0]? = some wWc ∧ wWc.tgt = .peer 2 256 ∧ wWc.born + 4096 ≤ (wBuf 4096).clock ∧ (wBuf 4095).clock < wWc.born + 4096 := by
  refine ⟨⟨{ dst := { group := 0, lane := 7, slot := .glob 4, pair := false }, val := 5 }, by decide, by decide, by decide, by decide, ?_⟩,
    ⟨by decide, by decide, ?_, by decide, by decide, by decide⟩, by decide, by decide, by decide, by decide, by decide⟩
  · intro n h; cases h
  · intro j h; omega

/-- Lanes 0 to 3 join at one word, lanes 4 to 7 at a later one. -/
def wDead : State := wg fun g => { g with lanes := g.lanes.mapIdx fun i l => { l with st := .joining 0, pc := if i < 4 then 8 else 16 } }
def wYield (clock : Nat) : State := { wg fun g => { g with hold := .yield 5 } with clock := clock }
def wReq : State := { w0 with pageReqs := [{ ctx := 1, vpn := 16, kind := 0 }] }

theorem witness_TranslationAndWaitEventsEndWaits :
    w0.trans 0 1 65536 3 false = (w0, .ok (.dpa 65536) false) ∧
    (∃ r ∈ wReq.pageReqs, r.ctx = 1 ∧ r.vpn = 65536 / 4096) ∧ (¬∃ r ∈ w0.pageReqs, r.ctx = 1 ∧ r.vpn = 65536 / 4096) ∧
    (wDead.runs (wDead.group 0) = true ∧ (∀ l ∈ (wDead.group 0).lanes, l.isActive = false ∧ l.isBlocked = false) ∧
      (∃ i < (wDead.group 0).lanes.length, Claims.joins (wDead.group 0) i) ∧ (wDead.group 0).waitDone = []) ∧
    ((wYield 4).group 0).hold = .yield 5 ∧ 5 ≤ (wYield 4).clock + 1 ∧ ((wYield 3).group 0).hold = .yield 5 ∧ (wYield 3).clock + 1 < 5 := by
  refine ⟨by decide, by decide, by decide, ⟨by decide, by decide, ⟨0, by decide, ⟨0, by decide⟩⟩, by decide⟩, by decide, by decide, by decide, by decide⟩

/-- The bytes of a launch entry: KIND, WIDTH, NGROUPS, DEPTH, NTEAMS 1 and CODE 65536. -/
def wEnt (kind width ngroups depth : Nat) : List (Nat × Byte) :=
  spread 69632 (natBytes 8 (kind + width * 2 ^ 8 + ngroups * 2 ^ 16 + depth * 2 ^ 32)) ++ [(69644, 1), (69658, 1)]

/-- Queue 0 of context 1 holds it at the mapped page of die 0; counter 0 is open. -/
def wSeq (kind width ngroups depth : Nat) : State := { w0 with
  mem := memPut w0.mem (wEnt kind width ngroups depth)
  tlbs := [{ place := { level := 2, idx := 0 }, ctx := 1, base := 65536, size := 65536, tgt := .dpa 65536, rp := true, wp := true, xp := true,
             tso := false, dirty := true }]
  launches := []
  counters := [(0, { ctx := 1, state := 1 })]
  clusters := [(0, { modes := [(0, 1)] })]
  queues := [(16, { base := 69632, logn := 4, en := true, prod := 1 })] }

/-- What the sequencer reads of it. -/
def wRead (s : State) : Prop := rdRange s (seqAcc s (.queue 16) 1 none false) (69632 + 256 * (0 % 2 ^ 4)) 256 = (s, .ok (s.bytes 69632 256))

set_option maxRecDepth 100000 in
theorem witness_SequencerEventsAccept :
    ((wSeq 1 8 1 64).queueReady 16 = true ∧ ((wSeq 1 8 1 64).queue 16).base = 69632 ∧ ((wSeq 1 8 1 64).queue 16).logn = 4 ∧ wRead (wSeq 1 8 1 64) ∧
      (wSeq 1 8 1 64).seqWrites = false ∧ (entryOf ((wSeq 1 8 1 64).bytes 69632 256)).kind = 1 ∧ (wSeq 1 8 1 64).waitOk 1 (entryOf ((wSeq 1 8 1 64).bytes 69632 256)).lcnt = true ∧
      { wSeq 1 8 1 64 with counters := [] }.waitOk 1 0 = false ∧ { wSeq 0 8 1 64 with counters := [] }.lcntOk 1 0 = false) ∧
    (wRead (wSeq 0 9 1 64) ∧ (wSeq 0 9 1 64).lcntOk 1 (entryOf ((wSeq 0 9 1 64).bytes 69632 256)).lcnt = true ∧
      (wSeq 0 9 1 64).entryCheck ((wSeq 0 9 1 64).bytes 69632 256) (entryOf ((wSeq 0 9 1 64).bytes 69632 256)) ≠ 0) ∧
    (let s := wSeq 0 64 16 512
     let e := entryOf (s.bytes 69632 256)
     s.entryCheck (s.bytes 69632 256) e = 0 ∧ e.capt = 0 ∧ s.entryFit e ≠ 0) ∧
    (let s := wSeq 0 8 1 64
     let e := entryOf (s.bytes 69632 256)
     wRead s ∧ s.entryCheck (s.bytes 69632 256) e = 0 ∧ e.capt = 0 ∧ s.entryFit e = 0 ∧ (s.counter e.lcnt).state = 1 ∧ e.gang = 0 ∧ e.gdom = 0) := by
  unfold wRead
  refine ⟨?_, ?_, ?_, ?_⟩ <;> decide

def wEnd : State := { w0 with counters := [(0, { ctx := 1, state := 1 }), (7, { ctx := 1, state := 1, level := 1, target := 1, done := 1, parent := 9 }),
  (8, { ctx := 1, state := 2, fin := 1 }), (9, { ctx := 1, state := 2, fin := 1, caddr := 65792, cval := 5 }),
  (10, { ctx := 1, state := 2, level := 1, fin := 2, parent := 7 })] }

/-- The same, its page in the TLB of the sequencer's die. -/
def wEndMem : State := { wEnd with tlbs := w0.tlbs.map fun e => { e with place := { level := 2, idx := 0 } } }
def wCancel : State := wg fun g => { g with cancelled := true }
def wTrapped : State := wg fun g => { g with records := [{ cause := .bkpt, pc := 0, lanes := 3 }] }

theorem witness_SequencerEventsEnd :
    (wEnd.counterDue 7 = true ∧ (wEnd.counter 7).fin = 0 ∧ (wEnd.counter 7).level ≠ 0) ∧
    (wEnd.counterDue 0 = true ∧ (wEnd.counter 0).fin = 0 ∧ (wEnd.counter 0).level = 0 ∧ wEnd.launchAt 0 = some 0 ∧
      (pushLaunch wEnd 0).writesOver 0 = true) ∧
    (wEnd.counterDue 8 = true ∧ (wEnd.counter 8).fin = 1 ∧ (wEnd.counter 8).caddr = 0) ∧
    (wEndMem.counterDue 9 = true ∧ (wEndMem.counter 9).fin = 1 ∧ (wEndMem.counter 9).caddr ≠ 0 ∧
      ∃ u, wrRange wEndMem { seqAcc wEndMem (.counter 9) 1 none false with code := counterCode 9 + 1 } 65792 (natBytes 8 5) = (u, .ok [])) ∧
    (wEnd.counterDue 10 = true ∧ 1 < (wEnd.counter 10).fin ∧ wEnd.unacked (counterCode 10) = false ∧ (wEnd.counter 10).parent ≠ 0xFFFF ∧
      (wEnd.counter 10).parent ≠ 10) ∧
    w0.counterDue 7 = false ∧
    (0 < wCancel.groups.length ∧ (wCancel.group 0).cancelled = true ∧ (wCancel.group 0).ended = false ∧ (wCancel.group 0).resident = true ∧
      (wCancel.group 0).priv = .user ∧ (wCancel.group 0).live ≠ []) ∧
    ((wTrapped.core 0).serves = none ∧ wTrapped.nextRecord 0 none = some (0, 0) ∧
      (wTrapped.group 0).records[0]? = some { cause := .bkpt, pc := 0, lanes := 3 } ∧ (wTrapped.core 0).slot = none) := by
  refine ⟨by decide, by decide, by decide, ⟨by decide, by decide, by decide, _, rfl⟩, by decide, by decide, by decide, by decide⟩

/-! ## Events of placement and of the matrix engine -/

/-- `w0` with a second team of its launch, as given; one launch of two teams. -/
def wPlace (t : Team) : State := { w0 with
  launches := w0.launches.map fun l => { l with made := 2, e := { l.e with nteams := 2 } }
  teams := w0.teams ++ [{ t with kteam := 1 }]
  dies := [(0, { map := [(0, some 0)], failedCores := [(0, 2), (0, 3)] })] }

/-- One core is usable; five wide groups of team 0 fill it, and one group of team 1 of another launch waits. -/
def wLoad (sl : Nat) (lo : Option (Nat × Nat × Option Nat)) (prio : Nat) : State := { w0 with
  launches := w0.launches ++ [{ ctx := 1, queue := 1, made := 1, e := { width := 64, depth := 512 } }]
  groups := List.replicate 5 { w0.me with width := 64, depth := 512 }
  teams := [{ launch := 0, st := .resident, groups := [0, 1, 2, 3, 4] }, { launch := 1, prio := prio, st := if lo.isSome then .loggia else .pending }]
  dies := [(0, { map := [(0, some 0)], failedCores := [(0, 1), (0, 2), (0, 3)] })]
  cores := [(0, { slice := sl, loggia := lo })] }

/-- Every lane of team 0 is blocked on a page. -/
def wFault : State := wg fun g => { g with lanes := g.lanes.map fun l => { l with st := .blocked (.page 1 99) } }
def wModes (m : Nat) (f : Fifo) (own : AMap Nat) : State := w0.modCluster 0 fun _ => { modes := [(3, m)], wanted := [(3, 2)], fifos := [(3, f)], owner := own }

theorem witness_PlacementEventsMoveTeams :
    ((wPlace {}).nextToPlace = some 1 ∧ ((wPlace {}).team 1).saved = false ∧ (wPlace {}).dieFor 1 = some (0, 1)) ∧
    (((wPlace { st := .offered 0 }).team 1).st = .offered 0 ∧ (wPlace { st := .offered 0 }).gangOf 1 = none ∧
      (wPlace { st := .offered 0 }).isSpanning 1 = false ∧ (wPlace { st := .offered 0 }).bestCore 1 0 = some 1 ∧
      (wPlace { st := .offered 0 }).dieFor 1 = some (0, 1)) ∧
    (((wPlace { st := .offered 3 }).team 1).st = .offered 3 ∧ (wPlace { st := .offered 3 }).bestCore 1 3 = none) ∧
    (1 < (wPlace {}).teams.length ∧ 7 < ((wPlace {}).launch ((wPlace {}).team 1).launch).e.width) ∧
    (let s := wPlace { saved := true, st := .swapped }
     s.nextToPlace = some 1 ∧ (s.team 1).saved = true ∧ s.dieFor 1 = some (0, 1) ∧ s.gangOf 1 = none ∧ s.isSpanning 1 = false) ∧
    (let s := wLoad 1 none 0
     (s.core 0).loggia = none ∧ (s.core 0).spilling = [] ∧ s.mayLoad 1 = true ∧ s.victimOn 0 1 = some 0 ∧ s.loadSwaps 0 1 0 = true) ∧
    (let s := wLoad 1 (some (1, 0, some 0)) 3
     (s.core 0).loggia = some (1, 0, some 0) ∧ (s.core 0).slice ≠ 0 ∧ (s.launch (s.team 0).launch).cancelled = false ∧ s.isSpanning 0 = false ∧ s.maySwapOut (s.unit 0) = true ∧ (s.without 0).fitsOn 1 0 = true ∧
      (s.team 1).prio = 3 ∧ (s.team 0).prio < 3) ∧
    (let s := wLoad 0 (some (1, 0, some 0)) 0; (s.core 0).loggia = some (1, 0, some 0) ∧ (s.core 0).slice = 0) ∧
    (0 < wFault.teams.length ∧ wFault.gangOf 0 = none ∧ wFault.faultWait 0 = true ∧ wFault.isSpanning 0 = false ∧ wFault.maySwapOut [0] = true) ∧
    (let s := w0.modCore 0 fun c => { c with spilling := [0] }
     (s.team 0).st ≠ .outgoing ∧ ((s.modTeam 0 fun t => { t with st := .outgoing }).team 0).st = .outgoing ∧
      (s.launch (s.team 0).launch).cancelled = false ∧ ((wl0 (fun l => { l with cancelled := true }) s).launch (s.team 0).launch).cancelled = true ∧
      0 ∈ (s.core (s.team 0).core).spilling ∧ (∀ g ∈ (s.team 0).groups, (s.group g).ended = true ∨ (s.group g).prvLines = []) ∧
      s.teamWrites 0 (s.team 0).core = false) ∧
    ((AMap.find ((wModes 0 {} []).cluster 0).wanted 3 = some 2 ∧ ((wModes 0 {} []).cluster 0).modes.get 0 3 = 0) ∧
      (((wModes 1 {} []).cluster 0).modes.get 0 3 = 1 ∧ AMap.find ((wModes 1 {} []).cluster 0).owner 3 = none) ∧
      AMap.find ((wModes 1 {} [(3, 0)]).cluster 0).owner 3 ≠ none ∧
      (((wModes 3 {} []).fifo 0 3).claim = none ∧ ((wModes 3 {} []).fifo 0 3).filled = 0 ∧ ((wModes 3 {} []).fifo 0 3).free = 1024) ∧
      ((wModes 3 { free := 1023 } []).fifo 0 3).free ≠ 1024) ∧
    (let s := (w0.modTeam 0 fun t => { t with st := .done }).modContext 1 fun c => { c with teardown := true }
     (s.context 1).teardown = true ∧ (∀ t ∈ s.teams, t.isSup = false → (s.launch t.launch).ctx = 1 → t.st = .done) ∧
      (∀ o ∈ s.engOps, o.ctx = 1 → o.status ≠ 0) ∧ ∀ c ∈ s.clusters, ∀ o ∈ c.2.mx.resv, o.ctx ≠ 1) := by
  refine ⟨?_, ?_, ?_, ?_, ?_, ?_, ?_, ?_, ?_, ?_, ?_, ?_⟩ <;> decide

/-- Cluster 0 with one set, given operations and tiles; its page is in the TLB of the cluster. -/
def wEng (resv : List MxOp) (mx : Matrix := {}) (tile : Tile := { owner := some 0 }) : State := { w0.modMx 0 fun _ => { mx with
    sets := [(0, { wSet with seq := 8, loaded := true })], tiles := [(1, tile)], resv := resv, nextId := 8 } with
  tlbs := [{ place := { level := 1, idx := 0 }, ctx := 1, base := 65536, size := 65536, tgt := .dpa 65536, rp := true, wp := true, xp := true,
             tso := false, dirty := true }]
  dies := [(0, { ring := [0] })]
  clock := 8192 }

/-- An operation of kind `k` on tile 1. -/
def wMo (k : Nat) (acc gr : Bool) (words : List UWord := []) : MxOp :=
  { set := 0, seq := 3, group := 0, kind := k, blk := 65536, tile := 1, ctx := 1, accepted := acc, granted := gr, words := words }

/-- A pass of e4m3 with M = 4 and K = 16, and a B tile for it. -/
def wWords : List UWord := [0x0000000800200401, 0, 0, 0x43]
def wB : BTile := { fmt := 3, bsz := 0, kb := 16 }
def wFeed (r : Nat) : Feed := { set := 0, seq := 3, row := r, member := 0, bytes := List.replicate 16 0, scales := [] }
def wFet : Fetch := { set := 0, seq := 3, row := 0, member := 0, group := 0, ctx := 1, va := 65792, vs := 0, nbytes := 64, nscales := 0,
                      tgt := .dpa 65792, stgt := .dpa 0 }

set_option maxRecDepth 100000 in
theorem witness_MatrixEventsAcceptAndGrant :
    ((wEng [wMo 2 false false]).mx 0).resv[0]? = some (wMo 2 false false) ∧
    (let s := wEng [wMo 0 false false]
     (wMo 0 false false).doomed = false ∧ (wMo 0 false false).closing = none ∧
      rdRange s (s.mxAcc 0 (wMo 0 false false) 1) 65536 256 = (s, .ok (s.bytes 65536 256))) ∧
    (((wEng [wMo 2 true false]).mx 0).resv[0]? = some (wMo 2 true false) ∧ (wMo 2 true false).since + 8192 ≤ (wEng []).clock ∧
      { wEng [] with clock := 8191 }.clock < (wMo 2 true false).since + 8192) ∧
    (let o := { wMo 2 true false with ends := some 22 }; (wEng [o]).best 0 1 = some o ∧ o.ends = some 22 ∧ (22 : Nat) ≠ 0) ∧
    ((wEng [wMo 2 true false]).best 0 1 = some (wMo 2 true false) ∧ (wMo 2 true false).ends = none ∧ (wEng [wMo 2 true false]).opCheck 0 (wMo 2 true false) = 0 ∧
      (wMo 2 true false).kind ∈ [2, 5, 6]) ∧
    (let s := wEng [{ wMo 3 true false with words := [0, 0, 0, 0, 65536, 128, 0x0100000000000000, 0x402000] }] {} { owner := some 0, st := .accumulating }
     ∃ o, s.best 0 1 = some o ∧ o.kind = 3 ∧ s.opCheck 0 o = 0 ∧ mxMayReach s 0 o = (s, .ok []) ∧ (s.tile 0 o.tile).stopped = none) ∧
    (let s := wEng [wMo 4 true false]
     let o := wMo 4 true false
     let r := o.report (s.opCheck 0 o)
     let u := wrRange s (s.mxAcc 0 o o.ctx) (o.blk + r.1) r.2
     s.best 0 1 = some o ∧ s.opCheck 0 o ≠ 0 ∧ u.2 = .ok [] ∧ u.1.unacked (mxCode 0 o.id) = false) ∧
    (0 < w0.groups.length ∧ ((wEng []).mset 0 0).members ≠ []) := by
  refine ⟨by decide, by decide, by decide, by decide, by decide, ⟨_, rfl, by decide, by decide, by decide, by decide⟩, by decide, by decide⟩

/-- A pass fed in every row, and a burst of enough cycles. -/
def wFed (gr : Bool) (burst : Option Nat) (tok : Bool) : State :=
  wEng [wMo 0 true gr wWords] { b := some wB, burst := burst, token := tok, feeds := (List.range 4).flatMap fun r => [wFeed r, { wFeed r with member := 1 }] }

set_option maxRecDepth 100000 in
theorem witness_MatrixEventsStreamPasses :
    (let s := wFed false (some 4096) true
     s.best 0 0 = some (wMo 0 true false wWords) ∧ s.opCheck 0 (wMo 0 true false wWords) = 0 ∧ burstRoom (s.mx 0) (wMo 0 true false wWords) = true ∧
      mxMayReach s 0 (wMo 0 true false wWords) = (s, .ok []) ∧ (s.tile 0 1).st ≠ .kept) ∧
    (let s := wFed false none false; (s.mx 0).token = false ∧ 0 % 24 ∈ (s.die 0).ring ∧ s.wantsToken 0 = true ∧ (s.mx 0).relCycle = 0) ∧
    (let s := wFed false none true; (s.mx 0).token = true ∧ (s.mx 0).burst = none ∧ (s.die 0).lastBurst = none) ∧
    (let s := wEng [] { token := true, burst := some 0 }; (s.mx 0).token = true ∧ s.burstOver 0 = true) ∧
    (let s := wEng [wMo 0 true true wWords] { fetches := [wFet] }
     (s.mx 0).fetches[0]? = some wFet ∧ wFet.nscales = 0 ∧ engReadAt s (Claims.feedAcc s 0 wFet) wFet.tgt 64 = (s, .ok (s.bytes 65792 64)) ∧
      (s.mx 0).resv.find? (fun o => o.set == 0 && o.seq == 3 && o.kind == 0) = some (wMo 0 true true wWords) ∧
      (wMo 0 true true wWords).streamed ≤ wFet.row / 4 ∧ ∀ x ∈ (s.mx 0).feeds, ¬ wFet.no < x.no) ∧
    (let s := wFed true (some 4096) true
     (s.mx 0).resv.find? (fun o => o.kind == 0 && o.granted) = some (wMo 0 true true wWords) ∧ 4 * 0 < (wMo 0 true true wWords).m ∧
      groupFed (s.mx 0) (wMo 0 true true wWords) 0 = true) ∧
    (let o := { wMo 0 true true wWords with streamed := 1 }
     let s := wEng [o] { b := some wB }
     (s.mx 0).resv.find? (fun o => o.kind == 0 && o.granted && (o.doomed || o.m ≤ 4 * o.streamed)) = some o ∧ (s.mx 0).b = some wB ∧
      o.doomed = false ∧ o.outcome ≠ 11 ∧ o.poisoned = false ∧
      let u := wrRange s (s.mxAcc 0 o o.ctx) (o.blk + (o.report 1).1) (o.report 1).2
      u.2 = .ok [] ∧ u.1.unacked (mxCode 0 o.id) = false) ∧
    (let o := { wMo 0 true true wWords with doomed := true }
     (wEng [o] { b := some wB }).mx 0 |>.resv.find? (fun o => o.kind == 0 && o.granted && (o.doomed || o.m ≤ 4 * o.streamed))) =
        some { wMo 0 true true wWords with doomed := true } ∧
    (let o := wMo 1 true true [0, 0, 67584, 0x87]
     let s := wEng [o]
     (s.mx 0).resv.find? (fun o => o.kind == 1 && o.granted) = some o ∧ blkFld o.words 207 198 = 2 ∧ Machine.isMx (blkFld o.words 195 192) = false ∧
      rdRange s (s.mxAcc 0 o o.ctx) (blkFld o.words 191 128) 512 = (s, .ok (s.bytes 67584 512))) ∧
    (((wEng [wMo 2 true true]).mx 0).resv.find? (fun o => o.kind == 2 && o.granted) = some (wMo 2 true true) ∧
      (wEng [wMo 2 true true]).unacked (mxCode 0 0) = false) := by
  refine ⟨?_, ?_, ?_, ?_, ?_, ?_, ?_, ?_, ?_, ?_⟩ <;> decide

/-- A drain of one row of 16 elements to the mapped page. -/
def wDr (out : Nat) : MxOp := { wMo 3 true true [0, 0, 0, 0, 66560, 128, 0, 256 + 16 * 2 ^ 17] with outcome := out }
def wSums (v : Word) : Tile := { owner := some 0, st := .checking, nb := 8, el := if v = 0 then [] else [(512 * 2 + 5, v)], abs := -256 }

set_option maxRecDepth 100000 in
theorem witness_DrainEventsCheckAndCommit :
    (let s := wEng [wMo 4 true true]
     (s.mx 0).resv.find? (fun o => o.kind == 4 && o.granted) = some (wMo 4 true true) ∧
      rdRange s (s.mxAcc 0 (wMo 4 true true) 1) (65536 + 64) 1 = (s, .ok [0]) ∧ rcount 0 = rlimit 0 ∧ (s.tile 0 1).ckptZero = true ∧
      s.unacked (mxCode 0 0) = false ∧
      let t := { s with mem := memPut s.mem [(65600, 32)] }
      rdRange t (t.mxAcc 0 (wMo 4 true true) 1) (65536 + 64) 1 = (t, .ok [32]) ∧ rcount 32 ≠ rlimit 32 ∧
      let u := wrRange t (t.mxAcc 0 (wMo 4 true true) 1) (65536 + 64) [33]
      u.2 = .ok [] ∧ u.1.unacked (mxCode 0 0) = false) ∧
    (let s := wEng [wMo 5 true true] {} { owner := some 0, loc := some (2, 5, 7, .fin false 1 0) }
     (s.mx 0).resv.find? (fun o => (o.kind == 5 || o.kind == 6) && o.granted) = some (wMo 5 true true) ∧
      (s.tile 0 1).loc = some (2, 5, 7, .fin false 1 0) ∧ s.unacked (mxCode 0 0) = false) ∧
    (let s := wEng [wDr 0] {} (wSums 0)
     let t := s.tile 0 1
     (s.mx 0).draining = some (wDr 0) ∧ (wDr 0).outcome = 0 ∧ (wDr 0).signed = false ∧ t.stopped = none ∧ (∀ i < 256, t.rowBad i (t.obsRow i) = false) ∧
      ∀ j < t.nb, t.colBad j (t.obsCol j) = false) ∧
    (let t := wSums 0x3F800000
     (∀ i < 256, t.rowBad i (t.obsRow i) = decide (i = 2)) ∧ (∀ j < t.nb, t.colBad j (t.obsCol j) = decide (j = 5)) ∧
      (t.fix 2 5).isSome = true) ∧
    (let o := { wDr 2 with bnd := some { lo := 0x3F800000, hi := 0x3F800000, action := 3 } }
     let s := wEng [o] {} (wSums 0)
     (s.mx 0).draining = some o ∧ o.outcome ≠ 0 ∧ 0 < o.dm ∧ drainRow o (s.tile 0 o.tile) (o.drow0 + 0) = none) ∧
    (let s := wEng [wDr 2] {} (wSums 0)
     (∀ r < (wDr 2).dm, drainRow (wDr 2) (s.tile 0 1) ((wDr 2).drow0 + r) ≠ none) ∧
      let u := drainRows 0 0 ((wDr 2).dm + 1) s
      u.2 = .ok [] ∧ ∃ p, (u.1.mx 0).draining = some p ∧ (drainFlush u.1 0 p).2 = true ∧ p.refused = false) ∧
    (let o := wDr 2
     let s := wEng [o] {} { wSums 0 with openBlk := 65536, openCtx := 1 }
     let t := s.tile 0 o.tile
     rdRange s (s.mxAcc 0 o o.ctx) (o.blk + 104) 16 = (s, .ok (s.bytes (65536 + 104) 16)) ∧ t.was = 1 ∧ { t with was := 2 }.was ≠ 1 ∧
      rdRange s (s.mxAcc 0 o t.openCtx) (t.openBlk + 64) 1 = (s, .ok [0]) ∧ rcount (([0] : List Byte).headD 0).toNat = 0 ∧
      let u := wrRange s (s.mxAcc 0 o o.ctx) (o.blk + 104) (commitRecord (s.bytes (65536 + 104) 16) o t (t.pend ||| BitVec.ofNat 64 o.fl) 0)
      u.2 = .ok [] ∧ u.1.unacked (mxCode 0 o.id) = false) := by
  refine ⟨?_, ?_, ?_, ?_, ?_, ⟨?_, ?_, _, rfl, ?_, ?_⟩, ?_⟩ <;> decide

/-! ## Events of the engines, of the fabric and of spanning gangs -/

/-- A transfer of one f32 element between mapped places, and a collective of one rank. -/
def wX : List UWord := [0x1000, 67584, 68608, 0x1000001, 0x400000004, 0, 0, 0, 0, 0, 0, 0, 0, 0, 0, 0]
def wC : List UWord := [0x80000000, 67584, 68608, 1, 0, 0, 0, 0, 0, 0, 0, 0, 0, 0, 0, 0]

/-- The state with one engine operation, its block in memory; its page is in the TLBs of the cluster and of the die. -/
def wOps (o : EngOp) (words : List UWord) : State := { w0 with
  engOps := [o]
  nextOp := 1
  mem := memPut w0.mem (spread 65664 (words.flatMap fun w => natBytes 8 w.toNat))
  trees := [(0, 0x30)]
  tlbs := [1, 2].map fun l => { place := { level := l, idx := 0 }, ctx := 1, base := 65536, size := 65536, tgt := .dpa 65536, rp := true, wp := true,
                                xp := true, tso := false, dirty := true } }

/-- A transfer that has begun, and a collective whose root has its own partial. -/
def wXr : EngOp := { wOp with accepted := true, words := wX, began := true }
def wCr : EngOp := { wOp with kind := 1, accepted := true, words := wC, began := true, met := true, tree := 0x30, part := [0] }

set_option maxRecDepth 100000 in
theorem witness_EngineEventsAccept :
    (let s := wOps wOp wX
     s.engOps[0]? = some wOp ∧ s.engMayBegin wOp = true ∧ rdRange s (s.engAcc wOp) 65664 128 = (s, .ok (s.bytes 65664 128)) ∧
      s.xferCheck (Claims.acceptedOp s wOp (s.bytes 65664 128)) = 0 ∧ (Claims.acceptedOp s wOp (s.bytes 65664 128)).fd 13 13 = 0) ∧
    (let s := wOps wOp (0x3000 :: wX.tail)
     s.xferCheck (Claims.acceptedOp s wOp (s.bytes 65664 128)) = 0 ∧ (Claims.acceptedOp s wOp (s.bytes 65664 128)).fd 13 13 = 1) ∧
    (let s := wOps wOp (7 :: wX.tail); s.xferCheck (Claims.acceptedOp s wOp (s.bytes 65664 128)) ≠ 0) ∧
    (let o := { wOp with kind := 1 }
     let s := wOps o wC
     let p := Claims.acceptedOp s o (s.bytes 65664 128)
     rdRange s (s.engAcc o) 65664 128 = (s, .ok (s.bytes 65664 128)) ∧ s.collCheck p = 0 ∧ p.fd 48 48 = 0 ∧ p.prog = 0 ∧ s.inbox = [] ∧
      (wOps o (7 :: wC.tail)).collCheck (Claims.acceptedOp (wOps o (7 :: wC.tail)) o ((wOps o (7 :: wC.tail)).bytes 65664 128)) ≠ 0 ∧
      p.tree.getLsbD 5 = true ∧ o.gone = false ∧
      let q := { o with gone := true }
      rdRange (wOps q wC) ((wOps q wC).engAcc q) 65664 128 = (wOps q wC, .ok ((wOps q wC).bytes 65664 128))) := by
  refine ⟨?_, ?_, ?_, ?_⟩ <;> decide

/-- A packet of child 1 for a collective of the root. -/
def wCol : EngOp := { wCr with tree := 0x10130, began := false }

set_option maxRecDepth 100000 in
theorem witness_EngineEventsComplete :
    (let s := wOps wXr wX
     s.engOps[0]? = some wXr ∧ s.engOps.find? (fun x => x.id == 0) = some wXr ∧ wXr.accepted = true ∧ wXr.status = 0 ∧ wXr.endStep = 0 ∧ wXr.kind = 0 ∧
      wXr.gone = false ∧ wXr.refused = false ∧ wXr.began = true ∧ (transferUnits (wXr.drows + 1) s 0).2 = .more ∧
      (transferBegin (wOps { wXr with began := false } wX) { wXr with began := false }).2 = .more) ∧
    (let o := { wXr with words := [0x1000, 67584, 2 ^ 40, 0x1000001, 0x400000004, 0, 0, 0, 0, 0, 0, 0, 0, 0, 0, 0] }
     let s := wOps o wX
     ∃ t c, transferUnits (o.drows + 1) s 0 = (t, .stop c)) ∧
    (let s := wOps wCr wC
     s.engOps[0]? = some wCr ∧ wCr.endStep = 0 ∧ wCr.gone = false ∧ wCr.mismatch = false ∧ wCr.peerLost = false ∧ wCr.refused = false ∧ wCr.met = true ∧
      wCr.began = true ∧
      let up := collUp s wCr
      let down := collDown up (up.engById 0 wCr)
      (collUnits (wCr.outCount + 1) down 0).2 = .more) ∧
    (let at_ (n caddr : Nat) : EngOp := { wXr with endStep := n, ending := 1, words := wX.take 8 ++ [BitVec.ofNat 64 caddr, 7] ++ wX.drop 10 }
     let s (n caddr : Nat) : State := wOps (at_ n caddr) wX
     (s 1 0).engOps.find? (fun x => x.id == 0) = some (at_ 1 0) ∧ (at_ 1 0).out = [] ∧ (at_ 1 0).obuf = [] ∧ (s 1 0).unacked (engCode 0) = false ∧
      (wrRange (s 2 0) ((s 2 0).engAcc (at_ 2 0)) (at_ 2 0).record.1 (at_ 2 0).record.2).2 = .ok [] ∧ (s 3 0).unacked (engCode 0) = false ∧
      (at_ 4 0).caddr = 0 ∧ (at_ 4 4).caddr % 8 ≠ 0 ∧ (at_ 4 65792).caddr % 8 = 0 ∧
      (wrRange (s 4 65792) ((s 4 65792).engAcc (at_ 4 65792)) 65792 (natBytes 8 7)).2 = .ok [] ∧ (s 5 0).unacked (engCode 0) = false) ∧
    (let m : ColMsg := { die := 0, cid := 0, frm := 1, dir := 0, blk := 0, data := [], hdr := wCol.header }
     m.isFor wCol = true ∧ m.hdr ≠ [26] ∧ 5 ∉ wCol.children ∧ wCol.isRoot = true ∧ 1 ∈ wCol.children ∧ wCol.ckind < 2 ∧ wCol.header ≠ [9] ∧ wCol.header ≠ wCol.agree ∧ wCol.waitsOn 1 = true ∧
      (let o : EngOp := { wCr with tree := 0, met := false }
       o.isRoot = false ∧ o.parent = 0 ∧ o.children = []) ∧
      let f : DupFilter := { flr := 3, seen := [(4, (0, 0))] }
      2 < f.flr ∧ f.flr ≤ 4 ∧ (f.seen.find 4).isSome = true ∧ f.flr ≤ 5 ∧ f.seen.find 5 = none) ∧
    (let o : EngOp := { wOp with kind := 1 }
     let s := wOps o wC
     let m : ColMsg := { die := 0, cid := 3, frm := 1, dir := 0, blk := 0, data := [], hdr := [9] }
     (∀ o ∈ s.engOps, m.isFor o = false) ∧ (sendAnswer (noteSeen s 1 5 0 0) 1 s.kdev 5 true 0 []).lateNotice m = none ∧ o.kind = 1 ∧
      o.accepted = false ∧ o.status = 0 ∧ dieOf o.core = 0) := by
  refine ⟨?_, ⟨_, _, rfl⟩, ?_, ?_, ?_, ?_⟩ <;> decide

/-- Window 1 of peer 2: 64 KiB of device memory from 0x10000, with the permissions in `p`. -/
def wWin (p : UWord) : State := { w0 with windows := [(33, 0x100000010001 + p)] }

/-- A tagged load of lane 0, a tagged store, and one sent four times. -/
def wReqL : FabReq := { peer := 2, seq := 5, tagged := true, kind := 0, off := 0, size := 4, core := 0, group := 0,
                        dst := some { group := 0, lane := 0, slot := .glob 4, pair := false }, ext := true }
def wReqS (n : Nat) : FabReq := { peer := 2, seq := 5, tagged := true, kind := 1, off := 0, size := 4, core := 0, group := 0, sends := n, path := 1,
                                  writers := [(0, 65536)] }
/-- A line that the code of group 0 asks for, and a store of three issues to one line that awaits two more acknowledgements. -/
def wReqC : FabReq := { wReqL with dst := none, size := 128, who := some (.code 0) }
def wReqM : FabReq := { wReqS 1 with acks := 2 }
def wAsk (r : FabReq) : State := { wg (fun g => g.modLane 0 fun l => { l with st := .blocked .remote }) with
  fabReqs := [r]
  route := [(2, 0x270), (3, 0x11)]
  links := [0, 1] }

theorem witness_FabricEventsServeAndAnswer :
    (let s := wWin 2
     let w := s.windows.get 0 (16 * 2 + 1)
     winOk w = true ∧ 256 < 2 ^ fld w 45 40 ∧ winBase w + 256 < dpaLimit ∧ w.getLsbD 1 = true ∧ ∀ x ∈ linesOf (winBase w + 256) 300, s.snoopNeeded x false = false ∧ s.lineClass x = 0) ∧
    (((wWin 4).windows.get 0 33).getLsbD 1 = false ∧ winOk ((wWin 4).windows.get 0 33) = true) ∧
    (let s := { wWin 4 with filters := [(2, { flr := 3, seen := [(4, (0, 0))] })] }
     let f := s.filters.get {} 2
     winOk (s.windows.get 0 33) = true ∧ winBase (s.windows.get 0 33) + 256 < dpaLimit ∧ 2 ≠ s.kdev ∧ 3 ≤ f.flr ∧ f.seen.find 4 = some (0, 0) ∧ f.flr ≤ 4 ∧ 2 < f.flr ∧ f.seen.find 5 = none ∧ f.flr ≤ 5 ∧
      Claims.NotInService s 2 5 ∧ (s.windows.get 0 33).getLsbD 2 = true ∧ Claims.OneGoodLine s (winBase (s.windows.get 0 33) + 256) 4) ∧
    (let s := wAsk wReqL
     s.reqAt 2 5 true = some wReqL ∧ 2 ∉ wReqL.acked ∧ 3 ∈ { wReqL with acked := [3] }.acked ∧ wReqL.acks ≤ 1 ∧ wReqL.who = none ∧ wReqL.kind = 0 ∧ wReqL.cmp = 0 ∧ wReqL.acq = 0 ∧ wReqL.unif = false ∧
      (s.group 0).ended = false ∧ ((s.group 0).lane 0).st = .blocked .remote ∧ ((s.group 0).lane 0).pc = wReqL.pc) ∧
    (let s := wAsk (wReqS 1)
     s.reqAt 2 5 true = some (wReqS 1) ∧ (wReqS 1).acks ≤ 1 ∧ (wReqS 1).who = none ∧ (wReqS 1).dst = none ∧ (wReqS 1).kind = 1 ∧ (wReqS 1).eng = 0 ∧
      (wReqS 1).writers = [(0, 65536)] ∧ (wReqS 1).sends < 4 ∧
      s.otherPath 2 (wReqS 1).path ≠ 0) ∧
    (let s := wAsk (wReqS 4)
     s.reqAt 2 5 true = some (wReqS 4) ∧ 4 ≤ (wReqS 4).sends ∧ (wReqS 4).who = none ∧ (wReqS 4).writers = [(0, 65536)] ∧ (wReqS 4).dst = none ∧ (wReqS 4).kind = 1 ∧ (wReqS 4).eng = 0 ∧
      ∀ l ∈ s.launches, l.e.gdom = 0) ∧
    ((wAsk wReqC).reqAt 2 5 true = some wReqC ∧ wReqC.acks ≤ 1 ∧ (wAsk wReqM).reqAt 2 5 true = some wReqM ∧ 1 < wReqM.acks) ∧
    ((wAsk wReqL).path 3 = 1 ∧ w0.path 3 ≠ 1 ∧ 4 ∉ (wAsk wReqL).links) ∧
    (mcValid (w0.mcast.get 0 5) = false ∧
      let s : State := { w0 with mcast := [(5, 0x0000000110018000)] }
      let e := s.mcast.get 0 5
      let x := s.filters.get {} (mcFilter 2 5)
      mcValid e = true ∧ e.getLsbD 15 = true ∧ 256 < mcSize e ∧ mcBase e + 256 < dpaLimit ∧ mcSize e ≤ 65536 ∧ x.seen.find 9 = none ∧ x.flr ≤ 9 ∧
        Claims.NotInService s (mcFilter 2 5) 9 ∧ Claims.OneGoodLine s (mcBase e + 256) 4) := by
  unfold Claims.OneGoodLine Claims.NotInService
  refine ⟨?_, ?_, ?_, ?_, ?_, ?_, ?_, ?_, ?_⟩ <;> decide

/-- A domain launch of devices 0 and 1 with GKEY 7, whose gang 0 has two members here; this device is `dev`. -/
def wSpan (dev : Nat) (st : TeamSt) : State := { w0 with
  kdev := dev
  launches := w0.launches.map fun l => { l with made := 2, e := { l.e with gang := 4, nteams := 4, gdom := 3, gkey := 7 } }
  gangs := [{ launch := 0, idx := 0, n := 4 }]
  teams := [{ launch := 0, st := st, groups := [0] }, { launch := 0, kteam := 1, st := st }] }

theorem witness_SpanningGangEventsCoordinateDevices :
    (w0.spanLaunch 7 = none ∧ w0.spanGang 7 0 = none ∧ [1, 7, 0] ∉ w0.readies) ∧
    (let s := wSpan 0 .reserved
     s.spanLaunch 7 = some 0 ∧ 5 ∉ (s.launch 0).e.devs ∧ 1 ∈ (s.launch 0).e.devs ∧ (s.launch 0).e.nteams ≠ 8 ∧ s.spanGang 7 0 = some 0 ∧
      (s.launch (s.gangs.getD 0 {}).launch).e.devs.headD 0 = s.kdev ∧
      (∀ d ∈ (s.launch (s.gangs.getD 0 {}).launch).e.devs, d = 1 ∨ [d, 7, 0] ∈ { s with readies := [[0, 7, 0]] }.readies) ∧
      (s.members 0).filter (fun t => (s.team t).st == .reserved) ≠ [] ∧ 0 < (s.launch 0).e.nteams / max (s.launch 0).e.gang 1 ∧
      (s.launch 0).e.nteams / max (s.launch 0).e.gang 1 ≤ 1 ∧ 1 ∉ (s.gangs.getD 0 {}).swapReplies) ∧
    ((wSpan 0 .resident).members 0).filter (fun t => ((wSpan 0 .resident).team t).st == .reserved) = [] ∧
    (let s := { wSpan 1 .resident with saveFrames := 1 }
     (s.launch (s.gangs.getD 0 {}).launch).e.devs.headD 0 ≠ s.kdev ∧ (7, 0) ∉ s.swapReqs ∧ (s.gangs.getD 0 {}).parked = false ∧
      ∃ t r, (s.members 0).filter (fun t => (s.team t).st == .resident) = t :: r ∧ s.maySwapOut (s.unit t) = false) ∧
    (let s := { wSpan 1 .resident with teams := [{ launch := 0, st := .resident, groups := [0] }, { launch := 0, kteam := 1, st := .done }] }
     ∃ t r, (s.members 0).filter (fun t => (s.team t).st == .resident) = t :: r ∧ s.maySwapOut (s.unit t) = true) ∧
    ((wSpan 1 .reserved).members 0).filter (fun t => ((wSpan 1 .reserved).team t).st == .resident) = [] ∧
    (let s := { wSpan 0 .reserved with filters := [(1, { flr := 3, seen := [(4, (0, 0))] })] }
     let f : DupFilter := AMap.get ({} : DupFilter) s.filters 1
     3 ≤ f.flr ∧ 2 < f.flr ∧ f.flr ≤ 4 ∧ f.seen.find 4 = some (0, 0) ∧ f.flr ≤ 5 ∧ f.seen.find 5 = none ∧
      Claims.NotInService s 1 5 ∧ 1 ≠ s.kdev) ∧
    ((∀ d ∈ ((wSpan 0 .reserved).launch 0).e.devs, ∃ a ∈ [[0, 7], [1, 7]], a.getD 0 0 = d ∧ a.getD 1 0 = 7) ∧
      ((wSpan 0 .reserved).launch 0).e.devs.headD 0 = (wSpan 0 .reserved).kdev ∧
      w0.lastSpan 7 = none ∧ (7, 0x13) ∉ w0.early ∧ (7, 7) ∉ w0.early) := by
  unfold Claims.NotInService
  refine ⟨by decide, by decide, by decide, ⟨by decide, by decide, by decide, 0, [1], by decide, by decide⟩, ⟨0, [], by decide, by decide⟩, by decide, by decide,
    by decide⟩

/-! ## Events of the host, of recovery and of firmware; the machine -/

/-- A host read of lane 0 outstanding, and a mailbox record whose reply lands in `v4`. -/
def wHreq : HostReq := { kind := 0, addr := 4096, size := 4, core := 0, group := 0, dst := some { group := 0, lane := 0, slot := .glob 4, pair := false },
                         ext := true, sent := true }
def wHost (r : HostReq) : State := { wg (fun g => g.modLane 0 fun l => { l with st := .blocked .remote }) with hostReqs := [r] }
def wMailed : State := w0.modTeam 0 fun t => { t with mail := [{ seq := 0, addr := 65792, group := 0, cap := 3, dst := [(0, .glob 4)] }] }

theorem witness_HostAccessesAndAnswers :
    (65792 < w0.hdm * 2 ^ 30 ∧ w0.filterFull (lineOf 65792) = none ∧ w0.lineClass 65792 = 0 ∧ w0.recalWaits (lineOf 65792) = false) ∧
    (w0.hdm * 2 ^ 30 ≤ 1020 * 2 ^ 30 ∧ 65792 + 128 ≤ w0.hdm * 2 ^ 30) ∧ Claims.OneGoodLine w0 65792 128 ∧
    ([(1 : Byte)].length ≤ 128 ∧ 0 < [(1 : Byte)].length) ∧ w0.ownedLine (lineOf 4096) = none ∧
    { w0 with owned := [(4096, [1])] }.ownedLine (lineOf 4100) = some [1] ∧
    ((wHost { wHreq with sent := false }).hostReqs[0]? = some { wHreq with sent := false } ∧
      (wHost { wHreq with who := some (.code 0), dst := none }).hostReqs[0]? = some { wHreq with who := some (.code 0), dst := none }) ∧
    ((wHost { wHreq with kind := 1, dst := none }).hostReqs[0]? = some { wHreq with kind := 1, dst := none } ∧ wHreq.tso = false ∧ wHreq.eng = 0) ∧
    (let s := wHost wHreq
     s.hostReqs[0]? = some wHreq ∧ wHreq.sent = true ∧ wHreq.who = none ∧ wHreq.cmp = 0 ∧ wHreq.acq = 0 ∧ wHreq.unif = false ∧ (s.group 0).ended = false ∧
      ((s.group 0).lane 0).st = .blocked .remote ∧ ((s.group 0).lane 0).pc = wHreq.pc ∧ (s.group 0).priv = .user ∧ 0 < (s.group 0).lanes.length) ∧
    (w0.mailPending 1 65792 = false ∧ (1, 65792) ∉ w0.doorbells ∧ w0.mailAt 1 65792 = none) ∧
    ((1, 65792) ∈ { w0 with doorbells := [(1, 65792)] }.doorbells) ∧
    (let s := wMailed
     s.mailPending 1 65792 = false ∧ (1, 65792) ∉ s.doorbells ∧
      s.mailAt 1 65792 = some (0, { seq := 0, addr := 65792, group := 0, cap := 3, dst := [(0, .glob 4)] }) ∧
      s.trans (s.team 0).core 1 65792 0 false = (s, .ok (.dpa 65792) false) ∧ (∀ l ∈ linesOf 65792 320, s.snoopNeeded l false = false) ∧
      s.lineClass (65792 + 64) = 0 ∧
      (s.group 0).ended = false ∧ 0 < (s.group 0).lanes.length ∧ ((s.group 0).lane 0).isExited = false ∧ 0 < s.groups.length) := by
  unfold Claims.OneGoodLine
  refine ⟨?_, ?_, ?_, ?_, ?_, ?_, ?_, ?_, ?_, ?_, ?_, ?_⟩ <;> decide

/-- A context descriptor that is valid, and a device at rest. -/
def wDesc : List UWord := [1, 0, 0, 0, 0, 0, 0, 0]
def wRest : State := w0.modTeam 0 fun t => { t with st := .done }

theorem witness_HostRegisterWritesAct :
    (65535 < 65536 ∧ (wCtr.counter 5).ctx = 1 ∧ (wCtr.counter 6).ctx ≠ 1) ∧
    ((w0.context 1).valid = true ∧ (wDesc.getD 0 0).getLsbD 0 = true ∧ (0 : UWord).getLsbD 0 ≠ true) ∧
    ((w0.context 1023).valid = false ∧ (w0.context 1023).teardown = false ∧ descReserved wDesc = false ∧ descMisaligned wDesc = false ∧
      ((wDesc.getD 0 0).getLsbD 2 = true → (wDesc.getD 0 0).getLsbD 1 = true)) ∧
    (let d : List UWord := [0x1001, 0, 0, 0, 0, 0, 0, 0]
     (∀ y ∈ w0.contexts, y.1 ≠ 1023 → y.2.valid = true → y.2.d 0 31 12 ≠ fld (d.getD 0 0) 31 12) ∧
      ∃ y, y < 1024 ∧ y ≠ 1023 ∧ (w0.context y).valid = true ∧ (w0.context y).d 0 31 12 = fld (wDesc.getD 0 0) 31 12) ∧
    (Claims.Quiet wRest ∧ ¬Claims.Quiet w0 ∧ w0.ckptRun = none ∧ (2 : UWord).getLsbD 0 = false ∧
      ((1 : UWord).getLsbD 0 = true ∧ (1 : UWord).getLsbD 1 = false ∧ (3 : UWord).getLsbD 0 = true ∧ (3 : UWord).getLsbD 1 = true) ∧
      (let s := { wRest with ckptRun := some (4096, false) }; s.ckptRun = some (4096, false) ∧ ∀ h ∈ s.hostLines, h.2 = false) ∧
      let s := { wRest with ckptRun := some (4096, true), ckptImage := some (4096, []) }
      s.ckptRun = some (4096, true) ∧ s.ckptImage = some (4096, []) ∧ s.hostLines = []) ∧
    (wLoggia.core 0).loggia = some (1, 0, some 5) ∧
    ((wRte 3).selGroup 0 = some 0 ∧ ((wRte 3).regSel 0).2.2 = false ∧ ((wRte 3).core 0).regKind = 0) := by
  unfold Claims.Quiet
  refine ⟨by decide, by decide, by decide, ⟨by decide, ⟨1, by decide, by decide, by decide, by decide⟩⟩, by decide, by decide, by decide⟩

/-- Launch 0 as `f` makes it. -/
def wRoll (f : Launch → Launch) : State := wl0 f w0
def wBox : State := (wRest.modTeam 0 fun t => { t with core := 5 }).modDie 0 fun d => { d with boxBusy := true, boxReq := 1, boxArg := 2 }
def wChunk (prio : Nat) : State := { (w0.modCore 8 fun c => { c with chunk := some 4, chunkBy := some (0, 11) }).modGroup 0 fun g =>
    { g with hold := .scan 8 } with
  teams := w0.teams ++ [{ launch := 0, prio := prio }] }

set_option maxRecDepth 100000 in
theorem witness_RecoveryEventsRestore :
    ((11 : Nat) ≤ 15 ∧ (15 : Nat) < 16 ∧ decodeLine 1 ([].take (32 * tagSectors 1) ++ List.replicate 128 0) = some (List.replicate 128 0) ∧ (10 : Nat) < 11 ∧
      decodeLine 2 (([0, 0, 0, 0, 1] : List Byte).take (32 * tagSectors 2) ++ List.replicate 128 0) = none) ∧
    (w0.launches.length ≤ 1 ∧ ((wRoll fun l => { l with finished := true }).launch 0).finished = true) ∧
    (0 < w0.launches.length ∧ (w0.launch 0).finished = false ∧ (w0.launch 0).rolling = false ∧ (w0.launch 0).accepted = true ∧ w0.ending 0 = false ∧
      (w0.launch 0).e.snap = false) ∧
    (((wRoll fun l => { l with e := { l.e with snap := true }, unprotected := true }).launch 0).unprotected = true ∧
      ((wRoll fun l => { l with e := { l.e with snap := true } }).launch 0).e.snap = true ∧
      ((wRoll fun l => { l with e := { l.e with snap := true } }).launch 0).unprotected = false ∧
      (wRoll fun l => { l with e := { l.e with snap := true }, unprotected := true }).unitCopies 0 = []) ∧
    (let s := wRoll fun l => { l with rolling := true, snaps := [{ unit := 1, bytes := [(65537, 3)] }] }
     (s.launch 0).rolling = true ∧ s.enginesOver 0 = true ∧ s.writesOver 0 = true ∧ s.rollCancelled 0 = false ∧ s.unitCopies 0 = [] ∧ (∀ sn ∈ (s.launch 0).snaps, sn.exp = false) ∧
      Memory.wf [(65537, 3)] ∧ ∀ c ∈ [(65537, (3 : Byte))], unitOf c.1 = 1) ∧
    (∀ x ∈ { w0 with launches := [] }.launches, x.finished = true) ∧ (w0.die 0).boxBusy = false ∧
    (let d := wBox.die 0
     d.boxBusy = true ∧ d.boxReq = 1 ∧ d.boxArg < 384 ∧ dieOf d.boxArg = 0 ∧ d.removeStep = 0 ∧ { d with removeStep := 2 }.removeStep = 2 ∧
      { d with good := [0] }.spare = none ∧ d.map.get none (clusterOf d.boxArg % 24) = some 0 ∧
      (∀ i < 4, let c := wBox.core (4 * clusterOf d.boxArg + i); c.loggia = none ∧ c.red = [] ∧ c.wcb = []) ∧
      ∀ t ∈ wBox.teams, t.isSup = false → clusterOf t.core = clusterOf d.boxArg → t.st ≠ .resident ∧ t.st ≠ .outgoing ∧ t.st ≠ .reserved) ∧
    (((wChunk 0).core 8).chunk = some 4 ∧ ((wChunk 0).core 8).chunkBy = some (0, 11) ∧ ((wChunk 0).group 0).hold = .scan 8 ∧
      0 < (wChunk 0).groups.length ∧ (wChunk 0).urgent 8 = false ∧ (wChunk 3).urgent 8 = true) := by
  refine ⟨?_, ?_, ?_, ?_, ?_, ?_, ?_, ?_, ?_⟩ <;> decide

/-- A power-on that finds 20 good clusters in each die, or fewer. -/
def wPow (n image : Nat) : PowerReport :=
  { imageA := image, imageB := image, microcode := 0, routes := [], mcasts := [], trees := [], windows := [], rings := [(30, 9)], stage3 := (0, 0, 0), good := List.replicate 4 (List.range n), stage4 := (0, 0, 0), interleave := 64, saveFrames := 768,
    snapFrames := 16, hdm := 512, hostRanges := [(0, 2 ^ 40, 2)], portsUp := [0], kdev := 1, domSize := 8 }
def wImg (k : Bool) : ImageCheck := { sigOk := true, keyOk := k, versionOk := true, digest := 7 }

theorem witness_FirmwareEventsServeTheDevice :
    ((Claims.firstImage w0.firm (wPow 20 0) = 0 ∨ Claims.secondImage w0.firm (wPow 20 0) = 0) ∧ (wPow 20 0).microcode = 0 ∧ (wPow 20 0).stage3.1 = 0 ∧ (wPow 20 0).stage4.1 = 0 ∧
      ∀ d < 4, 20 ≤ (goodOf (wPow 20 0) d).length) ∧
    ((Claims.firstImage w0.firm (wPow 20 3) ≠ 0 ∧ Claims.secondImage w0.firm (wPow 20 3) ≠ 0) ∧ ∃ d < 4, (goodOf (wPow 19 0) d).length < 20) ∧
    (w0.firm.runsB = false ∧ { w0.firm with runsB := true }.runsB = true ∧ passes (wImg true) = true ∧ passes (wImg false) = false) ∧
    ({ w0.firm with safe := true }.safe = true ∧ w0.firm.safe = false ∧ (3 : Nat) < 4 ∧ w0.firm.recal = none ∧ (14 : Nat) ≤ 14 ∧ (15 : Nat) ≤ 15 ∧
      { w0.firm with recal := some (false, 0) }.recal = some (false, 0)) ∧
    ((4 : Nat) ≤ 4 ∧ { w0.firm with microcode := some 7 }.microcode = some 7 ∧ w0.firm.recalPeers = []) ∧
    ((15 : Nat) < 16 ∧ (63 : Nat) < 64 ∧ (255 : Nat) < 256) := by
  refine ⟨?_, ?_, ?_, ?_, ?_, ?_⟩ <;> decide

theorem witness_RegistersAndAttestationAnswer :
    (5 ≤ (100 : UWord).toNat ∧ (100 : UWord).toNat ≤ 100) ∧ (7 : Nat) ≠ 0 ∧ 1 ≤ 6 ∧ (6 : Nat) ≤ 6 ∧ (8 : Nat) < 9 := by decide

/-- `w0` with the words of a program at its PC. -/
def wRun (w : Nat) : State := placeWord State.reset w

theorem witness_StepRunsTheDecodedInstruction :
    (let s := wRun 0xD8000000
     let i : Issue := { group := 0, pc := 0 }
     s.agenda = [] ∧ s.firm.safe = false ∧ s.issues = i :: [] ∧ s.live i = true ∧
      let f := fetchWord (Claims.issuing s i []) 0 (s.codeVa 0 0) (Claims.noPage (Claims.issuing s i []) i)
      f.2 = .word 0xD8000000 ∧ (0xD8000000 < 2 ^ 31 → False) ∧ decode 0xD8000000 0 = .ok (.barSync (wu 0 0 0 0)) 4) ∧
    (let s := wRun (0x010C203A + 2 ^ 32 * 0x7FFFFFFB)
     let i : Issue := { group := 0, pc := 0 }
     let f := fetchWord (Claims.issuing s i []) 0 (s.codeVa 0 0) (Claims.noPage (Claims.issuing s i []) i)
     f.2 = .word 0x010C203A ∧ 0x010C203A < 2 ^ 31 ∧ Nat.testBit 0x010C203A 1 = true ∧
      (fetchWord f.1 0 (f.1.codeVa 0 4) false).2 = .word 0x7FFFFFFB ∧ ∃ x, decode 0x010C203A 0x7FFFFFFB = .ok x 8) ∧
    (decode 0x80000000 0 = .bad .uniformOpcode ∧ decode 0x010C21BA 0x7FFFFFFB = .bad .field ∧ decode 0x010C203A 0xC0000000 = .bad .field ∧
      Nat.testBit 0x28000002 1 = true ∧ w0.answers = []) ∧ (∀ y, ∃ e, decode 0x28000002 y = .bad e) ∧
    (let s := wRun 0xD8000000
     s.trans 0 (s.ctxOf (s.group 0)) 65536 3 false = (s, .ok (.dpa 65536) false) ∧ 65536 % 4 = 0 ∧ s.lineClass 65536 = 0 ∧
      s.snoopNeeded 65536 false = false ∧ (∀ i ∈ (s.group 0).run 0, ((s.group 0).lane i).marked = []) ∧ (∀ st ∈ s.stores, st.core ≠ 0) ∧ (s.core 0).red = [] ∧ s.caches = []) ∧
    { w0 with agenda := [.warmReset] }.agenda = .warmReset :: [] := by
  refine ⟨by decide, ⟨by decide, by decide, by decide, by decide, ⟨_, rfl⟩⟩, by decide, fun y => ⟨.laneOpcode, rfl⟩, by decide, rfl⟩

theorem witness_RegisterWordsChangeNothingElse :
    (w0.me.priv = .user ∧ (∀ i ∈ w0.myRun, (w0.me.lane i).marked = []) ∧ Claims.registerWords ≠ [] ∧ Claims.uniformWords ≠ []) ∧ 0 ∈ w0.myRun ∧
    (Claims.OneAccess wMem (wx 4 12 6 (wmx 1 4)) 0 1 0 0 0 0 4 ∧ (wMem.me.lane 0).gaps 0 6 false = [] ∧
      Claims.stored wMem (wx 4 12 6 (wmx 1 4)) 0 = some (0, 0) ∧ wMem.me.priv = .user ∧ (60 : Int) + ldBytes 4 ≤ (wMem.launch (wMem.team 0).launch).e.scratch) := by
  refine ⟨⟨by decide, by decide, by simp [Claims.registerWords, Claims.intWords], by simp [Claims.uniformWords, Claims.kaluWords]⟩, by decide, ?_⟩
  unfold Claims.OneAccess State.Drained
  decide

theorem witness_SpecWordsDecode : ∀ p ∈ Claims.specWords.take 1, (p.1, p.2.1) = (0x333051BA, 0x1421A001) := by decide

theorem witness_EncodedWordsDecodeToThemselves :
    ((Instr.iadd (wl 63 63 63)).wellFormed = true ∧ (Instr.iadd (wl 63 63 63)).isWord = true) ∧
    ((Instr.bru (wu 31 31 23 1023)).wellFormed = true ∧ (Instr.bru (wu 31 31 23 1023)).isWord = true) ∧
    decode 0xD8000000 0 = .ok (.barSync (wu 0 0 0 0)) 4 := by decide

theorem witness_EveryStepKeepsMemoryCanonical : State.reset.Ok ∧ ∃ t, Machine.step State.reset = .next t :=
  ⟨by unfold State.Ok; decide, ⟨_, rfl⟩⟩

end Sys2Proof.Tests
end

section
/-! O52: the writes of plain registers (R7, R333, R336, R338, R416, R485) and the SPDM responder (R426, R427). -/

namespace Sys2Proof.Machine

/-! ## Plain registers -/

/-- The upper half of a 64-bit value needs no cut: its quotient by 2^32 already fits. -/
theorem fld_upper_half (v : UWord) : fld v 63 32 = v.toNat / 2 ^ 32 := by
  have hv : v.toNat < 2 ^ 64 := v.isLt
  simp only [fld]
  omega

theorem fld_lower_half (v : UWord) : fld v 31 0 = v.toNat % 2 ^ 32 := by simp [fld]

/-- TARGET and DONE are the two halves of the first word of a counter (R338). -/
theorem exec_registerWrite_counterLo (c : Nat) (v : UWord) (s : State) :
    exec (.registerWrite (.counterLo c) v) s =
      .next (s.modCounter c fun x => { x with target := v.toNat % 2 ^ 32, done := v.toNat / 2 ^ 32 }) := by
  rw [← fld_lower_half, ← fld_upper_half]
  rfl

/-- A time limit in the range that the register accepts is taken. -/
theorem exec_registerWrite_timeout {v : UWord} (s : State) (hlo : 5 ≤ v.toNat) (hhi : v.toNat ≤ 100) :
    exec (.registerWrite .timeout v) s = .next { s with timeout := v.toNat } :=
  congrArg Host.Outcome.next (if_pos ⟨hlo, hhi⟩)

/-! ## Replies of the SPDM responder -/

/-- Only slot 0 holds a chain (R427). -/
theorem exec_getCertificate_of_ne {slot : Nat} (s : State) (h : slot ≠ 0) :
    exec (.getCertificate slot) s = .next (Claims.said s 0x7F [1] []) :=
  congrArg Host.Outcome.next (if_neg h)

theorem exec_challenge_of_ne {slot : Nat} (nonce : BitVec 256) (s : State) (h : slot ≠ 0) :
    exec (.challenge slot nonce) s = .next (Claims.said s 0x7F [1] []) :=
  congrArg Host.Outcome.next (if_pos h)

/-- A measurement asked for alone is reported by its index; its signature, where one is asked for, takes the next draw. -/
theorem exec_getMeasurements_of_index {i : Nat} (isSigned : Bool) (s : State) (hlo : 1 ≤ i) (hhi : i ≤ 6) :
    exec (.getMeasurements i isSigned) s = .next (
      if isSigned then signed s fun t sig => Claims.said t 0x60 [i] (natBytes 48 (s.measured i).toNat ++ sig)
      else Claims.said s 0x60 [i] (natBytes 48 (s.measured i).toNat)) := by
  have h0 : i ≠ 0 := by omega
  have h255 : i ≠ 255 := by omega
  show execGetMeasurements i isSigned s = _
  simp only [execGetMeasurements, if_neg h0, if_neg h255, if_pos hhi]
  rfl

/-- A command byte outside R494's list is answered with completion 1. -/
theorem exec_unlistedCommand {code : Nat} (s : State) (h : code = 0 ∨ 8 < code) :
    exec (.spdmUnsupportedRequest (.command code)) s = .next (Claims.said s 1 [] []) := by
  have hnot : ¬ (1 ≤ code ∧ code ≤ 8) := by omega
  exact congrArg Host.Outcome.next (if_neg hnot)

/-- Settles O52: each register write and each request is its own arm of the model; what branches is the range of the time limit,
the slot, the index of a measurement and the command byte. -/
theorem registersAndAttestationAnswer : Obligations.RegistersAndAttestationAnswer := by
  unfold Obligations.RegistersAndAttestationAnswer
  intro s c q slot v nonce
  refine ⟨rfl, rfl, rfl, exec_registerWrite_counterLo c v s, exec_registerWrite_timeout s, rfl, rfl, rfl, rfl, rfl, rfl,
    fun hslot => ⟨exec_getCertificate_of_ne s hslot, exec_challenge_of_ne nonce s hslot⟩,
    ⟨rfl, fun i hlo hhi => ?_⟩, rfl, fun _ => rfl, fun _ => exec_unlistedCommand s⟩
  exact ⟨exec_getMeasurements_of_index false s hlo hhi, exec_getMeasurements_of_index true s hlo hhi⟩

end Sys2Proof.Machine
end

section
/-! O54: the state right after reset (R12, R30, R217, R309, R312, R317, R333, R338, R352, R404, R422, R490). -/

namespace Sys2Proof.Machine

/-- Logical cluster n of a die is physical cluster n after a power-on that finds every part good (log entry 23). -/
theorem allGood_map_get {n : Nat} (h : n < 24) : Die.allGood.map.get none n = some n := by
  have all : ∀ n < 24, Die.allGood.map.get none n = some n := by decide
  exact all n h

/-- An unwritten context is not enabled. -/
theorem context_default_valid : ({} : Context).valid = false := by decide

/-- Each of the four dies is listed as one whose clusters are all good. -/
theorem reset_die {d : Nat} (h : d < 4) : State.reset.die d = Die.allGood := by
  obtain rfl | rfl | rfl | rfl : d = 0 ∨ d = 1 ∨ d = 2 ∨ d = 3 := by omega
  all_goals rfl

/-- Settles O54: the sparse parts of the reset state list nothing, so every key reads its default; the dies are the listed ones. -/
theorem resetLeavesTheResetValues : Obligations.ResetLeavesTheResetValues := by
  unfold Obligations.ResetLeavesTheResetValues
  refine ⟨rfl, fun _ => ⟨rfl, rfl⟩, rfl, rfl, rfl, rfl, rfl, rfl, rfl, rfl, rfl, rfl, rfl, rfl, rfl,
    fun _ => ⟨rfl, rfl, rfl, rfl⟩, fun _ => ⟨rfl, rfl, rfl⟩, fun _ => ⟨context_default_valid, rfl⟩,
    fun _ => ⟨rfl, rfl, rfl, rfl⟩, fun d hd => ?_⟩
  rw [reset_die hd]
  exact ⟨rfl, rfl, fun n hn => allGood_map_get hn⟩

end Sys2Proof.Machine
end

section
/-! O6: what a written operand, and a written predicate, reads as (R17, R18, R20, R22). -/

namespace Sys2Proof.Machine

/-! ## The registers of a window -/

/-- A register code names its slot by the lane's window alone. -/
theorem Lane.slotOf_congr {l l' : Lane} (h : l'.w = l.w) (n : Nat) : l'.slotOf n = l.slotOf n := by simp [Lane.slotOf, h]

theorem Lane.slotOf_inj (l : Lane) {n m : Nat} (h : l.slotOf n = l.slotOf m) : n = m := by
  unfold Lane.slotOf at h
  split at h <;> split at h <;> simp at h <;> omega

/-- Writes one register of the window and marks it full: an operand's write is one of these, or two for a pair. -/
def Lane.setReg (l : Lane) (d n : Nat) (v : Word) : Lane := (l.put d (l.slotOf n) v).fill (l.slotOf n)

@[simp] theorem Lane.setReg_w (l : Lane) (d n : Nat) (v : Word) : (l.setReg d n v).w = l.w := by simp [Lane.setReg]

@[simp] theorem Lane.slotOf_setReg (l : Lane) (d n m : Nat) (v : Word) : (l.setReg d n v).slotOf m = l.slotOf m :=
  Lane.slotOf_congr (by simp) m

theorem Lane.wrOp_single (l : Lane) (d n v : Nat) : l.wrOp d n false v = l.setReg d n (BitVec.ofNat 32 v) := rfl

theorem Lane.wrOp_pair (l : Lane) (d n v : Nat) :
    l.wrOp d n true v = (l.setReg d n (BitVec.ofNat 32 v)).setReg d (n + 1) (BitVec.ofNat 32 (v / 2 ^ 32)) := rfl

theorem Lane.rd_setReg_self (l : Lane) (d n : Nat) (v : Word) : (l.setReg d n v).rd d (l.slotOf n) = v := by
  simp [Lane.setReg, Lane.rd_put_self]

theorem Lane.rd_setReg_ne (l : Lane) {d n m : Nat} (v : Word) (hd : 64 ≤ d) (hn : n < 64) (hm : m < 64) (h : m ≠ n) :
    (l.setReg d n v).rd d (l.slotOf m) = l.rd d (l.slotOf m) := by
  simp [Lane.setReg, Lane.rd_put_slotOf_ne l v hd hn hm h]

theorem Lane.isEmpty_setReg_self (l : Lane) (d n : Nat) (v : Word) : (l.setReg d n v).isEmpty (l.slotOf n) = false :=
  Lane.fill_isEmpty_self _ _

theorem Lane.isEmpty_setReg_ne (l : Lane) {d n : Nat} {x : Slot} (v : Word) (h : x ≠ l.slotOf n) :
    (l.setReg d n v).isEmpty x = l.isEmpty x := by
  rw [Lane.setReg, Lane.fill_isEmpty_ne _ h, Lane.put_isEmpty]

/-! ## A single register -/

theorem Lane.rdOp_setReg_self (l : Lane) (d n : Nat) (v : Word) : (l.setReg d n v).rdOp d n false = v.toNat := by
  simp [Lane.rdOp, Lane.rd_setReg_self]

theorem Lane.rdOp_setReg_ne (l : Lane) {d n m : Nat} (v : Word) (hd : 64 ≤ d) (hn : n < 64) (hm : m < 64) (h : m ≠ n) :
    (l.setReg d n v).rdOp d m false = l.rdOp d m false := by
  simp [Lane.rdOp, Lane.rd_setReg_ne l v hd hn hm h]

theorem Lane.gaps_setReg_self (l : Lane) (d n i : Nat) (v : Word) : (l.setReg d n v).gaps i n false = [] := by
  simp [Lane.gaps, Lane.opSlots, Lane.isEmpty_setReg_self]

theorem Lane.gaps_setReg_ne (l : Lane) {n m : Nat} (d i : Nat) (v : Word) (h : m ≠ n) :
    (l.setReg d n v).gaps i m false = l.gaps i m false := by
  have hs : l.slotOf m ≠ l.slotOf n := fun e => h (l.slotOf_inj e)
  simp [Lane.gaps, Lane.opSlots, List.filter_cons, Lane.isEmpty_setReg_ne l v hs]

/-! ## A pair -/

/-- A pair reads as its two registers. -/
theorem Lane.rdOp_pair (l : Lane) (d n : Nat) : l.rdOp d n true = l.rdOp d n false + 2 ^ 32 * l.rdOp d (n + 1) false := by
  simp [Lane.rdOp]

theorem Lane.rdOp_wrOp_pair (l : Lane) {d n : Nat} (v : Nat) (hd : 64 ≤ d) (hn : n + 1 < 64) :
    (l.wrOp d n true v).rdOp d n true = v % 2 ^ 64 := by
  rw [Lane.wrOp_pair, Lane.rdOp_pair, Lane.rdOp_setReg_self, Lane.rdOp_setReg_ne _ _ hd hn (by omega) (by omega), Lane.rdOp_setReg_self]
  simp only [BitVec.toNat_ofNat]
  omega

theorem Lane.gaps_wrOp_pair (l : Lane) (d n v i : Nat) : (l.wrOp d n true v).gaps i n true = [] := by
  rw [Lane.wrOp_pair]
  have low : ((l.setReg d n (BitVec.ofNat 32 v)).setReg d (n + 1) (BitVec.ofNat 32 (v / 2 ^ 32))).isEmpty (l.slotOf n) = false := by
    rw [Lane.isEmpty_setReg_ne _ _ fun e => by simp at e; exact absurd (l.slotOf_inj e) (by omega)]
    exact Lane.isEmpty_setReg_self ..
  have high : ((l.setReg d n (BitVec.ofNat 32 v)).setReg d (n + 1) (BitVec.ofNat 32 (v / 2 ^ 32))).isEmpty (l.slotOf (n + 1)) = false := by
    have := Lane.isEmpty_setReg_self (l.setReg d n (BitVec.ofNat 32 v)) d (n + 1) (BitVec.ofNat 32 (v / 2 ^ 32))
    rwa [Lane.slotOf_setReg] at this
  simp only [Lane.gaps, Lane.opSlots, Lane.slotOf_setReg, if_true, List.filter_cons, low, high]
  rfl

/-! ## Operands and predicates -/

theorem Lane.rdOp_wrOp_self (l : Lane) {d n : Nat} (pair : Bool) (v : Nat) (hd : 64 ≤ d) (hn : n < 64) (even : pair = true → n % 2 = 0) :
    (l.wrOp d n pair v).rdOp d n pair = v % 2 ^ (if pair then 64 else 32) := by
  cases pair with
  | false => rw [Lane.wrOp_single, Lane.rdOp_setReg_self]; simp
  | true => have := even rfl; exact l.rdOp_wrOp_pair v hd (by omega)

theorem Lane.gaps_wrOp_self (l : Lane) (d n : Nat) (pair : Bool) (v i : Nat) : (l.wrOp d n pair v).gaps i n pair = [] := by
  cases pair with
  | false => exact l.gaps_setReg_self ..
  | true => exact l.gaps_wrOp_pair ..

theorem Lane.rdOp_wrOp_ne (l : Lane) {d n m : Nat} (pair : Bool) (v : Nat) (hd : 64 ≤ d) (hn : n < 64) (even : pair = true → n % 2 = 0)
    (hm : m < 64) (h : m ≠ n) (h1 : pair = true → m ≠ n + 1) : (l.wrOp d n pair v).rdOp d m false = l.rdOp d m false := by
  cases pair with
  | false => exact l.rdOp_setReg_ne _ hd hn hm h
  | true =>
    have := even rfl
    rw [Lane.wrOp_pair, Lane.rdOp_setReg_ne _ _ hd (by omega) hm (h1 rfl), Lane.rdOp_setReg_ne _ _ hd hn hm h]

theorem Lane.gaps_wrOp_ne (l : Lane) {n m : Nat} (pair : Bool) (d v i : Nat) (h : m ≠ n) (h1 : pair = true → m ≠ n + 1) :
    (l.wrOp d n pair v).gaps i m false = l.gaps i m false := by
  cases pair with
  | false => exact l.gaps_setReg_ne _ _ _ h
  | true => rw [Lane.wrOp_pair, Lane.gaps_setReg_ne _ _ _ _ (h1 rfl), Lane.gaps_setReg_ne _ _ _ _ h]

theorem Lane.pred_seven (l : Lane) : l.pred 7 = true := rfl

/-- The mask of one predicate selects it alone. -/
theorem predMask_getLsbD (k : Nat) {j : Nat} (hj : j < 8) : (BitVec.ofNat 8 (2 ^ k)).getLsbD j = decide (k = j) := by
  rw [BitVec.getLsbD_ofNat, Nat.testBit_two_pow]
  simp [hj]

theorem Lane.pred_setPred_ne (l : Lane) {k j : Nat} (b : Bool) (hk : k < 7) (hj : j < 8) (h : j ≠ k) :
    (l.setPred k b).pred j = l.pred j := by
  have bit := predMask_getLsbD k hj
  rw [decide_eq_false (Ne.symm h)] at bit
  have same : (l.setPred k b).preds.getLsbD j = l.preds.getLsbD j := by
    simp only [Lane.setPred, if_pos hk]
    cases b with
    | true => rw [if_pos rfl, BitVec.getLsbD_or, bit, Bool.or_false]
    | false => rw [if_neg Bool.false_ne_true, BitVec.getLsbD_and, BitVec.getLsbD_not, bit]; simp [hj]
  simp only [Lane.pred, same]

/-- Settles O6: a write is that of one register, or of the two of a pair; the registers of a window lie in different slots, and no two
of them in one place of a stack of 64 slots or more. -/
theorem writtenOperandsReadBack : Obligations.WrittenOperandsReadBack := by
  unfold Obligations.WrittenOperandsReadBack
  intro l d n pair v hd hn even
  exact ⟨l.rdOp_wrOp_self pair v hd hn even, l.gaps_wrOp_self d n pair v,
    fun m hm h h1 => ⟨l.rdOp_wrOp_ne pair v hd hn even hm h h1, fun i => l.gaps_wrOp_ne pair d v i h h1⟩,
    fun b => ⟨l.setPred_seven b, l.pred_seven⟩,
    fun k b hk => ⟨l.pred_setPred_self b hk, fun j hj h => l.pred_setPred_ne b hk hj h⟩⟩

end Sys2Proof.Machine
end

section
/-! Shared rules of uniform words: the gate of R25 and R347, the write of a uniform register, the supervisor words of R402. -/

namespace Sys2Proof.Machine

/-- Two changes of one group are one change. -/
theorem State.modGroup_modGroup (s : State) (g : Nat) (f f' : Group → Group) :
    (s.modGroup g f).modGroup g f' = s.modGroup g fun x => f' (f x) := by
  simp only [State.modGroup, List.modify_modify_eq]
  rfl

/-- A word that writes one uniform register and goes on (R24). -/
theorem advance_setU (s : State) (d : Nat) (v : UWord) : advance (setU s d v) = s.wroteU d v :=
  s.modGroup_modGroup s.cur _ _

/-- A word that changes its group and goes on. -/
theorem advance_modGroup (s : State) (f : Group → Group) :
    advance (s.modGroup s.cur f) = s.modGroup s.cur fun g => (f g).movedTo (s.curPc + 4) :=
  s.modGroup_modGroup s.cur _ _

theorem wroteU_modGroup (s : State) (f : Group → Group) (d : Nat) (v : UWord) :
    (s.modGroup s.cur f).wroteU d v = s.modGroup s.cur fun g => ((f g).setU d v).movedTo (s.curPc + 4) :=
  s.modGroup_modGroup s.cur _ _

/-- The next word follows four bytes later (R33). -/
theorem advance_eq_wentTo (s : State) : advance s = s.wentTo (s.curPc + 4) := rfl

theorem uniform_of_conv {s : State} (act : State → State) (h : s.Conv) : uniform s act = act s := if_pos h

/-- A diverged group waits while one of its lanes is blocked (R347). -/
theorem uniform_of_blocked {s : State} (act : State → State) (h : ¬s.Conv) (hb : ∃ l ∈ s.me.lanes, l.isBlocked = true) :
    uniform s act = s := by
  have hb' : s.me.lanes.any Lane.isBlocked = true := List.any_eq_true.2 hb
  simp only [uniform, if_neg h, if_pos hb']

/-- A diverged group with no lane blocked takes UNIFORM_DIVERGED in the lanes at the word (R347, R456). -/
theorem uniform_of_diverged {s : State} (act : State → State) (h : ¬s.Conv) (hb : ∀ l ∈ s.me.lanes, l.isBlocked = false) :
    uniform s act = takeTrap s s.cur .uniformDiverged s.curPc false true (s.myRun.map fun i => (i, 0)) := by
  have hb' : ¬s.me.lanes.any Lane.isBlocked = true := by
    rw [List.any_eq_true]
    rintro ⟨l, hl, hbl⟩
    rw [hb l hl] at hbl
    exact Bool.false_ne_true hbl
  simp only [uniform, if_neg h, if_neg hb']

/-- A supervisor word of a user group takes PRIV, whatever it would do (R64, R402). -/
theorem supervisor_of_user {s : State} (act : State → State) (h : s.Conv) (hu : s.me.priv = .user) :
    supervisor s act = groupTrap s s.cur .priv 0 := by
  have hu' : (s.me.priv == Priv.user) = true := by rw [hu]; rfl
  simp only [supervisor, uniform_of_conv _ h, if_pos hu']

end Sys2Proof.Machine
end

section
/-! O30: privilege and divergence (R28, R64, R402, R428, R456), and the words that name a control register. -/

namespace Sys2Proof.Machine

/-! ## Which words are gated -/

/-- Each supervisor word passes the gate of `supervisor` before it does anything else. -/
theorem supervisorWords_gated (s : State) (o : UOp) :
    ∀ p ∈ Claims.supervisorWords, ∃ act, exec (p o) s = .next (supervisor s act) := by
  simp only [Claims.supervisorWords, List.forall_mem_cons]
  exact ⟨⟨_, rfl⟩, ⟨_, rfl⟩, ⟨_, rfl⟩, ⟨_, rfl⟩, ⟨_, rfl⟩, ⟨_, rfl⟩, ⟨_, rfl⟩, ⟨_, rfl⟩, ⟨_, rfl⟩, List.forall_mem_nil _⟩

/-- Words of the other uniform families, one or more of each: they pass the gate of `uniform` before anything else. -/
theorem otherWords_gated (s : State) (o : UOp) :
    ∀ p ∈ [Instr.kaluAdd, .bru, .ju, .acq, .rel, .barSync, .spawn, .trap, .mmwait, .qwait, .seed, .cancel],
      ∃ act, exec (p o) s = .next (uniform s act) := by
  simp only [List.forall_mem_cons]
  exact ⟨⟨_, rfl⟩, ⟨_, rfl⟩, ⟨_, rfl⟩, ⟨_, rfl⟩, ⟨_, rfl⟩, ⟨_, rfl⟩, ⟨_, rfl⟩, ⟨_, rfl⟩, ⟨_, rfl⟩, ⟨_, rfl⟩, ⟨_, rfl⟩, ⟨_, rfl⟩,
    List.forall_mem_nil _⟩

/-- A supervisor word is a uniform word. -/
theorem gatedWords_uniform (s : State) (o : UOp) :
    ∀ p ∈ Claims.supervisorWords ++ [.kaluAdd, .bru, .ju, .acq, .rel, .barSync, .spawn, .trap, .mmwait, .qwait, .seed, .cancel],
      ∃ act, exec (p o) s = .next (uniform s act) := by
  refine List.forall_mem_append.2 ⟨fun p hp => ?_, otherWords_gated s o⟩
  obtain ⟨act, h⟩ := supervisorWords_gated s o p hp
  exact ⟨_, h⟩

/-! ## Words that name a control register -/

theorem execCsrr_eq (s : State) (o : UOp) :
    exec (.csrr o) s = .next (csrWord s o false fun s v =>
      advance (setU (if o.imm12 = 0x806 then
        { s.modCore s.me.core fun c => { c with regFe := (s.regSel s.me.core).2.1 } with draw := s.draw + 1 } else s) o.d v)) := rfl

/-- The three write forms differ in the value alone that they make of the old one and ka. -/
theorem csrWrites_eq (s : State) (o : UOp) :
    ∀ p ∈ Claims.csrWrites, exec (p.1 o) s =
      .next (csrWord s o true fun s v => advance (csrWrite s s.cur o.imm12 (p.2 v (s.u o.a)))) := by
  simp only [Claims.csrWrites, List.forall_mem_cons]
  exact ⟨rfl, rfl, rfl, List.forall_mem_nil _⟩

theorem csrWords_gated (s : State) (o : UOp) :
    ∀ p ∈ Instr.csrr :: Claims.csrWrites.map (fun x => x.1), ∃ wr k, exec (p o) s = .next (csrWord s o wr k) := by
  refine List.forall_mem_cons.2 ⟨⟨_, _, execCsrr_eq s o⟩, List.forall_mem_map.2 fun p hp => ⟨_, _, csrWrites_eq s o p hp⟩⟩

/-- A number without a register is ILLEGAL before anything else (R64, R428). -/
theorem csrWord_undefined {s : State} {o : UOp} (wr : Bool) (k : State → UWord → State) (h : csrRead s s.cur o.imm12 = none) :
    csrWord s o wr k = illegalU s := by
  simp only [csrWord, h]

/-- A register out of reach, or a write of a read-only one, takes PRIV in a converged group (R28, R64). -/
theorem csrWord_barred {s : State} {o : UOp} {wr : Bool} (k : State → UWord → State) (hc : s.Conv)
    (h : csrRead s s.cur o.imm12 ≠ none) (hb : csrForbidden s.me.priv o.imm12 = true ∨ wr = true ∧ csrReadOnly o.imm12 = true) :
    csrWord s o wr k = groupTrap s s.cur .priv 0 := by
  obtain ⟨v, hv⟩ := Option.ne_none_iff_exists'.1 h
  have hb' : (csrForbidden s.me.priv o.imm12 || (wr && csrReadOnly o.imm12)) = true := by simpa using hb
  simp only [csrWord, hv, uniform_of_conv _ hc, if_pos hb']

/-- Within reach a word gets the register's value. -/
theorem csrWord_reached {s : State} {o : UOp} {wr : Bool} {v : UWord} (k : State → UWord → State) (hc : s.Conv)
    (h : csrRead s s.cur o.imm12 = some v) (hf : csrForbidden s.me.priv o.imm12 = false) (hw : wr = true → csrReadOnly o.imm12 = false) :
    csrWord s o wr k = k s v := by
  have hb' : ¬(csrForbidden s.me.priv o.imm12 || (wr && csrReadOnly o.imm12)) = true := by
    cases wr <;> simp [hf, hw]
  simp only [csrWord, h, uniform_of_conv _ hc, if_neg hb', Option.getD_some]

theorem csrForbidden_iff (p : Priv) (n : Nat) : csrForbidden p n = true ↔ p = .user ∧ 0x800 ≤ n ∨ 0xC00 ≤ n := by
  cases p with
  | user => simp [csrForbidden]; omega
  | supervisor => simp [csrForbidden]

theorem csrReadOnly_iff (n : Nat) : csrReadOnly n = true ↔ n < 0x400 ∨ n = 0x850 := by simp [csrReadOnly]

/-- Settles O30: each clause is a branch of the gate that its words share. -/
theorem privilegeAndDivergenceTrap : Obligations.PrivilegeAndDivergenceTrap := by
  unfold Obligations.PrivilegeAndDivergenceTrap
  intro s o
  refine ⟨fun p hp hc hu => ?_, fun p hp => ⟨fun hn => ?_, fun hc hn hb => ?_⟩, fun p hp hc hn hlt => ?_, fun p hp hc => ⟨fun hb => ?_, fun hb => ?_⟩⟩
  · obtain ⟨act, h⟩ := supervisorWords_gated s o p hp
    rw [h, supervisor_of_user act hc hu]
  · obtain ⟨wr, k, h⟩ := csrWords_gated s o p hp
    rw [h, csrWord_undefined wr k hn]
    rfl
  · obtain ⟨wr, k, h⟩ := csrWords_gated s o p hp
    rw [h, csrWord_barred k hc hn (.inl ((csrForbidden_iff _ _).2 hb))]
  · rw [csrWrites_eq s o p hp, csrWord_barred _ hc hn (.inr ⟨rfl, (csrReadOnly_iff _).2 (.inl hlt)⟩)]
  · obtain ⟨act, h⟩ := gatedWords_uniform s o p hp
    rw [h, uniform_of_blocked act hc hb]
  · obtain ⟨act, h⟩ := gatedWords_uniform s o p hp
    rw [h, uniform_of_diverged act hc hb]

end Sys2Proof.Machine
end

section
/-! O31: control registers within reach (R28, R116, R193, R428 to R435). -/

namespace Sys2Proof.Machine

/-! ## A write of a control register leaves the place of the issuing run -/

@[simp] theorem loadTrap_curPc (s : State) (core : Nat) : (loadTrap s core).curPc = s.curPc := by
  simp only [loadTrap]
  repeat' split
  all_goals rfl

@[simp] theorem evictLoggia_curPc (s : State) (core : Nat) : (evictLoggia s core).curPc = s.curPc := by
  unfold evictLoggia
  split <;> rfl

@[simp] theorem trapgrpSet_curPc (s : State) (core : Nat) (v : UWord) : (trapgrpSet s core v).curPc = s.curPc := by
  simp only [trapgrpSet, loadTrap_curPc]
  split <;> rfl

@[simp] theorem regvalSet_curPc (s : State) (core : Nat) (v : UWord) : (regvalSet s core v).curPc = s.curPc := by
  simp only [regvalSet]
  repeat' split
  all_goals rfl

@[simp] theorem bankmodeSet_curPc (s : State) (cl : Nat) (v : UWord) : (bankmodeSet s cl v).curPc = s.curPc := rfl

theorem csrWrite_curPc (s : State) (g n : Nat) (v : UWord) : (csrWrite s g n v).curPc = s.curPc := by
  simp only [csrWrite]
  repeat' split
  all_goals simp

/-! ## The writable registers of a group read back -/

theorem csrRead_csrWrite_flags {s : State} {g : Nat} (x : UWord) (h : g < s.groups.length) :
    csrRead (csrWrite s g 0x410 x) g 0x410 = some (x &&& 0x1FF) :=
  congrArg (fun y : Group => some y.flags) (s.group_modGroup_self (fun y => { y with flags := x &&& flagMask }) h)

theorem csrRead_csrWrite_cvsub {s : State} {g : Nat} (x : UWord) (h : g < s.groups.length) :
    csrRead (csrWrite s g 0x411 x) g 0x411 = some x :=
  congrArg (fun y : Group => some y.cvsub) (s.group_modGroup_self (fun y => { y with cvsub := x }) h)

theorem csrRead_csrWrite_srseed {s : State} {g : Nat} (x : UWord) (h : g < s.groups.length) :
    csrRead (csrWrite s g 0x412 x) g 0x412 = some x :=
  congrArg (fun y : Group => some y.srseed) (s.group_modGroup_self (fun y => { y with srseed := x }) h)

theorem csrRead_csrWrite_bndidx {s : State} {g : Nat} (x : UWord) (h : g < s.groups.length) :
    csrRead (csrWrite s g 0x520 x) g 0x520 = some (x &&& 0x3F) :=
  congrArg (fun y : Group => some y.bndidx) (s.group_modGroup_self (fun y => { y with bndidx := x &&& 0x3F }) h)

theorem csrRead_csrWrite_mxtol {s : State} {g : Nat} (x : UWord) (h : g < s.groups.length) :
    csrRead (csrWrite s g 0x500 x) g 0x500 = some (x &&& 0x1FFFFFF) := by
  have written := congrArg (fun y : Group => some (y.mxtol.get (mxtolReset 0) 0))
    (s.group_modGroup_self (fun y => { y with mxtol := y.mxtol.set 0 (x &&& 0x1FFFFFF) }) h)
  exact written.trans (congrArg some (AMap.get_set_self _ _ _ _))

/-! ## The words -/

/-- `csrr` within reach; a read of REGVAL leaves its own mark first (R433). -/
theorem execCsrr_reached {s : State} {o : UOp} {v : UWord} (hc : s.Conv) (h : csrRead s s.cur o.imm12 = some v)
    (hf : csrForbidden s.me.priv o.imm12 = false) :
    exec (.csrr o) s = .next ((if o.imm12 = 0x806 then
      { s.modCore s.me.core fun c => { c with regFe := (s.regSel s.me.core).2.1 } with draw := s.draw + 1 } else s).wroteU o.d v) := by
  rw [execCsrr_eq, csrWord_reached _ hc h hf (fun e => absurd e Bool.false_ne_true), advance_setU]

/-- A write form within reach. -/
theorem csrWrites_reached {s : State} {o : UOp} {v : UWord} (hc : s.Conv) (h : csrRead s s.cur o.imm12 = some v)
    (hf : csrForbidden s.me.priv o.imm12 = false) (hw : csrReadOnly o.imm12 = false) :
    ∀ p ∈ Claims.csrWrites, exec (p.1 o) s = .next ((csrWrite s s.cur o.imm12 (p.2 v (s.u o.a))).wentTo (s.curPc + 4)) := by
  intro p hp
  rw [csrWrites_eq s o p hp, csrWord_reached _ hc h hf fun _ => hw, advance_eq_wentTo, csrWrite_curPc]

/-- Settles O31: within reach the gate gives each form the register's value; the fields of a group's own registers read back. -/
theorem controlRegistersReadAndWrite : Obligations.ControlRegistersReadAndWrite := by
  unfold Obligations.ControlRegistersReadAndWrite
  intro s o v hc hv hlt hu
  have hf : csrForbidden s.me.priv o.imm12 = false := by
    rw [Bool.eq_false_iff, ne_eq, csrForbidden_iff]
    rintro (⟨user, hge⟩ | hge)
    · have := hu user
      omega
    · omega
  refine ⟨fun hn => ?_, fun he => ?_, fun p hp hge hn => ?_, fun g x hg => ?_⟩
  · rw [execCsrr_reached hc hv hf, if_neg hn]
  · rw [execCsrr_reached hc hv hf, if_pos he]
  · have hw : csrReadOnly o.imm12 = false := by
      rw [Bool.eq_false_iff, ne_eq, csrReadOnly_iff]
      omega
    exact csrWrites_reached hc hv hf hw p hp
  · have ones : x &&& (-1 : UWord) = x := BitVec.and_allOnes
    simp only [List.forall_mem_cons, ones]
    exact ⟨csrRead_csrWrite_flags x hg, csrRead_csrWrite_cvsub x hg, csrRead_csrWrite_srseed x hg, csrRead_csrWrite_bndidx x hg,
      csrRead_csrWrite_mxtol x hg, List.forall_mem_nil _⟩

end Sys2Proof.Machine
end

section
/-! O28: the group that `spawn` makes (R30, R349, R377). -/

namespace Sys2Proof.Machine

/-! ## The registers of a new group (R30) -/

/-- A sparse map takes a value under a key, or stays as it is for the value 0. -/
theorem get_setNonzero {n : Nat} (m : AMap (BitVec n)) (k j : Nat) (v : BitVec n) :
    AMap.get 0 (if v = 0 then m else AMap.set m k v) j = if j = k ∧ v ≠ 0 then v else AMap.get 0 m j := by
  by_cases hv : v = 0
  · rw [if_pos hv, if_neg fun h => h.2 hv]
  · rw [if_neg hv]
    by_cases hj : j = k
    · rw [if_pos ⟨hj, hv⟩, hj, AMap.get_set_self]
    · rw [if_neg fun h => hj h.1, AMap.get_set_ne 0 m v hj]

theorem get_foldl_setNonzero {n : Nat} (f : Nat → BitVec n) (l : List Nat) (m : AMap (BitVec n)) (j : Nat) :
    AMap.get 0 (l.foldl (fun m k => if f k = 0 then m else AMap.set m k (f k)) m) j =
      if j ∈ l ∧ f j ≠ 0 then f j else AMap.get 0 m j := by
  induction l generalizing m with
  | nil => simp
  | cons k r ih =>
    rw [List.foldl_cons, ih, get_setNonzero]
    by_cases hk : j = k
    · subst hk
      by_cases hz : f j = 0
      · rw [if_neg fun h => h.2 hz, if_neg fun h => h.2 hz, if_neg fun h => h.2 hz]
      · rw [if_pos (⟨rfl, hz⟩ : j = j ∧ f j ≠ 0), if_pos (⟨List.mem_cons_self, hz⟩ : j ∈ j :: r ∧ f j ≠ 0), ite_self]
    · rw [if_neg fun h : j = k ∧ f k ≠ 0 => hk h.1]
      simp only [List.mem_cons, hk, false_or]

/-- Listed from nothing, the values of `f` at the keys below 8 read back; the other keys read 0. -/
theorem get_listed {n : Nat} (f : Nat → BitVec n) (j : Nat) :
    AMap.get 0 ((List.range 8).foldl (fun m k => if f k = 0 then m else AMap.set m k (f k)) []) j = if j < 8 then f j else 0 := by
  rw [get_foldl_setNonzero]
  simp only [List.mem_range]
  by_cases hj : j < 8
  · by_cases hz : f j = 0
    · rw [if_neg fun h => h.2 hz, if_pos hj, hz]
      rfl
    · rw [if_pos ⟨hj, hz⟩, if_pos hj]
  · rw [if_neg fun h => hj h.1, if_neg hj]
    rfl

/-- v0 is the identity, v1 the lane, v2 to v7 are given (R30). -/
theorem newLane_globals (kgrp w i : Nat) (pc : Word) (v : Nat → Word) (n : Nat) :
    (newLane kgrp w i pc v).globals.get 0 n =
      if n < 8 then (if n = 0 then BitVec.ofNat 32 (kgrp * w + i) else if n = 1 then BitVec.ofNat 32 i else v n) else 0 :=
  get_listed (fun n => if n = 0 then BitVec.ofNat 32 (kgrp * w + i) else if n = 1 then BitVec.ofNat 32 i else v n) n

theorem newGroup_uregs (s : State) (t kgrp core : Nat) (pc : Word) (v : Nat → Nat → Word) (k : Nat → UWord) (n : Nat) :
    (newGroup s t kgrp core pc v k).uregs.get 0 n = if n < 8 then k n else 0 := get_listed k n

theorem newGroup_lane {s : State} {t i : Nat} (kgrp core : Nat) (pc : Word) (v : Nat → Nat → Word) (k : Nat → UWord)
    (h : i < (s.launch (s.team t).launch).e.width) :
    (newGroup s t kgrp core pc v k).lane i = newLane kgrp (s.launch (s.team t).launch).e.width i pc (v i) := by
  simp [newGroup, Group.lane, List.getD_eq_getElem?_getD, h]

/-- Every group register of a group that lists none reads as the whole group (R23). -/
theorem Group.greg_of_unlisted {g : Group} (h : g.gregs = []) (n : Nat) : g.greg n = g.greg 0 := by
  by_cases hn : n = 0
  · rw [hn]
  · simp [Group.greg, hn, h, AMap.get, AMap.find]

/-- No post is outstanding in a group that lists none (R27). -/
theorem Group.qcntWord_of_unlisted {g : Group} (h : g.qcnt = []) : g.qcntWord = 0 := by
  rw [Group.qcntWord, h]
  decide

theorem newGroupsHoldTheStartValues : Claims.NewGroupsHoldTheStartValues := by
  intro s t kgrp core pc v k i n e g l hi
  have hl : l = newLane kgrp e.width i pc (v i) := newGroup_lane kgrp core pc v k hi
  have hg := fun n => newLane_globals kgrp e.width i pc (v i) n
  refine ⟨by simp [g, newGroup, e], rfl, rfl, rfl, rfl, rfl, rfl, rfl, Group.qcntWord_of_unlisted rfl, rfl, rfl, rfl, rfl,
    Group.greg_of_unlisted rfl n, rfl, ?_⟩
  rw [hl]
  exact ⟨rfl, rfl, rfl, rfl, rfl, rfl, rfl, rfl, rfl, hg 0, hg 1,
    fun h2 h8 => (hg n).trans (by rw [if_pos h8, if_neg (by omega), if_neg (by omega)]), rfl, newGroup_uregs s t kgrp core pc v k n⟩

/-! ## `spawn` -/

/-- Of fewer used numbers than there are places, one is free; the search finds the lowest. -/
theorem find_lowestFree {n : Nat} (used : List Nat) (h : used.length < n) :
    ∃ k, (List.range n).find? (fun m => !used.elem m) = some k ∧ k < n ∧ k ∉ used ∧ ∀ m < k, m ∈ used := by
  have free : ∃ m ∈ List.range n, m ∉ used := by
    by_contra hno
    have sub : List.range n ⊆ used := fun m hm => by_contra fun hu => hno ⟨m, hm, hu⟩
    have := (List.subperm_of_subset List.nodup_range sub).length_le
    rw [List.length_range] at this
    omega
  cases hk : (List.range n).find? (fun m => !used.elem m) with
  | none =>
    obtain ⟨m, hm, hu⟩ := free
    have := List.find?_eq_none.1 hk m hm
    simp [hu] at this
  | some k =>
    obtain ⟨hp, hr, hlow⟩ := List.find?_range_eq_some.1 hk
    exact ⟨k, rfl, by simpa using hr, by simpa using hp, fun m hm => by simpa using hlow m hm⟩

/-- Room for one more group of a team on its core (R16, R377). -/
def State.spawnFits (s : State) (g : Group) (live : List Nat) : Prop :=
  (s.teamOf g).isSup = false ∧ live.length < 16 ∧ (s.coreGroups g.core).length < 32 ∧ s.regsUsed g.core + g.width * (8 + g.depth) ≤ 196608

theorem State.spawnFits_iff (s : State) (g : Group) (live : List Nat) :
    s.spawnFits g live ↔ ((s.teamOf g).isSup || 16 ≤ live.length || 32 ≤ (s.coreGroups g.core).length ||
      196608 < s.regsUsed g.core + g.width * (8 + g.depth)) = false := by
  simp [State.spawnFits, and_assoc]

/-- A converged `spawn`, branch by branch. -/
theorem execSpawn_eq {s : State} (o : UOp) (hc : s.Conv) :
    exec (.spawn o) s = .next (
      let g := s.me
      let entry := (s.u o.a).setWidth 32
      let live := (s.teamOf g).groups.filter fun x => !(s.group x).ended
      let used := live.map fun x => (s.group x).kgrp
      if entry.toNat % 4 ≠ 0 then s.wroteU o.d (refuse 2)
      else if (s.teamOf g).isSup || 16 ≤ live.length || 32 ≤ (s.coreGroups g.core).length ||
          196608 < s.regsUsed g.core + g.width * (8 + g.depth) then s.wroteU o.d (refuse 1)
      else
        let kg := ((List.range 16).find? fun n => !used.elem n).getD 0
        (addGroup s g.team (newGroup s g.team kg g.core entry (fun i n => (g.lane i).globals.get 0 n) fun n => g.uregs.get 0 n)).wroteU o.d
          (BitVec.ofNat 64 kg)) := by
  have he : ((s.u o.a).setWidth 32).toNat = (s.u o.a).toNat % 2 ^ 32 := BitVec.toNat_setWidth ..
  have hw : BitVec.ofNat 32 ((s.u o.a).toNat % 2 ^ 32) = (s.u o.a).setWidth 32 := by rw [← he, BitVec.ofNat_toNat, BitVec.setWidth_eq]
  have hu : ∀ (l : List Nat) (n : Nat), (l.any fun x => (s.group x).kgrp == n) = (l.map fun x => (s.group x).kgrp).elem n := by
    intro l n
    rw [List.elem_eq_contains, ← List.any_beq', List.any_map]
    rfl
  show Host.Outcome.next (uniform s _) = _
  rw [uniform_of_conv _ hc]
  simp only [advance_setU, he, hw, hu]

theorem spawnMakesOneGroup : Claims.SpawnMakesOneGroup := by
  intro s o hc _ g tm entry live fits
  have hf : fits ↔ _ := s.spawnFits_iff g live
  rw [execSpawn_eq o hc]
  refine ⟨fun h4 => ?_, fun h4 hn => ?_, fun h4 hfit => ?_⟩
  · exact congrArg Host.Outcome.next (if_pos h4)
  · have full := Bool.eq_true_of_not_eq_false (mt hf.2 hn)
    exact congrArg Host.Outcome.next ((if_neg (not_not.2 h4)).trans (if_pos full))
  · have room := Bool.eq_false_iff.1 (hf.1 hfit)
    obtain ⟨kg, hk, hlt, hfree, hlow⟩ := find_lowestFree (n := 16) (live.map fun x => (s.group x).kgrp) (by simpa using hfit.2.1)
    refine ⟨kg, hlt, fun x hx he => hfree (List.mem_map.2 ⟨x, hx, he⟩), fun m hm => List.mem_map.1 (hlow m hm), ?_⟩
    refine congrArg Host.Outcome.next ((if_neg (not_not.2 h4)).trans ((if_neg room).trans ?_))
    simp only [g, tm, live] at hk ⊢
    rw [hk]
    rfl

/-- Settles O28: a converged `spawn` takes one of three branches; the search for a number finds the lowest free one; the registers of a new
group are listed from R30's values. -/
theorem spawnMakesAGroupOfStartValues : Obligations.SpawnMakesAGroupOfStartValues :=
  ⟨spawnMakesOneGroup, newGroupsHoldTheStartValues⟩

end Sys2Proof.Machine
end

section
/-! Shared rules of releases and of words that name a queue (R27, R185, R247, R289). -/

namespace Sys2Proof.Machine

/-! ## A release with nothing to do (R247) -/

/-- No pending store is selected: none is performed. -/
theorem performStores_of_none {s : State} {p : Store → Bool} (n : Nat) (h : ∀ st ∈ s.stores, p st = false) : performStores n s p = s := by
  have none : s.stores.findIdx? (fun st => p st && !s.snoopNeeded st.dpa true) = none :=
    List.findIdx?_eq_none_iff.2 fun st hst => by rw [h st hst, Bool.false_and]
  cases n with
  | zero => rfl
  | succ n => simp only [performStores, none]

/-- No entry of the write-combining buffer is selected: none drains. -/
theorem drainWcb_of_none {s : State} {core : Nat} {p : WcEntry → Bool} (h : ∀ e ∈ (s.core core).wcb, p e = false) :
    drainWcb s core p = s := by
  have none : (s.core core).wcb.filter p = [] := List.filter_eq_nil_iff.2 fun e he => by simp [h e he]
  simp only [drainWcb, none, List.foldl_nil]

theorem State.Drained.releaseWork_eq {s : State} (h : s.Drained) (scope : Nat) : releaseWork s s.me scope = (s, true) := by
  obtain ⟨_, hst, hred, hwcb, hhost, hfab⟩ := h
  have stores : ∀ st ∈ s.stores, (st.core == s.me.core) = false := fun st hs => beq_eq_false_iff_ne.2 (hst st hs)
  have hosts : s.hostWrites s.me.core = false :=
    List.any_eq_false.2 fun r hr => by simp [hhost r hr]
  have fabs : ∀ w, s.fabWrites s.me.core w = false := fun w =>
    List.any_eq_false.2 fun r hr => by simp [hfab r hr]
  have any : s.stores.any (fun st => st.core == s.me.core) = false := List.any_eq_false.2 fun st hs => by simp [stores st hs]
  have wcb : drainWcb s s.me.core (fun _ => true) = s := drainWcb_of_none fun e he => absurd he (by simp [hwcb])
  unfold releaseWork
  by_cases h2 : scope < 2
  · rw [if_pos h2]
  · simp only [if_neg h2, performStores_of_none _ stores, hred, List.foldl_nil, wcb, ite_self, any, hosts, fabs, List.isEmpty_nil,
      Bool.not_false, Bool.and_self]

/-- A release of a group with nothing outstanding goes straight on. -/
theorem State.Drained.uRelease_eq {s : State} (h : s.Drained) (scope : Nat) (k : State → State) : uRelease s scope k = k s := by
  have lost : s.lossAt s.me scope = none := by rw [State.lossAt, h.1, ite_self]
  simp only [uRelease, lost, h.releaseWork_eq, if_true]

/-! ## A word that names a queue (R27, R289) -/

theorem uQueue_of_bound {s : State} {n eng : Nat} (k : State → State) (hc : s.Conv) (h : (s.cap s.me n).queue eng = true) :
    uQueue s n eng k = k s := by
  rw [uQueue, uniform_of_conv _ hc, if_pos h]

theorem uQueue_of_unbound {s : State} {n eng : Nat} (k : State → State) (hc : s.Conv) (h : (s.cap s.me n).queue eng = false) :
    uQueue s n eng k = groupTrap s s.cur .capInvalid n := by
  rw [uQueue, uniform_of_conv _ hc, if_neg (by rw [h]; exact Bool.false_ne_true)]

end Sys2Proof.Machine
end

section
/-! O36: the posts of the matrix engine (R27, R186, R187, R197, R259). -/

namespace Sys2Proof.Machine

/-- The seven posts share one course; they differ in the scope of their release alone beyond what the statement lists of them. -/
theorem matrixPosts_eq (s : State) (o : UOp) :
    ∀ p ∈ Claims.matrixPosts, ∃ scope, exec (p.1 o) s = .next (mxPost s o (p.2.1 o) p.2.2.1 scope fun s => p.2.2.2 s o) := by
  simp only [Claims.matrixPosts, List.forall_mem_cons]
  exact ⟨⟨_, rfl⟩, ⟨_, rfl⟩, ⟨_, rfl⟩, ⟨_, rfl⟩, ⟨_, rfl⟩, ⟨_, rfl⟩, ⟨_, rfl⟩, List.forall_mem_nil _⟩

section
variable {s : State} {o : UOp} {n : Nat} {block : Bool} (scope : State → Nat) (op : State → MxOp)

/-- A post without its queue (R289). -/
theorem mxPost_of_unbound (hc : s.Conv) (hq : (s.cap s.me n).queue 2 = false) :
    mxPost s o n block scope op = groupTrap s s.cur .capInvalid n := uQueue_of_unbound _ hc hq

/-- A post of a group in no set (R196). -/
theorem mxPost_of_noSet (hc : s.Conv) (hq : (s.cap s.me n).queue 2 = true) (hm : s.me.mset = none) :
    mxPost s o n block scope op = s.wroteU o.d (refuse 0x24) := by
  rw [mxPost, uQueue_of_bound _ hc hq]
  simp only [hm, advance_setU]

/-- Where a post of a member goes on: the refusals in the rule's order, the stall, and the entry after the release (R186, R197). -/
theorem mxPost_of_member {cl k m : Nat} (hc : s.Conv) (hq : (s.cap s.me n).queue 2 = true) (hm : s.me.mset = some (cl, k, m)) :
    mxPost s o n block scope op =
      let st := s.mset cl k
      if st.elected ≠ some m then s.wroteU o.d (refuse 0x25)
      else if st.queue ≠ n then s.wroteU o.d (refuse 0x26)
      else if block && (s.u o.a).toNat % 256 ≠ 0 then s.wroteU o.d (refuse 0x27)
      else if 16 ≤ (s.mx cl).resv.length || s.queueFull s.me n then s
      else uRelease s (scope s) fun t =>
        (Claims.counted ((t.modMx cl fun mx => { mx with
            resv := mx.resv ++ [{ op t with set := k, seq := st.seq, group := t.cur, queue := n, ctx := t.ctxOf s.me, cvsub := s.me.cvsub,
                                            id := (t.mx cl).nextId, behind := s.me.fenced n, doomed := st.broken && (op t).kind == 0 }]
            nextId := mx.nextId + 1 }).modSet cl k fun st => { st with seq := (st.seq + 1) % 2 ^ 32 }) n).wroteU o.d
          (BitVec.ofNat 64 (st.seq + n * 2 ^ 32)) := by
  rw [mxPost, uQueue_of_bound _ hc hq]
  simp only [hm, advance_setU]
  rfl

end

/-- Settles O36: all seven posts take the course of `mxPost_of_member`, branch by branch. -/
theorem matrixPostsEnterTheReservationTable : Obligations.MatrixPostsEnterTheReservationTable := by
  unfold Obligations.MatrixPostsEnterTheReservationTable
  intro p hp s o hc n code
  obtain ⟨scope, he⟩ := matrixPosts_eq s o p hp
  refine ⟨fun hq => ?_, fun hq hm => ?_, fun cl k m hq hm => ?_⟩
  · rw [he, mxPost_of_unbound _ _ hc hq]
  · rw [he, mxPost_of_noSet _ _ hc hq hm]
    rfl
  rw [he, mxPost_of_member _ _ hc hq hm]
  intro st mx op odd
  have block : odd ↔ (p.2.2.1 && (s.u o.a).toNat % 256 ≠ 0) = true := by simp [odd]
  refine ⟨fun h1 => ?_, fun h1 h2 => ?_, fun h1 h2 h3 => ?_, fun h1 h2 h3 h4 => ?_, fun h1 h2 h3 h4 h5 hd => ?_⟩
  · exact congrArg Host.Outcome.next (if_pos h1)
  · exact congrArg Host.Outcome.next ((if_neg (not_not.2 h1)).trans (if_pos h2))
  · exact congrArg Host.Outcome.next ((if_neg (not_not.2 h1)).trans ((if_neg (not_not.2 h2)).trans (if_pos (block.1 h3))))
  · have full : (decide (16 ≤ (s.mx cl).resv.length) || s.queueFull s.me n) = true := by simpa using h4
    exact congrArg Host.Outcome.next
      ((if_neg (not_not.2 h1)).trans ((if_neg (not_not.2 h2)).trans ((if_neg (mt block.2 h3)).trans (if_pos full))))
  · have room : ¬(decide (16 ≤ (s.mx cl).resv.length) || s.queueFull s.me n) = true := by
      rw [h5, Bool.or_false, decide_eq_true_eq]
      exact Nat.not_le.2 h4
    exact congrArg Host.Outcome.next ((if_neg (not_not.2 h1)).trans ((if_neg (not_not.2 h2)).trans ((if_neg (mt block.2 h3)).trans
      ((if_neg room).trans (hd.uRelease_eq _ _)))))

end Sys2Proof.Machine
end

section
/-! O38: posts to the transfer and collective engines, `qfence` and `qwait` (R27, R259, R289 to R291). -/

namespace Sys2Proof.Machine

/-! ## Posts (R289) -/

/-- The three posts share one course. -/
theorem enginePosts_eq (s : State) (o : UOp) :
    ∀ p ∈ Claims.enginePosts, ∃ scopeBit, exec (p.1 o) s = .next (engPost s o p.2.1 scopeBit fun s => p.2.2 s o) := by
  simp only [Claims.enginePosts, List.forall_mem_cons]
  exact ⟨⟨_, rfl⟩, ⟨_, rfl⟩, ⟨_, rfl⟩, List.forall_mem_nil _⟩

/-- A post whose queue is bound: the refusal, the stall, and the entry after the release. -/
theorem engPost_of_bound {s : State} {o : UOp} {kind : Nat} (scopeBit : Nat) (idx : State → Option UWord) (hc : s.Conv)
    (hq : (s.cap s.me (o.f % 8)).queue kind = true) :
    engPost s o kind scopeBit idx =
      let n := o.f % 8
      let seq := s.me.qseq.get 0 n
      if (s.u o.a).toNat % 128 ≠ 0 then s.wroteU o.d (refuse 0x27)
      else if s.queueFull s.me n then s
      else uRelease s (s.blockScope (s.u o.a).toNat scopeBit) fun t =>
        ((Claims.counted { t with
          engOps := t.engOps ++ [{ id := t.nextOp, kind := kind, group := t.cur, launch := (t.teamOf s.me).launch, ctx := t.ctxOf s.me,
                                   core := s.me.core, queue := n, qn := (t.cap s.me n).ep 20 18, seq := seq, blk := (s.u o.a).toNat,
                                   idx := idx t, cvsub := s.me.cvsub, behind := s.me.fenced n }]
          nextOp := t.nextOp + 1 } n).modGroup t.cur fun g => { g with qseq := g.qseq.set n ((seq + 1) % 2 ^ 32) }).wroteU o.d
            (BitVec.ofNat 64 (seq + n * 2 ^ 32)) := by
  rw [engPost, uQueue_of_bound _ hc hq]
  simp only [advance_setU]
  rfl

/-! ## Waits (R291) -/

/-- What a change of a group keeps in every group, it keeps in the group that one reads. -/
theorem State.modGroup_keeps {α : Type} (π : Group → α) {s : State} {g : Nat} {f : Group → Group} (h : ∀ x, π (f x) = π x) (k : Nat) :
    π ((s.modGroup g f).group k) = π (s.group k) := by
  by_cases hk : k = g
  · subst hk
    by_cases hl : k < s.groups.length
    · rw [s.group_modGroup_self f hl, h]
    · have out : ∀ t : State, t.groups.length = s.groups.length → t.group k = {} := fun t ht => by
        rw [State.group, List.getD_eq_getElem?_getD, List.getElem?_eq_none (by omega)]
        rfl
      rw [out _ (s.groups_length_modGroup k f), out s rfl]
  · rw [s.group_modGroup_ne f hk]

theorem setU_core (s : State) (d : Nat) (v : UWord) : (setU s d v).me.core = s.me.core :=
  State.modGroup_keeps Group.core (fun x => by simp) s.cur

/-- The context of the issuing group does not depend on its uniform registers. -/
theorem setU_ctxOf (s : State) (d : Nat) (v : UWord) : (setU s d v).ctxOf (setU s d v).me = s.ctxOf s.me := by
  have priv : (setU s d v).me.priv = s.me.priv := State.modGroup_keeps Group.priv (fun x => by simp) s.cur
  have team : (setU s d v).me.team = s.me.team := State.modGroup_keeps Group.team (fun x => by simp) s.cur
  simp only [State.ctxOf, State.launchOf, State.teamOf, priv, team]
  rfl

/-- An acquire of every object looks at the caches alone (R247). -/
theorem acquire_all_modGroup (s : State) (core ctx scope g : Nat) (f : Group → Group) :
    acquire (s.modGroup g f) core ctx scope .all = (acquire s core ctx scope .all).modGroup g f := by
  unfold acquire
  split <;> rfl

theorem acquire_cur (s : State) (core ctx scope : Nat) (o : ObjSet) : (acquire s core ctx scope o).cur = s.cur := by
  unfold acquire
  split <;> rfl

theorem Group.setU_flags_comm (g : Group) (d : Nat) (v fl : UWord) :
    ({ g.setU d v with flags := (g.setU d v).flags ||| fl } : Group) = ({ g with flags := g.flags ||| fl } : Group).setU d v := by
  unfold Group.setU
  split <;> rfl

/-- A status is written, its flags are merged and its acquire is made, in any order. -/
theorem advance_acquired (s : State) (d sc : Nat) (v fl : UWord) :
    advance ((uAcquire (setU s d v) sc .all).modGroup (setU s d v).cur fun g => { g with flags := g.flags ||| fl }) =
      ((acquire s s.me.core (s.ctxOf s.me) sc .all).modGroup s.cur fun g => { g with flags := g.flags ||| fl }).wroteU d v := by
  have acq : uAcquire (setU s d v) sc .all = setU (acquire s s.me.core (s.ctxOf s.me) sc .all) d v := by
    rw [uAcquire, setU_core, setU_ctxOf, setU, acquire_all_modGroup, setU, acquire_cur]
  have here : (acquire s s.me.core (s.ctxOf s.me) sc .all).cur = s.cur := acquire_cur ..
  rw [acq]
  generalize acquire s s.me.core (s.ctxOf s.me) sc .all = t at here ⊢
  have flags : (setU t d v).modGroup s.cur (fun g => { g with flags := g.flags ||| fl }) =
      t.modGroup t.cur fun g => ({ g with flags := g.flags ||| fl } : Group).setU d v := by
    rw [← here, setU, State.modGroup_modGroup]
    simp only [Group.setU_flags_comm]
  rw [← here]
  exact (congrArg advance (here ▸ flags)).trans ((advance_modGroup t _).trans (wroteU_modGroup t _ d v).symm)

section
variable {s : State} {o : UOp} (test : Bool) (hc : s.Conv) (hq : (s.cap s.me ((s.u o.a).toNat / 2 ^ 32 % 8)).queue 2 = false)
include hc hq

theorem engWait_of_bad (h : s.engTicket s.cur (s.u o.a).toNat = .bad) : engWait s o test = s.wroteU o.d 0xFE := by
  rw [engWait, uniform_of_conv _ hc]
  simp only [hq, h, Bool.false_eq_true, if_false, advance_setU]

theorem engWait_of_expired (h : s.engTicket s.cur (s.u o.a).toNat = .expired) : engWait s o test = s.wroteU o.d 0xFF := by
  rw [engWait, uniform_of_conv _ hc]
  simp only [hq, h, Bool.false_eq_true, if_false, advance_setU]

theorem engWait_of_pending (h : s.engTicket s.cur (s.u o.a).toNat = .pending) :
    engWait s o test = if test then s.wroteU o.d 0 else holdGroup s (.ticket (s.u o.a).toNat) := by
  rw [engWait, uniform_of_conv _ hc]
  simp only [hq, h, Bool.false_eq_true, if_false, advance_setU]

theorem engWait_of_done {status scope : Nat} {flags : UWord} (h : s.engTicket s.cur (s.u o.a).toNat = .done status scope flags)
    (ht : engStatusTrap status = none) :
    engWait s o test = ((acquire s s.me.core (s.ctxOf s.me) scope .all).modGroup s.cur fun g => { g with flags := g.flags ||| flags }).wroteU
      o.d (BitVec.ofNat 64 status) := by
  rw [engWait, uniform_of_conv _ hc, ← advance_acquired]
  simp only [hq, h, ht, Bool.false_eq_true, if_false]

end

/-! ## `qfence` (R290) -/

theorem tb_eq_testBit (v i : Nat) : tb v i = v.testBit i := by
  rw [tb, Nat.testBit_eq_decide_div_mod_eq]
  rfl

theorem execQfence_of_bound {s : State} {o : UOp} (hc : s.Conv)
    (hb : ∀ n < 8, (o.imm12 % 256).testBit n = true → (s.cap s.me n).kind = 1 ∧ (s.cap s.me n).send = true) :
    exec (.qfence o) s = .next (s.modGroup s.cur fun g => ({ g with fences :=
      (g.fences.filter fun f => f.2.any fun c => s.codePending c) ++
        (if s.postedTo s.cur (o.imm12 % 256) = [] then [] else [(o.imm12 % 256, s.postedTo s.cur (o.imm12 % 256))]) } : Group).movedTo
          (s.curPc + 4)) := by
  have found : (List.range 8).find? (fun n => tb (o.imm12 % 256) n && !((s.cap s.me n).kind == 1 && (s.cap s.me n).send)) = none := by
    rw [List.find?_eq_none]
    intro n hn
    rw [tb_eq_testBit]
    cases ht : (o.imm12 % 256).testBit n with
    | false => simp
    | true =>
      obtain ⟨hk, hs⟩ := hb n (List.mem_range.1 hn) ht
      simp [hk, hs]
  show Host.Outcome.next (uniform s _) = _
  rw [uniform_of_conv _ hc]
  simp only [found, advance_modGroup, List.isEmpty_iff]

/-- Settles O38: a post takes the branches of `engPost_of_bound`; a wait goes by its ticket, and a status with no trap is written, merged
and acquired in any order. -/
theorem enginePostsAndWaits : Obligations.EnginePostsAndWaits := by
  unfold Obligations.EnginePostsAndWaits
  intro s o hc g
  refine ⟨fun p hp => ?_, ?_, ?_⟩
  · intro n seq
    obtain ⟨bit, he⟩ := enginePosts_eq s o p hp
    refine ⟨fun hq => ?_, fun hq h1 => ?_, fun hq h1 h2 => ?_, fun hq h1 h2 hd => ?_⟩
    · rw [he, engPost, uQueue_of_unbound _ hc hq]
    · rw [he, engPost_of_bound _ _ hc hq]
      exact congrArg Host.Outcome.next (if_pos h1)
    · rw [he, engPost_of_bound _ _ hc hq]
      exact congrArg Host.Outcome.next ((if_neg (not_not.2 h1)).trans (if_pos h2))
    · rw [he, engPost_of_bound _ _ hc hq]
      exact congrArg Host.Outcome.next ((if_neg (not_not.2 h1)).trans ((if_neg (Bool.eq_false_iff.1 h2)).trans (hd.uRelease_eq _ _)))
  · intro mask ops hb
    exact execQfence_of_bound hc hb
  · intro v ti hq
    have both : ∀ p ∈ [Instr.qwait, .qwaitTest], ∃ test, exec (p o) s = .next (engWait s o test) := by
      simp only [List.forall_mem_cons]
      exact ⟨⟨_, rfl⟩, ⟨_, rfl⟩, List.forall_mem_nil _⟩
    refine ⟨fun p hp => ?_, fun h => ⟨?_, ?_⟩⟩
    · obtain ⟨test, he⟩ := both p hp
      rw [he]
      exact ⟨fun h => by rw [engWait_of_bad test hc hq h], fun h => by rw [engWait_of_expired test hc hq h],
        fun st sc fl h ht => by rw [engWait_of_done test hc hq h ht]⟩
    · exact congrArg Host.Outcome.next (engWait_of_pending false hc hq h)
    · exact congrArg Host.Outcome.next (engWait_of_pending true hc hq h)

end Sys2Proof.Machine
end

section
/-! O39: results that land, and what reaches its home (R20, R213, R252, R253, R308). -/

namespace Sys2Proof.Machine

/-! ## What a write at a home changes (R213, R474, R476) -/

theorem expose_eq (s : State) (who : Option Nat) (a : Nat) : ∃ ls, expose s who a = { s with launches := ls } := ⟨_, rfl⟩

/-- A snapshot takes a frame for its launch, or is logged as impossible. -/
theorem snapshot_eq (s : State) (who : Option Nat) (a : Nat) :
    ∃ ls n f, snapshot s who a = { s with launches := ls, snapFrames := n, firm := f } := by
  cases who with
  | none => exact ⟨_, _, _, rfl⟩
  | some l =>
    simp only [snapshot]
    split
    · exact ⟨_, _, _, rfl⟩
    · split <;> exact ⟨_, _, _, rfl⟩

/-- A write into a good line. -/
theorem homeWrite_good {s : State} (who : Option Nat) {a : Nat} (bs : List (Nat × Byte)) (h : s.lineClass a = 0) :
    ∃ ls n f, homeWrite s who a bs =
      { s with launches := ls, snapFrames := n, firm := f, tags := AMap.erase s.tags (lineOf a), mem := memPut s.mem bs } := by
  obtain ⟨ls, he⟩ := expose_eq s who a
  obtain ⟨ls', n, f, hs⟩ := snapshot_eq { s with launches := ls } who a
  have good : ({ s with launches := ls', snapFrames := n, firm := f } : State).lineClass a = 0 := h
  refine ⟨ls', n, f, ?_⟩
  simp only [homeWrite, he, hs, good, decide_true, Bool.or_true, if_true]

/-- Bytes laid in memory stand there, and nothing else changes (R217). -/
theorem stored_of_mem {s t : State} {a : Nat} {vs : List Byte} (h : t.mem = memPut s.mem (spread a vs)) : Claims.Stored s t a vs := by
  refine ⟨fun i hi => ?_, fun x hx => ?_⟩
  · rw [State.byte, h, get_memPut_spread _ _ _ _ hi, List.getD_eq_getElem?_getD, List.getElem?_eq_getElem hi]
    rfl
  · rw [State.byte, h, get_memPut_spread_out _ _ _ _ hx]
    rfl

/-! ## Results (R20) -/

theorem prvRoom_nil (s : State) (g : Nat) : prvRoom s g [] = (s, none) := by rw [prvRoom]

/-- A value as a load extends it to a register (R269). -/
theorem extended_eq (ext : Nat) (v : UWord) : BitVec.ofNat 32 (extendLoad ext v.toNat) = Claims.extended ext v := by
  have sign : ∀ n, 0 < n → BitVec.ofNat 32 (wrap 32 (sx n v.toNat)) = (v.setWidth n).signExtend 32 := fun n hn => by
    rw [wrap_ofInt, BitVec.ofNat_toNat, BitVec.setWidth_eq, sx_toInt hn, BitVec.ofNat_toNat]
    rfl
  unfold extendLoad Claims.extended
  split
  · exact sign 8 (by omega)
  · exact sign 16 (by omega)
  · exact BitVec.ofNat_toNat ..

/-- A register whose value lands in the resident window, or a global. -/
def State.resident (s : State) (d : Dst) : Prop :=
  let l := (s.group d.group).lane d.lane
  (s.group d.group).ended = false ∧ l.isExited = false ∧ ∀ n, d.slot = .stack n → l.rb ≤ n ∧ n < l.rb + (s.group d.group).depth

theorem landLines_of_resident {s : State} {d : Dst} (hp : d.pair = false) (h : s.resident d) : s.landLines d = [] := by
  obtain ⟨_, _, hr⟩ := h
  unfold State.landLines
  cases hs : d.slot with
  | glob n => simp [hp]
  | stack n =>
    have := (hr n hs).1
    simp [hp, Nat.not_lt.2 this]

theorem landWord_of_resident {s : State} {d : Dst} (v : Word) (h : s.resident d) :
    landWord s d.group d.lane d.slot v = s.modGroup d.group fun g => g.modLane d.lane fun l => (l.put g.depth d.slot v).fill d.slot := by
  obtain ⟨he, hx, hr⟩ := h
  simp only [landWord, he, hx, Bool.or_self, Bool.false_eq_true, if_false]
  cases hs : d.slot with
  | glob n => rfl
  | stack n =>
    obtain ⟨h1, h2⟩ := hr n hs
    simp only [if_neg (Nat.not_lt.2 h1), if_neg (Nat.not_le.2 h2)]

theorem execResultLands_of_resident {s : State} {k : Nat} {x : Landing} (hk : s.landing[k]? = some x) (hp : x.dst.pair = false)
    (h : s.resident x.dst) :
    exec (.resultLands k) s = .next (({ s with landing := s.landing.eraseIdx k } : State).modGroup x.dst.group fun g =>
      g.modLane x.dst.lane fun l => (l.put g.depth x.dst.slot (Claims.extended x.dst.ext x.val)).fill x.dst.slot) := by
  have lines := landLines_of_resident hp h
  have h' : ({ s with landing := s.landing.eraseIdx k } : State).resident x.dst := h
  have lines' := landLines_of_resident hp h'
  show Host.Outcome.next _ = _
  simp only [hk, lines, prvRoom_nil, land, lines', landWord_of_resident _ h', hp, Bool.false_eq_true, if_false, extended_eq]

/-! ## Stores (R213, R240) -/

/-- Store k is the oldest of its core and line, at a good line that the host does not hold: it is performed. -/
theorem performStore_of_oldest {s : State} {k : Nat} {st : Store} (hk : s.stores[k]? = some st)
    (old : ∀ j < k, ∀ x, s.stores[j]? = some x → x.core = st.core → lineOf x.dpa ≠ lineOf st.dpa) (hs : s.snoopNeeded st.dpa true = false) :
    performStore s k = dropWay (homeWrite { s with stores := s.stores.eraseIdx k } (some st.launch) st.dpa st.bytes) st.core st.dpa := by
  obtain ⟨hlt, hget⟩ := List.getElem?_eq_some_iff.1 hk
  have first : s.stores.findIdx? (fun x => x.core == st.core && lineOf x.dpa == lineOf st.dpa) = some k := by
    rw [List.findIdx?_eq_some_iff_getElem]
    refine ⟨hlt, by simp [hget], fun j hj => ?_⟩
    have := old j hj s.stores[j] (List.getElem?_eq_getElem _)
    simpa using this
  simp only [performStore, hk, first, Option.getD_some, hs, Bool.false_eq_true, if_false]

/-! ## Reductions (R252, R253) -/

theorem storeL1_eq (s : State) (core a : Nat) (bs : List Byte) (b : Bool) : ∃ cs, storeL1 s core a bs b = { s with caches := cs } := by
  unfold storeL1
  cases b <;> exact ⟨_, rfl⟩

/-- An RMW at a good line writes what it computes from the bytes there (R252). -/
theorem homeRmw_good {s : State} (who : Option Nat) {a : Nat} (n : Nat) (f : Nat → Nat) (h : s.lineClass a = 0) :
    homeRmw s who a n (fun old => some (f old)) =
      (homeWrite s who a (spread a (natBytes (n / 8) (f (bytesNat (s.bytes a (n / 8)))))), bytesNat (s.bytes a (n / 8)), 0) := by
  simp only [homeRmw, h, ne_eq, not_true_eq_false, if_false]

/-- Bytes of an entry's operand (R253). -/
def RedEntry.bytes (e : RedEntry) : Nat := if e.wide then 8 else 4

theorem RedEntry.bits_eq (e : RedEntry) : (if e.wide then 64 else 32) = 8 * e.bytes := by
  unfold RedEntry.bytes
  cases e.wide <;> rfl

/-- The bytes that an entry's flush leaves at an address (R252). -/
def RedEntry.result (e : RedEntry) (s : State) (a : Nat) : List Byte :=
  natBytes e.bytes (rmw e.op (8 * e.bytes) (bytesNat (s.bytes a e.bytes)) e.val.toNat)

/-- The flush of an entry for a line of this device that the host does not hold: one RMW at its home, and the copies follow. -/
theorem flushRed_dpa {s : State} {core a : Nat} {e : RedEntry} (ht : e.tgt = .dpa a) (hl : s.lineClass a = 0)
    (hs : s.snoopNeeded a true = false) :
    flushRed s core e = storeL1 (dropWay (homeWrite (s.modCore core fun c => { c with red := c.red.erase e })
      (some (s.teamOf (s.group e.group)).launch) a (spread a (e.result s a))) core a) core a (e.result s a) false := by
  have good : (s.modCore core fun c => { c with red := c.red.erase e }).lineClass a = 0 := hl
  have width : 8 * e.bytes / 8 = e.bytes := Nat.mul_div_cancel_left _ (by omega)
  simp only [flushRed, ht, hs, Bool.false_eq_true, if_false, RedEntry.bits_eq, homeRmw_good _ _ _ good, width, ne_eq, not_true_eq_false]
  rfl

theorem flushRed_good {s : State} {core a : Nat} {e : RedEntry} (ht : e.tgt = .dpa a) (hl : s.lineClass a = 0)
    (hs : s.snoopNeeded a true = false) :
    ((flushRed s core e).core core).red = (s.core core).red.erase e ∧ (flushRed s core e).groups = s.groups ∧
      Claims.Stored s (flushRed s core e) a (e.result s a) := by
  have good : (s.modCore core fun c => { c with red := c.red.erase e }).lineClass a = 0 := hl
  obtain ⟨ls, n, f, hw⟩ := homeWrite_good (some (s.teamOf (s.group e.group)).launch) (spread a (e.result s a)) good
  rw [flushRed_dpa ht hl hs, hw]
  obtain ⟨cs, hc⟩ := storeL1_eq (dropWay _ core a) core a (e.result s a) false
  rw [hc]
  exact ⟨congrArg Core.red (s.core_modCore_self core fun c => { c with red := c.red.erase e }), rfl, stored_of_mem rfl⟩

/-- An event with an age acts once the age is reached, and not before (R253, R308). -/
theorem outcome_of_age {s t : State} {age : Nat} (x : Host.Outcome State Fault Refusal) (hx : x = .next (if age ≤ s.clock then t else s)) :
    (age ≤ s.clock → x = .next t) ∧ (s.clock < age → x = .next s) := by
  refine ⟨fun h => ?_, fun h => ?_⟩
  · rw [hx, if_pos h]
  · rw [hx, if_neg (Nat.not_le.2 h)]

theorem execReductionFlush_of_entry {s : State} {core k : Nat} {e : RedEntry} (hk : (s.core core).red[k]? = some e) :
    exec (.reductionFlush core k) s = .next (flushRed s core e) := by
  show Host.Outcome.next _ = _
  simp only [hk]

theorem execReductionEntryAgeExpiry_of_entry {s : State} {core k : Nat} {e : RedEntry} (hk : (s.core core).red[k]? = some e) :
    exec (.reductionEntryAgeExpiry core k) s = .next (if e.born + 8192 ≤ s.clock then flushRed s core e else s) := by
  show Host.Outcome.next _ = _
  simp only [hk]

/-! ## Combined writes (R308) -/

theorem drainWc_peer {s : State} {core peer off : Nat} {e : WcEntry} (ht : e.tgt = .peer peer off) :
    ((drainWc s core e).core core).wcb = (s.core core).wcb.erase e ∧ (drainWc s core e).groups = s.groups ∧
      (drainWc s core e).mem = s.mem ∧ Claims.Requested s (drainWc s core e) peer off e.bytes := by
  simp only [drainWc, ht]
  refine ⟨?_, rfl, rfl, ⟨_, rfl, rfl, rfl, rfl, rfl, rfl, rfl⟩, ?_⟩
  · exact congrArg Core.wcb (s.core_modCore_self core fun c => { c with wcb := c.wcb.erase e })
  · exact AMap.get_set_self ..

theorem execWcbDrain_of_entry {s : State} {core k : Nat} {e : WcEntry} (hk : (s.core core).wcb[k]? = some e) :
    exec (.wcbDrain core k) s = .next (drainWc s core e) := by
  show Host.Outcome.next _ = _
  simp only [hk]

theorem execWcbEntryAgeExpiry_of_entry {s : State} {core k : Nat} {e : WcEntry} (hk : (s.core core).wcb[k]? = some e) :
    exec (.wcbEntryAgeExpiry core k) s = .next (if e.born + 4096 ≤ s.clock then drainWc s core e else s) := by
  show Host.Outcome.next _ = _
  simp only [hk]

/-- Settles O39: each event finds what waits, and performs it by the one rule of its kind. -/
theorem memoryEventsPerformWhatWaits : Obligations.MemoryEventsPerformWhatWaits := by
  unfold Obligations.MemoryEventsPerformWhatWaits
  intro s k core
  refine ⟨fun x hk => ?_, fun st vs hk hb old hl hs => ?_, fun e a hk ht hl hs => ?_, fun e peer off hk ht => ?_⟩
  · intro d l hp he hx hr
    exact execResultLands_of_resident hk hp ⟨he, hx, hr⟩
  · have good : ({ s with stores := s.stores.eraseIdx k } : State).lineClass st.dpa = 0 := hl
    obtain ⟨ls, n, f, hw⟩ := homeWrite_good (some st.launch) st.bytes good
    refine ⟨_, congrArg Host.Outcome.next (performStore_of_oldest hk old hs), ?_⟩
    rw [hw, hb]
    exact ⟨rfl, rfl, stored_of_mem rfl⟩
  · intro n old done
    have flushed := flushRed_good (core := core) ht hl hs
    have aged := outcome_of_age _ (execReductionEntryAgeExpiry_of_entry hk)
    exact ⟨⟨_, execReductionFlush_of_entry hk, flushed⟩, fun h => ⟨_, aged.1 h, flushed⟩, aged.2⟩
  · intro done
    have drained := drainWc_peer (s := s) (core := core) ht
    have aged := outcome_of_age _ (execWcbEntryAgeExpiry_of_entry hk)
    exact ⟨⟨_, execWcbDrain_of_entry hk, drained⟩, fun h => ⟨_, aged.1 h, drained⟩, aged.2⟩

end Sys2Proof.Machine
end

section
/-! O55: the frame of register words and of scratch stores (R22, R25, R123, R153, R269). -/

namespace Sys2Proof.Machine

/-! ## Lanes of which only the place and the state differ -/

/-- Lane `l'` is `l` at another place, in another state of the PC table (R344). -/
def Lane.Rests (l l' : Lane) : Prop := l' = { l with pc := l'.pc, st := l'.st, waited := l'.waited, op := l'.op }

theorem Lane.Rests.refl (l : Lane) : l.Rests l := rfl

theorem Lane.Rests.trans {l l' l'' : Lane} (h : l.Rests l') (h' : l'.Rests l'') : l.Rests l'' := by
  unfold Lane.Rests at *
  rw [h'] at ⊢
  rw [h]

theorem Lane.Rests.marked {l l' : Lane} (h : l.Rests l') : l'.marked = l.marked := by rw [h]

/-- A lane without marks parks as it is (R455). -/
theorem Lane.rests_parked {l : Lane} (pc : Word) (h : l.marked = []) : l.Rests { l.unmark with st := .parked, pc := pc } := by
  simp only [Lane.Rests, Lane.unmark, Lane.reissue, h, List.foldl_nil]

theorem Group.lane_modLane (g : Group) (i : Nat) (f : Lane → Lane) (j : Nat) :
    (g.modLane i f).lane j = g.lane j ∨ j = i ∧ (g.modLane i f).lane j = f (g.lane j) := by
  by_cases hj : j = i
  · subst hj
    by_cases hl : j < g.lanes.length
    · exact .inr ⟨rfl, g.lane_modLane_self f hl⟩
    · refine .inl ?_
      simp [Group.lane, Group.modLane, List.modify_eq_self (Nat.le_of_not_lt hl)]
  · exact .inl (g.lane_modLane_ne f hj)

/-- The lanes of a list park; the others are as before. -/
theorem Group.foldl_parked {α : Type} (ls : List (Nat × α)) (pc : Word) (g : Group) (hm : ∀ x ∈ ls, (g.lane x.1).marked = []) (i : Nat) :
    (g.lane i).Rests ((ls.foldl (fun g x => g.modLane x.1 fun l => { l.unmark with st := .parked, pc := pc }) g).lane i) ∧
      ((∀ x ∈ ls, x.1 ≠ i) →
        (ls.foldl (fun g x => g.modLane x.1 fun l => { l.unmark with st := .parked, pc := pc }) g).lane i = g.lane i) := by
  induction ls generalizing g with
  | nil => exact ⟨.refl _, fun _ => rfl⟩
  | cons x r ih =>
    rw [List.foldl_cons]
    have rests : ∀ j, (g.lane j).Rests ((g.modLane x.1 fun l => { l.unmark with st := .parked, pc := pc }).lane j) := fun j => by
      rcases g.lane_modLane x.1 (fun l => { l.unmark with st := .parked, pc := pc }) j with h | ⟨hj, h⟩
      · rw [h]; exact .refl _
      · rw [h]
        exact Lane.rests_parked pc (hj ▸ hm x List.mem_cons_self)
    obtain ⟨h1, h2⟩ := ih _ fun y hy => (rests y.1).marked.trans (hm y (List.mem_cons_of_mem _ hy))
    refine ⟨(rests i).trans h1, fun hn => ?_⟩
    rw [h2 fun y hy => hn y (List.mem_cons_of_mem _ hy)]
    exact g.lane_modLane_ne _ (hn x List.mem_cons_self).symm

/-! ## Traps of a user group -/

/-- Lanes of the issuing group have parked, of `R` alone: nothing else has changed but its records and its hold. -/
structure Parked (R : List Nat) (s t : State) : Prop where
  rest : t = { s with groups := t.groups, stamp := t.stamp }
  others : ∀ k, k ≠ s.cur → t.group k = s.group k
  me : t.group s.cur = { s.me with lanes := (t.group s.cur).lanes, records := (t.group s.cur).records, hold := (t.group s.cur).hold }
  out : ∀ i, i ∉ R → (t.group s.cur).lane i = s.me.lane i
  lanes : ∀ i, (s.me.lane i).Rests ((t.group s.cur).lane i)

theorem Parked.refl (R : List Nat) (s : State) : Parked R s s := ⟨rfl, fun _ _ => rfl, rfl, fun _ _ => rfl, fun _ => .refl _⟩

theorem Parked.cur {R : List Nat} {s t : State} (h : Parked R s t) : t.cur = s.cur := by rw [h.rest]

theorem Parked.trans {R : List Nat} {s t u : State} (h : Parked R s t) (h' : Parked R t u) : Parked R s u := by
  have hc := h.cur
  refine ⟨?_, fun k hk => ?_, ?_, fun i hi => ?_, fun i => ?_⟩
  · rw [h'.rest, h.rest]
  · rw [h'.others k (hc ▸ hk), h.others k hk]
  · have := h'.me
    rw [State.me, hc] at this
    rw [this, h.me]
  · have := h'.out i hi
    rw [State.me, hc] at this
    rw [this, h.out i hi]
  · have := h'.lanes i
    rw [State.me, hc] at this
    exact (h.lanes i).trans this

theorem State.modGroup_of_ge {s : State} {g : Nat} (f : Group → Group) (h : s.groups.length ≤ g) : s.modGroup g f = s := by
  simp only [State.modGroup, List.modify_eq_self h]

/-- A change of the issuing group's lanes, records and hold that parks lanes of `R` alone. -/
theorem Parked.of_modGroup {s : State} {R : List Nat} {f : Group → Group}
    (frame : f s.me = { s.me with lanes := (f s.me).lanes, records := (f s.me).records, hold := (f s.me).hold })
    (out : ∀ i, i ∉ R → (f s.me).lane i = s.me.lane i) (lanes : ∀ i, (s.me.lane i).Rests ((f s.me).lane i)) :
    Parked R s (s.modGroup s.cur f).tick := by
  by_cases hg : s.groups.length ≤ s.cur
  · rw [State.modGroup_of_ge _ hg]
    exact ⟨rfl, fun _ _ => rfl, rfl, fun _ _ => rfl, fun _ => .refl _⟩
  · have self : (s.modGroup s.cur f).tick.group s.cur = f s.me := s.group_modGroup_self f (Nat.lt_of_not_le hg)
    exact ⟨rfl, fun k hk => s.group_modGroup_ne f hk, self ▸ frame, self ▸ out, self ▸ lanes⟩

/-- A trap of lanes without marks in a user group parks them (R431, R455). -/
theorem takeTrap_parked {s : State} {R : List Nat} (c : Cause) (pc : Word) (ext unif : Bool) {ls : List (Nat × UWord)} (status : Nat)
    (hu : s.me.priv = .user) (hm : ∀ i ∈ R, (s.me.lane i).marked = []) (hR : ∀ x ∈ ls, x.1 ∈ R) :
    Parked R s (takeTrap s s.cur c pc ext unif ls status) := by
  have user : ((s.group s.cur).priv == Priv.supervisor) = false := by rw [show (s.group s.cur).priv = _ from hu]; rfl
  have lanes := Group.foldl_parked ls pc s.me fun x hx => hm x.1 (hR x hx)
  simp only [takeTrap, user, Bool.false_eq_true, if_false]
  split
  · exact .refl R s
  · refine .of_modGroup ?_ (fun i hi => (lanes i).2 fun x hx e => hi (e ▸ hR x hx)) fun i => (lanes i).1
    rw [Group.foldl_modLane_eq ls (fun _ l => { l.unmark with st := .parked, pc := pc }) s.me]

/-- Traps of lanes of `R` one after the other (R456). -/
theorem foldl_takeTrap_parked {s t : State} {R : List Nat} (pc : Word) (ext : Bool) (ts : List (Nat × Cause × Nat))
    (hu : s.me.priv = .user) (hm : ∀ i ∈ R, (s.me.lane i).marked = []) (hR : ∀ x ∈ ts, x.1 ∈ R) (h : Parked R s t) :
    Parked R s (ts.foldl (fun t x => takeTrap t s.cur x.2.1 pc ext false [(x.1, BitVec.ofNat 64 x.2.2)]) t) := by
  induction ts generalizing t with
  | nil => exact h
  | cons x r ih =>
    have hme : t.me = t.group s.cur := by rw [State.me, h.cur]
    refine ih (fun y hy => hR y (List.mem_cons_of_mem _ hy)) (h.trans ?_)
    rw [← h.cur]
    refine takeTrap_parked _ _ _ _ _ ?_ (fun i hi => ?_) fun y hy => ?_
    · rw [hme, h.me]; exact hu
    · rw [hme, (h.lanes i).marked]; exact hm i hi
    · rw [List.mem_singleton.1 hy]; exact hR x List.mem_cons_self

/-- The traps of a run's lanes, each on its own (R456). -/
theorem trapLanes_parked {s : State} {R : List Nat} (pc : Word) (ext : Bool) {rs : List (Nat × LaneRes)} (hu : s.me.priv = .user)
    (hm : ∀ i ∈ R, (s.me.lane i).marked = []) (hR : ∀ x ∈ rs, x.1 ∈ R) : Parked R s (trapLanes s s.cur pc ext rs) := by
  have user : ((s.group s.cur).priv == Priv.supervisor) = false := by rw [show (s.group s.cur).priv = _ from hu]; rfl
  simp only [trapLanes, user, Bool.false_eq_true, if_false]
  refine foldl_takeTrap_parked pc ext _ hu hm (fun x hx => ?_) (.refl R s)
  obtain ⟨y, hy, e⟩ := List.mem_filterMap.1 hx
  split at e
  · cases e; exact hR y hy
  · cases e

/-! ## A lane whose destination alone is written -/

theorem sameButOperand_refl (l : Lane) (depth d : Nat) (pair : Bool) : Claims.SameButOperand l l depth d pair :=
  ⟨fun _ _ => rfl, fun _ _ => rfl, fun _ _ => rfl, rfl, rfl, rfl, rfl, rfl, rfl⟩

theorem sameButOperand_rests {l l' l'' : Lane} {depth d : Nat} {pair : Bool} (h : Claims.SameButOperand l l' depth d pair)
    (hr : l'.Rests l'') : Claims.SameButOperand l l'' depth d pair := by
  rw [hr]; exact h

/-- `SameButOperand` for any list of registers that may differ. -/
def Lane.SameBut (S : List Slot) (depth : Nat) (l l' : Lane) : Prop :=
  (∀ n, Slot.glob n ∉ S → l'.globals.get 0 n = l.globals.get 0 n) ∧
    (∀ k, (∀ n, Slot.stack n ∈ S → n % depth ≠ k) → l'.slots.get 0 k = l.slots.get 0 k) ∧
    (∀ x, x ∉ S → l'.isEmpty x = l.isEmpty x) ∧
    l'.w = l.w ∧ l'.rb = l.rb ∧ l'.cdep = l.cdep ∧ l'.preds = l.preds ∧ l'.fifos = l.fifos ∧ l'.pulls = l.pulls

theorem sameButOperand_iff (l l' : Lane) (depth d : Nat) (pair : Bool) :
    Claims.SameButOperand l l' depth d pair ↔ l.SameBut (l.opSlots d pair) depth l' := .rfl

theorem Lane.SameBut.trans {S : List Slot} {depth : Nat} {l l' l'' : Lane} (h : l.SameBut S depth l') (h' : l'.SameBut S depth l'') :
    l.SameBut S depth l'' := by
  obtain ⟨g, k, e, w, rb, cd, p, f, q⟩ := h
  obtain ⟨g', k', e', w', rb', cd', p', f', q'⟩ := h'
  exact ⟨fun n hn => (g' n hn).trans (g n hn), fun n hn => (k' n hn).trans (k n hn), fun x hx => (e' x hx).trans (e x hx),
    w'.trans w, rb'.trans rb, cd'.trans cd, p'.trans p, f'.trans f, q'.trans q⟩

theorem Lane.sameBut_setReg {S : List Slot} {l : Lane} {n : Nat} (depth : Nat) (v : Word) (h : l.slotOf n ∈ S) :
    l.SameBut S depth (l.setReg depth n v) := by
  unfold Lane.setReg
  generalize l.slotOf n = sl at h
  have empty : ∀ x, x ∉ S → ((l.put depth sl v).fill sl).isEmpty x = l.isEmpty x := fun x hx => by
    rw [Lane.fill_isEmpty_ne _ (ne_of_mem_of_not_mem h hx).symm, Lane.put_isEmpty]
  cases sl with
  | glob m => exact ⟨fun k hk => AMap.get_set_ne _ _ _ fun e => hk (e ▸ h), fun _ _ => rfl, empty, rfl, rfl, rfl, rfl, rfl, rfl⟩
  | stack m => exact ⟨fun _ _ => rfl, fun k hk => AMap.get_set_ne _ _ _ (hk m h).symm, empty, rfl, rfl, rfl, rfl, rfl, rfl⟩

theorem sameButOperand_wrOp (l : Lane) (depth d : Nat) (pair : Bool) (v : Nat) :
    Claims.SameButOperand l (l.wrOp depth d pair v) depth d pair := by
  rw [sameButOperand_iff]
  cases pair with
  | false => exact Lane.sameBut_setReg depth _ (by simp [Lane.opSlots])
  | true =>
    rw [Lane.wrOp_pair]
    exact (Lane.sameBut_setReg depth _ (by simp [Lane.opSlots])).trans
      (Lane.sameBut_setReg depth _ (by simp [Lane.opSlots]))

/-! ## The part of a lane that writes its destination alone -/

/-- A lane's part of a register word: it writes its destination, waits or traps; it sets no flag and marks nothing empty. -/
structure LaneRes.WritesOnly (l : Lane) (depth d : Nat) (pair : Bool) (r : LaneRes) : Prop where
  same : Claims.SameButOperand l r.lane depth d pair
  marked : r.lane.marked = l.marked
  out : r.out = .next ∨ (∃ w, r.out = .block w) ∨ ∃ c a, r.out = .trap c a
  fl : r.fl = 0
  marks : r.marks = []

theorem Lane.marked_wrOp (l : Lane) (depth d : Nat) (pair : Bool) (v : Nat) : (l.wrOp depth d pair v).marked = l.marked := by
  cases pair <;> simp [Lane.wrOp]

/-- A lane whose guard is false does nothing, as far as its registers go. -/
theorem LaneRes.WritesOnly.of_stay (l : Lane) (depth d : Nat) (pair : Bool) : ({ lane := l } : LaneRes).WritesOnly l depth d pair :=
  ⟨sameButOperand_refl .., rfl, .inl rfl, rfl, rfl⟩

/-- A lane that reads and writes full registers acts; else it waits or traps as it was (R20, R64). -/
theorem LaneRes.WritesOnly.gated {l : Lane} {depth d : Nat} {pair : Bool} (srcs : List Src) (dst : List (Nat × Slot)) {act : Unit → LaneRes}
    (h : (act ()).WritesOnly l depth d pair) : (gated srcs dst l act).WritesOnly l depth d pair := by
  rw [gated_cases]
  split
  · exact ⟨sameButOperand_refl .., rfl, .inr (.inr ⟨_, _, rfl⟩), rfl, rfl⟩
  split
  · exact h
  · exact ⟨sameButOperand_refl .., rfl, .inr (.inl ⟨_, rfl⟩), rfl, rfl⟩

/-- A word whose lanes write one operand, with a value of their own registers and sources. -/
def operandWord (s : State) (o : LaneOp) (sh : Shape) (f : Group → Lane → Nat → Nat → Nat → Nat) : State :=
  laneWord s o sh fun g _ l a b c => { lane := l.wrOp g.depth o.d o.s (f g l a b c) }

theorem lanePart_writesOnly (s : State) (o : LaneOp) (sh : Shape) (f : Group → Lane → Nat → Nat → Nat → Nat) (g : Group) (i : Nat)
    (l : Lane) : (lanePart s o sh (fun g _ l a b c => { lane := l.wrOp g.depth o.d o.s (f g l a b c) }) g i l).WritesOnly l g.depth o.d o.s := by
  unfold lanePart
  split
  · exact .of_stay ..
  · exact .gated _ _ ⟨sameButOperand_wrOp .., Lane.marked_wrOp .., .inl rfl, rfl, rfl⟩

theorem LaneRes.WritesOnly.settleLane {l : Lane} {depth d : Nat} {pair : Bool} {r : LaneRes} (h : r.WritesOnly l depth d pair) (len : Nat) :
    Claims.SameButOperand l (settleLane len l r) depth d pair ∧ (l.marked = [] → (Machine.settleLane len l r).marked = []) := by
  rcases h.out with e | ⟨w, e⟩ | ⟨c, a, e⟩
  · simp only [Machine.settleLane, e]
    exact ⟨h.same, fun hl => h.marked.trans hl⟩
  · simp only [Machine.settleLane, e, h.marks]
    exact ⟨sameButOperand_refl l depth d pair, fun _ => trivial⟩
  · simp only [Machine.settleLane, e]
    exact ⟨sameButOperand_refl l depth d pair, fun hl => hl⟩

/-! ## The frame of a register word -/

/-- What a word on lane registers leaves as it was (R22, R25, R123). -/
structure LaneFrame (d : Nat) (pair : Bool) (s t : State) : Prop where
  rest : t = { s with groups := t.groups, stamp := t.stamp }
  others : ∀ k, k ≠ s.cur → t.group k = s.group k
  me : t.me = { s.me with lanes := t.me.lanes, records := t.me.records, hold := t.me.hold }
  out : ∀ i, i ∉ s.myRun → t.me.lane i = s.me.lane i
  lanes : ∀ i, Claims.SameButOperand (s.me.lane i) (t.me.lane i) s.me.depth d pair

theorem LaneFrame.refl (d : Nat) (pair : Bool) (s : State) : LaneFrame d pair s s :=
  ⟨rfl, fun _ _ => rfl, rfl, fun _ _ => rfl, fun _ => sameButOperand_refl ..⟩

/-- Lanes of the run that park afterwards (R455). -/
theorem LaneFrame.parked {d : Nat} {pair : Bool} {s t u : State} (h : LaneFrame d pair s t) (hp : Parked s.myRun t u) :
    LaneFrame d pair s u := by
  have hc : t.cur = s.cur := by rw [h.rest]
  have hme : u.me = u.group t.cur := by rw [State.me, hp.cur]
  refine ⟨by rw [hp.rest, h.rest], fun k hk => ?_, ?_, fun i hi => ?_, fun i => ?_⟩
  · rw [hp.others k (hc ▸ hk), h.others k hk]
  · rw [hme, hp.me, h.me]
  · rw [hme, hp.out i hi, h.out i hi]
  · rw [hme]
    exact sameButOperand_rests (h.lanes i) (hp.lanes i)

/-- The lanes of a run write their destinations. -/
theorem laneFrame_ranGroup {s : State} (len : Nat) {d : Nat} {pair : Bool} {f : Group → Nat → Lane → LaneRes}
    (hf : ∀ i ∈ s.myRun, (f s.me i (s.me.lane i)).WritesOnly (s.me.lane i) s.me.depth d pair)
    (hm : ∀ i ∈ s.myRun, (s.me.lane i).marked = []) :
    LaneFrame d pair s (s.modGroup s.cur (ranGroup len (runParts s f))) ∧
      ∀ i ∈ s.myRun, ((s.modGroup s.cur (ranGroup len (runParts s f))).me.lane i).marked = [] := by
  by_cases hg : s.groups.length ≤ s.cur
  · rw [State.modGroup_of_ge _ hg]
    exact ⟨.refl d pair s, hm⟩
  have self : (s.modGroup s.cur (ranGroup len (runParts s f))).me = ranGroup len (runParts s f) s.me :=
    s.group_modGroup_self _ (Nat.lt_of_not_le hg)
  have fl : ∀ x ∈ runParts s f, x.2.fl = 0 := fun x hx => by
    obtain ⟨i, hi, rfl⟩ := List.mem_map.1 hx
    exact (hf i hi).fl
  have lane : ∀ i, (i ∉ s.myRun ∧ (ranGroup len (runParts s f) s.me).lane i = s.me.lane i) ∨
      i ∈ s.myRun ∧ (ranGroup len (runParts s f) s.me).lane i = settleLane len (s.me.lane i) (f s.me i (s.me.lane i)) := fun i => by
    by_cases hi : i ∈ s.myRun
    · refine .inr ⟨hi, (ranGroup_lane s len f i (Group.mem_run.1 hi).1).trans (if_pos hi)⟩
    · refine .inl ⟨hi, ?_⟩
      by_cases hl : i < s.me.lanes.length
      · exact (ranGroup_lane s len f i hl).trans (if_neg hi)
      · have hl' : (ranGroup len (runParts s f) s.me).lanes.length ≤ i := by
          rw [ranGroup_lanes_length]; exact Nat.le_of_not_lt hl
        simp [Group.lane, hl', Nat.le_of_not_lt hl]
  refine ⟨⟨rfl, fun k hk => s.group_modGroup_ne _ hk, ?_, fun i hi => ?_, fun i => ?_⟩, fun i hi => ?_⟩
  · rw [self, ranGroup_frame, ranGroup_flags_zero _ _ _ fl]
  · rw [self]
    exact (lane i).elim And.right fun h => absurd h.1 hi
  · rw [self]
    rcases lane i with ⟨-, e⟩ | ⟨hi, e⟩
    · rw [e]; exact sameButOperand_refl ..
    · rw [e]; exact ((hf i hi).settleLane len).1
  · rw [self]
    rcases lane i with ⟨hn, -⟩ | ⟨-, e⟩
    · exact absurd hi hn
    · rw [e]; exact ((hf i hi).settleLane len).2 (hm i hi)

/-- A run whose lanes exit in no case: they act, and those that trap park. -/
theorem runLanes_of_no_exit (s : State) (len : Nat) (f : Group → Nat → Lane → LaneRes) (h : exitsOf (runParts s f) = []) :
    runLanes s len f = trapLanes (s.modGroup s.cur (ranGroup len (runParts s f))) s.cur s.curPc (len == 8) (runParts s f) := by
  unfold runLanes
  unfold ranGroup runParts at *
  simp only [h, List.isEmpty_nil, if_true]

theorem runLanes_frame {s : State} (len : Nat) {d : Nat} {pair : Bool} {f : Group → Nat → Lane → LaneRes} (hu : s.me.priv = .user)
    (hm : ∀ i ∈ s.myRun, (s.me.lane i).marked = [])
    (hf : ∀ i ∈ s.myRun, (f s.me i (s.me.lane i)).WritesOnly (s.me.lane i) s.me.depth d pair) : LaneFrame d pair s (runLanes s len f) := by
  obtain ⟨frame, marks⟩ := laneFrame_ranGroup len hf hm
  have exits : exitsOf (runParts s f) = [] := by
    unfold exitsOf
    rw [List.filterMap_eq_nil_iff]
    intro x hx
    obtain ⟨i, hi, rfl⟩ := List.mem_map.1 hx
    rcases (hf i hi).out with e | ⟨w, e⟩ | ⟨c, a, e⟩ <;> (simp only [State.me] at e; rw [e]; rfl)
  rw [runLanes_of_no_exit s len f exits]
  refine frame.parked (trapLanes_parked _ _ (by rw [frame.me]; exact hu) marks fun x hx => ?_)
  obtain ⟨i, hi, rfl⟩ := List.mem_map.1 hx
  exact hi

/-- A word that writes one operand, of a user group (R22, R123). -/
theorem operandWord_frame {s : State} (o : LaneOp) (sh : Shape) (f : Group → Lane → Nat → Nat → Nat → Nat) (hu : s.me.priv = .user)
    (hm : ∀ i ∈ s.myRun, (s.me.lane i).marked = []) : LaneFrame o.d o.s s (operandWord s o sh f) := by
  unfold operandWord laneWord
  split
  · exact runLanes_frame _ hu hm fun i _ => lanePart_writesOnly ..
  · refine (LaneFrame.refl o.d o.s s).parked (takeTrap_parked _ _ _ _ _ hu hm fun x hx => ?_)
    obtain ⟨i, hi, rfl⟩ := List.mem_map.1 hx
    exact hi

/-- The words of two sources and one result (R123, R128). -/
theorem exec_intWord {p : (LaneOp → Instr) × ((n : Nat) → BitVec n → BitVec n → BitVec n)} (hp : p ∈ Claims.intWords)
    (o : LaneOp) (s : State) :
    ∃ f, exec (p.1 o) s = .next (int2 s o f) := by
  simp only [Claims.intWords, List.mem_cons, List.not_mem_nil, or_false] at hp
  rcases hp with rfl | rfl | rfl | rfl | rfl | rfl | rfl | rfl | rfl | rfl | rfl | rfl | rfl | rfl | rfl | rfl | rfl <;> exact ⟨_, rfl⟩

theorem exec_intUnary {p : (LaneOp → Instr) × ((n : Nat) → BitVec n → BitVec n)} (hp : p ∈ Claims.intUnary) (o : LaneOp) (s : State) :
    ∃ f, exec (p.1 o) s = .next (int1 s o f) := by
  simp only [Claims.intUnary, List.mem_cons, List.not_mem_nil, or_false] at hp
  rcases hp with rfl | rfl | rfl | rfl <;> exact ⟨_, rfl⟩

theorem exec_division {p : (LaneOp → Instr) × ((n : Nat) → BitVec n → BitVec n → BitVec n)} (hp : p ∈ Claims.divisions)
    (o : LaneOp) (s : State) :
    ∃ f, exec (p.1 o) s = .next (int2 s o f) := by
  simp only [Claims.divisions, List.mem_cons, List.not_mem_nil, or_false] at hp
  rcases hp with rfl | rfl | rfl | rfl <;> exact ⟨_, rfl⟩

theorem exec_shift {p : (LaneOp → Instr) × ((n : Nat) → BitVec n → Nat → BitVec n)} (hp : p ∈ Claims.shifts) (o : LaneOp) (s : State) :
    ∃ f, exec (p.1 o) s = .next (int2 s o f) := by
  simp only [Claims.shifts, List.mem_cons, List.not_mem_nil, or_false] at hp
  rcases hp with rfl | rfl | rfl | rfl <;> exact ⟨_, rfl⟩

theorem int1_eq (s : State) (o : LaneOp) (f : Nat → Nat → Nat) :
    int1 s o f = operandWord s o { pair := o.s, rb := false } fun _ _ a _ _ => f (opBits o) a := rfl

theorem int2_eq (s : State) (o : LaneOp) (f : Nat → Nat → Nat → Nat) :
    int2 s o f = operandWord s o { pair := o.s } fun _ _ a b _ => f (opBits o) a b := rfl

theorem int3_eq (s : State) (o : LaneOp) (f : Nat → Nat → Nat → Nat → Nat) :
    int3 s o f = operandWord s o { pair := o.s, rc := true } fun _ _ a b c => f (opBits o) a b c := rfl

/-- Each of the words on lane registers writes one operand (R123 to R126, R132). -/
theorem exec_registerWord {p : LaneOp → Instr} (hp : p ∈ Claims.registerWords) (o : LaneOp) (s : State) :
    ∃ sh f, exec (p o) s = .next (operandWord s o sh f) := by
  simp only [Claims.registerWords, List.mem_append, List.mem_map] at hp
  rcases hp with (((⟨q, hq, rfl⟩ | ⟨q, hq, rfl⟩) | ⟨q, hq, rfl⟩) | ⟨q, hq, rfl⟩) | hp
  · obtain ⟨f, e⟩ := exec_intWord hq o s
    exact ⟨_, _, e.trans (by rw [int2_eq])⟩
  · obtain ⟨f, e⟩ := exec_intUnary hq o s
    exact ⟨_, _, e.trans (by rw [int1_eq])⟩
  · obtain ⟨f, e⟩ := exec_division hq o s
    exact ⟨_, _, e.trans (by rw [int2_eq])⟩
  · obtain ⟨f, e⟩ := exec_shift hq o s
    exact ⟨_, _, e.trans (by rw [int2_eq])⟩
  · simp only [List.mem_cons, List.not_mem_nil, or_false] at hp
    rcases hp with rfl | rfl | rfl | rfl | rfl | rfl | rfl
    · exact ⟨_, _, congrArg Host.Outcome.next (int3_eq s o fun n a b c => (a * b + c) % 2 ^ n)⟩
    · exact ⟨_, _, congrArg Host.Outcome.next (int1_eq s o _)⟩
    · exact ⟨_, _, congrArg Host.Outcome.next (int1_eq s o _)⟩
    · exact ⟨_, _, congrArg Host.Outcome.next (int1_eq s o brevOp)⟩
    · exact ⟨_, _, congrArg Host.Outcome.next (int2_eq s o bfxuOp)⟩
    · exact ⟨_, _, congrArg Host.Outcome.next (int2_eq s o bfxsOp)⟩
    · exact ⟨{ pair := o.s }, fun g l a b _ => bfiOp (opBits o) a b (l.rdOp g.depth o.d o.s), rfl⟩

theorem registerWord_frame {s t : State} {p : LaneOp → Instr} (hp : p ∈ Claims.registerWords) (o : LaneOp) (hu : s.me.priv = .user)
    (hm : ∀ i ∈ s.myRun, (s.me.lane i).marked = []) (h : exec (p o) s = .next t) : LaneFrame o.d o.s s t := by
  obtain ⟨sh, f, e⟩ := exec_registerWord hp o s
  cases h.symm.trans e
  exact operandWord_frame o sh f hu hm

/-! ## The frame of a uniform word -/

/-- What a word on uniform registers leaves as it was (R25, R153 to R155). -/
structure UniformFrame (d : Nat) (s t : State) : Prop where
  rest : t = { s with groups := t.groups, stamp := t.stamp }
  others : ∀ k, k ≠ s.cur → t.group k = s.group k
  me : t.me = { s.me with lanes := t.me.lanes, records := t.me.records, hold := t.me.hold, uregs := t.me.uregs, failed := t.me.failed }
  uregs : ∀ n, n ≠ d → t.me.uregs.get 0 n = s.me.uregs.get 0 n
  lanes : ∀ i, (s.me.lane i).Rests (t.me.lane i)

theorem Group.uregs_setU_ne (g : Group) {c n : Nat} (v : UWord) (h : n ≠ c) : (g.setU c v).uregs.get 0 n = g.uregs.get 0 n := by
  unfold Group.setU
  split
  · exact AMap.get_set_ne _ _ _ h
  · rfl

theorem Group.setU_eq (g : Group) (c : Nat) (v : UWord) : g.setU c v = { g with uregs := (g.setU c v).uregs } := by
  unfold Group.setU
  split <;> rfl

/-- Lanes that go on to the next word differ in their places alone. -/
theorem Group.rests_movedTo (g : Group) (pc : Word) (i : Nat) : (g.lane i).Rests ((g.movedTo pc).lane i) := by
  by_cases hi : i < g.lanes.length
  · simp only [Group.lane, Group.movedTo, List.getD_eq_getElem?_getD, List.getElem?_map, List.getElem?_eq_getElem hi, Option.map_some,
      Option.getD_some]
    split
    · exact .refl _
    · rfl
  · simp [Group.lane, Group.movedTo, Nat.le_of_not_lt hi, Lane.Rests.refl]

theorem wroteU_frame (s : State) (d : Nat) (v : UWord) : UniformFrame d s (s.wroteU d v) := by
  by_cases hg : s.groups.length ≤ s.cur
  · have e : s.wroteU d v = s := State.modGroup_of_ge _ hg
    rw [e]
    exact ⟨rfl, fun _ _ => rfl, rfl, fun _ _ => rfl, fun _ => .refl _⟩
  have self : (s.wroteU d v).me = (s.me.setU d v).movedTo (s.curPc + 4) := s.group_modGroup_self _ (Nat.lt_of_not_le hg)
  refine ⟨rfl, fun k hk => s.group_modGroup_ne _ hk, ?_, fun n hn => ?_, fun i => ?_⟩
  · rw [self, Group.setU_eq]; rfl
  · rw [self]; exact s.me.uregs_setU_ne v hn
  · rw [self]
    have : s.me.lane i = (s.me.setU d v).lane i := by rw [Group.setU_eq]; rfl
    rw [this]
    exact Group.rests_movedTo ..

theorem UniformFrame.of_parked {s t : State} (d : Nat) (h : Parked s.myRun s t) : UniformFrame d s t := by
  have hme : t.me = t.group s.cur := by rw [State.me, h.cur]
  refine ⟨h.rest, h.others, ?_, fun n _ => ?_, fun i => ?_⟩
  · rw [hme, h.me]
  · rw [hme, h.me]
  · rw [hme]; exact h.lanes i

/-- A word that writes a uniform register, of a user group: it acts, waits or parks the run (R25, R347). -/
theorem uniform_setU_frame {s : State} (d : Nat) (v : State → UWord) (hu : s.me.priv = .user)
    (hm : ∀ i ∈ s.myRun, (s.me.lane i).marked = []) : UniformFrame d s (uniform s fun s => advance (setU s d (v s))) := by
  by_cases hc : s.Conv
  · rw [uniform_of_conv _ hc, advance_setU]
    exact wroteU_frame ..
  by_cases hb : ∃ l ∈ s.me.lanes, l.isBlocked = true
  · rw [uniform_of_blocked _ hc hb]
    exact .of_parked d (.refl _ s)
  · rw [uniform_of_diverged _ hc fun l hl => Bool.eq_false_iff.2 fun e => hb ⟨l, hl, e⟩]
    refine .of_parked d (takeTrap_parked _ _ _ _ _ hu hm fun x hx => ?_)
    obtain ⟨i, hi, rfl⟩ := List.mem_map.1 hx
    exact hi

theorem exec_kaluWord {p : (UOp → Instr) × (UWord → UWord → UWord)} (hp : p ∈ Claims.kaluWords) (o : UOp) (s : State) :
    ∃ v : State → UWord, exec (p.1 o) s = .next (uniform s fun s => advance (setU s o.d (v s))) := by
  simp only [Claims.kaluWords, List.mem_cons, List.not_mem_nil, or_false] at hp
  rcases hp with rfl | rfl | rfl | rfl | rfl | rfl | rfl | rfl | rfl | rfl | rfl | rfl | rfl | rfl | rfl | rfl | rfl <;> exact ⟨_, rfl⟩

theorem exec_kaluiWord {p : (UOp → Instr) × (UWord → UWord → UWord)} (hp : p ∈ Claims.kaluiWords) (o : UOp) (s : State) :
    ∃ v : State → UWord, exec (p.1 o) s = .next (uniform s fun s => advance (setU s o.d (v s))) := by
  simp only [Claims.kaluiWords, List.mem_cons, List.not_mem_nil, or_false] at hp
  rcases hp with rfl | rfl | rfl | rfl | rfl | rfl <;> exact ⟨_, rfl⟩

theorem exec_kaluiShift {p : (UOp → Instr) × (UWord → Nat → UWord)} (hp : p ∈ Claims.kaluiShifts) (o : UOp) (s : State) :
    ∃ v : State → UWord, exec (p.1 o) s = .next (uniform s fun s => advance (setU s o.d (v s))) := by
  simp only [Claims.kaluiShifts, List.mem_cons, List.not_mem_nil, or_false] at hp
  rcases hp with rfl | rfl | rfl <;> exact ⟨_, rfl⟩

/-- Each of the words on uniform registers writes one of them (R153 to R155). -/
theorem exec_uniformWord {p : UOp → Instr} (hp : p ∈ Claims.uniformWords) (o : UOp) (s : State) :
    ∃ v : State → UWord, exec (p o) s = .next (uniform s fun s => advance (setU s o.d (v s))) := by
  simp only [Claims.uniformWords, List.mem_append, List.mem_map] at hp
  rcases hp with ((⟨q, hq, rfl⟩ | ⟨q, hq, rfl⟩) | ⟨q, hq, rfl⟩) | hp
  · exact exec_kaluWord hq o s
  · exact exec_kaluiWord hq o s
  · exact exec_kaluiShift hq o s
  · simp only [List.mem_cons, List.not_mem_nil, or_false] at hp
    rcases hp with rfl | rfl
    · exact ⟨_, rfl⟩
    · exact ⟨_, rfl⟩

theorem uniformWord_frame {s t : State} {p : UOp → Instr} (hp : p ∈ Claims.uniformWords) (o : UOp) (hu : s.me.priv = .user)
    (hm : ∀ i ∈ s.myRun, (s.me.lane i).marked = []) (h : exec (p o) s = .next t) : UniformFrame o.d s t := by
  obtain ⟨v, e⟩ := exec_uniformWord hp o s
  cases h.symm.trans e
  exact uniform_setU_frame o.d v hu hm

/-! ## A scratch store -/

theorem natBytes_length (n v : Nat) : (natBytes n v).length = n := by
  induction n generalizing v with
  | zero => rfl
  | succ n ih => rw [natBytes, List.length_cons, ih]

theorem wrap_of_lt {n : Nat} {i : Int} (h0 : 0 ≤ i) (h : i < (2 ^ n : Nat)) : wrap n i = i.toNat := by
  rw [wrap, Int.emod_eq_of_lt h0 h]

/-- A register and a displacement reach less than 2^64 (R265). -/
theorem effAddr_lt (g : Group) (l : Lane) (a disp : Nat) : effAddr g l a 1 disp < (2 ^ 64 : Nat) := by
  have reg : l.rdOp g.depth a false < 2 ^ 32 := by
    simp only [Lane.rdOp, Bool.false_eq_true, if_false, Nat.add_zero]
    exact (l.rd g.depth (l.slotOf a)).isLt
  have off : sx 16 disp < 2 ^ 15 := by
    rw [sx_toInt (by omega)]
    exact BitVec.toInt_lt
  simp only [effAddr]
  omega

/-- The run of one lane that neither traps nor exits. -/
theorem runLanesM_one {s s' : State} {i : Nat} (len : Nat) {f : State → Group → Nat → Lane → State × LaneRes} {r : LaneRes}
    (hrun : s.myRun = [i])
    (hf : f s s.me i (s.me.lane i) = (s', r)) (hr : r.plain = true) :
    runLanesM s len f =
      s'.modGroup s.cur fun g => { g.modLane i (fun l => settleLane len l r) with flags := g.flags ||| BitVec.ofNat 64 r.fl } := by
  have hrun' : (s.group s.cur).run s.curPc = [i] := hrun
  have hf' : f s (s.group s.cur) i ((s.group s.cur).lane i) = (s', r) := hf
  simp only [runLanesM, hrun', List.foldl_cons, List.foldl_nil, hf', List.nil_append]
  exact trapLanes_plain _ _ _ _ _ fun x hx => by rw [List.mem_singleton.1 hx]; exact hr

/-- One lane's memory word without order that ends in one access: the lane settles, and the machine is as the access leaves it. -/
theorem memWord_one {s s' : State} {o : LaneOp} {i space scope hint disp : Nat} {dst : Lane → List Slot}
    {f : Nat → State → Group → Nat → Lane → Int → State × LaneRes} {r : LaneRes} (h : Claims.OneAccess s o i space scope 0 0 hint disp)
    (hf : f (Claims.opOf s i) s.tick s.me i (s.me.lane i) (effAddr s.me (s.me.lane i) o.a space disp) = (s', r)) (hr : r.plain = true)
    (hg : s'.groups = s.groups) (hcur : s'.cur = s.cur) (hw : (s'.core s.me.core).wcb = (s.core s.me.core).wcb) :
    memWord s o scope 0 space disp dst f =
      s'.modGroup s.cur fun g => { g.modLane i (fun l => settleLane 8 l r) with flags := g.flags ||| BitVec.ofNat 64 r.fl } := by
  obtain ⟨-, hrun, hguard, hout, hmiss, hgaps, -, hwcb⟩ := h
  have room : ∀ k : State → State, within64 s k = k s := fun k => by
    simp only [within64, decide_eq_false (Nat.not_le_of_lt hout), Bool.false_and, Bool.false_eq_true, if_false]
  have core : ((s'.modGroup s.cur fun g =>
      { g.modLane i (fun l => settleLane 8 l r) with flags := g.flags ||| BitVec.ofNat 64 r.fl }).group s'.cur).core = s.me.core := by
    rw [State.modGroup_keeps Group.core (fun x => by rfl), State.group, hg, hcur]
    rfl
  have settled : ∀ t : State, (t.core s.me.core).wcb = (s.core s.me.core).wcb → wcSettle t s.me.core = t := fun t ht =>
    drainWcb_of_none fun e he => beq_eq_false_iff_ne.2 (hwcb e (ht ▸ he))
  simp only [memWord, memIssue, room, hmiss, Bool.false_eq_true, if_false, if_neg (show ¬2 ≤ 0 by omega), Nat.zero_mod, zero_ne_one]
  rw [runLanesM_one (s := s.tick) (s' := s') 8 hrun (r := r) _ hr]
  · exact (congrArg (wcSettle _) core).trans (settled _ hw)
  · have guard : (s.tick.me.lane i).guard o = true := hguard
    have gaps : (s.tick.me.lane i).gaps i o.a (space == 0) = [] := hgaps
    simp only [guard, gaps, Bool.not_true, Bool.false_eq_true, if_false]
    exact hf

/-- A store inside the team's scratch, aligned, acts at once (R266, R269). -/
theorem laneAccess_scratch_store {s : State} {i : Nat} {ea : Int} {q : GlobAcc} (hk : q.kind = 1) (h0 : 0 ≤ ea) (hlt : ea < (2 ^ 64 : Nat))
    (h1 : ea + q.n ≤ (s.launch (s.team (s.served q.gid).1).launch).e.scratch) (ha : ea.toNat % q.n = 0) :
    laneAccess s i 1 ea q = (scrWrite s (s.served q.gid).1 ea.toNat q.n q.data, .val 0) := by
  have inside : ¬(ea < 0 ∨ ((s.launch (s.team (s.served q.gid).1).launch).e.scratch : Int) < ea + q.n) := by omega
  simp only [laneAccess, wrap_of_lt h0 hlt, ha, ne_eq, not_true_eq_false, if_false, if_neg inside, scrAccess, hk]

/-- A scratch store of one lane inside the team's scratch: its bytes, and the lane past its word (R269, R270). -/
theorem exec_st_scratch {s : State} {o : LaneOp} {i scope hint disp v fl : Nat} (h : Claims.OneAccess s o i 1 scope 0 0 hint disp)
    (hb : (s.me.lane i).gaps i o.b o.s = []) (hv : Claims.stored s o i = some (v, fl))
    (h0 : 0 ≤ effAddr s.me (s.me.lane i) o.a 1 disp)
    (h1 : effAddr s.me (s.me.lane i) o.a 1 disp + ldBytes (o.d % 8) ≤ (s.launch (s.team (s.served s.cur).1).launch).e.scratch)
    (ha : (effAddr s.me (s.me.lane i) o.a 1 disp).toNat % ldBytes (o.d % 8) = 0) :
    exec (.st o) s = .next ((scrWrite s.tick (s.served s.cur).1 (effAddr s.me (s.me.lane i) o.a 1 disp).toNat (ldBytes (o.d % 8))
      (v % 2 ^ (8 * ldBytes (o.d % 8)))).modGroup s.cur fun g =>
        { g.modLane i (fun l => settleLane 8 l { lane := s.me.lane i, fl := fl }) with flags := g.flags ||| BitVec.ofNat 64 fl }) := by
  show execSt o s = _
  simp only [execSt, h.1]
  refine congrArg Host.Outcome.next (memWord_one h (r := { lane := s.me.lane i, fl := fl }) ?_ rfl rfl rfl rfl)
  have value : (if tb o.d 3 then bndCheck ((s.tick.launchOf s.me).bnd.get {} (s.me.bndidx.toNat % 64)) ((s.me.lane i).rdOp s.me.depth o.b o.s)
      else some ((s.me.lane i).rdOp s.me.depth o.b o.s, 0)) = some (v, fl) := by rw [tb_eq_testBit]; exact hv
  simp only [gatedM, hb, List.isEmpty_nil, if_true, value]
  rw [laneAccess_scratch_store ?kind h0 (effAddr_lt ..) ?bound ?aligned]
  case kind => rfl
  case bound => exact h1
  case aligned => exact ha
  rfl

theorem State.team_modTeam_ne (s : State) {t k : Nat} (f : Team → Team) (h : k ≠ t) : (s.modTeam t f).team k = s.team k := by
  simp [State.team, State.modTeam, List.getD_eq_getElem?_getD, Ne.symm h]

theorem scrWrite_out (s : State) {own a n v x : Nat} (h : x < a ∨ a + n ≤ x) :
    AMap.get 0 ((scrWrite s own a n v).team own).scratch x = AMap.get 0 (s.team own).scratch x := by
  unfold scrWrite
  by_cases ho : own < s.teams.length
  · rw [State.team_modTeam_self _ _ ho]
    exact get_memPut_spread_out _ _ _ _ (by rwa [natBytes_length])
  · simp [State.team, State.modTeam, Nat.le_of_not_lt ho, List.getD_eq_getElem?_getD]

/-- Settles O55: a word's lanes write, wait or park, each on its own; a uniform word acts, waits or parks the run; a scratch store of one
lane lays its bytes at its address. -/
theorem registerWordsChangeNothingElse : Obligations.RegisterWordsChangeNothingElse := by
  unfold Obligations.RegisterWordsChangeNothingElse
  intro s t hu hm
  refine ⟨fun p hp o h => ?_, fun p hp o h => ?_, fun o i scope hint disp v fl h hb hv ht => ?_⟩
  · obtain ⟨rest, others, me, out, lanes⟩ := registerWord_frame hp o hu hm h
    exact ⟨rest, others, me, out, lanes⟩
  · obtain ⟨rest, others, me, uregs, lanes⟩ := uniformWord_frame hp o hu hm h
    exact ⟨rest, others, me, uregs, lanes⟩
  · rintro own ea n ⟨h0, h1, ha⟩
    cases ht.symm.trans (exec_st_scratch h hb hv h0 h1 ha)
    exact ⟨fun a hout => scrWrite_out s.tick hout, fun _ => rfl, fun k hk => s.tick.team_modTeam_ne _ hk⟩

end Sys2Proof.Machine
end

section
/-! O42: how teams, banks and contexts move (R30, R220, R221, R341 to R343, R355, R387, R405, R465 to R468). -/

namespace Sys2Proof.Machine

/-! ## What accesses of memory leave to placement -/

/-- What a change of a launch keeps in every launch, it keeps in the launch that one reads. -/
theorem State.modLaunch_keeps {α : Type} (π : Launch → α) {s : State} {n : Nat} {f : Launch → Launch} (h : ∀ x, π (f x) = π x) (l : Nat) :
    π ((s.modLaunch n f).launch l) = π (s.launch l) := by
  simp only [State.launch, State.modLaunch, List.getD_eq_getElem?_getD, List.getElem?_modify]
  split
  · cases s.launches[l]? with
    | none => rfl
    | some x => exact h x
  · cases s.launches[l]? <;> rfl

theorem State.modTeam_keeps {α : Type} (π : Team → α) {s : State} {n : Nat} {f : Team → Team} (h : ∀ x, π (f x) = π x) (k : Nat) :
    π ((s.modTeam n f).team k) = π (s.team k) := by
  simp only [State.team, State.modTeam, List.getD_eq_getElem?_getD, List.getElem?_modify]
  split
  · cases s.teams[k]? with
    | none => rfl
    | some x => exact h x
  · cases s.teams[k]? <;> rfl

/-- Teams, gangs, save frames and the entries of the launches are as before. -/
structure Quiet (s t : State) : Prop where
  teams : t.teams = s.teams
  gangs : t.gangs = s.gangs
  frames : t.saveFrames = s.saveFrames
  entry : ∀ l, (t.launch l).e = (s.launch l).e

theorem Quiet.refl (s : State) : Quiet s s := ⟨rfl, rfl, rfl, fun _ => rfl⟩

theorem Quiet.trans {s t u : State} (h : Quiet s t) (h' : Quiet t u) : Quiet s u :=
  ⟨h'.teams.trans h.teams, h'.gangs.trans h.gangs, h'.frames.trans h.frames, fun l => (h'.entry l).trans (h.entry l)⟩

/-- Nothing but fields that placement does not read is written. -/
theorem Quiet.of_fields {s t : State} (ht : t.teams = s.teams) (hg : t.gangs = s.gangs) (hf : t.saveFrames = s.saveFrames)
    (hl : t.launches = s.launches) : Quiet s t := ⟨ht, hg, hf, fun l => by rw [State.launch, State.launch, hl]⟩

theorem Quiet.foldl {α : Type} {f : State → α → State} (h : ∀ s x, Quiet s (f s x)) (l : List α) (s : State) : Quiet s (l.foldl f s) := by
  induction l generalizing s with
  | nil => exact .refl s
  | cons x r ih => exact (h s x).trans (ih _)

theorem quiet_modLaunch (s : State) (n : Nat) {f : Launch → Launch} (h : ∀ x, (f x).e = x.e) : Quiet s (s.modLaunch n f) :=
  ⟨rfl, rfl, rfl, fun l => State.modLaunch_keeps Launch.e h l⟩

theorem quiet_sendSnoop (s : State) (a : Nat) : Quiet s (sendSnoop s a) := by
  simp only [sendSnoop]
  split
  · exact .refl s
  · exact .of_fields rfl rfl rfl rfl

theorem quiet_expose (s : State) (who : Option Nat) (a : Nat) : Quiet s (expose s who a) := by
  refine ⟨rfl, rfl, rfl, fun l => ?_⟩
  simp only [expose, State.launch, List.getD_eq_getElem?_getD, List.getElem?_mapIdx]
  cases s.launches[l]? with
  | none => rfl
  | some x =>
    simp only [Option.map_some, Option.getD_some]
    split <;> rfl

theorem quiet_snapshot (s : State) (who : Option Nat) (a : Nat) : Quiet s (snapshot s who a) := by
  cases who with
  | none => exact .refl s
  | some l =>
    simp only [snapshot]
    split
    · exact .refl s
    split
    · exact (quiet_modLaunch s l fun x => by rfl).trans (.of_fields rfl rfl rfl rfl)
    · exact (quiet_modLaunch s l fun x => by rfl).trans (.of_fields rfl rfl rfl rfl)

theorem quiet_homeWrite (s : State) (who : Option Nat) (a : Nat) (bs : List (Nat × Byte)) : Quiet s (homeWrite s who a bs) := by
  have h := (quiet_expose s who a).trans (quiet_snapshot (expose s who a) who a)
  simp only [homeWrite]
  split
  · exact h.trans (.of_fields rfl rfl rfl rfl)
  · exact h.trans (.of_fields rfl rfl rfl rfl)

theorem quiet_dropLines (s : State) (p : CacheLine → Bool) : Quiet s (dropLines s p) := .of_fields rfl rfl rfl rfl

theorem quiet_dropWay (s : State) (core a : Nat) : Quiet s (dropWay s core a) := quiet_dropLines ..

theorem quiet_dropAnswers (s : State) (r : Reader) : Quiet s (dropAnswers s r) := .of_fields rfl rfl rfl rfl

theorem quiet_sendFab (s : State) (r : FabReq) : Quiet s (sendFab s r) := by
  simp only [sendFab]
  split
  · exact .of_fields rfl rfl rfl rfl
  · exact .of_fields rfl rfl rfl rfl

theorem quiet_putOwned (s : State) (a : Nat) (bs : List Byte) : Quiet s (putOwned s a bs) := by
  unfold putOwned
  split
  · exact .refl s
  · exact .of_fields rfl rfl rfl rfl

theorem quiet_askHost (s : State) (r : Reader) (core gid line : Nat) (own : Bool) : Quiet s (askHost s r core gid line own) := by
  unfold askHost
  lift_lets
  intro kind
  clear_value kind
  split
  · exact .refl s
  · exact .of_fields rfl rfl rfl rfl

theorem quiet_missPut (s : State) (places : List TlbAt) (ctx vpn kind : Nat) (w p : Bool) : Quiet s (missPut s places ctx vpn kind w p) := by
  refine Quiet.foldl (fun s p => ?_) places s
  split
  · exact .of_fields rfl rfl rfl rfl
  · exact .of_fields rfl rfl rfl rfl

theorem quiet_lacking (s : State) (ctx va kind : Nat) (c : Cause) (f : Bool) (who : Nat) : Quiet s (lacking s ctx va kind c f who).1 := by
  simp only [lacking]
  split
  · exact .refl s
  split
  · exact .refl s
  split
  · exact .of_fields rfl rfl rfl rfl
  · exact .refl s

theorem quiet_setEntryBits (s : State) (r : Reader) (t : Target) (bits : Nat) : Quiet s (setEntryBits s r t bits).1 := by
  unfold setEntryBits
  lift_lets
  intro old
  clear_value old
  split
  · exact .refl s
  cases t with
  | dpa a =>
    dsimp only
    split
    · exact quiet_sendSnoop s a
    · exact quiet_homeWrite ..
  | host a =>
    dsimp only
    split
    · exact quiet_putOwned ..
    · exact quiet_askHost ..
  | peer d o => exact .refl s
  | mcast g o => exact .refl s

theorem quiet_tlbPut (s : State) (e : Tlb) : Quiet s (tlbPut s e) := .of_fields rfl rfl rfl rfl

theorem quiet_walked (s : State) (r : Reader) (die : Nat) (path : List WalkEntry) : Quiet s (walksPut (dropAnswers s r) die path) :=
  .of_fields rfl rfl rfl rfl

theorem quiet_translate (s : State) (places : List TlbAt) (die ctx va kind : Nat) (f : Bool) (who : Nat) :
    Quiet s (translate s places die ctx va kind f who).1 := by
  have walkEnd : ∀ x : State × Trans, Quiet s x.1 →
      Quiet s (match x.2 with
        | .hold w => (missPut x.1 places ctx (va / 4096) kind true false, .hold w)
        | .wait c v => (missPut x.1 places ctx (va / 4096) kind false true, .wait c v)
        | t => (missDone x.1 die ctx (va / 4096), t) : State × Trans).1 := fun x hx => by
    split
    · exact hx.trans (quiet_missPut ..)
    · exact hx.trans (quiet_missPut ..)
    · exact hx.trans (.of_fields rfl rfl rfl rfl)
  have turn : ∀ d, Quiet s (if (s.missAt { level := 2, idx := die } ctx (va / 4096)).any Miss.walking then s
      else s.modDie die fun x => { x with walkTurn := d }) := fun d => by
    split
    · exact .refl s
    · exact .of_fields rfl rfl rfl rfl
  simp only [translate]
  split
  · exact .refl s
  split
  · exact .refl s
  split
  · exact .refl s
  split
  · exact quiet_missPut ..
  refine walkEnd _ ?_
  generalize hu : (if (s.missAt { level := 2, idx := die } ctx (va / 4096)).any Miss.walking then s
      else s.modDie die fun x => { x with walkTurn := clusterOf (placesCore places) % 24 }) = u
  have quiet : Quiet s u := hu ▸ turn _
  split
  · exact quiet.trans (quiet_sendSnoop ..)
  · exact quiet.trans (quiet_askHost ..)
  · exact quiet.trans (.of_fields rfl rfl rfl rfl)
  · exact quiet.trans (.of_fields rfl rfl rfl rfl)
  · exact (quiet.trans (quiet_dropAnswers ..)).trans (quiet_lacking ..)
  · split
    · exact (quiet.trans (quiet_dropAnswers ..)).trans (quiet_lacking ..)
    split
    · next v w e => exact quiet.trans (e ▸ quiet_setEntryBits u _ _ _ : Quiet u (v, some w).1)
    · next v e =>
      refine (quiet.trans (e ▸ quiet_setEntryBits u _ _ _ : Quiet u (v, none).1)).trans ?_
      exact (quiet_walked v _ die _).trans (Quiet.foldl (fun s p => quiet_tlbPut s _) places _)

theorem quiet_trans (s : State) (core ctx va kind : Nat) (f : Bool) : Quiet s (s.trans core ctx va kind f).1 := quiet_translate ..

/-! ## What the writes of a team that leaves leave to placement -/

theorem quiet_putCells (s : State) (core gid eng va : Nat) (who : Option Nat) (t : Target) (cells : AMap Byte) :
    Quiet s (putCells s core gid eng va who t cells) := by
  have far : ∀ l, Quiet s (s.modLaunch l fun x => { x with unrollable := true }) := fun l => quiet_modLaunch s l fun _ => rfl
  unfold putCells
  lift_lets
  intro w u
  have quiet : Quiet s u := by
    simp only [u]
    split
    · exact .refl s
    · exact far _
    · exact .refl s
  clear_value w u
  cases t with
  | dpa a => exact (quiet.trans (quiet_homeWrite ..)).trans (quiet_dropLines ..)
  | host a =>
    dsimp only
    split
    · exact quiet.trans (Quiet.foldl (fun s c => quiet_putOwned s _ _) _ _)
    · exact quiet.trans (.of_fields rfl rfl rfl rfl)
  | peer d o => exact quiet.trans (quiet_sendFab ..)
  | mcast g o => exact quiet.trans (quiet_sendFab ..)

theorem quiet_modGroup (s : State) (g : Nat) (f : Group → Group) : Quiet s (s.modGroup g f) := .of_fields rfl rfl rfl rfl

theorem quiet_prvEvict (s : State) (gid line : Nat) : Quiet s (prvEvict s gid line).1 := by
  simp only [prvEvict]
  split
  · next u a tso e =>
    have quiet : Quiet s u := (e ▸ quiet_trans s _ _ _ _ _ : Quiet s (u, _).1)
    split
    · exact quiet.trans (quiet_sendSnoop ..)
    · exact (quiet.trans (quiet_homeWrite ..)).trans (quiet_modGroup ..)
  · next u t tso _ e =>
    have quiet : Quiet s u := (e ▸ quiet_trans s _ _ _ _ _ : Quiet s (u, _).1)
    split
    · exact quiet
    · exact (quiet.trans (quiet_putCells ..)).trans (quiet_modGroup ..)
  · next u w e => exact (e ▸ quiet_trans s _ _ _ _ _ : Quiet s (u, _).1)
  · next u r _ _ _ e => exact (e ▸ quiet_trans s _ _ _ _ _ : Quiet s (u, _).1)

theorem quiet_writeBackPrv (s : State) (gid : Nat) : Quiet s (writeBackPrv s gid).1 := by
  have pairs : ∀ (ls : List Nat) (acc : State × Bool), Quiet acc.1
      (ls.foldl (fun acc l => let r := prvEvict acc.1 gid l; (r.1, acc.2 && r.2.isNone)) acc).1 := by
    intro ls
    induction ls with
    | nil => exact fun acc => .refl acc.1
    | cons l r ih => exact fun acc => (quiet_prvEvict acc.1 gid l).trans (ih (_, _))
  exact pairs _ (s, true)

theorem quiet_performStore (s : State) (k : Nat) : Quiet s (performStore s k) := by
  simp only [performStore]
  split
  · exact .refl s
  split
  · exact .refl s
  split
  · exact quiet_sendSnoop ..
  · refine .trans ?_ (quiet_dropWay ..)
    refine .trans ?_ (quiet_homeWrite ..)
    exact .of_fields rfl rfl rfl rfl

theorem quiet_performStores (n : Nat) (s : State) (p : Store → Bool) : Quiet s (performStores n s p) := by
  induction n generalizing s with
  | zero => exact .refl s
  | succ n ih =>
    simp only [performStores]
    split
    · exact .refl s
    · exact (quiet_performStore s _).trans (ih _)

theorem quiet_drainWc (s : State) (core : Nat) (e : WcEntry) : Quiet s (drainWc s core e) := by
  have drop : Quiet s (s.modCore core fun c => { c with wcb := c.wcb.erase e }) := .of_fields rfl rfl rfl rfl
  simp only [drainWc]
  split
  · exact drop.trans (quiet_sendFab ..)
  · exact drop.trans (quiet_sendFab ..)
  · exact drop

theorem quiet_drainWcb (s : State) (core : Nat) (p : WcEntry → Bool) : Quiet s (drainWcb s core p) :=
  Quiet.foldl (fun s e => quiet_drainWc s core e) _ s

theorem quiet_homeRmw (s : State) (who : Option Nat) (a n : Nat) (f : Nat → Option Nat) : Quiet s (homeRmw s who a n f).1 := by
  simp only [homeRmw]
  split
  · exact quiet_expose ..
  split
  · exact quiet_homeWrite ..
  · exact quiet_expose ..

theorem quiet_storeL1 (s : State) (core a : Nat) (bs : List Byte) (b : Bool) : Quiet s (storeL1 s core a bs b) := by
  obtain ⟨cs, e⟩ := storeL1_eq s core a bs b
  rw [e]
  exact .of_fields rfl rfl rfl rfl

theorem quiet_hostRmw (s : State) (a n : Nat) (f : Nat → Option Nat) : Quiet s (hostRmw s a n f).1 := by
  simp only [hostRmw]
  split
  · exact quiet_putOwned ..
  · exact .refl s

theorem quiet_flushRed (s : State) (core : Nat) (e : RedEntry) : Quiet s (flushRed s core e) := by
  have drop : Quiet s (s.modCore core fun c => { c with red := c.red.erase e }) := .of_fields rfl rfl rfl rfl
  simp only [flushRed]
  generalize (if e.wide then 64 else 32) = n
  split
  · exact quiet_sendSnoop ..
  split
  · refine drop.trans ?_
    split
    · exact (quiet_homeRmw ..).trans (.of_fields rfl rfl rfl rfl)
    · exact ((quiet_homeRmw ..).trans (quiet_dropWay ..)).trans (quiet_storeL1 ..)
  · exact (drop.trans (quiet_drainWcb ..)).trans (quiet_sendFab ..)
  · split
    · exact drop.trans (quiet_hostRmw ..)
    · exact drop.trans (.of_fields rfl rfl rfl rfl)
  · exact drop

/-! ## Teams through a placement or a swap -/

/-- What a team is, wherever it stands: its launch, its number and whether it is the handler's. -/
def Team.ident (t : Team) : Nat × Nat × Bool := (t.launch, t.kteam, t.isSup)

/-- The same teams, gangs and entries of the launches; the teams may stand elsewhere. -/
structure SameTeams (s t : State) : Prop where
  length : t.teams.length = s.teams.length
  ident : ∀ k, (t.team k).ident = (s.team k).ident
  gangs : t.gangs = s.gangs
  entry : ∀ l, (t.launch l).e = (s.launch l).e

theorem Quiet.same {s t : State} (h : Quiet s t) : SameTeams s t :=
  ⟨by rw [h.teams], fun k => by rw [State.team, State.team, h.teams], h.gangs, h.entry⟩

theorem SameTeams.refl (s : State) : SameTeams s s := (Quiet.refl s).same

theorem SameTeams.trans {s t u : State} (h : SameTeams s t) (h' : SameTeams t u) : SameTeams s u :=
  ⟨h'.length.trans h.length, fun k => (h'.ident k).trans (h.ident k), h'.gangs.trans h.gangs, fun l => (h'.entry l).trans (h.entry l)⟩

theorem SameTeams.foldl {α : Type} {f : State → α → State} (h : ∀ s x, SameTeams s (f s x)) (l : List α) (s : State) :
    SameTeams s (l.foldl f s) := by
  induction l generalizing s with
  | nil => exact .refl s
  | cons x r ih => exact (h s x).trans (ih _)

theorem sameTeams_modTeam (s : State) (t : Nat) {f : Team → Team} (h : ∀ x, (f x).ident = x.ident) : SameTeams s (s.modTeam t f) :=
  ⟨List.length_modify .., fun k => State.modTeam_keeps Team.ident h k, rfl, fun _ => rfl⟩

theorem SameTeams.launch {s t : State} (h : SameTeams s t) (k : Nat) : (t.team k).launch = (s.team k).launch := congrArg Prod.fst (h.ident k)

/-- A team's entry is that of its launch. -/
theorem SameTeams.teamEntry {s t : State} (h : SameTeams s t) (k : Nat) :
    (t.launch (t.team k).launch).e = (s.launch (s.team k).launch).e := by rw [h.launch, h.entry]

theorem SameTeams.isSpanning {s t : State} (h : SameTeams s t) (k : Nat) : t.isSpanning k = s.isSpanning k := by
  rw [State.isSpanning, State.isSpanning, h.teamEntry]

theorem SameTeams.gangOf {s t : State} (h : SameTeams s t) (k : Nat) : t.gangOf k = s.gangOf k := by
  have hl := h.launch k
  have hk : (t.team k).kteam = (s.team k).kteam := congrArg (fun x => x.2.1) (h.ident k)
  have hs : (t.team k).isSup = (s.team k).isSup := congrArg (fun x => x.2.2) (h.ident k)
  simp only [State.gangOf, hl, hk, hs, h.entry, h.gangs]

/-! ## Swapping out (R465, R466) -/

/-- What a change gives every group, and the empty one has, the group changed has. -/
theorem State.modGroup_gives (P : Group → Prop) {s : State} {g : Nat} {f : Group → Group} (h : ∀ x, P (f x)) (h0 : P {}) :
    P ((s.modGroup g f).group g) := by
  by_cases hg : g < s.groups.length
  · rw [s.group_modGroup_self f hg]; exact h _
  · rw [State.modGroup_of_ge _ (Nat.le_of_not_lt hg), State.group, List.getD_eq_getElem?_getD, List.getElem?_eq_none (Nat.le_of_not_lt hg)]
    exact h0

/-- What a change preserves in every group, no group loses. -/
theorem State.modGroup_preserves (P : Group → Prop) {s : State} {g : Nat} {f : Group → Group} (h : ∀ x, P x → P (f x)) {k : Nat}
    (hk : P (s.group k)) : P ((s.modGroup g f).group k) := by
  by_cases e : k = g
  · subst e
    by_cases hg : k < s.groups.length
    · rw [s.group_modGroup_self f hg]; exact h _ hk
    · rw [State.modGroup_of_ge _ (Nat.le_of_not_lt hg)]; exact hk
  · rw [s.group_modGroup_ne f e]; exact hk

/-- Groups stop: none of the list is resident. -/
theorem resident_stopped (l : List Nat) (s : State) (g : Nat) (h : g ∈ l ∨ (s.group g).resident = false) :
    ((l.foldl (fun s g => s.modGroup g fun x => { x with resident := false }) s).group g).resident = false := by
  induction l generalizing s with
  | nil => exact h.resolve_left List.not_mem_nil
  | cons k r ih =>
    refine ih _ ?_
    rcases h with h | h
    · rcases List.mem_cons.1 h with rfl | h
      · exact .inr (State.modGroup_gives (fun x => x.resident = false) (fun _ => rfl) rfl)
      · exact .inl h
    · exact .inr (State.modGroup_preserves (fun x => x.resident = false) (fun _ _ => rfl) h)

theorem swapOut_spec (s : State) (t : Nat) : SameTeams s (swapOut s t) ∧ (t < s.teams.length → Claims.Outgoing s (swapOut s t) t) := by
  unfold swapOut
  lift_lets
  intro tm core live u1 u2 u3 u4 u5 u6 u7
  have q4 : Quiet s u4 := by
    have q1 : Quiet s u1 := Quiet.foldl (fun s g => quiet_writeBackPrv s g) _ s
    have q3 : Quiet u2 u3 := Quiet.foldl (fun s e => quiet_flushRed s core e) _ u2
    exact ((q1.trans (quiet_performStores ..)).trans q3).trans (quiet_drainWcb ..)
  have q5 : Quiet s u5 := q4.trans (Quiet.foldl (fun s g => quiet_modGroup s g _) _ u4)
  have q6 : Quiet s u6 := q5.trans (.of_fields rfl rfl rfl rfl)
  have same : SameTeams s u7 := q6.same.trans (sameTeams_modTeam u6 t fun _ => rfl)
  refine ⟨⟨same.length, same.ident, same.gangs, same.entry⟩, fun ht => ?_⟩
  have team : u7.team t = { u6.team t with st := .outgoing, banks := [], saved := true, head := true } :=
    u6.team_modTeam_self _ (by rw [show u6.teams = s.teams from q5.teams]; exact ht)
  refine ⟨(congrArg Team.st team), congrArg Team.saved team, congrArg Team.banks team, congrArg (· - 1) q5.frames, ?_, fun g hg he => ?_⟩
  · rw [State.core_modCore_self]
    exact List.mem_append_right _ List.mem_cons_self
  · have hl : g ∈ live := List.mem_filter.2 ⟨hg, by simp [he]⟩
    exact resident_stopped live u4 g (.inl hl)

/-- A unit's members leave; the launch of no team changes. -/
theorem launch_swapOutUnit (s : State) (v k : Nat) : ((swapOutUnit s v).team k).launch = (s.team k).launch := by
  have same : SameTeams s ((s.unit v).foldl swapOut s) := SameTeams.foldl (fun s t => (swapOut_spec s t).1) _ s
  simp only [swapOutUnit]
  split
  · exact same.launch k
  · exact same.launch k

theorem State.unit_of_alone {s : State} {t : Nat} (h : s.gangOf t = none) : s.unit t = [t] := by rw [State.unit, h]

/-- A team of no gang leaves alone. -/
theorem swapOutUnit_of_alone {s : State} {t : Nat} (h : s.gangOf t = none) : swapOutUnit s t = swapOut s t := by
  simp only [swapOutUnit, State.unit_of_alone h, List.foldl_cons, List.foldl_nil, (swapOut_spec s t).1.gangOf, h]

/-! ## Placing (R30, R341, R342) -/

theorem sameTeams_of_fields {s t : State} (ht : t.teams = s.teams) (hg : t.gangs = s.gangs) (hl : t.launches = s.launches) : SameTeams s t :=
  ⟨by rw [ht], fun k => by rw [State.team, State.team, ht], hg, fun l => by rw [State.launch, State.launch, hl]⟩

/-- What each step keeps, a fold keeps. -/
theorem foldl_keeps {σ α β : Type} (π : σ → β) {f : σ → α → σ} (h : ∀ s x, π (f s x) = π s) (l : List α) (s : σ) :
    π (l.foldl f s) = π s := by
  induction l generalizing s with
  | nil => rfl
  | cons x r ih => exact (ih _).trans (h s x)

theorem sameTeams_giveBanks (s : State) (t core : Nat) : SameTeams s (giveBanks s t core) := by
  refine SameTeams.trans ?_ (sameTeams_modTeam _ t ?_)
  · exact sameTeams_of_fields rfl rfl rfl
  · exact fun _ => rfl

theorem sameTeams_moveSets (s : State) (t core : Nat) : SameTeams s (moveSets s t core) ∧ (moveSets s t core).groups.length = s.groups.length := by
  refine ⟨SameTeams.foldl (fun s g => ?_) _ s, foldl_keeps (fun s : State => s.groups.length) (fun s g => ?_) _ s⟩
  · split
    · split
      · exact sameTeams_of_fields rfl rfl rfl
      · exact .refl s
    · exact .refl s
  · split
    · split
      · exact List.length_map ..
      · rfl
    · rfl

theorem quiet_startOn (s : State) (l core : Nat) : Quiet s (startOn s l core) := by
  unfold startOn
  lift_lets
  intro cl first u1 u2
  have q2 : Quiet s u2 := by
    refine (quiet_dropLines s _ : Quiet s u1).trans ?_
    simp only [u2]
    split
    · exact quiet_modLaunch _ _ fun _ => rfl
    · exact .refl _
  refine q2.trans (Quiet.foldl (fun s c => ?_) _ u2)
  split
  · exact .of_fields rfl rfl rfl rfl
  · exact .refl s

theorem groups_startOn (s : State) (l core : Nat) : (startOn s l core).groups.length = s.groups.length := by
  unfold startOn
  lift_lets
  intro cl first u1 u2
  have h2 : u2.groups.length = s.groups.length := by
    simp only [u2]
    split <;> rfl
  refine (foldl_keeps (fun s : State => s.groups.length) (fun s c => ?_) _ u2).trans h2
  split <;> rfl

theorem sameTeams_addGroup (s : State) (t : Nat) (g : Group) : SameTeams s (addGroup s t g) := by
  refine SameTeams.trans ?_ (sameTeams_modTeam _ t ?_)
  · exact sameTeams_of_fields rfl rfl rfl
  · exact fun _ => rfl

/-- The team on its core, its banks and sets with it, before its groups start. -/
def readied (s : State) (t core : Nat) (st : TeamSt) : State :=
  (startOn (moveSets (giveBanks s t core) t core) (s.team t).launch core).modTeam t fun tm =>
    { tm with st := st, core := core, since := (startOn (moveSets (giveBanks s t core) t core) (s.team t).launch core).stamp, head := false,
              saved := false, image := tm.saved }

theorem sameTeams_readied (s : State) (t core : Nat) (st : TeamSt) : SameTeams s (readied s t core st) := by
  refine SameTeams.trans ?_ (sameTeams_modTeam _ t ?_)
  · exact ((sameTeams_giveBanks s t core).trans (sameTeams_moveSets _ t core).1).trans (quiet_startOn ..).same
  · exact fun _ => rfl

theorem team_readied {s : State} {t : Nat} (core : Nat) (st : TeamSt) (ht : t < s.teams.length) :
    ((readied s t core st).team t).st = st ∧ ((readied s t core st).team t).core = core := by
  have same := ((sameTeams_giveBanks s t core).trans (sameTeams_moveSets _ t core).1).trans (quiet_startOn _ (s.team t).launch core).same
  rw [readied, State.team_modTeam_self _ _ (by rw [same.length]; exact ht)]
  exact ⟨rfl, rfl⟩

theorem groups_readied (s : State) (t core : Nat) (st : TeamSt) : (readied s t core st).groups.length = s.groups.length :=
  (groups_startOn ..).trans (sameTeams_moveSets _ t core).2

/-- The groups of a team that has not run start, one after the other. -/
def startedGroups (s : State) (t core : Nat) (e : Entry) (n : Nat) : State :=
  (List.range n).foldl (fun s kg => addGroup s t (newGroup s t kg core (BitVec.ofNat 32 e.entry) (fun _ _ => 0) fun n => e.args.getD n 0)) s

theorem sameTeams_startedGroups (s : State) (t core : Nat) (e : Entry) (n : Nat) : SameTeams s (startedGroups s t core e n) :=
  SameTeams.foldl (fun s _ => sameTeams_addGroup s t _) _ s

theorem placeTeam_fresh {s : State} {t : Nat} (core : Nat) (st : TeamSt) (h : (s.team t).saved = false) :
    placeTeam s t core st =
      (startedGroups (readied s t core st) t core (s.launch (s.team t).launch).e (s.launch (s.team t).launch).e.ngroups).tick := by
  simp only [placeTeam, h, Bool.false_eq_true, if_false]
  rfl

/-- The groups of an image enter the core anew, but for those that have ended (R467). -/
def restoredGroups (s : State) (tm : Team) (core : Nat) : State :=
  tm.groups.foldl (fun s g =>
    if (s.group g).ended then s
    else s.modGroup g fun x =>
      { x with core := core, octet := (if core = tm.core then x.octet else s.pickOctet core x.width), slot := s.pickSlot core, resident := true,
               records := x.records.map fun r => { r with entered := false } }) s

theorem quiet_restoredGroups (s : State) (tm : Team) (core : Nat) : Quiet s (restoredGroups s tm core) := by
  refine Quiet.foldl (fun s g => ?_) _ s
  split
  · exact .refl s
  · exact quiet_modGroup ..

theorem quiet_acquire (s : State) (core ctx scope : Nat) (o : ObjSet) : Quiet s (acquire s core ctx scope o) := by
  unfold acquire
  split
  · exact .refl s
  · exact quiet_dropLines ..

theorem placeTeam_saved {s : State} {t : Nat} (core : Nat) (st : TeamSt) (h : (s.team t).saved = true) :
    ∃ ctx n, placeTeam s t core st =
      { acquire (restoredGroups (readied s t core st) (s.team t) core) core ctx 4 .all with saveFrames := n }.tick := by
  simp only [placeTeam, h, if_true]
  exact ⟨_, _, rfl⟩

theorem sameTeams_placeTeam (s : State) (t core : Nat) (st : TeamSt) : SameTeams s (placeTeam s t core st) := by
  have ready := sameTeams_readied s t core st
  by_cases h : (s.team t).saved = true
  · obtain ⟨ctx, n, e⟩ := placeTeam_saved core st h
    rw [e]
    refine (ready.trans (quiet_restoredGroups _ (s.team t) core).same).trans ?_
    exact (quiet_acquire _ core ctx 4 .all).same.trans (sameTeams_of_fields rfl rfl rfl)
  · rw [placeTeam_fresh core st (Bool.eq_false_iff.2 h)]
    exact ready.trans ((sameTeams_startedGroups ..).trans (sameTeams_of_fields rfl rfl rfl))

/-- Group `g` is number `kgrp` of a team that starts on a core (R30). -/
def StartsAt (e : Entry) (team core kgrp : Nat) (g : Group) : Prop :=
  g.team = team ∧ g.kgrp = kgrp ∧ g.core = core ∧ g.resident = true ∧ g.ended = false ∧ (∀ n < 8, g.uregs.get 0 n = e.args.getD n 0) ∧
    ∀ i < e.width, (g.lane i).st = .active ∧ (g.lane i).pc = BitVec.ofNat 32 e.entry ∧
      (g.lane i).globals.get 0 0 = BitVec.ofNat 32 (kgrp * e.width + i)

theorem newGroup_startsAt (s : State) (t kgrp core : Nat) :
    StartsAt (s.launch (s.team t).launch).e t core kgrp
      (newGroup s t kgrp core (BitVec.ofNat 32 (s.launch (s.team t).launch).e.entry) (fun _ _ => 0)
        fun n => (s.launch (s.team t).launch).e.args.getD n 0) := by
  refine ⟨rfl, rfl, rfl, rfl, rfl, fun n hn => ?_, fun i hi => ?_⟩
  · rw [newGroup_uregs, if_pos hn]
  · rw [newGroup_lane _ _ _ _ _ hi]
    exact ⟨rfl, rfl, newLane_globals ..⟩

theorem group_addGroup_self (s : State) (t : Nat) (g : Group) : (addGroup s t g).group s.groups.length = g := by
  simp [addGroup, State.group, State.modTeam]

theorem group_addGroup_of_lt {s : State} {k : Nat} (t : Nat) (g : Group) (h : k < s.groups.length) : (addGroup s t g).group k = s.group k := by
  simp [addGroup, State.group, State.modTeam, List.getD_eq_getElem?_getD, List.getElem?_append_left h]

theorem startedGroups_spec {s : State} {t : Nat} (core : Nat) {e : Entry} (he : (s.launch (s.team t).launch).e = e) (n : Nat) :
    (startedGroups s t core e n).groups.length = s.groups.length + n ∧
      ∀ j < n, StartsAt e t core j ((startedGroups s t core e n).group (s.groups.length + j)) := by
  induction n with
  | zero => exact ⟨rfl, fun j hj => absurd hj (Nat.not_lt_zero j)⟩
  | succ n ih =>
    obtain ⟨len, start⟩ := ih
    have same : ((startedGroups s t core e n).launch ((startedGroups s t core e n).team t).launch).e = e :=
      ((sameTeams_startedGroups s t core e n).teamEntry t).trans he
    have next : startedGroups s t core e (n + 1) = addGroup (startedGroups s t core e n) t
        (newGroup (startedGroups s t core e n) t n core (BitVec.ofNat 32 e.entry) (fun _ _ => 0) fun n => e.args.getD n 0) := by
      simp only [startedGroups, List.range_succ, List.foldl_append, List.foldl_cons, List.foldl_nil]
    rw [next]
    refine ⟨by simp [addGroup, State.modTeam, len, Nat.add_assoc], fun j hj => ?_⟩
    rcases Nat.lt_succ_iff_lt_or_eq.1 hj with hj | rfl
    · rw [group_addGroup_of_lt _ _ (by omega)]
      exact start j hj
    · rw [← len, group_addGroup_self]
      have starts := newGroup_startsAt (startedGroups s t core e j) t j core
      rwa [same] at starts

/-- Groups that start change their team's list of groups alone. -/
theorem startedGroups_keeps {α : Type} (π : Team → α) (h : ∀ (x : Team) gs, π { x with groups := gs } = π x) (s : State) (t core : Nat)
    (e : Entry) (n k : Nat) : π ((startedGroups s t core e n).team k) = π (s.team k) := by
  unfold startedGroups
  induction List.range n generalizing s with
  | nil => rfl
  | cons x r ih =>
    rw [List.foldl_cons, ih]
    exact State.modTeam_keeps π (fun x => h x _) k

theorem placeTeam_team {s : State} {t : Nat} (core : Nat) (st : TeamSt) (ht : t < s.teams.length) (h : (s.team t).saved = false) :
    ((placeTeam s t core st).team t).st = st ∧ ((placeTeam s t core st).team t).core = core := by
  rw [placeTeam_fresh core st h]
  obtain ⟨hst, hcore⟩ := team_readied core st ht
  exact ⟨(startedGroups_keeps Team.st (fun _ _ => rfl) _ t core _ _ t).trans hst,
    (startedGroups_keeps Team.core (fun _ _ => rfl) _ t core _ _ t).trans hcore⟩

/-! ## A cancelled team's groups end (R340, R362, R470) -/

theorem groups_sendFab (s : State) (r : FabReq) : (sendFab s r).groups = s.groups := by
  simp only [sendFab]
  split <;> rfl

theorem groups_sendMsgs (s : State) (kind : Nat) (ds args : List Nat) : (sendMsgs s kind ds args).groups = s.groups :=
  foldl_keeps State.groups (fun s _ => groups_sendFab s _) ds s

theorem groups_reportGang (s : State) (k t kind v : Nat) : (reportGang s k t kind v).groups = s.groups := by
  simp only [reportGang]
  split
  · rfl
  · exact foldl_keeps State.groups (fun s _ => groups_sendFab s _) _ s

theorem groups_tellReach (s : State) (k : Nat) : (tellReach s k).groups = s.groups := by
  refine foldl_keeps State.groups (fun s t => ?_) _ s
  lift_lets
  intro ga m gens n u
  have told : u.groups = s.groups := by
    simp only [u]
    split
    · exact groups_reportGang ..
    · rfl
  split
  · exact (groups_reportGang ..).trans told
  · exact told

theorem groups_syncSettle (s : State) (k : Nat) : (syncSettle s k).groups = s.groups := by
  simp only [syncSettle]
  split
  · exact groups_tellReach s k
  · exact groups_tellReach s k

theorem groups_completeTeam (s : State) (t : Nat) : (completeTeam s t).groups = s.groups := rfl

theorem groups_depart (s : State) (k t : Nat) (early : Bool) : (depart s k t early).groups = s.groups := by
  unfold depart
  lift_lets
  intro u1 u2 u3
  have told : u3.groups = s.groups := by
    simp only [u3]
    split
    · exact groups_sendMsgs ..
    · exact groups_reportGang ..
  split
  · rfl
  · exact (groups_completeTeam u3 t).trans told

theorem groups_gangSweep (s : State) (k : Nat) : (gangSweep s k).groups = s.groups := by
  simp only [gangSweep]
  split
  · exact (foldl_keeps State.groups (fun s t => groups_depart s k t false) _ _).trans (groups_syncSettle s k)
  · exact groups_syncSettle s k

theorem groups_endTeam (s : State) (t : Nat) (killed : Bool) : (endTeam s t killed).groups = s.groups := by
  simp only [endTeam]
  split
  · rfl
  split
  · rfl
  split
  · exact (groups_gangSweep ..).trans (groups_depart ..)
  · exact groups_gangSweep ..

theorem groups_barSettle (s : State) (t b : Nat) : (barSettle s t b).groups = s.groups := by
  simp only [barSettle]
  split <;> rfl

theorem groups_sweepSet (s : State) (cl k : Nat) : (sweepSet s cl k).groups = s.groups := by
  simp only [sweepSet]
  split
  · rfl
  split <;> rfl

/-- No group is lost, and none that has ended goes on. -/
structure EndsMore (s t : State) : Prop where
  length : t.groups.length = s.groups.length
  ended : ∀ g, (s.group g).ended = true → (t.group g).ended = true

theorem EndsMore.refl (s : State) : EndsMore s s := ⟨rfl, fun _ h => h⟩

theorem EndsMore.trans {s t u : State} (h : EndsMore s t) (h' : EndsMore t u) : EndsMore s u :=
  ⟨h'.length.trans h.length, fun g hg => h'.ended g (h.ended g hg)⟩

theorem EndsMore.of_groups {s t : State} (h : t.groups = s.groups) : EndsMore s t :=
  ⟨by rw [h], fun g hg => by rw [State.group, h]; exact hg⟩

theorem EndsMore.of_modGroup (s : State) (g : Nat) {f : Group → Group} (h : ∀ x, x.ended = true → (f x).ended = true) :
    EndsMore s (s.modGroup g f) :=
  ⟨s.groups_length_modGroup g f, fun _ hk => State.modGroup_preserves (fun x => x.ended = true) h hk⟩

theorem endsMore_releaseHeld (s : State) (g : Nat) : EndsMore s (releaseHeld s g) := by
  refine EndsMore.trans (EndsMore.of_groups ?_) (EndsMore.of_modGroup _ g ?_)
  case refine_2 => exact fun _ h => h
  refine foldl_keeps State.groups (fun s p => ?_) _ s
  exact foldl_keeps State.groups (fun s x => by rfl) p.2 s

theorem endsMore_leaveSet (s : State) (g : Nat) : EndsMore s (leaveSet s g) := by
  simp only [leaveSet]
  split
  · exact .refl s
  · refine EndsMore.trans (EndsMore.of_modGroup s g ?_) (.of_groups (groups_sweepSet ..))
    exact fun _ h => h

/-- A group that ends is marked so; what follows changes teams, gangs and launches alone. -/
theorem groups_endGroup {s : State} {g : Nat} (killed : Bool) (h : ¬(s.group g).ended = true) :
    ∃ u, EndsMore s u ∧ (endGroup s g killed).groups = (u.modGroup g fun g =>
      { g with ended := true, resident := false, prvDirty := [], prvHome := [], hold := .none, records := [] }).groups := by
  unfold endGroup
  lift_lets
  intro x u1 u2 u3 u4 u5
  rw [if_neg h]
  have ends : EndsMore s u2 := by
    refine ((endsMore_releaseHeld s g).trans (endsMore_leaveSet _ g)).trans (.of_groups ?_)
    simp only [u2]
    split <;> rfl
  have after : u5.groups = u3.groups := foldl_keeps State.groups (fun s b => groups_barSettle s _ b) _ u4
  refine ⟨u2, ends, ?_⟩
  split
  · exact (groups_endTeam ..).trans after
  split
  · exact (groups_gangSweep ..).trans after
  · exact after

theorem endGroup_ends (s : State) (g : Nat) (killed : Bool) :
    EndsMore s (endGroup s g killed) ∧ (g < s.groups.length → ((endGroup s g killed).group g).ended = true) := by
  by_cases h : (s.group g).ended = true
  · have e : endGroup s g killed = s := by simp only [endGroup, h, if_true]
    rw [e]
    exact ⟨.refl s, fun _ => h⟩
  · obtain ⟨u, ends, e⟩ := groups_endGroup killed h
    have more := EndsMore.of_groups e
    refine ⟨(ends.trans (.of_modGroup u g fun _ _ => rfl)).trans more, fun hg => more.ended g ?_⟩
    rw [u.group_modGroup_self _ (by rw [ends.length]; exact hg)]

/-- Lanes of a list exit; none that has exited comes back. -/
theorem Group.exited_foldl (ls : List Nat) (g : Group) :
    (ls.foldl (fun g i => g.modLane i fun l => l.exit g.depth) g).lanes.length = g.lanes.length ∧
      ∀ i < g.lanes.length, i ∈ ls ∨ (g.lane i).isExited = true →
        ((ls.foldl (fun g i => g.modLane i fun l => l.exit g.depth) g).lane i).isExited = true := by
  induction ls generalizing g with
  | nil => exact ⟨rfl, fun i _ h => h.resolve_left List.not_mem_nil⟩
  | cons k r ih =>
    obtain ⟨len, exited⟩ := ih (g.modLane k fun l => l.exit g.depth)
    refine ⟨len.trans (g.lanes_length_modLane ..), fun i hi h => exited i (by rwa [g.lanes_length_modLane]) ?_⟩
    by_cases hk : i = k
    · subst hk
      exact .inr (by rw [g.lane_modLane_self _ hi]; rfl)
    · rw [g.lane_modLane_ne _ hk]
      exact h.imp_left fun hm => (List.mem_cons.1 hm).resolve_left hk

theorem Group.live_eq_nil {g : Group} (h : ∀ i < g.lanes.length, (g.lane i).isExited = true) : g.live = [] := by
  refine List.filter_eq_nil_iff.2 fun i hi => ?_
  simp [h i (List.mem_range.1 hi)]

theorem killGroup_ends (s : State) (g : Nat) :
    EndsMore s (killGroup s g) ∧ (g < s.groups.length → ((killGroup s g).group g).ended = true) := by
  unfold killGroup
  split
  · next h => exact ⟨.refl s, fun _ => h⟩
  unfold exitLanes
  lift_lets
  intro u
  have ends : EndsMore s u :=
    .of_modGroup s g fun x h => (foldl_keeps Group.ended (fun _ _ => by rfl) (s.group g).live x).trans h
  obtain ⟨more, ended⟩ := endGroup_ends u g true
  split
  · exact ⟨ends.trans more, fun hg => ended (by rwa [ends.length])⟩
  · next h =>
    refine ⟨ends, fun hg => absurd ?_ h⟩
    rw [s.group_modGroup_self _ hg]
    obtain ⟨len, exited⟩ := Group.exited_foldl (s.group g).live (s.group g)
    refine List.isEmpty_iff.2 (Group.live_eq_nil fun i hi => ?_)
    rw [len] at hi
    refine exited i hi ?_
    by_cases hx : ((s.group g).lane i).isExited = true
    · exact .inr hx
    · exact .inl (List.mem_filter.2 ⟨List.mem_range.2 hi, by simpa using hx⟩)

/-- Of the groups of a list, each ends. -/
theorem foldl_killGroup_ends (l : List Nat) (s : State) :
    EndsMore s (l.foldl killGroup s) ∧ ∀ g ∈ l, g < s.groups.length → ((l.foldl killGroup s).group g).ended = true := by
  induction l generalizing s with
  | nil => exact ⟨.refl s, fun g hg => absurd hg List.not_mem_nil⟩
  | cons k r ih =>
    obtain ⟨first, ended⟩ := killGroup_ends s k
    obtain ⟨more, rest⟩ := ih (killGroup s k)
    refine ⟨first.trans more, fun g hg hl => ?_⟩
    rcases List.mem_cons.1 hg with rfl | hg
    · exact more.ended g (ended hl)
    · exact rest g hg (by rwa [first.length])

/-! ## The events of placement (R341, R342, R395) -/

theorem teamDispatch_offers {s : State} {team d c : Nat} (hn : s.nextToPlace = some team) (hs : (s.team team).saved = false)
    (hd : s.dieFor team = some (d, c)) :
    exec (.teamDispatch team) s = .next ((s.unit team).foldl (fun s t => s.modTeam t fun tm => { tm with st := .offered d }) s) := by
  show execTeamDispatch team s = _
  simp only [execTeamDispatch, hn, hs, hd, bne_self_eq_false, Bool.or_false, Bool.false_eq_true, if_false]

/-- A team of no gang that spans devices is placed resident, alone. -/
theorem placeUnit_of_alone {s : State} {t d core : Nat} (hg : s.gangOf t = none) (hsp : s.isSpanning t = false)
    (hd : s.dieFor t = some (d, core)) : placeUnit s (s.unit t) = some { placeTeam s t core .resident with lastDie := d } := by
  rw [State.unit_of_alone hg]
  simp [placeUnit, hd, State.placedAs, hsp]

theorem sameTeams_placed (s : State) (t core d : Nat) (st : TeamSt) : SameTeams s { placeTeam s t core st with lastDie := d } :=
  (sameTeams_placeTeam s t core st).trans (sameTeams_of_fields rfl rfl rfl)

theorem sayReady_of_local {s : State} {t : Nat} (h : s.isSpanning t = false) : sayReady s t = s := by
  simp only [sayReady, h, Bool.not_false, if_true]

theorem unparkGang_of_alone {s : State} {t : Nat} (h : s.gangOf t = none) : unparkGang s t = s := by
  simp only [unparkGang, h]

theorem teamPlacement_places {s : State} {team core d : Nat} (ho : (s.team team).st = .offered d) (hg : s.gangOf team = none)
    (hsp : s.isSpanning team = false) (hb : s.bestCore team d = some core) (hd : s.dieFor team = some (d, core)) :
    exec (.teamPlacement team core) s =
      .next (makeNext { placeTeam s team core .resident with lastDie := d } (s.team team).launch) := by
  have same := sameTeams_placed s team core d .resident
  show execTeamPlacement team core s = _
  simp only [execTeamPlacement, ho, hb, ne_eq, not_true_eq_false, if_false, placeUnit_of_alone hg hsp hd]
  rw [sayReady_of_local (by rw [same.isSpanning]; exact hsp), same.launch]

theorem teamPlacement_returns {s : State} {team core d : Nat} (ho : (s.team team).st = .offered d) (hg : s.gangOf team = none)
    (hb : s.bestCore team d = none) : exec (.teamPlacement team core) s = .next (s.modTeam team fun tm => { tm with st := .pending }) := by
  show execTeamPlacement team core s = _
  simp only [execTeamPlacement, ho, hb, State.unit_of_alone hg]
  rfl

theorem placeTeam_starts {s : State} {t : Nat} (core : Nat) (st : TeamSt) (h : (s.team t).saved = false) :
    (placeTeam s t core st).groups.length = s.groups.length + (s.launch (s.team t).launch).e.ngroups ∧
      ∀ j < (s.launch (s.team t).launch).e.ngroups,
        StartsAt (s.launch (s.team t).launch).e t core j ((placeTeam s t core st).group (s.groups.length + j)) := by
  have spec := startedGroups_spec core ((sameTeams_readied s t core st).teamEntry t) (s.launch (s.team t).launch).e.ngroups
  rw [groups_readied] at spec
  rw [placeTeam_fresh core st h]
  exact spec

theorem teamRestore_places {s : State} {team core d : Nat} (hn : s.nextToPlace = some team) (hs : (s.team team).saved = true)
    (hd : s.dieFor team = some (d, core)) (hg : s.gangOf team = none) (hsp : s.isSpanning team = false) :
    exec (.teamRestore team core) s = .next { placeTeam s team core .resident with lastDie := d } := by
  have same := sameTeams_placed s team core d .resident
  show execTeamRestore team core s = _
  simp only [execTeamRestore, hn, hs, hd, bne_self_eq_false, Bool.not_true, Bool.or_false, Bool.false_eq_true, if_false, ne_eq,
    not_true_eq_false, placeUnit_of_alone hg hsp hd]
  rw [sayReady_of_local (by rw [same.isSpanning]; exact hsp), unparkGang_of_alone (by rw [same.gangOf]; exact hg)]

/-! ## The loggia, the slice and the fault wait (R355, R465, R468) -/

theorem loggiaLoad_loads {s : State} {core team v : Nat} (hl : (s.core core).loggia = none) (hs : (s.core core).spilling = [])
    (hm : s.mayLoad team = true) (hv : s.victimOn core team = some v) (hw : s.loadSwaps core team v = true) :
    exec (.loggiaLoad core team v) s = .next ((s.modTeam team fun t => { t with st := .loggia }).modCore core fun c =>
      { c with loggia := some (team, v, if c.slice = 0 then none else some (c.slice * 1024)) }) := by
  show execLoggiaLoad core team v s = _
  simp [execLoggiaLoad, hl, hs, hm, hv, hw]

/-- The loggia's team takes the place of a victim that may leave (R355). -/
theorem swapNow_swaps {s : State} {core t v : Nat} {x : Option Nat} (hl : (s.core core).loggia = some (t, v, x))
    (hc : (s.launch (s.team v).launch).cancelled = false) (hsp : s.isSpanning v = false) (hm : s.maySwapOut (s.unit v) = true)
    (hf : (s.without v).fitsOn t core = true) : swapNow s core = Claims.swappedIn s core t v := by
  simp only [swapNow, hl, hc, hsp, hm, hf, Bool.false_eq_true, if_false, Bool.not_true, Claims.swappedIn]
  exact congrArg (makeNext _) (launch_swapOutUnit s v t)

theorem sliceExpiry_eq {s : State} {core t v : Nat} (hl : (s.core core).loggia = some (t, v, some 0)) :
    exec (.sliceExpiry core) s = .next (if (s.core core).slice = 0 then s else swapNow s core) := by
  show execSliceExpiry core s = _
  simp only [execSliceExpiry, hl]

theorem teamSwap_swaps {s : State} {core t v : Nat} {x : Option Nat} (hl : (s.core core).loggia = some (t, v, x)) (h3 : (s.team t).prio = 3)
    (hv : (s.team v).prio < 3) : exec (.teamSwap core v) s = .next (swapNow s core) := by
  show execTeamSwap core v s = _
  simp only [execTeamSwap, hl, h3, hv, and_self, if_true]

theorem faultWaitSwap_leaves {s : State} {team : Nat} (hg : s.gangOf team = none) (hw : s.faultWait team = true)
    (hsp : s.isSpanning team = false) (hm : s.maySwapOut [team] = true) : exec (.faultWaitSwap team) s = .next (swapOut s team) := by
  show execFaultWaitSwap team s = _
  simp [execFaultWaitSwap, State.unit_of_alone hg, hw, hsp, hm, swapOutUnit_of_alone hg]

/-! ## The end of an image's writes (R261, R466, R470) -/

theorem foldl_of_fixed {σ α : Type} {f : σ → α → σ} {l : List α} {s : σ} (h : ∀ x ∈ l, f s x = s) : l.foldl f s = s := by
  induction l with
  | nil => rfl
  | cons x r ih =>
    rw [List.foldl_cons, h x List.mem_cons_self]
    exact ih fun y hy => h y (List.mem_cons_of_mem _ hy)

theorem writeBackPrv_of_clean {s : State} {g : Nat} (h : (s.group g).prvLines = []) : writeBackPrv s g = (s, true) := by
  simp only [writeBackPrv, h, List.foldl_nil]

/-- A team without writes has none among the stores, and none in the reductions of its core. -/
theorem no_writes_of {s : State} {t core : Nat} (h : s.teamWrites t core = false) :
    (∀ st ∈ s.stores, (s.team t).groups.elem st.group = false) ∧
      ∀ e ∈ (s.core core).red, (e.writers.any fun w => (s.team t).groups.elem w.1) = false := by
  simp only [State.teamWrites, Bool.or_eq_false_iff] at h
  obtain ⟨⟨⟨⟨stores, red⟩, -⟩, -⟩, -⟩ := h
  exact ⟨fun st hst => Bool.eq_false_iff.2 (List.any_eq_false.1 stores st hst), fun e he => Bool.eq_false_iff.2 (List.any_eq_false.1 red e he)⟩

/-- With no write left of the team, its image is complete. -/
theorem imageSaveDone_eq {s : State} {team : Nat} (hs : team ∈ (s.core (s.team team).core).spilling)
    (hp : ∀ g ∈ (s.team team).groups, (s.group g).ended = true ∨ (s.group g).prvLines = [])
    (hw : s.teamWrites team (s.team team).core = false) :
    exec (.imageSaveDone team) s = .next (
      let saved := s.modCore (s.team team).core fun c => { c with spilling := c.spilling.erase team }
      if (s.team team).st != .outgoing then saved
      else if (s.launch (s.team team).launch).cancelled then
        ((s.team team).groups.filter fun g => !(s.group g).ended).foldl killGroup saved
      else saved.modTeam team fun t => { t with st := .swapped }) := by
  obtain ⟨stores, red⟩ := no_writes_of hw
  have clean : ((s.team team).groups.filter fun g => !(s.group g).ended).foldl
      (fun (acc : State × Bool) g => let r := writeBackPrv acc.1 g; (r.1, acc.2 && r.2)) (s, true) = (s, true) :=
    foldl_of_fixed fun g hg => by
      obtain ⟨hg, he⟩ := List.mem_filter.1 hg
      have lines := (hp g hg).resolve_left (by simpa using he)
      simp only [writeBackPrv_of_clean lines, Bool.and_self]
  have flushed : (s.core (s.team team).core).red.foldl
      (fun u e => if e.writers.any (fun w => (u.team team).groups.elem w.1) then flushRed u (s.team team).core e else u) s = s :=
    foldl_of_fixed fun e he => by rw [red e he]; rfl
  have spilling : (s.core (s.team team).core).spilling.elem team = true := List.elem_iff.2 hs
  show execImageSaveDone team s = _
  simp only [execImageSaveDone, spilling, clean, performStores_of_none _ stores, flushed, hw, Bool.not_true, Bool.or_self, Bool.false_eq_true,
    if_false]
  rfl

/-! ## Banks and contexts (R220, R405) -/

/-- A bank that is free may change its mode (R220). -/
def State.bankFree (s : State) (cl bank : Nat) : Prop :=
  (s.cluster cl).modes.get 0 bank = 0 ∨ ((s.cluster cl).modes.get 0 bank = 1 ∧ (s.cluster cl).owner.find bank = none) ∨
    (2 ≤ (s.cluster cl).modes.get 0 bank ∧ (s.fifo cl bank).claim = none ∧ (s.fifo cl bank).filled = 0 ∧ (s.fifo cl bank).free = 1024)

/-- The request of a bank is taken up. -/
def State.noted (s : State) (cl bank : Nat) : State := s.modCluster cl fun c => { c with wanted := AMap.erase c.wanted bank }

theorem noted_cluster (s : State) (cl bank : Nat) :
    (s.noted cl bank).cluster cl = { s.cluster cl with wanted := AMap.erase (s.cluster cl).wanted bank } := s.cluster_modCluster_self cl _

theorem noted_fifo (s : State) (cl bank : Nat) : (s.noted cl bank).fifo cl bank = s.fifo cl bank := by
  simp only [State.fifo, noted_cluster]

/-- The state in which a bank's modes change: one that held cache lines has dropped them (R219). -/
def State.cleared (s : State) (cl bank : Nat) : State :=
  if (s.cluster cl).modes.get 0 bank = 0 then dropLines (s.noted cl bank) fun x => x.holder == ccHolder cl else s.noted cl bank

/-- The bank in its new mode, empty but for its claim (R220, R424). -/
def State.bankChanged (s : State) (cl bank m : Nat) : State :=
  ((freeBank (s.cleared cl bank) cl bank).modFifo cl bank fun x => { x with claim := (s.fifo cl bank).claim }).modCluster cl fun c =>
    { c with modes := c.modes.set bank m }

theorem bankModeChange_eq {s : State} {cl bank m : Nat} (hw : (s.cluster cl).wanted.find bank = some m) :
    (s.bankFree cl bank → m ≠ (s.cluster cl).modes.get 0 bank → exec (.bankModeChange cl bank) s = .next (s.bankChanged cl bank m)) ∧
      (¬s.bankFree cl bank ∨ m = (s.cluster cl).modes.get 0 bank → exec (.bankModeChange cl bank) s = .next (s.noted cl bank)) := by
  have fifo := noted_fifo s cl bank
  rw [State.noted] at fifo
  show (_ → _ → execBankModeChange cl bank s = _) ∧ (_ → execBankModeChange cl bank s = _)
  simp only [execBankModeChange, hw, fifo, State.bankFree, State.bankChanged, State.cleared, State.noted]
  rcases (s.cluster cl).modes.get 0 bank with _ | _ | k
  · refine ⟨fun _ hm => congrArg Host.Outcome.next (if_neg (by simpa using hm)), fun h => congrArg Host.Outcome.next (if_pos ?_)⟩
    simpa using h
  · refine ⟨fun hf hm => congrArg Host.Outcome.next (if_neg ?_), fun h => congrArg Host.Outcome.next (if_pos ?_)⟩
    · have owner : (s.cluster cl).owner.find bank = none := by simpa using hf
      simpa [owner] using hm
    · rcases h with h | h
      · have owner : (s.cluster cl).owner.find bank ≠ none := by simpa using h
        simp [Option.isSome_iff_ne_none.2 owner]
      · simp [h]
  · refine ⟨fun hf hm => congrArg Host.Outcome.next (if_neg ?_), fun h => congrArg Host.Outcome.next (if_pos ?_)⟩
    · have empty : (s.fifo cl bank).claim = none ∧ (s.fifo cl bank).filled = 0 ∧ (s.fifo cl bank).free = 1024 := by simpa using hf
      simpa [empty] using hm
    · rcases h with h | h
      · have full : ¬((s.fifo cl bank).claim = none ∧ (s.fifo cl bank).filled = 0 ∧ (s.fifo cl bank).free = 1024) := by simpa using h
        have ok : ((s.fifo cl bank).claim.isNone && decide ((s.fifo cl bank).filled = 0) && decide ((s.fifo cl bank).free = 1024)) = false :=
          Bool.eq_false_iff.2 fun e => full (by simpa [and_assoc] using e)
        simp only [ok, Bool.not_false, Bool.true_or]
      · simp [h]

theorem bankChanged_cluster (s : State) (cl bank m : Nat) :
    ((s.bankChanged cl bank m).cluster cl).wanted = AMap.erase (s.cluster cl).wanted bank ∧
      ((s.bankChanged cl bank m).cluster cl).modes.get 0 bank = m ∧
        (s.bankChanged cl bank m).fifo cl bank = { claim := (s.fifo cl bank).claim } := by
  have same : (s.cleared cl bank).cluster cl = (s.noted cl bank).cluster cl := by
    unfold State.cleared
    split <;> rfl
  simp [State.bankChanged, State.cluster_modCluster_self, State.modFifo, freeBank, State.fifo, same, noted_cluster]

theorem endClaims_tlbs (s : State) (ctx : Nat) (all : Bool) : (endClaims s ctx all).tlbs = s.tlbs := by
  refine foldl_keeps State.tlbs (fun s c => ?_) _ s
  refine foldl_keeps State.tlbs (fun s f => ?_) _ s
  split <;> rfl

theorem teardown_unbinds {s : State} {ctx : Nat} (ht : (s.context ctx).teardown = true)
    (hd : ∀ t ∈ s.teams, t.isSup = false → (s.launch t.launch).ctx = ctx → t.st = .done)
    (he : ∀ o ∈ s.engOps, o.ctx = ctx → o.status ≠ 0)
    (hm : ∀ c ∈ s.clusters, ∀ o ∈ c.2.mx.resv, o.ctx ≠ ctx) :
    exec (.teardown ctx) s = .next ((endClaims (dropTlb s ctx fun _ _ => true) ctx true).modContext ctx fun c =>
      { c with bindings := [], teardown := false }) := by
  have teams : s.teams.any (fun t => !t.isSup && (s.launch t.launch).ctx == ctx && t.st != .done) = false :=
    List.any_eq_false.2 fun t h => by
      have := hd t h
      cases hs : t.isSup <;> simp_all
  have ops : s.engOps.any (fun o => o.ctx == ctx && o.status == 0) = false :=
    List.any_eq_false.2 fun o h => by simpa using he o h
  have resv : s.clusters.any (fun c => c.2.mx.resv.any fun o => o.ctx == ctx) = false :=
    List.any_eq_false.2 fun c h => by simpa using hm c h
  show execTeardown ctx s = _
  simp only [execTeardown, ht, teams, ops, resv, Bool.not_true, Bool.or_self, Bool.false_eq_true, if_false]

/-- Every group of a team that has not ended is killed: none of the team goes on. -/
theorem cancelledGroupsEnd (s t : State) (ht : t.groups = s.groups) (team : Nat) :
    ∀ g ∈ (s.team team).groups, g < s.groups.length →
      ((((s.team team).groups.filter fun g => !(s.group g).ended).foldl killGroup t).group g).ended = true := by
  intro g hg hl
  obtain ⟨more, ended⟩ := foldl_killGroup_ends ((s.team team).groups.filter fun g => !(s.group g).ended) t
  by_cases he : (s.group g).ended = true
  · exact more.ended g (by rw [State.group, ht]; exact he)
  · exact ended g (List.mem_filter.2 ⟨hg, by simpa using he⟩) (by rw [ht]; exact hl)

/-- Settles O42: each event does what its rule says, and the accesses, placements and swaps keep what it reads of teams and launches. -/
theorem placementEventsMoveTeams : Obligations.PlacementEventsMoveTeams := by
  unfold Obligations.PlacementEventsMoveTeams
  intro s team core v cl bank ctx
  refine ⟨fun d c hn hs hd => teamDispatch_offers hn hs hd, fun d ho hg hsp => ⟨fun hb hd => teamPlacement_places ho hg hsp hb hd,
    fun hb => teamPlacement_returns ho hg hb⟩, fun st ht hs => ?_, fun d hn hs hd hg hsp => teamRestore_places hn hs hd hg hsp,
    fun hl hsl hm hv hw => loggiaLoad_loads hl hsl hm hv hw, fun x hl => ⟨?_, fun hc hsp hm hf => ⟨?_, ?_⟩⟩, fun ht hg hw hsp hm => ?_,
    fun hs hp hw => ?_, fun m hw => ?_, fun ht hd he hm => ?_⟩
  · obtain ⟨length, starts⟩ := placeTeam_starts core st hs
    obtain ⟨hst, hcore⟩ := placeTeam_team core st ht hs
    exact ⟨hst, hcore, length, starts⟩
  · rintro rfl hz
    rw [sliceExpiry_eq hl, if_pos hz]
  · rintro rfl hz
    rw [sliceExpiry_eq hl, if_neg hz, swapNow_swaps hl hc hsp hm hf]
  · intro h3 hv
    rw [teamSwap_swaps hl h3 hv, swapNow_swaps hl hc hsp hm hf]
  · exact ⟨_, faultWaitSwap_leaves hg hw hsp hm, (swapOut_spec s team).2 ht⟩
  · intro saved
    rw [imageSaveDone_eq hs hp hw]
    refine ⟨fun ho => by simp only [bne_iff_ne.2 ho, if_true, saved], fun ho hc => by simp [ho, hc, saved], fun ho hc => ?_⟩
    exact ⟨_, by rw [if_neg (by simp [ho]), if_pos hc], cancelledGroupsEnd s saved rfl team⟩
  · intro old free
    obtain ⟨changed, kept⟩ := bankModeChange_eq hw
    by_cases h : s.bankFree cl bank ∧ m ≠ old
    · obtain ⟨wanted, modes, fifo⟩ := bankChanged_cluster s cl bank m
      refine ⟨_, changed h.1 h.2, ?_, fun _ => ⟨modes, fun _ => fifo⟩, fun hf => absurd h.1 hf⟩
      rw [wanted]
      exact AMap.find_erase_self ..
    · have same : ¬s.bankFree cl bank ∨ m = old := by tauto
      refine ⟨_, kept same, ?_, fun hf => ?_, fun _ => ?_⟩
      · rw [noted_cluster]
        exact AMap.find_erase_self ..
      · have hm : m = old := same.resolve_left fun hn => hn hf
        exact ⟨by rw [noted_cluster, hm], fun hne => absurd hm hne⟩
      · rw [noted_cluster]
  · refine ⟨_, teardown_unbinds ht hd he hm, ?_, ?_, fun e => ?_⟩
    · rw [State.context_modContext_self]
    · rw [State.context_modContext_self]
    · rw [State.modContext_tlbs, endClaims_tlbs]
      simp [dropTlb]

end Sys2Proof.Machine
end

section
/-! O57, O56: the decoder gives back what the encoder wrote (R33 to R50, R61, R62, R65); first words that it refuses alone (R42, R64). -/

namespace Sys2Proof.Laws.Encoding

/-- Every well-formed instruction word is read back: a word by the lemma of its constructor, and an event has no word. -/
theorem readsBack_of_wellFormed (i : Instr) : Statement i := by
  cases i with
  | ill o => exact ill o | iadd o => exact iadd o | isub o => exact isub o | imul o => exact imul o | imulhu o => exact imulhu o
  | imulhs o => exact imulhs o | imad o => exact imad o | idivu o => exact idivu o | idivs o => exact idivs o | iremu o => exact iremu o
  | irems o => exact irems o | imin o => exact imin o | imax o => exact imax o | umin o => exact umin o | umax o => exact umax o
  | iabs o => exact iabs o | ineg o => exact ineg o | and o => exact and o | or o => exact or o | xor o => exact xor o
  | andn o => exact andn o | not o => exact not o | shl o => exact shl o | shr o => exact shr o | sar o => exact sar o
  | rotl o => exact rotl o | popc o => exact popc o | clz o => exact clz o | brev o => exact brev o | bfxu o => exact bfxu o
  | bfxs o => exact bfxs o | bfi o => exact bfi o | lea1 o => exact lea1 o | lea2 o => exact lea2 o | lea4 o => exact lea4 o
  | lea8 o => exact lea8 o | icmp o => exact icmp o | sel o => exact sel o | plopAnd o => exact plopAnd o | plopOr o => exact plopOr o
  | plopXor o => exact plopXor o | plopNot o => exact plopNot o | mov o => exact mov o | fadd o => exact fadd o | fsub o => exact fsub o
  | fmul o => exact fmul o | ffma o => exact ffma o | fmin o => exact fmin o | fmax o => exact fmax o | fabs o => exact fabs o
  | fneg o => exact fneg o | fcmp o => exact fcmp o | frcp o => exact frcp o | frsq o => exact frsq o | fsqrt o => exact fsqrt o
  | fex2 o => exact fex2 o | flg2 o => exact flg2 o | fdiv o => exact fdiv o | fclass o => exact fclass o | hadd2 o => exact hadd2 o
  | hmul2 o => exact hmul2 o | hfma2 o => exact hfma2 o | hmin2 o => exact hmin2 o | hmax2 o => exact hmax2 o | hdot2 o => exact hdot2 o
  | cvt o => exact cvt o | bamax o => exact bamax o | bscale o => exact bscale o | bquant o => exact bquant o | bpack o => exact bpack o
  | bunpack o => exact bunpack o | bdeq o => exact bdeq o | shfl o => exact shfl o | vote o => exact vote o | gred o => exact gred o
  | gscan o => exact gscan o | gbcast o => exact gbcast o | push o => exact push o | pull o => exact pull o | ptry o => exact ptry o
  | ld o => exact ld o | st o => exact st o | atom o => exact atom o | red o => exact red o | cas o => exact cas o
  | pref o => exact pref o | ldtag o => exact ldtag o | fewait o => exact fewait o | cbget o => exact cbget o | cbput o => exact cbput o
  | cbrel o => exact cbrel o | jmpr o => exact jmpr o | mmfeed o => exact mmfeed o | mmread o => exact mmread o | bra o => exact bra o
  | call o => exact call o | ret o => exact ret o | callr o => exact callr o | join o => exact join o | exit o => exact exit o
  | gcall o => exact gcall o | bkpt o => exact bkpt o | kaluAdd u => exact kaluAdd u | kaluSub u => exact kaluSub u
  | kaluMul u => exact kaluMul u | kaluMulhu u => exact kaluMulhu u | kaluMulhs u => exact kaluMulhs u | kaluAnd u => exact kaluAnd u
  | kaluOr u => exact kaluOr u | kaluXor u => exact kaluXor u | kaluShl u => exact kaluShl u | kaluShr u => exact kaluShr u
  | kaluSar u => exact kaluSar u | kaluMin u => exact kaluMin u | kaluMax u => exact kaluMax u | kaluMinu u => exact kaluMinu u
  | kaluMaxu u => exact kaluMaxu u | kaluSlt u => exact kaluSlt u | kaluSltu u => exact kaluSltu u | kaluiAddi u => exact kaluiAddi u
  | kaluiAndi u => exact kaluiAndi u | kaluiOri u => exact kaluiOri u | kaluiXori u => exact kaluiXori u
  | kaluiSlti u => exact kaluiSlti u | kaluiSltiu u => exact kaluiSltiu u | kaluiShli u => exact kaluiShli u
  | kaluiShri u => exact kaluiShri u | kaluiSari u => exact kaluiSari u | klui u => exact klui u | kauipc u => exact kauipc u
  | kld u => exact kld u | kst u => exact kst u | kldc u => exact kldc u | kread u => exact kread u | kballot u => exact kballot u
  | bru u => exact bru u | ju u => exact ju u | jur u => exact jur u | loop u => exact loop u | mmconvJoin u => exact mmconvJoin u
  | mmconvLeave u => exact mmconvLeave u | mmpost u => exact mmpost u | mmldb u => exact mmldb u | mmwait u => exact mmwait u
  | mmwaitTest u => exact mmwaitTest u | mmdrain u => exact mmdrain u | mmzero u => exact mmzero u | mchkloc u => exact mchkloc u
  | mchkfixAuto u => exact mchkfixAuto u | mchkfixVal u => exact mchkfixVal u | mmretry u => exact mmretry u | xpost u => exact xpost u
  | xgath u => exact xgath u | qfence u => exact qfence u | qwait u => exact qwait u | qwaitTest u => exact qwaitTest u
  | cpost u => exact cpost u | barSync u => exact barSync u | barArr u => exact barArr u | acq u => exact acq u | rel u => exact rel u
  | bind u => exact bind u | unbind u => exact unbind u | fence u => exact fence u | spawn u => exact spawn u | yield u => exact yield u
  | yieldSwap u => exact yieldSwap u | part u => exact part u | gangJoin u => exact gangJoin u | gangDetach u => exact gangDetach u
  | gangSync u => exact gangSync u | gangQuery u => exact gangQuery u | winmapSet u => exact winmapSet u
  | winmapAddr u => exact winmapAddr u | seed u => exact seed u | csrr u => exact csrr u | csrw u => exact csrw u
  | csrwSet u => exact csrwSet u | csrwClr u => exact csrwClr u | capset u => exact capset u | trap u => exact trap u
  | rteReplay u => exact rteReplay u | rteSkip u => exact rteSkip u | rteKill u => exact rteKill u | rteEnd u => exact rteEnd u
  | scantStart u => exact scantStart u | scantChunk u => exact scantChunk u | scantCheck u => exact scantCheck u
  | scantEnd u => exact scantEnd u | cancel u => exact cancel u
  | _ => exact fun _ hw => Bool.noConfusion hw

/-- The decoder accepts well-formed words alone, of one word or two (R33, R65). -/
theorem wellFormed_of_decode {w e n : Nat} {i : Instr} (h : decode w e = .ok i n) : i.wellFormed = true ∧ (n = 4 ∨ n = 8) := by
  have accepted : ∀ {j : Instr} {k : Nat}, (if j.wellFormed then Decoded.ok j k else .bad .field) = .ok i n →
      i.wellFormed = true ∧ n = k := by
    intro j k hj
    split at hj
    · next hw => cases hj; exact ⟨hw, rfl⟩
    · cases hj
  unfold decode at h
  split at h <;> split at h
  · cases h
  · obtain ⟨hw, hn⟩ := accepted h
    exact ⟨hw, .inl hn⟩
  · cases h
  · obtain ⟨hw, hn⟩ := accepted h
    refine ⟨hw, ?_⟩
    split at hn
    · exact .inr hn
    · exact .inl hn

end Sys2Proof.Laws.Encoding

namespace Sys2Proof

theorem bitAt_eq_testBit (w i : Nat) : bitAt w i = w.testBit i := by
  rw [Nat.testBit_eq_decide_div_mod_eq, bitAt, bitsAt, pow_one]
  rfl

/-! ## First words that no extension completes (R42, R64) -/

section
variable {w : Nat} (lane : w < 2 ^ 31) (ext : w.testBit 1 = true)
include lane ext

/-- A lane word with an extension that its opcode accepts. -/
theorem decode_long {e : Nat} {i : Instr} (hd : decodeLane (bitsAt w 24 7) { parseLane w 0 with x := parseExt e } = some i)
    (hw : i.wellFormed = true) : decode w e = .ok i 8 := by
  have h31 : bitAt w 31 = false := by rw [bitAt_eq_testBit, Nat.testBit_lt_two_pow lane]
  have h1 : bitAt w 1 = true := by rw [bitAt_eq_testBit, ext]
  have hp : parseLane w e = { parseLane w 0 with x := parseExt e } := by simp only [parseLane, h1, if_true]
  simp only [decode, h31, h1, hp, hd, hw, Bool.false_eq_true, if_false, if_true]

/-- A first word that is not refused has an extension that completes it: the encoding of a plain one. -/
theorem exists_ok_of_firstBad (h : firstBad w = false) : ∃ e i, decode w e = .ok i 8 := by
  have readBack : ∀ x ∈ plainExts, parseExt ((encodeExt x).getD 0 0) = x := by decide
  simp only [firstBad, Bool.not_eq_false', List.any_eq_true] at h
  obtain ⟨x, hm, hx⟩ := h
  split at hx
  · next i hi => exact ⟨(encodeExt x).getD 0 0, i, decode_long lane ext (by rw [readBack x hm, hi]) hx⟩
  · cases hx

/-- A first word that no extension completes is refused before its extension is fetched. -/
theorem firstBad_of_all_bad (h : ∀ y, ∃ e, decode w y = .bad e) : firstBad w = true := by
  by_contra hn
  obtain ⟨y, i, hy⟩ := exists_ok_of_firstBad lane ext (Bool.eq_false_iff.2 hn)
  obtain ⟨e, he⟩ := h y
  rw [hy] at he
  cases he

/-- One that some extension completes is not. -/
theorem firstBad_of_decode {e n : Nat} {i : Instr} (h : decode w e = .ok i n) : firstBad w = false :=
  firstBad_of_ok (by rw [bitAt_eq_testBit, Nat.testBit_lt_two_pow lane]) (by rw [bitAt_eq_testBit, ext]) h

end

end Sys2Proof

namespace Sys2Proof.Machine

/-- Settles O57: each constructor's word reads back, and the decoder asks of each word it accepts that it be well formed. -/
theorem encodedWordsDecodeToThemselves : Obligations.EncodedWordsDecodeToThemselves :=
  ⟨Laws.Encoding.readsBack_of_wellFormed, fun _ _ _ _ => Laws.Encoding.wellFormed_of_decode⟩

/-- Settles O56: the decoder is run on each of the five words of the encoding tables. -/
theorem specWordsDecode : Obligations.SpecWordsDecode := by
  unfold Obligations.SpecWordsDecode
  decide

end Sys2Proof.Machine
end

section
/-! O15: the words that trap (R63, R437, R438). -/

namespace Sys2Proof.Machine

/-- A converged group issues its live lanes (R25, R347). -/
theorem myRun_eq_live {s : State} (h : s.Conv) : s.myRun = s.me.live := by
  refine List.filter_congr fun i hi => ?_
  show ((s.me.lane i).isActive && (s.me.lane i).pc == s.curPc) = !(s.me.lane i).isExited
  by_cases hx : (s.me.lane i).isExited = true
  · have inactive : (s.me.lane i).isActive = false := by
      rw [Lane.isActive, eq_of_beq (show ((s.me.lane i).st == .exited) = true from hx)]
      rfl
    rw [inactive, hx]
    rfl
  · have live : i ∈ s.me.live := Group.mem_lanesWith.2 ⟨List.mem_range.1 hi, by simpa using hx⟩
    rw [List.all_eq_true.1 h i live]
    simpa using hx

/-! ## A run whose lanes trap -/

theorem Group.getElem_lanes (g : Group) {j : Nat} (h : j < g.lanes.length) : g.lanes[j] = g.lane j := by
  simp [Group.lane, h]

/-- The lanes of a run after their parts, whatever the parts are. -/
theorem modGroup_ranGroup (s : State) (len : Nat) (f : Group → Nat → Lane → LaneRes) :
    s.modGroup s.cur (ranGroup len (runParts s f)) =
      s.eachLane (fun i l => settleLane len l (f s.me i l)) fun i l => (f s.me i l).fl := by
  refine s.modGroup_congr _ ?_
  have lanes : (ranGroup len (runParts s f) s.me).lanes =
      s.me.lanes.mapIdx fun i l => if s.myRun.elem i then settleLane len l (f s.me i l) else l := by
    refine List.ext_getElem (by simp [ranGroup_lanes_length]) fun j hj _ => ?_
    rw [ranGroup_lanes_length] at hj
    rw [Group.getElem_lanes, ranGroup_lane s len f j hj, List.getElem_mapIdx, Group.getElem_lanes]
    simp only [List.elem_eq_mem, decide_eq_true_eq]
  rw [ranGroup_frame, lanes, ranGroup_flags, runParts, List.foldl_map]

/-- The part of a lane that traps when its guard holds. -/
def trapPart (o : LaneOp) (c : Cause) (addr : Nat) (_ : Group) (_ : Nat) (l : Lane) : LaneRes :=
  if l.guard o then { lane := l, out := .trap c addr } else { lane := l }

theorem trapsOf_trapPart (s : State) (o : LaneOp) (c : Cause) (addr : Nat) :
    trapsOf (runParts s (trapPart o c addr)) = (Claims.trueRun s o).map fun i => (i, c, addr) := by
  unfold trapsOf runParts Claims.trueRun
  rw [List.filterMap_map, ← List.filterMap_eq_map', List.filterMap_filter]
  refine List.filterMap_congr fun i _ => ?_
  by_cases hg : (s.me.lane i).guard o = true <;> simp [trapPart, hg]

theorem exitsOf_trapPart (s : State) (o : LaneOp) (c : Cause) (addr : Nat) : exitsOf (runParts s (trapPart o c addr)) = [] := by
  unfold exitsOf runParts
  rw [List.filterMap_map, List.filterMap_eq_nil_iff]
  intro i _
  by_cases hg : (s.me.lane i).guard o = true <;> simp [trapPart, hg]

/-- Traps of one cause and address in a list of lanes of the issuing group. -/
theorem trapLanes_same {s t : State} {ls : List Nat} {c : Cause} {addr : Nat} {rs : List (Nat × LaneRes)}
    (hp : (t.group s.cur).priv = s.me.priv) (ht : trapsOf rs = ls.map fun i => (i, c, addr)) :
    trapLanes t s.cur s.curPc false rs = Claims.laneTraps s t ls c addr := by
  have same : (t.group s.cur).priv = .supervisor ↔ s.me.priv = .supervisor := by rw [hp]
  simp only [trapLanes, Claims.laneTraps, ht, beq_iff_eq, same]
  split
  · rw [← List.map_take, List.foldl_map]
  · rw [List.foldl_map]

theorem priv_eachLane (s : State) (f : Nat → Lane → Lane) (fl : Nat → Lane → Nat) : ((s.eachLane f fl).group s.cur).priv = s.me.priv := by
  refine s.modGroup_keeps Group.priv ?_ s.cur
  exact fun _ => rfl

/-- The true lanes trap at a word of four bytes; the others go past it (R437, R455). -/
theorem runLanes_trapPart (s : State) (o : LaneOp) (c : Cause) (addr : Nat) :
    runLanes s 4 (trapPart o c addr) =
      Claims.laneTraps s (s.eachLane fun _ l => if l.guard o then { l with failed := none } else l.past 4) (Claims.trueRun s o) c addr := by
  have acted : s.modGroup s.cur (ranGroup 4 (runParts s (trapPart o c addr))) =
      s.eachLane fun _ l => if l.guard o then { l with failed := none } else l.past 4 := by
    rw [modGroup_ranGroup]
    exact s.eachLane_congr (fun i _ => by unfold trapPart; split <;> rfl) fun i _ => by unfold trapPart; split <;> rfl
  rw [runLanes_of_no_exit s 4 _ (exitsOf_trapPart s o c addr), acted]
  exact trapLanes_same (priv_eachLane s _ _) (trapsOf_trapPart s o c addr)

/-! ## Encodings that no instruction has -/

/-- An encoding that no instruction has is ILLEGAL: a group record for a uniform word, lane records else (R63). -/
theorem exec_illegalEncoding (w : Nat) (s : State) :
    exec (.illegalEncoding w) s = .next (if 2 ^ 31 ≤ w then takeTrap s s.cur .illegal s.curPc false true (s.myRun.map fun i => (i, 0))
      else takeTrap s s.cur .illegal s.curPc (w.testBit 1) false (s.myRun.map fun i => (i, 0))) := by
  rw [← bitAt_eq_testBit]
  rfl

/-- Settles O15: `ill` and the encodings without an instruction park the run, `trap` the converged group, `bkpt` its true lanes, and a
swizzle beyond the group's width is refused before any lane acts. -/
theorem trappingWordsTakeTheirCause : Obligations.TrappingWordsTakeTheirCause := by
  unfold Obligations.TrappingWordsTakeTheirCause
  intro s o u w
  refine ⟨rfl, exec_illegalEncoding w s, fun hc => by rw [myRun_eq_live hc], fun hc => ?_, ?_, fun hs => ?_⟩
  · show Host.Outcome.next (uniform s fun s => groupTrap s s.cur .trap u.imm12) = _
    rw [uniform_of_conv _ hc]
    rfl
  · exact congrArg Host.Outcome.next (runLanes_trapPart s o .bkpt (o.a * 64 + o.b))
  · have illegal : ¬swzLegal s.me.width o.x = true := by rw [hs]; exact Bool.false_ne_true
    exact congrArg Host.Outcome.next (if_neg illegal)

end Sys2Proof.Machine
end

section
/-! O23: uniform branches (R51, R53, R365). -/

namespace Sys2Proof.Machine

/-- A word offset is PC + 4 times its sign-extended field (R51). -/
theorem target_eq_jump {n : Nat} (hn : 0 < n) (pc : Word) (off : Nat) : target pc n off = Claims.jump pc n off := by
  unfold target Claims.jump
  rw [wrap_ofInt, BitVec.ofNat_toNat, BitVec.setWidth_eq, sx_toInt hn, BitVec.ofInt_mul]
  rfl

/-- The conditions of `bru` on the registers' numbers are those on the registers (R53). -/
theorem bruTaken_eq_bruHolds (cond : Nat) (a b : UWord) : bruTaken cond a.toNat b.toNat = Claims.bruHolds cond a b := by
  have eqs : ∀ x y : UWord, (x.toNat == y.toNat) = (x == y) := fun x y => by
    rw [Bool.eq_iff_iff, beq_iff_eq, beq_iff_eq, BitVec.toNat_inj]
  have signed : ∀ x : UWord, sx 64 x.toNat = x.toInt := fun x => by rw [sx_toInt (by omega), BitVec.ofNat_toNat, BitVec.setWidth_eq]
  have zero : (a.toNat == 0) = (a == 0) := eqs a 0
  unfold bruTaken Claims.bruHolds
  simp only [bne, eqs, zero, signed]
  rfl

/-! ## The four words in a converged group -/

theorem exec_bru {s : State} (o : UOp) (hc : s.Conv) :
    exec (.bru o) s = .next (s.wentTo (if Claims.bruHolds o.f3 (s.u o.d) (s.u o.a) then Claims.jump s.curPc 12 o.imm12 else s.curPc + 4)) := by
  show Host.Outcome.next (uniform s _) = _
  rw [uniform_of_conv _ hc, bruTaken_eq_bruHolds, target_eq_jump (by omega)]
  split <;> rfl

theorem exec_ju {s : State} (o : UOp) (hc : s.Conv) : exec (.ju o) s = .next (s.wentTo (Claims.jump s.curPc 25 o.off25)) := by
  show Host.Outcome.next (uniform s _) = _
  rw [uniform_of_conv _ hc, target_eq_jump (by omega)]
  rfl

/-- `jur` goes by bits [31:0] of its register, which decide the alignment (R51). -/
theorem exec_jur {s : State} (o : UOp) (hc : s.Conv) :
    exec (.jur o) s = .next (if (s.u o.a).toNat % 4 = 0 then s.wentTo ((s.u o.a).setWidth 32)
      else groupTrap s s.cur .align ((s.u o.a).toNat % 2 ^ 32)) := by
  have low : (s.u o.a).toNat % 2 ^ 32 % 4 = (s.u o.a).toNat % 4 := by omega
  have tgt : BitVec.ofNat 32 ((s.u o.a).toNat % 2 ^ 32) = (s.u o.a).setWidth 32 :=
    BitVec.eq_of_toNat_eq (by rw [BitVec.toNat_ofNat, BitVec.toNat_setWidth, Nat.mod_mod])
  show Host.Outcome.next (uniform s _) = _
  rw [uniform_of_conv _ hc]
  simp only [low, tgt]
  rfl

/-- `loop` counts its register down and leaves when nothing is left (R365). -/
theorem exec_loop {s : State} (o : UOp) (hc : s.Conv) :
    exec (.loop o) s = .next (s.modGroup s.cur fun g =>
      (g.setU o.d (s.u o.d - 1)).movedTo (if s.u o.d = 1 then s.curPc + 4 else Claims.jump s.curPc 12 o.imm12)) := by
  have counted (pc : Word) : advanceTo (setU s o.d (s.u o.d - 1)) pc = s.modGroup s.cur fun g => (g.setU o.d (s.u o.d - 1)).movedTo pc :=
    s.modGroup_modGroup s.cur _ _
  have last : s.u o.d - 1 = 0 ↔ s.u o.d = 1 := sub_eq_zero
  show Host.Outcome.next (uniform s _) = _
  rw [uniform_of_conv _ hc, ← target_eq_jump (by omega)]
  by_cases h : s.u o.d = 1
  · simp only [bne_iff_ne, ne_eq, last.2 h, not_true_eq_false, if_false, if_pos h]
    rw [← last.2 h]
    exact congrArg Host.Outcome.next (counted (s.curPc + 4))
  · simp only [bne_iff_ne, ne_eq, mt last.1 h, not_false_eq_true, if_true, if_neg h]
    exact congrArg Host.Outcome.next (counted _)

/-- Settles O23: in a converged group the gate lets each word act, and each moves the whole group. -/
theorem uniformBranchesMoveTheGroup : Obligations.UniformBranchesMoveTheGroup := by
  unfold Obligations.UniformBranchesMoveTheGroup
  intro s o hc
  refine ⟨exec_bru o hc, exec_ju o hc, fun h => ?_, fun h => ?_, exec_loop o hc⟩
  · rw [exec_jur o hc, if_pos h]
  · rw [exec_jur o hc, if_neg h]

end Sys2Proof.Machine
end

section
/-! O53: a step fetches, decodes and runs the word at the issuing PC (R33, R34, R63, R64, R344). -/

namespace Sys2Proof.Machine

/-! ## Issuing (R33, R34, R63) -/

/-- What a word with the word after it runs as (R63). -/
def wordRun (w e : Nat) : Instr :=
  match decode w e with
  | .ok x _ => x
  | .bad _ => .illegalEncoding w

theorem wordRun_ok {w e n : Nat} {x : Instr} (h : decode w e = .ok x n) : wordRun w e = x := by rw [wordRun, h]

theorem wordRun_bad {w e : Nat} {d : DecodeErr} (h : decode w e = .bad d) : wordRun w e = .illegalEncoding w := by rw [wordRun, h]

/-- An event of the agenda comes first (log entry 1). -/
theorem step_of_event {s : State} {e : Instr} {rest : List Instr} (ha : s.agenda = e :: rest) (hf : s.firm.safe = false) :
    step s = exec e { s with agenda := rest } := by
  unfold step
  split
  · next he =>
    rw [ha] at he
    cases he
    exact if_neg (by simp [hf])
  · next he =>
    rw [ha] at he
    cases he

section
variable {s u v : State} {i : Issue} {rest : List Issue} {w y : Nat}

/-- With no event due, a step is the instruction that its issue gives. -/
theorem step_of_issueOne {x : Instr} (ha : s.agenda = []) (hf : s.firm.safe = false) (hi : s.issues = i :: rest) (hl : s.live i = true)
    (h : issueOne { s with issues := rest } i = (u, some x)) : step s = exec x u := by
  unfold step
  split
  · next he =>
    rw [ha] at he
    cases he
  · rw [if_neg (by rw [hf]; exact Bool.false_ne_true)]
    split
    · next hj =>
      rw [hi] at hj
      cases hj
      refine (if_pos hl).trans ?_
      rw [h]
    · next hj =>
      rw [hi] at hj
      cases hj

variable (hw : fetchWord (Claims.issuing s i rest) i.group ((Claims.issuing s i rest).codeVa i.group i.pc)
  (Claims.noPage (Claims.issuing s i rest) i) = (u, .word w))
include hw

/-- A word without an extension. -/
theorem issueOne_short (h : (decide (w < 2 ^ 31) && w.testBit 1) = false) :
    issueOne { s with issues := rest } i =
      (reissueRun (usedCode u i.group [u.codeVa i.group i.pc]) i.group i.pc, some (wordRun w 0)) := by
  rw [← bitAt_eq_testBit] at h
  unfold issueOne
  lift_lets
  intro t failed
  rw [show fetchWord t i.group (t.codeVa i.group i.pc) failed = (u, .word w) from hw]
  refine (if_neg (by rw [h]; exact Bool.false_ne_true)).trans ?_
  unfold wordRun
  cases decode w 0 <;> rfl

variable (h : (decide (w < 2 ^ 31) && w.testBit 1) = true)
include h

/-- A first word that no extension completes (R64). -/
theorem issueOne_firstBad (hb : firstBad w = true) : issueOne { s with issues := rest } i = (u, some (.illegalEncoding w)) := by
  rw [← bitAt_eq_testBit] at h
  unfold issueOne
  lift_lets
  intro t failed
  rw [show fetchWord t i.group (t.codeVa i.group i.pc) failed = (u, .word w) from hw]
  exact (if_pos h).trans (if_pos hb)

/-- A word with its extension. -/
theorem issueOne_long (hb : firstBad w = false)
    (hy : fetchWord u i.group (u.codeVa i.group (i.pc + 4)) (Claims.noPage (Claims.issuing s i rest) i) = (v, .word y)) :
    issueOne { s with issues := rest } i =
      (reissueRun (usedCode v i.group [v.codeVa i.group i.pc, v.codeVa i.group (i.pc + 4)]) i.group i.pc, some (wordRun w y)) := by
  rw [← bitAt_eq_testBit] at h
  unfold issueOne
  lift_lets
  intro t failed
  rw [show fetchWord t i.group (t.codeVa i.group i.pc) failed = (u, .word w) from hw]
  refine (if_pos h).trans ((if_neg (by rw [hb]; exact Bool.false_ne_true)).trans ?_)
  rw [show fetchWord u i.group (u.codeVa i.group (i.pc + 4)) failed = (v, .word y) from hy]
  unfold wordRun
  dsimp only
  cases decode w y <;> rfl

end

/-! ## A run that issues again (R20, R344) -/

/-- Slots filled one after another are those taken out of the empty ones. -/
theorem Lane.foldl_fill (xs : List Slot) (l : Lane) : xs.foldl Lane.fill l = { l with empty := l.empty.filter fun x => !xs.elem x } := by
  induction xs generalizing l with
  | nil => simp
  | cons a xs ih =>
    rw [List.foldl_cons, ih, Lane.fill]
    simp only [List.filter_filter]
    congr 2
    funext x
    simp [bne, beq_eq_decide, Bool.and_comm]

theorem Lane.reissue_eq (l : Lane) : l.reissue = { l with empty := l.empty.filter (fun x => !l.marked.elem x), marked := [] } := by
  rw [Lane.reissue, Lane.foldl_fill]

/-- A withdrawn mark leaves its slot full. -/
theorem Lane.isEmpty_reissue {l : Lane} {x : Slot} (h : x ∈ l.marked) : l.reissue.isEmpty x = false := by
  simp [Lane.reissue_eq, Lane.isEmpty, h]

/-- Nothing is withdrawn from a run without marks. -/
theorem reissueRun_of_unmarked {s : State} {g : Nat} {pc : Word} (h : ∀ i ∈ (s.group g).run pc, ((s.group g).lane i).marked = []) :
    reissueRun s g pc = s :=
  if_pos (List.all_eq_true.2 fun i hi => by rw [h i hi]; rfl)

theorem Lane.reissue_of_unmarked {l : Lane} (h : l.marked = []) : l.reissue = l := by
  obtain ⟨⟩ := l
  cases h
  simp [Lane.reissue_eq]

/-- One change of each lane of a list. -/
theorem Group.lane_foldl_modLane (f : Lane → Lane) (ls : List Nat) (g : Group) (nd : ls.Nodup) {j : Nat} (hj : j < g.lanes.length) :
    (ls.foldl (fun g i => g.modLane i f) g).lane j = if j ∈ ls then f (g.lane j) else g.lane j := by
  induction ls generalizing g with
  | nil => rfl
  | cons a ls ih =>
    rw [List.nodup_cons] at nd
    rw [List.foldl_cons, ih _ nd.2 (by simpa using hj)]
    by_cases h : j = a
    · subst h
      rw [if_neg nd.1, if_pos (by simp), Group.lane_modLane_self g f hj]
    · simp only [Group.lane_modLane_ne g f h, List.mem_cons, h, false_or]

/-- The lanes of a run that issues again, without their marks; the others stay. -/
theorem lane_reissueRun (s : State) (g : Nat) (pc : Word) {j : Nat} (hj : j < (s.group g).lanes.length) :
    ((reissueRun s g pc).group g).lane j = if j ∈ (s.group g).run pc then ((s.group g).lane j).reissue else (s.group g).lane j := by
  by_cases hm : ∀ i ∈ (s.group g).run pc, ((s.group g).lane i).marked = []
  · rw [reissueRun_of_unmarked hm]
    split
    · next h => exact (Lane.reissue_of_unmarked (hm j h)).symm
    · rfl
  · have hg : g < s.groups.length := by
      by_contra hg
      rw [State.group, List.getD_eq_default _ _ (Nat.le_of_not_lt hg)] at hj
      exact Nat.not_lt_zero j hj
    have marked : ¬((s.group g).run pc).all (fun i => ((s.group g).lane i).marked.isEmpty) = true := by
      simpa [List.all_eq_true] using hm
    rw [reissueRun, if_neg marked, State.group_modGroup_self _ _ hg, Group.lane_foldl_modLane _ _ _ (Group.run_nodup ..) hj]

theorem lanes_length_reissueRun (s : State) (g : Nat) (pc : Word) :
    ((reissueRun s g pc).group g).lanes.length = (s.group g).lanes.length := by
  unfold reissueRun
  split
  · rfl
  · refine s.modGroup_keeps (fun x => x.lanes.length) (fun x => ?_) g
    have := Group.foldl_modLane_length ((x.run pc).map fun i => (i, ())) (fun _ => Lane.reissue) x
    rwa [List.foldl_map] at this

/-- After its marks are withdrawn the run holds none (R344). -/
theorem marked_of_mem_run_reissueRun {s : State} {g i : Nat} {pc : Word} (hi : i ∈ ((reissueRun s g pc).group g).run pc) :
    (((reissueRun s g pc).group g).lane i).marked = [] := by
  obtain ⟨hlt, hact, hpc⟩ := Group.mem_run.1 hi
  rw [lanes_length_reissueRun] at hlt
  rw [lane_reissueRun s g pc hlt] at hact hpc ⊢
  by_cases h : i ∈ (s.group g).run pc
  · rw [if_pos h, Lane.reissue_eq]
  · rw [if_neg h] at hact hpc
    exact absurd (Group.mem_run.2 ⟨hlt, hact, hpc⟩) h

/-! ## The fetch of a word (R34, R213, R239) -/

/-- Bytes of one line, read out of the line. -/
theorem bytes_of_line (s : State) {a n : Nat} (h : a % 128 + n ≤ 128) :
    ((s.bytes (lineOf a) 128).drop (a - lineOf a)).take n = s.bytes a n := by
  have line : lineOf a + (a - lineOf a) = a := Nat.add_sub_cancel' (Nat.div_mul_le_self a 128)
  have off : a - lineOf a = a % 128 := by unfold lineOf; omega
  refine List.ext_getElem (by simp [State.bytes]; omega) fun j h1 h2 => ?_
  simp only [State.bytes, List.getElem_take, List.getElem_drop, List.getElem_map, List.getElem_range, ← Nat.add_assoc, line]

/-- Memory, groups and teams are as before. -/
structure SameMemory (s t : State) : Prop where
  mem : t.mem = s.mem
  groups : t.groups = s.groups
  teams : t.teams = s.teams

theorem SameMemory.refl (s : State) : SameMemory s s := ⟨rfl, rfl, rfl⟩

theorem SameMemory.trans {s t u : State} (h : SameMemory s t) (h' : SameMemory t u) : SameMemory s u :=
  ⟨h'.mem.trans h.mem, h'.groups.trans h.groups, h'.teams.trans h.teams⟩

theorem sameMemory_expose (s : State) (who : Option Nat) (a : Nat) : SameMemory s (expose s who a) := ⟨rfl, rfl, rfl⟩

theorem sameMemory_dropLines (s : State) (p : CacheLine → Bool) : SameMemory s (dropLines s p) := ⟨rfl, rfl, rfl⟩

/-- A copy is kept, or not. -/
theorem sameMemory_keepLine (s : State) (keep : Bool) (cap : Nat) (c : CacheLine) :
    SameMemory s (if keep then keepLine s cap c else s) := by
  unfold keepLine
  split
  · split <;> exact ⟨rfl, rfl, rfl⟩
  · exact .refl s

/-- A read changes copies and marks of exposure alone (R211, R476). -/
theorem sameMemory_readLine (s : State) (who : Option Nat) (core ctx va a n : Nat) (fresh cst l1 way strm : Bool) :
    SameMemory s (readLine s who core ctx va a n fresh cst l1 way strm).1 := by
  unfold readLine
  dsimp only
  split
  · exact .refl s
  split
  · exact sameMemory_keepLine ..
  split
  · exact sameMemory_expose s who a
  · exact ((sameMemory_expose s who a).trans (sameMemory_dropLines ..)).trans ((sameMemory_keepLine ..).trans (sameMemory_keepLine ..))

/-- The line of `a` is good and stands at its home alone, as a core sees it: the host holds no newer copy, the core has nothing buffered, and
neither its L1 nor its cluster's ways hold a copy (R211, R213, R253, R324). -/
structure AtHome (s : State) (core a : Nat) : Prop where
  good : s.lineClass a = 0
  recalled : s.snoopNeeded a false = false
  stores : ∀ st ∈ s.stores, st.core ≠ core
  reductions : (s.core core).red = []
  copies : ∀ c ∈ s.caches, c.dpa = lineOf a → c.holder ≠ core ∧ c.holder ≠ ccHolder (clusterOf core)

/-- A read of a line that stands at its home alone gives the home's bytes (R213, R239). -/
theorem readLine_home {s : State} (who : Option Nat) {core : Nat} (ctx va : Nat) {a n : Nat} (fresh cst l1 way strm : Bool)
    (hn : a % 128 + n ≤ 128) (h : AtHome s core a) :
    (readLine s who core ctx va a n fresh cst l1 way strm).2 = (s.bytes a n, 0) := by
  have miss : ∀ k, k = core ∨ k = ccHolder (clusterOf core) → s.caches.find? (fun c => c.holder == k && c.dpa == lineOf a) = none := by
    intro k hh
    refine List.find?_eq_none.2 fun c hm hk => ?_
    obtain ⟨hholder, hline⟩ := Bool.and_eq_true_iff.1 hk
    obtain ⟨notCore, notWay⟩ := h.copies c hm (eq_of_beq hline)
    rcases hh with rfl | rfl
    · exact notCore (eq_of_beq hholder)
    · exact notWay (eq_of_beq hholder)
  have good : (expose s who a).lineClass a = 0 := h.good
  have line : (expose s who a).bytes (lineOf a) 128 = s.bytes (lineOf a) 128 := rfl
  unfold readLine
  simp only [miss core (.inl rfl), miss _ (.inr rfl), ite_self, good, line, bytes_of_line s hn, ne_eq, not_true_eq_false, if_false]

/-- A load of a line that stands at its home alone reads the home's bytes (R213, R239, R253). -/
theorem dpaAccess_load {s : State} {q : GlobAcc} {a : Nat} (hk : q.kind = 0) (hn : a % 128 + q.n ≤ 128)
    (h : AtHome s (s.group q.gid).core a) : ∃ u, dpaAccess s q a false = (u, .val (bytesNat (s.bytes a q.n))) ∧ SameMemory s u := by
  have flushed : ∀ t n, flushOverlap s (s.group q.gid).core t n = s := fun t n => by rw [flushOverlap, h.reductions]; rfl
  have stands : ∀ t n, s.redStands (s.group q.gid).core t n = none := fun t n => by rw [State.redStands, h.reductions]; rfl
  have mine : ∀ st ∈ s.stores, (st.core == (s.group q.gid).core && lineOf st.dpa == lineOf a) = false := fun st hst => by
    rw [beq_eq_false_iff_ne.2 (h.stores st hst), Bool.false_and]
  have performed := performStores_of_none (s := s) s.stores.length mine
  have none : s.stores.any (fun st => st.core == (s.group q.gid).core && lineOf st.dpa == lineOf a) = false :=
    List.any_eq_false.2 fun st hst => by rw [mine st hst]; exact Bool.false_ne_true
  have value := readLine_home (some (s.teamOf (s.group q.gid)).launch) q.ctx q.va q.fresh q.cst (q.hint != 3) true (q.hint == 1) hn h
  refine ⟨_, ?_, sameMemory_readLine s (some (s.teamOf (s.group q.gid)).launch) (s.group q.gid).core q.ctx q.va a q.n q.fresh q.cst
    (q.hint != 3) true (q.hint == 1)⟩
  unfold dpaAccess
  simp only [hk, flushed, stands, performed, none, h.recalled, value, Bool.false_and, Bool.and_true, Bool.or_false, Bool.not_false,
    Bool.false_eq_true, if_false, OfNat.zero_ne_ofNat, ne_eq, not_true_eq_false]

/-- A word of a line that stands at its home alone is the home's bytes (R34, R213). -/
theorem fetchWord_home {s : State} {g va a : Nat} {f tso : Bool}
    (ht : s.trans (s.group g).core (s.ctxOf (s.group g)) va 3 f = (s, .ok (.dpa a) tso)) (ha : a % 4 = 0) (h : AtHome s (s.group g).core a) :
    ∃ u, fetchWord s g va f = (u, .word (bytesNat (s.bytes a 4))) ∧ SameMemory s u := by
  obtain ⟨u, value, same⟩ := dpaAccess_load (q := s.codeAcc g va f) rfl (show a % 128 + 4 ≤ 128 by omega) h
  refine ⟨u, ?_, same⟩
  simp only [fetchWord, ht, value]
  rfl

/-- Settles O53: an issue is a word alone, a first word that is refused, or a word with its extension; the marks of a run that issues again
are withdrawn; a fetch reads the home; an event of the agenda comes first. -/
theorem stepRunsTheDecodedInstruction : Obligations.StepRunsTheDecodedInstruction := by
  unfold Obligations.StepRunsTheDecodedInstruction
  refine ⟨?_, fun s g vas h => by rw [usedCode, h]; rfl, ?_, ?_, fun s e rest => step_of_event⟩
  · intro s u i rest w ha hf hi hl t long hw
    have lane : long = true → w < 2 ^ 31 ∧ w.testBit 1 = true := fun h => by simpa [long] using h
    have runs : ∀ {x t}, issueOne { s with issues := rest } i = (t, some x) → step s = exec x t := step_of_issueOne ha hf hi hl
    refine ⟨fun h => ⟨fun x n hd => ?_, fun e hd => ?_⟩, fun h bad => ?_, fun v y h hy => ⟨fun x n hd => ?_, fun e z x n hd hz => ?_⟩⟩
    · rw [runs (issueOne_short hw h), wordRun_ok hd]
    · rw [runs (issueOne_short hw h), wordRun_bad hd]
    · exact runs (issueOne_firstBad hw h (firstBad_of_all_bad (lane h).1 (lane h).2 bad))
    · rw [runs (issueOne_long hw h (firstBad_of_decode (lane h).1 (lane h).2 hd) hy), wordRun_ok hd]
    · rw [runs (issueOne_long hw h (firstBad_of_decode (lane h).1 (lane h).2 hz) hy), wordRun_bad hd]
  · intro s g pc t
    refine ⟨reissueRun_of_unmarked, fun i => marked_of_mem_run_reissueRun, fun i hi x hx => ?_⟩
    rw [lane_reissueRun s g pc (Group.mem_run.1 hi).1, if_pos hi]
    exact Lane.isEmpty_reissue hx
  · intro s g va a f tso core ht h4 hl hs hst hr hc
    obtain ⟨u, value, same⟩ := fetchWord_home ht h4 ⟨hl, hs, hst, hr, hc⟩
    exact ⟨u, value, same.mem, same.groups, same.teams⟩

end Sys2Proof.Machine
end

section
/-! O32: `seed`, `capset` and `cancel` (R114, R340, R439, R440, R444). -/

namespace Sys2Proof.Machine

/-- In a supervisor group the gate of R402 is that of any uniform word. -/
theorem supervisor_of_supervisor {s : State} (act : State → State) (h : s.Conv) (hp : s.me.priv = .supervisor) :
    supervisor s act = act s := by
  have hp' : ¬(s.me.priv == Priv.user) = true := by rw [hp]; decide
  simp only [supervisor, uniform_of_conv _ h, if_neg hp']

/-- The state that a form of `seed` leaves, before it goes on (R440). -/
def seeded (s : State) (form : Nat) : State :=
  let core := s.me.core
  match form with
  | 0 => s.modCore core fun c => { c with gen := some (genLoad s.me.srseed s.kdev 0 core) }
  | 1 => s.modCluster (core / 4) fun c => { c with genX := some (genLoad s.me.srseed s.kdev 1 (core / 4)) }
  | 2 => s.modCluster (core / 4) fun c => { c with genD := some (genLoad s.me.srseed s.kdev 2 (core / 4)) }
  | _ => s.modDie (core / 96) fun d => { d with genC := some (genLoad s.me.srseed s.kdev 3 (core / 96)) }

theorem exec_seed {s : State} (o : UOp) (h : s.Conv) : exec (.seed o) s = .next (advance (seeded s o.f)) :=
  congrArg Host.Outcome.next (uniform_of_conv _ h)

/-- A load of no FIFO entry claims no bank (R424, R439). -/
theorem exec_capset {s : State} {o : UOp} (h : s.Conv) (hp : s.me.priv = .supervisor) (hk : (Cap.load (s.u o.a) 0).kind ≠ 6) :
    let l := (s.team (s.served s.cur).1).launch
    exec (.capset o) s = .next ((s.modLaunch l fun la => { la with caps := la.caps.set (o.f % 64) (Cap.load (s.u o.a) 0) }).wroteU o.d
      ((s.launch l).caps.get {} (o.f % 64)).lo) := by
  show Host.Outcome.next _ = _
  rw [supervisor_of_supervisor _ h hp]
  simp only [if_neg hk, advance_setU]

theorem exec_cancel_own {s : State} {o : UOp} (h : s.Conv) (hv : (s.u o.a).toNat < 65536)
    (hc : (s.counter (s.u o.a).toNat).ctx = s.ctxOf s.me) (hs : (s.counter (s.u o.a).toNat).state ≤ 3) :
    exec (.cancel o) s =
      .next (cancel (s.wroteU o.d (BitVec.ofNat 64 (s.counter (s.u o.a).toNat).state)) (s.u o.a).toNat) := by
  have own : (decide ((s.u o.a).toNat < 65536) && (s.counter (s.u o.a).toNat).ctx == s.ctxOf (s.group s.cur)) = true := by
    rw [decide_eq_true hv, Bool.true_and]
    exact beq_iff_eq.2 hc
  show Host.Outcome.next _ = _
  rw [uniform_of_conv _ h]
  simp only [own, Bool.not_true, Bool.false_eq_true, if_false, if_pos hs, advance_setU]

theorem exec_cancel_other {s : State} {o : UOp} (h : s.Conv)
    (ho : 65536 ≤ (s.u o.a).toNat ∨ (s.counter (s.u o.a).toNat).ctx ≠ s.ctxOf s.me) :
    exec (.cancel o) s = .next (s.wroteU o.d (Claims.refusal 1)) := by
  have other : (decide ((s.u o.a).toNat < 65536) && (s.counter (s.u o.a).toNat).ctx == s.ctxOf (s.group s.cur)) = false := by
    rcases ho with hv | hc
    · rw [decide_eq_false (Nat.not_lt.2 hv), Bool.false_and]
    · rw [Bool.and_eq_false_iff]
      exact .inr (beq_eq_false_iff_ne.2 hc)
  show Host.Outcome.next _ = _
  rw [uniform_of_conv _ h]
  simp only [other, Bool.not_false, if_true, advance_setU]
  rfl

/-- Settles O32: each word passes its gate; `seed` goes by its form, `cancel` by the owner of the counter. -/
theorem seedCapsetAndCancelAct : Obligations.SeedCapsetAndCancelAct := by
  unfold Obligations.SeedCapsetAndCancelAct
  intro s o h
  have form : ∀ k, o.f = k → exec (.seed o) s = .next (advance (seeded s k)) := fun k hk => hk ▸ exec_seed o h
  exact ⟨form 0, form 1, form 2, form 3, exec_capset h, exec_cancel_own h, exec_cancel_other h⟩

end Sys2Proof.Machine
end

section
/-! Codes of an IEEE format (R94, R95): the magnitude that a code's low bits stand for grows with them. -/

namespace Sys2Proof.Machine

/-- What the four lane formats have in common (R133, R138): infinities and NaNs in the top binade, and no more than 53 bits of precision. -/
structure FpFmt.Ieee (f : FpFmt) : Prop where
  sp : f.sp = 0
  mx : f.mx = false
  mw_pos : 1 ≤ f.mw
  mw_le : f.mw ≤ 52
  ew_ge : 2 ≤ f.ew

theorem laneFmts_ieee : ∀ f ∈ Claims.laneFmts, f.Ieee := by
  simp only [Claims.laneFmts, List.forall_mem_cons]
  exact ⟨⟨rfl, rfl, by decide, by decide, by decide⟩, ⟨rfl, rfl, by decide, by decide, by decide⟩,
    ⟨rfl, rfl, by decide, by decide, by decide⟩, ⟨rfl, rfl, by decide, by decide, by decide⟩, List.forall_mem_nil _⟩

theorem FpFmt.Ieee.two_le {f : FpFmt} (hf : f.Ieee) : 2 ≤ 2 ^ f.ew := Nat.le_self_pow (by have := hf.ew_ge; omega) 2

theorem ieee_fmtF32 : fmtF32.Ieee := laneFmts_ieee _ (by decide)

/-- The sign bit of a code. -/
def FpFmt.signOf (f : FpFmt) (c : Nat) : Bool := c / 2 ^ (f.ew + f.mw) % 2 == 1

/-- The bits of a code below its sign. -/
def FpFmt.magOf (f : FpFmt) (c : Nat) : Nat := c % 2 ^ (f.ew + f.mw)

/-- The significand of the magnitude code `k`. -/
def FpFmt.sigOf (f : FpFmt) (k : Nat) : Nat := if k < 2 ^ f.mw then k else 2 ^ f.mw + k % 2 ^ f.mw

/-- The exponent of the magnitude code `k`: its spacing is 2^expOf. -/
def FpFmt.expOf (f : FpFmt) (k : Nat) : Int := ((max (k / 2 ^ f.mw) 1 : Nat) : Int) - f.bias - f.mw

/-- The magnitude that the code `k` stands for, were no binade kept for infinities. -/
noncomputable def FpFmt.magValue (f : FpFmt) (k : Nat) : ℝ := f.sigOf k * (2 : ℝ) ^ f.expOf k

/-! ## Codes -/

section
variable {f : FpFmt}

theorem FpFmt.magOf_lt (c : Nat) : f.magOf c < 2 ^ (f.ew + f.mw) := Nat.mod_lt _ (Nat.two_pow_pos _)

theorem FpFmt.infCode_lt : f.infCode < 2 ^ (f.ew + f.mw) := by
  rw [FpFmt.infCode, pow_add]
  exact Nat.mul_lt_mul_of_pos_right (Nat.sub_lt (Nat.two_pow_pos _) Nat.one_pos) (Nat.two_pow_pos _)

theorem FpFmt.signed_eq (neg : Bool) (k : Nat) : f.signed neg k = k + 2 ^ (f.ew + f.mw) * neg.toNat := by
  cases neg <;> simp [FpFmt.signed]

theorem FpFmt.magOf_signed (neg : Bool) {k : Nat} (hk : k < 2 ^ (f.ew + f.mw)) : f.magOf (f.signed neg k) = k := by
  rw [FpFmt.magOf, f.signed_eq, Nat.add_mul_mod_self_left, Nat.mod_eq_of_lt hk]

theorem FpFmt.signOf_signed (neg : Bool) {k : Nat} (hk : k < 2 ^ (f.ew + f.mw)) : f.signOf (f.signed neg k) = neg := by
  rw [FpFmt.signOf, f.signed_eq, Nat.add_mul_div_left _ _ (Nat.two_pow_pos _), Nat.div_eq_of_lt hk]
  cases neg <;> rfl

theorem FpFmt.signed_lt (neg : Bool) {k : Nat} (hk : k < 2 ^ (f.ew + f.mw)) : f.signed neg k < 2 ^ (f.ew + f.mw + 1) := by
  rw [f.signed_eq, pow_succ]
  have : neg.toNat ≤ 1 := Bool.toNat_le neg
  nlinarith

/-- A code of the format is its sign and its magnitude. -/
theorem FpFmt.signed_signOf_magOf {c : Nat} (hc : c < 2 ^ (f.ew + f.mw + 1)) : f.signed (f.signOf c) (f.magOf c) = c := by
  have high : c / 2 ^ (f.ew + f.mw) < 2 := Nat.div_lt_of_lt_mul (by rwa [pow_succ] at hc)
  have bit : (f.signOf c).toNat = c / 2 ^ (f.ew + f.mw) := by
    rw [FpFmt.signOf, Nat.mod_eq_of_lt high]
    interval_cases c / 2 ^ (f.ew + f.mw) <;> rfl
  rw [f.signed_eq, bit, FpFmt.magOf, Nat.mod_add_div]

/-- The parity of a code is that of its magnitude. -/
theorem FpFmt.signed_mod_two (hf : f.Ieee) (neg : Bool) (k : Nat) : f.signed neg k % 2 = k % 2 := by
  obtain ⟨j, hj⟩ : ∃ j, f.ew + f.mw = j + 1 := ⟨f.ew + f.mw - 1, by have := hf.mw_pos; omega⟩
  rw [f.signed_eq, hj, pow_succ, mul_assoc, mul_comm (2 ^ j), mul_assoc, Nat.add_mul_mod_self_left]

/-- The exponent field of a code is that of its magnitude. -/
theorem FpFmt.exponent_eq (c : Nat) : c / 2 ^ f.mw % 2 ^ f.ew = f.magOf c / 2 ^ f.mw := by
  rw [FpFmt.magOf, add_comm, pow_add, Nat.mod_mul_right_div_self]

/-- Decoding goes by the sign and the magnitude alone: below infinity's magnitude a finite value, above it a NaN. -/
theorem decodeFp_eq (hf : f.Ieee) (c : Nat) :
    decodeFp f c =
      if f.magOf c < f.infCode then .fin (f.signOf c) (f.sigOf (f.magOf c)) (f.expOf (f.magOf c))
      else if f.magOf c = f.infCode then .inf (f.signOf c)
      else .nan (f.signOf c) (decide (c % 2 ^ f.mw < 2 ^ (f.mw - 1))) := by
  have fraction : c % 2 ^ f.mw = f.magOf c % 2 ^ f.mw := by
    rw [FpFmt.magOf, Nat.mod_mod_of_dvd _ (pow_dvd_pow 2 (Nat.le_add_left _ _))]
  have pos : 0 < 2 ^ f.mw := Nat.two_pow_pos _
  have split := Nat.div_add_mod (f.magOf c) (2 ^ f.mw)
  have top : f.magOf c / 2 ^ f.mw < 2 ^ f.ew := Nat.div_lt_of_lt_mul (by rw [← pow_add, add_comm]; exact f.magOf_lt c)
  have two := hf.two_le
  have low := Nat.mod_lt (f.magOf c) pos
  simp only [decodeFp, hf.sp, f.exponent_eq, fraction]
  by_cases hinf : f.magOf c / 2 ^ f.mw = 2 ^ f.ew - 1
  · have big : f.magOf c = f.infCode + f.magOf c % 2 ^ f.mw := by
      rw [FpFmt.infCode, ← hinf, mul_comm, split]
    have not_fin : ¬f.magOf c < f.infCode := by omega
    have inf_iff : f.magOf c = f.infCode ↔ f.magOf c % 2 ^ f.mw = 0 := by omega
    simp only [hinf, not_fin, inf_iff, if_false, beq_self_eq_true, Bool.and_self, if_true]
    rfl
  · have fin : f.magOf c < f.infCode := (Nat.div_lt_iff_lt_mul pos).1 (lt_of_le_of_ne (Nat.le_sub_one_of_lt top) hinf)
    have sub_iff : f.magOf c / 2 ^ f.mw = 0 ↔ f.magOf c < 2 ^ f.mw := by rw [Nat.div_eq_zero_iff]; omega
    simp only [beq_iff_eq, hinf, Bool.and_eq_true, and_false, false_and, if_false, fin, if_true,
      Nat.zero_ne_one, sub_iff, FpFmt.sigOf, FpFmt.expOf]
    split
    · next sub => rw [sub_iff.2 sub, Nat.mod_eq_of_lt sub]; rfl
    · next normal => rw [max_eq_left (Nat.pos_of_ne_zero (mt sub_iff.1 normal))]; rfl

theorem decodeFp_fin (hf : f.Ieee) {c : Nat} (h : f.magOf c < f.infCode) :
    decodeFp f c = .fin (f.signOf c) (f.sigOf (f.magOf c)) (f.expOf (f.magOf c)) := by rw [decodeFp_eq hf, if_pos h]

theorem isFin_decodeFp (hf : f.Ieee) (c : Nat) : (decodeFp f c).isFin = true ↔ f.magOf c < f.infCode := by
  rw [decodeFp_eq hf]
  split
  · next h => exact iff_of_true rfl h
  · next h => split <;> exact iff_of_false Bool.false_ne_true h

theorem isNan_decodeFp (hf : f.Ieee) (c : Nat) : (decodeFp f c).isNan = true ↔ f.infCode < f.magOf c := by
  rw [decodeFp_eq hf]
  split
  · exact iff_of_false Bool.false_ne_true (by omega)
  · split
    · exact iff_of_false Bool.false_ne_true (by omega)
    · exact iff_of_true rfl (by omega)

theorem neg_decodeFp (hf : f.Ieee) (c : Nat) : (decodeFp f c).neg = f.signOf c := by
  rw [decodeFp_eq hf]
  split
  · rfl
  · split <;> rfl

/-! ## Magnitudes -/

/-- The next magnitude is one spacing further, across a binade's end as within it. -/
theorem FpFmt.magValue_succ (k : Nat) : f.magValue (k + 1) = f.magValue k + (2 : ℝ) ^ f.expOf k := by
  have pos : 0 < 2 ^ f.mw := Nat.two_pow_pos _
  by_cases hend : (k + 1) % 2 ^ f.mw = 0
  · obtain ⟨j, hj⟩ := Nat.dvd_of_mod_eq_zero hend
    have hj0 : j ≠ 0 := by rintro rfl; omega
    obtain ⟨i, rfl⟩ := Nat.exists_eq_succ_of_ne_zero hj0
    have hk : k = (2 ^ f.mw - 1) + 2 ^ f.mw * i := by rw [Nat.mul_succ] at hj; omega
    have quot : k / 2 ^ f.mw = i := by
      rw [hk, Nat.add_mul_div_left _ _ pos, Nat.div_eq_of_lt (by omega), Nat.zero_add]
    have rem : k % 2 ^ f.mw = 2 ^ f.mw - 1 := by
      rw [hk, Nat.add_mul_mod_self_left, Nat.mod_eq_of_lt (by omega)]
    have quot' : (k + 1) / 2 ^ f.mw = i + 1 := by rw [hj, Nat.mul_div_cancel_left _ pos]
    have next : ¬k + 1 < 2 ^ f.mw := by rw [hj]; exact Nat.not_lt.2 (Nat.le_mul_of_pos_right _ (Nat.succ_pos _))
    simp only [FpFmt.magValue, FpFmt.sigOf, FpFmt.expOf, quot, quot', hend, rem, if_neg next]
    rcases Nat.eq_zero_or_pos i with rfl | hi
    · have sub : k < 2 ^ f.mw := by omega
      have hk' : ((k : ℕ) : ℝ) + 1 = 2 ^ f.mw := by rw [mul_zero] at hk; exact_mod_cast (by omega : k + 1 = 2 ^ f.mw)
      simp only [if_pos sub]
      push_cast
      rw [← hk']
      norm_num
      ring
    · have normal : ¬k < 2 ^ f.mw := by
        have : 2 ^ f.mw ≤ 2 ^ f.mw * i := Nat.le_mul_of_pos_right _ hi
        omega
      have step : ((i + 1 : ℕ) : ℤ) - f.bias - f.mw = ((i : ℤ) - f.bias - f.mw) + 1 := by push_cast; ring
      rw [max_eq_left (show 1 ≤ i + 1 by omega), max_eq_left (show 1 ≤ i from hi), if_neg normal, step, zpow_add_one₀ two_ne_zero]
      push_cast [Nat.cast_sub (Nat.one_le_two_pow)]
      ring
  · have quot : (k + 1) / 2 ^ f.mw = k / 2 ^ f.mw := Nat.succ_div_of_mod_ne_zero hend
    have rem : (k + 1) % 2 ^ f.mw = k % 2 ^ f.mw + 1 := by
      have := Nat.div_add_mod (k + 1) (2 ^ f.mw)
      have := Nat.div_add_mod k (2 ^ f.mw)
      rw [quot] at *
      omega
    have same : k + 1 < 2 ^ f.mw ↔ k < 2 ^ f.mw := by
      refine ⟨fun h => by omega, fun h => lt_of_le_of_ne h fun he => hend (by rw [he, Nat.mod_self])⟩
    simp only [FpFmt.magValue, FpFmt.sigOf, FpFmt.expOf, quot, rem, same]
    split <;> push_cast <;> ring

theorem FpFmt.magValue_strictMono : StrictMono f.magValue := by
  refine strictMono_nat_of_lt_succ fun k => ?_
  rw [f.magValue_succ]
  exact lt_add_of_pos_right _ (zpow_pos two_pos _)

theorem FpFmt.magValue_zero : f.magValue 0 = 0 := by simp [FpFmt.magValue, FpFmt.sigOf]

theorem FpFmt.magValue_nonneg (k : Nat) : 0 ≤ f.magValue k := by
  rw [← f.magValue_zero]
  exact f.magValue_strictMono.monotone (Nat.zero_le k)

theorem FpFmt.magValue_pos {k : Nat} (hk : k ≠ 0) : 0 < f.magValue k := by
  rw [← f.magValue_zero]
  exact f.magValue_strictMono (Nat.pos_of_ne_zero hk)

/-- A finite code's value. -/
theorem value_decodeFp (hf : f.Ieee) {c : Nat} (h : f.magOf c < f.infCode) :
    (Claims.value (decodeFp f c) : ℝ) = (if f.signOf c then -1 else 1) * f.magValue (f.magOf c) := by
  rw [decodeFp_fin hf h, Claims.value, FpFmt.magValue]
  push_cast
  split <;> ring

/-- The magnitude of a normal code, by its exponent and fraction fields. -/
theorem FpFmt.magValue_normal {x m : Nat} (hx : 1 ≤ x) (hm : m < 2 ^ f.mw) :
    f.magValue (x * 2 ^ f.mw + m) = (2 ^ f.mw + m : ℕ) * (2 : ℝ) ^ ((x : ℤ) - f.bias - f.mw) := by
  have pos : 0 < 2 ^ f.mw := Nat.two_pow_pos _
  have quot : (x * 2 ^ f.mw + m) / 2 ^ f.mw = x := by
    rw [add_comm, Nat.add_mul_div_right _ _ pos, Nat.div_eq_of_lt hm, Nat.zero_add]
  have rem : (x * 2 ^ f.mw + m) % 2 ^ f.mw = m := by rw [add_comm, Nat.add_mul_mod_self_right, Nat.mod_eq_of_lt hm]
  have normal : ¬x * 2 ^ f.mw + m < 2 ^ f.mw := by
    have : 2 ^ f.mw ≤ x * 2 ^ f.mw := Nat.le_mul_of_pos_left _ hx
    omega
  rw [FpFmt.magValue, FpFmt.sigOf, FpFmt.expOf, if_neg normal, quot, rem, max_eq_left hx]

theorem FpFmt.magValue_infCode (hf : f.Ieee) :
    f.magValue f.infCode = 2 ^ (f.mw + 1) * (2 : ℝ) ^ f.maxMag.2 := by
  have two := hf.two_le
  have value := f.magValue_normal (x := 2 ^ f.ew - 1) (m := 0) (by omega) (Nat.two_pow_pos _)
  have exponent : ((2 ^ f.ew - 1 : ℕ) : ℤ) - f.bias - f.mw = f.maxMag.2 + 1 := by
    rw [Nat.cast_sub (by omega)]
    simp only [FpFmt.maxMag, hf.sp]
    ring
  rw [add_zero, add_zero, exponent, zpow_add_one₀ two_ne_zero] at value
  rw [FpFmt.infCode, value]
  push_cast
  ring

/-- A multiple of a format's spacing: one that a code below 2^(mw+1) spacings can hold. -/
structure FpFmt.OnGrid (f : FpFmt) (n : Nat) (q : Int) : Prop where
  le : n ≤ 2 ^ (f.mw + 1)
  min_le : 1 - (f.bias : Int) - f.mw ≤ q
  full : q = 1 - (f.bias : Int) - f.mw ∨ 2 ^ f.mw ≤ n

/-- The code of a multiple of the spacing stands for it, and is even where the multiple is. -/
theorem FpFmt.codeOf_spec (hf : f.Ieee) {n : Nat} {q : Int} (h : f.OnGrid n q) :
    f.magValue (f.codeOf n q) = n * (2 : ℝ) ^ q ∧ f.codeOf n q % 2 = n % 2 := by
  obtain ⟨le, min_le, full⟩ := h
  have pos : 0 < 2 ^ f.mw := Nat.two_pow_pos _
  have even : 2 ∣ 2 ^ f.mw := dvd_pow_self 2 (by have := hf.mw_pos; omega)
  have field : ∀ p : Int, q ≤ p → ((p + f.bias + f.mw).toNat : ℤ) = p + f.bias + f.mw ∧ 1 ≤ (p + f.bias + f.mw).toNat := by
    intro p hp
    omega
  have back : ∀ p : Int, p + f.bias + f.mw - f.bias - f.mw = p := fun p => by ring
  rw [pow_succ] at le
  by_cases sub : n < 2 ^ f.mw
  · have hq : q = 1 - (f.bias : Int) - f.mw := full.resolve_right (Nat.not_le.2 sub)
    simp only [FpFmt.codeOf, if_pos sub, and_true, FpFmt.magValue, FpFmt.sigOf, FpFmt.expOf, Nat.div_eq_of_lt sub, hq]
    rfl
  · by_cases up : n = 2 ^ (f.mw + 1)
    · obtain ⟨cast, one⟩ := field (q + 1) (by omega)
      have code : f.codeOf n q = (q + 1 + f.bias + f.mw).toNat * 2 ^ f.mw + 0 := by
        rw [FpFmt.codeOf, if_neg sub]
        simp only [up, beq_self_eq_true, if_true, Nat.sub_self]
      rw [code, f.magValue_normal one pos, cast, back, zpow_add_one₀ two_ne_zero, up]
      refine ⟨by push_cast; ring, ?_⟩
      rw [add_zero, pow_succ, Nat.mul_mod_left, Nat.mod_eq_zero_of_dvd (even.mul_left _)]
    · obtain ⟨cast, one⟩ := field q le_rfl
      have code : f.codeOf n q = (q + f.bias + f.mw).toNat * 2 ^ f.mw + (n - 2 ^ f.mw) := by
        simp only [FpFmt.codeOf, if_neg sub, beq_eq_false_iff_ne.2 up, Bool.false_eq_true, if_false]
      rw [pow_succ] at up
      rw [code, f.magValue_normal one (by omega), cast, back]
      refine ⟨by rw [Nat.add_sub_cancel' (Nat.not_lt.1 sub)], ?_⟩
      have := Nat.mod_eq_zero_of_dvd (even.mul_left (q + f.bias + f.mw).toNat)
      have := Nat.mod_eq_zero_of_dvd even
      omega

end

end Sys2Proof.Machine
end

section
/-! Rounding to a multiple of a spacing, ties to even (R100), of a dyadic that stands for a real number. -/

namespace Sys2Proof.Machine

/-- `n` is `x` in multiples of `q`, rounded to the nearest one, ties to the even one (R100). -/
def NearestEven (x q : ℝ) (n : Nat) : Prop := |x - n * q| ≤ q / 2 ∧ (|x - n * q| = q / 2 → n % 2 = 0)

/-! ## The nearest multiple -/

section
variable {x q : ℝ} {n : Nat}

theorem NearestEven.mul {c : ℝ} (hc : 0 < c) (h : NearestEven x q n) : NearestEven (x * c) (q * c) n := by
  have scale : |x * c - n * (q * c)| = |x - n * q| * c := by
    rw [← mul_assoc, ← sub_mul, abs_mul, abs_of_pos hc]
  have half : q * c / 2 = q / 2 * c := by ring
  rw [NearestEven, scale, half]
  exact ⟨mul_le_mul_of_nonneg_right h.1 hc.le, fun he => h.2 (mul_right_cancel₀ hc.ne' he)⟩

theorem nearestEven_self (hq : 0 < q) : NearestEven (n * q) q n := by
  rw [NearestEven, sub_self, abs_zero]
  exact ⟨by positivity, fun h => absurd h (by positivity)⟩

theorem NearestEven.le_of_le (hq : 0 < q) (h : NearestEven x q n) {k : Nat} (hx : x ≤ k * q) : n ≤ k := by
  obtain ⟨lo, -⟩ := abs_le.1 h.1
  have : ((n : ℝ) : ℝ) < k + 1 := lt_of_mul_lt_mul_right (by nlinarith : (n : ℝ) * q < (k + 1) * q) hq.le
  exact Nat.lt_succ_iff.1 (by exact_mod_cast this)

theorem NearestEven.ge_of_ge (hq : 0 < q) (h : NearestEven x q n) {k : Nat} (hx : k * q ≤ x) : k ≤ n := by
  obtain ⟨-, hi⟩ := abs_le.1 h.1
  have : (k : ℝ) < n + 1 := lt_of_mul_lt_mul_right (by nlinarith : (k : ℝ) * q < (n + 1) * q) hq.le
  exact Nat.lt_succ_iff.1 (by exact_mod_cast this)

/-- A tie above an odd multiple leaves it. -/
theorem NearestEven.le_odd_iff (hq : 0 < q) (h : NearestEven x q n) {k : Nat} (hk : k % 2 = 1) : n ≤ k ↔ x < (k + 1 / 2) * q := by
  obtain ⟨lo, hi⟩ := abs_le.1 h.1
  constructor
  · intro hn
    by_contra hx
    have hnk : (n : ℝ) * q ≤ k * q := mul_le_mul_of_nonneg_right (by exact_mod_cast hn) hq.le
    have tie : |x - n * q| = q / 2 := by
      rw [abs_of_nonneg] <;> linarith
    have : (k : ℝ) < n + 1 := lt_of_mul_lt_mul_right (by linarith : (k : ℝ) * q < (n + 1) * q) hq.le
    have : k < n + 1 := by exact_mod_cast this
    have := h.2 tie
    omega
  · intro hx
    have : (n : ℝ) < k + 1 := lt_of_mul_lt_mul_right (by linarith : (n : ℝ) * q < (k + 1) * q) hq.le
    exact Nat.lt_succ_iff.1 (by exact_mod_cast this)

/-- No multiple is nearer, and another one as near leaves an even one. -/
theorem NearestEven.nearest (hq : 0 < q) (h : NearestEven x q n) (k : Int) :
    |x - n * q| ≤ |x - k * q| ∧ (|x - n * q| = |x - k * q| → k * q ≠ n * q → n % 2 = 0) := by
  by_cases hk : k = n
  · rw [hk]
    exact ⟨le_rfl, fun _ hne => absurd rfl hne⟩
  have apart : q ≤ |(n - k : ℝ) * q| := by
    rw [abs_mul, abs_of_pos hq]
    have : (1 : ℤ) ≤ |(n : ℤ) - k| := Int.one_le_abs (sub_ne_zero.2 (Ne.symm hk))
    have : (1 : ℝ) ≤ |(n : ℝ) - k| := by exact_mod_cast this
    nlinarith
  have split : |(n - k : ℝ) * q| ≤ |x - n * q| + |x - k * q| := by
    rw [show (n - k : ℝ) * q = (x - k * q) - (x - n * q) by ring, add_comm]
    exact abs_sub _ _
  obtain ⟨near, tie⟩ := h
  exact ⟨by linarith, fun he _ => tie (by linarith)⟩

end

/-! ## A dyadic that stands for a number -/

/-- A later rounding to the format `f` may take m × 2^e for `x`: it is `x`, or its last bit is a sticky one, below the format's precision. -/
def StandsFor (f : FpFmt) (m : Nat) (e : Int) (x : ℝ) : Prop :=
  x = m * (2 : ℝ) ^ e ∨ m % 2 = 1 ∧ 2 ^ (f.mw + 3) ≤ m ∧ |x - m * (2 : ℝ) ^ e| < (2 : ℝ) ^ e

/-- `m` and `y` lie alike between the multiples of `d`. -/
def Alike (d m : Nat) (y : ℝ) : Prop := ∀ j : Nat, (j * d < m ↔ (j * d : ℝ) < y) ∧ (m < j * d ↔ y < (j * d : ℝ))

theorem alike_self (d m : Nat) : Alike d m m := fun j => ⟨by norm_cast, by norm_cast⟩

/-- Between the even neighbours of an odd number lies no even one but they. -/
theorem alike_of_sticky {d m : Nat} {y : ℝ} (hd : 2 ∣ d) (hm : m % 2 = 1) (hy : |y - m| < 1) : Alike d m y := by
  intro j
  obtain ⟨lo, hi⟩ := abs_lt.1 hy
  obtain ⟨i, hi2⟩ : 2 ∣ j * d := hd.mul_left j
  rw [← Nat.cast_mul, hi2]
  rcases lt_or_ge (2 * i) m with h | h
  · have : ((2 * i : ℕ) : ℝ) + 1 ≤ m := by exact_mod_cast h
    exact ⟨iff_of_true h (by linarith), iff_of_false (by omega) (by linarith)⟩
  · have : (m : ℝ) + 1 ≤ (2 * i : ℕ) := by exact_mod_cast (by omega : m + 1 ≤ 2 * i)
    exact ⟨iff_of_false (by omega) (by linarith), iff_of_true (by omega) (by linarith)⟩

section
variable {f : FpFmt} {m : Nat} {e : Int} {x : ℝ}

theorem StandsFor.alike (h : StandsFor f m e x) {i : Nat} (hi : 2 ^ (f.mw + 3) ≤ m → 1 ≤ i) : Alike (2 ^ i) m (x / 2 ^ e) := by
  have pos : (0 : ℝ) < 2 ^ e := zpow_pos two_pos _
  rcases h with rfl | ⟨odd, big, near⟩
  · rw [mul_div_cancel_right₀ _ pos.ne']
    exact alike_self _ _
  · refine alike_of_sticky (dvd_pow_self 2 (by have := hi big; omega)) odd ?_
    rwa [show x / 2 ^ e - m = (x - m * 2 ^ e) / 2 ^ e by rw [sub_div, mul_div_cancel_right₀ _ pos.ne'], abs_div, abs_of_pos pos,
      div_lt_one pos]

/-- The binade of a dyadic is that of what it stands for. -/
theorem StandsFor.binade (h : StandsFor f m e x) (hm : 0 < m) : (2 : ℝ) ^ dyLog m e ≤ x ∧ x < (2 : ℝ) ^ (dyLog m e + 1) := by
  have pos : (0 : ℝ) < 2 ^ e := zpow_pos two_pos _
  have alike := h.alike (i := Nat.log2 m) fun big =>
    (Nat.le_log2 hm.ne').2 (le_trans (Nat.pow_le_pow_right two_pos (by omega)) big)
  have lower := (not_congr (alike 1).2).1 (by rw [one_mul]; exact Nat.not_lt.2 (Nat.log2_self_le hm.ne'))
  have upper := (alike 2).2.1 (by rw [mul_comm, ← pow_succ]; exact Nat.lt_log2_self)
  rw [not_lt, le_div_iff₀ pos] at lower
  rw [div_lt_iff₀ pos] at upper
  rw [dyLog, zpow_add_one₀ two_ne_zero, zpow_add₀ two_ne_zero, zpow_natCast]
  push_cast at lower upper
  exact ⟨by linarith, by linarith⟩

theorem StandsFor.pos (h : StandsFor f m e x) (hm : 0 < m) : 0 < x := lt_of_lt_of_le (zpow_pos two_pos _) (h.binade hm).1

end

/-! ## The model's rounding -/

theorem nearestEven_floor {y q : ℝ} {n : Nat} (lo : n * q ≤ y) (hi : y < (n + 1 / 2) * q) : NearestEven y q n := by
  rw [NearestEven, abs_of_nonneg (by linarith)]
  exact ⟨by linarith, fun h => by linarith⟩

theorem nearestEven_ceil {y q : ℝ} {n : Nat} (lo : (n + 1 / 2) * q < y) (hi : y ≤ (n + 1) * q) : NearestEven y q (n + 1) := by
  rw [NearestEven, Nat.cast_add_one, abs_of_nonpos (by linarith)]
  exact ⟨by linarith, fun h => by linarith⟩

theorem nearestEven_tie {q : ℝ} {n k : Nat} (hq : 0 < q) (hk : k = n ∨ k = n + 1) (even : k % 2 = 0) :
    NearestEven ((n + 1 / 2) * q) q k := by
  refine ⟨le_of_eq ?_, fun _ => even⟩
  rcases hk with rfl | rfl
  · rw [← sub_mul, add_sub_cancel_left, abs_of_pos (by positivity)]
    ring
  · rw [← sub_mul, Nat.cast_add_one, add_sub_add_left_eq_sub, abs_mul, abs_of_pos hq, abs_of_neg (by norm_num)]
    ring

/-- Rounding to nearest leaves the floor past the middle, and at the middle of an odd one (R100). -/
theorem roundsUp_iff (neg : Bool) (n rem sh r : Nat) :
    roundsUp 0 neg n rem sh r = true ↔ 2 ^ sh < 2 * rem ∨ 2 * rem = 2 ^ sh ∧ n % 2 = 1 := by
  rcases Nat.eq_zero_or_pos rem with rfl | h
  · have := Nat.two_pow_pos sh
    refine iff_of_false Bool.false_ne_true ?_
    omega
  · simp only [roundsUp, if_neg h.ne', Bool.or_eq_true, decide_eq_true_eq, Bool.and_eq_true, beq_iff_eq]

/-- The floor of `m` in multiples of 2d, rounded up as `roundsUp` says, is nearest to whatever lies alike between the half multiples. -/
theorem nearestEven_of_alike {sh d m r : Nat} {y : ℝ} (neg : Bool) (hd : 2 ^ sh = 2 * d) (h : Alike d m y) :
    let n := m / 2 ^ sh + if roundsUp 0 neg (m / 2 ^ sh) (m % 2 ^ sh) sh r then 1 else 0
    NearestEven y (2 ^ sh) n ∧ (m % 2 ^ sh ≠ 0 ↔ (n * 2 ^ sh : ℝ) ≠ y) := by
  have dpos : 0 < d := by have := Nat.two_pow_pos sh; omega
  have hq : ((2 : ℝ) ^ sh) = 2 * d := by exact_mod_cast hd
  have dpos' : (0 : ℝ) < d := by exact_mod_cast dpos
  have split := Nat.div_add_mod m (2 ^ sh)
  have low := Nat.mod_lt m (Nat.two_pow_pos sh)
  simp only [roundsUp_iff]
  rw [hq]
  rw [hd] at *
  generalize m / (2 * d) = n at *
  generalize m % (2 * d) = rem at *
  have below := h (2 * n)
  have mid := h (2 * n + 1)
  have above := (h (2 * n + 2)).2
  rw [show 2 * n * d = 2 * d * n by ring] at below
  rw [show (2 * n + 1) * d = 2 * d * n + d by ring] at mid
  rw [show (2 * n + 2) * d = 2 * d * n + 2 * d by ring] at above
  push_cast at below mid above
  have upper := above.1 (by omega)
  have lower := (not_congr below.2).1 (by omega)
  rcases lt_trichotomy rem d with hlt | rfl | hgt
  · have inside := mid.2.1 (by omega)
    rw [if_neg (by omega), add_zero]
    refine ⟨nearestEven_floor (by linarith) (by linarith), fun h0 => ?_, fun hne h0 => ?_⟩
    · have := below.1.1 (by omega)
      exact ne_of_lt (by linarith)
    · have := (not_congr below.1).1 (by omega)
      exact hne (by linarith)
  · have middle : y = (n + 1 / 2) * (2 * rem) := by
      have h1 := (not_congr mid.1).1 (by omega)
      have h2 := (not_congr mid.2).1 (by omega)
      linarith
    rw [middle]
    rcases Nat.mod_two_eq_zero_or_one n with even | odd
    · rw [if_neg (by omega), add_zero]
      exact ⟨nearestEven_tie (by positivity) (.inl rfl) even, iff_of_true dpos.ne' (ne_of_lt (by linarith))⟩
    · rw [if_pos (by omega)]
      refine ⟨nearestEven_tie (by positivity) (.inr rfl) (by omega), iff_of_true dpos.ne' (ne_of_gt ?_)⟩
      push_cast
      linarith
  · have inside := mid.1.1 (by omega)
    rw [if_pos (by omega)]
    refine ⟨nearestEven_ceil (by linarith) (by linarith), iff_of_true (by omega) (ne_of_gt ?_)⟩
    push_cast
    linarith

/-- `roundMag` gives the nearest multiple of a spacing no finer than the format's at that magnitude, and says whether it is another value. -/
theorem roundMag_spec {f : FpFmt} {m r : Nat} {e q : Int} {x : ℝ} (neg : Bool) (h : StandsFor f m e x) (hm : 0 < m)
    (hq : dyLog m e - f.mw ≤ q) :
    NearestEven x (2 ^ q) (roundMag 0 neg r m e q).1 ∧ ((roundMag 0 neg r m e q).2 = true ↔ ((roundMag 0 neg r m e q).1 : ℝ) * 2 ^ q ≠ x) := by
  have fine : 2 ^ (f.mw + 3) ≤ m → e + 3 ≤ q := fun big => by
    have := (Nat.le_log2 hm.ne').2 big
    rw [dyLog] at hq
    omega
  by_cases hqe : q ≤ e
  · have exactness : x = m * (2 : ℝ) ^ e := h.resolve_right fun ⟨_, big, _⟩ => by have := fine big; omega
    have cast : ((shl m (e - q) : ℕ) : ℝ) * 2 ^ q = x := by
      rw [exactness, shl, Nat.cast_mul, Nat.cast_pow, Nat.cast_ofNat, mul_assoc, ← zpow_natCast, ← zpow_add₀ two_ne_zero]
      congr 2
      omega
    simp only [roundMag, if_pos hqe, cast]
    rw [← cast]
    exact ⟨nearestEven_self (zpow_pos two_pos _), by simp⟩
  · have sh : (((q - e).toNat : ℕ) : ℤ) = q - e := by omega
    obtain ⟨i, hi⟩ : ∃ i, (q - e).toNat = i + 1 := ⟨(q - e).toNat - 1, by omega⟩
    have pos : (0 : ℝ) < 2 ^ e := zpow_pos two_pos _
    have spacing : (2 : ℝ) ^ q = 2 ^ (q - e).toNat * 2 ^ e := by
      rw [← zpow_natCast, sh, ← zpow_add₀ two_ne_zero, sub_add_cancel]
    have whole : x = x / 2 ^ e * 2 ^ e := (div_mul_cancel₀ _ pos.ne').symm
    obtain ⟨near, inexact⟩ := nearestEven_of_alike (sh := (q - e).toNat) (r := r) neg (by rw [hi, pow_succ']) (h.alike (i := i) fun big => by
      have := fine big
      omega)
    simp only [roundMag, if_neg hqe, bne_iff_ne]
    refine ⟨?_, inexact.trans (not_congr ?_)⟩
    · rw [whole, spacing]
      exact near.mul pos
    · rw [spacing, ← mul_assoc, eq_div_iff pos.ne']

end Sys2Proof.Machine
end

section
/-! The one rounding of R100, R102 and R105 gives the nearest code, with its flags. -/

namespace Sys2Proof.Machine

/-! ## Exact arithmetic (R94, R133) -/

theorem cast_dyInt (n : Bool) (m : Nat) {e e0 : Int} (h : e0 ≤ e) : (dyInt n m e e0 : ℚ) * 2 ^ e0 = Claims.value (.fin n m e) := by
  have shift : ((shl m (e - e0) : ℕ) : ℚ) * 2 ^ e0 = m * 2 ^ e := by
    rw [shl, Nat.cast_mul, Nat.cast_pow, Nat.cast_ofNat, mul_assoc, ← zpow_natCast, ← zpow_add₀ two_ne_zero]
    congr 2
    omega
  rw [dyInt, Claims.value, mul_assoc, ← shift]
  cases n <;> simp

/-- The order of finite values is that of the numbers they are. -/
theorem lt_fin_iff (a b : Bool) (m k : Nat) (e j : Int) :
    (XR.fin a m e).lt (.fin b k j) = true ↔ Claims.value (.fin a m e) < Claims.value (.fin b k j) := by
  rw [← cast_dyInt a m (min_le_left e j), ← cast_dyInt b k (min_le_right e j), mul_lt_mul_iff_left₀ (zpow_pos two_pos _), Int.cast_lt]
  exact decide_eq_true_iff

/-- A magnitude's value among the reals. -/
theorem value_fin_false (m : Nat) (e : Int) : (Claims.value (.fin false m e) : ℝ) = m * 2 ^ e := by
  rw [Claims.value]
  push_cast
  simp

theorem lt_magnitude_iff (m k : Nat) (e j : Int) : (XR.fin false m e).lt (.fin false k j) = true ↔ (m : ℝ) * 2 ^ e < k * 2 ^ j := by
  rw [lt_fin_iff, ← value_fin_false, ← value_fin_false, Rat.cast_lt]

/-! ## The thresholds of overflow and underflow -/

theorem half_below (p : Nat) (b : Int) : ((2 : ℝ) ^ (p + 2) - 1) * 2 ^ (b - 1) = (2 ^ (p + 1) - 1 / 2) * 2 ^ b := by
  rw [zpow_sub_one₀ two_ne_zero, pow_succ]
  ring

/-- Rounding to p + 1 bits stays below the power of two 2^(p + 1 + b) just for numbers less than half a spacing below it. -/
theorem below_power_iff {p n : Nat} {q b : Int} {x : ℝ} (near : NearestEven x (2 ^ q) n) (hi : x < 2 ^ (p + 1) * 2 ^ q)
    (lo : b < q → 2 ^ p * 2 ^ q ≤ x) :
    ((n : ℝ) * 2 ^ q < 2 ^ (p + 1) * 2 ^ b ↔ x < (2 ^ (p + 1) - 1 / 2) * 2 ^ b) ∧
      ((n : ℝ) * 2 ^ q ≤ (2 ^ (p + 1) - 1) * 2 ^ b ↔ x < (2 ^ (p + 1) - 1 / 2) * 2 ^ b) := by
  have qpos : (0 : ℝ) < 2 ^ q := zpow_pos two_pos _
  have bpos : (0 : ℝ) < 2 ^ b := zpow_pos two_pos _
  have one : (1 : ℝ) ≤ 2 ^ p := one_le_pow₀ one_le_two
  have twice : (2 : ℝ) ^ (p + 1) = 2 * 2 ^ p := pow_succ' 2 p
  have le : (n : ℝ) ≤ 2 ^ (p + 1) := by exact_mod_cast near.le_of_le qpos (k := 2 ^ (p + 1)) (by push_cast; exact hi.le)
  rcases lt_trichotomy q b with hlt | rfl | hgt
  · have coarse : 2 * (2 : ℝ) ^ q ≤ 2 ^ b := by
      rw [← zpow_one_add₀ two_ne_zero]
      exact zpow_le_zpow_right₀ one_le_two (by omega)
    have small : (2 : ℝ) ^ (p + 1) * 2 ^ q ≤ 2 ^ p * 2 ^ b := by rw [twice]; nlinarith
    have : (n : ℝ) * 2 ^ q ≤ 2 ^ (p + 1) * 2 ^ q := mul_le_mul_of_nonneg_right le qpos.le
    have : (2 : ℝ) ^ b ≤ 2 ^ p * 2 ^ b := le_mul_of_one_le_left bpos.le one
    refine ⟨iff_of_true ?_ ?_, iff_of_true ?_ ?_⟩ <;> rw [twice] <;> linarith
  · have odd : (2 ^ (p + 1) - 1) % 2 = 1 := by have := Nat.two_pow_pos p; rw [pow_succ]; omega
    have cast : ((2 ^ (p + 1) - 1 : ℕ) : ℝ) = 2 ^ (p + 1) - 1 := by rw [Nat.cast_sub Nat.one_le_two_pow]; norm_num
    have key := near.le_odd_iff qpos odd
    rw [cast, show (2 : ℝ) ^ (p + 1) - 1 + 1 / 2 = 2 ^ (p + 1) - 1 / 2 by ring] at key
    rw [← key, mul_lt_mul_iff_left₀ qpos, mul_le_mul_iff_left₀ qpos, ← cast, Nat.cast_le, and_iff_left Iff.rfl]
    have := Nat.two_pow_pos (p + 1)
    rw [show ((n : ℝ) < 2 ^ (p + 1)) ↔ n < 2 ^ (p + 1) by exact_mod_cast Iff.rfl]
    omega
  · have coarse : 2 * (2 : ℝ) ^ b ≤ 2 ^ q := by
      rw [← zpow_one_add₀ two_ne_zero]
      exact zpow_le_zpow_right₀ one_le_two (by omega)
    have large : (2 : ℝ) ^ (p + 1) * 2 ^ b ≤ 2 ^ p * 2 ^ q := by rw [twice]; nlinarith
    have ge : (2 : ℝ) ^ p ≤ n := by exact_mod_cast near.ge_of_ge qpos (k := 2 ^ p) (by push_cast; exact lo hgt)
    have : (2 : ℝ) ^ p * 2 ^ q ≤ n * 2 ^ q := mul_le_mul_of_nonneg_right ge qpos.le
    have := lo hgt
    refine ⟨iff_of_false ?_ ?_, iff_of_false ?_ ?_⟩ <;> linarith

/-! ## The nearest code -/

section
variable {f : FpFmt}

theorem FpFmt.sigOf_lt (k : Nat) : f.sigOf k < 2 ^ (f.mw + 1) := by
  have := Nat.mod_lt k (Nat.two_pow_pos f.mw)
  rw [pow_succ, FpFmt.sigOf]
  split <;> omega

theorem FpFmt.le_expOf (k : Nat) : 1 - (f.bias : Int) - f.mw ≤ f.expOf k := by
  have : 1 ≤ max (k / 2 ^ f.mw) 1 := le_max_right _ _
  rw [FpFmt.expOf]
  omega

/-- A multiple nearest to `x` of a spacing that suits x's magnitude is as near to `x` as any value of the format is. -/
theorem FpFmt.nearest_of_multiple {n k : Nat} {q : Int} {x w : ℝ} (near : NearestEven x (2 ^ q) n)
    (full : q = 1 - (f.bias : Int) - f.mw ∨ 2 ^ f.mw * 2 ^ q ≤ x) (hw : w = f.magValue k ∨ w = -f.magValue k) :
    |x - n * 2 ^ q| ≤ |x - w| ∧ (|x - n * 2 ^ q| = |x - w| → w ≠ n * 2 ^ q → n % 2 = 0) := by
  have qpos : (0 : ℝ) < 2 ^ q := zpow_pos two_pos _
  by_cases hq : q ≤ f.expOf k
  · obtain ⟨d, hd⟩ := Int.eq_ofNat_of_zero_le (sub_nonneg.2 hq)
    have multiple : f.magValue k = ((f.sigOf k * 2 ^ d : ℤ) : ℝ) * 2 ^ q := by
      rw [FpFmt.magValue, show f.expOf k = d + q by omega, zpow_add₀ two_ne_zero, zpow_natCast]
      push_cast
      ring
    rcases hw with rfl | rfl
    · rw [multiple]
      exact near.nearest qpos _
    · rw [multiple, ← neg_mul, ← Int.cast_neg]
      exact near.nearest qpos _
  · have large := full.resolve_left fun h => hq (h ▸ f.le_expOf k)
    have small : |w| < 2 ^ f.mw * 2 ^ q := by
      have sig : (f.sigOf k : ℝ) < 2 * 2 ^ f.mw := by rw [← pow_succ']; exact_mod_cast f.sigOf_lt k
      have fine : 2 * (2 : ℝ) ^ f.expOf k ≤ 2 ^ q := by
        rw [← zpow_one_add₀ two_ne_zero]
        exact zpow_le_zpow_right₀ one_le_two (by omega)
      have epos : (0 : ℝ) < 2 ^ f.expOf k := zpow_pos two_pos _
      have mpos : (0 : ℝ) < 2 ^ f.mw := pow_pos two_pos _
      have abs : |w| = f.magValue k := by
        rcases hw with rfl | rfl
        · exact abs_of_nonneg (f.magValue_nonneg k)
        · rw [abs_neg, abs_of_nonneg (f.magValue_nonneg k)]
      rw [abs, FpFmt.magValue]
      nlinarith
    obtain ⟨le, -⟩ := near.nearest qpos (2 ^ f.mw)
    push_cast at le
    rw [abs_of_nonneg (sub_nonneg.2 large)] at le
    have strict : |x - n * 2 ^ q| < |x - w| := by
      have := le_abs_self w
      exact lt_of_lt_of_le (by linarith) (le_abs_self _)
    exact ⟨strict.le, fun he => absurd he strict.ne⟩

/-! ## One rounding -/

/-- A sign as a factor. -/
noncomputable def signFactor (neg : Bool) : ℝ := if neg then -1 else 1

@[simp] theorem signFactor_false : signFactor false = 1 := rfl

@[simp] theorem signFactor_true : signFactor true = -1 := rfl

theorem signFactor_ne_zero (neg : Bool) : signFactor neg ≠ 0 := by cases neg <;> simp

theorem signFactor_mul_self (neg : Bool) : signFactor neg * signFactor neg = 1 := by cases neg <;> simp

theorem abs_signFactor_mul (neg : Bool) (y : ℝ) : |signFactor neg * y| = |y| := by cases neg <;> simp

theorem abs_signFactor_mul_sub (neg : Bool) (x w : ℝ) : |signFactor neg * x - w| = |x - signFactor neg * w| := by
  rw [← abs_signFactor_mul neg (x - signFactor neg * w), mul_sub, ← mul_assoc, signFactor_mul_self, one_mul]

theorem signFactor_mul_neg_iff (neg : Bool) {x : ℝ} (hx : 0 < x) : signFactor neg * x < 0 ↔ neg = true := by
  cases neg <;> simp [hx, hx.le]

theorem lt_signFactor_mul_iff {x w : ℝ} (h : |x| < w) (neg : Bool) : x < signFactor neg * w ↔ neg = false := by
  obtain ⟨lo, hi⟩ := abs_lt.1 h
  cases neg <;> simp <;> linarith

theorem signFactor_mul_lt_iff {x w : ℝ} (h : |x| < w) (neg : Bool) : signFactor neg * w < x ↔ neg = true := by
  obtain ⟨lo, hi⟩ := abs_lt.1 h
  cases neg <;> simp <;> linarith

theorem value_decodeFp_signed (hf : f.Ieee) (neg : Bool) {k : Nat} (hk : k < f.infCode) :
    (decodeFp f (f.signed neg k)).isFin = true ∧ (decodeFp f (f.signed neg k)).neg = neg ∧
      (Claims.value (decodeFp f (f.signed neg k)) : ℝ) = signFactor neg * f.magValue k := by
  have lt := hk.trans f.infCode_lt
  have mag := f.magOf_signed neg lt
  rw [isFin_decodeFp hf, neg_decodeFp hf, value_decodeFp hf (by rwa [mag]), mag, f.signOf_signed neg lt]
  exact ⟨hk, rfl, rfl⟩

/-- A finite code's value is a magnitude of the format, or the negation of one. -/
theorem value_decodeFp_or (hf : f.Ieee) (neg : Bool) {c : Nat} (hc : (decodeFp f c).isFin = true) :
    signFactor neg * Claims.value (decodeFp f c) = f.magValue (f.magOf c) ∨
      signFactor neg * Claims.value (decodeFp f c) = -f.magValue (f.magOf c) := by
  rw [value_decodeFp hf ((isFin_decodeFp hf c).1 hc)]
  cases neg <;> cases f.signOf c <;> simp

/-- The spacing that `roundFp` rounds to suits the format and the magnitude of what is rounded. -/
theorem roundFp_spacing {m : Nat} {e : Int} {x : ℝ} (h : StandsFor f m e x) (hm : 0 < m) {q : Int}
    (hq : q = max (dyLog m e - f.mw) (1 - (f.bias : Int) - f.mw)) :
    x < 2 ^ (f.mw + 1) * 2 ^ q ∧ (q = 1 - (f.bias : Int) - f.mw ∨ 2 ^ f.mw * 2 ^ q ≤ x) := by
  obtain ⟨lower, upper⟩ := h.binade hm
  constructor
  · refine upper.trans_le ?_
    rw [← zpow_natCast, ← zpow_add₀ two_ne_zero]
    exact zpow_le_zpow_right₀ one_le_two (by push_cast; omega)
  · refine or_iff_not_imp_left.2 fun hne => le_trans (le_of_eq ?_) lower
    rw [← zpow_natCast, ← zpow_add₀ two_ne_zero]
    congr 1
    omega

/-- Rounding to the format's precision falls below the smallest normal just for numbers below `normal` of `Claims.RoundsTo` (R105). -/
theorem tiny_iff {m r : Nat} {e : Int} {x : ℝ} (neg : Bool) (h : StandsFor f m e x) (hm : 0 < m) :
    (XR.fin false (roundMag 0 neg r m e (dyLog m e - f.mw)).1 (dyLog m e - f.mw)).lt (.fin false 1 (1 - (f.bias : Int))) = true ↔
      x < (2 ^ (f.mw + 2) - 1) * 2 ^ (-(f.bias : ℤ) - f.mw - 1) := by
  obtain ⟨near, -⟩ := roundMag_spec (r := r) neg h hm le_rfl
  obtain ⟨lower, upper⟩ := h.binade hm
  have hi : x < 2 ^ (f.mw + 1) * 2 ^ (dyLog m e - f.mw) := by
    refine upper.trans_eq ?_
    rw [← zpow_natCast, ← zpow_add₀ two_ne_zero]
    congr 1
    push_cast
    ring
  have lo : (2 : ℝ) ^ f.mw * 2 ^ (dyLog m e - f.mw) ≤ x := by
    refine le_of_eq_of_le ?_ lower
    rw [← zpow_natCast, ← zpow_add₀ two_ne_zero]
    congr 1
    ring
  have normal : ((1 : ℕ) : ℝ) * 2 ^ (1 - (f.bias : Int)) = 2 ^ (f.mw + 1) * 2 ^ (-(f.bias : Int) - f.mw) := by
    rw [← zpow_natCast, ← zpow_add₀ two_ne_zero, Nat.cast_one, one_mul]
    congr 1
    push_cast
    ring
  rw [lt_magnitude_iff, normal, half_below]
  exact (below_power_iff near hi fun _ => lo).1

/-- The rounding of `roundFp` passes the largest finite magnitude just for numbers past `top` of `Claims.RoundsTo` (R102). -/
theorem tooBig_iff (hf : f.Ieee) {m n : Nat} {e q : Int} {x : ℝ} (h : StandsFor f m e x) (hm : 0 < m)
    (hq : q = max (dyLog m e - f.mw) (1 - (f.bias : Int) - f.mw)) (near : NearestEven x (2 ^ q) n) :
    ((XR.fin false f.maxMag.1 f.maxMag.2).lt (.fin false n q) = true ↔ (2 ^ (f.mw + 2) - 1) * 2 ^ (f.maxMag.2 - 1) ≤ x) ∧
      (x < (2 ^ (f.mw + 2) - 1) * 2 ^ (f.maxMag.2 - 1) ↔ (n : ℝ) * 2 ^ q < f.magValue f.infCode) := by
  obtain ⟨hi, full⟩ := roundFp_spacing h hm hq
  have sig : ((f.maxMag.1 : ℕ) : ℝ) = 2 ^ (f.mw + 1) - 1 := by
    simp only [FpFmt.maxMag, hf.sp]
    rw [Nat.cast_sub Nat.one_le_two_pow]
    norm_num
  have floor : 1 - (f.bias : Int) - f.mw ≤ f.maxMag.2 := by
    have two : 2 ^ 2 ≤ 2 ^ f.ew := Nat.pow_le_pow_right two_pos hf.ew_ge
    simp only [FpFmt.maxMag, hf.sp]
    omega
  obtain ⟨lt, le⟩ := below_power_iff (b := f.maxMag.2) near hi fun hlt => full.resolve_left (by omega)
  rw [lt_magnitude_iff, half_below, sig, f.magValue_infCode hf]
  exact ⟨not_le.symm.trans ((not_congr le).trans not_lt), lt.symm⟩

theorem overflow_nearest (hf : f.Ieee) (neg : Bool) : f.overflow 0 false neg = f.signed neg f.infCode := by
  simp [FpFmt.overflow, hf.sp, hf.mx]

/-- R100, R102, R105: `roundFp` rounds, once, the number that its significand and exponent stand for. -/
theorem roundFp_roundsTo (hf : f.Ieee) (neg : Bool) {m : Nat} {e : Int} {x : ℝ} (hm : 0 < m) (h : StandsFor f m e x) :
    Claims.RoundsTo f (signFactor neg * x) (roundFp f 0 false 0 neg m e) := by
  obtain ⟨q, hq⟩ : ∃ q, q = max (dyLog m e - f.mw) (1 - (f.bias : Int) - f.mw) := ⟨_, rfl⟩
  obtain ⟨near, inexact⟩ := roundMag_spec (r := 0) neg h hm (q := q) (hq ▸ le_max_left _ _)
  have tiny := tiny_iff (r := 0) neg h hm
  have x_pos := h.pos hm
  obtain ⟨hi, full⟩ := roundFp_spacing h hm hq
  obtain ⟨big, fits⟩ := tooBig_iff hf h hm hq near
  simp only [roundFp, if_neg hm.ne', ← hq, hf.mx]
  generalize (roundMag 0 neg 0 m e q).1 = n at *
  generalize (roundMag 0 neg 0 m e q).2 = inx at *
  unfold Claims.RoundsTo
  rw [abs_signFactor_mul, abs_of_pos x_pos]
  by_cases hbig : (2 ^ (f.mw + 2) - 1) * 2 ^ (f.maxMag.2 - 1) ≤ x
  · rw [if_pos (big.2 hbig)]
    refine ⟨fun _ => ⟨rfl, fun hpos => ?_, fun hneg => ?_⟩, fun hlt => absurd hbig (not_le.2 hlt)⟩
    · have plus : neg = false := by
        rw [← Bool.not_eq_true, ← signFactor_mul_neg_iff neg x_pos]
        exact hpos.not_gt
      rw [overflow_nearest hf, plus]
      rfl
    · rw [overflow_nearest hf, (signFactor_mul_neg_iff neg x_pos).1 hneg]
  · rw [if_neg (mt big.1 hbig)]
    refine ⟨fun hge => absurd hge hbig, fun hlt => ?_⟩
    have q_pos : (0 : ℝ) < 2 ^ q := zpow_pos two_pos _
    have onGrid : f.OnGrid n q := by
      refine ⟨near.le_of_le q_pos (by push_cast; exact hi.le), hq ▸ le_max_right _ _, full.imp_right fun h => near.ge_of_ge q_pos ?_⟩
      push_cast
      exact h
    obtain ⟨value, parity⟩ := f.codeOf_spec hf onGrid
    have code_lt : f.codeOf n q < f.infCode := f.magValue_strictMono.lt_iff_lt.1 (by rw [value]; exact fits.1 hlt)
    obtain ⟨fin, sign, signed⟩ := value_decodeFp_signed hf neg code_lt
    rw [value] at signed
    have same : signFactor neg * (n * 2 ^ q) = signFactor neg * x ↔ (n : ℝ) * 2 ^ q = x := mul_right_inj' (signFactor_ne_zero neg)
    rw [sign, f.signed_mod_two hf, parity]
    simp only [signed, ne_eq, same, ← mul_sub, abs_signFactor_mul]
    refine ⟨f.signed_lt neg (code_lt.trans f.infCode_lt), fin, (signFactor_mul_neg_iff neg x_pos).symm, fun c hc => ?_, fun hv => ?_, fun hv hx => ?_,
      fun hv hx => ?_⟩
    · obtain ⟨le, tie⟩ := f.nearest_of_multiple near full (value_decodeFp_or hf neg hc)
      rw [abs_signFactor_mul_sub]
      refine ⟨le, fun he hne => tie he fun hw => hne ?_⟩
      rw [← hw, ← mul_assoc, signFactor_mul_self, one_mul]
    · have exactness : inx = false := by rw [← Bool.not_eq_true, inexact]; exact not_not.2 hv
      rw [exactness]
      rfl
    · rw [inexact.2 hv, Bool.eq_false_of_not_eq_true (mt tiny.1 (not_lt.2 hx))]
      rfl
    · rw [inexact.2 hv, tiny.2 hx]
      rfl

end

end Sys2Proof.Machine
end

section
/-! Exact sums and products, and quotients and roots with a sticky last bit (R133, R136). -/

namespace Sys2Proof.Machine

/-! ## Exact results -/

theorem cast_value_fin (n : Bool) (m : Nat) (e : Int) : (Claims.value (.fin n m e) : ℝ) = signFactor n * (m * 2 ^ e) := by
  rw [Claims.value, signFactor]
  push_cast
  split <;> ring

theorem value_fin_eq_zero_iff (n : Bool) (m : Nat) (e : Int) : Claims.value (.fin n m e) = 0 ↔ m = 0 := by
  rw [← Rat.cast_eq_zero (α := ℝ), cast_value_fin, mul_eq_zero, mul_eq_zero, Nat.cast_eq_zero]
  have := signFactor_ne_zero n
  have : (2 : ℝ) ^ e ≠ 0 := (zpow_pos two_pos e).ne'
  tauto

theorem XR.exists_of_isFin {x : XR} (h : x.isFin = true) : ∃ n m e, x = .fin n m e := by
  cases x with
  | fin n m e => exact ⟨n, m, e, rfl⟩
  | inf n => exact absurd h Bool.false_ne_true
  | nan n s => exact absurd h Bool.false_ne_true

/-- R133: a sum of finite values is exact, and a zero sum is −0 of two minus signs only. -/
theorem XR.add_fin {x y : XR} (hx : x.isFin = true) (hy : y.isFin = true) :
    (x.add y).isFin = true ∧ Claims.value (x.add y) = Claims.value x + Claims.value y ∧
      (Claims.value x + Claims.value y = 0 → (x.add y).neg = (x.neg && y.neg)) := by
  obtain ⟨a, m, e, rfl⟩ := XR.exists_of_isFin hx
  obtain ⟨b, k, j, rfl⟩ := XR.exists_of_isFin hy
  have zero : ∀ n e, Claims.value (.fin n 0 e) = 0 := fun n e => (value_fin_eq_zero_iff n 0 e).2 rfl
  by_cases hm : m = 0
  · by_cases hk : k = 0
    · subst hm hk
      simp only [XR.add, and_self, if_true, zero, add_zero]
      exact ⟨rfl, trivial, fun _ => rfl⟩
    · subst hm
      simp only [XR.add, hk, and_false, if_false, if_true, zero, zero_add]
      exact ⟨rfl, trivial, fun h => absurd ((value_fin_eq_zero_iff b k j).1 h) hk⟩
  · by_cases hk : k = 0
    · subst hk
      simp only [XR.add, hm, false_and, if_false, if_true, zero, add_zero]
      exact ⟨rfl, trivial, fun h => absurd ((value_fin_eq_zero_iff a m e).1 h) hm⟩
    · simp only [XR.add, hm, hk, and_self, if_false]
      refine ⟨rfl, ?_, fun h => ?_⟩
      · rw [← cast_dyInt a m (min_le_left e j), ← cast_dyInt b k (min_le_right e j), ← add_mul, ← Int.cast_add, Claims.value]
        generalize dyInt a m e (min e j) + dyInt b k j (min e j) = v
        congr 1
        rcases lt_or_ge v 0 with hv | hv
        · rw [decide_eq_true hv, if_pos rfl, Nat.cast_natAbs, abs_of_neg hv]
          push_cast
          ring
        · rw [decide_eq_false (not_lt.2 hv), if_neg Bool.false_ne_true, Nat.cast_natAbs, abs_of_nonneg hv, one_mul]
      · have opposite : (a && b) = false := by
          have mpos : (0 : ℚ) < m * 2 ^ e := mul_pos (Nat.cast_pos.2 (Nat.pos_of_ne_zero hm)) (zpow_pos two_pos _)
          have kpos : (0 : ℚ) < k * 2 ^ j := mul_pos (Nat.cast_pos.2 (Nat.pos_of_ne_zero hk)) (zpow_pos two_pos _)
          refine Bool.eq_false_of_not_eq_true fun both => ?_
          obtain ⟨rfl, rfl⟩ := Bool.and_eq_true_iff.1 both
          simp only [Claims.value, if_true] at h
          linarith
        rw [← cast_dyInt a m (min_le_left e j), ← cast_dyInt b k (min_le_right e j), ← add_mul, ← Int.cast_add, mul_eq_zero,
          Int.cast_eq_zero] at h
        simp only [XR.neg, h.resolve_right (zpow_pos two_pos _).ne', opposite, lt_irrefl, decide_false]

/-- R133: a product of finite values is exact. -/
theorem XR.mul_fin {x y : XR} (hx : x.isFin = true) (hy : y.isFin = true) :
    (x.mul y).isFin = true ∧ Claims.value (x.mul y) = Claims.value x * Claims.value y ∧ (x.mul y).neg = (x.neg != y.neg) := by
  obtain ⟨a, m, e, rfl⟩ := XR.exists_of_isFin hx
  obtain ⟨b, k, j, rfl⟩ := XR.exists_of_isFin hy
  refine ⟨rfl, ?_, rfl⟩
  simp only [XR.mul, Claims.value, zpow_add₀ (two_ne_zero (α := ℚ)), Nat.cast_mul]
  cases a <;> cases b <;> simp <;> ring

theorem value_flip {x : XR} (hx : x.isFin = true) : x.flip.isFin = true ∧ Claims.value x.flip = -Claims.value x ∧ x.flip.neg = !x.neg := by
  obtain ⟨a, m, e, rfl⟩ := XR.exists_of_isFin hx
  refine ⟨rfl, ?_, rfl⟩
  cases a <;> simp [XR.flip, Claims.value]

/-! ## Sticky bits -/

/-- The floor of a number with a sticky bit below it stands for the number in any rounding to a lane format. -/
theorem standsFor_sticky {f : FpFmt} (hf : f.Ieee) {s : Nat} {y : ℝ} (e : Int) {p : Prop} [Decidable p] (hs : 2 ^ 60 ≤ s)
    (lo : s ≤ y) (hi : y < s + 1) (hp : p ↔ y = s) : StandsFor f (2 * s + if p then 0 else 1) (e - 1) (y * 2 ^ e) := by
  have pos : (0 : ℝ) < 2 ^ (e - 1) := zpow_pos two_pos _
  have half : (2 : ℝ) ^ e = 2 * 2 ^ (e - 1) := by rw [← zpow_one_add₀ two_ne_zero, add_sub_cancel]
  by_cases h : p
  · left
    rw [if_pos h, hp.1 h, half]
    push_cast
    ring
  · right
    have strict : (s : ℝ) < y := lt_of_le_of_ne lo fun he => h (hp.2 he.symm)
    have small : 2 ^ (f.mw + 3) ≤ 2 ^ 60 := Nat.pow_le_pow_right two_pos (by have := hf.mw_le; omega)
    rw [if_neg h, half]
    refine ⟨by omega, by omega, ?_⟩
    push_cast
    rw [show y * (2 * 2 ^ (e - 1)) - (2 * s + 1) * 2 ^ (e - 1) = (2 * y - 2 * s - 1) * 2 ^ (e - 1) by ring, abs_mul, abs_of_pos pos]
    exact mul_lt_of_lt_one_left pos (abs_lt.2 ⟨by linarith, by linarith⟩)

theorem lt_two_pow_nbits (m : Nat) : m < 2 ^ nbits m := by
  rw [nbits]
  split
  · next h => rw [h]; exact Nat.one_pos
  · exact Nat.lt_log2_self

/-- `quotient` stands for the exact quotient. -/
theorem quotient_standsFor {f : FpFmt} (hf : f.Ieee) {m k : Nat} (e j : Int) (hm : 0 < m) (hk : 0 < k) :
    0 < (quotient m e k j).1 ∧ StandsFor f (quotient m e k j).1 (quotient m e k j).2 (m * 2 ^ e / (k * 2 ^ j)) := by
  have kpos : (0 : ℝ) < k := by exact_mod_cast hk
  have large : 2 ^ 130 ≤ m * 2 ^ (130 + nbits k) / k := by
    rw [Nat.le_div_iff_mul_le hk, pow_add]
    have := lt_two_pow_nbits k
    nlinarith [Nat.two_pow_pos 130]
  have exactness : m * 2 ^ (130 + nbits k) % k = 0 ↔ ((m * 2 ^ (130 + nbits k) : ℕ) : ℝ) / k = (m * 2 ^ (130 + nbits k) / k : ℕ) := by
    rw [div_eq_iff kpos.ne', ← Nat.dvd_iff_mod_eq_zero, ← Nat.cast_mul, Nat.cast_inj, eq_comm]
    exact ⟨Nat.div_mul_cancel, Dvd.intro_left _⟩
  have value : (m : ℝ) * 2 ^ e / (k * 2 ^ j) = ((m * 2 ^ (130 + nbits k) : ℕ) : ℝ) / k * 2 ^ (e - j - (130 + nbits k : ℕ)) := by
    rw [zpow_sub₀ two_ne_zero, zpow_sub₀ two_ne_zero, zpow_natCast]
    push_cast
    field_simp
  rw [value]
  have floor := Nat.floor_div_eq_div (K := ℝ) (m * 2 ^ (130 + nbits k)) k
  refine ⟨?_, standsFor_sticky hf _ (le_trans (by norm_num) large) ?_ ?_ exactness⟩
  · simp only [quotient]
    have := Nat.two_pow_pos 130
    omega
  · rw [← floor]
    exact Nat.floor_le (by positivity)
  · rw [← floor]
    exact Nat.lt_floor_add_one _

/-! ## Square roots -/

/-- Each bit keeps the root between `acc` and the sum of the bits to come. -/
theorem isqrtFrom_eq_sqrt {n : Nat} (i acc : Nat) (lo : acc * acc ≤ n) (hi : n < (acc + 2 ^ i) * (acc + 2 ^ i)) :
    isqrtFrom n i acc = Nat.sqrt n := by
  induction i generalizing acc with
  | zero => exact Nat.eq_sqrt.2 ⟨lo, hi⟩
  | succ i ih =>
    rw [isqrtFrom]
    split
    · next h => exact ih _ h (by rwa [add_assoc, ← two_mul, ← pow_succ'])
    · next h => exact ih _ lo (not_le.1 h)

theorem isqrt_eq_sqrt (n : Nat) : isqrt n = Nat.sqrt n := by
  refine isqrtFrom_eq_sqrt _ _ (Nat.zero_le n) ((lt_two_pow_nbits n).trans_le ?_)
  rw [zero_add, ← pow_add]
  exact Nat.pow_le_pow_right two_pos (by omega)

/-- A significand and an even exponent for the dyadic m × 2^e. -/
theorem even_exponent (m : Nat) (e : Int) :
    ∃ (k : Nat) (h : Int), (if e % 2 = 0 then m else 2 * m) = k ∧ (if e % 2 = 0 then e else e - 1) = 2 * h ∧ (0 < m → 0 < k) ∧
      (m : ℝ) * 2 ^ e = k * (2 ^ h) ^ 2 := by
  have square : ∀ h : Int, ((2 : ℝ) ^ h) ^ 2 = 2 ^ (2 * h) := fun h => by rw [mul_comm, zpow_mul]; rfl
  by_cases he : e % 2 = 0
  · refine ⟨m, e / 2, if_pos he, by rw [if_pos he]; omega, id, ?_⟩
    rw [square, show 2 * (e / 2) = e by omega]
  · refine ⟨2 * m, (e - 1) / 2, if_neg he, by rw [if_neg he]; omega, fun h => by omega, ?_⟩
    rw [square, show e = 2 * ((e - 1) / 2) + 1 by omega, zpow_add_one₀ two_ne_zero]
    push_cast
    rw [show (2 * ((e - 1) / 2) + 1 - 1) / 2 = (e - 1) / 2 by omega]
    ring

/-- `sqrtOf` stands for the square root. -/
theorem sqrtOf_standsFor {f : FpFmt} (hf : f.Ieee) {m : Nat} (e : Int) (hm : 0 < m) :
    0 < (sqrtOf m e).1 ∧ StandsFor f (sqrtOf m e).1 (sqrtOf m e).2 (√(m * 2 ^ e)) := by
  obtain ⟨k, h, hk, he, pos, value⟩ := even_exponent m e
  have hpos : (0 : ℝ) < 2 ^ h := zpow_pos two_pos _
  have root : √(m * 2 ^ e) = √(k * 2 ^ 260 : ℕ) * 2 ^ (h - 130) := by
    rw [value, Real.sqrt_mul (Nat.cast_nonneg k), Real.sqrt_sq hpos.le, Nat.cast_mul, Real.sqrt_mul (Nat.cast_nonneg k),
      zpow_sub₀ two_ne_zero, show ((2 ^ 260 : ℕ) : ℝ) = (2 ^ 130) ^ 2 by rw [← pow_mul, Nat.cast_pow]; rfl, Real.sqrt_sq (by positivity)]
    norm_cast
    ring
  have large : 2 ^ 130 ≤ Nat.sqrt (k * 2 ^ 260) := by
    rw [Nat.le_sqrt, ← pow_add, show 130 + 130 = 260 from rfl]
    exact Nat.le_mul_of_pos_left _ (pos hm)
  have exactness : Nat.sqrt (k * 2 ^ 260) * Nat.sqrt (k * 2 ^ 260) = k * 2 ^ 260 ↔ √(k * 2 ^ 260 : ℕ) = Nat.sqrt (k * 2 ^ 260) := by
    rw [Real.sqrt_eq_iff_mul_self_eq (Nat.cast_nonneg _) (Nat.cast_nonneg _), ← Nat.cast_mul, Nat.cast_inj, eq_comm]
  simp only [sqrtOf, hk, he, isqrt_eq_sqrt, Int.mul_ediv_cancel_left h two_ne_zero, root]
  rw [show h - 131 = h - 130 - 1 by ring]
  exact ⟨by have := Nat.two_pow_pos 130; omega, standsFor_sticky hf _ (le_trans (by norm_num) large) Real.nat_sqrt_le_real_sqrt
    Real.real_sqrt_lt_nat_sqrt_succ exactness⟩

/-- `rsqrtOf` stands for the reciprocal of the square root. -/
theorem rsqrtOf_standsFor {f : FpFmt} (hf : f.Ieee) {m : Nat} (e : Int) (hm : 0 < m) :
    0 < (rsqrtOf m e).1 ∧ StandsFor f (rsqrtOf m e).1 (rsqrtOf m e).2 (1 / √(m * 2 ^ e)) := by
  obtain ⟨k, h, hk, he, pos, value⟩ := even_exponent m e
  have hpos : (0 : ℝ) < 2 ^ h := zpow_pos two_pos _
  have kpos := pos hm
  have kpos' : (0 : ℝ) < k := by exact_mod_cast kpos
  obtain ⟨p, hp⟩ : ∃ p, p = 130 + nbits k := ⟨_, rfl⟩
  have whole : (2 : ℝ) ^ p * 2 ^ p = (2 ^ (2 * p) : ℕ) := by rw [← pow_add, ← two_mul, Nat.cast_pow]; rfl
  have square : (2 ^ p / √k) * (2 ^ p / √k) = ((2 ^ (2 * p) : ℕ) : ℝ) / k := by
    rw [div_mul_div_comm, Real.mul_self_sqrt kpos'.le, whole]
  have root : 1 / √(m * 2 ^ e) = 2 ^ p / √k * 2 ^ (-h - p) := by
    rw [value, Real.sqrt_mul (Nat.cast_nonneg k), Real.sqrt_sq hpos.le, zpow_sub₀ two_ne_zero, zpow_neg, zpow_natCast]
    field_simp
  have large : 2 ^ 130 ≤ Nat.sqrt (2 ^ (2 * p) / k) := by
    rw [Nat.le_sqrt, Nat.le_div_iff_mul_le kpos, ← pow_add]
    have := (lt_two_pow_nbits k).le
    calc 2 ^ (130 + 130) * k ≤ 2 ^ (130 + 130) * 2 ^ nbits k := Nat.mul_le_mul_left _ this
      _ = 2 ^ (130 + 130 + nbits k) := (pow_add _ _ _).symm
      _ ≤ 2 ^ (2 * p) := Nat.pow_le_pow_right two_pos (by omega)
  have y_pos : 0 ≤ 2 ^ p / √(k : ℝ) := by positivity
  have floor := Nat.floor_div_eq_div (K := ℝ) (2 ^ (2 * p)) k
  have lo : (Nat.sqrt (2 ^ (2 * p) / k) : ℝ) ≤ 2 ^ p / √k := by
    rw [mul_self_le_mul_self_iff (Nat.cast_nonneg _) y_pos, square, ← Nat.cast_mul]
    exact le_trans (Nat.cast_le.2 (Nat.sqrt_le _)) (Nat.cast_div_le (m := 2 ^ (2 * p)))
  have hi : 2 ^ p / √k < (Nat.sqrt (2 ^ (2 * p) / k) : ℝ) + 1 := by
    refine lt_of_mul_self_lt_mul_self₀ (by positivity) ?_
    rw [square, ← Nat.cast_add_one, ← Nat.cast_mul]
    exact (Nat.floor_lt (by positivity)).1 (by rw [floor]; exact Nat.lt_succ_sqrt _)
  have exactness : Nat.sqrt (2 ^ (2 * p) / k) * Nat.sqrt (2 ^ (2 * p) / k) * k = 2 ^ (2 * p) ↔ 2 ^ p / √k = Nat.sqrt (2 ^ (2 * p) / k) := by
    rw [← mul_self_inj y_pos (Nat.cast_nonneg _), square, div_eq_iff kpos'.ne', ← Nat.cast_mul, ← Nat.cast_mul, Nat.cast_inj, eq_comm]
  simp only [rsqrtOf, hk, he, isqrt_eq_sqrt, Int.mul_ediv_cancel_left h two_ne_zero, root, ← hp]
  exact ⟨by have := Nat.two_pow_pos 130; omega, standsFor_sticky hf _ (le_trans (by norm_num) large) lo hi exactness⟩

/-! ## Rounded results -/

theorem exactly_zero_iff {f : FpFmt} {z : Bool} {r : Nat × Nat} : Claims.Exactly f 0 z r ↔ r = (f.signed z 0, 0) :=
  iff_of_eq (if_pos rfl)

theorem exactly_iff_of_ne {f : FpFmt} {v : ℚ} {z : Bool} {r : Nat × Nat} (h : v ≠ 0) : Claims.Exactly f v z r ↔ Claims.RoundsTo f (v : ℝ) r :=
  iff_of_eq (if_neg h)

/-- The sign that a zero would have matters for a zero only. -/
theorem Exactly.congr {f : FpFmt} {v w : ℚ} {z z' : Bool} {r : Nat × Nat} (h : Claims.Exactly f w z r) (hv : w = v)
    (hz : v = 0 → z = z') : Claims.Exactly f v z' r := by
  subst hv
  by_cases h0 : w = 0
  · exact hz h0 ▸ h
  · exact (exactly_iff_of_ne h0).2 ((exactly_iff_of_ne h0).1 h)

/-- R100, R102, R105: `rne` of a finite value. -/
theorem rne_exactly {f : FpFmt} (hf : f.Ieee) {w : XR} (hw : w.isFin = true) : Claims.Exactly f (Claims.value w) w.neg (rne f w) := by
  obtain ⟨n, m, e, rfl⟩ := XR.exists_of_isFin hw
  by_cases h : m = 0
  · rw [(value_fin_eq_zero_iff n m e).2 h, exactly_zero_iff, rne, roundFp, if_pos h, XR.neg]
  · rw [exactly_iff_of_ne (mt (value_fin_eq_zero_iff n m e).1 h), cast_value_fin]
    exact roundFp_roundsTo hf n (Nat.pos_of_ne_zero h) (.inl rfl)

theorem XR.isNan_of_isFin {x : XR} (h : x.isFin = true) : x.isNan = false := by
  obtain ⟨n, m, e, rfl⟩ := XR.exists_of_isFin h
  rfl

theorem XR.isSig_of_not_nan {x : XR} (h : x.isNan = false) : x.isSig = false := by
  cases x with
  | fin n m e => rfl
  | inf n => rfl
  | nan n s => exact absurd h.symm Bool.false_ne_true

section
variable (f : FpFmt) {ops : List XR}

/-- R133: a NaN operand gives the canonical NaN, with NV for a signalling one. -/
theorem fpResult_of_nan (res : XR) (h : ∃ x ∈ ops, x.isNan = true) :
    fpResult f ops res = (f.nanCode, if ops.any XR.isSig then fNV else 0) := by
  rw [fpResult, if_pos (List.any_eq_true.2 h)]
  simp only [rne, nvOf, List.any_eq_true.2 h, Bool.not_true, Bool.and_false, Bool.or_false, Nat.zero_or]

theorem nvOf_of_no_nan (res : XR) (h : ∀ x ∈ ops, x.isNan = false) : nvOf ops res = if res.isNan then fNV else 0 := by
  have no_sig : ops.any XR.isSig = false := List.any_eq_false.2 fun x hx => by rw [XR.isSig_of_not_nan (h x hx)]; exact Bool.false_ne_true
  have no_nan : ops.any XR.isNan = false := List.any_eq_false.2 fun x hx => by rw [h x hx]; exact Bool.false_ne_true
  simp only [nvOf, no_sig, no_nan, Bool.false_or, Bool.not_false, Bool.and_true]

theorem fpResult_of_no_nan (res : XR) (h : ∀ x ∈ ops, x.isNan = false) :
    fpResult f ops res = ((rne f res).1, (rne f res).2 ||| if res.isNan then fNV else 0) := by
  have no_nan : ¬ops.any XR.isNan = true := fun hn => by
    obtain ⟨x, hx, hxn⟩ := List.any_eq_true.1 hn
    exact Bool.false_ne_true ((h x hx).symm.trans hxn)
  rw [fpResult, if_neg no_nan, nvOf_of_no_nan res h]

/-- An invalid operation on operands that are no NaN (R133). -/
theorem fpResult_invalid (n s : Bool) (h : ∀ x ∈ ops, x.isNan = false) : fpResult f ops (.nan n s) = (f.nanCode, fNV) := by
  simp only [fpResult_of_no_nan f _ h, rne, XR.isNan, if_true, Nat.zero_or]

theorem fpResult_inf (n : Bool) (h : ∀ x ∈ ops, x.isNan = false) : fpResult f ops (.inf n) = (f.signed n f.infCode, 0) := by
  simp only [fpResult_of_no_nan f _ h, rne, XR.isNan, Bool.false_eq_true, if_false, Nat.zero_or]

theorem fpResult_exactly (hf : f.Ieee) {w : XR} {v : ℚ} {z : Bool} (h : ∀ x ∈ ops, x.isNan = false) (hw : w.isFin = true)
    (hv : Claims.value w = v) (hz : v = 0 → w.neg = z) : Claims.Exactly f v z (fpResult f ops w) := by
  rw [fpResult_of_no_nan f _ h, XR.isNan_of_isFin hw, if_neg Bool.false_ne_true, Nat.or_zero]
  exact Exactly.congr (rne_exactly hf hw) hv hz

end

end Sys2Proof.Machine
end

section
/-! O59: the operations of the lanes round their exact value, and answer zeros, infinities and NaNs by rule (R133, R134, R136, R137, R139). -/

namespace Sys2Proof.Machine

/-! ## Sums and products with an infinity or a NaN (R133) -/

theorem XR.ne_inf_of_isFin {x : XR} (h : x.isFin = true) (p : Bool) : x ≠ .inf p := by
  rintro rfl
  exact Bool.false_ne_true h

theorem XR.inf_add {y : XR} (p : Bool) (hn : y.isNan = false) (hy : y ≠ .inf (!p)) : (XR.inf p).add y = .inf p := by
  cases y with
  | fin n m e => rfl
  | nan n s => exact absurd hn.symm Bool.false_ne_true
  | inf n =>
    have same : n = p := by
      by_contra h
      exact hy (congrArg XR.inf (Bool.eq_not.2 h))
    rw [same]
    cases p <;> rfl

theorem XR.add_inf_comm {x : XR} (p : Bool) (hn : x.isNan = false) : x.add (.inf p) = (XR.inf p).add x := by
  cases x with
  | fin n m e => rfl
  | nan n s => exact absurd hn.symm Bool.false_ne_true
  | inf n => cases n <;> cases p <;> rfl

theorem XR.add_inf {x : XR} (p : Bool) (hn : x.isNan = false) (hx : x ≠ .inf (!p)) : x.add (.inf p) = .inf p := by
  rw [XR.add_inf_comm p hn, XR.inf_add p hn hx]

theorem XR.inf_add_inf_not (p : Bool) : (XR.inf p).add (.inf (!p)) = .nan false false := by cases p <;> rfl

theorem XR.isNan_add {x y : XR} (h : x.isNan = true ∨ y.isNan = true) : (x.add y).isNan = true := by
  cases x with
  | nan n s => cases y <;> rfl
  | fin n m e => cases y with
    | nan k t => rfl
    | _ => simp [XR.isNan] at h
  | inf n => cases y with
    | nan k t => rfl
    | _ => simp [XR.isNan] at h

theorem XR.exists_of_isNan {x : XR} (h : x.isNan = true) : ∃ n s, x = .nan n s := by
  cases x with
  | nan n s => exact ⟨n, s, rfl⟩
  | fin n m e => exact absurd h Bool.false_ne_true
  | inf n => exact absurd h Bool.false_ne_true

/-- A sum that is a NaN of no NaN is that of opposite infinities. -/
theorem XR.eq_inf_of_isNan_add {x y : XR} (hx : x.isNan = false) (hy : y.isNan = false) (h : (x.add y).isNan = true) :
    ∃ n, x = .inf n ∧ y = .inf (!n) := by
  cases x with
  | nan n s => exact absurd hx.symm Bool.false_ne_true
  | fin n m e => cases y with
    | nan k t => exact absurd hy.symm Bool.false_ne_true
    | fin k j i => exact absurd ((XR.isNan_of_isFin (XR.add_fin rfl rfl).1).symm.trans h) Bool.false_ne_true
    | inf k => exact absurd h Bool.false_ne_true
  | inf n =>
    refine ⟨n, rfl, ?_⟩
    by_contra hne
    rw [XR.inf_add n hy hne] at h
    exact Bool.false_ne_true h

/-- A sum that is no NaN is an infinity just where one of its terms is it. -/
theorem XR.add_eq_inf_iff {x y : XR} (h : (x.add y).isNan = false) (n : Bool) : x.add y = .inf n ↔ x = .inf n ∨ y = .inf n := by
  have hx : x.isNan = false := Bool.eq_false_of_not_eq_true fun hx => Bool.false_ne_true (h.symm.trans (XR.isNan_add (.inl hx)))
  have hy : y.isNan = false := Bool.eq_false_of_not_eq_true fun hy => Bool.false_ne_true (h.symm.trans (XR.isNan_add (.inr hy)))
  constructor
  · intro he
    by_contra hne
    obtain ⟨hxn, hyn⟩ := not_or.1 hne
    cases x with
    | nan k s => exact Bool.false_ne_true hx.symm
    | inf k =>
      have hyk : y ≠ .inf (!k) := by
        rintro rfl
        rw [XR.inf_add_inf_not] at h
        exact Bool.false_ne_true h.symm
      exact hxn ((XR.inf_add k hy hyk).symm.trans he)
    | fin k m e => cases y with
      | nan k s => exact Bool.false_ne_true hy.symm
      | inf k => exact hyn he
      | fin k j i => exact XR.ne_inf_of_isFin (XR.add_fin rfl rfl).1 n he
  · rintro (rfl | rfl)
    · refine XR.inf_add n hy ?_
      rintro rfl
      rw [XR.inf_add_inf_not] at h
      exact Bool.false_ne_true h.symm
    · refine XR.add_inf n hx ?_
      rintro rfl
      rw [← Bool.not_not n, Bool.not_not (!n), XR.inf_add_inf_not] at h
      exact Bool.false_ne_true h.symm

theorem XR.isNan_flip (x : XR) : x.flip.isNan = x.isNan := by cases x <;> rfl

theorem XR.isSig_flip (x : XR) : x.flip.isSig = x.isSig := by cases x <;> rfl

theorem XR.isZero_fin_iff (n : Bool) (m : Nat) (e : Int) : (XR.fin n m e).isZero = true ↔ m = 0 := by
  cases m with
  | zero => exact iff_of_true rfl rfl
  | succ k => exact iff_of_false Bool.false_ne_true (Nat.succ_ne_zero k)

theorem XR.exists_of_isZero {x : XR} (h : x.isZero = true) : ∃ n e, x = .fin n 0 e := by
  cases x with
  | fin n m e => exact ⟨n, e, by rw [(XR.isZero_fin_iff n m e).1 h]⟩
  | inf n => exact absurd h Bool.false_ne_true
  | nan n s => exact absurd h Bool.false_ne_true

/-- R133: 0 × ∞ is a NaN. -/
theorem XR.mul_of_zeroTimesInf {x y : XR} (h : Claims.ZeroTimesInf x y) : x.mul y = .nan false false := by
  obtain ⟨n, rfl, hy⟩ | ⟨n, rfl, hx⟩ := h
  · obtain ⟨k, e, rfl⟩ := XR.exists_of_isZero hy
    rfl
  · obtain ⟨k, e, rfl⟩ := XR.exists_of_isZero hx
    rfl

theorem XR.isNan_mul_of_zeroTimesInf {x y : XR} (h : Claims.ZeroTimesInf x y) : (x.mul y).isNan = true := by
  rw [XR.mul_of_zeroTimesInf h]
  rfl

theorem not_nan_of_zeroTimesInf {x y : XR} (h : Claims.ZeroTimesInf x y) : x.isNan = false ∧ y.isNan = false := by
  obtain ⟨n, rfl, hy⟩ | ⟨n, rfl, hx⟩ := h
  · obtain ⟨k, e, rfl⟩ := XR.exists_of_isZero hy
    exact ⟨rfl, rfl⟩
  · obtain ⟨k, e, rfl⟩ := XR.exists_of_isZero hx
    exact ⟨rfl, rfl⟩

theorem XR.inf_mul {y : XR} (p : Bool) (hn : y.isNan = false) (hy : y.isZero = false) : (XR.inf p).mul y = .inf (p != y.neg) := by
  cases y with
  | fin n m e =>
    have hm : m ≠ 0 := fun h => Bool.false_ne_true (hy.symm.trans ((XR.isZero_fin_iff n m e).2 h))
    simp only [XR.mul, if_neg hm, XR.neg]
  | inf n => rfl
  | nan n s => exact absurd hn.symm Bool.false_ne_true

theorem XR.mul_inf {x : XR} (p : Bool) (hn : x.isNan = false) (hx : x.isZero = false) : x.mul (.inf p) = .inf (x.neg != p) := by
  have comm : x.mul (.inf p) = (XR.inf p).mul x := by
    cases x with
    | fin n m e => simp only [XR.mul, bne_comm (a := n) (b := p)]
    | inf n => simp only [XR.mul, bne_comm (a := n) (b := p)]
    | nan n s => rfl
  rw [comm, XR.inf_mul p hn hx, bne_comm]

/-- R133: a product of an infinity and anything but a zero or a NaN. -/
theorem XR.mul_of_inf {x y : XR} (h : ∃ p, x = .inf p ∨ y = .inf p) (hx : x.isNan = false) (hy : y.isNan = false)
    (hz : ¬Claims.ZeroTimesInf x y) : x.mul y = .inf (x.neg != y.neg) := by
  obtain ⟨p, rfl | rfl⟩ := h
  · exact XR.inf_mul p hy (Bool.eq_false_of_not_eq_true fun h => hz (.inl ⟨p, rfl, h⟩))
  · exact XR.mul_inf p hx (Bool.eq_false_of_not_eq_true fun h => hz (.inr ⟨p, rfl, h⟩))

/-- A product that is a NaN of no NaN is 0 × ∞. -/
theorem XR.isNan_mul {x y : XR} (hx : x.isNan = false) (hy : y.isNan = false) (hz : ¬Claims.ZeroTimesInf x y) : (x.mul y).isNan = false := by
  by_cases h : ∃ p, x = .inf p ∨ y = .inf p
  · rw [XR.mul_of_inf h hx hy hz]
    rfl
  · cases x with
    | inf n => exact absurd ⟨n, .inl rfl⟩ h
    | nan n s => exact absurd hx.symm Bool.false_ne_true
    | fin n m e =>
      cases y with
      | inf k => exact absurd ⟨k, .inr rfl⟩ h
      | nan k s => exact absurd hy.symm Bool.false_ne_true
      | fin k j i => rfl

/-! ## Sums, products and fused sums of codes (R133) -/

section
variable {f : FpFmt} {a b c : Nat}

theorem no_nan_pair {x y : XR} (hx : x.isNan = false) (hy : y.isNan = false) : ∀ w ∈ [x, y], w.isNan = false :=
  List.forall_mem_cons.2 ⟨hx, List.forall_mem_singleton.2 hy⟩

theorem no_nan_triple {x y z : XR} (hx : x.isNan = false) (hy : y.isNan = false) (hz : z.isNan = false) : ∀ w ∈ [x, y, z], w.isNan = false :=
  List.forall_mem_cons.2 ⟨hx, no_nan_pair hy hz⟩

/-- Whatever the operands, a NaN has the canonical code, and no flag but NV. -/
theorem fpResult_of_nan_result (f : FpFmt) (ops : List XR) {res : XR} (h : res.isNan = true) :
    (fpResult f ops res).1 = f.nanCode ∧ (fpResult f ops res).2 ||| fNV = fNV := by
  obtain ⟨n, s, h⟩ : ∃ n s, (if ops.any XR.isNan then XR.nan false false else res) = .nan n s := by
    split
    · exact ⟨_, _, rfl⟩
    · exact XR.exists_of_isNan h
  simp only [fpResult, h, rne, nvOf, true_and]
  split <;> rfl

/-- The finite clause of sums, differences and products: the exact value, rounded. -/
theorem sums_and_products_exactly (hf : f.Ieee) (hx : (decodeFp f a).isFin = true) (hy : (decodeFp f b).isFin = true) :
    let x := decodeFp f a
    let y := decodeFp f b
    Claims.Exactly f (Claims.value x + Claims.value y) (x.neg && y.neg) (faddOp f a b) ∧
      Claims.Exactly f (Claims.value x - Claims.value y) (x.neg && !y.neg) (fsubOp f a b) ∧
      Claims.Exactly f (Claims.value x * Claims.value y) (x.neg != y.neg) (fmulOp f a b) := by
  have ops := no_nan_pair (XR.isNan_of_isFin hx) (XR.isNan_of_isFin hy)
  obtain ⟨sum_fin, sum, sum_neg⟩ := XR.add_fin hx hy
  obtain ⟨flip_fin, flip, flip_neg⟩ := value_flip hy
  obtain ⟨diff_fin, diff, diff_neg⟩ := XR.add_fin hx flip_fin
  obtain ⟨prod_fin, prod, prod_neg⟩ := XR.mul_fin hx hy
  rw [flip, ← sub_eq_add_neg] at diff diff_neg
  rw [flip_neg] at diff_neg
  exact ⟨fpResult_exactly f hf ops sum_fin sum sum_neg, fpResult_exactly f hf ops diff_fin diff diff_neg,
    fpResult_exactly f hf ops prod_fin prod fun _ => prod_neg⟩

/-- `ffma` without 0 × ∞ is the sum of the product and c. -/
theorem ffmaOp_eq (h : ¬Claims.ZeroTimesInf (decodeFp f a) (decodeFp f b)) :
    ffmaOp f a b c = fpResult f [decodeFp f a, decodeFp f b, decodeFp f c] (((decodeFp f a).mul (decodeFp f b)).add (decodeFp f c)) := by
  have guard : ((((decodeFp f a).mul (decodeFp f b)).isNan && !(decodeFp f a).isNan) && !(decodeFp f b).isNan) = false := by
    cases hx : (decodeFp f a).isNan <;> cases hy : (decodeFp f b).isNan <;> simp [XR.isNan_mul, hx, hy, h]
  simp only [ffmaOp, guard, Bool.false_eq_true, if_false, Nat.or_zero]

theorem fmulOp_of_zeroTimesInf (h : Claims.ZeroTimesInf (decodeFp f a) (decodeFp f b)) : fmulOp f a b = (f.nanCode, fNV) := by
  obtain ⟨hx, hy⟩ := not_nan_of_zeroTimesInf h
  simp only [fmulOp, XR.mul_of_zeroTimesInf h]
  exact fpResult_invalid f _ _ (no_nan_pair hx hy)

/-- `ffma` of 0 × ∞ is invalid whatever c is (R133). -/
theorem ffmaOp_of_zeroTimesInf (h : Claims.ZeroTimesInf (decodeFp f a) (decodeFp f b)) : ffmaOp f a b c = (f.nanCode, fNV) := by
  obtain ⟨hx, hy⟩ := not_nan_of_zeroTimesInf h
  have guard : ((((decodeFp f a).mul (decodeFp f b)).isNan && !(decodeFp f a).isNan) && !(decodeFp f b).isNan) = true := by
    rw [hx, hy, XR.isNan_mul_of_zeroTimesInf h]
    rfl
  obtain ⟨code, flags⟩ := fpResult_of_nan_result f [decodeFp f a, decodeFp f b, decodeFp f c] (XR.isNan_add (y := decodeFp f c) (.inl (XR.isNan_mul_of_zeroTimesInf h)))
  simp only [ffmaOp, guard, if_true, code, flags]

theorem not_zeroTimesInf_of_isFin {x y : XR} (hx : x.isFin = true) (hy : y.isFin = true) : ¬Claims.ZeroTimesInf x y := by
  rintro (⟨n, rfl, -⟩ | ⟨n, rfl, -⟩)
  · exact Bool.false_ne_true hx
  · exact Bool.false_ne_true hy

theorem XR.isNan_eq_false_of_inf {x : XR} {p : Bool} (h : x = .inf p) : x.isNan = false := by
  rw [h]
  rfl

/-- A fused sum of finite codes. -/
theorem ffmaOp_exactly (hf : f.Ieee) (hx : (decodeFp f a).isFin = true) (hy : (decodeFp f b).isFin = true) (hz : (decodeFp f c).isFin = true) :
    let x := decodeFp f a
    let y := decodeFp f b
    let z := decodeFp f c
    Claims.Exactly f (Claims.value x * Claims.value y + Claims.value z) ((x.neg != y.neg) && z.neg) (ffmaOp f a b c) := by
  obtain ⟨prod_fin, prod, prod_neg⟩ := XR.mul_fin hx hy
  obtain ⟨sum_fin, sum, sum_neg⟩ := XR.add_fin prod_fin hz
  rw [prod] at sum sum_neg
  rw [prod_neg] at sum_neg
  rw [ffmaOp_eq (not_zeroTimesInf_of_isFin hx hy)]
  exact fpResult_exactly f hf (no_nan_triple (XR.isNan_of_isFin hx) (XR.isNan_of_isFin hy) (XR.isNan_of_isFin hz)) sum_fin sum sum_neg

theorem ffmaOp_add_inf {p : Bool} (hx : (decodeFp f a).isFin = true) (hy : (decodeFp f b).isFin = true) (hz : decodeFp f c = .inf p) :
    ffmaOp f a b c = (f.signed p f.infCode, 0) := by
  have prod_fin := (XR.mul_fin hx hy).1
  rw [ffmaOp_eq (not_zeroTimesInf_of_isFin hx hy), hz, XR.add_inf p (XR.isNan_of_isFin prod_fin) (XR.ne_inf_of_isFin prod_fin _)]
  exact fpResult_inf f p (no_nan_triple (XR.isNan_of_isFin hx) (XR.isNan_of_isFin hy) rfl)

/-- R133: sums and differences with a first infinity. -/
theorem sums_of_inf {p : Bool} (hx : decodeFp f a = .inf p) :
    ((decodeFp f b).isFin = true → faddOp f a b = (f.signed p f.infCode, 0) ∧ fsubOp f a b = (f.signed p f.infCode, 0)) ∧
      (decodeFp f b = .inf p → faddOp f a b = (f.signed p f.infCode, 0) ∧ fsubOp f a b = (f.nanCode, fNV)) ∧
      (decodeFp f b = .inf (!p) → faddOp f a b = (f.nanCode, fNV) ∧ fsubOp f a b = (f.signed p f.infCode, 0)) := by
  simp only [faddOp, fsubOp, hx]
  refine ⟨fun hy => ?_, fun hy => ?_, fun hy => ?_⟩
  · have hn := XR.isNan_of_isFin hy
    rw [XR.inf_add p hn (XR.ne_inf_of_isFin hy _), XR.inf_add p ((XR.isNan_flip _).trans hn) (XR.ne_inf_of_isFin (value_flip hy).1 _)]
    exact ⟨fpResult_inf f p (no_nan_pair rfl hn), fpResult_inf f p (no_nan_pair rfl hn)⟩
  · rw [hy, XR.inf_add p rfl (by simp), XR.flip, XR.inf_add_inf_not]
    exact ⟨fpResult_inf f p (no_nan_pair rfl rfl), fpResult_invalid f _ _ (no_nan_pair rfl rfl)⟩
  · rw [hy, XR.inf_add_inf_not, XR.flip, Bool.not_not, XR.inf_add p rfl (by simp)]
    exact ⟨fpResult_invalid f _ _ (no_nan_pair rfl rfl), fpResult_inf f p (no_nan_pair rfl rfl)⟩

theorem sums_of_fin_inf {q : Bool} (hx : (decodeFp f a).isFin = true) (hy : decodeFp f b = .inf q) :
    faddOp f a b = (f.signed q f.infCode, 0) ∧ fsubOp f a b = (f.signed (!q) f.infCode, 0) := by
  have hn := XR.isNan_of_isFin hx
  have ops := no_nan_pair hn (y := .inf q) rfl
  simp only [faddOp, fsubOp, hy, XR.flip, XR.add_inf q hn (XR.ne_inf_of_isFin hx _), XR.add_inf (!q) hn (XR.ne_inf_of_isFin hx _)]
  exact ⟨fpResult_inf f q ops, fpResult_inf f (!q) ops⟩

/-- R133: a product with an infinity, alone and in a fused sum. -/
theorem products_of_inf (h : ∃ p, decodeFp f a = .inf p ∨ decodeFp f b = .inf p) (hx : (decodeFp f a).isNan = false)
    (hy : (decodeFp f b).isNan = false) (hz : ¬Claims.ZeroTimesInf (decodeFp f a) (decodeFp f b)) :
    let n := (decodeFp f a).neg != (decodeFp f b).neg
    fmulOp f a b = (f.signed n f.infCode, 0) ∧ (decodeFp f c = .inf (!n) → ffmaOp f a b c = (f.nanCode, fNV)) ∧
      ((decodeFp f c).isFin = true ∨ decodeFp f c = .inf n → ffmaOp f a b c = (f.signed n f.infCode, 0)) := by
  intro n
  rw [ffmaOp_eq hz]
  simp only [fmulOp, XR.mul_of_inf h hx hy hz]
  refine ⟨fpResult_inf f n (no_nan_pair hx hy), fun hc => ?_, fun hc => ?_⟩
  · rw [hc, XR.inf_add_inf_not]
    exact fpResult_invalid f _ _ (no_nan_triple hx hy rfl)
  · have other : (decodeFp f c).isNan = false ∧ decodeFp f c ≠ .inf (!n) := by
      rcases hc with hc | hc
      · exact ⟨XR.isNan_of_isFin hc, XR.ne_inf_of_isFin hc _⟩
      · rw [hc]
        exact ⟨rfl, by simp⟩
    rw [XR.inf_add _ other.1 other.2]
    exact fpResult_inf f n (no_nan_triple hx hy other.1)

/-! ## NaN operands (R95, R133) -/

theorem fpResult_pair_of_nan {x y : XR} (res : XR) (h : x.isNan = true ∨ y.isNan = true) :
    fpResult f [x, y] res = (f.nanCode, if x.isSig || y.isSig then fNV else 0) := by
  rw [fpResult_of_nan f res (by simpa using h)]
  simp

theorem fdivOp_of_nan (h : (decodeFp f a).isNan = true ∨ (decodeFp f b).isNan = true) :
    fdivOp f a b = (f.nanCode, if (decodeFp f a).isSig || (decodeFp f b).isSig then fNV else 0) := by
  unfold fdivOp
  generalize decodeFp f a = x at *
  generalize decodeFp f b = y at *
  cases x with
  | nan n s => rfl
  | fin n m e =>
    cases y with
    | nan k t => rfl
    | _ => simp [XR.isNan] at h
  | inf n =>
    cases y with
    | nan k t => rfl
    | _ => simp [XR.isNan] at h

theorem ffmaOp_of_nan (h : (decodeFp f a).isNan = true ∨ (decodeFp f b).isNan = true ∨ (decodeFp f c).isNan = true)
    (hz : ¬Claims.ZeroTimesInf (decodeFp f a) (decodeFp f b)) :
    ffmaOp f a b c =
      (f.nanCode, if (decodeFp f a).isSig || (decodeFp f b).isSig || (decodeFp f c).isSig then fNV else 0) := by
  rw [ffmaOp_eq hz, fpResult_of_nan f _ (by simpa using h)]
  simp [Bool.or_assoc]

/-! ## Quotients (R133) -/

theorem signFactor_mul (a b : Bool) : signFactor a * signFactor b = signFactor (a != b) := by cases a <;> cases b <;> simp

theorem signFactor_inv (a : Bool) : (signFactor a)⁻¹ = signFactor a := by cases a <;> simp

theorem fdivOp_exactly (hf : f.Ieee) (hx : (decodeFp f a).isFin = true) (hy : (decodeFp f b).isFin = true) (h0 : (decodeFp f b).isZero = false) :
    let x := decodeFp f a
    let y := decodeFp f b
    Claims.Exactly f (Claims.value x / Claims.value y) (x.neg != y.neg) (fdivOp f a b) := by
  obtain ⟨n, m, e, hx⟩ := XR.exists_of_isFin hx
  obtain ⟨p, k, j, hy⟩ := XR.exists_of_isFin hy
  have hk : k ≠ 0 := fun h => Bool.false_ne_true (h0.symm.trans (hy ▸ (XR.isZero_fin_iff p k j).2 h))
  simp only [fdivOp, hx, hy, XR.neg, if_neg hk]
  by_cases hm : m = 0
  · rw [if_pos hm, (value_fin_eq_zero_iff n m e).2 hm, zero_div, exactly_zero_iff]
  · have nonzero : Claims.value (.fin n m e) / Claims.value (.fin p k j) ≠ 0 :=
      div_ne_zero (mt (value_fin_eq_zero_iff n m e).1 hm) (mt (value_fin_eq_zero_iff p k j).1 hk)
    obtain ⟨pos, stands⟩ := quotient_standsFor hf e j (Nat.pos_of_ne_zero hm) (Nat.pos_of_ne_zero hk)
    have value : ((Claims.value (.fin n m e) / Claims.value (.fin p k j) : ℚ) : ℝ) = signFactor (n != p) * (m * 2 ^ e / (k * 2 ^ j)) := by
      rw [Rat.cast_div, cast_value_fin, cast_value_fin, mul_div_mul_comm, div_eq_mul_inv (signFactor n), signFactor_inv, signFactor_mul]
    rw [if_neg hm, exactly_iff_of_ne nonzero, value]
    exact roundFp_roundsTo hf _ pos stands

theorem fdivOp_by_zero (hx : (decodeFp f a).isFin = true) (h0 : (decodeFp f b).isZero = true) :
    fdivOp f a b = if (decodeFp f a).isZero then (f.nanCode, fNV)
      else (f.signed ((decodeFp f a).neg != (decodeFp f b).neg) f.infCode, fDZ) := by
  obtain ⟨n, m, e, hx⟩ := XR.exists_of_isFin hx
  obtain ⟨p, j, hy⟩ := XR.exists_of_isZero h0
  simp only [fdivOp, hx, hy, XR.neg, if_true, XR.isZero_fin_iff]
  rfl

theorem fdivOp_of_inf {p : Bool} (hx : decodeFp f a = .inf p) :
    ((decodeFp f b).isFin = true → fdivOp f a b = (f.signed ((decodeFp f a).neg != (decodeFp f b).neg) f.infCode, 0)) ∧
      ∀ q, decodeFp f b = .inf q → fdivOp f a b = (f.nanCode, fNV) := by
  refine ⟨fun hy => ?_, fun q hy => ?_⟩
  · obtain ⟨n, m, e, hy⟩ := XR.exists_of_isFin hy
    simp only [fdivOp, hx, hy]
  · simp only [fdivOp, hx, hy, nanNv]

theorem fdivOp_by_inf {q : Bool} (hx : (decodeFp f a).isFin = true) (hy : decodeFp f b = .inf q) :
    fdivOp f a b = (f.signed ((decodeFp f a).neg != (decodeFp f b).neg) 0, 0) := by
  obtain ⟨n, m, e, hx⟩ := XR.exists_of_isFin hx
  simp only [fdivOp, hx, hy]

end

end Sys2Proof.Machine
end

section
/-! O59, O8: order, class and functions of one operand (R134, R136, R137), exact values (R95, R133, R135), the sum of two products (R139). -/

namespace Sys2Proof.Machine

/-! ## Order (R134) -/

section
variable {f : FpFmt} {a b c : Nat}

theorem FpFmt.infCode_pos (hf : f.Ieee) : 0 < f.infCode := by
  have two := hf.two_le
  exact Nat.mul_pos (by omega) (Nat.two_pow_pos _)

theorem FpFmt.sigOf_eq_zero_iff (k : Nat) : f.sigOf k = 0 ↔ k = 0 := by
  have := Nat.two_pow_pos f.mw
  rw [FpFmt.sigOf]
  split <;> omega

theorem isZero_decodeFp (hf : f.Ieee) (c : Nat) : (decodeFp f c).isZero = true ↔ f.magOf c = 0 := by
  have pos := FpFmt.infCode_pos hf
  rw [decodeFp_eq hf]
  split
  · rw [XR.isZero_fin_iff, f.sigOf_eq_zero_iff]
  · split <;> exact iff_of_false Bool.false_ne_true (by omega)

/-- A code that is no NaN is a finite value or an infinity. -/
theorem decodeFp_of_not_nan (hf : f.Ieee) (h : (decodeFp f c).isNan = false) :
    f.magOf c < f.infCode ∧ decodeFp f c = .fin (f.signOf c) (f.sigOf (f.magOf c)) (f.expOf (f.magOf c)) ∨
      f.magOf c = f.infCode ∧ decodeFp f c = .inf (f.signOf c) := by
  have le : ¬f.infCode < f.magOf c := fun hlt => Bool.false_ne_true (h.symm.trans ((isNan_decodeFp hf c).2 hlt))
  rcases lt_or_eq_of_le (not_lt.1 le) with hlt | heq
  · exact .inl ⟨hlt, decodeFp_fin hf hlt⟩
  · refine .inr ⟨heq, ?_⟩
    rw [decodeFp_eq hf, if_neg (by omega), if_pos heq]

/-- Codes that are no NaN are ordered by sign and magnitude, an infinity's magnitude past every finite one. -/
theorem lt_decodeFp_iff (hf : f.Ieee) (ha : (decodeFp f a).isNan = false) (hb : (decodeFp f b).isNan = false) :
    (decodeFp f a).lt (decodeFp f b) = true ↔
      signFactor (f.signOf a) * f.magValue (f.magOf a) < signFactor (f.signOf b) * f.magValue (f.magOf b) := by
  have finite : ∀ n {k}, k < f.infCode → |signFactor n * f.magValue k| < f.magValue f.infCode := fun n k hk => by
    rw [abs_signFactor_mul, abs_of_nonneg (f.magValue_nonneg k)]
    exact f.magValue_strictMono hk
  rcases decodeFp_of_not_nan hf ha with ⟨ka, hx⟩ | ⟨ka, hx⟩ <;> rcases decodeFp_of_not_nan hf hb with ⟨kb, hy⟩ | ⟨kb, hy⟩
  · rw [hx, hy, lt_fin_iff, ← hx, ← hy, ← Rat.cast_lt (K := ℝ), value_decodeFp hf ka, value_decodeFp hf kb]
    rfl
  · rw [hx, hy, kb, lt_signFactor_mul_iff (finite _ ka), XR.lt, Bool.not_eq_true']
  · rw [hx, hy, ka, signFactor_mul_lt_iff (finite _ kb), XR.lt]
  · have inf_pos := FpFmt.magValue_pos (f := f) (FpFmt.infCode_pos hf).ne'
    rw [hx, hy, ka, kb, mul_lt_mul_iff_left₀ inf_pos, XR.lt]
    cases f.signOf a <;> cases f.signOf b <;> norm_num

theorem place_eq (c : Nat) : Claims.place f c = if f.signOf c then -(f.magOf c : Int) - 1 else f.magOf c := by
  simp [Claims.place, FpFmt.signOf, FpFmt.magOf]

/-- The model's order, −0 before +0, is that of places. -/
theorem less_iff_place (hf : f.Ieee) (ha : (decodeFp f a).isNan = false) (hb : (decodeFp f b).isNan = false) :
    ((decodeFp f a).lt (decodeFp f b) ||
        ((((decodeFp f a).isZero && (decodeFp f b).isZero) && (decodeFp f a).neg) && !(decodeFp f b).neg)) = true ↔
      Claims.place f a < Claims.place f b := by
  simp only [Bool.or_eq_true, Bool.and_eq_true, Bool.not_eq_true', lt_decodeFp_iff hf ha hb, isZero_decodeFp hf, neg_decodeFp hf, place_eq]
  have nonneg_a := f.magValue_nonneg (f.magOf a)
  have nonneg_b := f.magValue_nonneg (f.magOf b)
  cases f.signOf a <;> cases f.signOf b
  · simp [f.magValue_strictMono.lt_iff_lt]
  · simp only [signFactor_false, signFactor_true, one_mul, neg_one_mul, Bool.true_eq_false, and_false, or_false, Bool.false_eq_true, if_false,
      if_true]
    exact iff_of_false (by linarith) (by omega)
  · simp only [signFactor_false, signFactor_true, one_mul, neg_one_mul, and_true, Bool.false_eq_true, if_false, if_true]
    refine iff_of_true (or_iff_not_imp_right.2 fun hne => ?_) (by omega)
    rcases not_and_or.1 hne with ha0 | hb0
    · linarith [FpFmt.magValue_pos (f := f) ha0]
    · linarith [FpFmt.magValue_pos (f := f) hb0]
  · simp [f.magValue_strictMono.lt_iff_lt]

/-- R134: of two operands that are no NaN, the one that comes first or last. -/
theorem fpMinMax_of_not_nan (hf : f.Ieee) (ha : (decodeFp f a).isNan = false) (hb : (decodeFp f b).isNan = false) :
    fpMinMax f false a b = (if Claims.place f a < Claims.place f b then a else b, 0) ∧
      fpMinMax f true a b = (if Claims.place f a < Claims.place f b then b else a, 0) := by
  have less := less_iff_place hf ha hb
  simp only [fpMinMax, ha, hb, XR.isSig_of_not_nan ha, XR.isSig_of_not_nan hb, Bool.and_self, Bool.or_self, Bool.false_eq_true, if_false]
  by_cases h : Claims.place f a < Claims.place f b
  · rw [less.2 h, if_pos h, if_pos h]
    exact ⟨rfl, rfl⟩
  · rw [Bool.eq_false_of_not_eq_true (mt less.1 h), if_neg h, if_neg h]
    exact ⟨rfl, rfl⟩

theorem place_lt_of_value_lt (hf : f.Ieee) (ha : (decodeFp f a).isFin = true) (hb : (decodeFp f b).isFin = true)
    (h : Claims.value (decodeFp f a) < Claims.value (decodeFp f b)) : Claims.place f a < Claims.place f b := by
  have lt : (decodeFp f a).lt (decodeFp f b) = true := by
    obtain ⟨n, m, e, hx⟩ := XR.exists_of_isFin ha
    obtain ⟨p, k, j, hy⟩ := XR.exists_of_isFin hb
    rw [hx, hy] at h ⊢
    exact (lt_fin_iff n p m k e j).2 h
  exact (less_iff_place hf (XR.isNan_of_isFin ha) (XR.isNan_of_isFin hb)).1 (by rw [lt, Bool.true_or])

/-- R134: of one NaN the other operand, of two the canonical one. -/
theorem fpMinMax_of_nan (f : FpFmt) (a b : Nat) (big : Bool) :
    let nv := if (decodeFp f a).isSig || (decodeFp f b).isSig then fNV else 0
    ((decodeFp f a).isNan = true → (decodeFp f b).isNan = true → fpMinMax f big a b = (f.nanCode, nv)) ∧
      ((decodeFp f a).isNan = true → (decodeFp f b).isNan = false → fpMinMax f big a b = (b, nv)) ∧
      ((decodeFp f a).isNan = false → (decodeFp f b).isNan = true → fpMinMax f big a b = (a, nv)) := by
  refine ⟨fun ha hb => ?_, fun ha hb => ?_, fun ha hb => ?_⟩ <;>
    simp only [fpMinMax, ha, hb, Bool.and_self, Bool.and_false, Bool.and_true, Bool.false_eq_true, if_true, if_false]

/-! ## Classes (R137) -/

/-- A finite code is subnormal, or zero, just below the smallest normal. -/
theorem sub_iff (hf : f.Ieee) (h : f.magOf c < f.infCode) :
    c / 2 ^ f.mw % 2 ^ f.ew = 0 ↔ |Claims.value (decodeFp f c)| < (2 : ℚ) ^ (1 - (f.bias : ℤ)) := by
  have normal : f.magValue (2 ^ f.mw) = ((2 : ℚ) ^ (1 - (f.bias : ℤ)) : ℚ) := by
    have := f.magValue_normal (x := 1) (m := 0) le_rfl (Nat.two_pow_pos _)
    rw [one_mul, add_zero] at this
    rw [this]
    push_cast
    rw [← zpow_natCast, ← zpow_add₀ two_ne_zero]
    congr 1
    ring
  have abs : |signFactor (f.signOf c) * f.magValue (f.magOf c)| = f.magValue (f.magOf c) := by
    rw [abs_signFactor_mul, abs_of_nonneg (f.magValue_nonneg _)]
  have value := value_decodeFp hf h
  rw [← signFactor] at value
  rw [← Rat.cast_lt (K := ℝ), Rat.cast_abs, value, abs, ← normal, f.magValue_strictMono.lt_iff_lt, f.exponent_eq, Nat.div_eq_zero_iff]
  have := Nat.two_pow_pos f.mw
  omega

/-- R137: `fclass` sets the bit of the operand's class. -/
theorem fclassOp_eq (hf : f.Ieee) (a : Nat) : fclassOp f a = 2 ^ Claims.classBit f (decodeFp f a) := by
  rw [fclassOp]
  cases h : decodeFp f a with
  | nan n s => cases s <;> rfl
  | inf n => cases n <;> rfl
  | fin n m e =>
    have fin : f.magOf a < f.infCode := (isFin_decodeFp hf a).1 (by rw [h]; rfl)
    have sub := sub_iff hf fin
    rw [h] at sub
    simp only [Claims.classBit, sub]
    by_cases hm : m = 0
    · simp only [if_pos hm]
      cases n <;> rfl
    · by_cases hs : |Claims.value (.fin n m e)| < (2 : ℚ) ^ (1 - (f.bias : ℤ))
      · simp only [if_neg hm, if_pos hs]
        cases n <;> rfl
      · simp only [if_neg hm, if_neg hs]
        cases n <;> rfl

/-! ## Functions of one operand (R136) -/

theorem fpFun_nan {n s : Bool} (h : decodeFp f a = .nan n s) (zero inf : Bool → Nat × Nat) (fin : Bool → Nat → Int → Nat × Nat) :
    fpFun f a zero inf fin = (f.nanCode, if s then fNV else 0) := by simp only [fpFun, h]

theorem fpFun_inf {n : Bool} (h : decodeFp f a = .inf n) (zero inf : Bool → Nat × Nat) (fin : Bool → Nat → Int → Nat × Nat) :
    fpFun f a zero inf fin = inf n := by simp only [fpFun, h]

theorem fpFun_zero (h : (decodeFp f a).isZero = true) (zero inf : Bool → Nat × Nat) (fin : Bool → Nat → Int → Nat × Nat) :
    fpFun f a zero inf fin = zero (decodeFp f a).neg := by
  obtain ⟨n, e, h⟩ := XR.exists_of_isZero h
  simp only [fpFun, h, if_true, XR.neg]

theorem fpFun_fin {n : Bool} {m : Nat} {e : Int} (h : decodeFp f a = .fin n m e) (hm : m ≠ 0) (zero inf : Bool → Nat × Nat)
    (fin : Bool → Nat → Int → Nat × Nat) : fpFun f a zero inf fin = fin n m e := by simp only [fpFun, h, if_neg hm]

theorem functions_of_nan (h : (decodeFp f a).isNan = true) :
    let r := (f.nanCode, if (decodeFp f a).isSig then fNV else 0)
    frcpOp f a = r ∧ frsqOp f a = r ∧ fsqrtOp f a = r ∧ fex2Op f a = r ∧ flg2Op f a = r := by
  obtain ⟨n, s, h⟩ := XR.exists_of_isNan h
  rw [h]
  exact ⟨fpFun_nan h _ _ _, fpFun_nan h _ _ _, fpFun_nan h _ _ _, fpFun_nan h _ _ _, fpFun_nan h _ _ _⟩

theorem functions_of_inf {p : Bool} (h : decodeFp f a = .inf p) :
    let nan : Nat × Nat := (f.nanCode, fNV)
    let inf : Nat × Nat := (f.signed false f.infCode, 0)
    frcpOp f a = (f.signed p 0, 0) ∧ frsqOp f a = (if p then nan else (0, 0)) ∧ fsqrtOp f a = (if p then nan else inf) ∧
      fex2Op f a = (if p then (0, 0) else inf) ∧ flg2Op f a = (if p then nan else inf) := by
  refine ⟨fpFun_inf h _ _ _, fpFun_inf h _ _ _, fpFun_inf h _ _ _, (fpFun_inf h _ _ _).trans ?_, fpFun_inf h _ _ _⟩
  cases p <;> rfl

theorem functions_of_zero (hf : f.Ieee) (h : (decodeFp f a).isZero = true) :
    let n := (decodeFp f a).neg
    frcpOp f a = (f.signed n f.infCode, fDZ) ∧ frsqOp f a = (f.signed n f.infCode, fDZ) ∧ fsqrtOp f a = (f.signed n 0, 0) ∧
      Claims.RoundsTo f 1 (fex2Op f a) ∧ flg2Op f a = (f.signed true f.infCode, fDZ) := by
  refine ⟨fpFun_zero h _ _ _, fpFun_zero h _ _ _, fpFun_zero h _ _ _, ?_, fpFun_zero h _ _ _⟩
  have one : Claims.value (xrOfInt 1) = 1 := by norm_num [Claims.value, xrOfInt]
  have rounded := rne_exactly hf (w := xrOfInt 1) rfl
  rw [one, exactly_iff_of_ne one_ne_zero, Rat.cast_one] at rounded
  rw [fex2Op, fpFun_zero h]
  exact rounded

/-- R136: reciprocals and roots of a finite value are rounded once; the roots and the logarithm of a negative one are invalid. -/
theorem functions_of_finite (hf : f.Ieee) (hx : (decodeFp f a).isFin = true) (h0 : (decodeFp f a).isZero = false) :
    let v : ℝ := Claims.value (decodeFp f a)
    Claims.RoundsTo f (1 / v) (frcpOp f a) ∧
      ((decodeFp f a).neg = true → frsqOp f a = (f.nanCode, fNV) ∧ fsqrtOp f a = (f.nanCode, fNV) ∧ flg2Op f a = (f.nanCode, fNV)) ∧
      ((decodeFp f a).neg = false → Claims.RoundsTo f (1 / √v) (frsqOp f a) ∧ Claims.RoundsTo f (√v) (fsqrtOp f a)) := by
  obtain ⟨n, m, e, hx⟩ := XR.exists_of_isFin hx
  have hm : m ≠ 0 := fun h => Bool.false_ne_true (h0.symm.trans (hx ▸ (XR.isZero_fin_iff n m e).2 h))
  have m_pos := Nat.pos_of_ne_zero hm
  simp only [frcpOp, frsqOp, fsqrtOp, flg2Op, fpFun_fin hx hm, hx, cast_value_fin, XR.neg]
  refine ⟨?_, ?_, ?_⟩
  · obtain ⟨pos, stands⟩ := quotient_standsFor hf 0 e one_pos m_pos
    have value : 1 / (signFactor n * (m * 2 ^ e)) = signFactor n * ((1 : ℕ) * 2 ^ (0 : ℤ) / (m * 2 ^ e)) := by
      rw [one_div, mul_inv, signFactor_inv, Nat.cast_one, zpow_zero, one_mul, one_div]
    rw [value]
    exact roundFp_roundsTo hf n pos stands
  · rintro rfl
    simp only [if_true, nanNv, and_self]
  · rintro rfl
    obtain ⟨rsqrt_pos, rsqrt_stands⟩ := rsqrtOf_standsFor hf e m_pos
    obtain ⟨sqrt_pos, sqrt_stands⟩ := sqrtOf_standsFor hf e m_pos
    have rsqrt := roundFp_roundsTo hf false rsqrt_pos rsqrt_stands
    have sqrt := roundFp_roundsTo hf false sqrt_pos sqrt_stands
    rw [signFactor_false, one_mul] at rsqrt sqrt
    simp only [signFactor_false, one_mul, Bool.false_eq_true, if_false]
    exact ⟨rsqrt, sqrt⟩

end

end Sys2Proof.Machine
end

section
/-! O59, O8: the sum of two products (R139); exact values, NaNs and the sign words (R95, R133, R135). -/

namespace Sys2Proof.Machine

/-! ## The sum of two products (R139) -/

/-- `hdot2` on the values of its operands. -/
def dot2 (x0 y0 x1 y1 z : XR) : Nat × Nat :=
  let p := x0.mul y0
  let q := x1.mul y1
  let r := fpResult fmtF32 [x0, x1, y0, y1, z] ((p.add q).add z)
  let invalid (x y p : XR) : Bool := p.isNan && !x.isNan && !y.isNan
  (r.1, r.2 ||| if invalid x0 y0 p || invalid x1 y1 q || (!p.isNan && !q.isNan && (p.add q).isNan) then fNV else 0)

theorem lo16_eq_half (v : Nat) : lo16 v = Claims.half 0 v := by simp [lo16, Claims.half]

theorem hdot2Op_eq_dot2 (f : FpFmt) (a b c : Nat) :
    hdot2Op f a b c = dot2 (decodeFp f (Claims.half 0 a)) (decodeFp f (Claims.half 0 b)) (decodeFp f (Claims.half 1 a))
      (decodeFp f (Claims.half 1 b)) (decodeFp fmtF32 c) := by
  simp only [hdot2Op, lo16_eq_half]
  rfl

section
variable {x0 y0 x1 y1 z : XR}

theorem no_nan_products (hx0 : x0.isNan = false) (hy0 : y0.isNan = false) (hx1 : x1.isNan = false) (hy1 : y1.isNan = false)
    (hz : z.isNan = false) : ∀ w ∈ [x0, x1, y0, y1, z], w.isNan = false :=
  List.forall_mem_cons.2 ⟨hx0, List.forall_mem_cons.2 ⟨hx1, no_nan_triple hy0 hy1 hz⟩⟩

/-- Where no product and no sum of the two is a NaN, `hdot2` rounds the sum of three. -/
theorem dot2_of_not_nan (hp : (x0.mul y0).isNan = false) (hq : (x1.mul y1).isNan = false) (hs : ((x0.mul y0).add (x1.mul y1)).isNan = false) :
    dot2 x0 y0 x1 y1 z = fpResult fmtF32 [x0, x1, y0, y1, z] (((x0.mul y0).add (x1.mul y1)).add z) := by
  simp only [dot2, hp, hq, hs, Bool.false_and, Bool.and_false, Bool.or_self, Bool.false_eq_true, if_false, Nat.or_zero]

theorem value_nonpos_of_neg {x : XR} (hx : x.isFin = true) (hn : x.neg = true) : Claims.value x ≤ 0 := by
  obtain ⟨n, m, e, rfl⟩ := XR.exists_of_isFin hx
  have : (0 : ℚ) ≤ m * 2 ^ e := by positivity
  rw [XR.neg] at hn
  simp only [Claims.value, hn, if_true]
  linarith

/-- R139: the three terms are added exactly; a zero sum is −0 of three minus signs only. -/
theorem dot2_exactly (hx0 : x0.isFin = true) (hy0 : y0.isFin = true) (hx1 : x1.isFin = true) (hy1 : y1.isFin = true) (hz : z.isFin = true) :
    Claims.Exactly fmtF32 (Claims.value x0 * Claims.value y0 + Claims.value x1 * Claims.value y1 + Claims.value z)
      ((x0.neg != y0.neg) && (x1.neg != y1.neg) && z.neg) (dot2 x0 y0 x1 y1 z) := by
  obtain ⟨p_fin, p_value, p_neg⟩ := XR.mul_fin hx0 hy0
  obtain ⟨q_fin, q_value, q_neg⟩ := XR.mul_fin hx1 hy1
  obtain ⟨s_fin, s_value, s_neg⟩ := XR.add_fin p_fin q_fin
  obtain ⟨t_fin, t_value, t_neg⟩ := XR.add_fin s_fin hz
  rw [dot2_of_not_nan (XR.isNan_of_isFin p_fin) (XR.isNan_of_isFin q_fin) (XR.isNan_of_isFin s_fin), ← p_value, ← q_value, ← p_neg, ← q_neg]
  refine fpResult_exactly fmtF32 ieee_fmtF32 (no_nan_products (XR.isNan_of_isFin hx0) (XR.isNan_of_isFin hy0) (XR.isNan_of_isFin hx1)
    (XR.isNan_of_isFin hy1) (XR.isNan_of_isFin hz)) t_fin (by rw [t_value, s_value]) fun h0 => ?_
  have zero : Claims.value ((x0.mul y0).add (x1.mul y1)) + Claims.value z = 0 := by rw [s_value, h0]
  rw [t_neg zero]
  by_cases hs : Claims.value ((x0.mul y0).add (x1.mul y1)) = 0
  · rw [s_neg (s_value ▸ hs)]
  · cases hz_neg : z.neg with
    | false => rw [Bool.and_false, Bool.and_false]
    | true =>
      have z_nonpos := value_nonpos_of_neg hz hz_neg
      have s_pos : 0 < Claims.value ((x0.mul y0).add (x1.mul y1)) := lt_of_le_of_ne (by linarith) (Ne.symm hs)
      have s_plus : ((x0.mul y0).add (x1.mul y1)).neg ≠ true := fun h => (value_nonpos_of_neg s_fin h).not_gt s_pos
      have not_both : ((x0.mul y0).neg && (x1.mul y1).neg) ≠ true := fun h => by
        obtain ⟨hp, hq⟩ := Bool.and_eq_true_iff.1 h
        have := value_nonpos_of_neg p_fin hp
        have := value_nonpos_of_neg q_fin hq
        linarith
      rw [Bool.eq_false_of_not_eq_true s_plus, Bool.eq_false_of_not_eq_true not_both]

theorem dot2_of_nan (h : ∃ w ∈ [x0, x1, y0, y1, z], w.isNan = true) : (dot2 x0 y0 x1 y1 z).1 = fmtF32.nanCode := by
  simp only [dot2, fpResult_of_nan fmtF32 _ h]

theorem dot2_of_zeroTimesInf (h : Claims.ZeroTimesInf x0 y0 ∨ Claims.ZeroTimesInf x1 y1) :
    (dot2 x0 y0 x1 y1 z).1 = fmtF32.nanCode ∧ (dot2 x0 y0 x1 y1 z).2 = fNV := by
  have product : (x0.mul y0).isNan = true ∨ (x1.mul y1).isNan = true := h.imp XR.isNan_mul_of_zeroTimesInf XR.isNan_mul_of_zeroTimesInf
  have guard : (((x0.mul y0).isNan && !x0.isNan && !y0.isNan) || ((x1.mul y1).isNan && !x1.isNan && !y1.isNan)) = true := by
    rcases h with h | h <;> obtain ⟨hx, hy⟩ := not_nan_of_zeroTimesInf h <;> simp [XR.isNan_mul_of_zeroTimesInf h, hx, hy]
  obtain ⟨code, flags⟩ := fpResult_of_nan_result fmtF32 [x0, x1, y0, y1, z] (XR.isNan_add (y := z) (.inl (XR.isNan_add product)))
  simp only [dot2, guard, Bool.true_or, if_true]
  exact ⟨code, flags⟩

/-- Opposite infinities among three terms, none of them a NaN, make the sum a NaN. -/
theorem XR.isNan_add_of_opposite {p q : XR} (ht : .inf true ∈ [p, q, z]) (hf : .inf false ∈ [p, q, z]) : ((p.add q).add z).isNan = true := by
  refine Bool.not_eq_false _ ▸ fun h => ?_
  have hs : (p.add q).isNan = false := Bool.eq_false_of_not_eq_true fun hs => Bool.false_ne_true (h.symm.trans (XR.isNan_add (.inl hs)))
  have total : ∀ n, .inf n ∈ [p, q, z] → (p.add q).add z = .inf n := fun n hn => by
    rw [XR.add_eq_inf_iff h, XR.add_eq_inf_iff hs]
    simpa [or_assoc, eq_comm] using hn
  exact absurd ((total true ht).symm.trans (total false hf)) (by simp)

theorem dot2_of_inf (hx0 : x0.isNan = false) (hy0 : y0.isNan = false) (hx1 : x1.isNan = false) (hy1 : y1.isNan = false)
    (hz : z.isNan = false) (h0 : ¬Claims.ZeroTimesInf x0 y0) (h1 : ¬Claims.ZeroTimesInf x1 y1) :
    let terms : List XR := [x0.mul y0, x1.mul y1, z]
    (.inf true ∈ terms → .inf false ∈ terms → dot2 x0 y0 x1 y1 z = (fmtF32.nanCode, fNV)) ∧
      ∀ p, .inf p ∈ terms → .inf (!p) ∉ terms → dot2 x0 y0 x1 y1 z = (fmtF32.signed p fmtF32.infCode, 0) := by
  have ops := no_nan_products hx0 hy0 hx1 hy1 hz
  have hp := XR.isNan_mul hx0 hy0 h0
  have hq := XR.isNan_mul hx1 hy1 h1
  refine ⟨fun ht hf => ?_, fun n hn hno => ?_⟩
  · obtain ⟨k, s, sum⟩ := XR.exists_of_isNan (XR.isNan_add_of_opposite ht hf)
    simp only [dot2, sum, fpResult_invalid fmtF32 k s ops]
    split <;> rfl
  · have hs : ((x0.mul y0).add (x1.mul y1)).isNan = false := by
      refine Bool.eq_false_of_not_eq_true fun hs => hno ?_
      obtain ⟨k, hk, hk'⟩ := XR.eq_inf_of_isNan_add hp hq hs
      rw [hk, hk']
      cases k <;> cases n <;> simp
    have ht : (((x0.mul y0).add (x1.mul y1)).add z).isNan = false := by
      refine Bool.eq_false_of_not_eq_true fun ht => hno ?_
      obtain ⟨k, hk, hk'⟩ := XR.eq_inf_of_isNan_add hs hz ht
      rw [XR.add_eq_inf_iff hs] at hk
      by_cases hkn : k = n
      · simp [hk', hkn]
      · rw [← Bool.eq_not.2 hkn]
        rcases hk with hk | hk <;> simp [hk]
    have total : ((x0.mul y0).add (x1.mul y1)).add z = .inf n := by
      rw [XR.add_eq_inf_iff ht, XR.add_eq_inf_iff hs]
      simpa [or_assoc, eq_comm] using hn
    rw [dot2_of_not_nan hp hq hs, total]
    exact fpResult_inf fmtF32 n ops

end

/-! ## Exact values, and the sign words (R95, R133, R135) -/

section
variable {f : FpFmt} {a c : Nat}

/-- The spacing of a code is the one that its value is rounded to. -/
theorem FpFmt.expOf_eq {k : Nat} (hk : k ≠ 0) :
    f.expOf k = max (dyLog (f.sigOf k) (f.expOf k) - f.mw) (1 - (f.bias : Int) - f.mw) := by
  have pos := Nat.two_pow_pos f.mw
  by_cases sub : k < 2 ^ f.mw
  · have small : Nat.log2 k < f.mw := (Nat.log2_lt hk).2 sub
    rw [FpFmt.sigOf, if_pos sub, FpFmt.expOf, dyLog, Nat.div_eq_of_lt sub]
    omega
  · have low := Nat.mod_lt k pos
    have log : Nat.log2 (2 ^ f.mw + k % 2 ^ f.mw) = f.mw := by
      have ne : 2 ^ f.mw + k % 2 ^ f.mw ≠ 0 := by omega
      have h1 := (Nat.le_log2 ne (k := f.mw)).2 (by omega)
      have h2 := (Nat.log2_lt ne (k := f.mw + 1)).2 (by rw [pow_succ]; omega)
      omega
    have le := f.le_expOf k
    rw [FpFmt.sigOf, if_neg sub, dyLog, log]
    omega

/-- Every finite magnitude lies below the threshold of overflow. -/
theorem FpFmt.magValue_lt_top (hf : f.Ieee) {k : Nat} (hk : k < f.infCode) : f.magValue k < (2 ^ (f.mw + 2) - 1) * 2 ^ (f.maxMag.2 - 1) := by
  rcases Nat.eq_zero_or_pos k with rfl | pos
  · rw [f.magValue_zero]
    have : (1 : ℝ) < 2 ^ (f.mw + 2) := one_lt_pow₀ one_lt_two (by omega)
    exact mul_pos (by linarith) (zpow_pos two_pos _)
  · have sig : 0 < f.sigOf k := Nat.pos_of_ne_zero (mt (f.sigOf_eq_zero_iff k).1 pos.ne')
    have near : NearestEven (f.magValue k) (2 ^ f.expOf k) (f.sigOf k) := nearestEven_self (zpow_pos two_pos _)
    exact (tooBig_iff hf (.inl rfl) sig (f.expOf_eq pos.ne') near).2.2 (f.magValue_strictMono hk)

/-- R133: a value that the format holds rounds to its own code, with no flag: no other value is as near, and the code has its sign. -/
theorem rne_decodeFp (hf : f.Ieee) (hc : c < 2 ^ (f.ew + f.mw + 1)) (h : (decodeFp f c).isNan = false) : rne f (decodeFp f c) = (c, 0) := by
  have whole := f.signed_signOf_magOf hc
  rcases decodeFp_of_not_nan hf h with ⟨lt, -⟩ | ⟨heq, hx⟩
  · have fin := (isFin_decodeFp hf c).2 lt
    have value := value_decodeFp hf lt
    have rounded := rne_exactly hf fin
    rw [← signFactor] at value
    rw [neg_decodeFp hf] at rounded
    by_cases h0 : f.magOf c = 0
    · rw [h0, f.magValue_zero, mul_zero, Rat.cast_eq_zero] at value
      rw [h0] at whole
      rw [value, exactly_zero_iff, whole] at rounded
      exact rounded
    · have pos : 0 < f.magValue (f.magOf c) := FpFmt.magValue_pos h0
      have nonzero : Claims.value (decodeFp f c) ≠ 0 := by
        rw [← Rat.cast_ne_zero (α := ℝ), value]
        exact mul_ne_zero (signFactor_ne_zero _) pos.ne'
      rw [exactly_iff_of_ne nonzero] at rounded
      obtain ⟨-, rounded⟩ := rounded
      rw [value, abs_signFactor_mul, abs_of_pos pos] at rounded
      obtain ⟨lt', fin', sign, nearest, flags, -, -⟩ := rounded (f.magValue_lt_top hf lt)
      generalize rne f (decodeFp f c) = r at *
      obtain ⟨same, -⟩ := nearest c fin
      rw [value, sub_self, abs_zero, abs_nonpos_iff, sub_eq_zero] at same
      have sign_eq : f.signOf r.1 = f.signOf c := by
        rw [Bool.eq_iff_iff, ← neg_decodeFp hf, sign, signFactor_mul_neg_iff _ pos]
      have value' := value_decodeFp hf ((isFin_decodeFp hf r.1).1 fin')
      rw [← same, ← signFactor, sign_eq] at value'
      have mag_eq := f.magValue_strictMono.injective (mul_left_cancel₀ (signFactor_ne_zero _) value')
      have code : r.1 = c := by rw [← f.signed_signOf_magOf lt', sign_eq, ← mag_eq, whole]
      exact Prod.ext code (flags same.symm)
  · rw [hx, rne, ← heq, whole]

/-- R135: the words on the sign act on no other bit. -/
theorem testBit_sign_words {n : Nat} (ha : a < 2 ^ (n + 1)) (j : Nat) :
    (a ^^^ 2 ^ n).testBit j = (if j = n then !a.testBit j else a.testBit j) ∧
      (a % 2 ^ n).testBit j = (if j = n then false else a.testBit j) := by
  rw [Nat.testBit_xor, Nat.testBit_two_pow, Nat.testBit_mod_two_pow]
  rcases lt_trichotomy j n with hlt | rfl | hgt
  · simp [hlt, hlt.ne, hlt.ne']
  · simp
  · have high : a.testBit j = false := Nat.testBit_lt_two_pow (ha.trans_le (Nat.pow_le_pow_right two_pos hgt))
    simp [high, hgt.ne', hgt.ne]

theorem classBit_lt (f : FpFmt) (x : XR) : Claims.classBit f x < 10 := by
  unfold Claims.classBit
  split
  · split <;> decide
  · split <;> decide
  · split
    · split <;> decide
    · split <;> split <;> decide

end

/-- Settles O8: a value of the format is nearest to itself alone; a NaN operand decides the result; the sign bit is one bit; a class is one bit. -/
theorem floatResultsKeepExactValuesAndNans : Obligations.FloatResultsKeepExactValuesAndNans := by
  unfold Obligations.FloatResultsKeepExactValuesAndNans
  intro f hmem
  have hf := laneFmts_ieee f hmem
  exact ⟨fun c => rne_decodeFp hf, fun ops x => fpResult_of_nan f x, fun a ha => testBit_sign_words ha,
    fun a => ⟨_, classBit_lt f _, fclassOp_eq hf a⟩⟩

/-- Settles O59: each operation rounds the exact value of finite operands once, and every other clause is a case of its rule. -/
theorem floatOperationsRoundTheExactValue : Obligations.FloatOperationsRoundTheExactValue := by
  unfold Obligations.FloatOperationsRoundTheExactValue
  refine ⟨fun f hmem a b c => ?_, fun f _ a b c => ?_⟩
  · have hf := laneFmts_ieee f hmem
    intro x y z nan inf n
    refine ⟨fun w => rne_exactly hf, fun hx hy => ?_, fun p hx => ?_, fun q hy hx => ?_, fun h => ?_, ?_, fun h => ?_, ?_, fpMinMax_of_not_nan hf,
      place_lt_of_value_lt hf, fpMinMax_of_nan f a b, fclassOp_eq hf a, functions_of_nan, fun p => functions_of_inf, functions_of_zero hf,
      functions_of_finite hf⟩
    · obtain ⟨sum, difference, product⟩ := sums_and_products_exactly hf hx hy
      exact ⟨sum, difference, product, ffmaOp_exactly hf hx hy, fun p => ffmaOp_add_inf hx hy, fdivOp_exactly hf hx hy, fdivOp_by_zero hx⟩
    · obtain ⟨finite, same, opposite⟩ := sums_of_inf (b := b) hx
      obtain ⟨quotient, invalid⟩ := fdivOp_of_inf (b := b) hx
      exact ⟨fun hy => ⟨(finite hy).1, (finite hy).2, quotient hy⟩, same, opposite, invalid⟩
    · obtain ⟨sum, difference⟩ := sums_of_fin_inf hx hy
      exact ⟨sum, difference, fdivOp_by_inf hx hy⟩
    · have fused := ffmaOp_of_zeroTimesInf (c := c) h
      exact ⟨fmulOp_of_zeroTimesInf h, fun _ => fused, fun _ => Prod.mk.inj fused⟩
    · exact products_of_inf
    · exact ⟨fpResult_pair_of_nan _ h, fpResult_pair_of_nan _ h, fpResult_pair_of_nan _ h, fdivOp_of_nan h⟩
    · exact ffmaOp_of_nan
  · intro x y z n r
    have sum : r = dot2 (x 0) (y 0) (x 1) (y 1) z := hdot2Op_eq_dot2 f a b c
    rw [sum]
    refine ⟨fun h hz => ?_, fun h => dot2_of_nan ?_, fun ⟨e, he, h⟩ => dot2_of_zeroTimesInf ?_, fun h hz => ?_⟩
    · obtain ⟨hx0, hy0⟩ := h 0 two_pos
      obtain ⟨hx1, hy1⟩ := h 1 one_lt_two
      exact dot2_exactly hx0 hy0 hx1 hy1 hz
    · rcases h with ⟨e, he, h⟩ | h
      · obtain rfl | rfl : e = 0 ∨ e = 1 := by omega
        · rcases h with h | h <;> exact ⟨_, by simp, h⟩
        · rcases h with h | h <;> exact ⟨_, by simp, h⟩
      · exact ⟨_, by simp, h⟩
    · obtain rfl | rfl : e = 0 ∨ e = 1 := by omega
      · exact .inl h
      · exact .inr h
    · obtain ⟨hx0, hy0, h0⟩ := h 0 two_pos
      obtain ⟨hx1, hy1, h1⟩ := h 1 one_lt_two
      exact dot2_of_inf hx0 hy0 hx1 hy1 hz h0 h1

end Sys2Proof.Machine
end

section
/-! O1 to O4: the integer words of R123 to R126 and R128 write the value of their rule. -/

namespace Sys2Proof.Machine

/-! ## Words of two sources and of one (R123, R124, R128, R132) -/

/-- The word `i` writes `g` of its operands a and b in every true lane, when its registers are full (R123). -/
def WritesOfTwo (i : LaneOp → Instr) (g : (n : Nat) → BitVec n → BitVec n → BitVec n) : Prop :=
  ∀ (s : State) (o : LaneOp), swzLegal s.me.width o.x = true → s.Ready o (Claims.wide o) →
    exec (i o) s = .next (s.trueLanes o fun k l =>
      l.wrOp s.me.depth o.d o.s (g (opBits o) (s.argA o (Claims.wide o) _ k) (s.argB o (Claims.wide o) _ k)).toNat)

/-- The word `i` writes `g` of its operand a in every true lane, when its registers are full (R123, R132). -/
def WritesOfOne (i : LaneOp → Instr) (g : (n : Nat) → BitVec n → BitVec n) : Prop :=
  ∀ (s : State) (o : LaneOp), swzLegal s.me.width o.x = true → s.Ready o (Claims.wide1 o) →
    exec (i o) s = .next (s.trueLanes o fun k l =>
      l.wrOp s.me.depth o.d o.s (g (opBits o) (s.argA o (Claims.wide1 o) _ k)).toNat)

/-- A formula on numbers that agrees with one on bit vectors, for numbers that fit the width. -/
def SameOnBits (f : Nat → Nat → Nat → Nat) (g : (n : Nat) → BitVec n → BitVec n → BitVec n) : Prop :=
  ∀ {n a b : Nat}, 0 < n → a < 2 ^ n → b < 2 ^ n → f n a b = (g n (BitVec.ofNat n a) (BitVec.ofNat n b)).toNat

theorem writesOfTwo {i : LaneOp → Instr} {f : Nat → Nat → Nat → Nat} {g : (n : Nat) → BitVec n → BitVec n → BitVec n}
    (arm : ∀ o s, exec (i o) s = .next (int2 s o f)) (h : SameOnBits f g) : WritesOfTwo i g := fun s o legal ready =>
  (arm o s).trans (congrArg _ (int2_ready s o f g (fun _ _ _ => h) legal ready))

theorem writesOfOne {i : LaneOp → Instr} {f : Nat → Nat → Nat} {g : (n : Nat) → BitVec n → BitVec n}
    (arm : ∀ o s, exec (i o) s = .next (int1 s o f)) (h : ∀ n a, 0 < n → a < 2 ^ n → f n a = (g n (BitVec.ofNat n a)).toNat) :
    WritesOfOne i g := fun s o legal ready =>
  (arm o s).trans (congrArg _ (int1_ready s o f g h legal ready))

theorem scaled_bv (n a b k : Nat) : (a + b * k) % 2 ^ n = (BitVec.ofNat n a + BitVec.ofNat n b * BitVec.ofNat n k).toNat := by
  rw [add_bv, BitVec.ofNat_mul]

theorem integerWordsOfTwoSources : ∀ p ∈ Claims.intWords, WritesOfTwo p.1 p.2 := by
  simp only [Claims.intWords, List.forall_mem_cons]
  exact ⟨writesOfTwo (fun _ _ => rfl) fun _ _ _ => add_bv _ _ _,
    writesOfTwo (fun _ _ => rfl) fun _ => sub_bv,
    writesOfTwo (fun _ _ => rfl) fun _ _ _ => mul_bv _ _ _,
    writesOfTwo (fun _ _ => rfl) fun _ => mulhu_bv,
    writesOfTwo (fun _ _ => rfl) fun hn _ _ => mulhs_bv hn _ _,
    writesOfTwo (fun _ _ => rfl) fun _ => and_bv,
    writesOfTwo (fun _ _ => rfl) fun _ => or_bv,
    writesOfTwo (fun _ _ => rfl) fun _ => xor_bv,
    writesOfTwo (fun _ _ => rfl) fun _ => andn_bv,
    writesOfTwo (fun _ _ => rfl) smin_bv,
    writesOfTwo (fun _ _ => rfl) smax_bv,
    writesOfTwo (fun _ _ => rfl) fun _ => umin_bv,
    writesOfTwo (fun _ _ => rfl) fun _ => umax_bv,
    writesOfTwo (fun _ _ => rfl) fun _ _ _ => scaled_bv _ _ _ 1,
    writesOfTwo (fun _ _ => rfl) fun _ _ _ => scaled_bv _ _ _ 2,
    writesOfTwo (fun _ _ => rfl) fun _ _ _ => scaled_bv _ _ _ 4,
    writesOfTwo (fun _ _ => rfl) fun _ _ _ => scaled_bv _ _ _ 8, List.forall_mem_nil _⟩

theorem unaryIntegerWords : ∀ p ∈ Claims.intUnary, WritesOfOne p.1 p.2 := by
  simp only [Claims.intUnary, List.forall_mem_cons]
  exact ⟨writesOfOne (fun _ _ => rfl) fun _ _ => abs_bv,
    writesOfOne (fun _ _ => rfl) fun _ _ _ => neg_bv,
    writesOfOne (fun _ _ => rfl) fun _ _ _ => not_bv,
    writesOfOne (fun _ _ => rfl) fun _ _ _ h => (toNat_lt_eq h).symm, List.forall_mem_nil _⟩

/-- Settles O1: each formula on numbers is the rule's on bit vectors of the operand's width. -/
theorem integerWordsWriteTheRuleValue : Obligations.IntegerWordsWriteTheRuleValue :=
  ⟨integerWordsOfTwoSources, unaryIntegerWords⟩

theorem divisionWordsWriteTheRuleValue : ∀ p ∈ Claims.divisions, WritesOfTwo p.1 p.2 := by
  simp only [Claims.divisions, List.forall_mem_cons]
  exact ⟨writesOfTwo (fun _ _ => rfl) fun _ => divu_bv,
    writesOfTwo (fun _ _ => rfl) fun hn _ => sdiv_bv hn,
    writesOfTwo (fun _ _ => rfl) fun _ => remu_bv,
    writesOfTwo (fun _ _ => rfl) srem_bv, List.forall_mem_nil _⟩

/-! ## Shifts (R125) -/

/-- A shift by b mod n, from the shift by any amount below n. -/
theorem writesShifted {i : LaneOp → Instr} {f : Nat → Nat → Nat → Nat} {g : (n : Nat) → BitVec n → Nat → BitVec n}
    (arm : ∀ o s, exec (i o) s = .next (int2 s o fun n a b => f n a (b % n)))
    (h : ∀ {n a t : Nat}, 0 < n → a < 2 ^ n → t < n → f n a t = (g n (BitVec.ofNat n a) t).toNat) :
    WritesOfTwo i fun n a b => g n a (b.toNat % n) :=
  writesOfTwo arm fun hn ha hb => by rw [toNat_lt_eq hb, h hn ha (Nat.mod_lt _ hn)]

theorem shiftImm_lt {o : LaneOp} {v : Nat} (hx : o.x = .imm v) (h : wfShiftImm o = true) : v < opBits o := by
  rw [wfShiftImm, hx] at h
  exact of_decide_eq_true h

theorem shiftWordsTakeTheAmountModuloTheWidth : Claims.ShiftWordsTakeTheAmountModuloTheWidth := by
  unfold Claims.ShiftWordsTakeTheAmountModuloTheWidth
  have imm : ∀ (o : LaneOp) (v : Nat), o.x = .imm v → (wfAlu o false false true true && wfShiftImm o) = true → v < opBits o :=
    fun o v hx h => shiftImm_lt hx (Bool.and_eq_true_iff.1 h).2
  simp only [Claims.shifts, List.forall_mem_cons]
  exact ⟨⟨writesShifted (fun _ _ => rfl) fun _ _ _ => shl_bv _, imm⟩,
    ⟨writesShifted (fun _ _ => rfl) fun _ ha _ => shr_bv ha _, imm⟩,
    ⟨writesShifted (fun _ _ => rfl) fun hn _ _ => sar_bv hn _, imm⟩,
    ⟨writesShifted (fun _ _ => rfl) fun _ => rot_bv, imm⟩, List.forall_mem_nil _⟩

/-- Settles O2: quotients and remainders are those of the bit vectors, corners included; a shift's amount is below the width. -/
theorem divisionsAndShiftsWriteTheRuleValue : Obligations.DivisionsAndShiftsWriteTheRuleValue :=
  ⟨divisionWordsWriteTheRuleValue, shiftWordsTakeTheAmountModuloTheWidth⟩

/-! ## Multiply-add and bit counts (R123) -/

/-- What a lane reads for a 32-bit or 64-bit integer word fits the word's width. -/
theorem sources_lt_opBits (s : State) (i : Nat) (o : LaneOp) (rb rc : Bool) :
    let x := s.sources s.me i o { pair := o.s, rb := rb, rc := rc }
    x.1.v < 2 ^ opBits o ∧ x.2.1.v < 2 ^ opBits o ∧ x.2.2.v < 2 ^ opBits o :=
  s.sources_lt s.me i o { pair := o.s, rb := rb, rc := rc }

theorem multiplyAddWritesTheLowBits : Claims.MultiplyAddWritesTheLowBits := by
  intro s o legal ready
  refine ⟨?_, fun hsrc himm i => ?_⟩
  · refine congrArg Host.Outcome.next ((aluWord_ready s o (Claims.wide3 o) _ legal ready).trans ?_)
    simp only [State.argA, State.argB, State.argC, ← BitVec.ofNat_mul, ← BitVec.ofNat_add, BitVec.toNat_ofNat]
    rfl
  · rw [State.sources]
    split
    · next h => exact absurd h (hsrc _ _ _ _ _ _ _ _ _)
    · next h => exact absurd h (himm _)
    · rfl

theorem sum_map_toNat (l : List Nat) (p : Nat → Bool) : (l.map fun i => (p i).toNat).sum = l.countP p := by
  induction l with
  | nil => rfl
  | cons i l ih => cases h : p i <;> simp [h, ih, add_comm]

theorem popcount_eq {n a : Nat} (hn : n ≤ 64) (ha : a < 2 ^ n) : popcount a = (List.range n).countP a.testBit := by
  have high : ∀ i ∈ List.range (64 - n), a.testBit (n + i) = false := fun i _ =>
    Nat.testBit_lt_two_pow (ha.trans_le (Nat.pow_le_pow_right two_pos (Nat.le_add_right n i)))
  have none : (List.range (64 - n)).countP (fun i => a.testBit (n + i)) = 0 :=
    List.countP_eq_zero.2 fun i hi => by rw [high i hi]; exact Bool.false_ne_true
  calc popcount a = ((List.range 64).map fun i => (a.testBit i).toNat).sum := by simp only [popcount, Nat.toNat_testBit]
    _ = (List.range (n + (64 - n))).countP a.testBit := by rw [sum_map_toNat, Nat.add_sub_cancel' hn]
    _ = (List.range n).countP a.testBit := by rw [List.range_add, List.countP_append, List.countP_map, Function.comp_def, none, Nat.add_zero]

/-- Above the highest of `nbits a` bits stands no 1 bit, and there stands one. -/
theorem testBit_nbits (a : Nat) : (∀ j, nbits a ≤ j → a.testBit j = false) ∧ (0 < nbits a → a.testBit (nbits a - 1) = true) := by
  refine ⟨fun j hj => Nat.testBit_lt_two_pow ((lt_two_pow_nbits a).trans_le (Nat.pow_le_pow_right two_pos hj)), fun h => ?_⟩
  have ha : a ≠ 0 := by rintro rfl; exact absurd h (by decide)
  rw [nbits, if_neg ha, Nat.add_sub_cancel]
  exact Nat.testBit_log2 ha

theorem nbits_le {n a : Nat} (ha : a < 2 ^ n) : nbits a ≤ n := by
  rw [nbits]
  split
  · exact Nat.zero_le n
  · next h => exact (Nat.log2_lt h).2 ha

theorem opBits_le (o : LaneOp) : opBits o ≤ 64 := by
  rw [opBits]
  split <;> decide

/-- A word of one source whose value is said of the number that a lane reads. -/
theorem int1_full {s : State} {o : LaneOp} (f : Nat → Nat → Nat) (legal : swzLegal s.me.width o.x = true) (ready : s.Ready o (Claims.wide1 o)) :
    int1 s o f = s.trueLanes o fun i l => l.wrOp s.me.depth o.d o.s (f (opBits o) (s.sources s.me i o (Claims.wide1 o)).1.v) :=
  aluWord_ready s o (Claims.wide1 o) _ legal ready

theorem getLsbD_ofNat_of_lt {n a : Nat} (ha : a < 2 ^ n) (j : Nat) : (BitVec.ofNat n a).getLsbD j = a.testBit j := by
  rw [BitVec.getLsbD, toNat_lt_eq ha]

theorem bitCountWordsWriteTheCount : Claims.BitCountWordsWriteTheCount := by
  intro s o legal ready
  refine ⟨_, _, _, congrArg _ (int1_full _ legal ready), congrArg _ (int1_full _ legal ready), congrArg _ (int1_full _ legal ready), fun i => ?_⟩
  have lt := (sources_lt_opBits s i o false false).1
  rw [← Claims.wide1] at lt
  simp only [State.argA, getLsbD_ofNat_of_lt lt, funext (getLsbD_ofNat_of_lt lt)]
  generalize (s.sources s.me i o (Claims.wide1 o)).1.v = a at *
  have le := nbits_le lt
  obtain ⟨zeros, one⟩ := testBit_nbits a
  rw [Nat.sub_sub_self le, show opBits o - 1 - (opBits o - nbits a) = nbits a - 1 by omega]
  exact ⟨popcount_eq (opBits_le o) lt, Nat.sub_le _ _, zeros, fun h => one (by omega), brevOp_lt _ _, fun j => testBit_brevOp⟩

/-- Settles O3: sums and products wrap alike on numbers and on bit vectors; the counts go by the bits of a. -/
theorem multiplyAddAndBitCountsWriteTheRuleValue : Obligations.MultiplyAddAndBitCountsWriteTheRuleValue :=
  ⟨multiplyAddWritesTheLowBits, bitCountWordsWriteTheCount⟩

/-! ## Fields (R126) -/

theorem fieldImm_of_wf {o : LaneOp} {v : Nat} (hx : o.x = .imm v) (h : (wfAlu o false false true true && wfFieldImm o) = true) :
    v % 64 < opBits o ∧ v / 64 % 4 = 0 ∧ v / 256 % 128 ≤ opBits o ∧ v / 2 ^ 15 = 0 := by
  have field := (Bool.and_eq_true_iff.1 h).2
  rw [wfFieldImm, hx] at field
  simp only [Bool.and_eq_true, decide_eq_true_eq, beq_iff_eq, and_assoc] at field
  exact field

/-- `bfi` writes its field into the old value of its own d (R126). -/
theorem exec_bfi {s : State} {o : LaneOp} (legal : swzLegal s.me.width o.x = true) (ready : s.Ready o (Claims.wide o)) :
    exec (.bfi o) s = .next (s.trueLanes o fun i l => l.wrOp s.me.depth o.d o.s
      (bfiOp (opBits o) (s.sources s.me i o (Claims.wide o)).1.v (s.sources s.me i o (Claims.wide o)).2.1.v
        ((s.me.lane i).rdOp s.me.depth o.d o.s))) := by
  refine congrArg Host.Outcome.next ((laneWord_ready s o (Claims.wide o) _ legal ready fun _ _ _ _ _ _ => ⟨rfl, by simp⟩).trans ?_)
  exact s.eachLane_congr (fun _ _ => rfl) fun _ _ => rfl

theorem fieldLength_ofNat {n b : Nat} (hb : b < 2 ^ n) : Claims.fieldLength n (BitVec.ofNat n b) = fieldLen n b := by
  rw [Claims.fieldLength, toNat_lt_eq hb]
  rfl

/-- Bit by bit, the three words on the numbers that a lane reads (R126). -/
theorem testBit_fieldOps {n a b : Nat} (ha : a < 2 ^ n) (hb : b < 2 ^ n) (d : Nat) {j : Nat} (hj : j < n) :
    let pos := (BitVec.ofNat n b).toNat % 64
    let len := Claims.fieldLength n (BitVec.ofNat n b)
    (bfxuOp n a b).testBit j = (decide (j < len) && (BitVec.ofNat n a).getLsbD (pos + j)) ∧
      (bfxsOp n a b).testBit j = (decide (0 < len) && (BitVec.ofNat n a).getLsbD (pos + min j (len - 1))) ∧
      (bfiOp n a b d).testBit j = if pos ≤ j ∧ j < pos + len then (BitVec.ofNat n a).getLsbD (j - pos) else d.testBit j := by
  simp only [getLsbD_ofNat_of_lt ha, fieldLength_ofNat hb, toNat_lt_eq hb]
  refine ⟨testBit_bfxu _ _ _ _, ?_, testBit_bfi _ _ _ _ _⟩
  rcases Nat.eq_zero_or_pos (fieldLen n b) with h | h
  · simp [bfxsOp, h]
  · rw [testBit_bfxs hj h.ne', decide_eq_true h, Bool.true_and]
    rfl

/-- Settles O4: bit by bit, from the bits of the model's field formulas. -/
theorem fieldWordsExtractAndInsert : Obligations.FieldWordsExtractAndInsert := by
  refine ⟨fun s o legal ready => ⟨_, _, _, congrArg _ (aluWord_ready s o (Claims.wide o) _ legal ready),
    congrArg _ (aluWord_ready s o (Claims.wide o) _ legal ready), exec_bfi legal ready, fun i j hj => ?_⟩, fun i hi o v hx hwf => fieldImm_of_wf hx ?_⟩
  · obtain ⟨ha, hb, -⟩ := sources_lt_opBits s i o true false
    exact testBit_fieldOps ha hb _ hj
  · simp only [List.mem_cons, List.not_mem_nil, or_false] at hi
    rcases hi with rfl | rfl | rfl <;> exact hwf

end Sys2Proof.Machine
end

section
/-! O5: selections, comparisons and operations on predicates (R129 to R131). -/

namespace Sys2Proof.Machine

/-- An unguarded word acts in every lane of the run. -/
theorem trueLanes_unguarded (s : State) (o : LaneOp) (f : Nat → Lane → Lane) (fl : Nat → Lane → Nat) :
    s.trueLanes { o with g := 7, gn := false } f fl = s.eachLane (fun i l => (f i l).past (opLen o)) fl := by
  have guard : ∀ l : Lane, l.guard { o with g := 7, gn := false } = true := fun l => by simp [Lane.guard, Lane.pred]
  simp only [State.trueLanes, guard, if_true]
  rfl

theorem selWritesEveryLaneOfTheRun : Claims.SelWritesEveryLaneOfTheRun := by
  intro s o legal ready
  refine congrArg Host.Outcome.next ((laneWord_ready s { o with g := 7, gn := false } (Claims.wide o) _ legal ready fun _ _ _ _ _ _ => ⟨rfl, by simp⟩).trans ?_)
  rw [trueLanes_unguarded]
  refine s.eachLane_congr (fun i _ => ?_) fun _ _ => rfl
  obtain ⟨ha, hb, -⟩ := sources_lt_opBits s i o true false
  rw [← Claims.wide] at ha hb
  simp only [State.argA, State.argB, toNat_lt_eq ha, toNat_lt_eq hb]
  rfl

/-! ## Comparisons (R129) -/

theorem icmpOp_eq_icmpHolds {n a b : Nat} (hn : 0 < n) (ha : a < 2 ^ n) (hb : b < 2 ^ n) (cond : Nat) :
    icmpOp n cond a b = Claims.icmpHolds cond (BitVec.ofNat n a) (BitVec.ofNat n b) := by
  rw [icmp_bv hn ha hb]
  unfold Claims.icmpHolds
  rfl

/-- The order of exact values is asymmetric. -/
theorem XR.lt_asymm {x y : XR} (h : x.lt y = true) : y.lt x = false := by
  cases x with
  | nan n s => exact absurd h Bool.false_ne_true
  | inf n => cases y with
    | nan k s => cases n <;> exact absurd h Bool.false_ne_true
    | inf k => revert h; cases n <;> cases k <;> decide
    | fin k m e => exact congrArg not h
  | fin n m e => cases y with
    | nan k s => exact absurd h Bool.false_ne_true
    | inf k => exact by simpa [XR.lt] using h
    | fin k j i =>
      rw [lt_fin_iff] at h
      rw [Bool.eq_false_iff, ne_eq, lt_fin_iff]
      exact h.asymm

theorem XR.not_nan_of_lt {x y : XR} (h : x.lt y = true) : x.isNan = false ∧ y.isNan = false := by
  cases x <;> cases y <;> simp_all [XR.lt, XR.isNan]

/-- Equality, `le` and `ge` of two values by their NaNs `a`, `b` and their strict orders `c`, `d`. -/
theorem comparisons_of_orders : ∀ a b c d : Bool, (c = true → a = false ∧ b = false) → (d = true → b = false ∧ a = false) → (c = true → d = false) →
    (!a && !b && !c && !d) = (!(a || b) && !c && !d) ∧ (!(!a && !b && !c && !d)) = (a || b || c || d) ∧
      (c || (!a && !b && !c && !d)) = (!(a || b) && !d) ∧ (d || (!a && !b && !c && !d)) = (!(a || b) && !c) := by decide

theorem fcmpOp_eq_fcmpHolds (cond : Nat) (x y : XR) : fcmpOp cond x y = Claims.fcmpHolds cond x y := by
  obtain ⟨eq, ne, le, ge⟩ := comparisons_of_orders x.isNan y.isNan (x.lt y) (y.lt x) XR.not_nan_of_lt XR.not_nan_of_lt XR.lt_asymm
  match cond with
  | 0 => exact eq
  | 1 => exact ne
  | 2 => rfl
  | 3 => exact le
  | 4 => rfl
  | 5 => exact ge
  | 6 => rfl
  | _ + 7 => exact (Bool.not_or _ _).symm

theorem cmpFlags_eq_fcmpFlags (cond : Nat) (x y : XR) : cmpFlags cond x y = Claims.fcmpFlags cond x y := by
  have range : (decide (2 ≤ cond) && decide (cond ≤ 5)) = (cond == 2 || cond == 3 || cond == 4 || cond == 5) := by
    rw [Bool.eq_iff_iff]
    simp only [Bool.and_eq_true, decide_eq_true_eq, Bool.or_eq_true, beq_iff_eq]
    omega
  rw [cmpFlags, Claims.fcmpFlags, Bool.and_assoc, range]

theorem comparisonsSetThePredicate : Claims.ComparisonsSetThePredicate := by
  refine fun s o legal _ => ⟨fun ready => ?_, fun ready => ?_⟩
  · refine congrArg Host.Outcome.next ((predWord_ready s o (Claims.wide o) _ legal ready).trans (s.eachLane_congr (fun i _ => ?_) fun _ _ => rfl))
    obtain ⟨ha, hb, -⟩ := s.sources_lt s.me i o { Claims.wide o with wd := false }
    simp only [icmpOp_eq_icmpHolds (opBits_pos o) ha hb]
    rfl
  · refine congrArg Host.Outcome.next ((predWord_ready s o (Claims.fpShape o true false) _ legal ready).trans ?_)
    simp only [fcmpOp_eq_fcmpHolds, cmpFlags_eq_fcmpFlags]

/-! ## Operations on predicates (R131) -/

theorem plop_eq {s : State} {o : LaneOp} (hx : o.x = .none) (f : Bool → Bool → Bool) :
    plop s o f = s.trueLanes o fun _ l => l.setPred (o.d % 8) (f (l.pred (o.a % 8)) (l.pred (o.a / 8))) := by
  have len : opLen o = 4 := by simp [opLen, hx]
  rw [plop, runLanes_eachLane]
  · rw [State.trueLanes, len]
    refine s.eachLane_congr (fun i _ => ?_) fun i _ => ?_
    · split
      · exact settle_past _ _ _ _ (by simp)
      · exact settle_past _ _ _ _ rfl
    · split <;> rfl
  · intro i _
    split <;> rfl

/-- Settles O5: `sel` is unguarded in its run, the comparisons agree with the rule's, `plop` acts on the predicates. -/
theorem selectsAndPredicatesFollowTheGuard : Obligations.SelectsAndPredicatesFollowTheGuard := by
  refine ⟨selWritesEveryLaneOfTheRun, comparisonsSetThePredicate, ?_⟩
  simp only [Claims.PlopCombinesPredicates, List.forall_mem_cons]
  exact ⟨fun s o hx => congrArg _ (plop_eq hx _), fun s o hx => congrArg _ (plop_eq hx _), fun s o hx => congrArg _ (plop_eq hx _),
    fun s o hx => congrArg _ (plop_eq hx _), List.forall_mem_nil _⟩

end Sys2Proof.Machine
end

section
/-! O7: the FP and packed words (R133 to R139). -/

namespace Sys2Proof.Machine

/-! ## FP words -/

/-- The FP word `i` gives, in every true lane, what `f` gives for its operands' codes, when its registers are full (R133). -/
def WritesFp (i : LaneOp → Instr) (rb rc : Bool) (f : FpFmt → Nat → Nat → Nat → Nat × Nat) : Prop :=
  ∀ (s : State) (o : LaneOp), swzLegal s.me.width o.x = true → s.Ready o (Claims.fpShape o rb rc) →
    let r (k : Nat) : Nat × Nat :=
      let x := s.sources s.me k o (Claims.fpShape o rb rc)
      f (fpFmt o) x.1.v x.2.1.v x.2.2.v
    exec (i o) s = .next (s.trueLanes o (fun k l => l.wrOp s.me.depth o.d o.s (r k).1) fun k _ => (r k).2)

theorem writesFp {i : LaneOp → Instr} {rb rc : Bool} {f : FpFmt → Nat → Nat → Nat → Nat × Nat}
    (arm : ∀ o s, exec (i o) s = .next (aluWord s o (Claims.fpShape o rb rc) (f (fpFmt o)))) : WritesFp i rb rc f := fun s o legal ready =>
  (arm o s).trans (congrArg _ (aluWord_ready s o _ _ legal ready))

theorem fpWords_write : ∀ p ∈ Claims.fpWords, WritesFp p.1 p.2.1 p.2.2.1 p.2.2.2 := by
  simp only [Claims.fpWords, List.forall_mem_cons]
  exact ⟨writesFp fun _ _ => rfl, writesFp fun _ _ => rfl, writesFp fun _ _ => rfl, writesFp fun _ _ => rfl, writesFp fun _ _ => rfl,
    writesFp fun _ _ => rfl, writesFp fun _ _ => rfl, writesFp fun _ _ => rfl, writesFp fun _ _ => rfl, writesFp fun _ _ => rfl,
    writesFp fun _ _ => rfl, writesFp fun _ _ => rfl, writesFp fun _ _ => rfl, writesFp fun _ _ => rfl, writesFp fun _ _ => rfl,
    List.forall_mem_nil _⟩

/-! ## Packed words (R138, R139) -/

/-- The packed word `i` gives, in both halves of the register of every true lane, what `f` gives for its operands' elements (R138). -/
def WritesPacked (i : LaneOp → Instr) (rc : Bool) (f : FpFmt → Nat → Nat → Nat → Nat × Nat) : Prop :=
  ∀ (s : State) (o : LaneOp), swzLegal s.me.width o.x = true → s.Ready o (Claims.packShape rc) →
    let r (k e : Nat) : Nat × Nat :=
      let x := s.sources s.me k o (Claims.packShape rc)
      f (packFmt o) (Claims.half e x.1.v) (Claims.half e x.2.1.v) (Claims.half e x.2.2.v)
    exec (i o) s = .next (s.trueLanes o
      (fun k l => l.wrOp s.me.depth o.d false ((r k 0).1 % 2 ^ 16 + 2 ^ 16 * ((r k 1).1 % 2 ^ 16))) fun k _ => (r k 0).2 ||| (r k 1).2)

theorem hi16_eq_half (v : Nat) : hi16 v = Claims.half 1 v := rfl

theorem writesPacked {i : LaneOp → Instr} {rc : Bool} {f : FpFmt → Nat → Nat → Nat → Nat × Nat}
    (arm : ∀ o s, exec (i o) s = .next (packed s o rc f)) : WritesPacked i rc f := fun s o legal ready => by
  rw [arm, packed, ← Claims.packShape, aluWord_ready s o _ _ legal ready]
  simp only [packFlags, lo16_eq_half, hi16_eq_half]
  rfl

theorem packedWords_write : ∀ p ∈ Claims.packedWords, WritesPacked p.1 p.2.1 p.2.2 := by
  simp only [Claims.packedWords, List.forall_mem_cons]
  exact ⟨writesPacked fun _ _ => rfl, writesPacked fun _ _ => rfl, writesPacked fun _ _ => rfl, writesPacked fun _ _ => rfl,
    writesPacked fun _ _ => rfl, List.forall_mem_nil _⟩

/-- Settles O7: every word is its operation on the codes that its lane reads. -/
theorem floatWordsWriteTheRoundedResult : Obligations.FloatWordsWriteTheRoundedResult :=
  ⟨fpWords_write, packedWords_write, fun s o legal ready => congrArg _ (aluWord_ready s o (Claims.packShape true) _ legal ready)⟩

end Sys2Proof.Machine
end

section
/-! O9: `cvt` and the block words (R112, R140 to R151). -/

namespace Sys2Proof.Machine

@[simp] theorem Lane.wrRegs_pc (l : Lane) (d r k v : Nat) : (l.wrRegs d r k v).pc = l.pc := by
  rw [Lane.wrRegs]
  induction List.range k generalizing l with
  | nil => rfl
  | cons i is ih => rw [List.foldl_cons, ih, Lane.wrOp_pc]

/-- A word with a CVT extension whose true lanes find every register full. -/
theorem cvtLane_full {t : State} {o : LaneOp} {k : Nat} {srcs : Group → Nat → List Src} (len : opLen o = 8)
    (act : Group → Nat → List Nat → Nat × Nat) (full : Claims.Full t o k (srcs t.me)) :
    runLanes t 8 (cvtLane srcs o.d k o act) = Claims.blockWord t o k (srcs t.me) (act t.me) := by
  have part : ∀ i ∈ t.myRun, cvtLane srcs o.d k o act t.me i (t.me.lane i) =
      if (t.me.lane i).guard o then
        { lane := (t.me.lane i).wrRegs t.me.depth o.d k (act t.me i ((srcs t.me i).map Src.v)).1, fl := (act t.me i ((srcs t.me i).map Src.v)).2 }
      else { lane := t.me.lane i } := by
    intro i hi
    rw [cvtLane]
    by_cases hg : (t.me.lane i).guard o = true
    · obtain ⟨hs, hd⟩ := full i hi hg
      simp only [hg, Bool.not_true, Bool.false_eq_true, if_false, if_true]
      exact gated_full _ _ _ _ hs hd
    · simp [hg]
  rw [runLanes_eachLane]
  · rw [Claims.blockWord, State.trueLanes, len]
    refine t.eachLane_congr (fun i hi => ?_) fun i hi => ?_
    · rw [part i hi]
      split
      · exact settle_past _ _ _ _ (by simp)
      · exact settle_past _ _ _ _ rfl
    · rw [part i hi]
      split <;> rfl
  · intro i hi
    rw [part i hi]
    split <;> rfl

/-- Settles O9: `cvt` and the block words are words of `cvtLane`; a segment longer than the group is ILLEGAL. -/
theorem conversionWordsWriteTheRuleValue : Obligations.ConversionWordsWriteTheRuleValue := by
  intro s o sfmt dfmt rnd sat subst bsz c opx hx
  have len : opLen o = 8 := by simp [opLen, hx]
  have short : ∀ {m}, m ≤ s.me.width → ¬(s.group s.cur).width < m := Nat.not_lt.2
  refine ⟨fun full => ?_, fun hm full => ?_, fun full => ?_, fun full => ?_, ⟨fun hm full => ?_, fun hm full => ?_⟩, fun full => ?_,
    fun hm => ⟨?_, ?_, ?_⟩⟩
  · change execCvt o s = _
    simp only [execCvt, hx]
    exact congrArg _ (cvtLane_full len _ full)
  · change execBamax o s = _
    simp only [execBamax, hx, if_neg (short hm)]
    exact congrArg _ (cvtLane_full len _ full)
  · change execBscale o s = _
    simp only [execBscale, hx]
    exact congrArg _ (cvtLane_full len _ full)
  · change execBquant o s = _
    simp only [execBquant, hx]
    exact congrArg _ (cvtLane_full len _ full)
  · change execBpack o s = _
    simp only [execBpack, hx, if_neg (short hm)]
    exact congrArg _ (cvtLane_full len _ full)
  · change execBunpack o s = _
    simp only [execBunpack, hx, if_neg (short hm)]
    exact congrArg _ (cvtLane_full len _ full)
  · change execBdeq o s = _
    simp only [execBdeq, hx]
    exact congrArg _ (cvtLane_full len _ full)
  · change execBamax o s = _
    simp only [execBamax, hx, if_pos hm]
  · change execBpack o s = _
    simp only [execBpack, hx, if_pos hm]
  · change execBunpack o s = _
    simp only [execBunpack, hx, if_pos hm]

end Sys2Proof.Machine
end

section
/-! O22: uniform arithmetic (R152 to R155). -/

namespace Sys2Proof.Machine

/-! ## Two operands (R153) and an immediate (R154) -/

/-- A word with an operand on numbers writes the bit vector that its number is. -/
theorem kalui_conv {s : State} (h : s.Conv) (o : UOp) {b : Nat} {f : Nat → Nat → Nat} {v : UWord} (hv : f (s.u o.a).toNat b = v.toNat) :
    kalui s o b f = s.wroteU o.d v := by
  rw [kalui, uniform_of_conv _ h, hv, BitVec.ofNat_toNat, BitVec.setWidth_eq, advance_setU]

theorem kalu_conv {s : State} (h : s.Conv) (o : UOp) {f : Nat → Nat → Nat} {v : UWord} (hv : f (s.u o.a).toNat (s.u o.b).toNat = v.toNat) :
    kalu s o f = s.wroteU o.d v := by
  rw [kalu, uniform_of_conv _ h, hv, BitVec.ofNat_toNat, BitVec.setWidth_eq, advance_setU]

/-- The word `i` writes `g` of its two operands in a converged group. -/
def WritesKalu (i : UOp → Instr) (g : UWord → UWord → UWord) : Prop :=
  ∀ (s : State) (o : UOp), s.Conv → exec (i o) s = .next (s.wroteU o.d (g (s.u o.a) (s.u o.b)))

/-- The word `i` writes `g` of its operand and its sign-extended immediate in a converged group. -/
def WritesKalui (i : UOp → Instr) (g : UWord → UWord → UWord) : Prop :=
  ∀ (s : State) (o : UOp), s.Conv → exec (i o) s = .next (s.wroteU o.d (g (s.u o.a) (Claims.low o)))

/-- The word `i` writes `g` of its operand and imm12[5:0] in a converged group. -/
def WritesShifted (i : UOp → Instr) (g : UWord → Nat → UWord) : Prop :=
  ∀ (s : State) (o : UOp), s.Conv → exec (i o) s = .next (s.wroteU o.d (g (s.u o.a) (o.imm12 % 64)))

/-- A formula on numbers that agrees with one on uniform registers, for numbers that fit one. -/
def SameOnUWords (f : Nat → Nat → Nat) (g : UWord → UWord → UWord) : Prop :=
  ∀ {a b : Nat}, a < 2 ^ 64 → b < 2 ^ 64 → f a b = (g (BitVec.ofNat 64 a) (BitVec.ofNat 64 b)).toNat

theorem SameOnUWords.toNat {f : Nat → Nat → Nat} {g : UWord → UWord → UWord} (h : SameOnUWords f g) (a b : UWord) :
    f a.toNat b.toNat = (g a b).toNat := by
  rw [h a.isLt b.isLt, BitVec.ofNat_toNat, BitVec.ofNat_toNat, BitVec.setWidth_eq, BitVec.setWidth_eq]

theorem sext_toNat {n : Nat} (hn : 0 < n) (v : Nat) : wrap 64 (sx n v) = ((BitVec.ofNat n v).signExtend 64).toNat := by
  rw [wrap_ofInt, sx_toInt hn]
  rfl

section
variable {i : UOp → Instr} {f : Nat → Nat → Nat} {g : UWord → UWord → UWord}

theorem writesKalu (arm : ∀ o s, exec (i o) s = .next (kalu s o f)) (h : SameOnUWords f g) : WritesKalu i g := fun s o conv =>
  (arm o s).trans (congrArg _ (kalu_conv conv o (h.toNat _ _)))

theorem writesKalui (arm : ∀ o s, exec (i o) s = .next (kalui s o (simm12 o) f)) (h : SameOnUWords f g) : WritesKalui i g := fun s o conv =>
  (arm o s).trans (congrArg _ (kalui_conv conv o (by rw [simm12, sext_toNat (by decide)]; exact h.toNat _ _)))

theorem writesShifted_uniform {f : Nat → Nat → Nat → Nat} {g : UWord → Nat → UWord}
    (arm : ∀ o s, exec (i o) s = .next (kalui s o (o.imm12 % 64) fun a b => f 64 a (b % 64)))
    (h : ∀ {a t : Nat}, a < 2 ^ 64 → t < 64 → f 64 a t = (g (BitVec.ofNat 64 a) t).toNat) : WritesShifted i g := fun s o conv =>
  (arm o s).trans (congrArg _ (kalui_conv conv o (by
    rw [Nat.mod_mod, h (s.u o.a).isLt (Nat.mod_lt _ (by decide)), BitVec.ofNat_toNat, BitVec.setWidth_eq])))

end

theorem bit01_eq (b : Bool) : bit01 b = (Claims.bit b).toNat := by cases b <;> rfl

theorem slt_sameOnUWords : SameOnUWords (fun a b => bit01 (sx 64 a < sx 64 b)) fun a b => Claims.bit (a.slt b) := by
  intro a b _ _
  beta_reduce
  rw [sx_toInt (by decide), sx_toInt (by decide)]
  exact bit01_eq _

theorem ult_sameOnUWords : SameOnUWords (fun a b => bit01 (a < b)) fun a b => Claims.bit (a.ult b) := by
  intro a b ha hb
  beta_reduce
  rw [BitVec.ult, toNat_lt_eq ha, toNat_lt_eq hb]
  exact bit01_eq _

/-- A shift by the low six bits of a register, from the shift by any amount below 64. -/
theorem shifted_sameOnUWords {f : Nat → Nat → Nat → Nat} {g : UWord → Nat → UWord}
    (h : ∀ {a t : Nat}, a < 2 ^ 64 → t < 64 → f 64 a t = (g (BitVec.ofNat 64 a) t).toNat) :
    SameOnUWords (fun a b => f 64 a (b % 64)) fun a b => g a (b.toNat % 64) := by
  intro a b ha hb
  beta_reduce
  rw [toNat_lt_eq hb]
  exact h ha (Nat.mod_lt _ (by decide))

theorem kaluWords_write : ∀ p ∈ Claims.kaluWords, WritesKalu p.1 p.2 := by
  simp only [Claims.kaluWords, List.forall_mem_cons]
  exact ⟨writesKalu (fun _ _ => rfl) fun _ _ => add_bv _ _ _,
    writesKalu (fun _ _ => rfl) sub_bv,
    writesKalu (fun _ _ => rfl) fun _ _ => mul_bv _ _ _,
    writesKalu (fun _ _ => rfl) mulhu_bv,
    writesKalu (fun _ _ => rfl) fun _ _ => mulhs_bv (by decide) _ _,
    writesKalu (fun _ _ => rfl) and_bv,
    writesKalu (fun _ _ => rfl) or_bv,
    writesKalu (fun _ _ => rfl) xor_bv,
    writesKalu (fun _ _ => rfl) (shifted_sameOnUWords fun _ _ => shl_bv _),
    writesKalu (fun _ _ => rfl) (shifted_sameOnUWords fun ha _ => shr_bv ha _),
    writesKalu (fun _ _ => rfl) (shifted_sameOnUWords fun _ _ => sar_bv (by decide) _),
    writesKalu (fun _ _ => rfl) (smin_bv (by decide)),
    writesKalu (fun _ _ => rfl) (smax_bv (by decide)),
    writesKalu (fun _ _ => rfl) umin_bv,
    writesKalu (fun _ _ => rfl) umax_bv,
    writesKalu (fun _ _ => rfl) slt_sameOnUWords,
    writesKalu (fun _ _ => rfl) ult_sameOnUWords, List.forall_mem_nil _⟩

theorem kaluiWords_write : ∀ p ∈ Claims.kaluiWords, WritesKalui p.1 p.2 := by
  simp only [Claims.kaluiWords, List.forall_mem_cons]
  exact ⟨writesKalui (fun _ _ => rfl) fun _ _ => add_bv _ _ _,
    writesKalui (fun _ _ => rfl) and_bv,
    writesKalui (fun _ _ => rfl) or_bv,
    writesKalui (fun _ _ => rfl) xor_bv,
    writesKalui (fun _ _ => rfl) slt_sameOnUWords,
    writesKalui (fun _ _ => rfl) ult_sameOnUWords, List.forall_mem_nil _⟩

theorem kaluiShifts_write : ∀ p ∈ Claims.kaluiShifts, WritesShifted p.1 p.2 := by
  simp only [Claims.kaluiShifts, List.forall_mem_cons]
  exact ⟨writesShifted_uniform (fun _ _ => rfl) fun _ _ => shl_bv _,
    writesShifted_uniform (fun _ _ => rfl) fun ha _ => shr_bv ha _,
    writesShifted_uniform (fun _ _ => rfl) fun _ _ => sar_bv (by decide) _, List.forall_mem_nil _⟩

/-! ## High immediates (R155) -/

theorem ofNat_highImm (o : UOp) : BitVec.ofNat 64 (highImm o) = Claims.high o := by
  rw [highImm, sext_toNat (by decide), BitVec.ofNat_toNat, BitVec.setWidth_eq]
  rfl

theorem exec_klui {s : State} (o : UOp) (h : s.Conv) : exec (.klui o) s = .next (s.wroteU o.d (Claims.high o)) := by
  change execKlui o s = _
  rw [execKlui, uniform_of_conv _ h, ofNat_highImm, advance_setU]

theorem exec_kauipc {s : State} (o : UOp) (h : s.Conv) :
    exec (.kauipc o) s = .next (s.wroteU o.d (BitVec.ofNat 64 (s.kcode s.me) + s.curPc.setWidth 64 + Claims.high o)) := by
  change execKauipc o s = _
  rw [execKauipc, uniform_of_conv _ h, BitVec.ofNat_add, BitVec.ofNat_add, BitVec.ofNat_toNat, ofNat_highImm, advance_setU]

/-- Settles O22: each formula on numbers is the rule's on 64-bit vectors. -/
theorem uniformWordsWriteTheRuleValue : Obligations.UniformWordsWriteTheRuleValue := fun s o conv =>
  ⟨fun p hp => kaluWords_write p hp s o conv, fun p hp => kaluiWords_write p hp s o conv, fun p hp => kaluiShifts_write p hp s o conv,
    exec_klui o conv, exec_kauipc o conv⟩

end Sys2Proof.Machine
end

section
/-! O60: what `Claims.RoundsTo` determines (R100, R102, R105): one code and its flags, the same past either end of a format. -/

namespace Sys2Proof.Machine

section
variable {f : FpFmt} {x y : ℝ} {r r' : Nat × Nat}

/-- The threshold of overflow, half a spacing above the largest finite magnitude (R102). -/
theorem FpFmt.top_pos (f : FpFmt) : (0 : ℝ) < (2 ^ (f.mw + 2) - 1) * 2 ^ (f.maxMag.2 - 1) :=
  mul_pos (sub_pos.2 (one_lt_pow₀ one_lt_two (by omega))) (zpow_pos two_pos _)

/-! ## One result (R100) -/

/-- A number strictly between two that are equally far away is nearer. -/
theorem nearer_between {a b c : ℝ} (hab : a < b) (hbc : b < c) (tie : |y - a| = |y - c|) : |y - b| < |y - a| := by
  rcases abs_eq_abs.1 tie with h | h
  · linarith
  · rw [abs_of_nonneg (by linarith : 0 ≤ y - a), abs_lt]
    constructor <;> linarith

/-- Two even magnitudes of a format are never equally near with none nearer: an odd one lies between. -/
theorem FpFmt.nearest_even_unique (hf : f.Ieee) (neg : Bool) {k j : Nat} (hj : j < f.infCode) (hk2 : k % 2 = 0) (hj2 : j % 2 = 0) (hkj : k < j)
    (tie : |x - signFactor neg * f.magValue k| = |x - signFactor neg * f.magValue j|)
    (nearest : ∀ c, (decodeFp f c).isFin = true → |x - signFactor neg * f.magValue k| ≤ |x - Claims.value (decodeFp f c)|) : False := by
  obtain ⟨fin, -, value⟩ := value_decodeFp_signed hf neg (show k + 1 < f.infCode by omega)
  have le := nearest _ fin
  rw [value] at le
  simp only [← abs_signFactor_mul_sub] at tie le
  exact (nearer_between (f.magValue_strictMono (Nat.lt_succ_self k)) (f.magValue_strictMono (show k + 1 < j by omega)) tie).not_ge le

theorem FpFmt.mod_two_eq (hf : f.Ieee) {c : Nat} (hc : c < 2 ^ (f.ew + f.mw + 1)) : c % 2 = f.magOf c % 2 := by
  conv_lhs => rw [← f.signed_signOf_magOf hc]
  exact f.signed_mod_two hf _ _

/-- `c` is the code of the format that `Claims.RoundsTo` allows for a number short of overflow (R100). -/
def NearestCode (f : FpFmt) (x : ℝ) (c : Nat) : Prop :=
  let v : ℝ := Claims.value (decodeFp f c)
  c < 2 ^ (f.ew + f.mw + 1) ∧ (decodeFp f c).isFin = true ∧ ((decodeFp f c).neg = true ↔ x < 0) ∧
    ∀ k, (decodeFp f k).isFin = true → let u : ℝ := Claims.value (decodeFp f k); |x - v| ≤ |x - u| ∧ (|x - v| = |x - u| → u ≠ v → c % 2 = 0)

theorem NearestCode.unique (hf : f.Ieee) {c k : Nat} (hc : NearestCode f x c) (hk : NearestCode f x k) : c = k := by
  obtain ⟨lt, fin, sign, nearest⟩ := hc
  obtain ⟨lt', fin', sign', nearest'⟩ := hk
  have same_sign : f.signOf c = f.signOf k := by rw [Bool.eq_iff_iff, ← neg_decodeFp hf, ← neg_decodeFp hf, sign, sign']
  have tie := le_antisymm (nearest _ fin').1 (nearest' _ fin).1
  have even := (nearest _ fin').2 tie
  have even' := (nearest' _ fin).2 tie.symm
  have lt_inf := (isFin_decodeFp hf _).1 fin
  have lt_inf' := (isFin_decodeFp hf _).1 fin'
  have value := value_decodeFp hf lt_inf
  have value' := value_decodeFp hf lt_inf'
  rw [← signFactor] at value value'
  rw [← same_sign] at value'
  rw [← f.signed_signOf_magOf lt, ← f.signed_signOf_magOf lt', same_sign]
  congr 1
  by_contra hne
  have apart : (Claims.value (decodeFp f c) : ℝ) ≠ Claims.value (decodeFp f k) := by
    rw [value, value']
    exact fun h => hne (f.magValue_strictMono.injective (mul_left_cancel₀ (signFactor_ne_zero _) h))
  have even := f.mod_two_eq hf lt ▸ even apart.symm
  have even' := f.mod_two_eq hf lt' ▸ even' apart
  rw [value, value'] at tie
  rcases lt_or_gt_of_ne hne with hlt | hgt
  · exact f.nearest_even_unique hf _ lt_inf' even even' hlt tie fun i hi => value ▸ (nearest i hi).1
  · exact f.nearest_even_unique hf _ lt_inf even' even hgt tie.symm fun i hi => value' ▸ (nearest' i hi).1

/-- R100, R102, R105: a number rounds to one code, with one set of flags. -/
theorem roundsTo_unique (hf : f.Ieee) (h : Claims.RoundsTo f x r) (h' : Claims.RoundsTo f x r') : r = r' := by
  obtain ⟨past, within⟩ := h
  obtain ⟨past', within'⟩ := h'
  rcases le_or_gt ((2 ^ (f.mw + 2) - 1) * 2 ^ (f.maxMag.2 - 1)) |x| with big | small
  · obtain ⟨flags, plus, minus⟩ := past big
    obtain ⟨flags', plus', minus'⟩ := past' big
    refine Prod.ext ?_ (flags.trans flags'.symm)
    rcases lt_or_gt_of_ne (abs_pos.1 (f.top_pos.trans_le big)) with hx | hx
    · rw [minus hx, minus' hx]
    · rw [plus hx, plus' hx]
  · obtain ⟨lt, fin, sign, nearest, exact, normal, sub⟩ := within small
    obtain ⟨lt', fin', sign', nearest', exact', normal', sub'⟩ := within' small
    have code : r.1 = r'.1 := NearestCode.unique hf ⟨lt, fin, sign, nearest⟩ ⟨lt', fin', sign', nearest'⟩
    refine Prod.ext code ?_
    rw [← code] at exact' normal' sub'
    by_cases hv : (Claims.value (decodeFp f r.1) : ℝ) = x
    · rw [exact hv, exact' hv]
    · rcases le_or_gt ((2 ^ (f.mw + 2) - 1) * 2 ^ (-(f.bias : ℤ) - f.mw - 1)) |x| with hn | hn
      · rw [normal hv hn, normal' hv hn]
      · rw [sub hv hn, sub' hv hn]

/-! ## Past either end of a format (R102, R105) -/

theorem FpFmt.one_lt_infCode (hf : f.Ieee) : 1 < f.infCode := by
  have two : 2 ≤ 2 ^ f.mw := Nat.le_self_pow (by have := hf.mw_pos; omega) 2
  exact lt_of_lt_of_le two (Nat.le_mul_of_pos_left _ (by have := hf.two_le; omega))

theorem decodeFp_zero (hf : f.Ieee) :
    (decodeFp f 0).isFin = true ∧ (decodeFp f 0).neg = false ∧ (Claims.value (decodeFp f 0) : ℝ) = 0 := by
  obtain ⟨fin, sign, value⟩ := value_decodeFp_signed hf false (zero_lt_one.trans (f.one_lt_infCode hf))
  rw [f.magValue_zero, mul_zero] at value
  exact ⟨fin, sign, value⟩

theorem roundsTo_zero (hf : f.Ieee) : Claims.RoundsTo f 0 (0, 0) := by
  obtain ⟨fin, sign, value⟩ := decodeFp_zero hf
  simp only [Claims.RoundsTo, fin, sign, value, abs_zero, sub_zero, lt_irrefl, ne_eq]
  refine ⟨fun h => absurd f.top_pos h.not_gt, fun _ => ⟨Nat.two_pow_pos _, trivial, by simp, fun c _ => ⟨abs_nonneg _, fun tie far => ?_⟩,
    by simp, by simp, by simp⟩⟩
  exact absurd (abs_eq_zero.1 tie.symm) (by simpa using far)

theorem roundsTo_huge (h : (2 ^ (f.mw + 2) - 1) * 2 ^ (f.maxMag.2 - 1) ≤ x) : Claims.RoundsTo f x (f.infCode, fOF + fNX) := by
  have pos := f.top_pos.trans_le h
  refine ⟨fun _ => ⟨rfl, fun _ => rfl, fun hx => absurd hx pos.not_gt⟩, fun hx => absurd h (not_le.2 ?_)⟩
  rwa [abs_of_pos pos] at hx

theorem FpFmt.magValue_one (f : FpFmt) : f.magValue 1 = 2 * (2 ^ (-(f.bias : ℤ) - f.mw) : ℝ) := by
  have step := f.magValue_succ 0
  rw [f.magValue_zero, zero_add, zero_add, FpFmt.expOf, Nat.zero_div, max_eq_right zero_le_one] at step
  rw [step, ← zpow_one_add₀ two_ne_zero]
  congr 1
  push_cast
  ring

/-- Every finite code but a zero stands for at least the smallest subnormal. -/
theorem zero_or_one_le_value (hf : f.Ieee) {c : Nat} (hc : (decodeFp f c).isFin = true) :
    (Claims.value (decodeFp f c) : ℝ) = 0 ∨ f.magValue 1 ≤ |(Claims.value (decodeFp f c) : ℝ)| := by
  rw [value_decodeFp hf ((isFin_decodeFp hf c).1 hc), ← signFactor, abs_signFactor_mul, abs_of_nonneg (f.magValue_nonneg _)]
  rcases Nat.eq_zero_or_pos (f.magOf c) with h | h
  · exact .inl (by rw [h, f.magValue_zero, mul_zero])
  · exact .inr (f.magValue_strictMono.monotone h)

theorem roundsTo_tiny (hf : f.Ieee) (pos : 0 < x) (h : x < 2 ^ (-(f.bias : ℤ) - f.mw)) : Claims.RoundsTo f x (0, fNX + fUF) := by
  obtain ⟨fin, sign, value⟩ := decodeFp_zero hf
  have one := f.magValue_one
  have below_top := f.magValue_lt_top hf (f.one_lt_infCode hf)
  have spacing : (2 : ℝ) ^ (-(f.bias : ℤ) - f.mw) = 2 * 2 ^ (-(f.bias : ℤ) - f.mw - 1) := by
    rw [← zpow_one_add₀ two_ne_zero, add_sub_cancel]
  have below_normal : x < (2 ^ (f.mw + 2) - 1) * 2 ^ (-(f.bias : ℤ) - f.mw - 1) := by
    have : (2 : ℝ) ^ 2 ≤ 2 ^ (f.mw + 2) := pow_le_pow_right₀ one_le_two (by omega)
    have : (0 : ℝ) < 2 ^ (-(f.bias : ℤ) - f.mw - 1) := zpow_pos two_pos _
    nlinarith
  simp only [Claims.RoundsTo, fin, sign, value, sub_zero, abs_of_pos pos]
  refine ⟨fun hx => absurd hx (by linarith), fun _ => ⟨Nat.two_pow_pos _, trivial, by simp [pos.le], fun c hc => ?_, fun hx => absurd hx pos.ne,
    fun _ hx => absurd hx below_normal.not_ge, by simp⟩⟩
  rcases zero_or_one_le_value hf hc with hu | hu
  · rw [hu, sub_zero, abs_of_pos pos]
    exact ⟨le_rfl, fun _ h0 => absurd rfl h0⟩
  · have : |(Claims.value (decodeFp f c) : ℝ)| - x ≤ |x - Claims.value (decodeFp f c)| := by
      rw [abs_sub_comm]
      exact le_trans (by rw [abs_of_pos pos]) (abs_sub_abs_le_abs_sub _ _)
    exact ⟨by linarith, fun tie => by linarith⟩

/-- Both numbers lie past one end of every lane format. -/
def BothBeyond (x y : ℝ) : Prop :=
  (2 ^ 1024 ≤ x ∧ 2 ^ 1024 ≤ y) ∨ (0 < x ∧ x < 2 ^ (-1075 : ℤ)) ∧ 0 < y ∧ y < 2 ^ (-1075 : ℤ)

theorem laneFmts_range : ∀ f ∈ Claims.laneFmts, f.mw + 1 + f.maxMag.2 ≤ 1024 ∧ f.bias + f.mw ≤ 1075 := by decide

/-- Past one end of the format every number rounds alike. -/
theorem BothBeyond.roundsTo (hmem : f ∈ Claims.laneFmts) (h : BothBeyond x y) (hr : Claims.RoundsTo f x r) : Claims.RoundsTo f y r := by
  have hf := laneFmts_ieee f hmem
  obtain ⟨top, bottom⟩ := laneFmts_range f hmem
  have huge : ∀ z : ℝ, 2 ^ 1024 ≤ z → (2 ^ (f.mw + 2) - 1) * 2 ^ (f.maxMag.2 - 1) ≤ z := fun z hz =>
    calc ((2 : ℝ) ^ (f.mw + 2) - 1) * 2 ^ (f.maxMag.2 - 1) ≤ 2 ^ (f.mw + 2) * 2 ^ (f.maxMag.2 - 1) :=
          mul_le_mul_of_nonneg_right (sub_le_self _ zero_le_one) (zpow_pos two_pos _).le
      _ = 2 ^ (f.mw + 1 + f.maxMag.2) := by
          rw [← zpow_natCast, ← zpow_add₀ two_ne_zero]
          congr 1
          push_cast
          ring
      _ ≤ 2 ^ (1024 : ℤ) := zpow_le_zpow_right₀ one_le_two top
      _ ≤ z := hz
  have tiny : ∀ z : ℝ, z < 2 ^ (-1075 : ℤ) → z < 2 ^ (-(f.bias : ℤ) - f.mw) := fun z hz =>
    hz.trans_le (zpow_le_zpow_right₀ one_le_two (by omega))
  rcases h with ⟨hx, hy⟩ | ⟨⟨hx0, hx⟩, hy0, hy⟩
  · rw [roundsTo_unique hf hr (roundsTo_huge (huge x hx))]
    exact roundsTo_huge (huge y hy)
  · rw [roundsTo_unique hf hr (roundsTo_tiny hf hx0 (tiny x hx))]
    exact roundsTo_tiny hf hy0 (tiny y hy)

end

end Sys2Proof.Machine
end

section
/-! O60: `exp2Of` (R136): its sum of the exponential series, and its distance from the power of two. -/

namespace Sys2Proof.Machine

/-! ## The constant ln 2 -/

theorem log_two_eq : Real.log 2 = 2 * (1 / 2 * Real.log ((1 + 1 / 3) / (1 - 1 / 3))) := by
  norm_num
  ring

/-- The model's ln 2, from the series of log((1 + x) / (1 − x)) at x = 1/3. -/
theorem ln2_near : |(ln2 : ℝ) / 2 ^ 256 - Real.log 2| ≤ 1 / 2 ^ 250 := by
  have lower := Real.sum_range_le_log_div (x := 1 / 3) (by norm_num) (by norm_num) 80
  have upper := Real.log_div_le_sum_range_add (x := 1 / 3) (by norm_num) (by norm_num) 80
  have sum : |(ln2 : ℝ) / 2 ^ 256 - 2 * ∑ i ∈ Finset.range 80, (1 / 3 : ℝ) ^ (2 * i + 1) / (2 * i + 1)| ≤ 1 / 2 ^ 251 := by
    norm_num [Finset.sum_range_succ, ln2, abs_le]
  have rest : 2 * ((1 / 3 : ℝ) ^ (2 * 80 + 1) / (1 - (1 / 3) ^ 2)) ≤ 1 / 2 ^ 251 := by norm_num
  obtain ⟨lo, hi⟩ := abs_le.1 sum
  rw [log_two_eq, abs_le]
  constructor <;> linarith

/-! ## The exponential series -/

/-- Term `p` of the series of e^(y / W), in units of 1 / W. -/
noncomputable def expTerm (W y p : Nat) : ℝ := W * (((y : ℝ) / W) ^ p / p.factorial)

/-- A quotient of naturals lies less than one below the quotient. -/
theorem cast_div_bounds (a : Nat) {b : Nat} (hb : 0 < b) : ((a / b : ℕ) : ℝ) ≤ a / b ∧ (a : ℝ) / b < (a / b : ℕ) + 1 := by
  refine ⟨Nat.cast_div_le, ?_⟩
  rw [div_lt_iff₀ (Nat.cast_pos.2 hb)]
  exact_mod_cast Nat.lt_mul_of_div_lt (Nat.lt_succ_self (a / b)) hb

section
variable {W y : Nat}

theorem expTerm_succ (p : Nat) : expTerm W y (p + 1) = expTerm W y p * y / (W * (p + 1)) := by
  rw [expTerm, expTerm, pow_succ, Nat.factorial_succ, Nat.cast_mul, Nat.cast_succ]
  field_simp

/-- Two roundings down keep a term within four units, for y up to 3/4. -/
theorem expTerm_step {p term : Nat} (hW : 0 < W) (hy : 4 * y ≤ 3 * W) (lo : (term : ℝ) ≤ expTerm W y p) (hi : expTerm W y p ≤ term + 4) :
    ((term * y / W / (p + 1) : ℕ) : ℝ) ≤ expTerm W y (p + 1) ∧ expTerm W y (p + 1) ≤ (term * y / W / (p + 1) : ℕ) + 4 := by
  have dpos : (0 : ℝ) < W * (p + 1) := by positivity
  obtain ⟨below, above⟩ := cast_div_bounds (term * y) (b := W * (p + 1)) (by positivity)
  have slack : 4 * (y : ℝ) / (W * (p + 1)) ≤ 3 := by
    rw [div_le_iff₀ dpos]
    have : 4 * (y : ℝ) ≤ 3 * W := by exact_mod_cast hy
    have : (0 : ℝ) ≤ W * p := by positivity
    linarith
  rw [Nat.div_div_eq_div_mul, expTerm_succ]
  push_cast at below above
  constructor
  · exact below.trans (by gcongr)
  · calc expTerm W y p * y / (W * (p + 1)) ≤ (term + 4) * y / (W * (p + 1)) := by gcongr
      _ = term * y / (W * (p + 1)) + 4 * y / (W * (p + 1)) := by ring
      _ ≤ _ := by linarith

/-- The model's sum stays below that of the terms, by four units a term at most. -/
theorem expSum_near (hW : W = 2 ^ 256) (hy : 4 * y ≤ 3 * W) (k p term acc : Nat) (lo : (term : ℝ) ≤ expTerm W y p)
    (hi : expTerm W y p ≤ term + 4) :
    (expSum y k (p + 1) term acc : ℝ) ≤ acc + ∑ j ∈ Finset.range k, expTerm W y (p + 1 + j) ∧
      acc + ∑ j ∈ Finset.range k, expTerm W y (p + 1 + j) ≤ expSum y k (p + 1) term acc + 4 * k := by
  have W_pos : 0 < W := hW ▸ Nat.two_pow_pos 256
  induction k generalizing p term acc with
  | zero => simp [expSum]
  | succ k ih =>
    obtain ⟨lo', hi'⟩ := expTerm_step W_pos hy lo hi
    obtain ⟨below, above⟩ := ih (p + 1) _ (acc + term * y / W / (p + 1)) lo' hi'
    have shift : ∀ j ∈ Finset.range k, expTerm W y (p + 1 + (j + 1)) = expTerm W y (p + 1 + 1 + j) := fun j _ => by
      rw [add_assoc (p + 1) 1 j, add_comm 1 j]
    rw [expSum, ← hW, Finset.sum_range_succ', add_zero, Finset.sum_congr rfl shift]
    generalize expSum y k (p + 1 + 1) (term * y / W / (p + 1)) (acc + term * y / W / (p + 1)) = r at *
    rw [Nat.cast_add] at below above
    rw [Nat.cast_succ]
    constructor <;> linarith

/-- The first term and 80 more are e^(y / W), for y up to 3/4. -/
theorem expSum_near_exp (hW : W = 2 ^ 256) (hy : 4 * y ≤ 3 * W) : |(expSum y 80 1 W W : ℝ) - W * Real.exp (y / W)| ≤ 321 := by
  have W_pos : 0 < W := hW ▸ Nat.two_pow_pos 256
  have W_pos' : (0 : ℝ) < W := Nat.cast_pos.2 W_pos
  have first : expTerm W y 0 = W := by simp [expTerm]
  obtain ⟨below, above⟩ := expSum_near hW hy 80 0 W W first.ge (by rw [first]; linarith)
  have x_nonneg : (0 : ℝ) ≤ y / W := by positivity
  have x_le : (y : ℝ) / W ≤ 1 := by
    rw [div_le_one W_pos']
    have : 4 * (y : ℝ) ≤ 3 * W := by exact_mod_cast hy
    linarith
  have series : (W : ℝ) + ∑ j ∈ Finset.range 80, expTerm W y (0 + 1 + j) = W * ∑ j ∈ Finset.range 81, ((y : ℝ) / W) ^ j / j.factorial := by
    rw [Finset.sum_range_succ' _ 80, mul_add, Finset.mul_sum, add_comm]
    simp only [expTerm, zero_add, add_comm 1, pow_zero, Nat.factorial_zero, Nat.cast_one, div_one, mul_one]
  have lower := mul_le_mul_of_nonneg_left (Real.sum_le_exp_of_nonneg x_nonneg 81) W_pos'.le
  have upper := mul_le_mul_of_nonneg_left (Real.exp_bound' x_nonneg x_le (n := 81) (by norm_num)) W_pos'.le
  have rest : W * (((y : ℝ) / W) ^ 81 * ((81 : ℕ) + 1) / (Nat.factorial 81 * (81 : ℕ))) ≤ 1 :=
    calc W * (((y : ℝ) / W) ^ 81 * ((81 : ℕ) + 1) / (Nat.factorial 81 * (81 : ℕ))) ≤ W * (1 * ((81 : ℕ) + 1) / (Nat.factorial 81 * (81 : ℕ))) := by
          gcongr
          exact pow_le_one₀ x_nonneg x_le
      _ ≤ 1 := by
          rw [hW]
          norm_num [Nat.factorial]
  rw [mul_add] at upper
  rw [series, zero_add] at below above
  rw [abs_le]
  constructor <;> linarith

end

theorem exp_sub_exp_le {a b : ℝ} (hb : b ≤ 1) : Real.exp b - Real.exp a ≤ 3 * |b - a| := by
  have tangent : Real.exp b * (a - b + 1) ≤ Real.exp a := by
    calc Real.exp b * (a - b + 1) ≤ Real.exp b * Real.exp (a - b) := by gcongr; exact Real.add_one_le_exp _
      _ = Real.exp a := by rw [← Real.exp_add, add_sub_cancel]
  have slope : Real.exp b ≤ 3 := (Real.exp_le_exp.2 hb).trans Real.exp_one_lt_three.le
  have pos := Real.exp_pos b
  have := le_abs_self (b - a)
  have := abs_nonneg (b - a)
  nlinarith

/-! ## The power of two (R136) -/

/-- The significand that `exp2Of` gives the power of two of the fraction fr / 2^sh, at 256 fractional bits. -/
def exp2Frac (sh fr : Nat) : Nat := expSum (fr * 2 ^ 256 / 2 ^ sh * ln2 / 2 ^ 256) 80 1 (2 ^ 256) (2 ^ 256)

/-- The exponent of the series, for the fraction fr / D in units of 1 / W, differs little from ln 2 times the fraction. -/
theorem exponent_near {W D fr : Nat} (hW : W = 2 ^ 256) (hD : 0 < D) (hfr : fr ≤ D) :
    |((fr * W / D * ln2 / W : ℕ) : ℝ) / W - fr / D * Real.log 2| ≤ 3 / 2 ^ 250 ∧ 4 * (fr * W / D * ln2 / W) ≤ 3 * W := by
  have W_pos : 0 < W := hW ▸ Nat.two_pow_pos 256
  have W_pos' : (0 : ℝ) < W := Nat.cast_pos.2 W_pos
  have unit : (1 : ℝ) / W ≤ 1 / 2 ^ 250 := by rw [hW]; norm_num
  have ln2_lt : (ln2 : ℝ) / W ≤ 3 / 4 := by rw [hW]; norm_num [ln2]
  have ln2_nonneg : (0 : ℝ) ≤ ln2 / W := by positivity
  have near : |(ln2 : ℝ) / W - Real.log 2| ≤ 1 / 2 ^ 250 := by
    have := ln2_near
    rw [hW]
    exact_mod_cast this
  obtain ⟨a_le, lt_a⟩ := cast_div_bounds (fr * W) hD
  generalize fr * W / D = a at *
  obtain ⟨y_le, lt_y⟩ := cast_div_bounds (a * ln2) W_pos
  generalize a * ln2 / W = y at *
  have frac_nonneg : (0 : ℝ) ≤ fr / D := by positivity
  have frac_le : (fr : ℝ) / D ≤ 1 := div_le_one_of_le₀ (Nat.cast_le.2 hfr) (Nat.cast_nonneg D)
  have a_le' : (a : ℝ) / W ≤ fr / D := by
    rw [div_le_iff₀ W_pos']
    push_cast at a_le
    rwa [div_mul_eq_mul_div]
  have le_a' : (fr : ℝ) / D ≤ a / W + 1 / W := by
    rw [← add_div, le_div_iff₀ W_pos']
    push_cast at lt_a
    rw [div_mul_eq_mul_div]
    exact lt_a.le
  have y_le' : (y : ℝ) / W ≤ a / W * (ln2 / W) := by
    rw [div_mul_div_comm, ← div_div]
    push_cast at y_le
    gcongr
  have le_y' : (a : ℝ) / W * (ln2 / W) ≤ y / W + 1 / W := by
    rw [div_mul_div_comm, ← div_div, ← add_div]
    push_cast at lt_y
    gcongr
  generalize (a : ℝ) / W = A at *
  generalize (fr : ℝ) / D = F at *
  generalize (ln2 : ℝ) / W = L at *
  obtain ⟨lo, hi⟩ := abs_le.1 near
  constructor
  · rw [abs_le]
    constructor <;> nlinarith
  · have : (y : ℝ) / W ≤ 3 / 4 := by nlinarith
    rw [div_le_iff₀ W_pos'] at this
    have : 4 * (y : ℝ) ≤ 3 * W := by linarith
    exact_mod_cast this

theorem exp2Frac_near {sh fr : Nat} (h : fr < 2 ^ sh) :
    |(exp2Frac sh fr : ℝ) + 1 / 2 - 2 ^ 256 * 2 ^ ((fr : ℝ) / 2 ^ sh)| ≤ 2 ^ 16 := by
  obtain ⟨W, hW⟩ : ∃ W, W = 2 ^ 256 := ⟨_, rfl⟩
  have W_real : (2 : ℝ) ^ 256 = W := by rw [hW]; norm_cast
  obtain ⟨near, le⟩ := exponent_near hW (Nat.two_pow_pos sh) h.le
  have sum := expSum_near_exp hW le
  rw [exp2Frac, ← hW, W_real, Real.rpow_def_of_pos two_pos, mul_comm (Real.log 2)]
  push_cast at near sum
  generalize fr * W / 2 ^ sh * ln2 / W = y at *
  have b_le : (fr : ℝ) / 2 ^ sh * Real.log 2 ≤ 1 := by
    have : (fr : ℝ) / 2 ^ sh ≤ 1 := div_le_one_of_le₀ (by exact_mod_cast h.le) (by positivity)
    have := Real.log_two_lt_d9
    have := Real.log_two_gt_d9
    nlinarith
  have y_le : (y : ℝ) / W ≤ 1 := by
    have : (0 : ℝ) < W := by rw [← W_real]; positivity
    rw [div_le_one this]
    have : 4 * (y : ℝ) ≤ 3 * W := by exact_mod_cast le
    linarith
  have up := exp_sub_exp_le (a := (fr : ℝ) / 2 ^ sh * Real.log 2) y_le
  have down := exp_sub_exp_le (a := (y : ℝ) / W) b_le
  rw [abs_sub_comm] at down
  have apart : |Real.exp (y / W) - Real.exp (fr / 2 ^ sh * Real.log 2)| ≤ 9 / 2 ^ 250 := by
    rw [abs_le]
    constructor <;> linarith
  have scaled : |W * (Real.exp (y / W) - Real.exp (fr / 2 ^ sh * Real.log 2))| ≤ 576 := by
    rw [abs_mul, ← W_real, abs_of_pos (by positivity)]
    calc (2 : ℝ) ^ 256 * _ ≤ 2 ^ 256 * (9 / 2 ^ 250) := by gcongr; rw [W_real]; exact apart
      _ = 576 := by norm_num
  rw [mul_sub] at scaled
  obtain ⟨lo, hi⟩ := abs_le.1 scaled
  obtain ⟨lo', hi'⟩ := abs_le.1 sum
  rw [abs_le]
  constructor <;> linarith

/-- `exp2Of` of an integer: a power of two whose exponent is cut off at 5000. -/
theorem exp2Of_of_int {m : Nat} {e : Int} (hm : m ≠ 0) (h : 0 ≤ e ∨ m % 2 ^ (-e).toNat = 0) :
    ∃ V : Nat, (m : ℝ) * 2 ^ e = V ∧ ∀ n, exp2Of n m e = .fin false 1 (if n then -((min V 5000 : ℕ) : ℤ) else (min V 5000 : ℕ)) := by
  by_cases he : 0 ≤ e
  · obtain ⟨k, rfl⟩ := Int.eq_ofNat_of_zero_le he
    refine ⟨m * 2 ^ k, by push_cast; rfl, fun n => ?_⟩
    have cut : min (shl m (min (k : ℤ) 13)) 5000 = min (m * 2 ^ k) 5000 := by
      rcases le_or_gt k 13 with hk | hk
      · rw [min_eq_left (a := (k : ℤ)) (b := 13) (by exact_mod_cast hk), shl, Int.toNat_natCast]
      · have big : ∀ j, 13 ≤ j → 5000 ≤ m * 2 ^ j := fun j hj =>
          le_trans (by norm_num) (Nat.mul_le_mul (Nat.pos_of_ne_zero hm) (Nat.pow_le_pow_right two_pos hj))
        rw [min_eq_right (a := (k : ℤ)) (b := 13) (by exact_mod_cast hk.le), shl, min_eq_right (a := m * 2 ^ (13 : ℤ).toNat) (big 13 le_rfl), min_eq_right (big k hk.le)]
    simp only [exp2Of, if_pos h, if_pos he, cut]
  · obtain ⟨k, hk⟩ : ∃ k : ℕ, -e = k := Int.eq_ofNat_of_zero_le (by omega)
    obtain rfl : e = -k := by omega
    rw [neg_neg, Int.toNat_natCast] at h
    obtain ⟨V, rfl⟩ := Nat.dvd_of_mod_eq_zero (h.resolve_left he)
    refine ⟨V, ?_, fun n => ?_⟩
    · rw [zpow_neg, zpow_natCast]
      push_cast
      field_simp
    · simp only [exp2Of, neg_neg, Int.toNat_natCast, h, if_true, if_neg he, Nat.mul_div_cancel_left V (Nat.two_pow_pos k)]

/-- An exponent cut off at 5000 on either side. -/
def cutOff (k : Int) : Int := if k < -5000 then -5000 else if 5000 < k then 5000 else k

/-- `exp2Of` of a number that is no integer, by its floor and its fraction. -/
theorem exp2Of_of_frac (n : Bool) {m : Nat} {e : Int} (h : ¬(0 ≤ e ∨ m % 2 ^ (-e).toNat = 0)) :
    ∃ (sh fr : Nat) (k : Int), fr < 2 ^ sh ∧ signFactor n * (m * 2 ^ e) = k + (fr : ℝ) / 2 ^ sh ∧
      exp2Of n m e = .fin false (2 * exp2Frac sh fr + 1) (cutOff k - 257) := by
  obtain ⟨sh, rfl⟩ : ∃ sh : ℕ, e = -sh := ⟨(-e).toNat, by omega⟩
  rw [neg_neg, Int.toNat_natCast] at h
  let v : Int := if n then -(m : Int) else m
  have pos : (0 : Int) < (2 ^ sh : ℕ) := by exact_mod_cast Nat.two_pow_pos sh
  have rem_nonneg := Int.emod_nonneg v pos.ne'
  have rem_lt := Int.emod_lt_of_pos v pos
  have rem : ((v % (2 ^ sh : ℕ)).toNat : ℤ) = v % (2 ^ sh : ℕ) := Int.toNat_of_nonneg rem_nonneg
  refine ⟨sh, (v % (2 ^ sh : ℕ)).toNat, v / (2 ^ sh : ℕ), by omega, ?_, ?_⟩
  · have split : ((v / (2 ^ sh : ℕ) : ℤ) : ℝ) * 2 ^ sh + ((v % (2 ^ sh : ℕ)).toNat : ℝ) = v := by
      have := Int.ediv_mul_add_emod v (2 ^ sh : ℕ)
      rw [← rem] at this
      exact_mod_cast this
    have sign : signFactor n * m = v := by cases n <;> simp [v]
    rw [← mul_assoc, sign, ← split, zpow_neg, zpow_natCast]
    field_simp
  · simp only [exp2Of, if_neg h, neg_neg, Int.toNat_natCast]
    rfl

/-- The power of two of a floor and a fraction, cut off or within 2^−240 of it. -/
theorem exp2Frac_value {sh fr : Nat} (k : Int) (h : fr < 2 ^ sh) :
    let w : ℝ := (2 * exp2Frac sh fr + 1 : ℕ) * 2 ^ (cutOff k - 257)
    let v : ℝ := k + (fr : ℝ) / 2 ^ sh
    BothBeyond w (2 ^ v) ∨ |w - 2 ^ v| ≤ 2 ^ (v - 240) := by
  intro w v
  have near := exp2Frac_near h
  have frac_nonneg : (0 : ℝ) ≤ fr / 2 ^ sh := by positivity
  have frac_lt : (fr : ℝ) / 2 ^ sh < 1 := (div_lt_one (by positivity)).2 (by exact_mod_cast h)
  have power : (2 : ℝ) ^ v = 2 ^ k * 2 ^ ((fr : ℝ) / 2 ^ sh) := by rw [Real.rpow_add two_pos, Real.rpow_intCast]
  have root_ge : 1 ≤ (2 : ℝ) ^ ((fr : ℝ) / 2 ^ sh) := Real.one_le_rpow one_le_two frac_nonneg
  have root_lt : (2 : ℝ) ^ ((fr : ℝ) / 2 ^ sh) < 2 := by
    have := Real.rpow_lt_rpow_of_exponent_lt one_lt_two frac_lt
    rwa [Real.rpow_one] at this
  have value : w = ((exp2Frac sh fr : ℝ) + 1 / 2) * 2 ^ (cutOff k - 256) := by
    have : (2 : ℝ) ^ (cutOff k - 256) = 2 * 2 ^ (cutOff k - 257) := by
      rw [← zpow_one_add₀ two_ne_zero]
      congr 1
      ring
    simp only [w, this]
    push_cast
    ring
  rw [power, value]
  generalize (exp2Frac sh fr : ℝ) + 1 / 2 = s at *
  generalize (2 : ℝ) ^ ((fr : ℝ) / 2 ^ sh) = root at *
  obtain ⟨lo, hi⟩ := abs_le.1 near
  have s_pos : 1 ≤ s := by linarith
  have s_lt : s < 2 ^ (258 : ℤ) :=
    calc s < 2 ^ 256 * 2 ^ 2 := by linarith
      _ = 2 ^ (258 : ℤ) := (pow_add 2 256 2).symm
  have mono : ∀ {i j : ℤ}, i ≤ j → (2 : ℝ) ^ i ≤ 2 ^ j := fun h => zpow_le_zpow_right₀ one_le_two h
  have pos : ∀ i : ℤ, (0 : ℝ) < 2 ^ i := fun i => zpow_pos two_pos i
  by_cases low : k < -5000
  · refine .inl (.inr ⟨⟨mul_pos (by linarith) (pos _), ?_⟩, mul_pos (pos _) (by linarith), ?_⟩)
    · calc s * 2 ^ (cutOff k - 256) < 2 ^ (258 : ℤ) * 2 ^ (cutOff k - 256) := mul_lt_mul_of_pos_right s_lt (pos _)
        _ = 2 ^ (258 + (cutOff k - 256)) := (zpow_add₀ two_ne_zero _ _).symm
        _ ≤ 2 ^ (-1075 : ℤ) := mono (by rw [cutOff, if_pos low]; norm_num)
    · calc (2 : ℝ) ^ k * root < 2 ^ k * 2 := mul_lt_mul_of_pos_left root_lt (pos _)
        _ = 2 ^ (k + 1) := (zpow_add_one₀ two_ne_zero _).symm
        _ ≤ 2 ^ (-1075 : ℤ) := mono (by omega)
  by_cases high : 5000 < k
  · refine .inl (.inl ⟨?_, ?_⟩)
    · calc (2 : ℝ) ^ (1024 : ℤ) ≤ 2 ^ (cutOff k - 256) := mono (by rw [cutOff, if_neg low, if_pos high]; norm_num)
        _ ≤ s * 2 ^ (cutOff k - 256) := le_mul_of_one_le_left (pos _).le s_pos
    · calc (2 : ℝ) ^ (1024 : ℤ) ≤ 2 ^ k := mono (by omega)
        _ ≤ 2 ^ k * root := le_mul_of_one_le_right (pos _).le root_ge
  · right
    have scale : (2 : ℝ) ^ k = 2 ^ (k - 256) * 2 ^ 256 := by
      rw [← zpow_natCast, ← zpow_add₀ two_ne_zero]
      congr 1
      push_cast
      ring
    rw [cutOff, if_neg low, if_neg high, scale, mul_assoc, mul_comm s, ← mul_sub, abs_mul, abs_of_pos (pos _)]
    calc (2 : ℝ) ^ (k - 256) * |s - 2 ^ 256 * root| ≤ 2 ^ (k - 256) * 2 ^ 16 := mul_le_mul_of_nonneg_left near (pos _).le
      _ = 2 ^ (((k - 240 : ℤ) : ℝ)) := by
          rw [Real.rpow_intCast, ← zpow_natCast, ← zpow_add₀ two_ne_zero]
          congr 1
          push_cast
          ring
      _ ≤ 2 ^ (v - 240) := Real.rpow_le_rpow_of_exponent_le one_le_two (by push_cast; linarith)

/-- A dyadic that is an integer has no fraction bit. -/
theorem dvd_of_value_int {n : Bool} {m : Nat} {e j : Int} (h : signFactor n * (m * 2 ^ e) = j) : 0 ≤ e ∨ m % 2 ^ (-e).toNat = 0 := by
  refine or_iff_not_imp_left.2 fun he => ?_
  obtain ⟨sh, rfl⟩ : ∃ sh : ℕ, e = -sh := ⟨(-e).toNat, by omega⟩
  have whole : (m : ℝ) = signFactor n * j * 2 ^ sh := by
    rw [← h, ← mul_assoc, signFactor_mul_self, one_mul, zpow_neg, zpow_natCast, inv_mul_cancel_right₀ (by positivity)]
  have sign : signFactor n * j = ((if n then -j else j : ℤ) : ℝ) := by cases n <;> simp
  rw [sign] at whole
  have whole : (m : ℤ) = (if n then -j else j) * (2 ^ sh : ℕ) := by exact_mod_cast whole
  rw [neg_neg, Int.toNat_natCast]
  exact Nat.mod_eq_zero_of_dvd (Int.natCast_dvd_natCast.1 (Dvd.intro_left _ whole.symm))

/-- The model's power of two: finite and positive; beyond the formats with the exact one, or within 2^−240 of it, and exact at an integer. -/
theorem exp2Of_near (n : Bool) {m : Nat} (e : Int) (hm : m ≠ 0) :
    let v : ℝ := signFactor n * (m * 2 ^ e)
    ∃ k i, exp2Of n m e = .fin false k i ∧ k ≠ 0 ∧
      (BothBeyond (k * 2 ^ i) (2 ^ v) ∨ |(k : ℝ) * 2 ^ i - 2 ^ v| ≤ 2 ^ (v - 240) ∧ ∀ j : ℤ, v = j → (k : ℝ) * 2 ^ i = 2 ^ v) := by
  intro v
  by_cases h : 0 ≤ e ∨ m % 2 ^ (-e).toNat = 0
  · obtain ⟨V, hV, exp⟩ := exp2Of_of_int hm h
    refine ⟨_, _, exp n, one_ne_zero, ?_⟩
    have value : v = ((if n then -(V : ℤ) else V : ℤ) : ℝ) := by
      simp only [v, hV]
      cases n <;> simp
    rw [Nat.cast_one, one_mul, value, Real.rpow_intCast]
    rcases le_or_gt V 5000 with le | gt
    · rw [min_eq_left le, sub_self, abs_zero]
      exact .inr ⟨(Real.rpow_pos_of_pos two_pos _).le, fun _ _ => rfl⟩
    · rw [min_eq_right gt.le]
      have mono : ∀ {i j : ℤ}, i ≤ j → (2 : ℝ) ^ i ≤ 2 ^ j := fun h => zpow_le_zpow_right₀ one_le_two h
      have strict : ∀ {i j : ℤ}, i < j → (2 : ℝ) ^ i < 2 ^ j := fun h => zpow_lt_zpow_right₀ one_lt_two h
      cases n with
      | false => exact .inl (.inl ⟨mono (i := 1024) (by norm_num), mono (i := 1024) (by simp; omega)⟩)
      | true => exact .inl (.inr ⟨⟨zpow_pos two_pos _, strict (by norm_num)⟩, zpow_pos two_pos _, strict (by simp; omega)⟩)
  · obtain ⟨sh, fr, k, lt, hv, exp⟩ := exp2Of_of_frac n h
    refine ⟨_, _, exp, Nat.succ_ne_zero _, ?_⟩
    rw [show v = _ from hv]
    exact (exp2Frac_value k lt).imp_right fun near => ⟨near, fun j hj => absurd (dvd_of_value_int (hv.trans hj)) h⟩

end Sys2Proof.Machine
end

section
/-! O60: `log2Of` (R136): its bits by repeated squaring, and its distance from the logarithm. -/

namespace Sys2Proof.Machine

/-! ## Repeated squaring -/

section
variable {W : Nat}

/-- A rounding down from a number of at least W units lowers its logarithm by 2 / W at most. -/
theorem logb_floor {x : ℝ} {n : Nat} (hW : 0 < W) (hn : W ≤ n) (lo : n ≤ x) (hi : x ≤ n + 1) :
    Real.logb 2 (n / W) ≤ Real.logb 2 (x / W) ∧ Real.logb 2 (x / W) ≤ Real.logb 2 (n / W) + 2 / W := by
  have W_pos : (0 : ℝ) < W := Nat.cast_pos.2 hW
  have n_ge : (W : ℝ) ≤ n := Nat.cast_le.2 hn
  have n_pos : (0 : ℝ) < n := W_pos.trans_le n_ge
  have x_pos : 0 < x := n_pos.trans_le lo
  refine ⟨Real.logb_le_logb_of_le one_lt_two (by positivity) (by gcongr), ?_⟩
  have ratio : x / W / (n / W) = x / n := div_div_div_cancel_right₀ W_pos.ne' x n
  have log_le : Real.log (x / n) ≤ 1 / W :=
    calc Real.log (x / n) ≤ x / n - 1 := Real.log_le_sub_one_of_pos (by positivity)
      _ ≤ 1 / n := by
          rw [div_sub_one n_pos.ne']
          gcongr
          linarith
      _ ≤ 1 / W := by gcongr
  rw [← sub_le_iff_le_add', ← Real.logb_div (by positivity) (by positivity), ratio, Real.logb, div_le_iff₀ (Real.log_pos one_lt_two)]
  have log2_ge : (1 : ℝ) / 2 ≤ Real.log 2 := by have := Real.log_two_gt_d9; linarith
  calc Real.log (x / n) ≤ 1 / W := log_le
    _ = 2 / W * (1 / 2) := by ring
    _ ≤ 2 / W * Real.log 2 := by gcongr

/-- The square of a number, rounded down after a division by 2^b, has twice its logarithm less b, up to 2 / W. -/
theorem logb_square {z b : Nat} (hW : 0 < W) (hz : W ≤ z) (h : W ≤ z * z / (W * 2 ^ b)) :
    Real.logb 2 ((z * z / (W * 2 ^ b) : ℕ) / W) ≤ 2 * Real.logb 2 (z / W) - b ∧
      2 * Real.logb 2 (z / W) - b ≤ Real.logb 2 ((z * z / (W * 2 ^ b) : ℕ) / W) + 2 / W := by
  have W_pos : (0 : ℝ) < W := Nat.cast_pos.2 hW
  have z_pos : (0 : ℝ) < z := W_pos.trans_le (Nat.cast_le.2 hz)
  obtain ⟨below, above⟩ := cast_div_bounds (z * z) (b := W * 2 ^ b) (by positivity)
  have floor := logb_floor hW h below above.le
  have square : ((z * z : ℕ) : ℝ) / (W * 2 ^ b : ℕ) / W = (z / W) ^ 2 / 2 ^ b := by
    push_cast
    field_simp
  have twice : Real.logb 2 ((z / W : ℝ) ^ 2 / 2 ^ b) = 2 * Real.logb 2 (z / W) - b := by
    rw [Real.logb_div (by positivity) (by positivity), Real.logb_pow, Real.logb_pow, Real.logb_self_eq_one one_lt_two, mul_one, Nat.cast_ofNat]
  rwa [square, twice] at floor

theorem log2Bits_succ (hW : W = 2 ^ 512) (k z acc : Nat) :
    log2Bits (k + 1) z acc = if z * z / W < 2 * W then log2Bits k (z * z / W) (2 * acc) else log2Bits k (z * z / W / 2) (2 * acc + 1) := by
  have double : 2 ^ 513 = 2 * W := by rw [hW, ← pow_succ']
  rw [log2Bits, ← hW, double]
  simp only [← not_lt, ite_not]

/-- The bits that repeated squaring finds are those of the logarithm, up to one unit of the last and what is rounded off. -/
theorem log2Bits_near (hW : W = 2 ^ 512) (k z acc : Nat) (lo : W ≤ z) (hi : z < 2 * W) :
    (log2Bits k z acc : ℝ) ≤ 2 ^ k * (acc + Real.logb 2 (z / W)) ∧
      2 ^ k * (acc + Real.logb 2 (z / W)) ≤ log2Bits k z acc + 1 + 2 ^ k * (2 / W) := by
  have W_pos : 0 < W := by rw [hW]; positivity
  have W_pos' : (0 : ℝ) < W := Nat.cast_pos.2 W_pos
  have unfolded := log2Bits_succ hW
  clear hW
  induction k generalizing z acc with
  | zero =>
    have ge : (W : ℝ) ≤ z := Nat.cast_le.2 lo
    have nonneg : 0 ≤ Real.logb 2 (z / W) := Real.logb_nonneg one_lt_two ((one_le_div W_pos').2 ge)
    have le_one : Real.logb 2 (z / W) ≤ 1 := by
      rw [Real.logb_le_iff_le_rpow one_lt_two (div_pos (W_pos'.trans_le ge) W_pos'), Real.rpow_one, div_le_iff₀ W_pos']
      exact_mod_cast hi.le
    have : (0 : ℝ) ≤ 2 / W := by positivity
    rw [log2Bits]
    constructor <;> linarith
  | succ k ih =>
    have step : ∀ b : Nat, W ≤ z * z / (W * 2 ^ b) → z * z / (W * 2 ^ b) < 2 * W →
        (log2Bits k (z * z / (W * 2 ^ b)) (2 * acc + b) : ℝ) ≤ 2 ^ (k + 1) * (acc + Real.logb 2 (z / W)) ∧
          2 ^ (k + 1) * (acc + Real.logb 2 (z / W)) ≤ log2Bits k (z * z / (W * 2 ^ b)) (2 * acc + b) + 1 + 2 ^ (k + 1) * (2 / W) := by
      intro b ge lt
      obtain ⟨below, above⟩ := ih _ (2 * acc + b) ge lt
      obtain ⟨lower, upper⟩ := logb_square W_pos lo ge
      have pos : (0 : ℝ) < 2 ^ k := by positivity
      generalize log2Bits k (z * z / (W * 2 ^ b)) (2 * acc + b) = r at *
      generalize Real.logb 2 ((z * z / (W * 2 ^ b) : ℕ) / W) = X' at *
      rw [Nat.cast_add, Nat.cast_mul, Nat.cast_ofNat] at below above
      rw [pow_succ]
      constructor <;> nlinarith
    have square_ge : W ≤ z * z / W := (Nat.le_div_iff_mul_le W_pos).2 (Nat.mul_le_mul lo lo)
    have square_lt : z * z / W < 4 * W := by
      rw [Nat.div_lt_iff_lt_mul W_pos]
      nlinarith
    have half := Nat.div_div_eq_div_mul (z * z) W 2
    have whole := step 0
    have halved := step 1
    rw [pow_zero, mul_one] at whole
    rw [pow_one, ← half] at halved
    rw [unfolded]
    split
    · next h => exact whole square_ge h
    · next h => exact halved (by omega) (by omega)

end

/-! ## The logarithm (R136) -/

theorem cast_value_int (v : Int) (i : Int) : (Claims.value (.fin (v < 0) v.natAbs i) : ℝ) = v * 2 ^ i := by
  rw [cast_value_fin, ← mul_assoc]
  congr 1
  by_cases hv : v < 0
  · rw [decide_eq_true hv, signFactor_true, Nat.cast_natAbs, abs_of_neg hv]
    push_cast
    ring
  · rw [decide_eq_false hv, signFactor_false, Nat.cast_natAbs, abs_of_nonneg (not_lt.1 hv), one_mul]

/-- `log2Of` of a power of two is its exponent. -/
theorem log2Of_of_pow {m : Nat} (e : Int) (h : m = 2 ^ Nat.log2 m) : log2Of m e = xrOfInt (e + Nat.log2 m) := if_pos h

/-- A dyadic that is a power of two has one significant bit. -/
theorem pow_of_value_pow {m : Nat} {e k : Int} (h : (m : ℝ) * 2 ^ e = 2 ^ k) : m = 2 ^ Nat.log2 m ∧ k = e + Nat.log2 m := by
  have value : (m : ℝ) = 2 ^ (k - e) := by
    rw [zpow_sub₀ two_ne_zero, ← h, mul_div_cancel_right₀ _ (zpow_pos two_pos e).ne']
  have nonneg : 0 ≤ k - e := by
    have pos : (0 : ℝ) < m := by rw [value]; exact zpow_pos two_pos _
    have one : (1 : ℝ) ≤ m := by exact_mod_cast Nat.cast_pos.1 pos
    rw [value] at one
    exact (one_le_zpow_iff_right₀ one_lt_two).1 one
  obtain ⟨j, hj⟩ := Int.eq_ofNat_of_zero_le nonneg
  rw [hj, zpow_natCast] at value
  obtain rfl : m = 2 ^ j := by exact_mod_cast value
  rw [Nat.log2_two_pow]
  exact ⟨rfl, by omega⟩

/-- The model's logarithm of a number that is no power of two: finite, no zero, within 2^−198 of the exact one. -/
theorem log2Of_near {m : Nat} (e : Int) (hm : m ≠ 0) (h : m ≠ 2 ^ Nat.log2 m) :
    (log2Of m e).isFin = true ∧ Claims.value (log2Of m e) ≠ 0 ∧
      |(Claims.value (log2Of m e) : ℝ) - Real.logb 2 (m * 2 ^ e)| ≤ 2 ^ (-198 : ℤ) := by
  obtain ⟨W, hW⟩ : ∃ W, W = 2 ^ 512 := ⟨_, rfl⟩
  have W_pos : 0 < W := by rw [hW]; positivity
  have W_pos' : (0 : ℝ) < W := Nat.cast_pos.2 W_pos
  have unit : (2 : ℝ) ^ 200 * (2 / W) ≤ 1 / 4 := by
    have large : (2 : ℝ) ^ 203 ≤ W := by
      rw [hW, Nat.cast_pow, Nat.cast_ofNat]
      exact pow_le_pow_right₀ one_le_two (by decide)
    calc (2 : ℝ) ^ 200 * (2 / W) ≤ 2 ^ 200 * (2 / 2 ^ 203) := by gcongr
      _ = 1 / 4 := by norm_num
  obtain ⟨k, hk⟩ : ∃ k, k = Nat.log2 m := ⟨_, rfl⟩
  have m_ge : 2 ^ k ≤ m := hk ▸ Nat.log2_self_le hm
  have m_lt : m < 2 * 2 ^ k := by rw [← pow_succ', hk]; exact Nat.lt_log2_self
  have two_k : 0 < 2 ^ k := Nat.two_pow_pos k
  have z_ge : W ≤ m * W / 2 ^ k := (Nat.le_div_iff_mul_le two_k).2 (by rw [mul_comm]; exact Nat.mul_le_mul_right W m_ge)
  have z_lt : m * W / 2 ^ k < 2 * W := (Nat.div_lt_iff_lt_mul two_k).2 (by
    rw [mul_right_comm]
    exact Nat.mul_lt_mul_of_pos_right m_lt W_pos)
  obtain ⟨below, above⟩ := log2Bits_near hW 200 _ 0 z_ge z_lt
  obtain ⟨z_le, lt_z⟩ := cast_div_bounds (m * W) two_k
  obtain ⟨lower, upper⟩ := logb_floor W_pos z_ge z_le lt_z.le
  have fraction : ((m * W : ℕ) : ℝ) / (2 ^ k : ℕ) / W = m / 2 ^ k := by
    push_cast
    field_simp
  have m_pos : (0 : ℝ) < m := Nat.cast_pos.2 (Nat.pos_of_ne_zero hm)
  have log : Real.logb 2 (m * 2 ^ e) = Real.logb 2 (m / 2 ^ k) + (e + k) := by
    rw [Real.logb_mul m_pos.ne' (zpow_pos two_pos _).ne', Real.logb_div m_pos.ne' (by positivity), ← Real.rpow_intCast,
      Real.logb_rpow two_pos (by norm_num), Real.logb_pow, Real.logb_self_eq_one one_lt_two]
    ring
  have form : log2Of m e = .fin (2 * ((e + k) * (2 ^ 200 : ℕ) + (log2Bits 200 (m * W / 2 ^ k) 0 : ℕ)) + 1 < 0)
      (2 * ((e + k) * (2 ^ 200 : ℕ) + (log2Bits 200 (m * W / 2 ^ k) 0 : ℕ)) + 1).natAbs (-201) := by
    rw [hk, hW]
    exact if_neg h
  rw [fraction] at lower upper
  rw [form, log]
  generalize log2Bits 200 (m * W / 2 ^ k) 0 = r at *
  refine ⟨rfl, ?_, ?_⟩
  · rw [ne_eq, value_fin_eq_zero_iff, Int.natAbs_eq_zero]
    omega
  · have bits : |(r : ℝ) + 1 / 2 - 2 ^ 200 * Real.logb 2 (m / 2 ^ k)| ≤ 1 := by
      rw [Nat.cast_zero, zero_add] at below above
      rw [abs_le]
      constructor <;> linarith
    have error : ((2 * ((e + k) * (2 ^ 200 : ℕ) + r) + 1 : ℤ) : ℝ) * 2 ^ (-201 : ℤ) - (Real.logb 2 (m / 2 ^ k) + (e + k)) =
        (r + 1 / 2 - 2 ^ 200 * Real.logb 2 (m / 2 ^ k)) / 2 ^ 200 := by
      push_cast
      ring
    rw [cast_value_int, error, abs_div, abs_of_pos (by positivity : (0 : ℝ) < 2 ^ 200)]
    calc |(r : ℝ) + 1 / 2 - 2 ^ 200 * Real.logb 2 (m / 2 ^ k)| / 2 ^ 200 ≤ 1 / 2 ^ 200 := by gcongr
      _ ≤ 2 ^ (-198 : ℤ) := by norm_num

/-! ## The exponential and the logarithm, rounded -/

section
variable {f : FpFmt} {a : Nat}

/-- R136: `fex2` of a finite value. -/
theorem fex2Op_rounds (hmem : f ∈ Claims.laneFmts) {n : Bool} {m : Nat} {e : Int} (hx : decodeFp f a = .fin n m e) (hm : m ≠ 0) :
    let v : ℝ := signFactor n * (m * 2 ^ e)
    (∀ k : ℤ, v = k → Claims.RoundsTo f ((2 : ℝ) ^ k) (fex2Op f a)) ∧
      ∀ r, (∀ z : ℝ, |z - (2 : ℝ) ^ v| ≤ (2 : ℝ) ^ (v - 240) → Claims.RoundsTo f z r) → fex2Op f a = r := by
  intro v
  have hf := laneFmts_ieee f hmem
  obtain ⟨k, i, exp, hk, near⟩ := exp2Of_near n e hm
  have rounded : Claims.RoundsTo f (k * 2 ^ i) (fex2Op f a) := by
    have := roundFp_roundsTo hf false (Nat.pos_of_ne_zero hk) (x := k * 2 ^ i) (.inl rfl)
    rw [signFactor_false, one_mul] at this
    rwa [fex2Op, fpFun_fin hx hm, exp, rne]
  refine ⟨fun j hj => ?_, fun r hr => ?_⟩
  · rw [← Real.rpow_intCast, ← hj]
    rcases near with far | ⟨-, same⟩
    · exact far.roundsTo hmem rounded
    · exact same j hj ▸ rounded
  · rcases near with far | ⟨close, -⟩
    · refine roundsTo_unique hf (far.roundsTo hmem rounded) (hr _ ?_)
      rw [sub_self, abs_zero]
      exact (Real.rpow_pos_of_pos two_pos _).le
    · exact roundsTo_unique hf rounded (hr _ close)

/-- What is exact for a rational number is what its real number rounds to. -/
theorem eq_of_exactly (hf : f.Ieee) {q : ℚ} {r r' : Nat × Nat} (h : Claims.Exactly f q false r) (h' : Claims.RoundsTo f q r') : r = r' := by
  by_cases h0 : q = 0
  · subst h0
    rw [Rat.cast_zero] at h'
    exact (exactly_zero_iff.1 h).trans (roundsTo_unique hf (roundsTo_zero hf) h')
  · exact roundsTo_unique hf ((exactly_iff_of_ne h0).1 h) h'

/-- R136: `flg2` of a power of two is its exponent, rounded. -/
theorem flg2Op_of_pow (hf : f.Ieee) {m : Nat} {e k : Int} (hx : decodeFp f a = .fin false m e) (hm : m ≠ 0) (hk : (m : ℝ) * 2 ^ e = 2 ^ k) :
    Claims.Exactly f (k : ℚ) false (flg2Op f a) := by
  obtain ⟨pow, rfl⟩ := pow_of_value_pow hk
  have op : flg2Op f a = rne f (xrOfInt (e + Nat.log2 m)) := by
    rw [flg2Op, fpFun_fin hx hm, if_neg Bool.false_ne_true, log2Of_of_pow e pow]
  have value : Claims.value (xrOfInt (e + Nat.log2 m)) = ((e + Nat.log2 m : ℤ) : ℚ) := by
    rw [← Rat.cast_inj (α := ℝ), xrOfInt, cast_value_int, zpow_zero, mul_one, Rat.cast_intCast]
  rw [op]
  refine Exactly.congr (rne_exactly hf rfl) value fun h0 => ?_
  rw [Int.cast_eq_zero.1 h0]
  rfl

/-- R136: `flg2` of a positive finite value. -/
theorem flg2Op_rounds (hf : f.Ieee) {m : Nat} {e : Int} (hx : decodeFp f a = .fin false m e) (hm : m ≠ 0) {r : Nat × Nat}
    (hr : ∀ z : ℝ, |z - Real.logb 2 (m * 2 ^ e)| ≤ (2 : ℝ) ^ (-198 : ℤ) → Claims.RoundsTo f z r) : flg2Op f a = r := by
  by_cases pow : m = 2 ^ Nat.log2 m
  · have value : (m : ℝ) * 2 ^ e = 2 ^ (e + Nat.log2 m) := by
      rw [add_comm, zpow_add₀ two_ne_zero, zpow_natCast]
      congr 1
      exact_mod_cast pow
    refine eq_of_exactly hf (flg2Op_of_pow hf hx hm value) (hr _ ?_)
    rw [value, ← Real.rpow_intCast, Real.logb_rpow two_pos (by norm_num), Rat.cast_intCast, sub_self, abs_zero]
    exact (zpow_pos two_pos _).le
  · obtain ⟨fin, nonzero, near⟩ := log2Of_near e hm pow
    have rounded := (exactly_iff_of_ne nonzero).1 (rne_exactly hf fin)
    have op : flg2Op f a = rne f (log2Of m e) := by rw [flg2Op, fpFun_fin hx hm, if_neg Bool.false_ne_true]
    rw [op]
    exact roundsTo_unique hf rounded (hr _ near)

end

/-- Settles O60: the model's value is one that lies within its distance of the exact one, and a number rounds to one result. -/
theorem exponentialAndLogarithmRoundTheExactValue : Obligations.ExponentialAndLogarithmRoundTheExactValue := by
  unfold Obligations.ExponentialAndLogarithmRoundTheExactValue
  intro f hmem a x hfin h0
  have hf := laneFmts_ieee f hmem
  obtain ⟨n, m, e, hx⟩ := XR.exists_of_isFin hfin
  have hm : m ≠ 0 := fun h => Bool.false_ne_true (h0.symm.trans (hx ▸ (XR.isZero_fin_iff n m e).2 h))
  obtain ⟨exp_int, exp⟩ := fex2Op_rounds hmem hx hm
  rw [hx, cast_value_fin, XR.neg]
  refine ⟨exp_int, exp, ?_⟩
  rintro rfl
  rw [signFactor_false, one_mul]
  exact ⟨fun k => flg2Op_of_pow hf hx hm, fun r => flg2Op_rounds hf hx hm⟩

end Sys2Proof.Machine
end

section
/-! Shared rules of the matrix engine: the state of its cluster after a change, bow slots (R351), the end of an operation (R187, R209). -/

namespace Sys2Proof

theorem AMap.set_set {α : Type} (m : AMap α) (i : Nat) (v w : α) : AMap.set (AMap.set m i v) i w = AMap.set m i w := by
  induction m with
  | nil => simp [AMap.set]
  | cons p r ih =>
    obtain ⟨k, x⟩ := p
    simp only [AMap.set]
    split
    · simp [AMap.set]
    · split
      · simp [AMap.set]
      · simp_all [AMap.set]

theorem AMap.get_erase_self {α : Type} (d : α) (m : AMap α) (i : Nat) : AMap.get d (AMap.erase m i) i = d := by
  rw [AMap.get, AMap.find_erase_self, Option.getD_none]

theorem AMap.get_erase_ne {α : Type} (d : α) (m : AMap α) {i j : Nat} (h : j ≠ i) :
    AMap.get d (AMap.erase m i) j = AMap.get d m j := by
  rw [AMap.get, AMap.find_erase_ne m h, AMap.get]

theorem AMap.mem_of_find {α : Type} {m : AMap α} {i : Nat} {v : α} (h : AMap.find m i = some v) : (i, v) ∈ m := by
  induction m with
  | nil => exact absurd h (by simp [AMap.find])
  | cons p r ih =>
    obtain ⟨k, w⟩ := p
    rw [AMap.find] at h
    split at h
    next hk => simp_all
    next => exact List.mem_cons_of_mem _ (ih h)

theorem AMap.find_ne_none_of_mem {α : Type} {m : AMap α} {i : Nat} {v : α} (h : (i, v) ∈ m) : AMap.find m i ≠ none := by
  induction m with
  | nil => exact absurd h List.not_mem_nil
  | cons p r ih =>
    obtain ⟨k, w⟩ := p
    rw [AMap.find]
    split
    next => exact Option.some_ne_none w
    next hk => exact ih ((List.mem_cons.1 h).resolve_left fun e => hk (congrArg Prod.fst e))

/-- A map that lists one value alone under a key, unless it is the default, reads as that value there. -/
theorem AMap.get_eq_of_mem {α : Type} {d : α} {m : AMap α} {i : Nat} {v : α} (all : ∀ w, (i, w) ∈ m → w = v) (listed : v ≠ d → (i, v) ∈ m) :
    AMap.get d m i = v := by
  rw [AMap.get]
  cases h : AMap.find m i with
  | some w => exact all w (AMap.mem_of_find h)
  | none => exact (not_imp_comm.1 listed fun hv => AMap.find_ne_none_of_mem hv h).symm

end Sys2Proof

namespace Sys2Proof.Machine

/-! ## The engine of a cluster after a change -/

theorem State.modCluster_modCluster (s : State) (c : Nat) (f f' : Cluster → Cluster) :
    (s.modCluster c f).modCluster c f' = s.modCluster c fun x => f' (f x) := by
  simp only [State.modCluster, State.cluster, AMap.get_set_self, AMap.set_set]

@[simp] theorem State.modMx_modMx (s : State) (cl : Nat) (f f' : Matrix → Matrix) :
    (s.modMx cl f).modMx cl f' = s.modMx cl fun m => f' (f m) := s.modCluster_modCluster cl _ _

@[simp] theorem State.mx_modMx (s : State) (cl : Nat) (f : Matrix → Matrix) : (s.modMx cl f).mx cl = f (s.mx cl) :=
  congrArg Cluster.mx (s.cluster_modCluster_self cl _)

@[simp] theorem State.tile_modTile (s : State) (cl t : Nat) (f : Tile → Tile) : (s.modTile cl t f).tile cl t = f (s.tile cl t) := by
  simp only [State.tile, State.modTile, mx_modMx, AMap.get_set_self]

@[simp] theorem State.mset_modSet (s : State) (cl k : Nat) (f : MSet → MSet) : (s.modSet cl k f).mset cl k = f (s.mset cl k) := by
  simp only [State.mset, State.modSet, mx_modMx, AMap.get_set_self]

@[simp] theorem State.resv_modTile (s : State) (cl t : Nat) (f : Tile → Tile) : ((s.modTile cl t f).mx cl).resv = (s.mx cl).resv := by
  simp only [State.modTile, mx_modMx]

@[simp] theorem State.tile_modOp (s : State) (cl id t : Nat) (f : MxOp → MxOp) : (s.modOp cl id f).tile cl t = s.tile cl t := by
  simp only [State.tile, State.modOp, mx_modMx]

@[simp] theorem mx_qcntAdd (s : State) (g q cl : Nat) (up : Bool) : (qcntAdd s g q up).mx cl = s.mx cl := rfl

/-- An entry of the table after a change of the entry `id`. -/
theorem State.mem_resv_modOp {s : State} {cl id : Nat} {f : MxOp → MxOp} {p : MxOp} :
    p ∈ ((s.modOp cl id f).mx cl).resv ↔ ∃ o ∈ (s.mx cl).resv, (if o.id = id then f o else o) = p := by
  simp only [State.modOp, mx_modMx, List.mem_map]

@[simp] theorem unacked_modOp (s : State) (cl id code : Nat) (f : MxOp → MxOp) : (s.modOp cl id f).unacked code = s.unacked code := rfl
@[simp] theorem unacked_mxUsed (s : State) (cl id code : Nat) : (mxUsed s cl id).unacked code = s.unacked code := rfl

theorem kind_of_granted {l : List MxOp} {n : Nat} {o : MxOp} (h : l.find? (fun o => o.kind == n && o.granted) = some o) : o.kind = n := by
  have found := List.find?_some h
  simp only [Bool.and_eq_true, beq_iff_eq] at found
  exact found.1

/-! ## Bow slots (R351) -/

/-- `m'` is `m` with some entries marked as having a bow slot. -/
def Bowed (m m' : Matrix) : Prop :=
  ∃ f : MxOp → MxOp, (∀ x, f x = x ∨ f x = { x with bow := true }) ∧ m' = { m with resv := m.resv.map f }

theorem Bowed.refl (m : Matrix) : Bowed m m := ⟨id, fun _ => .inl rfl, by rw [List.map_id]⟩

theorem Bowed.trans {m m' m'' : Matrix} (h : Bowed m m') (h' : Bowed m' m'') : Bowed m m'' := by
  obtain ⟨f, hf, rfl⟩ := h
  obtain ⟨f', hf', rfl⟩ := h'
  refine ⟨f' ∘ f, fun x => ?_, by simp only [List.map_map]⟩
  rcases hf x with e | e
  · simpa only [Function.comp_apply, e] using hf' x
  · simpa only [Function.comp_apply, e] using .inr ((hf' _).elim id id)

/-- One slot goes to the pass that is due one. -/
def Matrix.giveOne (m : Matrix) : Matrix :=
  match m.nextBow with
  | some o => { m with resv := m.resv.map fun x => if x.id = o.id then { x with bow := true } else x }
  | none => m

theorem Matrix.giveBow_eq (m : Matrix) : m.giveBow = m.giveOne.giveOne := rfl

theorem bowed_giveOne (m : Matrix) : Bowed m m.giveOne := by
  unfold Matrix.giveOne
  split
  · exact ⟨_, fun x => (ite_eq_or_eq _ _ _).symm, rfl⟩
  · exact .refl m

theorem bowed_giveBow (m : Matrix) : Bowed m m.giveBow := (bowed_giveOne m).trans (bowed_giveOne _)

theorem Bowed.sets_eq {m m' : Matrix} (h : Bowed m m') : m'.sets = m.sets := by
  obtain ⟨_, _, rfl⟩ := h
  rfl

theorem Bowed.tiles_eq {m m' : Matrix} (h : Bowed m m') : m'.tiles = m.tiles := by
  obtain ⟨_, _, rfl⟩ := h
  rfl

/-- An entry stays, marked or not. -/
theorem Bowed.mem {m m' : Matrix} (h : Bowed m m') {x : MxOp} (hx : x ∈ m.resv) : x ∈ m'.resv ∨ { x with bow := true } ∈ m'.resv := by
  obtain ⟨f, hf, rfl⟩ := h
  have hmem : f x ∈ m.resv.map f := List.mem_map_of_mem hx
  rcases hf x with e | e
  · exact .inl (e ▸ hmem)
  · exact .inr (e ▸ hmem)

/-- No entry comes in, and none changes its number. -/
theorem Bowed.id_of_mem {m m' : Matrix} (h : Bowed m m') {p : MxOp} (hp : p ∈ m'.resv) : ∃ x ∈ m.resv, p.id = x.id := by
  obtain ⟨f, hf, rfl⟩ := h
  obtain ⟨x, hx, rfl⟩ := List.mem_map.1 hp
  refine ⟨x, hx, ?_⟩
  rcases hf x with e | e <;> rw [e]

/-- A pass that has its slot keeps it. -/
theorem mem_giveBow_of_bow {m : Matrix} {o : MxOp} (ho : o ∈ m.resv) (hb : o.bow = true) : o ∈ m.giveBow.resv := by
  have same : { o with bow := true } = o := by rw [← hb]
  simpa only [same, or_self] using (bowed_giveBow m).mem ho

/-! ## Reads that are answered, sets that dissolve -/

theorem mx_settleReads (s : State) (cl : Nat) : ∃ l, (settleReads s cl).mx cl = { s.mx cl with reads := l } :=
  ⟨_, s.mx_modMx cl fun m => { m with reads := m.reads.filter _ }⟩

@[simp] theorem resv_settleReads (s : State) (cl : Nat) : ((settleReads s cl).mx cl).resv = (s.mx cl).resv := by
  obtain ⟨l, h⟩ := mx_settleReads s cl
  rw [h]

@[simp] theorem mset_settleReads (s : State) (cl k : Nat) : (settleReads s cl).mset cl k = s.mset cl k := by
  obtain ⟨l, h⟩ := mx_settleReads s cl
  rw [State.mset, h, State.mset]

@[simp] theorem tile_settleReads (s : State) (cl t : Nat) : (settleReads s cl).tile cl t = s.tile cl t := by
  obtain ⟨l, h⟩ := mx_settleReads s cl
  rw [State.tile, h, State.tile]

@[simp] theorem resv_sweepSet (s : State) (cl k : Nat) : ((sweepSet s cl k).mx cl).resv = (s.mx cl).resv := by
  simp only [sweepSet]
  split
  · rfl
  · split
    · simp only [State.mx_modMx]
    · rfl

/-- A set that still has members does not dissolve (R188). -/
theorem sweepSet_of_members {s : State} {cl k : Nat} (h : (s.mset cl k).members ≠ []) : sweepSet s cl k = s := by
  simp only [sweepSet]
  split
  · rfl
  · rename_i st hst
    have hm : st.members ≠ [] := by simpa only [State.mset, AMap.get, hst, Option.getD_some] using h
    simp only [List.isEmpty_eq_false_iff.2 hm, Bool.false_and, Bool.false_eq_true, if_false]

/-! ## The end of an operation (R187, R189, R209) -/

/-- What an entry said before it leaves the table makes no difference. -/
theorem finishOp_modOp {s : State} {cl : Nat} {o : MxOp} {f : MxOp → MxOp} (st : Nat) (fl : UWord) (hf : ∀ x, (f x).id = x.id) :
    finishOp (s.modOp cl o.id f) cl o st fl = finishOp s cl o st fl := by
  have left : ∀ l : List MxOp, (l.map fun x => if x.id = o.id then f x else x).filter (fun x => x.id != o.id) =
      l.filter fun x => x.id != o.id := by
    intro l
    induction l with
    | nil => rfl
    | cons x r ih => by_cases hx : x.id = o.id <;> simp [hx, hf, ih]
  have gone : (s.modOp cl o.id f).modMx cl (fun m => { m with resv := m.resv.filter fun x => x.id != o.id }) =
      s.modMx cl fun m => { m with resv := m.resv.filter fun x => x.id != o.id } := by
    simp only [State.modOp, State.modMx_modMx, left]
  simp only [finishOp, gone]

/-- An operation whose writes are acknowledged ends at once. -/
theorem closeOp_eq {s : State} {cl : Nat} {o : MxOp} (st : Nat) (fl : UWord) (h : s.unacked (mxCode cl o.id) = false) :
    closeOp s cl o st fl = finishOp (mxUsed s cl o.id) cl o st fl := by
  simp only [closeOp, unacked_modOp, unacked_mxUsed, h, Bool.false_eq_true, if_false]
  exact finishOp_modOp st fl fun _ => rfl

theorem blkPut_eq {s u : State} {cl : Nat} {o : MxOp} {ctx va : Nat} {bs b : List Byte} (k : State → Bool → State)
    (h : wrRange s (s.mxAcc cl o ctx) va bs = (u, .ok b)) : blkPut s cl o ctx va bs k = k u true := by
  simp only [blkPut, h]

/-- An operation ends with its status once its bytes are written; `f` does not touch requests to other devices. -/
theorem ends_endWith (s : State) (cl : Nat) (o : MxOp) (st : Nat) {f : State → State} (hf : ∀ u code, (f u).unacked code = u.unacked code) :
    Claims.Ends s cl o st f (.next (endWith s cl o st f)) := by
  intro u b hw hu
  rw [endWith, blkPut_eq _ hw, closeOp_eq st 0 (by rw [hf, hu])]

theorem ends_endOp (s : State) (cl : Nat) (o : MxOp) (st : Nat) : Claims.Ends s cl o st id (.next (endOp s cl o st)) :=
  ends_endWith s cl o st fun _ _ => rfl

theorem ends_modTile (s : State) (cl : Nat) (o : MxOp) (st t : Nat) (f : Tile → Tile) :
    Claims.Ends s cl o st (fun u => u.modTile cl t f) (.next (endWith s cl o st fun u => u.modTile cl t f)) :=
  ends_endWith s cl o st fun _ _ => rfl

/-- A write of no bytes is done at once. -/
@[simp] theorem wrRange_nil (s : State) (a : EngAcc) (va : Nat) : wrRange s a va [] = (s, .ok []) := rfl

/-- Zeros, retries and fixes report in no block (R189). -/
theorem report_of_no_block {o : MxOp} (st : Nat) (h : o.kind = 2 ∨ 4 ≤ o.kind) : o.report st = (0, []) := by
  unfold MxOp.report
  split
  case h_4 => rfl
  all_goals omega

theorem endWith_of_no_block {s : State} {cl : Nat} {o : MxOp} (st : Nat) {f : State → State} (h : o.kind = 2 ∨ 4 ≤ o.kind)
    (hf : ∀ u code, (f u).unacked code = u.unacked code) (hu : s.unacked (mxCode cl o.id) = false) :
    endWith s cl o st f = finishOp (mxUsed (f s) cl o.id) cl o st 0 := by
  rw [endWith, report_of_no_block st h, blkPut_eq _ (wrRange_nil ..), closeOp_eq st 0 (by rw [hf, hu])]

theorem endWith_modTile_of_no_block {s : State} {cl : Nat} {o : MxOp} (st t : Nat) (f : Tile → Tile) (h : o.kind = 2 ∨ 4 ≤ o.kind)
    (hu : s.unacked (mxCode cl o.id) = false) :
    endWith s cl o st (fun u => u.modTile cl t f) = finishOp (mxUsed (s.modTile cl t f) cl o.id) cl o st 0 :=
  endWith_of_no_block st h (fun _ _ => rfl) hu

/-- An operation that ends leaves the table and is recorded in its set; then its post is uncounted, slots and reads that awaited it are given, and
the set may dissolve. -/
theorem finishOp_eq (s : State) (cl : Nat) (o : MxOp) (st : Nat) (fl : UWord) :
    ∃ m : Matrix, m.resv = (s.mx cl).resv.filter (fun x => x.id != o.id) ∧
      m.sets = (s.mx cl).sets.set o.set { s.mset cl o.set with
        done := ((o.seq, st, o.doneKind, fl) :: (s.mset cl o.set).done).take 64 } ∧
      finishOp s cl o st fl =
        sweepSet (settleReads ((qcntAdd (s.modMx cl fun _ => m) o.group o.queue false).modMx cl Matrix.giveBow) cl) cl o.set := by
  by_cases h : o.kind = 0
  · simp only [finishOp, State.modSet, State.modMx_modMx, if_pos h]
    exact ⟨_, rfl, rfl, rfl⟩
  · simp only [finishOp, State.modSet, State.modMx_modMx, if_neg h]
    exact ⟨_, rfl, rfl, rfl⟩

theorem id_ne_of_mem_resv_finishOp {s : State} {cl : Nat} {o p : MxOp} {st : Nat} {fl : UWord}
    (hp : p ∈ ((finishOp s cl o st fl).mx cl).resv) : p.id ≠ o.id := by
  obtain ⟨m, hresv, _, he⟩ := finishOp_eq s cl o st fl
  rw [he, resv_sweepSet, resv_settleReads, State.mx_modMx, mx_qcntAdd, State.mx_modMx] at hp
  obtain ⟨x, hx, hid⟩ := (bowed_giveBow m).id_of_mem hp
  rw [hresv, List.mem_filter] at hx
  simpa [hid] using hx.2

/-- The count of the poster's queue falls by one; a group that does not exist counts nothing. -/
theorem qcnt_finishOp (s : State) (cl : Nat) (o : MxOp) (st : Nat) (fl : UWord) :
    ((finishOp s cl o st fl).group o.group).qcnt.get 0 o.queue =
      if o.group < s.groups.length then (s.group o.group).qcnt.get 0 o.queue - 1 else 0 := by
  obtain ⟨m, _, _, he⟩ := finishOp_eq s cl o st fl
  have hg : (finishOp s cl o st fl).groups = (qcntAdd s o.group o.queue false).groups := by
    rw [he, groups_sweepSet]
    rfl
  have hgroup : (finishOp s cl o st fl).group o.group = (qcntAdd s o.group o.queue false).group o.group := congrArg (·.getD o.group {}) hg
  rw [hgroup]
  split
  next h => rw [qcntAdd, State.group_modGroup_self s _ h, AMap.get_set_self, if_neg Bool.false_ne_true]
  next h =>
    have hnone : (qcntAdd s o.group o.queue false).group o.group = {} :=
      List.getD_eq_default _ _ (by simpa [qcntAdd] using h)
    rw [hnone]
    rfl

/-- The set keeps the status among its last 64 (R187; log entry 98). -/
theorem done_finishOp {s : State} {cl : Nat} {o : MxOp} (st : Nat) (fl : UWord) (h : (s.mset cl o.set).members ≠ []) :
    ((finishOp s cl o st fl).mset cl o.set).done = ((o.seq, st, o.doneKind, fl) :: (s.mset cl o.set).done).take 64 := by
  obtain ⟨m, _, hsets, he⟩ := finishOp_eq s cl o st fl
  let w := (qcntAdd (s.modMx cl fun _ => m) o.group o.queue false).modMx cl Matrix.giveBow
  have hw : (settleReads w cl).mset cl o.set = { s.mset cl o.set with
      done := ((o.seq, st, o.doneKind, fl) :: (s.mset cl o.set).done).take 64 } := by
    rw [mset_settleReads, State.mset, State.mx_modMx, mx_qcntAdd, State.mx_modMx, (bowed_giveBow m).sets_eq, hsets, AMap.get_set_self]
  rw [he, sweepSet_of_members (by rw [hw]; exact h), hw]

end Sys2Proof.Machine
end

section
/-! O43: the tile that a pass leaves (R165 to R167), and the elements that a load lists (R193). -/

namespace Sys2Proof.Machine

/-! ## A pass adds its products to the elements of its rows and columns -/

/-- A sparse map takes a value under a key; the value 0 is not listed. -/
theorem get_putNonzero {n : Nat} (m : AMap (BitVec n)) (k j : Nat) (v : BitVec n) :
    AMap.get 0 (if v = 0 then AMap.erase m k else AMap.set m k v) j = if k = j then v else AMap.get 0 m j := by
  by_cases hj : k = j
  · subst hj
    by_cases hv : v = 0
    · rw [if_pos hv, if_pos rfl, AMap.get_erase_self, hv]
    · rw [if_neg hv, if_pos rfl, AMap.get_set_self]
  · rw [if_neg hj]
    split
    · exact AMap.get_erase_ne 0 m (Ne.symm hj)
    · exact AMap.get_set_ne 0 m v (Ne.symm hj)

/-- What is seen of a fold whose steps and start are seen so. -/
theorem foldl_seen {σ α β : Type} {π : σ → β} {f : σ → α → σ} {g : β → α → β} {s : σ} {b : β} (l : List α)
    (h : ∀ s x, π (f s x) = g (π s) x) (hs : π s = b) : π (l.foldl f s) = l.foldl g b :=
  hs ▸ (List.foldl_hom π fun s x => (h s x).symm).symm

/-- A fold over a numbered list, seen where only the step of number `j` changes anything. -/
theorem foldl_zipIdx_at {α σ β : Type} {f : σ → α × Nat → σ} {obs : σ → β} {g : α → β → β} (j : Nat) (l : List α) (t : σ)
    (hf : ∀ t a i, i < l.length → obs (f t (a, i)) = if i = j then g a (obs t) else obs t) :
    obs (l.zipIdx.foldl f t) = (l[j]?).elim (obs t) fun a => g a (obs t) := by
  induction l using List.reverseRecOn with
  | nil => rfl
  | append_singleton l a ih =>
    have before := ih fun t a i hi => hf t a i (by rw [List.length_append]; omega)
    rw [List.zipIdx_append, List.foldl_append, Nat.zero_add]
    have last := hf (l.zipIdx.foldl f t) a l.length (by simp)
    refine last.trans ?_
    rw [before]
    rcases Nat.lt_trichotomy j l.length with h | h | h
    · rw [if_neg (by omega), List.getElem?_append_left h]
    · subst h
      simp
    · rw [if_neg (by omega), List.getElem?_eq_none (by omega), List.getElem?_eq_none (by simp; omega)]

/-- The element that a pass leaves in row `i` of its tile, from a row of A' and a column of B' (R165 to R167). -/
def addProducts (o : MxOp) (b : BTile) (row col : List XR) (old : Word) : Word :=
  (accumulate b.int (blkFld o.words 38 38 == 1) old (if b.int then exactSum (products row col) else treeSum (products row col))).1

/-- The elements after one column of a row of a pass. -/
def addCol (o : MxOp) (b : BTile) (i : Nat) (row : List XR) (el : AMap Word) (c : List XR × Nat) : AMap Word :=
  let v := addProducts o b row c.1 (el.get 0 (512 * i + c.2))
  if v = 0 then AMap.erase el (512 * i + c.2) else el.set (512 * i + c.2) v

/-- The elements after one row of a pass. -/
def addRow (o : MxOp) (b : BTile) (el : AMap Word) (r : List XR × Nat) : AMap Word :=
  ((List.range b.nb).map b.col).zipIdx.foldl (addCol o b (o.row0 + r.2) r.1) el

theorem el_openTile (t : Tile) (o : MxOp) (b : BTile) : (openTile t o b).el = t.el := by
  unfold openTile
  split <;> rfl

/-- Of a pass's effect on its tile, the elements: its rows one after another. -/
theorem el_passTile (mx : Matrix) (o : MxOp) (b : BTile) (t : Tile) :
    (passTile mx o b t).el = ((List.range o.m).map fun r => passRow mx o r).zipIdx.foldl (addRow o b) t.el := by
  have opened : (if b.fmt = 0 then openTile t o b else { openTile t o b with nb := 512 }).el = t.el := by
    split <;> exact el_openTile t o b
  unfold passTile
  refine (foldl_keeps Tile.el ?_ _ _).trans (foldl_seen _ (fun u r => ?_) opened)
  · exact fun _ _ => rfl
  · exact foldl_seen _ (fun _ _ => rfl) rfl

theorem BTile.nb_le (b : BTile) : b.nb ≤ 512 := by
  unfold BTile.nb
  split <;> omega

/-- One row of a pass, at one element: only its own row's columns take a product. -/
theorem get_addRow (o : MxOp) (b : BTile) (el : AMap Word) (row : List XR) {n i j : Nat} (hj : j < 512) :
    AMap.get 0 (addRow o b el (row, n)) (512 * i + j) =
      if o.row0 + n = i ∧ j < b.nb then addProducts o b row (b.col j) (el.get 0 (512 * i + j)) else el.get 0 (512 * i + j) := by
  have hnb := b.nb_le
  have step : ∀ (el : AMap Word) (c : List XR) (k : Nat), k < ((List.range b.nb).map b.col).length →
      AMap.get 0 (addCol o b (o.row0 + n) row el (c, k)) (512 * i + j) =
        if k = j then (if o.row0 + n = i then addProducts o b row c (el.get 0 (512 * i + j)) else el.get 0 (512 * i + j))
        else el.get 0 (512 * i + j) := by
    intro el c k hk
    rw [List.length_map, List.length_range] at hk
    simp only [addCol, get_putNonzero]
    by_cases h : o.row0 + n = i ∧ k = j
    · obtain ⟨rfl, rfl⟩ := h
      simp
    · rw [if_neg (by omega)]
      split
      · rw [if_neg (by omega)]
      · rfl
  refine (foldl_zipIdx_at (obs := fun el => AMap.get 0 el (512 * i + j))
    (g := fun c v => if o.row0 + n = i then addProducts o b row c v else v) j _ el step).trans ?_
  by_cases h : j < b.nb <;> simp [h]

/-- An element after a pass: its own sum where the pass has its row and its column (R165 to R167), else what it was. -/
theorem get_passTile (mx : Matrix) (o : MxOp) (b : BTile) (t : Tile) {i j : Nat} (hj : j < 512) :
    (passTile mx o b t).el.get 0 (512 * i + j) =
      if o.row0 ≤ i ∧ i < o.row0 + o.m ∧ j < b.nb then Claims.added mx o b (t.el.get 0 (512 * i + j)) (i - o.row0) j
      else t.el.get 0 (512 * i + j) := by
  rw [el_passTile]
  by_cases hi : o.row0 ≤ i ∧ j < b.nb
  · refine (foldl_zipIdx_at (obs := fun el => AMap.get 0 el (512 * i + j)) (g := fun row => addProducts o b row (b.col j)) (i - o.row0) _ t.el
      fun el row n _ => ?_).trans ?_
    · rw [get_addRow o b el row hj]
      congr 1
      simp only [eq_iff_iff]
      omega
    · by_cases hm : i - o.row0 < o.m
      · rw [if_pos (by omega), List.getElem?_map, List.getElem?_range hm]
        rfl
      · rw [if_neg (by omega), List.getElem?_eq_none (by simp; omega)]
        rfl
  · rw [if_neg (by omega)]
    refine (foldl_zipIdx_at (obs := fun el => AMap.get 0 el (512 * i + j)) (g := fun _ => id) (i - o.row0) _ t.el fun el row n _ => ?_).trans ?_
    · rw [get_addRow o b el row hj, if_neg (by omega)]
      exact (ite_self _).symm
    · cases (((List.range o.m).map fun r => passRow mx o r)[i - o.row0]?) <;> rfl

/-! ## The elements that a load lists -/

/-- The nonzero values of `f`, listed under 512 times the column plus the row. -/
def listedElems (nb kb : Nat) (f : Nat → Nat → Nat) : AMap Nat :=
  (List.range nb).flatMap fun j => (List.range kb).filterMap fun k => if f j k = 0 then none else some (512 * j + k, f j k)

theorem mem_listedElems {nb kb i v : Nat} {f : Nat → Nat → Nat} :
    (i, v) ∈ listedElems nb kb f ↔ ∃ j < nb, ∃ k < kb, f j k ≠ 0 ∧ 512 * j + k = i ∧ f j k = v := by
  simp [listedElems]

/-- Rows of at most 512 elements do not meet. -/
theorem get_listedElems {f : Nat → Nat → Nat} {nb kb j k : Nat} (hj : j < nb) (hk : k < kb) (hkb : kb ≤ 512) :
    AMap.get 0 (listedElems nb kb f) (512 * j + k) = f j k := by
  refine AMap.get_eq_of_mem (fun w hw => ?_) fun hne => mem_listedElems.2 ⟨j, hj, k, hk, hne, rfl, rfl⟩
  obtain ⟨j', _, k', hk', _, hkey, rfl⟩ := mem_listedElems.1 hw
  obtain ⟨rfl, rfl⟩ : j' = j ∧ k' = k := by omega
  rfl

end Sys2Proof.Machine
end

section
/-! O43: the events of the reservation table (R161 to R169, R176, R185 to R193, R198, R201, R209, R351, R352). -/

namespace Sys2Proof.Machine

/-! ## Acceptance (R191, R198) -/

/-- The state once the engine has an entry's posting fields `words` and its tile `t`. -/
def takeEntry (s : State) (cl : Nat) (o : MxOp) (t : Nat) (words : List UWord) : State :=
  let own := (s.tile cl t).owner
  let names := o.kind != 1
  let other := names && own.isSome && own != some o.set
  let prio := (s.launch (s.teamOf (s.group o.group)).launch).e.prio
  let g := s.group ((s.mset cl o.set).members.find ((s.mset cl o.set).elected.getD 0) |>.getD o.group)
  let f := blkFld words 35 32
  let tol := g.mxtol.get (mxtolReset f) f
  let bnd := if o.kind = 3 ∧ blkFld words 431 431 = 1 then
      some ((s.launchOf (s.group o.group)).bnd.get {} (blkFld words 437 432)) else none
  let s := if names && own.isNone then s.modTile cl t fun x => { x with owner := some o.set } else s
  let s := (mxUsed s cl o.id).modOp cl o.id fun _ =>
    { o with words := words, accepted := true, peers := s.grants (s.teamOf (s.group o.group)).launch, tile := t, prio := prio, born := s.stamp,
             since := s.clock, bnd := bnd, page := none, failed := false, tolRel := fld tol 15 0, tolAbs := sx 9 (fld tol 24 16),
             outcome := if other then 20 else 0 }
  (settleReads (s.modMx cl Matrix.giveBow) cl).tick

section
variable {s : State} {cl k : Nat} {o : MxOp} (ho : (s.mx cl).resv[k]? = some o) (ha : o.accepted = false) (hd : o.doomed = false)
  (hc : o.closing = none)
include ho ha hd hc

/-- A zero and a fix have no block to read. -/
theorem exec_matrixAccept_of_no_block (hk : o.kind ∈ [2, 5, 6]) : exec (.matrixAccept cl k) s = .next (takeEntry s cl o o.tile []) := by
  have noBlock : (o.kind = 2 || o.kind = 5 || o.kind = 6) = true := by simpa [or_assoc] using hk
  have waits : ¬(o.accepted || o.closing.isSome) = true := by simp [ha, hc]
  show execMatrixAccept cl k s = _
  simp only [execMatrixAccept, ho]
  rw [if_neg waits, if_neg (Bool.eq_false_iff.1 hd), if_pos noBlock]
  rfl

theorem exec_matrixAccept_of_block {b : List Byte} (hk : o.kind ∉ [2, 5, 6]) (hb : rdRange s (s.mxAcc cl o o.ctx) o.blk 256 = (s, .ok b)) :
    exec (.matrixAccept cl k) s = .next (takeEntry s cl o (blkFld (wordsOf 32 b) 1 0) (wordsOf 32 b)) := by
  have block : ¬(o.kind = 2 || o.kind = 5 || o.kind = 6) = true := by simpa [or_assoc] using hk
  have waits : ¬(o.accepted || o.closing.isSome) = true := by simp [ha, hc]
  show execMatrixAccept cl k s = _
  simp only [execMatrixAccept, ho]
  rw [if_neg waits, if_neg (Bool.eq_false_iff.1 hd), if_neg block, hb]
  rfl

end

/-- An entry that is replaced by `e` stands in the table, with a bow slot or without; the tiles stay. -/
theorem giveBow_modOp_spec {s : State} {cl : Nat} {o : MxOp} (e : MxOp) (ho : o ∈ (s.mx cl).resv) :
    let u := (settleReads ((s.modOp cl o.id fun _ => e).modMx cl Matrix.giveBow) cl).tick
    (∀ t, u.tile cl t = s.tile cl t) ∧ (e ∈ (u.mx cl).resv ∨ { e with bow := true } ∈ (u.mx cl).resv) := by
  let v := s.modOp cl o.id fun _ => e
  have he : e ∈ (v.mx cl).resv := State.mem_resv_modOp.2 ⟨o, ho, if_pos rfl⟩
  have hb := bowed_giveBow (v.mx cl)
  refine ⟨fun t => ?_, ?_⟩
  · show (settleReads (v.modMx cl Matrix.giveBow) cl).tile cl t = _
    rw [tile_settleReads, State.tile, State.mx_modMx, hb.tiles_eq]
    exact State.tile_modOp ..
  · show e ∈ ((settleReads (v.modMx cl Matrix.giveBow) cl).mx cl).resv ∨ _ ∈ ((settleReads (v.modMx cl Matrix.giveBow) cl).mx cl).resv
    rw [resv_settleReads, State.mx_modMx]
    exact hb.mem he

/-- The accepted entry stands in the table; its tile, where no set owned it, belongs to its set, and of another set's tile it has status 20. -/
theorem takeEntry_spec {s : State} {cl : Nat} {o : MxOp} (t : Nat) (words : List UWord) (ho : o ∈ (s.mx cl).resv) :
    ((s.tile cl t).owner = none → ((takeEntry s cl o t words).tile cl t).owner = if o.kind = 1 then none else some o.set) ∧
    ∃ p ∈ ((takeEntry s cl o t words).mx cl).resv, p.id = o.id ∧ p.accepted = true ∧ p.tile = t ∧ p.words = words ∧ p.since = s.clock ∧
      p.prio = (s.launch (s.teamOf (s.group o.group)).launch).e.prio ∧
      (∀ x, o.kind ≠ 1 → (s.tile cl t).owner = some x → p.outcome = if x = o.set then 0 else 20) := by
  let s₁ := if (o.kind != 1 && (s.tile cl t).owner.isNone) = true then s.modTile cl t fun x => { x with owner := some o.set } else s
  have clock : s₁.clock = s.clock := by
    simp only [s₁]
    split <;> rfl
  have resv : (s₁.mx cl).resv = (s.mx cl).resv := by
    simp only [s₁]
    split
    · exact State.resv_modTile ..
    · rfl
  have status : ∀ x, o.kind ≠ 1 → (s.tile cl t).owner = some x →
      (if (o.kind != 1 && (s.tile cl t).owner.isSome && (s.tile cl t).owner != some o.set) = true then 20 else 0) =
        if x = o.set then 0 else 20 := by
    intro x hk hx
    simp [hk, hx]
  obtain ⟨tile, entry⟩ := giveBow_modOp_spec (s := mxUsed s₁ cl o.id) _ (resv ▸ ho)
  refine ⟨fun free => ?_, ?_⟩
  · have owned : (s₁.tile cl t).owner = if o.kind = 1 then none else some o.set := by
      by_cases hk : o.kind = 1 <;> simp [s₁, hk, free]
    exact (congrArg Tile.owner (tile t)).trans owned
  · rcases entry with h | h <;> exact ⟨_, h, rfl, rfl, rfl, rfl, clock, rfl, status⟩

/-! ## Aging (R351) -/

section
variable {s : State} {cl k : Nat} {o : MxOp} (ho : (s.mx cl).resv[k]? = some o)
include ho

theorem exec_reservationAging_of_old (ha : o.accepted = true) (hg : o.granted = false) (h : o.since + 8192 ≤ s.clock) :
    exec (.reservationAging cl k) s = .next (s.modOp cl o.id fun o => { o with prio := min 3 (o.prio + 1), since := o.since + 8192 }) := by
  show execReservationAging cl k s = _
  simp only [execReservationAging, ho, ha, hg, Nat.not_lt.2 h]
  rfl

theorem exec_reservationAging_of_young (h : s.clock < o.since + 8192) : exec (.reservationAging cl k) s = .next s := by
  show execReservationAging cl k s = _
  simp [execReservationAging, ho, h]

end

/-! ## Grants (R198, R351) -/

theorem mxMayReach_of_no_memory {s : State} {cl : Nat} {o : MxOp} (hk : o.kind ∈ [2, 5, 6]) : mxMayReach s cl o = (s, .ok []) := by
  have none : s.mxRanges cl o = [] := by
    simp only [List.mem_cons, List.not_mem_nil, or_false] at hk
    rcases hk with h | h | h <;> simp only [State.mxRanges, h]
  simp only [mxMayReach, none, List.flatMap_nil, engMayReach]

/-- The tile of a drain that is granted (R175, R208). -/
def startCheck (t : Tile) : Tile :=
  if t.stopped.isSome then t
  else
    match t.st with
    | .zeroed => { t with st := .checking, was := 0 }
    | .held => { t with st := .checking }
    | .kept => { t with st := .checking, was := 2, er := t.keptR, ec := t.keptC }
    | _ => { t with st := .checking, was := 1 }

theorem startCheck_spec {t : Tile} (h : t.stopped = none) : (startCheck t).st = .checking ∧ (startCheck t).el = t.el := by
  unfold startCheck
  rw [if_neg (by simp [h])]
  split <;> exact ⟨rfl, rfl⟩

/-- What a failed check or an earlier failed access leaves: the operation ends with its status. -/
theorem exec_reservationGrant_of_refused {s : State} {cl unit st : Nat} {o : MxOp} (hb : s.best cl unit = some o)
    (he : o.ends.getD (s.opCheck cl o) = st) (hst : st ≠ 0) : exec (.reservationGrant cl unit) s = .next (endOp s cl o st) := by
  show execReservationGrant cl unit s = _
  simp [execReservationGrant, hb, he, hst]

section
variable {s : State} {cl unit : Nat} {o : MxOp} (hb : s.best cl unit = some o) (he : o.ends = none) (hst : s.opCheck cl o = 0)
  (hr : mxMayReach s cl o = (s, .ok []))
include hb he hst hr

theorem exec_reservationGrant_plain (hk : o.kind ∈ [1, 2, 4, 5, 6] ∨ (o.kind = 0 ∧ burstRoom (s.mx cl) o = true ∧ (s.tile cl o.tile).st ≠ .kept)) :
    exec (.reservationGrant cl unit) s = .next (s.modOp cl o.id fun o => { o with granted := true, page := none, failed := false }) := by
  show execReservationGrant cl unit s = _
  simp only [List.mem_cons, List.not_mem_nil, or_false] at hk
  rcases hk with hk | ⟨hk, room, kept⟩
  · rcases hk with h | h | h | h | h <;> simp [execReservationGrant, hb, he, hst, hr, h]
  · simp [execReservationGrant, hb, he, hst, hr, hk, room, kept]

/-- An opening from Kept first writes the checkpoint image (R170). -/
theorem exec_reservationGrant_kept {u : State} {b : List Byte} (hk : o.kind = 0) (room : burstRoom (s.mx cl) o = true)
    (kept : (s.tile cl o.tile).st = .kept)
    (hw : wrRange s (s.mxAcc cl o o.ctx) (blkFld o.words 127 64) (s.tile cl o.tile).image = (u, .ok b)) :
    exec (.reservationGrant cl unit) s = .next (u.modOp cl o.id fun o => { o with granted := true, page := none, failed := false }) := by
  show execReservationGrant cl unit s = _
  simp [execReservationGrant, hb, he, hst, hr, hk, room, kept, hw]

/-- The tile of a granted drain is checked next; its elements stay. -/
theorem exec_reservationGrant_drain (hk : o.kind = 3) (hs : (s.tile cl o.tile).stopped = none) :
    ∃ t, exec (.reservationGrant cl unit) s = .next t ∧ (t.tile cl o.tile).st = .checking ∧ (t.tile cl o.tile).el = (s.tile cl o.tile).el ∧
      ∀ p ∈ (t.mx cl).resv, p.id = o.id → p.granted = true := by
  let g := s.modOp cl o.id fun o => { o with granted := true, page := none, failed := false }
  have run : exec (.reservationGrant cl unit) s = .next (g.modTile cl o.tile startCheck) := by
    show execReservationGrant cl unit s = _
    simp only [execReservationGrant, hb, he, hst, hr, hk]
    rfl
  have granted : ∀ p ∈ (g.mx cl).resv, p.id = o.id → p.granted = true := by
    intro p hp hid
    obtain ⟨x, _, rfl⟩ := State.mem_resv_modOp.1 hp
    by_cases hx : x.id = o.id
    · rw [if_pos hx]
    · exact absurd (by rwa [if_neg hx] at hid) hx
  obtain ⟨st, el⟩ := startCheck_spec hs
  refine ⟨_, run, ?_, ?_, ?_⟩
  · rwa [State.tile_modTile, State.tile_modOp]
  · rwa [State.tile_modTile, State.tile_modOp]
  · rwa [State.resv_modTile]

end

/-! ## Power tokens (R352) -/

theorem exec_tokenTake {s : State} {cl : Nat} (ht : (s.mx cl).token = false) (hr : cl % 24 ∈ (s.die (cl / 24)).ring) (hw : s.wantsToken cl = true)
    (hc : (s.mx cl).relCycle = 0 ∨ (s.mx cl).relCycle + 24 ≤ s.clock) :
    exec (.tokenTake cl) s = .next ((s.modMx cl fun mx => { mx with token := true }).modDie (cl / 24) fun d =>
      { d with ring := d.ring.erase (cl % 24) }) := by
  have waited : ¬((s.mx cl).relCycle ≠ 0 ∧ s.clock < (s.mx cl).relCycle + 24) := by omega
  show execTokenTake cl s = _
  simp [execTokenTake, ht, hr, hw, waited]

theorem exec_burstStart {s : State} {cl : Nat} (ht : (s.mx cl).token = true) (hb : (s.mx cl).burst = none)
    (hg : ∀ c, (s.die (cl / 24)).lastBurst = some c → c + (s.die (cl / 24)).mingap ≤ s.clock) :
    exec (.burstStart cl) s = .next ((s.modMx cl fun mx => { mx with burst := some 4096 }).modDie (cl / 24) fun d =>
      { d with lastBurst := some s.clock }) := by
  show execBurstStart cl s = _
  cases hl : (s.die (cl / 24)).lastBurst with
  | none => simp [execBurstStart, ht, hb, hl]
  | some c => simp [execBurstStart, ht, hb, hl, hg c hl]

theorem exec_burstEnd {s : State} {cl : Nat} (ht : (s.mx cl).token = true) (ho : s.burstOver cl = true) :
    exec (.burstEnd cl) s = .next ((s.modMx cl fun mx => { mx with token := false, burst := none, relCycle := s.clock }).modDie (cl / 24) fun d =>
      if d.retire = 0 then { d with ring := d.ring ++ [(cl + 1) % 24] } else { d with retire := d.retire - 1 }) := by
  show execBurstEnd cl s = _
  simp [execBurstEnd, ht, ho]

end Sys2Proof.Machine
end

section
/-! O43: feeds (R201, R202), row-groups (R162), passes (R165 to R168, R176), loads (R193) and zeros. -/

namespace Sys2Proof.Machine

/-! ## Feeds -/

/-- A feed of the row and the member that the fetch is for. -/
def Fetch.same (f : Fetch) (x : Feed) : Bool := x.set == f.set && x.seq == f.seq && x.row == f.row && x.member == f.member

/-- The feed that a fetch brings. -/
def Fetch.feed (f : Fetch) (bytes scales : List Byte) : Feed :=
  { set := f.set, seq := f.seq, row := f.row, member := f.member, bytes := bytes, scales := scales, no := f.no }

/-- Bytes and scales that are there before their row-group streams replace an earlier feed, unless a later one is there (R202). -/
theorem exec_feedFetchLands {s : State} {cl k : Nat} {f : Fetch} {b sc : List Byte} {o : MxOp} (hf : (s.mx cl).fetches[k]? = some f)
    (hb : engReadAt s (Claims.feedAcc s cl f) f.tgt f.nbytes = (s, .ok b))
    (hsc : (f.nscales = 0 ∧ sc = []) ∨ (f.nscales ≠ 0 ∧ engReadAt s (Claims.feedAcc s cl f) f.stgt f.nscales = (s, .ok sc)))
    (ho : (s.mx cl).resv.find? (fun o => o.set == f.set && o.seq == f.seq && o.kind == 0) = some o) (hs : o.streamed ≤ f.row / 4) :
    ∃ u : State, (u.mx cl).fetches = (s.mx cl).fetches.erase f ∧ (u.mx cl).feeds = (s.mx cl).feeds ∧
      exec (.feedFetchLands cl k) s = .next (
        if (s.mx cl).feeds.any fun x => f.same x && f.no < x.no then u
        else u.modMx cl fun mx => { mx with feeds := (mx.feeds.filter fun x => !f.same x) ++ [f.feed b sc] }) := by
  have scales : (if f.nscales = 0 then (s, EngRes.ok []) else engReadAt s (Claims.feedAcc s cl f) f.stgt f.nscales) = (s, .ok sc) := by
    rcases hsc with ⟨h, rfl⟩ | ⟨h, hsc⟩
    · rw [if_pos h]
    · rw [if_neg h, hsc]
  let d := dropAnswers (s.modMx cl fun mx => { mx with fetches := mx.fetches.erase f }) (.feed cl f.no)
  have hd : d.mx cl = { s.mx cl with fetches := (s.mx cl).fetches.erase f } := s.mx_modMx cl fun mx => { mx with fetches := mx.fetches.erase f }
  have op : ∀ g, (d.modOp cl o.id g).mx cl = { d.mx cl with resv := (d.mx cl).resv.map fun x => if x.id = o.id then g x else x } := fun g =>
    d.mx_modMx cl _
  have early : decide (f.row / 4 < o.streamed) = false := decide_eq_false (Nat.not_lt.2 hs)
  have run : ∃ g, exec (.feedFetchLands cl k) s = .next (
      if (s.mx cl).feeds.any fun x => f.same x && f.no < x.no then d.modOp cl o.id g
      else (d.modOp cl o.id g).modMx cl fun mx => { mx with feeds := (mx.feeds.filter fun x => !f.same x) ++ [f.feed b sc] }) := by
    have find : (d.mx cl).resv.find? (fun o => o.set == f.set && o.seq == f.seq && o.kind == 0) = some o := by rw [hd, ho]
    have feeds : (d.mx cl).feeds = (s.mx cl).feeds := by rw [hd]
    apply Exists.intro
    unfold Claims.feedAcc at hb scales
    show execFeedFetchLands cl k s = _
    simp only [execFeedFetchLands, hf, hb, scales]
    rw [find]
    simp only [early, Bool.false_or]
    rw [← feeds]
    rfl
  obtain ⟨g, run⟩ := run
  refine ⟨d.modOp cl o.id g, ?_, ?_, run⟩
  · rw [op, hd]
  · rw [op, hd]

/-! ## Row-groups and passes -/

theorem exec_rowGroupStream {s : State} {cl : Nat} {o : MxOp} (ho : (s.mx cl).resv.find? (fun o => o.kind == 0 && o.granted) = some o)
    (hm : 4 * o.streamed < o.m) (hf : groupFed (s.mx cl) o o.streamed = true) :
    exec (.rowGroupStream cl) s = .next ((s.modOp cl o.id fun p =>
      { p with streamed := p.streamed + 1,
               sconf := p.sconf || (List.range 4).any fun r => rowConflict (s.mx cl) o (4 * o.streamed + r) }).modMx cl fun m =>
        { m.giveBow with burst := m.burst.map fun n => n - rowCycles o.afmt }) := by
  have more : ¬(o.m ≤ 4 * o.streamed || !groupFed (s.mx cl) o o.streamed) = true := by simp [hm, hf]
  show execRowGroupStream cl s = _
  simp only [execRowGroupStream, ho]
  rw [if_neg more]

section
variable {s : State} {cl : Nat} {o : MxOp} {b : BTile}
  (ho : (s.mx cl).resv.find? (fun o => o.kind == 0 && o.granted && (o.doomed || o.m ≤ 4 * o.streamed)) = some o) (hb : (s.mx cl).b = some b)
include ho hb

/-- A pass that has streamed, or was doomed, ends by the first of its conditions that holds. -/
theorem exec_passComplete : exec (.passComplete cl) s = .next (
    if o.doomed then endOp s cl o 9
    else if o.outcome = 11 then endOp s cl o 11
    else if o.poisoned then endOp s cl o 10
    else endWith s cl o 1 fun s' => s'.modTile cl o.tile (passTile (s.mx cl) o b)) := by
  show execPassComplete cl s = _
  simp only [execPassComplete, ho, hb]

/-- Only a pass that was neither doomed, faulted nor poisoned adds its products, and at its end alone (log entry 36). -/
theorem passComplete_ends :
    let r := exec (.passComplete cl) s
    (o.doomed = true → Claims.Ends s cl o 9 id r) ∧
    (o.doomed = false → o.outcome = 11 → Claims.Ends s cl o 11 id r) ∧
    (o.doomed = false → o.outcome ≠ 11 → o.poisoned = true → Claims.Ends s cl o 10 id r) ∧
    (o.doomed = false → o.outcome ≠ 11 → o.poisoned = false →
      Claims.Ends s cl o 1 (fun u => u.modTile cl o.tile (passTile (s.mx cl) o b)) r) := by
  simp only [exec_passComplete ho hb]
  refine ⟨fun h9 => ?_, fun h9 h11 => ?_, fun h9 h11 h10 => ?_, fun h9 h11 h10 => ?_⟩
  · rw [if_pos h9]
    exact ends_endOp s cl o 9
  all_goals rw [if_neg (Bool.eq_false_iff.1 h9)]
  · rw [if_pos h11]
    exact ends_endOp s cl o 11
  all_goals rw [if_neg h11]
  · rw [if_pos h10]
    exact ends_endOp s cl o 10
  · rw [if_neg (Bool.eq_false_iff.1 h10)]
    exact ends_modTile s cl o 1 o.tile _

end

/-! ## Loads and zeros -/

/-- The bytes of an image of a plain format are those of its elements. -/
theorem imageBytes_of_plain {w : List UWord} (h : isMx (blkFld w 195 192) = false) :
    imageBytes w = (if blkFld w 195 192 = 0 then 256 else 512) * (blkFld w 207 198 * fmtBits (blkFld w 195 192) / 8) := by
  simp [imageBytes, h]

theorem exec_bLoadComplete {s : State} {cl : Nat} {o : MxOp} {b : List Byte}
    (ho : (s.mx cl).resv.find? (fun o => o.kind == 1 && o.granted) = some o) (he : o.ends = none) (hx : isMx (blkFld o.words 195 192) = false)
    (hb : rdRange s (s.mxAcc cl o o.ctx) (blkFld o.words 191 128) (imageBytes o.words) = (s, .ok b)) :
    exec (.bLoadComplete cl) s = .next (endWith s cl o 1 fun u => u.modMx cl fun mx =>
      let fmt := blkFld o.words 195 192
      let kb := blkFld o.words 207 198
      let per := kb * fmtBits fmt / 8
      { mx with b := some { fmt := fmt, bsz := blkFld o.words 197 196, kb := kb,
                            el := listedElems (if fmt = 0 then 256 else 512) kb fun j k =>
                              streamElem (fmtBits fmt) (bytesNat ((b.drop (j * per)).take per)) k },
                sets := mx.sets.map fun p => (p.1, { p.2 with loaded := true }) }) := by
  show execBLoadComplete cl s = _
  simp only [execBLoadComplete, ho, he, hb, hx]
  rfl

theorem exec_tileZeroComplete {s : State} {cl : Nat} {o : MxOp} (ho : (s.mx cl).resv.find? (fun o => o.kind == 2 && o.granted) = some o)
    (hu : s.unacked (mxCode cl o.id) = false) :
    exec (.tileZeroComplete cl) s =
      .next (finishOp (mxUsed (s.modTile cl o.tile fun t => { owner := t.owner }) cl o.id) cl o 1 0) := by
  rw [← endWith_modTile_of_no_block 1 _ _ (.inl (kind_of_granted ho)) hu]
  show execTileZeroComplete cl s = _
  simp only [execTileZeroComplete, ho]

/-! ## The obligation -/

/-- Settles O43: each event is its own branch of the model; ends go through the write of the report, and a pass changes each element once. -/
theorem matrixEventsRunTheReservationTable : Obligations.MatrixEventsRunTheReservationTable := by
  unfold Obligations.MatrixEventsRunTheReservationTable
  intro s cl k unit mx die
  refine ⟨?_, ?_, ?_, fun o ho hb => mem_giveBow_of_bow ho hb,
    fun o st fl => ⟨fun p => id_ne_of_mem_resv_finishOp, qcnt_finishOp s cl o st fl, done_finishOp st fl⟩,
    exec_tokenTake, exec_burstStart, exec_burstEnd, ?_, fun o => exec_rowGroupStream, fun o b => passComplete_ends,
    fun o b t i j => get_passTile mx o b t, ?_, fun o => exec_tileZeroComplete⟩
  · intro o ho ha hd hc acc taken
    have taking : ∀ tl ws, exec (.matrixAccept cl k) s = .next (takeEntry s cl o tl ws) → taken tl ws := fun tl ws he =>
      ⟨_, he, takeEntry_spec tl ws (List.mem_of_getElem? ho)⟩
    exact ⟨fun hk => taking _ _ (exec_matrixAccept_of_no_block ho ha hd hc hk),
      fun b hk hb => taking _ _ (exec_matrixAccept_of_block ho ha hd hc hk hb)⟩
  · intro o ho
    exact ⟨exec_reservationAging_of_old ho, exec_reservationAging_of_young ho⟩
  · intro o hb grant
    refine ⟨fun he hst hreach => ?_, fun he hst => ?_, fun st he hst => ?_⟩
    · have reach : mxMayReach s cl o = (s, .ok []) := hreach.elim mxMayReach_of_no_memory id
      exact ⟨exec_reservationGrant_plain hb he hst reach, fun u b hk room kept => exec_reservationGrant_kept hb he hst reach hk room kept,
        exec_reservationGrant_drain hb he hst reach⟩
    · rw [exec_reservationGrant_of_refused hb (by rw [he]; rfl) hst]
      exact ends_endOp s cl o _
    · rw [exec_reservationGrant_of_refused hb (by rw [he]; rfl) hst]
      exact ends_endOp s cl o _
  · intro f b sc o hf hb hsc ho hs same behind
    obtain ⟨u, fetches, feeds, he⟩ := exec_feedFetchLands hf hb hsc ho hs
    have late : behind ↔ (mx.feeds.any fun x => f.same x && f.no < x.no) = true := by
      simp only [List.any_eq_true, Bool.and_eq_true, decide_eq_true_eq]
      rfl
    by_cases hl : behind
    · rw [if_pos (late.1 hl)] at he
      exact ⟨_, he, fetches, fun _ => feeds, fun h => absurd hl h⟩
    · rw [if_neg (mt late.2 hl)] at he
      refine ⟨_, he, ?_, fun h => absurd h hl, fun _ => ?_⟩ <;> rw [State.mx_modMx]
      · exact fetches
      · rw [feeds]
        rfl
  · intro o b ho he w fmt kb bsz nb per hkb hx hb
    rw [← imageBytes_of_plain hx] at hb
    rw [exec_bLoadComplete ho he hx hb]
    refine ⟨_, ends_endWith s cl o 1 fun _ _ => rfl, fun j hj k hk => ?_⟩
    exact get_listedElems hj hk hkb

end Sys2Proof.Machine
end

section
/-! O44: retries and fixes (R181, R198), the check of a drain (R177 to R183) and its commit (R172 to R175, R206 to R208). -/

namespace Sys2Proof.Machine

theorem endsAt_endOp {s : State} {cl : Nat} {o : MxOp} (st : Nat) (h : o.kind = 2 ∨ 4 ≤ o.kind) :
    Claims.EndsAt s cl o st (.next (endOp s cl o st)) := fun hu =>
  congrArg Host.Outcome.next (endWith_of_no_block st h (fun _ _ => rfl) hu)

/-! ## Retries and fixes -/

/-- RCOUNT stands in the low bits of its byte, so that the next count is the next byte (R189). -/
theorem rcount_succ_byte (b : Byte) : BitVec.ofNat 8 (b.toNat - rcount b.toNat + (rcount b.toNat + 1)) = b + 1 := by
  have le : rcount b.toNat ≤ b.toNat := Nat.mod_le _ _
  rw [show b.toNat - rcount b.toNat + (rcount b.toNat + 1) = b.toNat + 1 by omega, BitVec.ofNat_add, BitVec.ofNat_toNat, BitVec.setWidth_eq]
  rfl

/-- A tile restored from its checkpoint image (R181): the sums of its opening, nothing clamped, located or stopped. -/
def restoredTile (t : Tile) (img : List Byte) : Tile :=
  { t with el := if t.ckptZero then [] else tileOfImage img, st := .accumulating, er := if t.ckptZero then [] else t.keptR,
           ec := if t.ckptZero then [] else t.keptC, pend := 0, clamps := 0, skipR := [], skipC := [], loc := none, fixed := false, outcome := 0,
           stopped := none }

section
variable {s : State} {cl : Nat} {o : MxOp} {b : Byte} (ho : (s.mx cl).resv.find? (fun o => o.kind == 4 && o.granted) = some o)
  (he : o.ends = none) (hb : rdRange s (s.mxAcc cl o o.ctx) (o.blk + 64) 1 = (s, .ok [b]))
include ho he hb

theorem exec_retryRestoreComplete_at_limit (h : rcount b.toNat = rlimit b.toNat) :
    exec (.retryRestoreComplete cl) s = .next (endOp s cl o 24) := by
  show execRetryRestoreComplete cl s = _
  simp only [execRetryRestoreComplete, ho, he, hb, List.headD_cons, h, if_true]

theorem exec_retryRestoreComplete_of_image {img c : List Byte} {u : State} (h : rcount b.toNat ≠ rlimit b.toNat)
    (hi : (s.tile cl o.tile).ckptZero = true ∨ rdRange s (s.mxAcc cl o o.ctx) (s.tile cl o.tile).save 524288 = (s, .ok img))
    (hw : wrRange s (s.mxAcc cl o o.ctx) (o.blk + 64) [b + 1] = (u, .ok c)) :
    exec (.retryRestoreComplete cl) s =
      .next (endWith u cl o 1 fun u => u.modTile cl o.tile fun _ => restoredTile (s.tile cl o.tile) img) := by
  show execRetryRestoreComplete cl s = _
  simp only [execRetryRestoreComplete, ho, he, hb, List.headD_cons, h, if_false, rcount_succ_byte]
  by_cases hz : (s.tile cl o.tile).ckptZero = true
  · simp only [hz, if_true, blkPut_eq _ hw, restoredTile]
  · simp only [hz, hi.resolve_left hz, Bool.false_eq_true, if_false, if_true, blkPut_eq _ hw, restoredTile]

end

theorem exec_elementFixComplete {s : State} {cl i j : Nat} {v : Word} {d : XR} {o : MxOp}
    (ho : (s.mx cl).resv.find? (fun o => (o.kind == 5 || o.kind == 6) && o.granted) = some o)
    (hl : (s.tile cl o.tile).loc = some (i, j, v, d)) (hu : s.unacked (mxCode cl o.id) = false) :
    exec (.elementFixComplete cl) s = .next (finishOp (mxUsed (s.modTile cl o.tile fun t =>
      { t.setEl i j (if o.kind = 5 then v else o.val) with fixed := true }) cl o.id) cl o 1 0) := by
  have kind : 4 ≤ o.kind := by
    have found := List.find?_some ho
    simp only [Bool.and_eq_true, Bool.or_eq_true, beq_iff_eq] at found
    omega
  rw [← endWith_modTile_of_no_block 1 _ _ (.inr kind) hu]
  show execElementFixComplete cl s = _
  simp only [execElementFixComplete, ho, hl]
  rfl

/-! ## The check of a drain -/

/-- One number alone below `n` satisfies `p`. -/
theorem filter_range_eq_singleton {n i : Nat} {p : Nat → Bool} (h : ∀ x, (x < n ∧ p x = true) ↔ x = i) : (List.range n).filter p = [i] := by
  refine List.perm_singleton.1 ((List.perm_ext_iff_of_nodup (List.nodup_range.filter p) (List.nodup_singleton i)).2 fun x => ?_)
  rw [List.mem_filter, List.mem_range, List.mem_singleton, h]

/-- Rows and columns that were not tested (R177). -/
def Tile.untested (t : Tile) : Nat :=
  ((List.range 256).countP fun i => !t.rowTested i) + (List.range t.nb).countP fun j => !t.colTested j

theorem Tile.check_eq (t : Tile) :
    t.check = ((List.range 256).filter fun i => t.rowBad i (t.obsRow i), (List.range t.nb).filter fun j => t.colBad j (t.obsCol j),
      t.untested) := by
  rw [Tile.untested, List.countP_eq_length_filter, List.countP_eq_length_filter, Tile.check]

theorem Tile.check_of_none {t : Tile} (hr : ∀ i, ¬(i < 256 ∧ t.rowBad i (t.obsRow i) = true))
    (hc : ∀ j, ¬(j < t.nb ∧ t.colBad j (t.obsCol j) = true)) : t.check = ([], [], t.untested) := by
  rw [t.check_eq, List.filter_eq_nil_iff.2 fun i hi h => hr i ⟨List.mem_range.1 hi, h⟩,
    List.filter_eq_nil_iff.2 fun j hj h => hc j ⟨List.mem_range.1 hj, h⟩]

theorem Tile.check_of_one {t : Tile} {i j : Nat} (hr : ∀ x, (x < 256 ∧ t.rowBad x (t.obsRow x) = true) ↔ x = i)
    (hc : ∀ x, (x < t.nb ∧ t.colBad x (t.obsCol x) = true) ↔ x = j) : t.check = ([i], [j], t.untested) := by
  rw [t.check_eq, filter_range_eq_singleton hr, filter_range_eq_singleton hc]

/-- The one element that a fix of the tile passes for, when one row and one column mismatch (R180). -/
def Tile.located (t : Tile) (mr mc : List Nat) : Option (Nat × Nat × Word × XR) :=
  match mr, mc with
  | [i], [j] => (t.fix i j).map fun f => (i, j, f.1, f.2)
  | _, _ => none

theorem Tile.located_eq_none {t : Tile} {mr mc : List Nat} (h : ∀ i j, mr = [i] → mc = [j] → t.fix i j = none) : t.located mr mc = none := by
  unfold Tile.located
  split
  · rw [h _ _ rfl rfl, Option.map_none]
  · rfl

/-- The signature of a failed check: of the tile's image and of its mismatches (R182). -/
def Tile.signature (t : Tile) (mr mc : List Nat) : List Byte :=
  natBytes 8 (crc64 t.image).toNat ++ natBytes 8 (crc64 (mismatchVector mr mc)).toNat

section
variable {s : State} {cl n : Nat} {o : MxOp} (ho : (s.mx cl).draining = some o) (h0 : o.outcome = 0) (hs : o.signed = false) (he : o.ends = none)
  (ht : (s.tile cl o.tile).stopped = none)
include ho h0 hs he ht

theorem exec_drainCheckEnd_clean (hc : (s.tile cl o.tile).check = ([], [], n)) :
    exec (.drainCheckEnd cl) s = .next (checkGood s cl o (if (s.tile cl o.tile).fixed then 3 else 2) n) := by
  show execDrainCheckEnd cl s = _
  simp only [execDrainCheckEnd, ho, h0, hs, he, ht, hc]
  rfl

/-- One wrong element that its fix passes for is corrected, or located (R180). -/
theorem exec_drainCheckEnd_fix {i j : Nat} {w : Word} {d : XR} (hc : (s.tile cl o.tile).check = ([i], [j], n))
    (hf : (s.tile cl o.tile).fix i j = some (w, d)) :
    exec (.drainCheckEnd cl) s = .next (
      if blkFld o.words 430 430 = 1 then checkGood (s.modTile cl o.tile fun t => t.setEl i j w) cl o 3 n
      else checkBad s cl o 4 (some (i, j, w, d))) := by
  show execDrainCheckEnd cl s = _
  simp only [execDrainCheckEnd, ho, h0, hs, he, ht, hc, hf]
  rfl

/-- Mismatches that no fix explains: unstable on a repeated signature, failed at the limit, else a retry whose signature is recorded (R182). -/
theorem exec_drainCheckEnd_mismatch {mr mc : List Nat} {b : List Byte} (hc : (s.tile cl o.tile).check = (mr, mc, n)) (hm : mr ≠ [] ∨ mc ≠ [])
    (hf : ∀ i j, mr = [i] → mc = [j] → (s.tile cl o.tile).fix i j = none)
    (hb : rdRange s (s.mxAcc cl o (s.tile cl o.tile).openCtx) ((s.tile cl o.tile).openBlk + 64) 24 = (s, .ok b)) :
    exec (.drainCheckEnd cl) s = .next (
      if 1 ≤ rcount (b.headD 0).toNat && b.drop 8 == (s.tile cl o.tile).signature mr mc then checkGood s cl o 6 n
      else if rlimit (b.headD 0).toNat ≤ rcount (b.headD 0).toNat then checkBad s cl o 7 none
      else blkPut s cl o (s.tile cl o.tile).openCtx ((s.tile cl o.tile).openBlk + 72) ((s.tile cl o.tile).signature mr mc) fun s done =>
        if done then checkBad (s.modOp cl o.id fun o => { o with signed := true }) cl o 5 none else checkStops s cl o 11) := by
  show execDrainCheckEnd cl s = _
  simp only [execDrainCheckEnd, ho, h0, hs, he, ht, hc, ne_eq, not_true, if_false, Bool.false_eq_true]
  split
  case h_1 => simp at hm
  case h_2 located => exact absurd (located.symm.trans (Tile.located_eq_none hf)) (Option.some_ne_none _)
  case h_3 =>
    rw [hb]
    rfl

end

/-! ## The commit of a drain -/

section
variable {s : State} {cl : Nat} {o : MxOp} (ho : (s.mx cl).draining = some o) (h0 : o.outcome ≠ 0) (he : o.ends = none)
include ho h0 he

theorem exec_drainCommit_of_trap (ht : ∃ r < o.dm, drainRow o (s.tile cl o.tile) (o.drow0 + r) = none) :
    exec (.drainCommit cl) s = .next (endWith s cl o 8 fun u => u.modTile cl o.tile fun t => { t with st := .held, outcome := 8 }) := by
  have trap : ((List.range o.dm).any fun r => (drainRow o (s.tile cl o.tile) (o.drow0 + r)).isNone) = true := by simpa using ht
  show execDrainCommit cl s = _
  simp only [execDrainCommit, ho, h0, he, trap]
  rfl

theorem exec_drainCommit_of_rows {u v : State} {p : MxOp} (ht : ∀ r < o.dm, drainRow o (s.tile cl o.tile) (o.drow0 + r) ≠ none)
    (hr : drainRows cl o.id (o.dm + 1) s = (u, .ok [])) (hp : (u.mx cl).draining = some p) (hf : drainFlush u cl p = (v, true))
    (hn : p.refused = false) : exec (.drainCommit cl) s = .next (commitDrain v cl p) := by
  have noTrap : ((List.range o.dm).any fun r => (drainRow o (s.tile cl o.tile) (o.drow0 + r)).isNone) = false := by simpa using ht
  show execDrainCommit cl s = _
  simp only [execDrainCommit, ho, h0, he, noTrap, hr, hp, hf, hn]
  rfl

end

/-- A commit whose record is written and acknowledged frees or keeps the tile and ends the drain with its outcome and flags (R175, R208). -/
theorem commitDrain_eq {s u : State} {cl : Nat} {o : MxOp} {old r c : List Byte}
    (hold : rdRange s (s.mxAcc cl o o.ctx) (o.blk + 104) 16 = (s, .ok old))
    (hr : ((s.tile cl o.tile).was ≠ 1 ∧ r = [0]) ∨
      ((s.tile cl o.tile).was = 1 ∧ rdRange s (s.mxAcc cl o (s.tile cl o.tile).openCtx) ((s.tile cl o.tile).openBlk + 64) 1 = (s, .ok r)))
    (hw : wrRange s (s.mxAcc cl o o.ctx) (o.blk + 104) (commitRecord old o (s.tile cl o.tile)
      ((s.tile cl o.tile).pend ||| BitVec.ofNat 64 o.fl) (rcount (r.headD 0).toNat)) = (u, .ok c))
    (hu : u.unacked (mxCode cl o.id) = false) :
    let keep := (s.tile cl o.tile).was == 2 || ((s.tile cl o.tile).was == 1 && blkFld o.words 429 429 == 1)
    commitDrain s cl o = finishOp (mxUsed (u.modTile cl o.tile (committedTile keep)) cl o.id) cl o o.outcome
      ((s.tile cl o.tile).pend ||| BitVec.ofNat 64 o.fl) := by
  have retries : (if (s.tile cl o.tile).was ≠ 1 then (s, EngRes.ok [0])
      else rdRange s (s.mxAcc cl o (s.tile cl o.tile).openCtx) ((s.tile cl o.tile).openBlk + 64) 1) = (s, .ok r) := by
    rcases hr with ⟨h, rfl⟩ | ⟨h, hr⟩
    · rw [if_pos h]
    · rw [if_neg (not_not.2 h), hr]
  simp only [commitDrain, hold, retries, blkPut_eq _ hw, if_true]
  exact closeOp_eq _ _ hu

/-! ## The obligation -/

/-- Settles O44: a retry, a fix, each outcome of a check and a commit is its own branch of the model, whose end goes through the write of the
record; the rows and columns that mismatch are those that the check lists. -/
theorem drainEventsCheckAndCommit : Obligations.DrainEventsCheckAndCommit := by
  unfold Obligations.DrainEventsCheckAndCommit
  intro s cl mx
  refine ⟨?_, fun o i j v d => exec_elementFixComplete, ?_, ?_, fun o old r u c => commitDrain_eq⟩
  · intro o b ho he hb t
    have kind : o.kind = 2 ∨ 4 ≤ o.kind := .inr (kind_of_granted ho).ge
    refine ⟨fun h => ?_, fun img u c h hi hw hu => ?_⟩
    · rw [exec_retryRestoreComplete_at_limit ho he hb h]
      exact endsAt_endOp 24 kind
    · intro t0
      rw [exec_retryRestoreComplete_of_image ho he hb h hi hw, endWith_modTile_of_no_block 1 _ _ kind hu]
      rfl
  · intro o ho h0 hs he ht t n rows cols
    refine ⟨fun hr hc => ?_, fun i j w d hr hc hf => ?_, ?_⟩
    · exact exec_drainCheckEnd_clean ho h0 hs he ht (Tile.check_of_none hr hc)
    · have run := exec_drainCheckEnd_fix ho h0 hs he ht (Tile.check_of_one hr hc) hf
      refine ⟨fun corrects => by rw [run, if_pos corrects]; rfl, fun locates => ?_⟩
      rw [run, if_neg locates]
      exact ends_modTile s cl o 4 o.tile _
    · intro mr mc b hc hm hf hb r sig same held
      have run := exec_drainCheckEnd_mismatch ho h0 hs he ht hc hm hf hb
      have repeats : (1 ≤ rcount r && b.drop 8 == t.signature mr mc) = true ↔ same := by simp [same, sig, Tile.signature]
      refine ⟨fun hsame => ?_, fun hnew limit => ?_, fun v c hnew below hw => ?_⟩
      · rw [run, if_pos (repeats.2 hsame)]
      · rw [run, if_neg (mt repeats.1 hnew), if_pos limit]
        exact ends_modTile s cl o 7 o.tile _
      · have records : wrRange s (s.mxAcc cl o (s.tile cl o.tile).openCtx) ((s.tile cl o.tile).openBlk + 72)
            ((s.tile cl o.tile).signature mr mc) = (v, .ok c) := hw
        rw [run, if_neg (mt repeats.1 hnew), if_neg (Nat.not_le.2 below), blkPut_eq _ records, if_pos rfl]
        exact ends_modTile _ cl o 5 o.tile _
  · intro o ho h0 he t
    refine ⟨fun ht => ?_, fun u v p ht hr hp hf hn => exec_drainCommit_of_rows ho h0 he ht hr hp hf hn⟩
    rw [exec_drainCommit_of_trap ho h0 he ht]
    exact ends_modTile s cl o 8 o.tile _

end Sys2Proof.Machine
end

section
/-! O35: sets that gain and lose members (R185 to R187, R196). -/

namespace Sys2Proof.Machine

/-- The state in which the issuing group is member `i` of set `k` of cluster `cl`, a set of `c`, and has its number in `d` (R196). -/
def joinedAs (s : State) (cl k c i d : Nat) : State :=
  ((s.modSet cl k fun st => { st with joined := i + 1, members := st.members.set i s.cur }).modGroup s.cur fun g =>
    { g with mset := some (cl, k, i) }).wroteU d (BitVec.ofNat 64 ((c - 1) * 8 + i))

theorem joinSet_eq (s : State) (cl k d : Nat) : joinSet s cl k d = joinedAs s cl k (s.mset cl k).count (s.mset cl k).joined d := by
  let f (st : MSet) : MSet := { st with joined := (s.mset cl k).joined + 1, members := st.members.set (s.mset cl k).joined s.cur }
  have count : ((s.modSet cl k f).mset cl k).count = (s.mset cl k).count := by rw [State.mset_modSet]
  exact (advance_setU _ _ _).trans (congrArg (fun c => State.wroteU _ d (BitVec.ofNat 64 ((c - 1) * 8 + (s.mset cl k).joined))) count)

/-- The lowest of the eight places that hold no set (R196). -/
theorem find_range_of_lowest_free {m : AMap MSet} {k : Nat} (hk : k < 8) (free : m.find k = none)
    (taken : ∀ j < k, (m.find j).isSome = true) : ((List.range 8).find? fun j => (m.find j).isNone) = some k := by
  rw [List.find?_range_eq_some]
  exact ⟨by rw [free]; rfl, List.mem_range.2 hk, fun j hj => by rw [Option.not_isNone, taken j hj]⟩

theorem find_range_of_full {m : AMap MSet} (taken : ∀ j < 8, (m.find j).isSome = true) :
    ((List.range 8).find? fun j => (m.find j).isNone) = none := by
  rw [List.find?_eq_none]
  exact fun j hj => by rw [Option.isNone_eq_false_iff.2 (taken j (List.mem_range.1 hj))]; exact Bool.false_ne_true

section
variable {s : State} {o : UOp} (hc : s.Conv)
include hc

theorem exec_mmconvJoin_of_unbound (hq : (s.cap s.me (o.imm12 % 8)).queue 2 = false) :
    exec (.mmconvJoin o) s = .next (groupTrap s s.cur .capInvalid (o.imm12 % 8)) :=
  congrArg Host.Outcome.next (uQueue_of_unbound _ hc hq)

/-- A member of a set joins no other. -/
theorem exec_mmconvJoin_of_member (hq : (s.cap s.me (o.imm12 % 8)).queue 2 = true) (hm : s.me.mset ≠ none) :
    exec (.mmconvJoin o) s = .next (s.wroteU o.d (refuse 0x20)) := by
  show Host.Outcome.next (uQueue s _ 2 _) = _
  rw [uQueue_of_bound _ hc hq]
  simp only [if_pos (Option.isSome_iff_ne_none.2 hm), advance_setU]

/-- The set of the key refuses in the rule's order, or takes its next member. -/
theorem exec_mmconvJoin_of_set {k : Nat} (hq : (s.cap s.me (o.imm12 % 8)).queue 2 = true) (hm : s.me.mset = none)
    (hf : findSet (s.mx (clusterOf s.me.core)) (s.teamOf s.me).launch (s.u o.a) = some k) :
    exec (.mmconvJoin o) s = .next (
      let c := o.imm12 / 8 % 8 + 1
      let st := s.mset (clusterOf s.me.core) k
      if st.count ≠ c then s.wroteU o.d (refuse 0x22)
      else if st.joined = c || st.broken then s.wroteU o.d (refuse 0x21)
      else if st.queue ≠ o.imm12 % 8 then s.wroteU o.d (refuse 0x26)
      else joinedAs s (clusterOf s.me.core) k st.count st.joined o.d) := by
  show Host.Outcome.next (uQueue s _ 2 _) = _
  rw [uQueue_of_bound _ hc hq]
  simp only [hm, hf, Option.isSome_none, Bool.false_eq_true, if_false, advance_setU, joinSet_eq]

section
variable (hq : (s.cap s.me (o.imm12 % 8)).queue 2 = true) (hm : s.me.mset = none)
  (hf : findSet (s.mx (clusterOf s.me.core)) (s.teamOf s.me).launch (s.u o.a) = none)
include hq hm hf

/-- Without a set of the key and without a free place the join is refused. -/
theorem exec_mmconvJoin_of_full (full : ∀ j < 8, ((s.mx (clusterOf s.me.core)).sets.find j).isSome = true) :
    exec (.mmconvJoin o) s = .next (s.wroteU o.d (refuse 0x23)) := by
  show Host.Outcome.next (uQueue s _ 2 _) = _
  rw [uQueue_of_bound _ hc hq]
  simp only [hm, hf, find_range_of_full full, Option.isSome_none, Bool.false_eq_true, if_false, advance_setU]

/-- Without a set of the key the group makes one in the lowest free place, as its member 0. -/
theorem exec_mmconvJoin_of_free {k : Nat} (hk : k < 8) (free : (s.mx (clusterOf s.me.core)).sets.find k = none)
    (taken : ∀ j < k, ((s.mx (clusterOf s.me.core)).sets.find j).isSome = true) :
    exec (.mmconvJoin o) s = .next (joinedAs (s.modSet (clusterOf s.me.core) k fun _ =>
      { launch := (s.teamOf s.me).launch, key := s.u o.a, count := o.imm12 / 8 % 8 + 1, queue := o.imm12 % 8 })
        (clusterOf s.me.core) k (o.imm12 / 8 % 8 + 1) 0 o.d) := by
  show Host.Outcome.next (uQueue s _ 2 _) = _
  rw [uQueue_of_bound _ hc hq]
  simp only [hm, hf, find_range_of_lowest_free hk free taken, Option.isSome_none, Bool.false_eq_true, if_false, joinSet_eq,
    State.mset_modSet]

end

theorem exec_mmconvLeave_of_noSet (hm : s.me.mset = none) : exec (.mmconvLeave o) s = .next (s.wroteU o.d (refuse 0x24)) := by
  show Host.Outcome.next (uniform s _) = _
  rw [uniform_of_conv _ hc]
  simp only [hm, advance_setU]

theorem exec_mmconvLeave_of_member {cl k i : Nat} (hm : s.me.mset = some (cl, k, i)) :
    exec (.mmconvLeave o) s = .next ((leaveSet s s.cur).wroteU o.d 0) := by
  show Host.Outcome.next (uniform s _) = _
  rw [uniform_of_conv _ hc]
  simp only [hm, advance_setU]

end

/-- Settles O35: a join goes by its queue, its group's set and the set of its key; a leave by its group's set. -/
theorem conveningSetsGainAndLoseMembers : Obligations.ConveningSetsGainAndLoseMembers := by
  unfold Obligations.ConveningSetsGainAndLoseMembers
  intro s o k hc g n c cl l key code join
  refine ⟨exec_mmconvJoin_of_unbound hc, fun hq => ⟨exec_mmconvJoin_of_member hc hq, fun hm hf => ?_, fun hm hf => ⟨?_, ?_⟩⟩,
    exec_mmconvLeave_of_noSet hc, fun cl i => exec_mmconvLeave_of_member hc⟩
  · intro st
    rw [exec_mmconvJoin_of_set hc hq hm hf]
    refine ⟨fun h1 => ?_, fun h1 h2 => ?_, fun h1 h2 h3 h4 => ?_, fun h1 h2 h3 h4 => ?_⟩
    · exact congrArg Host.Outcome.next (if_pos h1)
    · have closed : (decide (st.joined = c) || st.broken) = true := by simpa using h2
      exact congrArg Host.Outcome.next ((if_neg (not_not.2 h1)).trans (if_pos closed))
    · have opened : ¬(decide (st.joined = c) || st.broken) = true := by simp [h2, h3]
      exact congrArg Host.Outcome.next ((if_neg (not_not.2 h1)).trans ((if_neg opened).trans (if_pos h4)))
    · have opened : ¬(decide (st.joined = c) || st.broken) = true := by simp [h2, h3]
      have number : joinedAs s cl k st.count st.joined o.d = join s st.joined := by rw [h1]; rfl
      exact congrArg Host.Outcome.next
        ((if_neg (not_not.2 h1)).trans ((if_neg opened).trans ((if_neg (not_not.2 h4)).trans number)))
  · exact exec_mmconvJoin_of_full hc hq hm hf
  · exact exec_mmconvJoin_of_free hc hq hm hf

end Sys2Proof.Machine
end

section
/-! O37: waits of the matrix engine (R204, R206) and the location of a wrong element (R205). -/

namespace Sys2Proof.Machine

/-- A change that leaves its group as it stands changes nothing. -/
theorem State.modGroup_of_fixed {s : State} {g : Nat} {f : Group → Group} (h : f (s.group g) = s.group g) : s.modGroup g f = s := by
  rw [s.modGroup_congr g (f' := id) h, State.modGroup, List.modify_id]

/-- A status is written and its acquire is made, in any order. -/
theorem advance_uAcquire (s : State) (d sc : Nat) (v : UWord) :
    advance (uAcquire (setU s d v) sc .all) = (acquire s s.me.core (s.ctxOf s.me) sc .all).wroteU d v := by
  have flagless : ∀ t : State, ∀ g, (t.modGroup g fun x => { x with flags := x.flags ||| 0 }) = t := fun t g =>
    State.modGroup_of_fixed (by simp)
  rw [← flagless (uAcquire (setU s d v) sc .all) (setU s d v).cur, advance_acquired, flagless]

section
variable {s : State} {o : UOp} {cl k m : Nat} (test : Bool) (hc : s.Conv) (hm : s.me.mset = some (cl, k, m))
include hc hm

theorem mxWait_of_bad (h : s.mxTicket cl k (s.u o.a).toNat = .bad) : mxWait s o test = s.wroteU o.d 0xFE := by
  rw [mxWait, uniform_of_conv _ hc]
  simp only [hm, h, advance_setU]

theorem mxWait_of_expired (h : s.mxTicket cl k (s.u o.a).toNat = .expired) : mxWait s o test = s.wroteU o.d 0xFF := by
  rw [mxWait, uniform_of_conv _ hc]
  simp only [hm, h, advance_setU]

theorem mxWait_of_pending (h : s.mxTicket cl k (s.u o.a).toNat = .pending) :
    mxWait s o test = if test then s.wroteU o.d 0 else holdGroup s (.mticket (s.u o.a).toNat) := by
  rw [mxWait, uniform_of_conv _ hc]
  simp only [hm, h, advance_setU]

/-- A load, zero, retry, fix or pass that did not fault acquires at the widest scope (log entry 75). -/
theorem mxWait_of_ended {st kind : Nat} {fl : UWord} (h : s.mxTicket cl k (s.u o.a).toNat = .done st kind fl) (hk : kind < 2) (hst : st ≠ 11) :
    mxWait s o test = (acquire s s.me.core (s.ctxOf s.me) 7 .all).wroteU o.d (BitVec.ofNat 64 st) := by
  have noTrap : mxStatusTrap st kind = none := by simp [mxStatusTrap, Nat.not_le.2 hk, hst]
  rw [mxWait, uniform_of_conv _ hc, ← advance_uAcquire]
  simp only [hm, h, noTrap, if_neg (Nat.not_le.2 hk), if_neg hst]

/-- One that faulted acquires nothing and takes ENGINE, its status written. -/
theorem mxWait_of_faulted {kind : Nat} {fl : UWord} (h : s.mxTicket cl k (s.u o.a).toNat = .done 11 kind fl) (hk : kind < 2) :
    mxWait s o test = groupTrap (setU s o.d (BitVec.ofNat 64 11)) s.cur .engine 0 11 := by
  have trap : mxStatusTrap 11 kind = some .engine := by simp [mxStatusTrap, Nat.not_le.2 hk]
  rw [mxWait, uniform_of_conv _ hc]
  simp only [hm, h, trap, if_neg (Nat.not_le.2 hk), if_true]
  rfl

/-- A drain without a trap acquires at its DSCOPE and merges its flags (R206). -/
theorem mxWait_of_drained {st kind : Nat} {fl : UWord} (h : s.mxTicket cl k (s.u o.a).toNat = .done st kind fl) (hk : 2 ≤ kind)
    (ht : mxStatusTrap st kind = none) :
    mxWait s o test = ((acquire s s.me.core (s.ctxOf s.me) (kind - 2) .all).modGroup s.cur fun g => { g with flags := g.flags ||| fl }).wroteU
      o.d (BitVec.ofNat 64 st) := by
  rw [mxWait, uniform_of_conv _ hc, ← advance_acquired]
  simp only [hm, h, ht, if_pos hk]

/-- ka names a tile by two bits alone (R205). -/
theorem exec_mchkloc_of_noTile (ha : 4 ≤ (s.u o.a).toNat) : exec (.mchkloc o) s = .next (s.wroteU o.d 0xFE) := by
  show Host.Outcome.next (uniform s _) = _
  rw [uniform_of_conv _ hc]
  simp only [hm, if_pos ha, advance_setU]

/-- With no operation of its set in the table the word reads the location. -/
theorem exec_mchkloc_of_none_earlier (ha : (s.u o.a).toNat < 4) (hw : s.me.mwait = none) (he : ∀ e ∈ (s.mx cl).resv, e.set ≠ k) :
    exec (.mchkloc o) s = .next (s.wroteU o.d (s.chkLoc cl k (s.u o.a).toNat (o.f % 4))) := by
  have nothing : ((s.mx cl).resv.any fun e => e.set == k && e.id < (s.mx cl).nextId) = false :=
    List.any_eq_false.2 fun e h => by simp [he e h]
  have unmarked : (s.modGroup s.cur fun g => { g with mwait := none }) = s := State.modGroup_of_fixed (by rw [← hw])
  show Host.Outcome.next (uniform s _) = _
  rw [uniform_of_conv _ hc]
  simp only [hm, if_neg (Nat.not_le.2 ha), hw, Option.getD_none, nothing, Bool.false_eq_true, if_false, unmarked, advance_setU]

end

/-- Settles O37: a wait goes by its ticket, and of a completed operation by its kind and status; `mchkloc` by its tile. -/
theorem matrixWaitsReadTheirTicket : Obligations.MatrixWaitsReadTheirTicket := by
  unfold Obligations.MatrixWaitsReadTheirTicket
  intro s o cl k m hc hm ti
  have both : ∀ p ∈ [Instr.mmwait, .mmwaitTest], ∃ test, exec (p o) s = .next (mxWait s o test) := by
    simp only [List.forall_mem_cons]
    exact ⟨⟨_, rfl⟩, ⟨_, rfl⟩, List.forall_mem_nil _⟩
  refine ⟨fun p hp => ?_, fun h => ⟨?_, ?_⟩, exec_mchkloc_of_noTile hc hm, exec_mchkloc_of_none_earlier hc hm⟩
  · obtain ⟨test, he⟩ := both p hp
    rw [he]
    refine ⟨fun h => ?_, fun h => ?_, fun st kind fl h hk hst => ?_, fun st kind fl h hk hst => ?_, fun st kind fl h hk ht => ?_⟩
    · rw [mxWait_of_bad test hc hm h]
    · rw [mxWait_of_expired test hc hm h]
    · rw [mxWait_of_ended test hc hm h hk hst]
    · subst hst
      rw [mxWait_of_faulted test hc hm h hk]
      rfl
    · rw [mxWait_of_drained test hc hm h hk ht]
  · exact congrArg Host.Outcome.next (mxWait_of_pending false hc hm h)
  · exact congrArg Host.Outcome.next (mxWait_of_pending true hc hm h)

end Sys2Proof.Machine
end

section
/-! O21: feeds (R200, R201) and reads (R203) of one lane. -/

namespace Sys2Proof.Machine

/-- A group with room for an operation issues (R21). -/
theorem within64_of_room {s : State} (k : State → State) (h : s.outstanding s.cur < 64) : within64 s k = k s := by
  simp only [within64, decide_eq_false (Nat.not_le_of_lt h), Bool.false_and, Bool.false_eq_true, if_false]

/-- A part whose registers are full acts (R20). -/
theorem gatedM_of_full (s : State) {gaps : List (Nat × Slot)} (l : Lane) (act : Unit → State × LaneRes) (h : gaps = []) :
    gatedM s gaps l act = act () := by rw [gatedM, h]; rfl

@[simp] theorem Lane.mark_pc (l : Lane) (n : Nat) : (l.mark n false).pc = l.pc := l.drain_pc _

@[simp] theorem State.mx_tick (s : State) (cl : Nat) : s.tick.mx cl = s.mx cl := rfl

@[simp] theorem State.mset_tick (s : State) (cl k : Nat) : s.tick.mset cl k = s.mset cl k := rfl

/-- A change of a lane looks at that lane alone. -/
theorem Group.modLane_congr (g : Group) (i : Nat) {f f' : Lane → Lane} (h : f (g.lane i) = f' (g.lane i)) : g.modLane i f = g.modLane i f' := by
  have lanes : g.lanes.modify i f = g.lanes.modify i f' := by
    refine List.ext_getElem (by simp) fun j hj _ => ?_
    rw [List.length_modify] at hj
    rw [List.getElem_modify, List.getElem_modify, g.getElem_lanes hj]
    split
    next hij => rw [← hij, h]
    next => rfl
  rw [Group.modLane, lanes, Group.modLane]

/-- A word of one lane that goes past it: the machine is as the lane's part leaves it, and the lane is `f` of what it was. -/
theorem runLanesM_one_past {s s' : State} {i len : Nat} {part : State → Group → Nat → Lane → State × LaneRes} {g : Group} {l : Lane}
    (f : Lane → Lane) (hrun : s.myRun = [i]) (hme : s.me = g) (hl : g.lane i = l) (hp : part s g i l = (s', { lane := f l }))
    (hpc : (f l).pc = l.pc) (hg : s'.groups = s.groups) (hcur : s'.cur = s.cur) :
    runLanesM s len part = s'.laneDone i fun l => (f l).past len := by
  subst hme hl
  have me : s'.group s.cur = s.me := by rw [State.group, hg]; rfl
  have lane : (s.me.modLane i fun l => settleLane len l { lane := f (s.me.lane i) }) = s.me.modLane i fun l => (f l).past len :=
    s.me.modLane_congr i (settle_past _ _ _ _ hpc)
  rw [runLanesM_one len hrun hp rfl, State.laneDone, hcur]
  refine s'.modGroup_congr s.cur ?_
  rw [me, lane]
  simp only [BitVec.or_zero]
  rfl

/-- Settles O21: each word's one lane has its registers full, passes every check of its rule, and goes past its word. -/
theorem feedsAndReadsReachTheMatrixEngine : Obligations.FeedsAndReadsReachTheMatrixEngine := by
  unfold Obligations.FeedsAndReadsReachTheMatrixEngine
  intro s o i cl k m hrun hg hm g l ctx
  have member : g.mset = some (cl, k, m) := hm
  have guarded : ¬(!l.guard o) = true := by simp [l, g, hg]
  refine ⟨fun p t tt u ut room ga gd gb => ?_, ?_⟩
  · intro tag va vs gj na ns pass htag row align pa ps ta tu
    have full : l.gaps i o.a true ++ l.gaps i o.d true ++ l.gaps i o.b false = [] := by rw [ga, gd, gb]; rfl
    have aligned : ¬(decide (va % 4 ≠ 0) || !inPage va na) = true := by rw [align, pa]; decide
    have paged : ¬(!inPage vs ns) = true := by rw [ps]; decide
    show Host.Outcome.next (within64 s _) = _
    rw [within64_of_room _ room]
    refine congrArg Host.Outcome.next (runLanesM_one_past (s := s.tick) (g := g) (l := l) id hrun rfl rfl ?_ rfl rfl rfl)
    rw [if_neg guarded, gatedM_of_full _ _ _ full]
    simp only [member]
    rw [if_neg (Nat.not_le.2 htag), State.mx_tick, pass]
    refine (if_neg (Nat.not_le.2 row)).trans ((if_neg aligned).trans ((if_neg paged).trans ?_))
    rw [State.mset_tick, ta]
    dsimp only
    rw [tu]
    rfl
  · intro a t ga gd column high small owner
    have full : l.gaps i o.a false ++ l.gaps i o.d false = [] := by rw [ga, gd]; rfl
    have inside : ¬(decide (a / 2 ^ 9 % 2 ^ 7 ≠ 0) || decide (a / 2 ^ 24 % 16 ≠ 0) || decide (2 ^ 30 ≤ a) ||
        decide ((s.tile cl t).owner ≠ some k)) = true := by
      rw [column, high, owner, decide_eq_false (Nat.not_le.2 small)]
      simp
    refine congrArg (fun x => Host.Outcome.next (settleReads x (clusterOf g.core)))
      (runLanesM_one_past (g := g) (l := l) (fun l => l.mark o.d false) hrun rfl rfl ?_ (Lane.mark_pc ..) rfl rfl)
    rw [if_neg guarded, gatedM_of_full _ _ _ full]
    simp only [member]
    exact if_neg inside

end Sys2Proof.Machine
end

section
namespace Sys2Proof.Machine

/-! # Every step keeps device memory canonical

Device memory is written by `homeWrite`, `homeRmw`, `setStored` and `restoreUnit` alone, whose lemmas stand with the laws of memory. Here
follows, for each function of the model that answers a state, that it keeps the form (`f_ok`), in the order of the model; a function that takes a
continuation keeps it when the continuation does. `exec_ok` gathers them by instruction, and `step_ok` by the kinds of steps. -/

/-! ## What the form of device memory rests on -/

/-- A record update that leaves `mem` as it was keeps the form: the field alone decides it. -/
theorem State.ok_with {s : State} {agenda cur curPc curOld curFused issues draw groups teams gangs launches counters queues turn contexts cores
    clusters dies tags interleave caches tlbs walks misses pageReqs prAlloc invals stores landing pushes engOps inbox nextOp kdev domSize route
    links mcast mcastDevs trees windows filters fabSeq fabReqs hostReqs mcDiscards heldIn hostHeld readies swapReqs doorbells bells timeout sent owned
    hostLines hostOrder answers hostRanges saveFrames accepts early snapFrames hdm lastDie stamp clock ckptBase ckptDir ckptErr ckptRun ckptImage
    firm} (h : s.Ok) :
    State.Ok ⟨agenda, cur, curPc, curOld, curFused, issues, draw, groups, teams, gangs, launches, counters, queues, turn, contexts, cores,
      clusters, dies, s.mem, tags, interleave, caches, tlbs, walks, misses, pageReqs, prAlloc, invals, stores, landing, pushes, engOps, inbox,
      nextOp, kdev, domSize, route, links, mcast, mcastDevs, trees, windows, filters, fabSeq, fabReqs, hostReqs, mcDiscards, heldIn, hostHeld,
      readies, swapReqs, doorbells, bells, timeout, sent, owned, hostLines, hostOrder, answers, hostRanges, saveFrames, accepts, early, snapFrames,
      hdm, lastDie, stamp, clock, ckptBase, ckptDir, ckptErr, ckptRun, ckptImage, firm⟩ := h

theorem ok_ite {c : Prop} [Decidable c] {s t : State} (hs : s.Ok) (ht : t.Ok) : (if c then s else t : State).Ok := by split <;> assumption

theorem ok_fst_ite {α : Type} {c : Prop} [Decidable c] {x y : State × α} (hx : x.1.Ok) (hy : y.1.Ok) :
    (if c then x else y).1.Ok := by split <;> assumption

theorem ok_fst {α : Type} {x : State × α} {s : State} {a : α} (e : x = (s, a)) (h : x.1.Ok) : s.Ok := by rw [e] at h; exact h

theorem foldl_fst_ok {α β : Type} {f : State × β → α → State × β} (hf : ∀ x a, x.1.Ok → (f x a).1.Ok) (l : List α) {x : State × β} (h : x.1.Ok) :
    (l.foldl f x).1.Ok := by
  induction l generalizing x with
  | nil => exact h
  | cons a r ih => exact ih (hf x a h)

/-- Every next state of the result has device memory in its form; a refused result has none. -/
def Res.Ok (r : Res) : Prop := ∀ t, r = .next t → t.Ok

theorem Res.ok_next {t : State} (h : t.Ok) : Res.Ok (.next t) := fun _ e => by cases e; exact h

theorem Res.ok_ite {c : Prop} [Decidable c] {r r' : Res} (h : Res.Ok r) (h' : Res.Ok r') : Res.Ok (if c then r else r') := by split <;> assumption

variable {s : State}

/-! ## Machine/Access -/

theorem State.modGroup_ok {g f} (h : s.Ok) : (s.modGroup g f).Ok := h

theorem State.modTeam_ok {t f} (h : s.Ok) : (s.modTeam t f).Ok := h

theorem State.modLaunch_ok {l f} (h : s.Ok) : (s.modLaunch l f).Ok := h

theorem State.modCore_ok {c f} (h : s.Ok) : (s.modCore c f).Ok := h

theorem State.modCluster_ok {c f} (h : s.Ok) : (s.modCluster c f).Ok := h

theorem State.modDie_ok {d f} (h : s.Ok) : (s.modDie d f).Ok := h

theorem State.modContext_ok {c f} (h : s.Ok) : (s.modContext c f).Ok := h

theorem State.modCounter_ok {c f} (h : s.Ok) : (s.modCounter c f).Ok := h

theorem State.modQueue_ok {k f} (h : s.Ok) : (s.modQueue k f).Ok := h

theorem State.modMx_ok {cl f} (h : s.Ok) : (s.modMx cl f).Ok := State.modCluster_ok h

theorem logged_ok {e} (h : s.Ok) : (logged s e).Ok := h

theorem State.tick_ok (h : s.Ok) : s.tick.Ok := h

theorem State.modGang_ok {k f} (h : s.Ok) : (s.modGang k f).Ok := h

/-! ## Machine/Lines -/

theorem expose_ok {who dpa} (h : s.Ok) : (expose s who dpa).Ok := h

theorem snapshot_ok {who dpa} (h : s.Ok) : (snapshot s who dpa).Ok := by
  unfold snapshot
  split
  · exact h
  exact ok_ite h (ok_ite (logged_ok (State.modLaunch_ok h)) (State.ok_with (State.modLaunch_ok h)))

theorem sendSnoop_ok {a} (h : s.Ok) : (sendSnoop s a).Ok := ok_ite h h

theorem dropLines_ok {p} (h : s.Ok) : (dropLines s p).Ok := h

theorem dropWay_ok {core a} (h : s.Ok) : (dropWay s core a).Ok := dropLines_ok h

theorem keepLine_ok {cap c} (h : s.Ok) : (keepLine s cap c).Ok := ok_ite h h

theorem readLine_ok {who core ctx va dpa n fresh cst l1 way strm} (h : s.Ok) : (readLine s who core ctx va dpa n fresh cst l1 way strm).1.Ok := by
  unfold readLine
  dsimp only
  split
  · exact h
  split
  · exact ok_ite (keepLine_ok h) h
  exact ok_fst_ite (expose_ok h) (ok_ite (keepLine_ok (ok_ite (keepLine_ok (dropLines_ok (expose_ok h))) (dropLines_ok (expose_ok h)))) (ok_ite
      (keepLine_ok (dropLines_ok (expose_ok h))) (dropLines_ok (expose_ok h))))

theorem storeL1_ok {core dpa bs noL1} (h : s.Ok) : (storeL1 s core dpa bs noL1).Ok := ok_ite (dropLines_ok h) h

theorem performStore_ok {k} (h : s.Ok) : (performStore s k).Ok := by
  unfold performStore
  split
  · exact h
  dsimp only
  split
  · exact h
  exact ok_ite (sendSnoop_ok h) (dropWay_ok (homeWrite_ok _ _ _ h))

theorem performStores_ok {n x3} (h : s.Ok) : (performStores n s x3).Ok := by
  induction n generalizing s x3 with
  | zero =>
    unfold performStores
    exact h
  | succ n ih =>
    unfold performStores
    split
    · exact h
    exact ih (performStore_ok h)

theorem acquire_ok {core ctx scope o} (h : s.Ok) : (acquire s core ctx scope o).Ok := ok_ite h (dropLines_ok h)

/-! ## Machine/Translate -/

theorem askHost_ok {r core gid line own} (h : s.Ok) : (askHost s r core gid line own).Ok := ok_ite h h

theorem dropAnswers_ok {r} (h : s.Ok) : (dropAnswers s r).Ok := h

theorem tlbPut_ok {e} (h : s.Ok) : (tlbPut s e).Ok := h

theorem walksPut_ok {die path} (h : s.Ok) : (walksPut s die path).Ok := h

theorem putOwned_ok {a bs} (h : s.Ok) : (putOwned s a bs).Ok := by
  unfold putOwned
  split <;> exact h

theorem setEntryBits_ok {r at_ bits} (h : s.Ok) : (setEntryBits s r at_ bits).1.Ok := by
  unfold setEntryBits
  refine ok_fst_ite h ?_
  split
  · exact ok_fst_ite (sendSnoop_ok h) (homeWrite_ok _ _ _ h)
  · exact ok_fst_ite (putOwned_ok h) (askHost_ok h)
  exact h

theorem lacking_ok {ctx va kind cause failed who} (h : s.Ok) : (lacking s ctx va kind cause failed who).1.Ok :=
  ok_fst_ite h (ok_fst_ite h (ok_fst_ite h h))

theorem missPut_ok {places ctx vpn kind walking paging} (h : s.Ok) : (missPut s places ctx vpn kind walking paging).Ok := by
  unfold missPut
  refine foldl_ok (fun _ _ h1 => ?_) _ h
  split <;> exact State.ok_with h1

theorem missDone_ok {die ctx vpn} (h : s.Ok) : (missDone s die ctx vpn).Ok := h

theorem dropMisses_ok {ctx} (h : s.Ok) : (dropMisses s ctx).Ok := h

theorem translate_ok {places die ctx va kind failed who} (h : s.Ok) : (translate s places die ctx va kind failed who).1.Ok := by
  unfold translate
  refine ok_fst_ite h ?_
  split
  · exact h
  refine ok_fst_ite h (ok_fst_ite (missPut_ok h) ?_)
  dsimp only
  split
  · refine missPut_ok ?_
    split
    · exact sendSnoop_ok (ok_ite h (State.modDie_ok h))
    · exact askHost_ok (ok_ite h (State.modDie_ok h))
    · exact dropAnswers_ok (ok_ite h (State.modDie_ok h))
    · exact logged_ok (dropAnswers_ok (ok_ite h (State.modDie_ok h)))
    · exact lacking_ok (dropAnswers_ok (ok_ite h (State.modDie_ok h)))
    refine ok_fst_ite (lacking_ok (dropAnswers_ok (ok_ite h (State.modDie_ok h)))) ?_
    split
    next e4 => exact ok_fst e4 (setEntryBits_ok (ok_ite h (State.modDie_ok h)))
    next e4 => exact foldl_ok (fun _ _ h2 => tlbPut_ok h2) _ (walksPut_ok (dropAnswers_ok (ok_fst e4 (setEntryBits_ok (ok_ite h (State.modDie_ok
        h))))))
  · refine missPut_ok ?_
    split
    · exact sendSnoop_ok (ok_ite h (State.modDie_ok h))
    · exact askHost_ok (ok_ite h (State.modDie_ok h))
    · exact dropAnswers_ok (ok_ite h (State.modDie_ok h))
    · exact logged_ok (dropAnswers_ok (ok_ite h (State.modDie_ok h)))
    · exact lacking_ok (dropAnswers_ok (ok_ite h (State.modDie_ok h)))
    refine ok_fst_ite (lacking_ok (dropAnswers_ok (ok_ite h (State.modDie_ok h)))) ?_
    split
    next e4 => exact ok_fst e4 (setEntryBits_ok (ok_ite h (State.modDie_ok h)))
    next e4 => exact foldl_ok (fun _ _ h2 => tlbPut_ok h2) _ (walksPut_ok (dropAnswers_ok (ok_fst e4 (setEntryBits_ok (ok_ite h (State.modDie_ok
        h))))))
  refine missDone_ok ?_
  split
  · exact sendSnoop_ok (ok_ite h (State.modDie_ok h))
  · exact askHost_ok (ok_ite h (State.modDie_ok h))
  · exact dropAnswers_ok (ok_ite h (State.modDie_ok h))
  · exact logged_ok (dropAnswers_ok (ok_ite h (State.modDie_ok h)))
  · exact lacking_ok (dropAnswers_ok (ok_ite h (State.modDie_ok h)))
  refine ok_fst_ite (lacking_ok (dropAnswers_ok (ok_ite h (State.modDie_ok h)))) ?_
  split
  next e5 => exact ok_fst e5 (setEntryBits_ok (ok_ite h (State.modDie_ok h)))
  next e5 => exact foldl_ok (fun _ _ h2 => tlbPut_ok h2) _ (walksPut_ok (dropAnswers_ok (ok_fst e5 (setEntryBits_ok (ok_ite h
      (State.modDie_ok h))))))

theorem State.trans_ok {core ctx va kind failed} (h : s.Ok) : (s.trans core ctx va kind failed).1.Ok := translate_ok h

theorem dropTlb_ok {ctx p} (h : s.Ok) : (dropTlb s ctx p).Ok := h

/-! ## Machine/Paths -/

theorem sendAnswer_ok {org via seq tagged status bytes} (h : s.Ok) : (sendAnswer s org via seq tagged status bytes).Ok := h

theorem raiseFloor_ok {f flr} (h : s.Ok) : (raiseFloor s f flr).Ok := ok_ite h h

theorem noteSeen_ok {f seq status v} (h : s.Ok) : (noteSeen s f seq status v).Ok := h

theorem loseWrite_ok {g c va peer} (h : s.Ok) : (loseWrite s g c va peer).Ok :=
  ok_ite (State.modLaunch_ok (logged_ok h)) (ok_ite (logged_ok h) (State.modGroup_ok (logged_ok h)))

theorem sendFab_ok {r} (h : s.Ok) : (sendFab s r).Ok := State.ok_with (State.tick_ok (ok_ite h h))

theorem sendMsg_ok {kind dst args} (h : s.Ok) : (sendMsg s kind dst args).Ok := sendFab_ok h

theorem sendMsgs_ok {kind dsts args} (h : s.Ok) : (sendMsgs s kind dsts args).Ok := foldl_ok (fun _ _ h1 => sendMsg_ok h1) _ h

theorem ackFab_ok {peer seq frm} (h : s.Ok) : (ackFab s peer seq frm).Ok := h

theorem mcDeliver_ok {r} (h : s.Ok) : (mcDeliver s r).Ok := by
  unfold mcDeliver
  refine ok_ite h (ok_ite (ackFab_ok h) ?_)
  dsimp only
  split
  · exact State.ok_with (sendSnoop_ok h)
  exact ackFab_ok (homeWrites_ok _ _ h)

theorem sendOne_ok {r} (h : s.Ok) : (sendOne s r).Ok := ok_ite h (ok_ite h (ok_ite (mcDeliver_ok h) h))

theorem pumpFab_ok (h : s.Ok) : (pumpFab s).Ok := foldl_ok (fun _ _ h1 => sendOne_ok h1) _ h

theorem askPeer_ok {r core gid dev off size kind} (h : s.Ok) : (askPeer s r core gid dev off size kind).Ok := ok_ite h (sendFab_ok h)

theorem askFar_ok {r core gid t} (h : s.Ok) : (askFar s r core gid t).Ok := by
  unfold askFar
  split
  · exact askHost_ok h
  · exact askPeer_ok h
  exact h

theorem drainWc_ok {core e} (h : s.Ok) : (drainWc s core e).Ok := by
  unfold drainWc
  dsimp only
  split
  · exact sendFab_ok (State.modCore_ok h)
  · exact sendFab_ok (State.modCore_ok h)
  exact State.modCore_ok h

theorem drainWcb_ok {core p} (h : s.Ok) : (drainWcb s core p).Ok := foldl_ok (fun _ _ h1 => drainWc_ok h1) _ h

theorem wcStore_ok {core group va op caps t bs} (h : s.Ok) : (wcStore s core group va op caps t bs).Ok := by
  unfold wcStore
  dsimp only
  split
  · exact State.modCore_ok h
  refine State.modCore_ok ?_
  split
  · exact ok_ite (drainWc_ok h) h
  exact h

theorem wcSettle_ok {core} (h : s.Ok) : (wcSettle s core).Ok := drainWcb_ok h

theorem takeOwned_ok {line bytes} (h : s.Ok) : (takeOwned s line bytes).Ok := by
  unfold takeOwned
  refine ok_ite h (State.ok_with ?_)
  split
  · exact ok_ite h h
  exact h

theorem hostRmw_ok {a n f} (h : s.Ok) : (hostRmw s a n f).1.Ok := by
  unfold hostRmw
  dsimp only
  split
  · exact putOwned_ok h
  exact h

theorem flushRed_ok {core e} (h : s.Ok) : (flushRed s core e).Ok := by
  unfold flushRed
  dsimp only
  split
  · exact sendSnoop_ok h
  split
  · exact ok_ite (State.ok_with (homeRmw_ok _ _ _ _ (State.modCore_ok h))) (storeL1_ok (dropWay_ok (homeRmw_ok _ _ _ _ (State.modCore_ok h))))
  · exact sendFab_ok (drainWcb_ok (State.modCore_ok h))
  · exact ok_ite (hostRmw_ok (State.modCore_ok h)) (State.ok_with (State.modCore_ok h))
  exact State.modCore_ok h

theorem flushOverlap_ok {core t n} (h : s.Ok) : (flushOverlap s core t n).Ok := foldl_ok (fun _ _ h1 => flushRed_ok h1) _ h

theorem redEnter_ok {core group ctx va t op wide v} (h : s.Ok) : (redEnter s core group ctx va t op wide v).1.Ok := by
  unfold redEnter
  dsimp only
  split
  · exact State.modCore_ok h
  split
  · exact flushOverlap_ok h
  refine ok_fst_ite (flushOverlap_ok h) ?_
  split
  · dsimp only
    split
    · exact flushRed_ok (flushOverlap_ok h)
    exact flushOverlap_ok h
  refine State.modCore_ok ?_
  split
  · exact flushRed_ok (flushOverlap_ok h)
  exact flushOverlap_ok h

theorem releaseWork_ok {g scope} (h : s.Ok) : (releaseWork s g scope).1.Ok :=
  ok_fst_ite h (ok_ite (drainWcb_ok (foldl_ok (fun _ _ h1 => flushRed_ok h1) _ (performStores_ok h))) (foldl_ok (fun _ _ h1 => flushRed_ok h1) _
      (performStores_ok h)))

theorem badLine_ok {l a va cls} (h : s.Ok) : (badLine s l a va cls).1.Ok := ok_fst_ite h h

theorem tsoStore_ok {q core l a new} (h : s.Ok) : (tsoStore s q core l a new).Ok := by
  unfold tsoStore
  split <;> exact h

theorem dpaAccess_ok {q a tso} (h : s.Ok) : (dpaAccess s q a tso).1.Ok := by
  unfold dpaAccess
  dsimp only
  split
  · exact ok_ite (performStores_ok (ok_ite h (flushOverlap_ok h))) (ok_ite h (flushOverlap_ok h))
  refine ok_fst_ite (ok_ite (performStores_ok (ok_ite h (flushOverlap_ok h))) (ok_ite h (flushOverlap_ok h))) ?_
  split
  · exact ok_fst_ite (sendSnoop_ok (performStores_ok (ok_ite (performStores_ok (ok_ite h (flushOverlap_ok h))) (ok_ite h (flushOverlap_ok h)))))
      (ok_fst_ite (badLine_ok (readLine_ok (performStores_ok (ok_ite (performStores_ok (ok_ite h (flushOverlap_ok h))) (ok_ite h (flushOverlap_ok
      h)))))) (readLine_ok (performStores_ok (ok_ite (performStores_ok (ok_ite h (flushOverlap_ok h))) (ok_ite h (flushOverlap_ok h))))))
  · refine ok_fst_ite (tsoStore_ok (storeL1_ok (ok_ite (performStores_ok (ok_ite h (flushOverlap_ok h))) (ok_ite h (flushOverlap_ok h))))) ?_
    split <;> exact State.ok_with (storeL1_ok (ok_ite (performStores_ok (ok_ite h (flushOverlap_ok h))) (ok_ite h (flushOverlap_ok h))))
  · refine ok_fst_ite (ok_fst_ite (sendSnoop_ok (flushOverlap_ok (performStores_ok (ok_ite (performStores_ok (ok_ite h (flushOverlap_ok h)))
      (ok_ite h
      (flushOverlap_ok h)))))) (ok_fst_ite (State.ok_with (homeRmw_ok _ _ _ _ (flushOverlap_ok (performStores_ok (ok_ite (performStores_ok (ok_ite h
      (flushOverlap_ok h))) (ok_ite h (flushOverlap_ok h))))))) (storeL1_ok (dropWay_ok (homeRmw_ok _ _ _ _ (flushOverlap_ok (performStores_ok
          (ok_ite
      (performStores_ok (ok_ite h (flushOverlap_ok h))) (ok_ite h (flushOverlap_ok h)))))))))) ?_
    split
    next e3 => exact ok_fst e3 (redEnter_ok (ok_ite (performStores_ok (ok_ite h (flushOverlap_ok h))) (ok_ite h (flushOverlap_ok h))))
    next e3 => exact ok_fst e3 (redEnter_ok (ok_ite (performStores_ok (ok_ite h (flushOverlap_ok h))) (ok_ite h (flushOverlap_ok h))))
  exact ok_fst_ite (sendSnoop_ok (performStores_ok (ok_ite (performStores_ok (ok_ite h (flushOverlap_ok h))) (ok_ite h (flushOverlap_ok h)))))
      (ok_fst_ite (badLine_ok (homeRmw_ok _ _ _ _ (performStores_ok (ok_ite (performStores_ok (ok_ite h (flushOverlap_ok h))) (ok_ite h
      (flushOverlap_ok h)))))) (storeL1_ok (dropWay_ok (homeRmw_ok _ _ _ _ (performStores_ok (ok_ite (performStores_ok (ok_ite h
          (flushOverlap_ok h)))
      (ok_ite h (flushOverlap_ok h))))))))

theorem tsoSend_ok {q core t peer acks} (h : s.Ok) : (tsoSend s q core t peer acks).Ok := ok_ite h (sendFab_ok h)

theorem peerAccess_ok {q core l t d o tso} (h : s.Ok) : (peerAccess s q core l t d o tso).1.Ok := by
  unfold peerAccess
  refine ok_fst_ite h ?_
  split
  · exact ok_fst_ite (tsoSend_ok (drainWcb_ok (ok_ite (flushOverlap_ok h) (State.modLaunch_ok (flushOverlap_ok h))))) (wcStore_ok (ok_ite
      (flushOverlap_ok h) (State.modLaunch_ok (flushOverlap_ok h))))
  · refine ok_fst_ite (sendFab_ok (ok_ite (drainWcb_ok (flushOverlap_ok h)) (State.modLaunch_ok (drainWcb_ok (flushOverlap_ok h))))) ?_
    split
    next e2 => exact ok_fst e2 (redEnter_ok h)
    next e2 =>
      have h1 := ok_fst e2 (redEnter_ok h)
      exact ok_ite h1 (State.modLaunch_ok h1)
  exact sendFab_ok (ok_ite (drainWcb_ok (flushOverlap_ok h)) (State.modLaunch_ok (drainWcb_ok (flushOverlap_ok h))))

theorem hostStore_ok {q core a tso} (h : s.Ok) : (hostStore s q core a tso).1.Ok := ok_fst_ite (putOwned_ok h) (ok_ite h h)

theorem hostMemAccess_ok {q core l a tso} (h : s.Ok) : (hostMemAccess s q core l a tso).1.Ok := by
  unfold hostMemAccess
  refine ok_fst_ite (ok_ite h (State.modLaunch_ok h)) ?_
  split
  · refine ok_fst_ite (ok_fst_ite (hostRmw_ok (flushOverlap_ok (ok_ite h (State.modLaunch_ok h)))) (State.ok_with (flushOverlap_ok (ok_ite h
      (State.modLaunch_ok h))))) ?_
    split
    next e2 => exact ok_fst e2 (redEnter_ok (ok_ite h (State.modLaunch_ok h)))
    next e2 => exact ok_fst e2 (redEnter_ok (ok_ite h (State.modLaunch_ok h)))
  · exact hostStore_ok (flushOverlap_ok (ok_ite h (State.modLaunch_ok h)))
  · exact ok_fst_ite (flushOverlap_ok (ok_ite h (State.modLaunch_ok h))) (State.ok_with (flushOverlap_ok (ok_ite h (State.modLaunch_ok h))))
  exact ok_fst_ite (hostRmw_ok (flushOverlap_ok (ok_ite h (State.modLaunch_ok h)))) (State.ok_with (flushOverlap_ok (ok_ite h (State.modLaunch_ok
      h))))

theorem globAccess_ok {q} (h : s.Ok) : (globAccess s q).1.Ok := by
  unfold globAccess
  dsimp only
  split
  next e1 => exact ok_fst e1 (State.trans_ok h)
  next e1 => exact ok_fst e1 (State.trans_ok h)
  next e1 => exact ok_fst e1 (State.trans_ok h)
  next e1 =>
    have h1 := ok_fst e1 (State.trans_ok h)
    split
    · exact dpaAccess_ok h1
    · split
      · exact h1
      exact ok_fst_ite h1 (peerAccess_ok h1)
    · exact ok_fst_ite h1 (ok_fst_ite h1 (ok_fst_ite h1 (ok_fst_ite h1 (ok_fst_ite h1 (ok_fst_ite (tsoSend_ok (drainWcb_ok (State.modLaunch_ok h1)))
        (wcStore_ok (State.modLaunch_ok h1)))))))
    exact hostMemAccess_ok h1

theorem putCells_ok {core gid eng va who t cells} (h : s.Ok) : (putCells s core gid eng va who t cells).Ok := by
  unfold putCells
  dsimp only
  split
  · exact dropLines_ok (homeWrite_ok _ _ _ h)
  · refine ok_ite (foldl_ok (fun _ _ h1 => putOwned_ok h1) _ ?_) (State.ok_with ?_)
    · split
      · exact h
      · exact State.modLaunch_ok h
      exact h
    split
    · exact h
    · exact State.modLaunch_ok h
    exact h
  · refine sendFab_ok ?_
    split
    · exact h
    · exact State.modLaunch_ok h
    exact h
  refine sendFab_ok ?_
  split
  · exact h
  · exact State.modLaunch_ok h
  exact h

theorem putMail_ok {core gid va who t bs} (h : s.Ok) : (putMail s core gid va who t bs).Ok := by
  unfold putMail
  split
  · exact h
  exact State.ok_with (putCells_ok (foldl_ok (fun _ _ h1 => putCells_ok h1) _ h))

theorem prvEvict_ok {gid line} (h : s.Ok) : (prvEvict s gid line).1.Ok := by
  unfold prvEvict
  dsimp only
  split
  next e1 =>
    have h1 := ok_fst e1 (State.trans_ok h)
    exact ok_fst_ite (sendSnoop_ok h1) (State.modGroup_ok (homeWrite_ok _ _ _ h1))
  next e2 =>
    have h1 := ok_fst e2 (State.trans_ok h)
    exact ok_fst_ite h1 (State.modGroup_ok (putCells_ok h1))
  next e1 => exact ok_fst e1 (State.trans_ok h)
  next e4 => exact ok_fst e4 (State.trans_ok h)

theorem prvYield_ok {core gid keep} (h : s.Ok) : (prvYield s core gid keep).1.Ok := by
  unfold prvYield
  split
  · exact h
  split
  · exact prvEvict_ok h
  exact h

theorem prvRoom_ok {gid ls} (h : s.Ok) : (prvRoom s gid ls).1.Ok := by
  induction ls with
  | nil => exact h
  | cons x r ih =>
    unfold prvRoom
    split
    next e => exact ok_fst e ih
    next e => exact ok_fst_ite (ok_fst e ih) (prvYield_ok (ok_fst e ih))

theorem prvHomeBytes_ok {gid l va t ks} (h : s.Ok) : (prvHomeBytes s gid l va t ks).1.Ok := by
  unfold prvHomeBytes
  split
  · split
    · exact sendSnoop_ok h
    dsimp only
    split
    · exact badLine_ok (foldl_ok (fun _ _ h1 => expose_ok h1) _ h)
    exact foldl_ok (fun _ _ h1 => expose_ok h1) _ h
  dsimp only
  split
  · exact askFar_ok h
  split <;> exact dropAnswers_ok h

theorem prvAccess_ok {gid i ctx o n wr failed} (h : s.Ok) : (prvAccess s gid i ctx o n wr failed).1.Ok := by
  unfold prvAccess
  dsimp only
  split
  next e1 => exact ok_fst e1 (State.trans_ok h)
  next e1 => exact ok_fst e1 (State.trans_ok h)
  next e1 => exact ok_fst e1 (State.trans_ok h)
  next e1 =>
    have h1 := ok_fst e1 (State.trans_ok h)
    refine ok_fst_ite h1 (ok_fst_ite h1 ?_)
    split
    · split
      next e2 => exact ok_fst e2 (prvRoom_ok h1)
      next e2 => exact State.modGroup_ok (ok_fst e2 (prvRoom_ok h1))
    split
    next e2 => exact ok_fst e2 (prvHomeBytes_ok h1)
    next e2 => exact ok_fst e2 (prvHomeBytes_ok h1)

theorem scrWrite_ok {t o n v} (h : s.Ok) : (scrWrite s t o n v).Ok := State.modTeam_ok h

theorem scrAccess_ok {t o q} (h : s.Ok) : (scrAccess s t o q).1.Ok := by
  unfold scrAccess
  dsimp only
  split
  · exact h
  · exact scrWrite_ok h
  split
  · exact scrWrite_ok h
  exact h

theorem winAccess_ok {q} (h : s.Ok) : (winAccess s q).1.Ok := by
  unfold winAccess
  dsimp only
  split
  · exact h
  · exact h
  · exact scrAccess_ok h
  exact sendFab_ok h

theorem State.modFifo_ok {cl b f} (h : s.Ok) : (s.modFifo cl b f).Ok := State.modCluster_ok h

theorem fifoPut_ok {cl b bs} (h : s.Ok) : (fifoPut s cl b bs).Ok := State.modFifo_ok h

theorem fifoTake_ok {cl b} (h : s.Ok) : (fifoTake s cl b).1.Ok := State.modFifo_ok h

theorem fifoRelease_ok {cl b slot} (h : s.Ok) : (fifoRelease s cl b slot).Ok := State.modFifo_ok h

/-! ## Machine/Ops -/

theorem sweepSet_ok {cl k} (h : s.Ok) : (sweepSet s cl k).Ok := by
  unfold sweepSet
  dsimp only
  split
  · exact h
  exact ok_ite (State.modMx_ok h) h

theorem leaveSet_ok {gid} (h : s.Ok) : (leaveSet s gid).Ok := by
  unfold leaveSet
  split
  · exact h
  exact sweepSet_ok (State.modMx_ok (State.modGroup_ok h))

theorem releaseHeld_ok {gid} (h : s.Ok) : (releaseHeld s gid).Ok :=
  State.modGroup_ok (foldl_ok (fun _ _ h1 => foldl_ok (fun _ _ h2 => fifoRelease_ok h2) _ h1) _ h)

theorem teamCounts_ok {t} (h : s.Ok) : (teamCounts s t).Ok := State.modCounter_ok h

theorem freeBanks_ok {t} (h : s.Ok) : (freeBanks s t).Ok := State.modTeam_ok (State.modCluster_ok h)

theorem completeTeam_ok {t} (h : s.Ok) : (completeTeam s t).Ok := teamCounts_ok (State.ok_with (State.modTeam_ok (freeBanks_ok h)))

theorem tellGang_ok {k kteam} (h : s.Ok) : (tellGang s k kteam).Ok := sendMsgs_ok h

theorem reportGang_ok {k t kind v} (h : s.Ok) : (reportGang s k t kind v).Ok := by
  unfold reportGang
  exact ok_ite h (foldl_ok (fun _ _ h1 => sendFab_ok h1) _ h)

theorem tellReach_ok {k} (h : s.Ok) : (tellReach s k).Ok :=
  foldl_ok (fun _ _ h1 => ok_ite (reportGang_ok (State.modGang_ok (ok_ite (reportGang_ok (State.modGang_ok h1)) h1))) (ok_ite (reportGang_ok
      (State.modGang_ok h1)) h1)) _ h

theorem syncSettle_ok {k} (h : s.Ok) : (syncSettle s k).Ok := ok_ite (State.modGang_ok (tellReach_ok h)) (tellReach_ok h)

theorem depart_ok {k t early} (h : s.Ok) : (depart s k t early).Ok :=
  ok_ite h (completeTeam_ok (ok_ite (tellGang_ok (State.modGang_ok (State.modTeam_ok h))) (reportGang_ok (State.modGang_ok (State.modTeam_ok h)))))

theorem gangSweep_ok {k} (h : s.Ok) : (gangSweep s k).Ok := ok_ite (foldl_ok (fun _ _ h1 => depart_ok h1) _ (syncSettle_ok h)) (syncSettle_ok h)

theorem endHeld_ok {t} (h : s.Ok) : (endHeld s t).Ok := by
  unfold endHeld
  split
  · exact completeTeam_ok h
  exact gangSweep_ok (depart_ok h)

theorem barSettle_ok {t b} (h : s.Ok) : (barSettle s t b).Ok := ok_ite (State.modTeam_ok h) h

theorem endTeam_ok {t killed} (h : s.Ok) : (endTeam s t killed).Ok := by
  unfold endTeam
  refine ok_ite h ?_
  split
  · exact completeTeam_ok h
  exact ok_ite (gangSweep_ok (depart_ok h)) (gangSweep_ok (State.modTeam_ok h))

theorem endGroup_ok {gid killed} (h : s.Ok) : (endGroup s gid killed).Ok := by
  unfold endGroup
  refine ok_ite h (ok_ite (endTeam_ok (foldl_ok (fun _ _ h1 => barSettle_ok h1) _ (dropAnswers_ok (dropAnswers_ok (State.modGroup_ok (ok_ite
      (State.modLaunch_ok (leaveSet_ok (releaseHeld_ok h))) (leaveSet_ok (releaseHeld_ok h)))))))) ?_)
  split
  · exact gangSweep_ok (foldl_ok (fun _ _ h1 => barSettle_ok h1) _ (dropAnswers_ok (dropAnswers_ok (State.modGroup_ok (ok_ite (State.modLaunch_ok
      (leaveSet_ok (releaseHeld_ok h))) (leaveSet_ok (releaseHeld_ok h)))))))
  exact foldl_ok (fun _ _ h1 => barSettle_ok h1) _ (dropAnswers_ok (dropAnswers_ok (State.modGroup_ok (ok_ite (State.modLaunch_ok (leaveSet_ok
      (releaseHeld_ok h))) (leaveSet_ok (releaseHeld_ok h))))))

theorem exitLanes_ok {gid ls killed} (h : s.Ok) : (exitLanes s gid ls killed).Ok := ok_ite (endGroup_ok (State.modGroup_ok h)) (State.modGroup_ok h)

theorem killGroup_ok {gid} (h : s.Ok) : (killGroup s gid).Ok := ok_ite h (exitLanes_ok h)

theorem killLaunch_ok {l status} (h : s.Ok) : (killLaunch s l status).Ok :=
  State.ok_with (State.modLaunch_ok (State.modCounter_ok (foldl_ok (fun _ _ h1 => ok_ite (endHeld_ok h1) h1) _ (foldl_ok (fun _ _ h1 => ok_ite
      (ok_ite
      h1 (completeTeam_ok h1)) (foldl_ok (fun _ _ h2 => killGroup_ok h2) _ h1)) _ h))))

theorem slotReset_ok {core} (h : s.Ok) : (slotReset s core).Ok := by
  unfold slotReset
  split
  · exact h
  exact State.modGroup_ok h

theorem loadTrap_ok {core} (h : s.Ok) : (loadTrap s core).Ok := by
  unfold loadTrap
  dsimp only
  split
  · exact State.modCore_ok h
  split
  · exact State.modCore_ok h
  split <;> exact State.modCore_ok h

theorem slotTrap_ok {core} (h : s.Ok) : (slotTrap s core).Ok := by
  unfold slotTrap
  dsimp only
  split
  · refine State.modCore_ok (slotReset_ok (logged_ok ?_))
    split
    · exact killLaunch_ok h
    exact h
  refine State.modGroup_ok (State.modCore_ok (slotReset_ok (logged_ok ?_)))
  split
  · exact killLaunch_ok h
  exact h

theorem enterRecord_ok {core g r} (h : s.Ok) : (enterRecord s core g r).Ok := by
  unfold enterRecord
  refine loadTrap_ok (State.modGroup_ok ?_)
  split
  · exact State.modGroup_ok (slotReset_ok (State.modCore_ok h))
  exact State.modCore_ok h

theorem takeTrap_ok {gid cause pc ext unif lanes status} (h : s.Ok) : (takeTrap s gid cause pc ext unif lanes status).Ok :=
  ok_ite (slotTrap_ok h) (ok_ite h (State.tick_ok (State.modGroup_ok h)))

theorem resume_ok {gid rec act lanes target} (h : s.Ok) : (resume s gid rec act lanes target).Ok := by
  unfold resume
  split
  · exact h
  exact ok_ite (exitLanes_ok (State.modGroup_ok h)) (State.modGroup_ok (State.modGroup_ok h))

theorem trapLanes_ok {gid pc ext rs} (h : s.Ok) : (trapLanes s gid pc ext rs).Ok := foldl_ok (fun _ _ h1 => takeTrap_ok h1) _ h

theorem runLanes_ok {len f} (h : s.Ok) : (runLanes s len f).Ok :=
  ok_ite (trapLanes_ok (State.modGroup_ok h)) (exitLanes_ok (trapLanes_ok (State.modGroup_ok h)))

theorem runLanesM_ok {len : Nat} {f : State → Group → Nat → Lane → State × LaneRes} (hf : ∀ s x2 x3 x4, s.Ok → (f s x2 x3 x4).1.Ok) (h : s.Ok) :
    (runLanesM s len f).Ok := by
  unfold runLanesM
  refine trapLanes_ok (foldl_fst_ok (fun x a h1 => ?_) _ ?_)
  · exact State.modGroup_ok (hf _ _ _ _ h1)
  exact h

theorem illegalRun_ok {ext} (h : s.Ok) : (illegalRun s ext).Ok := takeTrap_ok h

theorem groupTrap_ok {gid c addr status} (h : s.Ok) : (groupTrap s gid c addr status).Ok := takeTrap_ok h

theorem advanceTo_ok {pc} (h : s.Ok) : (advanceTo s pc).Ok := State.modGroup_ok h

theorem advance_ok (h : s.Ok) : (advance s).Ok := advanceTo_ok h

theorem holdGroup_ok {h'} (h : s.Ok) : (holdGroup s h').Ok := State.modGroup_ok h

theorem setU_ok {code v} (h : s.Ok) : (setU s code v).Ok := State.modGroup_ok h

theorem uniform_ok {act : State → State} (hact : ∀ s, s.Ok → (act s).Ok) (h : s.Ok) : (uniform s act).Ok :=
  ok_ite (hact _ h) (ok_ite h (takeTrap_ok h))

theorem illegalU_ok (h : s.Ok) : (illegalU s).Ok := takeTrap_ok h

theorem supervisor_ok {act : State → State} (hact : ∀ s, s.Ok → (act s).Ok) (h : s.Ok) : (supervisor s act).Ok :=
  uniform_ok (fun _ h1 => ok_ite (groupTrap_ok h1) (hact _ h1)) h

theorem uRelease_ok {scope : Nat} {k : State → State} (hk : ∀ s, s.Ok → (k s).Ok) (h : s.Ok) : (uRelease s scope k).Ok := by
  unfold uRelease
  dsimp only
  split
  · exact groupTrap_ok (State.modGroup_ok h)
  exact ok_ite (hk _ (releaseWork_ok h)) (holdGroup_ok (releaseWork_ok h))

theorem landWord_ok {gid i sl v} (h : s.Ok) : (landWord s gid i sl v).Ok := by
  unfold landWord
  refine ok_ite h ?_
  split
  · exact ok_ite (State.modGroup_ok (State.modGroup_ok h)) (ok_ite (State.modGroup_ok h) (State.modGroup_ok h))
  exact State.modGroup_ok h

theorem land_ok {d v} (h : s.Ok) : (land s d v).Ok := by
  unfold land
  dsimp only
  split
  next e1 => exact State.ok_with (ok_fst e1 (prvRoom_ok h))
  next e1 =>
    have h1 := ok_fst e1 (prvRoom_ok h)
    exact ok_ite (landWord_ok (landWord_ok h1)) (landWord_ok h1)

theorem within64_ok {k : State → State} (hk : ∀ s, s.Ok → (k s).Ok) (h : s.Ok) : (within64 s k).Ok := ok_ite h (hk _ h)

theorem qcntAdd_ok {gid q up} (h : s.Ok) : (qcntAdd s gid q up).Ok := State.modGroup_ok h

theorem cancelOne_ok {tell c} (h : s.Ok) : (cancelOne tell s c).Ok := by
  unfold cancelOne
  refine foldl_ok (fun _ _ h1 => ok_ite h1 (State.ok_with (ok_ite (sendMsgs_ok (State.modLaunch_ok (State.modCounter_ok (foldl_ok
      (fun _ _ h2 => ?_) _
      (State.modLaunch_ok h1))))) (State.modLaunch_ok (State.modCounter_ok (foldl_ok (fun _ _ h2 => ?_) _ (State.modLaunch_ok h1))))))) _
      (State.modCounter_ok h)
  · dsimp only
    split
    · exact foldl_ok (fun _ _ h3 => ok_ite h3 (State.modGroup_ok h3)) _ h2
    · exact foldl_ok (fun _ _ h3 => ok_ite h3 (State.modGroup_ok h3)) _ h2
    · exact h2
    · exact h2
    · exact endHeld_ok h2
    exact ok_ite (completeTeam_ok h2) (foldl_ok (fun _ _ h3 => killGroup_ok h3) _ h2)
  dsimp only
  split
  · exact foldl_ok (fun _ _ h3 => ok_ite h3 (State.modGroup_ok h3)) _ h2
  · exact foldl_ok (fun _ _ h3 => ok_ite h3 (State.modGroup_ok h3)) _ h2
  · exact h2
  · exact h2
  · exact endHeld_ok h2
  exact ok_ite (completeTeam_ok h2) (foldl_ok (fun _ _ h3 => killGroup_ok h3) _ h2)

theorem cancelTree_ok {tell k2 k4} (h : s.Ok) : (cancelTree tell k2 s k4).Ok := by
  induction k2 generalizing s k4 with
  | zero =>
    unfold cancelTree
    exact h
  | succ n ih =>
    unfold cancelTree
    exact ok_ite h (foldl_ok (fun _ _ h1 => ih h1) _ (cancelOne_ok h))

theorem cancel_ok {c} (h : s.Ok) : (cancel s c).Ok := cancelTree_ok h

/-! ## Machine/Operands -/

theorem laneWord_ok {o sh act} (h : s.Ok) : (laneWord s o sh act).Ok := ok_ite (runLanes_ok h) (illegalRun_ok h)

theorem aluWord_ok {o sh f} (h : s.Ok) : (aluWord s o sh f).Ok := laneWord_ok h

theorem predWord_ok {o sh f} (h : s.Ok) : (predWord s o sh f).Ok := laneWord_ok h

/-! ## Machine/LaneInt -/

theorem int2_ok {o f} (h : s.Ok) : (int2 s o f).Ok := aluWord_ok h

theorem int1_ok {o f} (h : s.Ok) : (int1 s o f).Ok := aluWord_ok h

theorem int3_ok {o f} (h : s.Ok) : (int3 s o f).Ok := aluWord_ok h

theorem plop_ok {o f} (h : s.Ok) : (plop s o f).Ok := runLanes_ok h

/-! ## Machine/LaneFp -/

theorem fp2_ok {o f} (h : s.Ok) : (fp2 s o f).Ok := aluWord_ok h

theorem fp1_ok {o f} (h : s.Ok) : (fp1 s o f).Ok := aluWord_ok h

theorem fp3_ok {o f} (h : s.Ok) : (fp3 s o f).Ok := aluWord_ok h

theorem packed_ok {o rc f} (h : s.Ok) : (packed s o rc f).Ok := aluWord_ok h

/-! ## Machine/Convert -/

theorem stepLaneGen_ok {rnd} (h : s.Ok) : (stepLaneGen s rnd).Ok := ok_ite (State.modCore_ok h) h

theorem execCvt_ok {o} (h : s.Ok) : Res.Ok (execCvt o s) := by
  unfold execCvt
  split
  · exact Res.ok_next (runLanes_ok (stepLaneGen_ok h))
  exact Res.ok_next (illegalRun_ok h)

theorem execBamax_ok {o} (h : s.Ok) : Res.Ok (execBamax o s) := by
  unfold execBamax
  split
  · exact Res.ok_ite (Res.ok_next (illegalRun_ok h)) (Res.ok_next (runLanes_ok (stepLaneGen_ok h)))
  exact Res.ok_next (illegalRun_ok h)

theorem execBscale_ok {o} (h : s.Ok) : Res.Ok (execBscale o s) := by
  unfold execBscale
  split
  · exact Res.ok_next (runLanes_ok (stepLaneGen_ok h))
  exact Res.ok_next (illegalRun_ok h)

theorem execBquant_ok {o} (h : s.Ok) : Res.Ok (execBquant o s) := by
  unfold execBquant
  split
  · exact Res.ok_next (runLanes_ok (stepLaneGen_ok h))
  exact Res.ok_next (illegalRun_ok h)

theorem execBpack_ok {o} (h : s.Ok) : Res.Ok (execBpack o s) := by
  unfold execBpack
  split
  · exact Res.ok_ite (Res.ok_next (illegalRun_ok h)) (Res.ok_next (runLanes_ok (stepLaneGen_ok h)))
  exact Res.ok_next (illegalRun_ok h)

theorem execBunpack_ok {o} (h : s.Ok) : Res.Ok (execBunpack o s) := by
  unfold execBunpack
  split
  · exact Res.ok_ite (Res.ok_next (illegalRun_ok h)) (Res.ok_next (runLanes_ok (stepLaneGen_ok h)))
  exact Res.ok_next (illegalRun_ok h)

theorem execBdeq_ok {o} (h : s.Ok) : Res.Ok (execBdeq o s) := by
  unfold execBdeq
  split
  · exact Res.ok_next (runLanes_ok (stepLaneGen_ok h))
  exact Res.ok_next (illegalRun_ok h)

/-! ## Machine/CrossLane -/

theorem collective_ok {o n sync src reads dst act} (h : s.Ok) : (collective s o n sync src reads dst act).Ok :=
  ok_ite (runLanes_ok h) (trapLanes_ok (State.modGroup_ok (runLanes_ok h)))

/-! ## Machine/Ports -/

theorem deliver_ok {gid i q v t} (h : s.Ok) (e : deliver s gid i q v = some t) : t.Ok := by
  unfold deliver at e
  dsimp only at e
  split at e
  · cases e
  split at e
  next => cases e; exact landWord_ok (State.modGroup_ok h)
  split at e
  · cases e; exact State.modGroup_ok h
  · cases e

theorem sendPush_ok {g i pg pl q v} (h : s.Ok) : (sendPush s g i pg pl q v).1.Ok := by
  unfold sendPush
  refine ok_fst_ite ?_ h
  split
  next e1 => exact deliver_ok h e1
  exact h

theorem execPush_ok {o} (h : s.Ok) : Res.Ok (execPush o s) := by
  unfold execPush
  refine Res.ok_next (runLanesM_ok (fun _ _ _ _ h1 => ok_fst_ite h1 (ok_fst_ite h1 ?_)) h)
  dsimp only
  split
  · exact h1
  split
  · exact h1
  · exact sendFab_ok h1
  split
  next e3 => exact ok_fst e3 (sendPush_ok h1)
  next e3 => exact ok_fst e3 (sendPush_ok h1)

/-! ## Machine/LaneMem -/

theorem laneAccess_ok {i space ea q} (h : s.Ok) : (laneAccess s i space ea q).1.Ok := by
  unfold laneAccess
  refine ok_fst_ite h ?_
  split
  · exact globAccess_ok h
  · exact ok_fst_ite h (scrAccess_ok h)
  · exact ok_fst_ite h (winAccess_ok h)
  · exact ok_fst_ite h (prvAccess_ok h)
  exact ok_fst_ite h (globAccess_ok h)

theorem memEnd_ok {m i l d dn op} (h : s.Ok) : (memEnd s m i l d dn op).1.Ok := by
  unfold memEnd
  split
  · split <;> exact h
  · exact h
  · exact h
  · exact h
  exact h

theorem blockRun_ok {w marks} (h : s.Ok) : (blockRun s w marks).Ok := runLanes_ok h

theorem laneRelease_ok {scope len : Nat} {marks : Nat → Lane → List Slot} {k : State → State} (hk : ∀ s, s.Ok → (k s).Ok) (h : s.Ok) :
    (laneRelease s
    scope len marks k).Ok := by
  unfold laneRelease
  dsimp only
  split
  · exact runLanes_ok (State.modGroup_ok h)
  exact ok_ite (hk _ (releaseWork_ok h)) (blockRun_ok (releaseWork_ok h))

theorem laneAcquire_ok {scope objs} (h : s.Ok) : (laneAcquire s scope objs).Ok := foldl_ok (fun _ _ h1 => acquire_ok h1) _ h

theorem memIssue_ok {o : LaneOp} {space disp : Nat} {k : State → State} (hk : ∀ s, s.Ok → (k s).Ok) (h : s.Ok) : (memIssue s o space disp k).Ok :=
  within64_ok (fun _ h1 => ok_ite h1 (hk _ h1)) h

theorem memWord_ok {o : LaneOp} {scope order space disp : Nat} {dst : Lane → List Slot} {f : Nat → State → Group → Nat → Lane → ℤ → State × LaneRes}
    (hf : ∀ x1 s x3 x4 x5 x6, s.Ok → (f x1 s x3 x4 x5 x6).1.Ok) (h : s.Ok) : (memWord s o scope order space disp dst f).Ok := by
  unfold memWord
  refine memIssue_ok (fun _ h1 => ok_ite (laneRelease_ok (fun _ h2 => ok_ite (laneAcquire_ok (wcSettle_ok (runLanesM_ok
      (fun _ _ _ _ h3 => ok_fst_ite
      h3 ?_) (State.tick_ok h2)))) (wcSettle_ok (runLanesM_ok (fun _ _ _ _ h3 => ok_fst_ite h3 ?_) (State.tick_ok h2)))) h1) (ok_ite (laneAcquire_ok
      (wcSettle_ok (runLanesM_ok (fun _ _ _ _ h2 => ok_fst_ite h2 ?_) (State.tick_ok h1)))) (wcSettle_ok (runLanesM_ok (fun _ _ _ _ h2 => ok_fst_ite
      h2 ?_) (State.tick_ok h1))))) h
  · split
    · exact h3
    exact hf _ _ _ _ _ _ h3
  · split
    · exact h3
    exact hf _ _ _ _ _ _ h3
  · split
    · exact h2
    exact hf _ _ _ _ _ _ h2
  split
  · exact h2
  exact hf _ _ _ _ _ _ h2

theorem gatedM_ok {gaps : List (Nat × Slot)} {l : Lane} {act : Unit → State × LaneRes} (hact : ∀ x1, (act x1).1.Ok) (h : s.Ok) : (gatedM s gaps l
    act).1.Ok :=
  ok_fst_ite (hact _) h

theorem execLd_ok {o} (h : s.Ok) : Res.Ok (execLd o s) := by
  unfold execLd
  split
  · exact Res.ok_next (memWord_ok (fun _ _ _ _ _ _ h1 => gatedM_ok (fun _ => memEnd_ok (laneAccess_ok h1)) h1) h)
  exact Res.ok_next (illegalRun_ok h)

theorem execSt_ok {o} (h : s.Ok) : Res.Ok (execSt o s) := by
  unfold execSt
  split
  · refine Res.ok_next (memWord_ok (fun _ _ _ _ _ _ h1 => gatedM_ok (fun _ => ?_) h1) h)
    dsimp only
    split
    · exact ok_fst_ite h1 h1
    exact memEnd_ok (laneAccess_ok h1)
  exact Res.ok_next (illegalRun_ok h)

theorem execAtom_ok {o} (h : s.Ok) : Res.Ok (execAtom o s) := by
  unfold execAtom
  split
  · exact Res.ok_next (memWord_ok (fun _ _ _ _ _ _ h1 => gatedM_ok (fun _ => memEnd_ok (laneAccess_ok h1)) h1) h)
  exact Res.ok_next (illegalRun_ok h)

theorem execRed_ok {o} (h : s.Ok) : Res.Ok (execRed o s) := by
  unfold execRed
  split
  · exact Res.ok_next (memWord_ok (fun _ _ _ _ _ _ h1 => gatedM_ok (fun _ => memEnd_ok (laneAccess_ok h1)) h1) h)
  exact Res.ok_next (illegalRun_ok h)

theorem execCas_ok {o} (h : s.Ok) : Res.Ok (execCas o s) := by
  unfold execCas
  split
  · exact Res.ok_next (memWord_ok (fun _ _ _ _ _ _ h1 => gatedM_ok (fun _ => memEnd_ok (laneAccess_ok h1)) h1) h)
  exact Res.ok_next (illegalRun_ok h)

theorem prefetch_ok {g va level hint cst} (h : s.Ok) : (prefetch s g va level hint cst).Ok := by
  unfold prefetch
  split
  next e1 =>
    have h1 := ok_fst e1 (State.trans_ok h)
    exact ok_ite h1 (ok_ite (performStores_ok h1) (keepLine_ok (expose_ok (ok_ite (dropLines_ok (performStores_ok h1)) (performStores_ok h1)))))
  next e2 => exact ok_fst e2 (State.trans_ok h)

theorem execPref_ok {o} (h : s.Ok) : Res.Ok (execPref o s) := by
  unfold execPref
  split
  · exact Res.ok_next (memWord_ok (fun _ _ _ _ _ _ h1 => ok_fst_ite (prefetch_ok h1) (ok_fst_ite h1 (prefetch_ok h1))) h)
  exact Res.ok_next (illegalRun_ok h)

theorem ldtagAt_ok {g l va} (h : s.Ok) : (ldtagAt s g l va).1.Ok := by
  unfold ldtagAt
  split
  next e1 => exact ok_fst e1 (State.trans_ok h)
  next e1 => exact ok_fst e1 (State.trans_ok h)
  next e1 => exact ok_fst e1 (State.trans_ok h)
  next e1 =>
    have h1 := ok_fst e1 (State.trans_ok h)
    dsimp only
    split
    · exact ok_fst_ite (sendSnoop_ok (performStores_ok (flushOverlap_ok h1))) (expose_ok (performStores_ok (flushOverlap_ok h1)))
    · exact ok_fst_ite (flushOverlap_ok h1) (ok_fst_ite (drainWcb_ok (flushOverlap_ok h1)) (drainWcb_ok (flushOverlap_ok h1)))
    · exact flushOverlap_ok h1
    exact flushOverlap_ok h1

theorem execLdtag_ok {o} (h : s.Ok) : Res.Ok (execLdtag o s) := by
  unfold execLdtag
  split
  · refine Res.ok_next (memIssue_ok (fun _ h1 => runLanes_ok (foldl_fst_ok (fun x a h2 => ?_) _ ?_)) h)
    · exact ldtagAt_ok h2
    exact State.tick_ok h1
  exact Res.ok_next (illegalRun_ok h)

theorem trueLanes_ok {o f} (h : s.Ok) : (trueLanes s o f).Ok := runLanes_ok h

theorem fifoWord_ok {o : LaneOp} {need : Cap → Bool} {reg : Option Nat} {k : State → Group → Nat → Nat → List Nat → State}
    (hk : ∀ s x2 x3 x4 x5, s.Ok
    → (k s x2 x3 x4 x5).Ok) (h : s.Ok) : (fifoWord s o need reg k).Ok :=
  ok_ite (runLanes_ok h) (ok_ite (trueLanes_ok h) (ok_ite (trueLanes_ok h) (hk _ _ _ _ _ h)))

theorem execCbget_ok {o} (h : s.Ok) : Res.Ok (execCbget o s) :=
  Res.ok_next (within64_ok (fun _ h1 => fifoWord_ok (fun _ _ _ _ _ h2 => ok_ite (trueLanes_ok h2) (ok_ite (trueLanes_ok (State.tick_ok h2))
      (runLanesM_ok (fun _ _ _ _ h3 => ok_fst_ite h3 (ok_fst_ite h3 (memEnd_ok h3))) (State.tick_ok (State.modGroup_ok (fifoTake_ok h2)))))) h1) h)

theorem execCbput_ok {o} (h : s.Ok) : Res.Ok (execCbput o s) :=
  Res.ok_next (within64_ok (fun _ h1 => fifoWord_ok (fun _ _ _ _ _ h2 => ok_ite (trueLanes_ok (State.tick_ok h2)) (trueLanes_ok
      (fifoPut_ok h2))) h1) h)

theorem execCbrel_ok {o} (h : s.Ok) : Res.Ok (execCbrel o s) := by
  unfold execCbrel
  refine Res.ok_next (fifoWord_ok (fun _ _ _ _ _ h1 => ?_) h)
  split
  · exact trueLanes_ok h1
  exact runLanes_ok (fifoRelease_ok (State.modGroup_ok h1))

/-! ## Machine/Control -/

theorem execGcall_ok {o} (h : s.Ok) : Res.Ok (execGcall o s) := by
  unfold execGcall
  refine Res.ok_ite (Res.ok_next (runLanes_ok h)) (Res.ok_ite (Res.ok_next (runLanes_ok h)) (Res.ok_ite (Res.ok_next (runLanes_ok h)) (Res.ok_ite
      (Res.ok_next (runLanes_ok h)) (Res.ok_ite (Res.ok_next (runLanes_ok h)) (Res.ok_next ?_)))))
  split
  · exact runLanes_ok (State.modGroup_ok h)
  split
  next e2 =>
    have h1 := ok_fst e2 (releaseWork_ok h)
    refine ok_ite (runLanes_ok h1) ?_
    split
    next e3 => exact runLanes_ok (ok_fst e3 (State.trans_ok h1))
    next e3 => exact runLanes_ok (ok_fst e3 (State.trans_ok h1))
    next e3 => exact runLanes_ok (ok_fst e3 (State.trans_ok h1))
    next e3 =>
      have h2 := ok_fst e3 (State.trans_ok h1)
      refine ok_ite (runLanes_ok h2) ?_
      split
      · exact runLanes_ok (sendSnoop_ok h2)
      exact runLanes_ok (State.modTeam_ok (putMail_ok h2))

/-! ## Machine/Uniform -/

theorem kalu_ok {o f} (h : s.Ok) : (kalu s o f).Ok := uniform_ok (fun _ h1 => advance_ok (setU_ok h1)) h

theorem kalui_ok {o b f} (h : s.Ok) : (kalui s o b f).Ok := uniform_ok (fun _ h1 => advance_ok (setU_ok h1)) h

theorem execKread_ok {o} (h : s.Ok) : Res.Ok (execKread o s) :=
  Res.ok_next (uniform_ok (fun _ h1 => ok_ite (groupTrap_ok h1) (ok_ite (holdGroup_ok h1) (advance_ok (setU_ok h1)))) h)

theorem execLoop_ok {o} (h : s.Ok) : Res.Ok (execLoop o s) :=
  Res.ok_next (uniform_ok (fun _ h1 => ok_ite (advanceTo_ok (setU_ok h1)) (advance_ok (setU_ok h1))) h)

theorem execYieldSwap_ok {u} (h : s.Ok) : Res.Ok (execYieldSwap u s) := by
  unfold execYieldSwap
  refine Res.ok_next (uniform_ok (fun _ h1 => ?_) h)
  dsimp only
  split
  · exact ok_ite (State.modCore_ok (advance_ok h1)) (advance_ok h1)
  exact advance_ok h1

/-! ## Machine/TeamOps -/

theorem uniformEnd_ok {m : MemOut} {k : State → Nat → State} (hk : ∀ s x2, s.Ok → (k s x2).Ok) (h : s.Ok) : (uniformEnd s m k).Ok := by
  unfold uniformEnd
  split
  · exact hk _ _ h
  · exact holdGroup_ok h
  · exact holdGroup_ok h
  · exact groupTrap_ok h
  exact h

theorem uGlob_ok {o kind} (h : s.Ok) : (uGlob s o kind).Ok :=
  uniform_ok (fun _ h1 => within64_ok (fun _ h2 => ok_ite (groupTrap_ok h2) (uniformEnd_ok (fun _ _ h3 => advance_ok (ok_ite (setU_ok h3) h3))
      (wcSettle_ok (globAccess_ok (State.tick_ok h2))))) h1) h

theorem execKldc_ok {o} (h : s.Ok) : Res.Ok (execKldc o s) :=
  Res.ok_next (uniform_ok (fun _ h1 => within64_ok (fun _ h2 => ok_ite (groupTrap_ok h2) (ok_ite (groupTrap_ok h2) (uniformEnd_ok
      (fun _ _ h3 => advance_ok (setU_ok h3)) (globAccess_ok (State.tick_ok h2))))) h1) h)

theorem uAcquire_ok {scope o} (h : s.Ok) : (uAcquire s scope o).Ok := acquire_ok h

theorem execFence_ok {o} (h : s.Ok) : Res.Ok (execFence o s) :=
  Res.ok_next (uniform_ok (fun _ h1 => ok_ite (uRelease_ok (fun _ h2 => advance_ok (ok_ite (uAcquire_ok h2) h2)) h1) (advance_ok (ok_ite
      (uAcquire_ok h1) h1))) h)

theorem execBind_ok {o} (h : s.Ok) : Res.Ok (execBind o s) :=
  Res.ok_next (uniform_ok (fun _ h1 => advance_ok (setU_ok (ok_ite (State.modContext_ok h1) h1))) h)

theorem barArrive_ok {b} (h : s.Ok) : (barArrive s b).Ok := State.modTeam_ok h

theorem execBarSync_ok {o} (h : s.Ok) : Res.Ok (execBarSync o s) := by
  unfold execBarSync
  refine Res.ok_next (uniform_ok (fun _ h1 => ?_) h)
  dsimp only
  split
  · refine ok_ite (advance_ok (uAcquire_ok (State.modGroup_ok (barSettle_ok ?_)))) (holdGroup_ok (barSettle_ok ?_))
    · split
      · exact h1
      exact State.modGroup_ok (barArrive_ok h1)
    split
    · exact h1
    exact State.modGroup_ok (barArrive_ok h1)
  refine barSettle_ok ?_
  split
  · exact h1
  exact State.modGroup_ok (barArrive_ok h1)

theorem execBarArr_ok {o} (h : s.Ok) : Res.Ok (execBarArr o s) :=
  Res.ok_next (uniform_ok (fun _ h1 => uRelease_ok (fun _ h2 => advance_ok (barSettle_ok (barArrive_ok h2))) h1) h)

theorem addGroup_ok {t g} (h : s.Ok) : (addGroup s t g).Ok := State.modTeam_ok h

theorem execSpawn_ok {o} (h : s.Ok) : Res.Ok (execSpawn o s) :=
  Res.ok_next (uniform_ok (fun _ h1 => ok_ite (advance_ok (setU_ok h1)) (ok_ite (advance_ok (setU_ok h1)) (advance_ok (setU_ok
      (addGroup_ok h1))))) h)

theorem execGangJoin_ok {o} (h : s.Ok) : Res.Ok (execGangJoin o s) := by
  unfold execGangJoin
  refine Res.ok_next (uniform_ok (fun _ h1 => ?_) h)
  dsimp only
  split
  · exact advance_ok (setU_ok h1)
  exact ok_ite (advance_ok (setU_ok h1)) (ok_ite (advance_ok (setU_ok h1)) (ok_ite (advance_ok (setU_ok (State.modTeam_ok h1))) (ok_ite (advance_ok
      (setU_ok (State.modGang_ok (State.modGroup_ok (ok_ite h1 (reportGang_ok (State.modGang_ok (State.modTeam_ok h1)))))))) (holdGroup_ok
      (State.modGroup_ok (ok_ite h1 (reportGang_ok (State.modGang_ok (State.modTeam_ok h1)))))))))

theorem execGangDetach_ok {o} (h : s.Ok) : Res.Ok (execGangDetach o s) := by
  unfold execGangDetach
  refine Res.ok_next (uniform_ok (fun _ h1 => ?_) h)
  dsimp only
  split
  · exact advance_ok (setU_ok h1)
  exact ok_ite (advance_ok (setU_ok h1)) (uRelease_ok (fun _ h2 => gangSweep_ok (advance_ok (setU_ok (State.modGroup_ok h2)))) h1)

theorem execGangSync_ok {u} (h : s.Ok) : Res.Ok (execGangSync u s) := by
  unfold execGangSync
  refine Res.ok_next (uniform_ok (fun _ h1 => ?_) h)
  dsimp only
  split
  · exact groupTrap_ok h1
  refine ok_ite (groupTrap_ok h1) ?_
  split
  · exact ok_ite (advance_ok (uAcquire_ok (State.modGroup_ok h1))) (holdGroup_ok h1)
  exact uRelease_ok (fun _ h2 => ok_ite (advance_ok (uAcquire_ok (State.modGroup_ok (syncSettle_ok (State.modGroup_ok h2))))) (holdGroup_ok
      (syncSettle_ok (State.modGroup_ok h2)))) h1

theorem execWinmapSet_ok {o} (h : s.Ok) : Res.Ok (execWinmapSet o s) := by
  unfold execWinmapSet
  refine Res.ok_next (uniform_ok (fun _ h1 => ?_) h)
  dsimp only
  split
  · exact advance_ok (setU_ok h1)
  exact ok_ite (advance_ok (setU_ok h1)) (ok_ite (advance_ok (setU_ok h1)) (ok_ite (advance_ok (setU_ok h1)) (advance_ok (setU_ok (reportGang_ok
      (State.modGang_ok (State.modTeam_ok h1)))))))

/-! ## Machine/System -/

theorem bankmodeSet_ok {cl v} (h : s.Ok) : (bankmodeSet s cl v).Ok := State.modCluster_ok h

theorem evictLoggia_ok {core} (h : s.Ok) : (evictLoggia s core).Ok := by
  unfold evictLoggia
  split
  · exact State.modCore_ok (State.modTeam_ok h)
  exact h

theorem trapgrpSet_ok {core v} (h : s.Ok) : (trapgrpSet s core v).Ok := by
  unfold trapgrpSet
  refine loadTrap_ok ?_
  split
  · exact State.modGroup_ok (State.modCore_ok h)
  exact State.modCore_ok h

theorem regvalSet_ok {core v} (h : s.Ok) : (regvalSet s core v).Ok := by
  unfold regvalSet
  dsimp only
  split
  · exact h
  exact ok_ite h (State.modGroup_ok h)

theorem csrWrite_ok {gid num v} (h : s.Ok) : (csrWrite s gid num v).Ok := by
  unfold csrWrite
  dsimp only
  split
  · exact State.modGroup_ok h
  · exact State.modGroup_ok h
  · exact State.modGroup_ok h
  · exact State.modTeam_ok h
  · exact State.modTeam_ok h
  · exact State.modGroup_ok h
  · exact State.modLaunch_ok h
  · exact State.modLaunch_ok h
  · exact State.modLaunch_ok h
  · exact State.modCore_ok h
  · exact State.modCore_ok h
  · exact trapgrpSet_ok h
  · exact State.modCore_ok h
  · exact regvalSet_ok h
  · exact State.modTeam_ok h
  · split
    · exact State.modGroup_ok h
    exact h
  · exact ok_ite (evictLoggia_ok h) h
  · exact State.modCore_ok h
  · exact bankmodeSet_ok h
  exact ok_ite (State.modGroup_ok h) h

theorem csrWord_ok {o : UOp} {wr : Bool} {k : State → UWord → State} (hk : ∀ s x2, s.Ok → (k s x2).Ok) (h : s.Ok) : (csrWord s o wr k).Ok := by
  unfold csrWord
  dsimp only
  split
  · exact illegalU_ok h
  exact uniform_ok (fun _ h1 => ok_ite (groupTrap_ok h1) (hk _ _ h1)) h

theorem execCsrr_ok {o} (h : s.Ok) : Res.Ok (execCsrr o s) :=
  Res.ok_next (csrWord_ok (fun _ _ h1 => advance_ok (setU_ok (ok_ite (State.ok_with (State.modCore_ok h1)) h1))) h)

theorem claimBank_ok {cl b ctx} (h : s.Ok) : (claimBank s cl b ctx).Ok := State.modFifo_ok h

theorem execCapset_ok {o} (h : s.Ok) : Res.Ok (execCapset o s) :=
  Res.ok_next (supervisor_ok (fun _ h1 => advance_ok (setU_ok (ok_ite (foldl_ok (fun _ _ h2 => claimBank_ok h2) _ (State.modLaunch_ok h1))
      (State.modLaunch_ok h1)))) h)

theorem retrap_ok {core r lanes} (h : s.Ok) : (retrap s core r lanes).Ok := ok_ite (loadTrap_ok h) (State.modCore_ok h)

theorem rte_ok {o act} (h : s.Ok) : (rte s o act).Ok := by
  unfold rte
  refine supervisor_ok (fun _ h1 => ?_) h
  dsimp only
  split
  · exact ok_ite (advance_ok (setU_ok h1)) (advance_ok (setU_ok (retrap_ok (resume_ok h1))))
  exact advance_ok (setU_ok h1)

theorem execRteEnd_ok {o} (h : s.Ok) : Res.Ok (execRteEnd o s) := by
  unfold execRteEnd
  refine Res.ok_next (supervisor_ok (fun _ h1 => ?_) h)
  dsimp only
  split
  · exact enterRecord_ok (State.modCore_ok (State.modGroup_ok (advance_ok (setU_ok h1))))
  exact State.modCore_ok (State.modGroup_ok (advance_ok (setU_ok h1)))

theorem execSeed_ok {o} (h : s.Ok) : Res.Ok (execSeed o s) := by
  unfold execSeed
  refine Res.ok_next (uniform_ok (fun _ h1 => advance_ok ?_) h)
  split
  · exact State.modCore_ok h1
  · exact State.modCluster_ok h1
  · exact State.modCluster_ok h1
  exact State.modDie_ok h1

theorem execCancel_ok {o} (h : s.Ok) : Res.Ok (execCancel o s) :=
  Res.ok_next (uniform_ok (fun _ h1 => ok_ite (advance_ok (setU_ok h1)) (cancel_ok (advance_ok (setU_ok h1)))) h)

theorem scanWord_ok {o : UOp} {mask : Nat} {k : State → Nat → State} (hk : ∀ s x2, s.Ok → (k s x2).Ok) (h : s.Ok) : (scanWord s o mask k).Ok :=
  supervisor_ok (fun _ h1 => ok_ite (illegalU_ok h1) (hk _ _ h1)) h

theorem execScantStart_ok {o} (h : s.Ok) : Res.Ok (execScantStart o s) :=
  Res.ok_next (scanWord_ok (fun _ _ h1 => ok_ite (advance_ok (setU_ok h1)) (ok_ite (advance_ok (setU_ok h1)) (advance_ok (setU_ok
      (State.modCore_ok h1))))) h)

theorem execScantCheck_ok {o} (h : s.Ok) : Res.Ok (execScantCheck o s) :=
  Res.ok_next (scanWord_ok (fun _ _ h1 => ok_ite (advance_ok (setU_ok h1)) (ok_ite (advance_ok (setU_ok h1)) (advance_ok (setU_ok
      (State.modCore_ok h1))))) h)

theorem requestRemoval_ok {die core} (h : s.Ok) : (requestRemoval s die core).Ok := State.modDie_ok h

theorem execScantEnd_ok {o} (h : s.Ok) : Res.Ok (execScantEnd o s) :=
  Res.ok_next (scanWord_ok (fun _ _ h1 => ok_ite (advance_ok (setU_ok h1)) (ok_ite (advance_ok (setU_ok (State.modCore_ok h1))) (ok_ite
      (advance_ok (setU_ok (requestRemoval_ok (State.modCore_ok h1)))) (advance_ok (setU_ok (State.modCore_ok h1)))))) h)

/-! ## Machine/MatrixOps -/

theorem State.modSet_ok {cl k f} (h : s.Ok) : (s.modSet cl k f).Ok := State.modMx_ok h

theorem State.modTile_ok {cl t f} (h : s.Ok) : (s.modTile cl t f).Ok := State.modMx_ok h

theorem uQueue_ok {n eng : Nat} {k : State → State} (hk : ∀ s, s.Ok → (k s).Ok) (h : s.Ok) : (uQueue s n eng k).Ok :=
  uniform_ok (fun _ h1 => ok_ite (hk _ h1) (groupTrap_ok h1)) h

theorem joinSet_ok {cl k d} (h : s.Ok) : (joinSet s cl k d).Ok := advance_ok (setU_ok (State.modGroup_ok (State.modSet_ok h)))

theorem execMmconvJoin_ok {o} (h : s.Ok) : Res.Ok (execMmconvJoin o s) := by
  unfold execMmconvJoin
  refine Res.ok_next (uQueue_ok (fun _ h1 => ok_ite (advance_ok (setU_ok h1)) ?_) h)
  split
  · exact ok_ite (advance_ok (setU_ok h1)) (ok_ite (advance_ok (setU_ok h1)) (ok_ite (advance_ok (setU_ok h1)) (joinSet_ok h1)))
  split
  · exact advance_ok (setU_ok h1)
  exact joinSet_ok (State.modSet_ok h1)

theorem execMmconvLeave_ok {o} (h : s.Ok) : Res.Ok (execMmconvLeave o s) := by
  unfold execMmconvLeave
  refine Res.ok_next (uniform_ok (fun _ h1 => ?_) h)
  split
  · exact advance_ok (setU_ok h1)
  exact advance_ok (setU_ok (leaveSet_ok h1))

theorem mxPost_ok {o n block scope op} (h : s.Ok) : (mxPost s o n block scope op).Ok := by
  unfold mxPost
  refine uQueue_ok (fun _ h1 => ?_) h
  dsimp only
  split
  · exact advance_ok (setU_ok h1)
  exact ok_ite (advance_ok (setU_ok h1)) (ok_ite (advance_ok (setU_ok h1)) (ok_ite (advance_ok (setU_ok h1)) (ok_ite h1 (uRelease_ok (fun _ h2 =>
      advance_ok (setU_ok (qcntAdd_ok (State.modSet_ok (State.modMx_ok h2))))) h1))))

theorem blockPost_ok {o kind} (h : s.Ok) : (blockPost s o kind).Ok := mxPost_ok h

theorem mxWait_ok {o test} (h : s.Ok) : (mxWait s o test).Ok := by
  unfold mxWait
  refine uniform_ok (fun _ h1 => ?_) h
  split
  · exact groupTrap_ok h1
  split
  · exact advance_ok (setU_ok h1)
  · exact advance_ok (setU_ok h1)
  · exact ok_ite (advance_ok (setU_ok h1)) (holdGroup_ok h1)
  dsimp only
  split
  · exact groupTrap_ok (ok_ite (State.modGroup_ok (uAcquire_ok (setU_ok h1))) (ok_ite (setU_ok h1) (uAcquire_ok (setU_ok h1))))
  exact advance_ok (ok_ite (State.modGroup_ok (uAcquire_ok (setU_ok h1))) (ok_ite (setU_ok h1) (uAcquire_ok (setU_ok h1))))

theorem execMchkloc_ok {o} (h : s.Ok) : Res.Ok (execMchkloc o s) := by
  unfold execMchkloc
  refine Res.ok_next (uniform_ok (fun _ h1 => ?_) h)
  split
  · exact groupTrap_ok h1
  exact ok_ite (advance_ok (setU_ok h1)) (ok_ite (holdGroup_ok (State.modGroup_ok h1)) (advance_ok (setU_ok (State.modGroup_ok h1))))

theorem feedRange_ok {g va n failed} (h : s.Ok) : (feedRange s g va n failed).1.Ok := by
  unfold feedRange
  refine ok_fst_ite h ?_
  split
  next e1 =>
    have h1 := ok_fst e1 (State.trans_ok h)
    dsimp only
    split
    · split
      · exact sendSnoop_ok (performStores_ok (flushOverlap_ok h1))
      · exact performStores_ok (flushOverlap_ok h1)
      exact performStores_ok (flushOverlap_ok h1)
    · exact ok_fst_ite (flushOverlap_ok h1) (drainWcb_ok (flushOverlap_ok h1))
    exact drainWcb_ok (flushOverlap_ok h1)
  exact State.trans_ok h

theorem execMmfeed_ok {o} (h : s.Ok) : Res.Ok (execMmfeed o s) := by
  unfold execMmfeed
  refine Res.ok_next (within64_ok (fun _ h1 => runLanesM_ok (fun _ _ _ _ h2 => ok_fst_ite h2 (gatedM_ok (fun _ => ?_) h2)) (State.tick_ok h1)) h)
  split
  · exact h2
  refine ok_fst_ite h2 ?_
  split
  · exact h2
  · exact h2
  refine ok_fst_ite h2 (ok_fst_ite h2 (ok_fst_ite h2 ?_))
  split
  next e3 => exact ok_fst e3 (feedRange_ok h2)
  next e3 => exact ok_fst e3 (feedRange_ok h2)
  next e3 => exact ok_fst e3 (feedRange_ok h2)
  next e3 =>
    have h3 := ok_fst e3 (feedRange_ok h2)
    split
    next e4 => exact ok_fst e4 (feedRange_ok h3)
    next e4 => exact ok_fst e4 (feedRange_ok h3)
    next e4 => exact ok_fst e4 (feedRange_ok h3)
    next e4 => exact State.modMx_ok (State.tick_ok (ok_fst e4 (feedRange_ok h3)))

theorem settleReads_ok {cl} (h : s.Ok) : (settleReads s cl).Ok := State.ok_with (State.modMx_ok h)

theorem execMmread_ok {o} (h : s.Ok) : Res.Ok (execMmread o s) := by
  unfold execMmread
  refine Res.ok_next (settleReads_ok (runLanesM_ok (fun _ _ _ _ h1 => ok_fst_ite h1 (gatedM_ok (fun _ => ?_) h1)) h))
  split
  · exact h1
  exact ok_fst_ite h1 (State.modMx_ok h1)

/-! ## Machine/EngineOps -/

theorem engPost_ok {o kind scopeBit idx} (h : s.Ok) : (engPost s o kind scopeBit idx).Ok :=
  uQueue_ok (fun _ h1 => ok_ite (advance_ok (setU_ok h1)) (ok_ite h1 (uRelease_ok (fun _ h2 => advance_ok (setU_ok (State.modGroup_ok (qcntAdd_ok
      (State.ok_with h2))))) h1))) h

theorem execQfence_ok {o} (h : s.Ok) : Res.Ok (execQfence o s) := by
  unfold execQfence
  refine Res.ok_next (uniform_ok (fun _ h1 => ?_) h)
  dsimp only
  split
  · exact groupTrap_ok h1
  exact advance_ok (State.modGroup_ok h1)

theorem engWait_ok {o test} (h : s.Ok) : (engWait s o test).Ok := by
  unfold engWait
  refine uniform_ok (fun _ h1 => ok_ite (groupTrap_ok h1) ?_) h
  split
  · exact advance_ok (setU_ok h1)
  · exact advance_ok (setU_ok h1)
  · exact ok_ite (advance_ok (setU_ok h1)) (holdGroup_ok h1)
  dsimp only
  split
  · exact groupTrap_ok (State.modGroup_ok (uAcquire_ok (setU_ok h1)))
  exact advance_ok (State.modGroup_ok (uAcquire_ok (setU_ok h1)))

/-! ## Machine/Issue -/

theorem fetchWord_ok {gid va failed} (h : s.Ok) : (fetchWord s gid va failed).1.Ok := by
  unfold fetchWord
  dsimp only
  split
  next e1 => exact ok_fst e1 (State.trans_ok h)
  next e1 => exact ok_fst e1 (State.trans_ok h)
  next e1 => exact ok_fst e1 (State.trans_ok h)
  next e1 =>
    have h1 := ok_fst e1 (State.trans_ok h)
    split
    · split
      next e2 => exact ok_fst e2 (dpaAccess_ok h1)
      next e2 => exact ok_fst e2 (dpaAccess_ok h1)
      next e2 => exact ok_fst e2 (dpaAccess_ok h1)
      next e5 => exact ok_fst e5 (dpaAccess_ok h1)
    · split
      · exact h1
      · exact dropAnswers_ok h1
      exact askHost_ok h1
    exact h1

theorem usedCode_ok {gid vas} (h : s.Ok) : (usedCode s gid vas).Ok := ok_ite h h

theorem wakeGroup_ok {gid} (h : s.Ok) : (wakeGroup s gid).Ok := ok_ite h h

theorem nextCycle_ok (h : s.Ok) : (nextCycle s).Ok :=
  foldl_ok (fun _ _ h1 => State.ok_with h1) _ (foldl_ok (fun _ _ h1 => wakeGroup_ok h1) _ (State.ok_with (pumpFab_ok h)))

theorem fetchFails_ok {i ext f} (h : s.Ok) : (fetchFails s i ext f).Ok := by
  unfold fetchFails
  dsimp only
  split
  · exact takeTrap_ok h
  · exact State.modGroup_ok h
  exact h

theorem reissueRun_ok {gid pc} (h : s.Ok) : (reissueRun s gid pc).Ok := ok_ite h (State.modGroup_ok h)

theorem issueOne_ok {i} (h : s.Ok) : (issueOne s i).1.Ok := by
  unfold issueOne
  dsimp only
  split
  next e1 =>
    have h1 := ok_fst e1 (fetchWord_ok h)
    refine ok_fst_ite (ok_fst_ite h1 ?_) ?_
    · split
      next e2 => split <;> exact reissueRun_ok (usedCode_ok (ok_fst e2 (fetchWord_ok h1)))
      next e3 => exact fetchFails_ok (ok_fst e3 (fetchWord_ok h1))
    split <;> exact reissueRun_ok (usedCode_ok h1)
  next e2 => exact fetchFails_ok (ok_fst e2 (fetchWord_ok h))

/-! ## Machine/EngineMem -/

theorem engTrans_ok {a va kind} (h : s.Ok) : (engTrans s a va kind).1.Ok := by
  unfold engTrans
  split
  next e1 => exact ok_fst e1 (translate_ok h)
  next e1 => exact ok_fst e1 (translate_ok h)
  next e1 => exact ok_fst e1 (translate_ok h)
  next e1 => exact ok_fst e1 (translate_ok h)

theorem engBad_ok {l a} (h : s.Ok) : (engBad s l a).Ok := ok_ite h h

theorem engFar_ok {a t n} (h : s.Ok) : (engFar s a t n).1.Ok := by
  unfold engFar
  dsimp only
  split
  · split <;> exact h
  exact foldl_ok (fun _ _ h1 => askFar_ok h1) _ h

theorem engReadAt_ok {a t n} (h : s.Ok) : (engReadAt s a t n).1.Ok := by
  unfold engReadAt
  split
  · split
    · exact sendSnoop_ok h
    dsimp only
    split
    · exact engBad_ok (foldl_ok (fun _ _ h1 => expose_ok h1) _ h)
    exact foldl_ok (fun _ _ h1 => expose_ok h1) _ h
  · exact engFar_ok h
  · exact ok_fst_ite (engFar_ok h) h
  exact h

theorem engRead_ok {n x3 k4 k5} (h : s.Ok) : (engRead n s x3 k4 k5).1.Ok := by
  induction n generalizing s x3 k4 k5 with
  | zero =>
    unfold engRead
    exact h
  | succ n ih =>
    unfold engRead
    refine ok_fst_ite h ?_
    split
    next e1 => exact ok_fst e1 (engTrans_ok h)
    next e1 =>
      have h1 := ok_fst e1 (engTrans_ok h)
      split
      next e2 =>
        have h2 := ok_fst e2 (engReadAt_ok h1)
        split
        next e3 => exact ok_fst e3 (ih h2)
        exact ih h2
      exact engReadAt_ok h1

theorem engPlace_ok {n x3 k4 x5} (h : s.Ok) : (engPlace n s x3 k4 x5).1.Ok := by
  induction n generalizing s x3 k4 x5 with
  | zero =>
    unfold engPlace
    exact h
  | succ n ih =>
    unfold engPlace
    refine ok_fst_ite h ?_
    split
    next e1 => exact ok_fst e1 (engTrans_ok h)
    next e1 =>
      have h1 := ok_fst e1 (engTrans_ok h)
      split
      · exact h1
      split
      next e3 => exact ok_fst e3 (ih h1)
      exact ih h1

theorem putLine_ok {a l} (h : s.Ok) : (putLine s a l).Ok := by
  unfold putLine
  split
  · exact dropWay_ok (homeLine_ok _ _ _ _ h)
  exact putCells_ok h

theorem putLines_ok {a l} (h : s.Ok) : (putLines s a l).1.Ok := by
  unfold putLines
  refine foldl_fst_ok (fun x a h1 => ?_) _ ?_
  · exact ok_fst_ite (sendSnoop_ok h1) (putLine_ok h1)
  exact h

theorem rdRange_ok {a va n} (h : s.Ok) : (rdRange s a va n).1.Ok := engRead_ok h

theorem placeRange_ok {a va bs} (h : s.Ok) : (placeRange s a va bs).1.Ok := engPlace_ok h

theorem wrRange_ok {a va bs} (h : s.Ok) : (wrRange s a va bs).1.Ok := by
  unfold wrRange
  split
  next e1 => exact ok_fst e1 (placeRange_ok h)
  next e1 =>
    have h1 := ok_fst e1 (placeRange_ok h)
    exact ok_fst_ite (foldl_ok (fun _ _ h2 => sendSnoop_ok h2) _ h1) (putLines_ok h1)

theorem engMayReach_ok {x1 x3} (h : s.Ok) : (engMayReach x1 s x3).1.Ok := by
  induction x1 generalizing s x3 with
  | nil =>
    unfold engMayReach
    exact h
  | cons x r ih =>
    unfold engMayReach
    split
    next e1 => exact ok_fst e1 (engTrans_ok h)
    · exact ok_fst_ite (ih h) h
    exact ih h

/-! ## Machine/TransferEngine -/

theorem State.modEng_ok {id f} (h : s.Ok) : (s.modEng id f).Ok := h

theorem engUsed_ok {o} (h : s.Ok) : (engUsed s o).Ok := dropAnswers_ok (dropAnswers_ok h)

theorem engWaits_ok {id vpn} (h : s.Ok) : (engWaits s id vpn).Ok := State.modEng_ok h

theorem drainStream_ok {n x3} (h : s.Ok) : (drainStream n s x3).1.Ok := by
  induction n generalizing s x3 with
  | zero =>
    unfold drainStream
    exact h
  | succ n ih =>
    unfold drainStream
    exact ok_fst_ite h (ih (State.modEng_ok (fifoPut_ok h)))

theorem engFinish_ok {o status} (h : s.Ok) : (engFinish s o status).Ok := qcntAdd_ok (State.ok_with (engUsed_ok h))

theorem engPut_ok {o va bs} (h : s.Ok) : (engPut s o va bs).1.Ok := by
  unfold engPut
  split
  next e1 => exact engWaits_ok (ok_fst e1 (wrRange_ok h))
  next e1 => exact ok_fst e1 (wrRange_ok h)
  next e3 => exact State.modEng_ok (ok_fst e3 (wrRange_ok h))

theorem engEnd_ok {id status} (h : s.Ok) : (engEnd s id status).Ok := State.modEng_ok h

theorem engEndStep_ok {o} (h : s.Ok) : (engEndStep s o).1.Ok := by
  unfold engEndStep
  dsimp only
  split
  · exact h
  · exact ok_fst_ite (State.modEng_ok (putLines_ok (drainStream_ok h))) (ok_fst_ite (State.modEng_ok (putLines_ok (drainStream_ok h)))
      (State.modEng_ok (State.modEng_ok (putLines_ok (drainStream_ok h)))))
  · split
    next e2 => exact State.modEng_ok (ok_fst e2 (engPut_ok (State.modEng_ok h)))
    exact engPut_ok (State.modEng_ok h)
  · exact ok_fst_ite h (State.modEng_ok h)
  · refine ok_fst_ite (State.modEng_ok h) ?_
    split
    next e2 => exact State.modEng_ok (ok_fst e2 (engPut_ok h))
    exact engPut_ok h
  exact ok_fst_ite h (engFinish_ok h)

theorem engEndRun_ok {n k3} (h : s.Ok) : (engEndRun n s k3).Ok := by
  induction n generalizing s k3 with
  | zero =>
    unfold engEndRun
    exact h
  | succ n ih =>
    unfold engEndRun
    split
    · exact h
    split
    next e2 => exact ih (ok_fst e2 (engEndStep_ok h))
    next e2 => exact ok_fst e2 (engEndStep_ok h)

theorem engWinRead_ok {o a n} (h : s.Ok) : (engWinRead s o a n).1.Ok := by
  unfold engWinRead
  split
  · exact h
  dsimp only
  split
  · split <;> exact h
  exact foldl_ok (fun _ _ h1 => askPeer_ok h1) _ h

theorem engWinWrite_ok {o a bs ps} (h : s.Ok) : (engWinWrite s o a bs ps).Ok := by
  unfold engWinWrite
  refine foldl_ok (fun _ _ h1 => ?_) _ h
  dsimp only
  split
  · exact State.modTeam_ok h1
  · exact foldl_ok (fun _ _ h2 => sendFab_ok h2) _ h1
  exact h1

theorem sideRead_ok {o space at_ n} (h : s.Ok) : (sideRead s o space at_ n).1.Ok := by
  unfold sideRead
  split
  · exact h
  · exact engWinRead_ok h
  exact rdRange_ok h

theorem sidePlace_ok {o space at_ bs} (h : s.Ok) : (sidePlace s o space at_ bs).1.Ok := by
  unfold sidePlace
  split
  · exact h
  · exact h
  · split <;> exact h
  split
  next e4 => exact ok_fst e4 (placeRange_ok h)
  next e4 => exact ok_fst e4 (placeRange_ok h)

theorem sidePut_ok {o w} (h : s.Ok) : (sidePut s o w).Ok := by
  unfold sidePut
  split
  · exact State.modTeam_ok h
  · exact engWinWrite_ok h
  · exact State.modEng_ok h
  exact State.modEng_ok h

theorem fillStream_ok {n x3 k4} (h : s.Ok) : (fillStream n s x3 k4).1.Ok := by
  induction n generalizing s x3 k4 with
  | zero =>
    unfold fillStream
    exact h
  | succ n ih =>
    unfold fillStream
    exact ok_fst_ite h (ih (State.modEng_ok (fifoRelease_ok (fifoTake_ok h))))

theorem sourceRow_ok {o i} (h : s.Ok) : (sourceRow s o i).1.Ok := by
  unfold sourceRow
  dsimp only
  split
  · split
    next e2 => exact ok_fst e2 (ok_fst_ite (ok_fst_ite h (sideRead_ok h)) (sideRead_ok (ok_fst_ite h (sideRead_ok h))))
    next e3 => exact ok_fst e3 (ok_fst_ite (ok_fst_ite h (sideRead_ok h)) (sideRead_ok (ok_fst_ite h (sideRead_ok h))))
  exact ok_fst_ite h (sideRead_ok h)

theorem sourceRows_ok {x1 x3} (h : s.Ok) : (sourceRows x1 s x3).1.Ok := by
  induction x1 generalizing s x3 with
  | nil =>
    unfold sourceRows
    exact h
  | cons x r ih =>
    unfold sourceRows
    split
    next e1 => exact ok_fst e1 (sourceRow_ok h)
    next e1 =>
      have h1 := ok_fst e1 (sourceRow_ok h)
      split
      next e2 => exact ok_fst e2 (ih h1)
      exact ih h1

theorem transferUnit_ok {o} (h : s.Ok) : (transferUnit s o).1.Ok := by
  unfold transferUnit
  dsimp only
  split
  · refine ok_fst_ite (ok_fst_ite (fillStream_ok (drainStream_ok h)) (drainStream_ok h)) ?_
    split
    next e2 =>
      have h1 := ok_fst e2 (sourceRows_ok (ok_fst_ite (fillStream_ok (drainStream_ok h)) (drainStream_ok h)))
      split
      · exact engWaits_ok h1
      · exact engUsed_ok h1
      exact h1
    next e2 =>
      have h1 := ok_fst e2 (sourceRows_ok (ok_fst_ite (fillStream_ok (drainStream_ok h)) (drainStream_ok h)))
      split
      · exact engUsed_ok h1
      split
      next e4 =>
        have h2 := ok_fst e4 (sidePlace_ok h1)
        split
        · exact engWaits_ok h2
        · exact engUsed_ok h2
        exact h2
      next e4 =>
        have h2 := ok_fst e4 (sidePlace_ok h1)
        split
        next e5 =>
          have h3 := ok_fst e5 (sidePlace_ok h2)
          split
          · exact engWaits_ok h3
          · exact engUsed_ok h3
          exact h3
        next e5 =>
          have h3 := ok_fst e5 (sidePlace_ok h2)
          exact State.modEng_ok (engUsed_ok (ok_ite (State.modCluster_ok (sidePut_ok (sidePut_ok h3))) (sidePut_ok (sidePut_ok h3))))
  refine ok_fst_ite (ok_fst_ite (fillStream_ok h) h) ?_
  split
  next e2 =>
    have h1 := ok_fst e2 (sourceRows_ok (ok_fst_ite (fillStream_ok h) h))
    split
    · exact engWaits_ok h1
    · exact engUsed_ok h1
    exact h1
  next e2 =>
    have h1 := ok_fst e2 (sourceRows_ok (ok_fst_ite (fillStream_ok h) h))
    split
    · exact engUsed_ok h1
    split
    next e4 =>
      have h2 := ok_fst e4 (sidePlace_ok h1)
      split
      · exact engWaits_ok h2
      · exact engUsed_ok h2
      exact h2
    next e4 =>
      have h2 := ok_fst e4 (sidePlace_ok h1)
      split
      next e5 =>
        have h3 := ok_fst e5 (sidePlace_ok h2)
        split
        · exact engWaits_ok h3
        · exact engUsed_ok h3
        exact h3
      next e5 =>
        have h3 := ok_fst e5 (sidePlace_ok h2)
        exact State.modEng_ok (engUsed_ok (ok_ite (State.modCluster_ok (sidePut_ok (sidePut_ok h3))) (sidePut_ok (sidePut_ok h3))))

theorem transferUnits_ok {n k3} (h : s.Ok) : (transferUnits n s k3).1.Ok := by
  induction n generalizing s k3 with
  | zero =>
    unfold transferUnits
    exact h
  | succ n ih =>
    unfold transferUnits
    split
    · exact h
    refine ok_fst_ite h ?_
    split
    next e2 => exact ih (ok_fst e2 (transferUnit_ok h))
    exact transferUnit_ok h

theorem transferBegin_ok {o} (h : s.Ok) : (transferBegin s o).1.Ok := by
  unfold transferBegin
  refine ok_fst_ite ?_ (ok_fst_ite (engUsed_ok h) ?_)
  · split
    next e1 =>
      have h1 := ok_fst e1 (rdRange_ok h)
      refine ok_fst_ite (engUsed_ok h1) ?_
      split
      · exact engUsed_ok h1
      · exact h1
      split
      next e3 => exact engUsed_ok (ok_fst e3 (engMayReach_ok h1))
      next e3 => exact State.modEng_ok (engUsed_ok (ok_fst e3 (engMayReach_ok h1)))
      next e5 => exact ok_fst e5 (engMayReach_ok h1)
    next e1 => exact engWaits_ok (ok_fst e1 (rdRange_ok h))
    next e1 => exact ok_fst e1 (rdRange_ok h)
    next e1 => exact engUsed_ok (ok_fst e1 (rdRange_ok h))
  split
  · exact engUsed_ok h
  · exact h
  split
  next e2 => exact engUsed_ok (ok_fst e2 (engMayReach_ok h))
  next e2 => exact State.modEng_ok (engUsed_ok (ok_fst e2 (engMayReach_ok h)))
  next e4 => exact ok_fst e4 (engMayReach_ok h)

theorem transferRun_ok {o} (h : s.Ok) : (transferRun s o).Ok := by
  unfold transferRun
  refine ok_ite (engEnd_ok h) (ok_ite (engEnd_ok h) ?_)
  split
  next e1 => exact engEnd_ok (ok_fst e1 (ok_fst_ite h (transferBegin_ok h)))
  next e1 => exact ok_fst e1 (ok_fst_ite h (transferBegin_ok h))
  next e1 =>
    have h1 := ok_fst e1 (ok_fst_ite h (transferBegin_ok h))
    split
    next e2 => exact engEnd_ok (ok_fst e2 (transferUnits_ok h1))
    next e2 => exact ok_fst e2 (transferUnits_ok h1)
    next e2 => exact engEnd_ok (ok_fst e2 (transferUnits_ok h1))

theorem execTransferComplete_ok {k} (h : s.Ok) : Res.Ok (execTransferComplete k s) := by
  unfold execTransferComplete
  refine Res.ok_next ?_
  split
  · exact h
  exact ok_ite h (engEndRun_ok (ok_ite (transferRun_ok h) h))

/-! ## Machine/Collective -/

theorem sendColl_ok {o rank dir blk data hdr} (h : s.Ok) : (sendColl s o rank dir blk data hdr).Ok := sendFab_ok h

theorem collTake_ok {o m} (h : s.Ok) : (collTake s o m).Ok :=
  ok_ite (ok_ite (State.modEng_ok h) h) (ok_ite (State.modEng_ok h) (ok_ite (ok_ite (ok_ite (sendColl_ok (State.modEng_ok h)) (State.modEng_ok h))
      (ok_ite (ok_ite h (foldl_ok (fun _ _ h1 => sendColl_ok h1) _ (State.modEng_ok h))) (State.modEng_ok h))) (ok_ite (State.modEng_ok h) (ok_ite
      (ok_ite (sendColl_ok (State.modEng_ok h)) (State.modEng_ok h)) (ok_ite (State.modEng_ok h) (State.modEng_ok h))))))

theorem collStray_ok {die} (h : s.Ok) : (collStray s die).Ok := by
  unfold collStray
  refine ok_ite h (foldl_ok (fun _ _ h1 => ok_ite h1 ?_) _ h)
  split
  · exact h1
  exact State.modEng_ok (State.ok_with h1)

theorem collDeliver_ok {m} (h : s.Ok) : (collDeliver s m).Ok := by
  unfold collDeliver
  split
  · exact collTake_ok h
  split
  · exact State.modEng_ok h
  exact collStray_ok h

theorem execCollectivePacketArrival_ok {msg die cid leg blk data hdr} (h : s.Ok) : Res.Ok
    (execCollectivePacketArrival msg die cid leg blk data hdr s) :=
  Res.ok_next (ok_ite (ok_ite h (raiseFloor_ok h)) (ok_ite (sendAnswer_ok (ok_ite h (raiseFloor_ok h))) (collDeliver_ok (sendAnswer_ok
      (noteSeen_ok (ok_ite h (raiseFloor_ok h)))))))

theorem collTell_ok {o hdr} (h : s.Ok) : (collTell s o hdr).Ok :=
  ok_ite (ok_ite h (sendColl_ok h)) (foldl_ok (fun _ _ h1 => sendColl_ok h1) _ (ok_ite h (sendColl_ok h)))

theorem execEngineAccept_ok {k} (h : s.Ok) : Res.Ok (execEngineAccept k s) := by
  unfold execEngineAccept
  refine Res.ok_next ?_
  split
  · exact h
  refine ok_ite h ?_
  split
  next e2 => exact engWaits_ok (ok_fst e2 (rdRange_ok h))
  next e2 => exact ok_fst e2 (rdRange_ok h)
  next e2 => exact engFinish_ok (ok_fst e2 (rdRange_ok h))
  next e2 =>
    have h1 := ok_fst e2 (rdRange_ok h)
    refine ok_ite (engEndRun_ok (engEnd_ok (ok_ite (collTell_ok (State.modEng_ok (engUsed_ok h1))) (State.modEng_ok (engUsed_ok h1))))) (ok_ite
        (engEndRun_ok (engEnd_ok (State.modEng_ok (engUsed_ok h1)))) (ok_ite (ok_ite (State.modCluster_ok (State.modEng_ok (engUsed_ok h1)))
        (State.modEng_ok (engUsed_ok h1))) (collStray_ok (foldl_ok (fun _ _ h2 => ?_) _ (State.ok_with (State.modEng_ok (ok_ite (State.modDie_ok
        (State.modEng_ok (engUsed_ok h1))) (State.modEng_ok (engUsed_ok h1)))))))))
    split
    · exact collTake_ok h2
    exact h2

theorem collMeet_ok {o} (h : s.Ok) : (collMeet s o).Ok :=
  ok_ite h (ok_ite (foldl_ok (fun _ _ h1 => sendColl_ok h1) _ (State.modEng_ok h)) (ok_ite h (sendColl_ok (State.modEng_ok h))))

theorem collBegin_ok {o} (h : s.Ok) : (collBegin s o).1.Ok := by
  unfold collBegin
  dsimp only
  split
  next e1 => exact engUsed_ok (ok_fst e1 (engMayReach_ok h))
  next e1 =>
    have h1 := ok_fst e1 (engMayReach_ok h)
    refine ok_fst_ite (State.modEng_ok (engUsed_ok h1)) ?_
    split
    next e2 => exact engWaits_ok (ok_fst e2 (rdRange_ok h1))
    next e2 => exact engUsed_ok (ok_fst e2 (rdRange_ok h1))
    next e2 => exact State.modEng_ok (engUsed_ok (ok_fst e2 (rdRange_ok h1)))
    next e5 => exact ok_fst e5 (rdRange_ok h1)
  next e3 => exact ok_fst e3 (engMayReach_ok h)

theorem sendDown_ok {o res} (h : s.Ok) : (sendDown s o res).Ok := foldl_ok (fun _ _ h1 => foldl_ok (fun _ _ h2 => sendColl_ok h2) _ h1) _ h

theorem collUp_ok {o} (h : s.Ok) : (collUp s o).Ok := by
  unfold collUp
  refine ok_ite h (ok_ite (sendDown_ok (State.modEng_ok (ok_ite (State.modDie_ok h) h))) (ok_ite (State.modEng_ok h) (State.modEng_ok (foldl_fst_ok
      (fun x a h1 => ?_) _ ?_))))
  · exact sendColl_ok h1
  exact h

theorem collDown_ok {o} (h : s.Ok) : (collDown s o).Ok := ok_ite h (sendDown_ok (State.modEng_ok h))

theorem collUnits_ok {n k3} (h : s.Ok) : (collUnits n s k3).1.Ok := by
  induction n generalizing s k3 with
  | zero =>
    unfold collUnits
    exact h
  | succ n ih =>
    unfold collUnits
    split
    · exact h
    split
    · exact h
    refine ok_fst_ite h ?_
    dsimp only
    split
    next e3 => exact engWaits_ok (ok_fst e3 (placeRange_ok h))
    next e3 => exact ok_fst e3 (placeRange_ok h)
    next e5 => exact ok_fst e5 (placeRange_ok h)
    next e3 => exact ih (State.modEng_ok (ok_fst e3 (placeRange_ok h)))

theorem collRun_ok {o} (h : s.Ok) : (collRun s o).Ok := by
  unfold collRun
  refine ok_ite (engEnd_ok (collTell_ok h)) (ok_ite (engEnd_ok (collTell_ok h)) (ok_ite (engEnd_ok (collTell_ok h)) (ok_ite (engEnd_ok h) (ok_ite
      (collMeet_ok h) ?_))))
  split
  next e1 => exact engEnd_ok (ok_fst e1 (ok_fst_ite (collMeet_ok h) (collBegin_ok (collMeet_ok h))))
  next e1 => exact ok_fst e1 (ok_fst_ite (collMeet_ok h) (collBegin_ok (collMeet_ok h)))
  next e1 =>
    have h1 := ok_fst e1 (ok_fst_ite (collMeet_ok h) (collBegin_ok (collMeet_ok h)))
    dsimp only
    split
    next e2 => exact engEnd_ok (ok_fst e2 (collUnits_ok (collDown_ok (collUp_ok h1))))
    next e2 => exact ok_fst e2 (collUnits_ok (collDown_ok (collUp_ok h1)))
    next e2 => exact engEnd_ok (ok_fst e2 (collUnits_ok (collDown_ok (collUp_ok h1))))

theorem execCollectiveComplete_ok {k} (h : s.Ok) : Res.Ok (execCollectiveComplete k s) := by
  unfold execCollectiveComplete
  refine Res.ok_next ?_
  split
  · exact h
  exact ok_ite h (engEndRun_ok (ok_ite (collRun_ok h) h))

/-! ## Machine/MatrixEngine -/

theorem finishOp_ok {cl o status flags} (h : s.Ok) : (finishOp s cl o status flags).Ok :=
  sweepSet_ok (settleReads_ok (State.modMx_ok (qcntAdd_ok (ok_ite (State.modMx_ok (State.modSet_ok (State.modMx_ok h))) (State.modSet_ok
      (State.modMx_ok h))))))

theorem State.modOp_ok {cl id f} (h : s.Ok) : (s.modOp cl id f).Ok := State.modMx_ok h

theorem mxUsed_ok {cl id} (h : s.Ok) : (mxUsed s cl id).Ok := dropAnswers_ok h

theorem closeOp_ok {cl o status flags} (h : s.Ok) : (closeOp s cl o status flags).Ok :=
  ok_ite (State.modOp_ok (mxUsed_ok h)) (finishOp_ok (State.modOp_ok (mxUsed_ok h)))

theorem closeOps_ok {cl} (h : s.Ok) : (closeOps s cl).Ok := by
  unfold closeOps
  refine foldl_ok (fun _ _ h1 => ?_) _ h
  split
  · exact ok_ite h1 (finishOp_ok h1)
  exact h1

theorem opWaits_ok {cl id vpn} (h : s.Ok) : (opWaits s cl id vpn).Ok := State.modOp_ok h

theorem blkPut_ok {cl : Nat} {o : MxOp} {ctx va : Nat} {bs : List Byte} {k : State → Bool → State} (hk : ∀ s x2, s.Ok → (k s x2).Ok) (h : s.Ok) :
    (blkPut s cl o ctx va bs k).Ok := by
  unfold blkPut
  split
  next e1 => exact hk _ _ (ok_fst e1 (wrRange_ok h))
  next e1 => exact opWaits_ok (ok_fst e1 (wrRange_ok h))
  next e1 => exact ok_fst e1 (wrRange_ok h)
  next e1 => exact hk _ _ (ok_fst e1 (wrRange_ok h))

theorem endWith_ok {cl : Nat} {o : MxOp} {status : Nat} {f : State → State} (hf : ∀ s, s.Ok → (f s).Ok) (h : s.Ok) : (endWith s cl o status f).Ok :=
  blkPut_ok (fun _ _ h1 => closeOp_ok (hf _ h1)) h

theorem endOp_ok {cl o status} (h : s.Ok) : (endOp s cl o status).Ok := endWith_ok (fun _ h1 => h1) h

theorem beginsEnd_ok {cl o status} (h : s.Ok) : (beginsEnd s cl o status).1.Ok := State.modOp_ok h

theorem stopOp_ok {cl o status} (h : s.Ok) : (stopOp s cl o status).Ok := endOp_ok (beginsEnd_ok h)

theorem execMatrixAccept_ok {cl k} (h : s.Ok) : Res.Ok (execMatrixAccept cl k s) := by
  unfold execMatrixAccept
  refine Res.ok_next ?_
  split
  · exact h
  refine ok_ite h (ok_ite (endOp_ok h) (ok_ite (State.tick_ok (settleReads_ok (State.modMx_ok (State.modOp_ok (mxUsed_ok (ok_ite
      (State.modTile_ok h)
      h)))))) ?_))
  split
  next e2 =>
    have h1 := ok_fst e2 (rdRange_ok h)
    exact State.tick_ok (settleReads_ok (State.modMx_ok (State.modOp_ok (mxUsed_ok (ok_ite (State.modTile_ok h1) h1)))))
  next e2 => exact opWaits_ok (ok_fst e2 (rdRange_ok h))
  next e2 => exact ok_fst e2 (rdRange_ok h)
  next e2 => exact finishOp_ok (mxUsed_ok (ok_fst e2 (rdRange_ok h)))

theorem execReservationAging_ok {cl k} (h : s.Ok) : Res.Ok (execReservationAging cl k s) := by
  unfold execReservationAging
  refine Res.ok_next ?_
  split
  · exact h
  exact ok_ite h (State.modOp_ok h)

theorem mxMayReach_ok {cl o} (h : s.Ok) : (mxMayReach s cl o).1.Ok := engMayReach_ok h

theorem execReservationGrant_ok {cl unit} (h : s.Ok) : Res.Ok (execReservationGrant cl unit s) := by
  unfold execReservationGrant
  refine Res.ok_next ?_
  split
  · exact h
  refine ok_ite (endOp_ok h) (ok_ite h ?_)
  split
  next e => exact endOp_ok (ok_fst e (mxMayReach_ok h))
  next e => exact ok_fst e (mxMayReach_ok h)
  next e => exact ok_fst e (mxMayReach_ok h)
  next e =>
    have granted := ok_fst e (mxMayReach_ok h)
    split
    · refine ok_ite ?_ (State.modOp_ok granted)
      split
      next e => exact State.modOp_ok (ok_fst e (wrRange_ok granted))
      next e => exact opWaits_ok (ok_fst e (wrRange_ok granted))
      next e => exact ok_fst e (wrRange_ok granted)
      next e => exact stopOp_ok (ok_fst e (wrRange_ok granted))
    · exact State.modTile_ok (State.modOp_ok granted)
    · exact State.modOp_ok granted

theorem execFeedFetchLands_ok {cl k} (h : s.Ok) : Res.Ok (execFeedFetchLands cl k s) := by
  unfold execFeedFetchLands
  refine Res.ok_next ?_
  split
  · exact h
  dsimp only
  split
  next e2 => exact ok_fst e2 (engReadAt_ok h)
  next e2 => exact dropAnswers_ok (State.modMx_ok (ok_fst e2 (engReadAt_ok h)))
  next e4 =>
    have h1 := ok_fst e4 (engReadAt_ok h)
    split
    next e5 => exact ok_fst e5 (ok_fst_ite h1 (engReadAt_ok h1))
    next e5 => exact dropAnswers_ok (State.modMx_ok (ok_fst e5 (ok_fst_ite h1 (engReadAt_ok h1))))
    next e7 =>
      have h2 := ok_fst e7 (ok_fst_ite h1 (engReadAt_ok h1))
      split
      · exact dropAnswers_ok (State.modMx_ok h2)
      exact ok_ite (State.modOp_ok (dropAnswers_ok (State.modMx_ok h2))) (State.modMx_ok (State.modOp_ok (dropAnswers_ok (State.modMx_ok h2))))

theorem execRowGroupStream_ok {cl} (h : s.Ok) : Res.Ok (execRowGroupStream cl s) := by
  unfold execRowGroupStream
  refine Res.ok_next ?_
  split
  · exact h
  exact ok_ite h (State.modMx_ok (State.modOp_ok h))

theorem execPassComplete_ok {cl} (h : s.Ok) : Res.Ok (execPassComplete cl s) := by
  unfold execPassComplete
  refine Res.ok_next ?_
  split
  · exact h
  refine ok_ite (endOp_ok h) (ok_ite (endOp_ok h) (ok_ite (endOp_ok h) ?_))
  split
  · exact endOp_ok h
  exact endWith_ok (fun _ h1 => State.modTile_ok h1) h

theorem execBLoadComplete_ok {cl} (h : s.Ok) : Res.Ok (execBLoadComplete cl s) := by
  unfold execBLoadComplete
  refine Res.ok_next ?_
  split
  · exact h
  split
  · exact endOp_ok h
  dsimp only
  split
  next e3 => exact endWith_ok (fun _ h2 => State.modMx_ok h2) (ok_fst e3 (rdRange_ok h))
  next e3 => exact opWaits_ok (ok_fst e3 (rdRange_ok h))
  next e3 => exact ok_fst e3 (rdRange_ok h)
  next e3 => exact stopOp_ok (ok_fst e3 (rdRange_ok h))

theorem execTileZeroComplete_ok {cl} (h : s.Ok) : Res.Ok (execTileZeroComplete cl s) := by
  unfold execTileZeroComplete
  refine Res.ok_next ?_
  split
  · exact h
  exact endWith_ok (fun _ h1 => State.modTile_ok h1) h

theorem execRetryRestoreComplete_ok {cl} (h : s.Ok) : Res.Ok (execRetryRestoreComplete cl s) := by
  unfold execRetryRestoreComplete
  refine Res.ok_next ?_
  split
  · exact h
  split
  · exact endOp_ok h
  dsimp only
  split
  next e3 => exact opWaits_ok (ok_fst e3 (rdRange_ok h))
  next e3 => exact ok_fst e3 (rdRange_ok h)
  next e3 => exact stopOp_ok (ok_fst e3 (rdRange_ok h))
  next e3 =>
    have h1 := ok_fst e3 (rdRange_ok h)
    refine ok_ite (endOp_ok h1) ?_
    split
    next e4 => exact opWaits_ok (ok_fst e4 (ok_fst_ite h1 (rdRange_ok h1)))
    next e4 => exact ok_fst e4 (ok_fst_ite h1 (rdRange_ok h1))
    next e4 => exact stopOp_ok (ok_fst e4 (ok_fst_ite h1 (rdRange_ok h1)))
    next e4 => exact blkPut_ok (fun _ _ h3 => ok_ite (endWith_ok (fun _ h4 => State.modTile_ok h4) h3) (stopOp_ok h3)) (ok_fst e4 (ok_fst_ite h1
        (rdRange_ok h1)))

theorem execElementFixComplete_ok {cl} (h : s.Ok) : Res.Ok (execElementFixComplete cl s) := by
  unfold execElementFixComplete
  refine Res.ok_next ?_
  split
  · exact h
  split
  · exact endOp_ok h
  exact endWith_ok (fun _ h1 => State.modTile_ok h1) h

/-! ## Machine/MemEvents -/

theorem execResultLands_ok {k} (h : s.Ok) : Res.Ok (execResultLands k s) := by
  unfold execResultLands
  refine Res.ok_next ?_
  split
  · exact h
  split
  next e2 => exact ok_fst e2 (prvRoom_ok h)
  next e2 => exact land_ok (State.ok_with (ok_fst e2 (prvRoom_ok h)))

theorem execReductionFlush_ok {core k} (h : s.Ok) : Res.Ok (execReductionFlush core k s) := by
  unfold execReductionFlush
  refine Res.ok_next ?_
  split
  · exact h
  exact flushRed_ok h

theorem execReductionEntryAgeExpiry_ok {core k} (h : s.Ok) : Res.Ok (execReductionEntryAgeExpiry core k s) := by
  unfold execReductionEntryAgeExpiry
  refine Res.ok_next ?_
  split
  · exact h
  exact ok_ite (flushRed_ok h) h

theorem execWcbDrain_ok {core k} (h : s.Ok) : Res.Ok (execWcbDrain core k s) := by
  unfold execWcbDrain
  refine Res.ok_next ?_
  split
  · exact h
  exact drainWc_ok h

theorem execWcbEntryAgeExpiry_ok {core k} (h : s.Ok) : Res.Ok (execWcbEntryAgeExpiry core k s) := by
  unfold execWcbEntryAgeExpiry
  refine Res.ok_next ?_
  split
  · exact h
  exact ok_ite (drainWc_ok h) h

theorem execYieldExpiry_ok {g} (h : s.Ok) : Res.Ok (execYieldExpiry g s) := by
  unfold execYieldExpiry
  refine Res.ok_next ?_
  split
  · exact ok_ite (State.modGroup_ok h) h
  exact h

theorem failPage_ok {ctx vpn} (h : s.Ok) : (failPage s ctx vpn).Ok := h

theorem endPage_ok {ctx vpn} (h : s.Ok) : (endPage s ctx vpn).Ok := h

theorem execPageRequestResponse_ok {ctx va code} (h : s.Ok) : Res.Ok (execPageRequestResponse ctx va code s) := by
  unfold execPageRequestResponse
  refine Res.ok_next (ok_ite h ?_)
  split
  · exact endPage_ok h
  · exact failPage_ok (endPage_ok h)
  exact foldl_ok (fun _ _ h1 => failPage_ok (endPage_ok h1)) _ (logged_ok h)

theorem pushOut_ok {ctx} (h : s.Ok) : (pushOut s ctx).Ok :=
  foldl_ok (fun _ _ h1 => drainWcb_ok (foldl_ok (fun _ _ h2 => flushRed_ok h2) _ h1)) _ (performStores_ok h)

theorem settleInvals_ok (h : s.Ok) : (settleInvals s).Ok := h

theorem invalidate_ok {ctx va size ats} (h : s.Ok) : (invalidate s ctx va size ats).Ok := settleInvals_ok (State.ok_with (pushOut_ok
    (dropTlb_ok h)))

/-! ## Machine/Sequencer -/

theorem makeNext_ok {l} (h : s.Ok) : (makeNext s l).Ok := ok_ite h (State.ok_with (State.modLaunch_ok h))

theorem advanceQueue_ok {k} (h : s.Ok) : (advanceQueue s k).Ok := State.modQueue_ok (State.ok_with (dropAnswers_ok h))

theorem forgetEarly_ok {e} (h : s.Ok) : (forgetEarly s e).Ok := ok_ite h h

theorem tellAccepted_ok {l} (h : s.Ok) : (tellAccepted s l).Ok := ok_ite h (foldl_ok (fun _ _ h1 => sendFab_ok h1) _ (State.modLaunch_ok h))

theorem startLaunch_ok {k e caps} (h : s.Ok) : (startLaunch s k e caps).Ok :=
  makeNext_ok (forgetEarly_ok (ok_ite (State.modCounter_ok (advanceQueue_ok h)) (ok_ite (sendMsgs_ok (ok_ite (tellAccepted_ok (State.ok_with
      (State.modCounter_ok (advanceQueue_ok h)))) (sendMsg_ok (State.modCounter_ok (advanceQueue_ok h))))) (ok_ite (cancelTree_ok (ok_ite
      (tellAccepted_ok (State.ok_with (State.modCounter_ok (advanceQueue_ok h)))) (sendMsg_ok (State.modCounter_ok (advanceQueue_ok h))))) (ok_ite
      (tellAccepted_ok (State.ok_with (State.modCounter_ok (advanceQueue_ok h)))) (sendMsg_ok (State.modCounter_ok (advanceQueue_ok h))))))))

theorem tellMismatch_ok {e} (h : s.Ok) : (tellMismatch s e).Ok := foldl_ok (fun _ _ h1 => sendMsgs_ok h1) _ h

theorem rejectLaunch_ok {k e code} (h : s.Ok) : (rejectLaunch s k e code).Ok :=
  State.modCounter_ok (advanceQueue_ok (State.ok_with (forgetEarly_ok (ok_ite (tellMismatch_ok h) h))))

theorem haltQueue_ok {k code} (h : s.Ok) : (haltQueue s k code).Ok := State.modQueue_ok (State.ok_with (dropAnswers_ok h))

theorem queueWaits_ok {k vpn} (h : s.Ok) : (queueWaits s k vpn).Ok := State.modQueue_ok h

theorem execLaunchEntryAccept_ok {ctx q} (h : s.Ok) : Res.Ok (execLaunchEntryAccept ctx q s) := by
  unfold execLaunchEntryAccept
  refine Res.ok_next (ok_ite h (ok_ite (State.modQueue_ok h) ?_))
  split
  next e1 => exact queueWaits_ok (ok_fst e1 (rdRange_ok h))
  next e1 => exact ok_fst e1 (rdRange_ok h)
  next e1 => exact haltQueue_ok (ok_fst e1 (rdRange_ok h))
  next e1 =>
    have h1 := ok_fst e1 (rdRange_ok h)
    refine ok_ite (ok_ite (State.modQueue_ok (advanceQueue_ok h1)) (haltQueue_ok h1)) (ok_ite (haltQueue_ok h1) (ok_ite (rejectLaunch_ok h1) ?_))
    split
    next e2 => exact queueWaits_ok (ok_fst e2 (ok_fst_ite h1 (rdRange_ok h1)))
    next e2 => exact ok_fst e2 (ok_fst_ite h1 (rdRange_ok h1))
    next e2 => exact rejectLaunch_ok (ok_fst e2 (ok_fst_ite h1 (rdRange_ok h1)))
    next e2 =>
      have h2 := ok_fst e2 (ok_fst_ite h1 (rdRange_ok h1))
      exact ok_ite (rejectLaunch_ok h2) (startLaunch_ok h2)

theorem pushLaunch_ok {l} (h : s.Ok) : (pushLaunch s l).Ok :=
  foldl_ok (fun _ _ h1 => drainWcb_ok (foldl_ok (fun _ _ h2 => flushRed_ok h2) _ h1)) _ (performStores_ok h)

theorem freeBank_ok {cl b} (h : s.Ok) : (freeBank s cl b).Ok := State.modFifo_ok h

theorem endClaims_ok {ctx all} (h : s.Ok) : (endClaims s ctx all).Ok :=
  foldl_ok (fun _ _ h1 => foldl_ok (fun _ _ h2 => ok_ite (freeBank_ok h2) h2) _ h1) _ h

theorem freeFrames_ok {l} (h : s.Ok) : (freeFrames s l).Ok := State.ok_with (State.modLaunch_ok h)

theorem counterState_ok {c l} (h : s.Ok) : (counterState s c l).Ok := State.modCounter_ok h

theorem counterWord_ok {c l} (h : s.Ok) : (counterWord s c l).Ok := by
  unfold counterWord
  refine ok_ite (State.modCounter_ok (dropAnswers_ok h)) ?_
  dsimp only
  split
  next e1 => exact State.modCounter_ok (ok_fst e1 (wrRange_ok h))
  next e1 => exact ok_fst e1 (wrRange_ok h)
  next e1 => exact State.modCounter_ok (dropAnswers_ok (logged_ok (ok_fst e1 (wrRange_ok h))))
  next e1 =>
    have h1 := ok_fst e1 (wrRange_ok h)
    refine State.modCounter_ok (dropAnswers_ok ?_)
    split
    · exact State.modLaunch_ok h1
    exact h1

theorem forgetDomain_ok {e} (h : s.Ok) : (forgetDomain s e).Ok := ok_ite h h

theorem counterParent_ok {c l} (h : s.Ok) : (counterParent s c l).Ok := by
  unfold counterParent
  dsimp only
  split
  · exact endClaims_ok (ok_ite (State.modLaunch_ok (forgetDomain_ok (ok_ite (State.modCounter_ok h) (State.modCounter_ok (State.modCounter_ok h)))))
      (freeFrames_ok (State.modLaunch_ok (forgetDomain_ok (ok_ite (State.modCounter_ok h) (State.modCounter_ok (State.modCounter_ok h)))))))
  exact ok_ite (foldl_ok (fun _ _ h1 => ok_ite (freeFrames_ok h1) h1) _ (ok_ite (State.modCounter_ok h) (State.modCounter_ok (State.modCounter_ok
      h)))) (ok_ite (State.modCounter_ok h) (State.modCounter_ok (State.modCounter_ok h)))

theorem execLaunchCounterComplete_ok {counter} (h : s.Ok) : Res.Ok (execLaunchCounterComplete counter s) := by
  unfold execLaunchCounterComplete
  refine Res.ok_next (ok_ite h ?_)
  split
  · split
    · exact ok_ite (counterState_ok (pushLaunch_ok h)) (pushLaunch_ok h)
    exact counterState_ok h
  · exact counterWord_ok h
  exact ok_ite h (counterParent_ok h)

theorem execSupervisorEntry_ok {core} (h : s.Ok) : Res.Ok (execSupervisorEntry core s) := by
  unfold execSupervisorEntry
  refine Res.ok_next (ok_ite h ?_)
  split
  · exact h
  refine enterRecord_ok ?_
  dsimp only
  split
  · exact h
  exact State.modCore_ok h

/-! ## Machine/Placement -/

theorem moveSet_ok {cl k tgt} (h : s.Ok) : (moveSet s cl k tgt).Ok := State.ok_with (State.modMx_ok (State.modMx_ok h))

theorem moveSets_ok {t core} (h : s.Ok) : (moveSets s t core).Ok := by
  unfold moveSets
  refine foldl_ok (fun _ _ h1 => ?_) _ h
  split
  · exact ok_ite (moveSet_ok h1) h1
  exact h1

theorem claimFirst_ok {cl b ctx} (h : s.Ok) : (claimFirst s cl b ctx).Ok := State.modFifo_ok h

theorem startOn_ok {l core} (h : s.Ok) : (startOn s l core).Ok :=
  foldl_ok (fun _ _ h1 => ok_ite (claimFirst_ok h1) h1) _ (ok_ite (State.modLaunch_ok (dropLines_ok h)) (dropLines_ok h))

theorem giveBanks_ok {t core} (h : s.Ok) : (giveBanks s t core).Ok := State.modTeam_ok (State.modCluster_ok h)

theorem placeTeam_ok {t core st} (h : s.Ok) : (placeTeam s t core st).Ok :=
  State.tick_ok (ok_ite (State.ok_with (acquire_ok (foldl_ok (fun _ _ h1 => ok_ite h1 (State.modGroup_ok h1)) _ (State.modTeam_ok (startOn_ok
      (moveSets_ok (giveBanks_ok h))))))) (foldl_ok (fun _ _ h1 => addGroup_ok h1) _ (State.modTeam_ok (startOn_ok (moveSets_ok
          (giveBanks_ok h))))))

theorem placeUnit_ok {ts t} (h : s.Ok) (e : placeUnit s ts = some t) : t.Ok := by
  have fold : ∀ (ts : List Nat) (a : Option State), (∀ s ∈ a, s.Ok) → ∀ t ∈ ts.foldl (fun acc t => acc.bind fun s => (s.dieFor t).map fun dc =>
      { placeTeam s t dc.2 (s.placedAs t) with lastDie := dc.1 }) a, State.Ok t := by
    intro ts
    induction ts with
    | nil => exact fun a ha => ha
    | cons x r ih =>
      refine fun a ha => ih _ fun t ht => ?_
      obtain ⟨s, hs, ht⟩ := Option.bind_eq_some_iff.1 ht
      obtain ⟨dc, _, rfl⟩ := Option.map_eq_some_iff.1 ht
      exact State.ok_with (placeTeam_ok (ha s hs))
  exact fold ts (some s) (fun _ hs => by cases hs; exact h) t e

theorem execTeamDispatch_ok {team} (h : s.Ok) : Res.Ok (execTeamDispatch team s) := by
  unfold execTeamDispatch
  refine Res.ok_next (ok_ite h ?_)
  split
  · exact h
  exact foldl_ok (fun _ _ h1 => State.modTeam_ok h1) _ h

theorem unparkGang_ok {t} (h : s.Ok) : (unparkGang s t).Ok := by
  unfold unparkGang
  split
  · exact h
  exact ok_ite h (State.modGang_ok h)

theorem goGang_ok {gkey g} (h : s.Ok) : (goGang s gkey g).Ok := by
  unfold goGang
  split
  · exact h
  exact ok_ite h (State.modGang_ok (foldl_ok (fun _ _ h1 => State.modTeam_ok h1) _ h))

theorem checkGo_ok {gkey g} (h : s.Ok) : (checkGo s gkey g).Ok := by
  unfold checkGo
  split
  · exact h
  exact ok_ite h (goGang_ok (sendMsgs_ok h))

theorem sayReady_ok {t} (h : s.Ok) : (sayReady s t).Ok := ok_ite h (ok_ite (checkGo_ok h) (sendMsg_ok h))

theorem execTeamPlacement_ok {team core} (h : s.Ok) : Res.Ok (execTeamPlacement team core s) := by
  unfold execTeamPlacement
  refine Res.ok_next ?_
  split
  · refine ok_ite (ok_ite (foldl_ok (fun _ _ h1 => State.modTeam_ok h1) _ h) h) ?_
    split
    · exact foldl_ok (fun _ _ h1 => State.modTeam_ok h1) _ h
    next e2 => exact makeNext_ok (sayReady_ok (placeUnit_ok h e2))
  exact h

theorem execTeamRestore_ok {team core} (h : s.Ok) : Res.Ok (execTeamRestore team core s) := by
  unfold execTeamRestore
  refine Res.ok_next (ok_ite h ?_)
  split
  · refine ok_ite h ?_
    split
    next e2 => exact unparkGang_ok (sayReady_ok (placeUnit_ok h e2))
    exact h
  exact h

theorem writeBackPrv_ok {gid} (h : s.Ok) : (writeBackPrv s gid).1.Ok := by
  unfold writeBackPrv
  refine foldl_fst_ok (fun x a h1 => ?_) _ ?_
  · exact prvEvict_ok h1
  exact h

theorem swapOut_ok {t} (h : s.Ok) : (swapOut s t).Ok :=
  State.modCore_ok (State.ok_with (State.modTeam_ok (State.modCluster_ok (foldl_ok (fun _ _ h1 => State.modGroup_ok h1) _ (drainWcb_ok (foldl_ok
      (fun
      _ _ h1 => flushRed_ok h1) _ (performStores_ok (foldl_ok (fun _ _ h1 => writeBackPrv_ok h1) _ h))))))))

theorem swapOutUnit_ok {t} (h : s.Ok) : (swapOutUnit s t).Ok := by
  unfold swapOutUnit
  dsimp only
  split
  · exact foldl_ok (fun _ _ h1 => swapOut_ok h1) _ h
  exact State.modGang_ok (foldl_ok (fun _ _ h1 => swapOut_ok h1) _ h)

theorem noteSwap_ok {gkey g} (h : s.Ok) : (noteSwap s gkey g).Ok := by
  unfold noteSwap
  split
  · exact h
  exact ok_ite h (ok_ite (State.modGang_ok h) (sendMsgs_ok (State.modGang_ok h)))

theorem askSwap_ok {t} (h : s.Ok) : (askSwap s t).Ok := by
  unfold askSwap
  refine ok_ite (noteSwap_ok h) ?_
  split
  · exact h
  exact ok_ite h (sendMsg_ok (State.modGang_ok h))

theorem swapReply_ok {org gkey g} (h : s.Ok) : (swapReply s org gkey g).Ok := by
  unfold swapReply
  split
  · exact h
  exact State.modGang_ok h

theorem doSwap_ok {gkey g} (h : s.Ok) : (doSwap s gkey g).Ok := by
  unfold doSwap
  split
  · exact h
  dsimp only
  split
  · exact ok_ite (swapReply_ok h) (sendMsg_ok h)
  exact ok_ite (ok_ite (swapReply_ok (State.ok_with (swapOutUnit_ok h))) (sendMsg_ok (State.ok_with (swapOutUnit_ok h)))) h

theorem execImageSaveDone_ok {team} (h : s.Ok) : Res.Ok (execImageSaveDone team s) := by
  unfold execImageSaveDone
  refine Res.ok_next (ok_ite h (ok_ite (foldl_ok (fun _ _ h1 => ok_ite (flushRed_ok h1) h1) _ (performStores_ok (foldl_fst_ok (fun x a h1 => ?_) _
      ?_))) (ok_ite (State.modCore_ok (foldl_ok (fun _ _ h1 => ok_ite (flushRed_ok h1) h1) _ (performStores_ok (foldl_fst_ok (fun x a h1 => ?_) _
      ?_)))) (ok_ite (foldl_ok (fun _ _ h1 => killGroup_ok h1) _ (State.modCore_ok (foldl_ok (fun _ _ h1 => ok_ite (flushRed_ok h1) h1) _
      (performStores_ok (foldl_fst_ok (fun x a h1 => ?_) _ ?_))))) (State.modTeam_ok (State.modCore_ok (foldl_ok (fun _ _ h1 => ok_ite (flushRed_ok
      h1) h1) _ (performStores_ok (foldl_fst_ok (fun x a h1 => ?_) _ ?_)))))))))
  · exact writeBackPrv_ok h1
  · exact h
  · exact writeBackPrv_ok h1
  · exact h
  · exact writeBackPrv_ok h1
  · exact h
  · exact writeBackPrv_ok h1
  exact h

theorem State.without_ok {v} (h : s.Ok) : (s.without v).Ok :=
  foldl_ok (fun _ _ h1 => State.modCluster_ok (foldl_ok (fun _ _ h2 => State.modGroup_ok h2) _ h1)) _ h

theorem swapNow_ok {core} (h : s.Ok) : (swapNow s core).Ok := by
  unfold swapNow
  split
  · exact h
  exact ok_ite (evictLoggia_ok h) (ok_ite (askSwap_ok h) (ok_ite h (ok_ite (evictLoggia_ok h) (makeNext_ok (placeTeam_ok (State.modCore_ok
      (swapOutUnit_ok h)))))))

theorem loggiaSweep_ok {core} (h : s.Ok) : (loggiaSweep s core).Ok := by
  unfold loggiaSweep
  split
  · exact h
  exact ok_ite (State.modCore_ok h) (ok_ite h (evictLoggia_ok h))

theorem execSliceExpiry_ok {core} (h : s.Ok) : Res.Ok (execSliceExpiry core s) := by
  unfold execSliceExpiry
  refine Res.ok_next ?_
  split
  · exact ok_ite h (swapNow_ok h)
  exact h

theorem execTeamSwap_ok {core team} (h : s.Ok) : Res.Ok (execTeamSwap core team s) := by
  unfold execTeamSwap
  refine Res.ok_next ?_
  split
  · exact ok_ite (swapNow_ok h) (ok_ite (evictLoggia_ok h) h)
  exact ok_ite (ok_ite (askSwap_ok h) (ok_ite (swapOutUnit_ok h) h)) h

theorem execBankModeChange_ok {cl bank} (h : s.Ok) : Res.Ok (execBankModeChange cl bank s) := by
  unfold execBankModeChange
  refine Res.ok_next ?_
  split
  · exact h
  exact ok_ite (State.modCluster_ok h) (State.modCluster_ok (State.modFifo_ok (freeBank_ok (ok_ite (dropLines_ok (State.modCluster_ok h))
      (State.modCluster_ok h)))))

/-! ## Machine/Fabric -/

theorem modEngOp_ok {eng f m} (h : s.Ok) : (modEngOp s eng f m).Ok := ok_ite h (ok_ite (State.modEng_ok h) (State.modMx_ok h))

theorem engAcked_ok {eng} (h : s.Ok) : (engAcked s eng).Ok := ok_ite h (closeOps_ok h)

theorem retire_ok {d pc ext unif writes v fl} (h : s.Ok) : (retire s d pc ext unif writes v fl).Ok :=
  ok_ite h (ok_ite (State.modGroup_ok h) (ok_ite (land_ok (State.modGroup_ok h)) (State.modGroup_ok h)))

theorem pushAgain_ok {d pc} (h : s.Ok) : (pushAgain s d pc).Ok := ok_ite (State.modGroup_ok h) h

theorem retireTrap_ok {d pc ext unif c va} (h : s.Ok) : (retireTrap s d pc ext unif c va).Ok := ok_ite h (ok_ite (takeTrap_ok h) (takeTrap_ok h))

theorem acquireAfter_ok {gid acq va glob} (h : s.Ok) : (acquireAfter s gid acq va glob).Ok := ok_ite h (acquire_ok h)

theorem giveAnswer_ok {r t bad bytes} (h : s.Ok) : (giveAnswer s r t bad bytes).Ok := h

theorem endMail_ok {ctx addr} (h : s.Ok) : (endMail s ctx addr).Ok := by
  unfold endMail
  split
  · exact h
  exact State.modTeam_ok (acquire_ok h)

theorem mailWord_ok {d addr v bad} (h : s.Ok) : (mailWord s d addr v bad).Ok :=
  ok_ite (ok_ite (land_ok h) (ok_ite h (takeTrap_ok h))) (endMail_ok (ok_ite (land_ok h) (ok_ite h (takeTrap_ok h))))

theorem loseWrites_ok {r c} (h : s.Ok) : (loseWrites s r c).Ok := foldl_ok (fun _ _ h1 => loseWrite_ok h1) _ h

theorem requestFails_ok {r c lost} (h : s.Ok) : (requestFails s r c lost).Ok := by
  unfold requestFails
  split
  · refine giveAnswer_ok ?_
    split
    · exact ok_ite (modEngOp_ok h) h
    · exact ok_ite (modEngOp_ok h) h
    exact h
  · exact ok_ite (mailWord_ok h) (ok_ite (loseWrites_ok (retire_ok h)) (retireTrap_ok h))
  exact ok_ite (modEngOp_ok h) (ok_ite (engAcked_ok (modEngOp_ok h)) (ok_ite h (loseWrites_ok h)))

theorem requestDone_ok {r data} (h : s.Ok) : (requestDone s r data).Ok := by
  unfold requestDone
  split
  · exact giveAnswer_ok h
  · exact ok_ite (mailWord_ok h) (acquireAfter_ok (retire_ok h))
  exact engAcked_ok h

theorem dropReq_ok {r} (h : s.Ok) : (dropReq s r).Ok := h

theorem execFabricResponseArrival_ok {peer no status data} (h : s.Ok) : Res.Ok (execFabricResponseArrival peer no status data s) := by
  unfold execFabricResponseArrival
  refine Res.ok_next ?_
  split
  · exact h
  refine ok_ite h (ok_ite (ackFab_ok h) (ok_ite ?_ (ok_ite (requestDone_ok (dropReq_ok h)) (requestFails_ok (dropReq_ok h)))))
  split
  · exact pushAgain_ok (dropReq_ok h)
  exact dropReq_ok h

theorem loseDevice_ok {dev} (h : s.Ok) : (loseDevice s dev).Ok := foldl_ok (fun _ _ h1 => ok_ite (killLaunch_ok h1) h1) _ h

theorem execTransactionTimeout_ok {peer no} (h : s.Ok) : Res.Ok (execTransactionTimeout peer no s) := by
  unfold execTransactionTimeout
  refine Res.ok_next ?_
  split
  · exact h
  exact ok_ite h (loseDevice_ok (requestFails_ok (dropReq_ok (logged_ok h))))

theorem serveHome_ok {r} (h : s.Ok) : (serveHome s r).1.Ok := by
  unfold serveHome
  dsimp only
  split
  · exact sendSnoop_ok h
  split
  · split <;> exact foldl_ok (fun _ _ h1 => expose_ok h1) _ h
  · exact homeWrites_ok _ _ h
  exact ok_fst_ite (homeRmw_ok _ _ _ _ h) (ok_fst_ite (State.ok_with (homeRmw_ok _ _ _ _ h)) (homeRmw_ok _ _ _ _ h))

theorem gangFor_ok {gkey kteam} (h : s.Ok) : (gangFor s gkey kteam).1.Ok := by
  unfold gangFor
  split
  · exact h
  exact ok_ite h h

theorem serveReport_ok {r} (h : s.Ok) : (serveReport s r).Ok := by
  unfold serveReport
  refine ok_ite ?_ ?_
  · split
    · exact State.modLaunch_ok h
    exact h
  split
  next e1 => exact ok_fst e1 (gangFor_ok h)
  next e1 =>
    have h1 := ok_fst e1 (gangFor_ok h)
    dsimp only
    split
    · exact ok_ite (State.modGang_ok (State.modGang_ok h1)) (State.modGang_ok h1)
    · exact State.modGang_ok h1
    · exact syncSettle_ok (State.modGang_ok h1)
    exact gangSweep_ok (State.modGang_ok h1)

theorem sliceWrite_ok {t b bytes} (h : s.Ok) : (sliceWrite s t b bytes).Ok := State.modTeam_ok h

theorem serveGang_ok {r} (h : s.Ok) : (serveGang s r).1.Ok := by
  unfold serveGang
  refine ok_fst_ite (serveReport_ok h) ?_
  split
  · exact h
  refine ok_fst_ite (ok_fst_ite h (ok_fst_ite h ?_)) ?_
  · dsimp only
    split
    · refine ok_fst_ite h ?_
      split
      next e3 => exact deliver_ok h e3
      exact h
    exact h
  split
  · exact h
  refine ok_fst_ite h (ok_fst_ite h ?_)
  split
  · exact h
  · exact sliceWrite_ok h
  dsimp only
  split
  next e5 => exact ok_fst e5 (scrAccess_ok h)
  next e6 => exact ok_fst e6 (scrAccess_ok h)

theorem answer_ok {r status bytes} (h : s.Ok) : (answer s r status bytes).Ok := by
  unfold answer
  refine ok_ite ?_ (ok_ite (ackFab_ok ?_) (sendAnswer_ok ?_))
  · split
    · exact h
    exact noteSeen_ok h
  · split
    · exact h
    exact noteSeen_ok h
  split
  · exact h
  exact noteSeen_ok h

theorem serve_ok {r} (h : s.Ok) : (serve s r).Ok := by
  unfold serve
  split
  next e1 => exact answer_ok (ok_fst e1 (ok_fst_ite (serveHome_ok h) (serveGang_ok h)))
  next e1 => exact ok_fst e1 (ok_fst_ite (serveHome_ok h) (serveGang_ok h))
  next e1 => exact State.ok_with (ok_fst e1 (ok_fst_ite (serveHome_ok h) (serveGang_ok h)))

theorem pushEnds_ok {p status} (h : s.Ok) : (pushEnds s p status).Ok := by
  unfold pushEnds
  dsimp only
  split
  · split
    · exact h
    exact State.modGroup_ok h
  refine answer_ok ?_
  split
  · exact h
  exact State.modGroup_ok h

theorem deliverAll_ok (h : s.Ok) : (deliverAll s).Ok := by
  unfold deliverAll
  refine foldl_ok (fun _ _ h1 => ok_ite (pushEnds_ok h1) (ok_ite (pushEnds_ok h1) ?_)) _ h
  split
  next e1 => exact pushEnds_ok (deliver_ok h1 e1)
  exact pushEnds_ok h1

theorem settleHeld_ok (h : s.Ok) : (settleHeld s).Ok := foldl_ok (fun _ _ h1 => serve_ok h1) _ h

theorem filtered_ok {r : InReq} {new : State → State} (hnew : ∀ s, s.Ok → (new s).Ok) (h : s.Ok) : (filtered s r new).Ok := by
  unfold filtered
  split
  · exact hnew _ h
  refine ok_ite h ?_
  split
  · exact ok_ite (sendAnswer_ok h) h
  exact ok_ite h (hnew _ h)

theorem execFabricRequestArrival_ok {org seq flr kind win off size data aop cmp body} (h : s.Ok) : Res.Ok (execFabricRequestArrival org seq flr kind
    win off size data aop cmp body s) := by
  unfold execFabricRequestArrival
  refine Res.ok_next (ok_ite h (filtered_ok (fun _ h1 => ok_ite (serve_ok h1) (answer_ok h1)) ?_))
  split
  · exact raiseFloor_ok h
  exact h

theorem execMulticastDelivery_ok {grp msg hop off bytes stomped} (h : s.Ok) : Res.Ok (execMulticastDelivery grp msg hop off bytes stomped s) :=
  Res.ok_next (ok_ite h (ok_ite (ok_ite h h) (filtered_ok (fun _ h1 => ok_ite (answer_ok (State.ok_with h1)) (serve_ok h1)) (raiseFloor_ok
      (ok_ite h h)))))

theorem unreserve_ok {t} (h : s.Ok) : (unreserve s t).Ok :=
  ok_ite h (ok_ite (State.modTeam_ok (foldl_ok (fun _ _ h1 => State.modGroup_ok h1) _ (State.modCluster_ok h))) (State.ok_with (State.modTeam_ok
      (foldl_ok (fun _ _ h1 => State.modGroup_ok h1) _ (State.modCluster_ok h)))))

theorem unready_ok {dev gkey g} (h : s.Ok) : (unready s dev gkey g).Ok := h

theorem releaseGang_ok {gkey g} (h : s.Ok) : (releaseGang s gkey g).Ok := by
  unfold releaseGang
  dsimp only
  split
  · exact unready_ok h
  exact foldl_ok (fun _ _ h1 => unreserve_ok h1) _ (unready_ok h)

theorem withdraw_ok (h : s.Ok) : (withdraw s).Ok := by
  unfold withdraw
  split
  · exact h
  exact ok_ite h (ok_ite (releaseGang_ok h) (sendMsg_ok (releaseGang_ok h)))

theorem noteEarly_ok {gkey code} (h : s.Ok) : (noteEarly s gkey code).Ok := ok_ite h h

theorem message_ok {m : Sent} {act : State → State} (hact : ∀ s, s.Ok → (act s).Ok) (h : s.Ok) : (message s m act).Ok :=
  filtered_ok (fun _ h1 => answer_ok (hact _ h1)) (raiseFloor_ok h)

theorem execAccept_ok {msg gkey nteams gang gdom prio} (h : s.Ok) : Res.Ok (execAccept msg gkey nteams gang gdom prio s) := by
  unfold execAccept
  refine Res.ok_next (message_ok (fun _ h1 => ?_) h)
  dsimp only
  split
  · exact State.ok_with h1
  exact ok_ite (killLaunch_ok (tellMismatch_ok (State.ok_with h1))) (tellAccepted_ok (State.ok_with h1))

theorem execRelease_ok {msg g} (h : s.Ok) : Res.Ok (execRelease msg g s) := by
  unfold execRelease
  refine Res.ok_next (message_ok (fun _ h1 => ?_) h)
  split
  · exact ok_ite (noteEarly_ok (unready_ok h1)) (unready_ok h1)
  exact ok_ite (unready_ok h1) (ok_ite (killLaunch_ok h1) (releaseGang_ok h1))

theorem execGangCancelMessage_ok {msg} (h : s.Ok) : Res.Ok (execGangCancelMessage msg s) := by
  unfold execGangCancelMessage
  refine Res.ok_next (message_ok (fun _ h1 => ?_) h)
  split
  · exact noteEarly_ok h1
  exact cancelTree_ok h1

theorem execMemberDepartedReport_ok {msg m} (h : s.Ok) : Res.Ok (execMemberDepartedReport msg m s) := by
  unfold execMemberDepartedReport
  refine Res.ok_next (message_ok (fun _ h1 => ?_) h)
  split
  next e1 => exact ok_fst e1 (gangFor_ok h1)
  next e1 => exact gangSweep_ok (State.modGang_ok (ok_fst e1 (gangFor_ok h1)))

/-! ## Machine/HostPort -/

theorem hostTakes_ok {line own} (h : s.Ok) : (hostTakes s line own).Ok := h

theorem hostAccess_ok {h'} (h : s.Ok) : (hostAccess s h').Ok := by
  unfold hostAccess
  refine ok_ite h ?_
  split
  · exact State.ok_with (sendSnoop_ok h)
  exact ok_ite (State.ok_with (ok_ite (hostTakes_ok (homeWrites_ok _ _ h)) (homeWrites_ok _ _ h))) (State.ok_with (ok_ite (hostTakes_ok
      (expose_ok h))
      (expose_ok h)))

theorem settleHost_ok (h : s.Ok) : (settleHost s).Ok := foldl_ok (fun _ _ h1 => hostAccess_ok h1) _ h

theorem execHostSnoop_ok {line} (h : s.Ok) : Res.Ok (execHostSnoop line s) := by
  unfold execHostSnoop
  refine Res.ok_next ?_
  split <;> exact h

theorem hostStored_ok {r data poison} (h : s.Ok) : (hostStored s r data poison).Ok :=
  ok_ite (foldl_ok (fun _ _ h1 => retireTrap_ok h1) _ h) (foldl_ok (fun _ _ h1 => retire_ok h1) _ (foldl_ok (fun _ _ h1 => putOwned_ok h1) _
      (takeOwned_ok h)))

theorem hostAnswered_ok {r data poison} (h : s.Ok) : (hostAnswered s r data poison).Ok := by
  unfold hostAnswered
  dsimp only
  split
  · exact ok_ite (takeOwned_ok h) (giveAnswer_ok h)
  split
  · exact ok_ite (hostStored_ok h) (engAcked_ok h)
  · exact ok_ite (mailWord_ok h) (ok_ite (retireTrap_ok h) (acquireAfter_ok (retire_ok h)))
  · exact h
  split
  · exact ok_ite h (hostRmw_ok (takeOwned_ok h))
  exact ok_ite (retireTrap_ok h) (acquireAfter_ok (retire_ok (hostRmw_ok (takeOwned_ok h))))

theorem pumpHostAt_ok {n k3} (h : s.Ok) : (pumpHostAt n s k3).Ok := by
  induction n generalizing s k3 with
  | zero =>
    unfold pumpHostAt
    exact h
  | succ n ih =>
    unfold pumpHostAt
    split
    · exact h
    refine ok_ite (ih h) ?_
    split
    · exact ih (hostAnswered_ok (ok_ite (foldl_ok (fun _ _ h1 => putOwned_ok h1) _ h) h))
    exact ih h

theorem pumpHost_ok (h : s.Ok) : (pumpHost s).Ok := pumpHostAt_ok h

theorem execCxlDataResponse_ok {k data poison} (h : s.Ok) : Res.Ok (execCxlDataResponse k data poison s) := by
  unfold execCxlDataResponse
  refine Res.ok_next ?_
  split
  · exact h
  exact ok_ite (hostAnswered_ok h) h

theorem readReply_ok {ctx addr} (h : s.Ok) : (readReply s ctx addr).Ok := by
  unfold readReply
  split
  · exact h
  dsimp only
  split
  next e2 =>
    have h1 := ok_fst e2 (State.trans_ok h)
    split
    · exact State.ok_with (sendSnoop_ok h1)
    exact endMail_ok (foldl_ok (fun _ _ h2 => ok_ite (State.ok_with (expose_ok h2)) (mailWord_ok (expose_ok h2))) _ h1)
  next e2 => exact State.ok_with (ok_fst e2 (State.trans_ok h))
  next e2 =>
    have h1 := ok_fst e2 (State.trans_ok h)
    exact ok_ite (State.ok_with h1) (foldl_ok (fun _ _ h2 => sendFab_ok h2) _ h1)
  next e2 => exact State.ok_with (ok_fst e2 (State.trans_ok h))
  next e2 => exact State.ok_with (ok_fst e2 (State.trans_ok h))
  next e7 => exact State.ok_with (ok_fst e7 (State.trans_ok h))

theorem settleBells_ok (h : s.Ok) : (settleBells s).Ok := foldl_ok (fun _ _ h1 => readReply_ok h1) _ h

theorem execContextDescriptorWrite_ok {ctx desc} (h : s.Ok) : Res.Ok (execContextDescriptorWrite ctx desc s) :=
  Res.ok_next (ok_ite h (ok_ite (ok_ite h (foldl_ok (fun _ _ h1 => cancel_ok h1) _ (dropMisses_ok (State.ok_with (State.modContext_ok h)))))
      (State.modContext_ok h)))

theorem ckptGo_ok {dir img} (h : s.Ok) : (ckptGo s dir img).Ok := ok_ite h h

theorem execCheckpointTransferDone_ok (h : s.Ok) : Res.Ok (execCheckpointTransferDone s) := by
  unfold execCheckpointTransferDone
  refine Res.ok_next ?_
  split
  · exact h
  split
  · refine State.ok_with ?_
    split
    · exact restoreImage_ok _ _
    · exact h
    exact h
  exact foldl_ok (fun _ _ h1 => sendSnoop_ok h1) _ h

/-! ## Machine/MatrixDrain -/

theorem checkGood_ok {cl o out unchk} (h : s.Ok) : (checkGood s cl o out unchk).Ok := State.modOp_ok (State.modTile_ok h)

theorem checkBad_ok {cl o out loc} (h : s.Ok) : (checkBad s cl o out loc).Ok := endWith_ok (fun _ h1 => State.modTile_ok h1) h

theorem checkStops_ok {cl o status} (h : s.Ok) : (checkStops s cl o status).Ok := checkBad_ok (beginsEnd_ok h)

theorem execDrainCheckEnd_ok {cl} (h : s.Ok) : Res.Ok (execDrainCheckEnd cl s) := by
  unfold execDrainCheckEnd
  refine Res.ok_next ?_
  split
  · exact h
  refine ok_ite h (ok_ite (checkBad_ok h) ?_)
  split
  · exact checkBad_ok h
  dsimp only
  split
  · exact State.modOp_ok (State.modTile_ok h)
  split
  · exact checkGood_ok h
  · exact ok_ite (checkGood_ok (State.modTile_ok h)) (checkBad_ok h)
  split
  next e6 => exact opWaits_ok (ok_fst e6 (rdRange_ok h))
  next e6 => exact ok_fst e6 (rdRange_ok h)
  next e6 => exact checkStops_ok (ok_fst e6 (rdRange_ok h))
  next e6 =>
    have h1 := ok_fst e6 (rdRange_ok h)
    exact ok_ite (checkGood_ok h1) (ok_ite (checkBad_ok h1) (blkPut_ok (fun _ _ h2 => ok_ite (checkBad_ok (State.modOp_ok h2)) (checkStops_ok h2))
        h1))

theorem drainRows_ok {cl id n} (h : s.Ok) : (drainRows cl id n s).1.Ok := by
  induction n generalizing s with
  | zero => exact h
  | succ n ih =>
    unfold drainRows
    split
    · exact h
    refine ok_fst_ite h ?_
    dsimp only
    split
    next e => exact ok_fst e (placeRange_ok h)
    next e =>
      have h1 := ok_fst e (placeRange_ok h)
      split
      next e2 => exact ok_fst e2 (placeRange_ok h1)
      next e2 =>
        have h2 := ok_fst e2 (placeRange_ok h1)
        exact ih (State.modOp_ok (ok_ite (State.modCluster_ok h2) h2))

theorem drainFlush_ok {cl o} (h : s.Ok) : (drainFlush s cl o).1.Ok := State.modOp_ok (putLines_ok h)

theorem stopDrain_ok {cl o} (h : s.Ok) : (stopDrain s cl o).Ok :=
  blkPut_ok (fun _ _ h1 => endWith_ok (fun _ h2 => State.modTile_ok h2) h1) (ok_fst_ite h (beginsEnd_ok h))

theorem commitDrain_ok {cl o} (h : s.Ok) : (commitDrain s cl o).Ok := by
  unfold commitDrain
  dsimp only
  split
  next e1 => exact opWaits_ok (ok_fst e1 (rdRange_ok h))
  next e1 => exact ok_fst e1 (rdRange_ok h)
  next e1 => exact stopDrain_ok (ok_fst e1 (rdRange_ok h))
  next e1 =>
    have h1 := ok_fst e1 (rdRange_ok h)
    split
    next e2 => exact opWaits_ok (ok_fst e2 (ok_fst_ite h1 (rdRange_ok h1)))
    next e2 => exact ok_fst e2 (ok_fst_ite h1 (rdRange_ok h1))
    next e2 => exact stopDrain_ok (ok_fst e2 (ok_fst_ite h1 (rdRange_ok h1)))
    next e2 => exact blkPut_ok (fun _ _ h3 => ok_ite (closeOp_ok (State.modTile_ok h3)) (stopDrain_ok h3)) (ok_fst e2 (ok_fst_ite h1
        (rdRange_ok h1)))

theorem execDrainCommit_ok {cl} (h : s.Ok) : Res.Ok (execDrainCommit cl s) := by
  have ends {s : State} {k : State → MxOp → State} (hs : s.Ok) (hk : ∀ s o, s.Ok → (k s o).Ok) :
      State.Ok (match (s.mx cl).draining with
        | none => s
        | some o => match drainFlush s cl o with
          | (s, true) => k s o
          | (s, false) => s) := by
    split
    · exact hs
    split
    next e => exact hk _ _ (ok_fst e (drainFlush_ok hs))
    next e => exact ok_fst e (drainFlush_ok hs)
  unfold execDrainCommit
  refine Res.ok_next ?_
  split
  · exact h
  refine ok_ite h (ok_ite (stopDrain_ok h) (ok_ite (endWith_ok (fun _ h1 => State.modTile_ok h1) h) ?_))
  split
  next e => exact ends (ok_fst e (drainRows_ok h)) fun _ _ h1 => ok_ite (stopDrain_ok h1) (commitDrain_ok h1)
  next e => exact opWaits_ok (ok_fst e (drainRows_ok h))
  next e => exact ok_fst e (drainRows_ok h)
  next e => exact ends (ok_fst e (drainRows_ok h)) fun _ _ h1 => stopDrain_ok h1

/-! ## Machine/Scan -/

theorem execScantChunk_ok {o} (h : s.Ok) : Res.Ok (execScantChunk o s) :=
  Res.ok_next (scanWord_ok (fun _ _ h1 => ok_ite (advance_ok (setU_ok h1)) (ok_ite (advance_ok (setU_ok h1)) (ok_ite (advance_ok (setU_ok h1))
      (holdGroup_ok (State.modCore_ok h1))))) h)

/-! ## Machine/Recovery -/

theorem endTeams_ok {l} (h : s.Ok) : (endTeams s l).Ok :=
  State.ok_with (foldl_ok (fun _ _ h1 => ok_ite (endHeld_ok h1) h1) _ (foldl_ok (fun _ _ h1 => ok_ite (ok_ite h1 (completeTeam_ok h1)) (foldl_ok
      (fun
      _ _ h2 => killGroup_ok h2) _ h1)) _ h))

theorem startRollback_ok {l} (h : s.Ok) : (startRollback s l).Ok := endTeams_ok (State.modLaunch_ok h)

theorem restoreUnits_ok {l} (h : s.Ok) : (restoreUnits s l).Ok := freeFrames_ok (foldl_ok (fun _ _ h1 => restoreUnit_ok _ h1) _ h)

theorem recallUnits_ok {l} (h : s.Ok) : (recallUnits s l).Ok := foldl_ok (fun _ _ h1 => sendSnoop_ok h1) _ h

theorem endCounter_ok {l status} (h : s.Ok) : (endCounter s l status).Ok := State.modCounter_ok (State.modLaunch_ok h)

theorem reopen_ok {c} (h : s.Ok) : (reopen s c).Ok := State.modCounter_ok h

theorem replay_ok {l} (h : s.Ok) : (replay s l).Ok :=
  ok_ite (endCounter_ok (reopen_ok h)) (ok_ite (endCounter_ok (reopen_ok h)) (makeNext_ok (State.modCounter_ok (State.ok_with (State.modLaunch_ok
      (reopen_ok h))))))

theorem launchError_ok {launch} (h : s.Ok) : (launchError s launch).Ok :=
  ok_ite h (ok_ite (killLaunch_ok h) (ok_ite (killLaunch_ok (restoreUnits_ok h)) (startRollback_ok h)))

theorem warmResetBy_ok {lost} (h : s.Ok) : (warmResetBy s lost).Ok :=
  foldl_ok (fun _ _ h1 => foldl_ok (fun _ _ h2 => State.modCounter_ok h2) _ (State.modContext_ok h1)) _ (foldl_ok (fun _ _ h1 => ok_ite
      (endCounter_ok
      (freeFrames_ok h1)) (ok_ite h1 (ok_ite (ok_ite (replay_ok (restoreUnits_ok h1)) (State.modLaunch_ok h1)) (ok_ite (endCounter_ok
          (restoreUnits_ok
      h1)) (State.modLaunch_ok h1))))) _ h)

theorem execRollbackRestore_ok {launch} (h : s.Ok) : Res.Ok (execRollbackRestore launch s) := by
  unfold execRollbackRestore
  refine Res.ok_next (ok_ite h (ok_ite h (ok_ite (pushLaunch_ok h) (ok_ite (endCounter_ok (freeFrames_ok (pushLaunch_ok h))) (ok_ite (ok_ite
      (endCounter_ok (restoreUnits_ok (pushLaunch_ok h))) (recallUnits_ok (pushLaunch_ok h))) (ok_ite (ok_ite (replay_ok (restoreUnits_ok
      (pushLaunch_ok h))) (recallUnits_ok (pushLaunch_ok h))) ?_))))))
  split
  · exact ok_ite (warmResetBy_ok (pushLaunch_ok h)) (ok_ite (foldl_ok (fun _ _ h1 => startRollback_ok h1) _ (pushLaunch_ok h)) (ok_ite (foldl_ok
      (fun
      _ _ h1 => pushLaunch_ok h1) _ (pushLaunch_ok h)) (ok_ite (foldl_ok (fun _ _ h1 => recallUnits_ok h1) _ (pushLaunch_ok h)) (foldl_ok
          (fun _ _ h1
      => replay_ok h1) _ (State.modCounter_ok (foldl_ok (fun _ _ h1 => restoreUnits_ok h1) _ (pushLaunch_ok h)))))))
  exact warmResetBy_ok (pushLaunch_ok h)

theorem migrateSets_ok {cl every} (h : s.Ok) : (migrateSets s cl every).Ok :=
  State.ok_with (State.modMx_ok (foldl_ok (fun _ _ h1 => endOp_ok h1) _ h))

theorem takePreempt_ok {gid} (h : s.Ok) : (takePreempt s gid).Ok := foldl_ok (fun _ _ h1 => takeTrap_ok h1) _ (State.modGroup_ok h)

theorem chunkResult_ok {core v} (h : s.Ok) : (chunkResult s core v).Ok := by
  unfold chunkResult
  split
  · exact h
  exact ok_ite (State.modCore_ok h) (State.modGroup_ok (State.modCore_ok h))

theorem vacate_ok {cl p} (h : s.Ok) : (vacate s cl p).Ok :=
  State.ok_with (State.modCluster_ok (dropLines_ok (State.modDie_ok (foldl_ok (fun _ _ h1 => ok_ite (chunkResult_ok h1) h1) _ h))))

theorem emptyBuffers_ok {cl} (h : s.Ok) : (emptyBuffers s cl).1.Ok := by
  unfold emptyBuffers
  dsimp only
  refine foldl_ok (fun c core hc => ?_) _ h
  exact drainWcb_ok (foldl_ok (fun _ _ he => flushRed_ok he) _ hc)

theorem removalStep_ok {die core} (h : s.Ok) : (removalStep s die core).Ok := by
  unfold removalStep
  dsimp only
  split
  · exact State.modDie_ok h
  · exact State.ok_with (State.modDie_ok h)
  exact State.modDie_ok h

theorem execCoreRemoval_ok {die} (h : s.Ok) : Res.Ok (execCoreRemoval die s) := by
  unfold execCoreRemoval
  extract_lets d core cl n
  refine Res.ok_next (ok_ite h (ok_ite (removalStep_ok h) ?_))
  split
  · exact State.modDie_ok h
  next s1 s2 here s3 _ p _ =>
    have h2 : s2.Ok := foldl_ok (fun _ _ h1 => evictLoggia_ok h1) _ (State.modDie_ok h)
    have h3 : s3.Ok := foldl_ok (fun _ _ h1 => ok_ite (unreserve_ok h1) (ok_ite (askSwap_ok h1) (ok_ite (swapOutUnit_ok h1) h1))) _ h2
    split
    next e =>
    have h4 := ok_fst e (emptyBuffers_ok h3)
    exact ok_ite h4 (State.modDie_ok (migrateSets_ok (vacate_ok h4)))

theorem scanFlush_ok {core} (h : s.Ok) : (scanFlush s core).Ok := State.ok_with (dropLines_ok h)

theorem execScanChunkComplete_ok {core} (h : s.Ok) : Res.Ok (execScanChunkComplete core s) := by
  unfold execScanChunkComplete
  refine Res.ok_next ?_
  split
  · exact h
  exact chunkResult_ok (State.ok_with (scanFlush_ok (State.modCore_ok h)))

/-! ## Machine/Firmware -/

theorem safeState_ok {f stage code die unit rom good} : (safeState f stage code die unit rom good).Ok := show Memory.wf [] by decide

theorem extendTables_ok {v} (h : s.Ok) : (extendTables s v).Ok := h

theorem loadRoute_ok {peer v} (h : s.Ok) : (loadRoute s peer v).Ok := ok_ite h (extendTables_ok h)

theorem loadMcast_ok {grp v devs} (h : s.Ok) : (loadMcast s grp v devs).Ok := ok_ite h (extendTables_ok h)

theorem loadTree_ok {idx v} (h : s.Ok) : (loadTree s idx v).Ok := ok_ite h (extendTables_ok h)

theorem loadWindow_ok {org win v} (h : s.Ok) : (loadWindow s org win v).Ok := ok_ite h (extendTables_ok h)

theorem stage6_ok {r} (h : s.Ok) : (stage6 r s).Ok :=
  foldl_ok (fun _ _ h1 => extendTables_ok (State.modDie_ok h1)) _ (foldl_ok (fun _ _ h1 => loadWindow_ok h1) _ (foldl_ok (fun _ _ h1 => loadTree_ok
      h1) _ (foldl_ok (fun _ _ h1 => loadMcast_ok h1) _ (foldl_ok (fun _ _ h1 => loadRoute_ok h1) _ h))))

theorem execPowerOn_ok {r} : Res.Ok (execPowerOn r s) := by
  unfold execPowerOn
  refine Res.ok_next (State.ok_with ?_)
  split
  · exact safeState_ok
  refine ok_ite safeState_ok (ok_ite safeState_ok ?_)
  split
  · exact safeState_ok
  refine ok_ite safeState_ok (stage6_ok ?_)
  exact show Memory.wf [] by decide

theorem reply_ok {code fields bytes} (h : s.Ok) : (reply s code fields bytes).Ok := h

theorem live_ok {k : State → State} (hk : ∀ s, s.Ok → (k s).Ok) (h : s.Ok) : (live s k).Ok := ok_ite (reply_ok h) (hk _ h)

theorem execSetTokens_ok {die tokens mingap} (h : s.Ok) : Res.Ok (execSetTokens die tokens mingap s) :=
  Res.ok_next (live_ok (fun _ h1 => ok_ite (reply_ok h1) (reply_ok (extendTables_ok (State.modDie_ok h1)))) h)

theorem execMicrocodeSwitch_ok {seqr} (h : s.Ok) : Res.Ok (execMicrocodeSwitch seqr s) := by
  unfold execMicrocodeSwitch
  refine Res.ok_next ?_
  split
  · exact ok_ite h h
  exact h

theorem setPv_ok {peer v} (h : s.Ok) : (setPv s peer v).Ok := h

theorem setPvs_ok {peers v} (h : s.Ok) : (setPvs s peers v).Ok := State.ok_with (foldl_ok (fun _ _ h1 => setPv_ok h1) _ h)

theorem execRecal_ok {isPort n} (h : s.Ok) : Res.Ok (execRecal isPort n s) :=
  Res.ok_next (live_ok (fun _ h1 => ok_ite (reply_ok h1) (ok_ite (reply_ok h1) (reply_ok (State.ok_with (setPvs_ok h1))))) h)

theorem execRecalComplete_ok (h : s.Ok) : Res.Ok (execRecalComplete s) := by
  unfold execRecalComplete
  refine Res.ok_next ?_
  split
  · exact h
  exact ok_ite h (State.ok_with (setPvs_ok h))

theorem spdm_ok {code fields bytes} (h : s.Ok) : (spdm s code fields bytes).Ok := reply_ok h

theorem spdmError_ok {e} (h : s.Ok) : (spdmError s e).Ok := spdm_ok h

theorem signed_ok {k : State → List Byte → State} (hk : ∀ s x2, s.Ok → (k s x2).Ok) (h : s.Ok) : (signed s k).Ok := hk _ _ h

theorem execGetMeasurements_ok {idx isSigned} (h : s.Ok) : Res.Ok (execGetMeasurements idx isSigned s) := by
  unfold execGetMeasurements
  refine Res.ok_next ?_
  split
  · exact spdmError_ok h
  exact ok_ite (signed_ok (fun _ _ h1 => spdm_ok h1) h) (spdm_ok h)

theorem execSpdmUnsupportedRequest_ok {req} (h : s.Ok) : Res.Ok (execSpdmUnsupportedRequest req s) := by
  unfold execSpdmUnsupportedRequest
  refine Res.ok_next ?_
  split
  · exact spdm_ok h
  exact ok_ite h (reply_ok h)

theorem coremapSet_ok {i v} (h : s.Ok) : (coremapSet s i v).Ok := State.modDie_ok h

theorem firmwareCsr_ok {core num v} (h : s.Ok) : (firmwareCsr s core num v).Ok := by
  unfold firmwareCsr
  split
  · exact State.modCore_ok h
  · exact coremapSet_ok h
  · exact State.modCore_ok h
  · exact State.modCore_ok h
  refine ok_ite ?_ h
  split
  · exact csrWrite_ok h
  exact h

theorem execRegisterWrite_ok {r v} (h : s.Ok) : Res.Ok (execRegisterWrite r v s) := by
  unfold execRegisterWrite
  refine Res.ok_next ?_
  split
  · exact State.modQueue_ok h
  · exact State.modQueue_ok h
  · exact State.modCounter_ok h
  · exact State.modCounter_ok h
  · exact State.modCounter_ok h
  · exact State.modCounter_ok h
  · exact h
  · exact ok_ite (ckptGo_ok h) h
  · exact ok_ite h h
  · exact h
  · exact firmwareCsr_ok h
  · exact h
  exact ok_ite (warmResetBy_ok h) h

/-! ## Machine/Due -/

theorem settle_ok (h : s.Ok) : (settle s).Ok :=
  foldl_ok (fun _ _ h1 => takePreempt_ok h1) _ (pumpHost_ok (foldl_ok (fun _ _ h1 => ok_ite (State.modCore_ok (loggiaSweep_ok h1)) (loggiaSweep_ok
      h1)) _ (foldl_ok (fun _ _ h1 => doSwap_ok h1) _ (withdraw_ok (settleBells_ok (settleHost_ok (settleHeld_ok (settleInvals_ok h))))))))

/-! ## Every instruction and every step -/

theorem exec_ok (i : Instr) (h : s.Ok) : Res.Ok (exec i s) := by
  cases i with
  | ill _ => exact Res.ok_next (illegalRun_ok h)
  | iadd _ => exact Res.ok_next (int2_ok h)
  | isub _ => exact Res.ok_next (int2_ok h)
  | imul _ => exact Res.ok_next (int2_ok h)
  | imulhu _ => exact Res.ok_next (int2_ok h)
  | imulhs _ => exact Res.ok_next (int2_ok h)
  | imad _ => exact Res.ok_next (int3_ok h)
  | idivu _ => exact Res.ok_next (int2_ok h)
  | idivs _ => exact Res.ok_next (int2_ok h)
  | iremu _ => exact Res.ok_next (int2_ok h)
  | irems _ => exact Res.ok_next (int2_ok h)
  | imin _ => exact Res.ok_next (int2_ok h)
  | imax _ => exact Res.ok_next (int2_ok h)
  | umin _ => exact Res.ok_next (int2_ok h)
  | umax _ => exact Res.ok_next (int2_ok h)
  | iabs _ => exact Res.ok_next (int1_ok h)
  | ineg _ => exact Res.ok_next (int1_ok h)
  | and _ => exact Res.ok_next (int2_ok h)
  | or _ => exact Res.ok_next (int2_ok h)
  | xor _ => exact Res.ok_next (int2_ok h)
  | andn _ => exact Res.ok_next (int2_ok h)
  | not _ => exact Res.ok_next (int1_ok h)
  | shl _ => exact Res.ok_next (int2_ok h)
  | shr _ => exact Res.ok_next (int2_ok h)
  | sar _ => exact Res.ok_next (int2_ok h)
  | rotl _ => exact Res.ok_next (int2_ok h)
  | popc _ => exact Res.ok_next (int1_ok h)
  | clz _ => exact Res.ok_next (int1_ok h)
  | brev _ => exact Res.ok_next (int1_ok h)
  | bfxu _ => exact Res.ok_next (int2_ok h)
  | bfxs _ => exact Res.ok_next (int2_ok h)
  | bfi _ => exact Res.ok_next (laneWord_ok h)
  | lea1 _ => exact Res.ok_next (int2_ok h)
  | lea2 _ => exact Res.ok_next (int2_ok h)
  | lea4 _ => exact Res.ok_next (int2_ok h)
  | lea8 _ => exact Res.ok_next (int2_ok h)
  | icmp _ => exact Res.ok_next (predWord_ok h)
  | sel _ => exact Res.ok_next (laneWord_ok h)
  | plopAnd _ => exact Res.ok_next (plop_ok h)
  | plopOr _ => exact Res.ok_next (plop_ok h)
  | plopXor _ => exact Res.ok_next (plop_ok h)
  | plopNot _ => exact Res.ok_next (plop_ok h)
  | mov _ => exact Res.ok_next (int1_ok h)
  | fadd _ => exact Res.ok_next (fp2_ok h)
  | fsub _ => exact Res.ok_next (fp2_ok h)
  | fmul _ => exact Res.ok_next (fp2_ok h)
  | ffma _ => exact Res.ok_next (fp3_ok h)
  | fmin _ => exact Res.ok_next (fp2_ok h)
  | fmax _ => exact Res.ok_next (fp2_ok h)
  | fabs _ => exact Res.ok_next (fp1_ok h)
  | fneg _ => exact Res.ok_next (fp1_ok h)
  | fcmp _ => exact Res.ok_next (predWord_ok h)
  | frcp _ => exact Res.ok_next (fp1_ok h)
  | frsq _ => exact Res.ok_next (fp1_ok h)
  | fsqrt _ => exact Res.ok_next (fp1_ok h)
  | fex2 _ => exact Res.ok_next (fp1_ok h)
  | flg2 _ => exact Res.ok_next (fp1_ok h)
  | fdiv _ => exact Res.ok_next (fp2_ok h)
  | fclass _ => exact Res.ok_next (fp1_ok h)
  | hadd2 _ => exact Res.ok_next (packed_ok h)
  | hmul2 _ => exact Res.ok_next (packed_ok h)
  | hfma2 _ => exact Res.ok_next (packed_ok h)
  | hmin2 _ => exact Res.ok_next (packed_ok h)
  | hmax2 _ => exact Res.ok_next (packed_ok h)
  | hdot2 _ => exact Res.ok_next (aluWord_ok h)
  | cvt _ => exact execCvt_ok h
  | bamax _ => exact execBamax_ok h
  | bscale _ => exact execBscale_ok h
  | bquant _ => exact execBquant_ok h
  | bpack _ => exact execBpack_ok h
  | bunpack _ => exact execBunpack_ok h
  | bdeq _ => exact execBdeq_ok h
  | shfl _ => exact Res.ok_ite (Res.ok_next (illegalRun_ok h)) (Res.ok_next (runLanes_ok h))
  | vote _ => exact Res.ok_next (collective_ok h)
  | gred _ => exact Res.ok_ite (Res.ok_next (illegalRun_ok h)) (Res.ok_next (collective_ok h))
  | gscan _ => exact Res.ok_ite (Res.ok_next (illegalRun_ok h)) (Res.ok_next (collective_ok h))
  | gbcast _ => exact Res.ok_ite (Res.ok_next (illegalRun_ok h)) (Res.ok_next (collective_ok h))
  | push _ => exact execPush_ok h
  | pull _ => exact Res.ok_next (runLanes_ok h)
  | ptry _ => exact Res.ok_next (runLanes_ok h)
  | ld _ => exact execLd_ok h
  | st _ => exact execSt_ok h
  | atom _ => exact execAtom_ok h
  | red _ => exact execRed_ok h
  | cas _ => exact execCas_ok h
  | pref _ => exact execPref_ok h
  | ldtag _ => exact execLdtag_ok h
  | fewait _ => exact Res.ok_ite (Res.ok_next (illegalRun_ok h)) (Res.ok_next (runLanes_ok h))
  | cbget _ => exact execCbget_ok h
  | cbput _ => exact execCbput_ok h
  | cbrel _ => exact execCbrel_ok h
  | jmpr _ => exact Res.ok_next (runLanes_ok h)
  | mmfeed _ => exact execMmfeed_ok h
  | mmread _ => exact execMmread_ok h
  | bra _ => exact Res.ok_next (runLanes_ok h)
  | call _ => exact Res.ok_next (runLanes_ok h)
  | ret _ => exact Res.ok_next (runLanes_ok h)
  | callr _ => exact Res.ok_next (runLanes_ok h)
  | join _ => exact Res.ok_next (collective_ok h)
  | exit _ => exact Res.ok_next (runLanes_ok h)
  | gcall _ => exact execGcall_ok h
  | bkpt _ => exact Res.ok_next (runLanes_ok h)
  | kaluAdd _ => exact Res.ok_next (kalu_ok h)
  | kaluSub _ => exact Res.ok_next (kalu_ok h)
  | kaluMul _ => exact Res.ok_next (kalu_ok h)
  | kaluMulhu _ => exact Res.ok_next (kalu_ok h)
  | kaluMulhs _ => exact Res.ok_next (kalu_ok h)
  | kaluAnd _ => exact Res.ok_next (kalu_ok h)
  | kaluOr _ => exact Res.ok_next (kalu_ok h)
  | kaluXor _ => exact Res.ok_next (kalu_ok h)
  | kaluShl _ => exact Res.ok_next (kalu_ok h)
  | kaluShr _ => exact Res.ok_next (kalu_ok h)
  | kaluSar _ => exact Res.ok_next (kalu_ok h)
  | kaluMin _ => exact Res.ok_next (kalu_ok h)
  | kaluMax _ => exact Res.ok_next (kalu_ok h)
  | kaluMinu _ => exact Res.ok_next (kalu_ok h)
  | kaluMaxu _ => exact Res.ok_next (kalu_ok h)
  | kaluSlt _ => exact Res.ok_next (kalu_ok h)
  | kaluSltu _ => exact Res.ok_next (kalu_ok h)
  | kaluiAddi _ => exact Res.ok_next (kalui_ok h)
  | kaluiAndi _ => exact Res.ok_next (kalui_ok h)
  | kaluiOri _ => exact Res.ok_next (kalui_ok h)
  | kaluiXori _ => exact Res.ok_next (kalui_ok h)
  | kaluiSlti _ => exact Res.ok_next (kalui_ok h)
  | kaluiSltiu _ => exact Res.ok_next (kalui_ok h)
  | kaluiShli _ => exact Res.ok_next (kalui_ok h)
  | kaluiShri _ => exact Res.ok_next (kalui_ok h)
  | kaluiSari _ => exact Res.ok_next (kalui_ok h)
  | klui _ => exact Res.ok_next (uniform_ok (fun _ h1 => advance_ok (setU_ok h1)) h)
  | kauipc _ => exact Res.ok_next (uniform_ok (fun _ h1 => advance_ok (setU_ok h1)) h)
  | kld _ => exact Res.ok_next (uGlob_ok h)
  | kst _ => exact Res.ok_next (uGlob_ok h)
  | kldc _ => exact execKldc_ok h
  | kread _ => exact execKread_ok h
  | kballot _ => exact Res.ok_next (uniform_ok (fun _ h1 => advance_ok (setU_ok h1)) h)
  | bru _ => exact Res.ok_next (uniform_ok (fun _ h1 => ok_ite (advanceTo_ok h1) (advance_ok h1)) h)
  | ju _ => exact Res.ok_next (uniform_ok (fun _ h1 => advanceTo_ok h1) h)
  | jur _ => exact Res.ok_next (uniform_ok (fun _ h1 => ok_ite (advanceTo_ok h1) (groupTrap_ok h1)) h)
  | loop _ => exact execLoop_ok h
  | mmconvJoin _ => exact execMmconvJoin_ok h
  | mmconvLeave _ => exact execMmconvLeave_ok h
  | mmpost _ => exact Res.ok_next (blockPost_ok h)
  | mmldb _ => exact Res.ok_next (blockPost_ok h)
  | mmwait _ => exact Res.ok_next (mxWait_ok h)
  | mmwaitTest _ => exact Res.ok_next (mxWait_ok h)
  | mmdrain _ => exact Res.ok_next (blockPost_ok h)
  | mmzero _ => exact Res.ok_next (mxPost_ok h)
  | mchkloc _ => exact execMchkloc_ok h
  | mchkfixAuto _ => exact Res.ok_next (mxPost_ok h)
  | mchkfixVal _ => exact Res.ok_next (mxPost_ok h)
  | mmretry _ => exact Res.ok_next (blockPost_ok h)
  | xpost _ => exact Res.ok_next (engPost_ok h)
  | xgath _ => exact Res.ok_next (engPost_ok h)
  | qfence _ => exact execQfence_ok h
  | qwait _ => exact Res.ok_next (engWait_ok h)
  | qwaitTest _ => exact Res.ok_next (engWait_ok h)
  | cpost _ => exact Res.ok_next (engPost_ok h)
  | barSync _ => exact execBarSync_ok h
  | barArr _ => exact execBarArr_ok h
  | acq _ => exact Res.ok_next (uniform_ok (fun _ h1 => advance_ok (uAcquire_ok h1)) h)
  | rel _ => exact Res.ok_next (uniform_ok (fun _ h1 => uRelease_ok (fun _ h2 => advance_ok h2) h1) h)
  | bind _ => exact execBind_ok h
  | unbind _ => exact Res.ok_next (uniform_ok (fun _ h1 => advance_ok (setU_ok (State.modContext_ok h1))) h)
  | fence _ => exact execFence_ok h
  | spawn _ => exact execSpawn_ok h
  | yield _ => exact Res.ok_next (uniform_ok (fun _ h1 => State.modGroup_ok (advance_ok h1)) h)
  | yieldSwap u => exact execYieldSwap_ok (u := u) h
  | part _ => exact Res.ok_next (uniform_ok (fun _ h1 => advance_ok (State.modGroup_ok h1)) h)
  | gangJoin _ => exact execGangJoin_ok h
  | gangDetach _ => exact execGangDetach_ok h
  | gangSync u => exact execGangSync_ok (u := u) h
  | gangQuery _ => exact Res.ok_next (uniform_ok (fun _ h1 => advance_ok (setU_ok h1)) h)
  | winmapSet _ => exact execWinmapSet_ok h
  | winmapAddr _ => exact Res.ok_next (uniform_ok (fun _ h1 => advance_ok (setU_ok h1)) h)
  | seed _ => exact execSeed_ok h
  | csrr _ => exact execCsrr_ok h
  | csrw _ => exact Res.ok_next (csrWord_ok (fun _ _ h1 => advance_ok (csrWrite_ok h1)) h)
  | csrwSet _ => exact Res.ok_next (csrWord_ok (fun _ _ h1 => advance_ok (csrWrite_ok h1)) h)
  | csrwClr _ => exact Res.ok_next (csrWord_ok (fun _ _ h1 => advance_ok (csrWrite_ok h1)) h)
  | capset _ => exact execCapset_ok h
  | trap _ => exact Res.ok_next (uniform_ok (fun _ h1 => groupTrap_ok h1) h)
  | rteReplay _ => exact Res.ok_next (rte_ok h)
  | rteSkip _ => exact Res.ok_next (rte_ok h)
  | rteKill _ => exact Res.ok_next (rte_ok h)
  | rteEnd _ => exact execRteEnd_ok h
  | scantStart _ => exact execScantStart_ok h
  | scantChunk _ => exact execScantChunk_ok h
  | scantCheck _ => exact execScantCheck_ok h
  | scantEnd _ => exact execScantEnd_ok h
  | cancel _ => exact execCancel_ok h
  | resultLands _ => exact execResultLands_ok h
  | waitDeadlockRelease _ => exact Res.ok_next (ok_ite (State.modGroup_ok h) h)
  | yieldExpiry _ => exact execYieldExpiry_ok h
  | homeAccess _ => exact Res.ok_next (performStore_ok h)
  | reductionFlush _ _ => exact execReductionFlush_ok h
  | reductionEntryAgeExpiry _ _ => exact execReductionEntryAgeExpiry_ok h
  | wcbDrain _ _ => exact execWcbDrain_ok h
  | wcbEntryAgeExpiry _ _ => exact execWcbEntryAgeExpiry_ok h
  | launchEntryAccept _ _ => exact execLaunchEntryAccept_ok h
  | teamDispatch _ => exact execTeamDispatch_ok h
  | teamPlacement _ _ => exact execTeamPlacement_ok h
  | loggiaLoad _ _ _ => exact Res.ok_next (ok_ite h (State.modCore_ok (State.modTeam_ok h)))
  | sliceExpiry _ => exact execSliceExpiry_ok h
  | teamSwap _ _ => exact execTeamSwap_ok h
  | faultWaitSwap _ => exact Res.ok_next (ok_ite h (ok_ite (askSwap_ok h) (ok_ite (swapOutUnit_ok h) h)))
  | imageSaveDone _ => exact execImageSaveDone_ok h
  | teamRestore _ _ => exact execTeamRestore_ok h
  | supervisorEntry _ => exact execSupervisorEntry_ok h
  | cancelDelivery _ => exact Res.ok_next (ok_ite h (takeTrap_ok (State.modGroup_ok (leaveSet_ok h))))
  | launchCounterComplete _ => exact execLaunchCounterComplete_ok h
  | matrixAccept _ _ => exact execMatrixAccept_ok h
  | reservationAging _ _ => exact execReservationAging_ok h
  | reservationGrant _ _ => exact execReservationGrant_ok h
  | tokenTake _ => exact Res.ok_next (ok_ite h (State.modDie_ok (State.modMx_ok h)))
  | burstStart _ => exact Res.ok_next (ok_ite h (State.modDie_ok (State.modMx_ok h)))
  | burstEnd _ => exact Res.ok_next (ok_ite h (State.modDie_ok (State.modMx_ok h)))
  | feedFetchLands _ _ => exact execFeedFetchLands_ok h
  | rowGroupStream _ => exact execRowGroupStream_ok h
  | passComplete _ => exact execPassComplete_ok h
  | bLoadComplete _ => exact execBLoadComplete_ok h
  | tileZeroComplete _ => exact execTileZeroComplete_ok h
  | retryRestoreComplete _ => exact execRetryRestoreComplete_ok h
  | elementFixComplete _ => exact execElementFixComplete_ok h
  | drainCheckEnd _ => exact execDrainCheckEnd_ok h
  | drainCommit _ => exact execDrainCommit_ok h
  | engineAccept _ => exact execEngineAccept_ok h
  | transferComplete _ => exact execTransferComplete_ok h
  | collectiveComplete _ => exact execCollectiveComplete_ok h
  | transactionTimeout _ _ => exact execTransactionTimeout_ok h
  | bankModeChange _ _ => exact execBankModeChange_ok h
  | teardown _ => exact Res.ok_next (ok_ite h (State.modContext_ok (endClaims_ok (dropTlb_ok h))))
  | coreRemoval _ => exact execCoreRemoval_ok h
  | scanChunkComplete _ => exact execScanChunkComplete_ok h
  | scanChunkAbort _ => exact Res.ok_next (ok_ite h (chunkResult_ok (scanFlush_ok (State.modCore_ok h))))
  | rollback _ => exact Res.ok_next (launchError_ok h)
  | rollbackRestore _ => exact execRollbackRestore_ok h
  | microcodeSwitch _ => exact execMicrocodeSwitch_ok h
  | illegalEncoding _ => exact Res.ok_next (ok_ite (illegalU_ok h) (illegalRun_ok h))
  | collectivePacketArrival _ _ _ _ _ _ _ => exact execCollectivePacketArrival_ok h
  | multicastDelivery _ _ _ _ _ _ => exact execMulticastDelivery_ok h
  | go _ _ => exact Res.ok_next (message_ok (fun _ h1 => goGang_ok h1) h)
  | release _ _ => exact execRelease_ok h
  | pageWalk _ _ _ _ => exact Res.ok_next (State.trans_ok h)
  | pageRequestResponse _ _ _ => exact execPageRequestResponse_ok h
  | atsInvalidation _ _ _ => exact Res.ok_next (invalidate_ok h)
  | tlbInvalidation _ _ _ => exact Res.ok_next (invalidate_ok h)
  | fabricRequestArrival _ _ _ _ _ _ _ _ _ _ _ => exact execFabricRequestArrival_ok h
  | fabricResponseArrival _ _ _ _ => exact execFabricResponseArrival_ok h
  | relayForward _ _ _ => exact Res.ok_next (ok_ite h h)
  | linkStateChange _ _ => exact Res.ok_next h
  | accept _ _ _ _ _ _ => exact execAccept_ok h
  | ready _ _ _ => exact Res.ok_next (message_ok (fun _ h1 => checkGo_ok (State.ok_with h1)) h)
  | gangSwapRequest _ _ => exact Res.ok_next (message_ok (fun _ h1 => doSwap_ok (noteSwap_ok h1)) h)
  | gangCancelMessage _ => exact execGangCancelMessage_ok h
  | memberDepartedReport _ _ => exact execMemberDepartedReport_ok h
  | hostMemAccess _ _ _ _ => exact Res.ok_next (ok_ite h (hostAccess_ok h))
  | backInvalidateResponse _ _ => exact Res.ok_next (homeWrites_ok _ _ h)
  | hostSnoop _ => exact execHostSnoop_ok h
  | gcallReply _ _ => exact Res.ok_next (ok_ite h (readReply_ok h))
  | queueProducerWrite _ _ _ => exact Res.ok_next (State.modQueue_ok h)
  | queueEnable _ _ => exact Res.ok_next (State.modQueue_ok h)
  | cancelRegisterWrite _ _ => exact Res.ok_next (ok_ite (cancel_ok h) h)
  | contextDescriptorWrite _ _ => exact execContextDescriptorWrite_ok h
  | checkpointDeviceToHost _ => exact Res.ok_next (ok_ite (ckptGo_ok h) h)
  | checkpointHostToDevice _ _ _ => exact Res.ok_next (ok_ite (ckptGo_ok h) h)
  | checkpointTransferDone => exact execCheckpointTransferDone_ok h
  | bankmodeWrite _ _ => exact Res.ok_next (bankmodeSet_ok h)
  | loggiaEvict _ => exact Res.ok_next (evictLoggia_ok h)
  | preemptreqWrite _ => exact Res.ok_next (State.modCore_ok h)
  | trapgrpWrite _ _ => exact Res.ok_next (trapgrpSet_ok h)
  | regvalWrite _ _ => exact Res.ok_next (regvalSet_ok h)
  | registerWrite _ _ => exact execRegisterWrite_ok h
  | mailboxRemoveCore _ _ => exact Res.ok_next (requestRemoval_ok h)
  | mailboxUndefinedRequest _ _ => exact Res.ok_next (ok_ite h (logged_ok h))
  | hbmUncorrectableError _ _ _ => exact Res.ok_next (setStored_ok _ _ _ h)
  | sramUncorrectableError _ => exact Res.ok_next (launchError_ok h)
  | warmReset => exact Res.ok_next (warmResetBy_ok h)
  | powerOn _ => exact execPowerOn_ok
  | thermalThrottle _ => exact Res.ok_next (State.modDie_ok h)
  | thermalRecovery _ => exact Res.ok_next (State.modDie_ok h)
  | thermalShutdown _ => exact Res.ok_next (State.ok_with safeState_ok)
  | getState => exact Res.ok_next (reply_ok h)
  | getFailrec => exact Res.ok_next (reply_ok h)
  | getCoremap => exact Res.ok_next (reply_ok h)
  | getLog => exact Res.ok_next (reply_ok h)
  | stageImage _ => exact Res.ok_next (ok_ite (reply_ok h) (reply_ok h))
  | stageMicrocode _ => exact Res.ok_next (live_ok (fun _ h1 => ok_ite (reply_ok (State.ok_with h1)) (reply_ok h1)) h)
  | recal _ _ => exact execRecal_ok h
  | recalComplete => exact execRecalComplete_ok h
  | setTokens _ _ _ => exact execSetTokens_ok h
  | routeTableLoad _ _ => exact Res.ok_next (loadRoute_ok h)
  | multicastEntryLoad _ _ => exact Res.ok_next (loadMcast_ok h)
  | treeEntryLoad _ _ => exact Res.ok_next (loadTree_ok h)
  | inboundWindowLoad _ _ _ => exact Res.ok_next (loadWindow_ok h)
  | getVersion => exact Res.ok_next (spdm_ok h)
  | getCapabilities => exact Res.ok_next (spdm_ok h)
  | negotiateAlgorithms _ _ => exact Res.ok_next (spdm_ok h)
  | getDigests => exact Res.ok_next (spdm_ok h)
  | getCertificate _ => exact Res.ok_next (ok_ite (spdm_ok h) (spdmError_ok h))
  | challenge _ _ => exact Res.ok_next (ok_ite (spdmError_ok h) (signed_ok (fun _ _ h1 => spdm_ok h1) h))
  | getMeasurements _ _ => exact execGetMeasurements_ok h
  | spdmUnsupportedRequest _ => exact execSpdmUnsupportedRequest_ok h
  | cxlDataResponse _ _ _ => exact execCxlDataResponse_ok h
  | gangSwapReply _ _ _ => exact Res.ok_next (message_ok (fun _ h1 => swapReply_ok h1) h)

theorem progress_ok {e t} (h : s.Ok) (hp : progress s e = some t) : t.Ok := by
  unfold progress at hp
  split at hp
  next u hu =>
    split at hp
    · cases hp
    · cases hp; exact exec_ok e h _ hu
  · cases hp

theorem due_ok {t} (h : s.Ok) (hd : due s = some t) : t.Ok := by
  unfold due at hd
  split at hd
  · obtain ⟨e, _, hp⟩ := List.exists_of_findSome?_eq_some hd
    exact progress_ok h hp
  · cases hd; exact deliverAll_ok h

theorem step_ok (h : s.Ok) : Res.Ok (step s) := by
  unfold step
  split
  · exact Res.ok_ite (Res.ok_next h) (exec_ok _ h)
  split
  · exact fun _ e => nomatch e
  split
  · refine Res.ok_ite ?_ (Res.ok_next h)
    split
    next e => exact exec_ok _ (ok_fst e (issueOne_ok h))
    next e => exact Res.ok_next (ok_fst e (issueOne_ok h))
  split
  next hd => exact Res.ok_next (due_ok h hd)
  · exact Res.ok_next (nextCycle_ok (settle_ok h))

/-- Settles O58: `step` runs an instruction, an issue, the events that are due or the passing of a cycle, and each keeps the form. -/
theorem everyStepKeepsMemoryCanonical : Obligations.EveryStepKeepsMemoryCanonical :=
  fun _ t h e => step_ok h t e

end Sys2Proof.Machine
end

section
/-! O20: prefetches, tags, full-register waits and FIFO words (R224, R277 to R281). -/

namespace Sys2Proof.Machine

/-! ## What accesses of memory leave to the lanes and the clusters -/

/-- What a change of a die keeps, it keeps in every die. -/
theorem State.modDie_keeps {α : Type} (π : Die → α) {s : State} {k : Nat} {f : Die → Die} (h : ∀ x, π (f x) = π x) (d : Nat) :
    π ((s.modDie k f).die d) = π (s.die d) := by
  by_cases hd : d = k
  · subst hd
    rw [s.die_modDie_self, h]
  · rw [State.die, State.modDie, AMap.get_set_ne _ _ _ hd, State.die]

/-- What a change of a cluster keeps, it keeps in every cluster. -/
theorem State.modCluster_keeps {α : Type} (π : Cluster → α) {s : State} {k : Nat} {f : Cluster → Cluster} (h : ∀ x, π (f x) = π x) (c : Nat) :
    π ((s.modCluster k f).cluster c) = π (s.cluster c) := by
  by_cases hc : c = k
  · subst hc
    rw [s.cluster_modCluster_self, h]
  · rw [State.cluster, State.modCluster, AMap.get_set_ne _ _ _ hc, State.cluster]

/-- Groups, the issuing group's number, the cores, the clusters and the core maps are as before. -/
structure LanesKept (s t : State) : Prop where
  groups : t.groups = s.groups
  cur : t.cur = s.cur
  cores : t.cores = s.cores
  clusters : t.clusters = s.clusters
  map : ∀ d, (t.die d).map = (s.die d).map
  busy : ∀ d, (t.die d).boxBusy = (s.die d).boxBusy

/-- Nothing but fields that the lanes and the clusters do not stand in is written. -/
theorem LanesKept.of_fields {s t : State} (hg : t.groups = s.groups) (hc : t.cur = s.cur) (hk : t.cores = s.cores)
    (hl : t.clusters = s.clusters) (hd : t.dies = s.dies) : LanesKept s t :=
  ⟨hg, hc, hk, hl, fun d => by rw [State.die, State.die, hd], fun d => by rw [State.die, State.die, hd]⟩

theorem LanesKept.refl (s : State) : LanesKept s s := .of_fields rfl rfl rfl rfl rfl

theorem LanesKept.trans {s t u : State} (h : LanesKept s t) (h' : LanesKept t u) : LanesKept s u :=
  ⟨h'.groups.trans h.groups, h'.cur.trans h.cur, h'.cores.trans h.cores, h'.clusters.trans h.clusters, fun d => (h'.map d).trans (h.map d),
    fun d => (h'.busy d).trans (h.busy d)⟩

theorem LanesKept.foldl {α : Type} {f : State → α → State} (h : ∀ s x, LanesKept s (f s x)) (l : List α) (s : State) :
    LanesKept s (l.foldl f s) := by
  induction l generalizing s with
  | nil => exact .refl s
  | cons x r ih => exact (h s x).trans (ih _)

theorem LanesKept.ite {c : Prop} [Decidable c] {s t u : State} (h : LanesKept s t) (h' : LanesKept s u) :
    LanesKept s (if c then t else u : State) := by split <;> assumption

theorem LanesKept.group {s t : State} (h : LanesKept s t) (k : Nat) : t.group k = s.group k := congrArg (fun gs => gs.getD k {}) h.groups

theorem LanesKept.core {s t : State} (h : LanesKept s t) (c : Nat) : t.core c = s.core c := by
  rw [State.core, State.core, h.cores]

theorem lanesKept_tick (s : State) : LanesKept s s.tick := .of_fields rfl rfl rfl rfl rfl

theorem lanesKept_sendSnoop (s : State) (a : Nat) : LanesKept s (sendSnoop s a) := .ite (.refl s) (.of_fields rfl rfl rfl rfl rfl)

theorem lanesKept_expose (s : State) (who : Option Nat) (a : Nat) : LanesKept s (expose s who a) := .of_fields rfl rfl rfl rfl rfl

theorem lanesKept_snapshot (s : State) (who : Option Nat) (a : Nat) : LanesKept s (snapshot s who a) := by
  unfold snapshot
  split
  · exact .refl s
  · exact .ite (.refl s) (.ite (.of_fields rfl rfl rfl rfl rfl) (.of_fields rfl rfl rfl rfl rfl))

theorem lanesKept_homeWrite (s : State) (who : Option Nat) (a : Nat) (bs : List (Nat × Byte)) : LanesKept s (homeWrite s who a bs) := by
  have h := (lanesKept_expose s who a).trans (lanesKept_snapshot (expose s who a) who a)
  simp only [homeWrite]
  split
  · exact h.trans (.of_fields rfl rfl rfl rfl rfl)
  · exact h.trans (.of_fields rfl rfl rfl rfl rfl)

theorem lanesKept_dropLines (s : State) (p : CacheLine → Bool) : LanesKept s (dropLines s p) := .of_fields rfl rfl rfl rfl rfl

theorem lanesKept_dropAnswers (s : State) (r : Reader) : LanesKept s (dropAnswers s r) := .of_fields rfl rfl rfl rfl rfl

theorem lanesKept_tlbPut (s : State) (e : Tlb) : LanesKept s (tlbPut s e) := .of_fields rfl rfl rfl rfl rfl

theorem lanesKept_walked (s : State) (r : Reader) (die : Nat) (path : List WalkEntry) :
    LanesKept s (walksPut (dropAnswers s r) die path) := .of_fields rfl rfl rfl rfl rfl

theorem lanesKept_putOwned (s : State) (a : Nat) (bs : List Byte) : LanesKept s (putOwned s a bs) := by
  unfold putOwned
  split
  · exact .refl s
  · exact .of_fields rfl rfl rfl rfl rfl

theorem lanesKept_askHost (s : State) (r : Reader) (core gid line : Nat) (own : Bool) : LanesKept s (askHost s r core gid line own) :=
  .ite (.refl s) (.of_fields rfl rfl rfl rfl rfl)

theorem lanesKept_missPut (s : State) (places : List TlbAt) (ctx vpn kind : Nat) (w p : Bool) :
    LanesKept s (missPut s places ctx vpn kind w p) :=
  .foldl (fun s p => by split <;> exact .of_fields rfl rfl rfl rfl rfl) places s

theorem lanesKept_lacking (s : State) (ctx va kind : Nat) (c : Cause) (f : Bool) (who : Nat) :
    LanesKept s (lacking s ctx va kind c f who).1 := by
  simp only [lacking]
  split
  · exact .refl s
  split
  · exact .refl s
  split
  · exact .of_fields rfl rfl rfl rfl rfl
  · exact .refl s

theorem lanesKept_setEntryBits (s : State) (r : Reader) (t : Target) (bits : Nat) : LanesKept s (setEntryBits s r t bits).1 := by
  unfold setEntryBits
  lift_lets
  intro old
  clear_value old
  split
  · exact .refl s
  cases t with
  | dpa a =>
    dsimp only
    split
    · exact lanesKept_sendSnoop s a
    · exact lanesKept_homeWrite ..
  | host a =>
    dsimp only
    split
    · exact lanesKept_putOwned ..
    · exact lanesKept_askHost ..
  | peer d o => exact .refl s
  | mcast g o => exact .refl s

theorem lanesKept_translate (s : State) (places : List TlbAt) (die ctx va kind : Nat) (f : Bool) (who : Nat) :
    LanesKept s (translate s places die ctx va kind f who).1 := by
  have walkEnd : ∀ x : State × Trans, LanesKept s x.1 →
      LanesKept s (match x.2 with
        | .hold w => (missPut x.1 places ctx (va / 4096) kind true false, .hold w)
        | .wait c v => (missPut x.1 places ctx (va / 4096) kind false true, .wait c v)
        | t => (missDone x.1 die ctx (va / 4096), t) : State × Trans).1 := fun x hx => by
    split
    · exact hx.trans (lanesKept_missPut ..)
    · exact hx.trans (lanesKept_missPut ..)
    · exact hx.trans (.of_fields rfl rfl rfl rfl rfl)
  simp only [translate]
  split
  · exact .refl s
  split
  · exact .refl s
  split
  · exact .refl s
  split
  · exact lanesKept_missPut ..
  refine walkEnd _ ?_
  generalize hu : (if (s.missAt { level := 2, idx := die } ctx (va / 4096)).any Miss.walking then s
      else s.modDie die fun x => { x with walkTurn := clusterOf (placesCore places) % 24 }) = u
  have turn : ∀ d, LanesKept s (s.modDie die fun x => { x with walkTurn := d }) := fun d =>
    ⟨rfl, rfl, rfl, rfl, State.modDie_keeps Die.map fun _ => rfl, State.modDie_keeps Die.boxBusy fun _ => rfl⟩
  have kept : LanesKept s u := hu ▸ .ite (.refl s) (turn _)
  split
  · exact kept.trans (lanesKept_sendSnoop ..)
  · exact kept.trans (lanesKept_askHost ..)
  · exact kept.trans (.of_fields rfl rfl rfl rfl rfl)
  · exact kept.trans (.of_fields rfl rfl rfl rfl rfl)
  · exact (kept.trans (lanesKept_dropAnswers ..)).trans (lanesKept_lacking ..)
  · split
    · exact (kept.trans (lanesKept_dropAnswers ..)).trans (lanesKept_lacking ..)
    split
    · next v w e => exact kept.trans (e ▸ lanesKept_setEntryBits u _ _ _ : LanesKept u (v, some w).1)
    · next v e =>
      refine (kept.trans (e ▸ lanesKept_setEntryBits u _ _ _ : LanesKept u (v, none).1)).trans ?_
      exact (lanesKept_walked v _ die _).trans (.foldl (fun s p => lanesKept_tlbPut s _) places _)

theorem lanesKept_performStore (s : State) (k : Nat) : LanesKept s (performStore s k) := by
  simp only [performStore]
  split
  · exact .refl s
  split
  · exact .refl s
  split
  · exact lanesKept_sendSnoop ..
  · refine .trans ?_ (lanesKept_dropLines ..)
    refine .trans ?_ (lanesKept_homeWrite ..)
    exact .of_fields rfl rfl rfl rfl rfl

theorem lanesKept_performStores (n : Nat) (s : State) (p : Store → Bool) : LanesKept s (performStores n s p) := by
  induction n generalizing s with
  | zero => exact .refl s
  | succ n ih =>
    simp only [performStores]
    split
    · exact .refl s
    · exact (lanesKept_performStore s _).trans (ih _)

theorem lanesKept_keepLine (s : State) (cap : Nat) (c : CacheLine) : LanesKept s (keepLine s cap c) := .ite (.refl s) (.of_fields rfl rfl rfl rfl rfl)

theorem lanesKept_trans (s : State) (core ctx va kind : Nat) (f : Bool) : LanesKept s (s.trans core ctx va kind f).1 := lanesKept_translate ..

theorem lanesKept_prefetch (s : State) (g : Group) (va level hint : Nat) (cst : Bool) : LanesKept s (prefetch s g va level hint cst) := by
  have found := lanesKept_trans s g.core (s.ctxOf g) va 0 true
  unfold prefetch
  split
  next t a e =>
    rw [e] at found
    have performed := found.trans (lanesKept_performStores t.stores.length t fun st => st.core == g.core && lineOf st.dpa == lineOf a)
    refine .ite found (.ite performed ?_)
    exact (performed.trans (.ite (lanesKept_dropLines ..) (.refl _))).trans ((lanesKept_expose ..).trans (lanesKept_keepLine ..))
  next t x _ e =>
    rw [e] at found
    exact found

/-! ## Prefetch and tag words of one lane -/

/-- One lane's memory word without order that goes past its word: the machine is as the access leaves it. -/
theorem memWord_one_past {s s' : State} {o : LaneOp} {i space scope aop hint disp : Nat} {dst : Lane → List Slot}
    {f : Nat → State → Group → Nat → Lane → Int → State × LaneRes} (h : Claims.OneAccess s o i space scope 0 aop hint disp)
    (hf : f (Claims.opOf s i) s.tick s.me i (s.me.lane i) (effAddr s.me (s.me.lane i) o.a space disp) = (s', { lane := s.me.lane i }))
    (kept : LanesKept s s') : memWord s o scope 0 space disp dst f = s'.laneDone i (Lane.past 8) := by
  obtain ⟨-, hrun, guard, room, short, full, drained, wcb⟩ := h
  have plainOrder : Claims.OneAccess s { o with x := .mem space scope 0 0 hint disp } i space scope 0 0 hint disp :=
    ⟨rfl, hrun, guard, room, short, full, drained, wcb⟩
  have me : s'.group s.cur = s.me := kept.group _
  refine (memWord_one plainOrder hf rfl kept.groups kept.cur (by rw [kept.core])).trans ?_
  rw [State.laneDone, kept.cur]
  refine s'.modGroup_congr s.cur ?_
  rw [me, s.me.modLane_congr i (settle_past 8 _ _ _ rfl)]
  simp only [BitVec.or_zero]
  rfl

theorem exec_pref_glob {s : State} {o : LaneOp} {i scope aop hint disp : Nat} (h : Claims.OneAccess s o i 0 scope 0 aop hint disp) :
    exec (.pref o) s = .next ((prefetch s.tick s.me (wrap 64 (effAddr s.me (s.me.lane i) o.a 0 disp)) (o.d % 4) hint false).laneDone i
      (Lane.past 8)) := by
  show execPref o s = _
  simp only [execPref, h.1]
  exact congrArg Host.Outcome.next (memWord_one_past h rfl ((lanesKept_tick s).trans (lanesKept_prefetch ..)))

theorem exec_pref_cst {s : State} {o : LaneOp} {i space scope aop hint disp : Nat} (h : Claims.OneAccess s o i space scope 0 aop hint disp)
    (hs : space ≠ 0) (hu : s.me.priv = .user) :
    let ea := effAddr s.me (s.me.lane i) o.a space disp
    let e := (s.launchOf s.me).e
    exec (.pref o) s = .next ((if 0 ≤ ea ∧ ea < e.cs then prefetch s.tick s.me (e.cb + ea.toNat) (o.d % 4) hint true else s.tick).laneDone i
      (Lane.past 8)) := by
  intro ea e
  show execPref o s = _
  simp only [execPref, h.1]
  refine congrArg Host.Outcome.next (memWord_one_past h ?_ (.ite ((lanesKept_tick s).trans (lanesKept_prefetch ..)) (lanesKept_tick s)))
  have user : s.me.priv ≠ .supervisor := by rw [hu]; exact Priv.noConfusion
  rw [if_neg hs]
  by_cases inside : 0 ≤ ea ∧ ea < e.cs
  · have out : ¬(ea < 0 ∨ (e.cs : Int) ≤ ea ∨ s.me.priv = .supervisor) := by
      rintro (h | h | h)
      · omega
      · omega
      · exact user h
    rw [if_pos inside]
    exact if_neg out
  · have out : ea < 0 ∨ (e.cs : Int) ≤ ea ∨ s.me.priv = .supervisor := by omega
    rw [if_neg inside]
    exact if_pos out

/-- A run of one lane. -/
theorem eachLane_one {s : State} {i : Nat} (hrun : s.myRun = [i]) (f : Nat → Lane → Lane) : s.eachLane f = s.laneDone i (f i) := by
  refine s.modGroup_congr s.cur ?_
  have lanes : ((s.group s.cur).lanes.mapIdx fun j l => if s.myRun.elem j then f j l else l) = (s.group s.cur).lanes.modify i (f i) := by
    rw [hrun]
    refine List.ext_getElem (by simp) fun j hj _ => ?_
    rw [List.getElem_mapIdx, List.getElem_modify]
    by_cases hij : i = j
    · subst hij; simp
    · simp [hij, Ne.symm hij]
  rw [lanes, hrun]
  simp only [List.foldl_cons, List.foldl_nil, BitVec.or_zero]
  rfl

/-- A word of one lane that goes past it and leaves the machine alone. -/
theorem runLanes_one_past {s : State} {i len : Nat} {part : Group → Nat → Lane → LaneRes} (f : Lane → Lane) (hrun : s.myRun = [i])
    (hp : part s.me i (s.me.lane i) = { lane := f (s.me.lane i) }) (hpc : (f (s.me.lane i)).pc = (s.me.lane i).pc) :
    runLanes s len part = s.laneDone i fun l => (f l).past len := by
  have plain : ∀ j ∈ s.myRun, (part s.me j (s.me.lane j)).plain = true := fun j hj => by
    rw [hrun, List.mem_singleton] at hj
    rw [hj, hp]
    rfl
  rw [runLanes_eachLane s len part plain, ← eachLane_one hrun fun _ l => (f l).past len]
  refine s.eachLane_congr (fun j hj => ?_) fun j hj => ?_
  · rw [hrun, List.mem_singleton] at hj
    rw [hj, hp, settle_past _ _ _ _ hpc]
  · rw [hrun, List.mem_singleton] at hj
    rw [hj, hp]

/-! ### `ldtag` (R278) -/

/-- The tag of a line of device memory, of a page of the host, and of a page of another device (R278), where the core has nothing
buffered or awaited. -/
theorem ldtagAt_dpa {s : State} {l : Lane} {va a : Nat} {tso : Bool} (hd : s.Drained)
    (ht : s.tick.trans s.me.core (s.ctxOf s.me) va 0 l.failed.isSome = (s.tick, .ok (.dpa a) tso)) (hs : s.snoopNeeded a false = false) :
    ldtagAt s.tick s.me l va = (expose s.tick (some (s.teamOf s.me).launch) a, .val (s.lineTag a + 16 * tagSectors (s.lineTag a))) := by
  obtain ⟨-, stores, red, -⟩ := hd
  have noRed : (s.tick.core s.me.core).red = [] := red
  have others : ∀ st ∈ s.tick.stores, (st.core == s.me.core && lineOf st.dpa == lineOf a) = false := fun st h => by simp [stores st h]
  have snoop : s.tick.snoopNeeded a false = false := hs
  have any : s.tick.stores.any (fun st => st.core == s.me.core && lineOf st.dpa == lineOf a) = false :=
    List.any_eq_false.2 fun st h => by rw [others st h]; exact Bool.false_ne_true
  unfold ldtagAt
  rw [show s.tick.ctxOf s.me = s.ctxOf s.me from rfl, ht]
  simp only [flushOverlap, noRed, List.filter_nil, List.foldl_nil, performStores_of_none _ others, snoop, any, State.redStands, List.find?_nil]
  rfl

theorem ldtagAt_host {s : State} {l : Lane} {va a : Nat} {tso : Bool} (hd : s.Drained)
    (ht : s.tick.trans s.me.core (s.ctxOf s.me) va 0 l.failed.isSome = (s.tick, .ok (.host a) tso)) :
    ldtagAt s.tick s.me l va = (s.tick, .val 64) := by
  obtain ⟨-, -, red, -⟩ := hd
  have noRed : (s.tick.core s.me.core).red = [] := red
  unfold ldtagAt
  rw [show s.tick.ctxOf s.me = s.ctxOf s.me from rfl, ht]
  simp only [flushOverlap, noRed, List.filter_nil, List.foldl_nil]

theorem ldtagAt_peer {s : State} {l : Lane} {va d a : Nat} {tso : Bool} (hd : s.Drained)
    (ht : s.tick.trans s.me.core (s.ctxOf s.me) va 0 l.failed.isSome = (s.tick, .ok (.peer d a) tso)) (hu : s.me.priv = .user)
    (hc : (s.peerCap (s.teamOf s.me).launch d true false).isSome = true) : ldtagAt s.tick s.me l va = (s.tick, .val 64) := by
  obtain ⟨-, -, red, wcb, -, fab⟩ := hd
  have noRed : (s.tick.core s.me.core).red = [] := red
  have noWcb : ∀ p, drainWcb s.tick s.me.core p = s.tick := fun p => drainWcb_of_none fun e he => by
    rw [show (s.tick.core s.me.core).wcb = [] from wcb] at he
    cases he
  have may : (s.tick.peerCap (s.tick.teamOf s.me).launch d true false).isNone = false := by
    rw [Option.isNone_eq_false_iff]; exact hc
  have quiet : s.tick.fabReqs.any (fun r => r.core == s.me.core && r.kind == 1 && r.peer == d && lineOf r.off == lineOf a) = false :=
    List.any_eq_false.2 fun r h => by simp [fab r h]
  unfold ldtagAt
  rw [show s.tick.ctxOf s.me = s.ctxOf s.me from rfl, ht]
  simp only [flushOverlap, noRed, List.filter_nil, List.foldl_nil, may, hu, noWcb, quiet]
  rfl

/-- `ldtag` of one lane whose tag is there writes it. -/
theorem exec_ldtag_of_val {s t : State} {o : LaneOp} {i scope aop hint disp v : Nat} (h : Claims.OneAccess s o i 0 scope 0 aop hint disp)
    (hd : (s.me.lane i).gaps i o.d false = []) (kept : LanesKept s t) (pc : t.curPc = s.curPc)
    (hv : ldtagAt s.tick s.me (s.me.lane i) (wrap 64 (effAddr s.me (s.me.lane i) o.a 0 disp)) = (t, .val v)) :
    exec (.ldtag o) s = .next (t.laneDone i fun l => (l.wrOp s.me.depth o.d false v).past 8) := by
  obtain ⟨hx, hrun, guard, room, short, ha, -, -⟩ := h
  have full : (s.me.lane i).gaps i o.a true ++ (s.me.lane i).gaps i o.d false = [] := by
    rw [hd, show (s.me.lane i).gaps i o.a true = [] from ha]
    rfl
  have ready : (((s.group s.cur).run s.curPc).filter fun i => ((s.group s.cur).lane i).guard o &&
      (((s.group s.cur).lane i).gaps i o.a true ++ ((s.group s.cur).lane i).gaps i o.d false).isEmpty) = [i] := by
    rw [show (s.group s.cur).run s.curPc = [i] from hrun, List.filter_singleton, guard, full]
    rfl
  have run : t.myRun = [i] := by rw [State.myRun, State.me, kept.cur, kept.group, pc]; exact hrun
  have me : t.me = s.me := by rw [State.me, kept.cur, kept.group]
  show execLdtag o s = _
  simp only [execLdtag, hx, memIssue]
  refine congrArg Host.Outcome.next ((within64_of_room _ room).trans ?_)
  simp only [short, Bool.false_eq_true, if_false, beq_self_eq_true, ready, List.foldl_cons, List.foldl_nil, List.nil_append]
  rw [hv]
  simp only [List.findSome?_cons, List.findSome?_nil]
  refine runLanes_one_past (fun l => l.wrOp s.me.depth o.d false v) run ?_ (Lane.wrOp_pc ..)
  rw [me, guard, full]
  simp [AMap.find]

/-- `fewait` of registers that exist: a true lane waits while one of them is empty (R279). -/
theorem exec_fewait {s : State} {o : LaneOp} (h : o.a + o.b < 64) : exec (.fewait o) s = .next (s.eachLane fun i l =>
    if l.guard o = false ∨ l.regsGaps i o.a (o.b + 1) = [] then l.past 4 else l.blockedOn (.regs (l.regsGaps i o.a (o.b + 1)))) := by
  show execFewait o s = _
  rw [execFewait, if_neg (by omega : ¬64 < o.a + o.b + 1)]
  have part : ∀ i (l : Lane), (if !l.guard o then { lane := l } else gated [] (l.regsGaps i o.a (o.b + 1)) l fun _ => { lane := l } : LaneRes) =
      if l.guard o = false ∨ l.regsGaps i o.a (o.b + 1) = [] then { lane := l }
      else { lane := l, out := .block (.regs (l.regsGaps i o.a (o.b + 1))) } := fun i l => by
    cases l.guard o with
    | false => rfl
    | true =>
      rw [gated_cases]
      by_cases full : l.regsGaps i o.a (o.b + 1) = [] <;> simp [full]
  simp only [part]
  rw [runLanes_eachLane]
  · exact congrArg Host.Outcome.next (s.eachLane_congr (fun i _ => by split <;> rfl) fun i _ => by split <;> rfl)
  · intro i _
    split <;> rfl

theorem prefetchTagAndFullWordsGoOn : Claims.PrefetchTagAndFullWordsGoOn := by
  intro s o i space scope aop hint disp
  refine ⟨fun h => ⟨exec_pref_glob h, fun a tso t hd ht full => ⟨fun e hs => ?_, fun d e => ?_⟩⟩, fun h hs hu => exec_pref_cst h hs hu,
    exec_fewait, fun h => if_pos (by omega)⟩
  · subst e
    exact exec_ldtag_of_val h full ((lanesKept_tick s).trans (lanesKept_expose ..)) rfl (ldtagAt_dpa hd ht hs)
  · refine exec_ldtag_of_val h full (lanesKept_tick s) rfl ?_
    rcases e with rfl | ⟨rfl, hu, hc⟩
    · exact ldtagAt_host hd ht
    · exact ldtagAt_peer hd ht hu hc

/-! ## A run whose lanes also bring values -/

/-- The state with values on their way to registers. -/
def State.bringing (s : State) (l : List Landing) : State := { s with landing := s.landing ++ l }

theorem State.modGroup_bringing (s : State) (k : Nat) (f : Group → Group) (l : List Landing) :
    (s.modGroup k f).bringing l = (s.bringing l).modGroup k f := rfl

theorem State.bringing_bringing (s : State) (l l' : List Landing) : (s.bringing l).bringing l' = s.bringing (l ++ l') := by
  simp only [State.bringing, List.append_assoc]

theorem State.bringing_nil (s : State) : s.bringing [] = s := by rw [State.bringing, List.append_nil]

/-- The issuing group after one lane's part. -/
def ranLane (len i : Nat) (r : LaneRes) (g : Group) : Group :=
  { g.modLane i (fun l => settleLane len l r) with flags := g.flags ||| BitVec.ofNat 64 r.fl }

theorem ranGroup_cons (len i : Nat) (r : LaneRes) (rs : List (Nat × LaneRes)) (g : Group) :
    ranGroup len ((i, r) :: rs) g = ranGroup len rs (ranLane len i r g) := by
  have lanes : ∀ (g : Group) (fl : UWord), rs.foldl (fun g x => g.modLane x.1 fun l => settleLane len l x.2) { g with flags := fl } =
      { rs.foldl (fun g x => g.modLane x.1 fun l => settleLane len l x.2) g with flags := fl } := by
    induction rs with
    | nil => exact fun _ _ => rfl
    | cons x rs ih => exact fun g fl => ih (g.modLane x.1 fun l => settleLane len l x.2) fl
  let fl : UWord := rs.foldl (fun fl (x : Nat × LaneRes) => fl ||| BitVec.ofNat 64 x.2.fl) (g.flags ||| BitVec.ofNat 64 r.fl)
  exact congrArg (fun x : Group => { x with flags := fl }) (lanes (g.modLane i fun l => settleLane len l r) (g.flags ||| BitVec.ofNat 64 r.fl)).symm

theorem State.modGroup_ranGroup_nil (s : State) (k len : Nat) : s.modGroup k (ranGroup len []) = s := by
  have same : s.groups.modify k (ranGroup len []) = s.groups := List.modify_id ..
  rw [State.modGroup, same]

/-- One lane's turn in a run whose lanes act on the machine. -/
def laneTurn (s : State) (len : Nat) (f : State → Group → Nat → Lane → State × LaneRes) (acc : State × List (Nat × LaneRes)) (i : Nat) :
    State × List (Nat × LaneRes) :=
  let x := f acc.1 s.me i ((acc.1.group s.cur).lane i)
  (x.1.modGroup s.cur (ranLane len i x.2), acc.2 ++ [(i, x.2)])

theorem runLanesM_eq (s : State) (len : Nat) (f : State → Group → Nat → Lane → State × LaneRes) :
    runLanesM s len f = trapLanes (s.myRun.foldl (laneTurn s len f) (s, [])).1 s.cur s.curPc (len == 8)
      (s.myRun.foldl (laneTurn s len f) (s, [])).2 := rfl

section
variable {s : State} {len : Nat} {f : State → Group → Nat → Lane → State × LaneRes} {part : Nat → Lane → LaneRes}
  {land : Nat → Lane → List Landing}
  (hf : ∀ t : State, t.cur = s.cur → ∀ i ∈ s.myRun, f t s.me i (s.me.lane i) = (t.bringing (land i (s.me.lane i)), part i (s.me.lane i)))
include hf

/-- The turns of some lanes of the run, from a state that has them as the word issued. -/
theorem foldl_laneTurn (r : List Nat) (t : State) (rs : List (Nat × LaneRes)) (cur : t.cur = s.cur) (nd : r.Nodup) (mem : ∀ i ∈ r, i ∈ s.myRun)
    (same : ∀ i ∈ r, (t.group s.cur).lane i = s.me.lane i) :
    r.foldl (laneTurn s len f) (t, rs) =
      ((t.bringing (r.flatMap fun i => land i (s.me.lane i))).modGroup s.cur (ranGroup len (r.map fun i => (i, part i (s.me.lane i)))),
        rs ++ r.map fun i => (i, part i (s.me.lane i))) := by
  induction r generalizing t rs with
  | nil => rw [List.foldl_nil, List.flatMap_nil, List.map_nil, List.append_nil, State.bringing_nil, State.modGroup_ranGroup_nil]
  | cons i r ih =>
    obtain ⟨hi, nd⟩ := List.nodup_cons.1 nd
    have turn : laneTurn s len f (t, rs) i = ((t.bringing (land i (s.me.lane i))).modGroup s.cur (ranLane len i (part i (s.me.lane i))),
        rs ++ [(i, part i (s.me.lane i))]) := by
      simp only [laneTurn, same i List.mem_cons_self, hf t cur i (mem i List.mem_cons_self)]
    rw [List.foldl_cons, turn, ih _ _ (by exact cur) nd (fun j hj => mem j (List.mem_cons_of_mem _ hj)) fun j hj => ?_]
    · rw [State.modGroup_bringing, State.bringing_bringing, State.modGroup_modGroup, List.map_cons, List.flatMap_cons, List.append_assoc]
      simp only [← ranGroup_cons]
      rfl
    · rw [← same j (List.mem_cons_of_mem _ hj)]
      refine State.modGroup_keeps (fun g : Group => g.lane j) (fun g => ?_) s.cur
      exact Group.lane_modLane_ne g _ (ne_of_mem_of_not_mem hj hi)

/-- Lanes that bring values and act on themselves alone do so one by one as at once. -/
theorem runLanesM_bringing (plain : ∀ i ∈ s.myRun, (part i (s.me.lane i)).plain = true) :
    runLanesM s len f = runLanes (s.bringing (s.myRun.flatMap fun i => land i (s.me.lane i))) len fun _ => part := by
  rw [runLanes_plain _ _ _ plain, runLanesM_eq, foldl_laneTurn hf s.myRun s [] rfl (s.me.run_nodup _) (fun _ h => h) fun _ _ => rfl]
  exact trapLanes_plain _ _ _ _ _ fun x hx => by
    obtain ⟨i, hi, rfl⟩ := List.mem_map.1 hx
    exact plain i hi

end

/-! ## The lanes of a FIFO word (R280) -/

/-- The empty registers that a FIFO word's lane names, when it names any. -/
def slotGaps (o : LaneOp) (r : Option Nat) (i : Nat) (l : Lane) : List (Nat × Slot) :=
  match r with
  | some n => l.gaps i n o.s
  | none => []

/-- The true slot lanes with the named register full. -/
def fullSlots (s : State) (o : LaneOp) (r : Option Nat) : List Nat :=
  (Claims.slotRun s o).filter fun i => (slotGaps o r i (s.me.lane i)).isEmpty

theorem mem_slotRun {s : State} {o : LaneOp} {i : Nat} : i ∈ Claims.slotRun s o ↔ i ∈ s.myRun ∧ slotTrue o i (s.me.lane i) = true :=
  List.mem_filter

theorem elem_fullSlots {s : State} {o : LaneOp} {i : Nat} (r : Option Nat) (h : i ∈ Claims.slotRun s o) :
    (fullSlots s o r).elem i = (slotGaps o r i (s.me.lane i)).isEmpty := by
  rw [Bool.eq_iff_iff, List.elem_iff, fullSlots, List.mem_filter]
  exact and_iff_right h

/-- A word that names no register finds none empty. -/
theorem fullSlots_none (s : State) (o : LaneOp) : fullSlots s o none = Claims.slotRun s o := List.filter_eq_self.2 fun _ _ => rfl

/-- The part of a lane of a FIFO word: a true slot lane acts with its register full and waits for it else; any other lane goes on. -/
def slotPart (o : LaneOp) (r : Option Nat) (act : Nat → Lane → LaneRes) (i : Nat) (l : Lane) : LaneRes :=
  if slotTrue o i l then
    if (slotGaps o r i l).isEmpty then act i l else { lane := l, out := .block (.regs (slotGaps o r i l)) }
  else { lane := l }

theorem runLanes_congr {s : State} {len : Nat} {f f' : Group → Nat → Lane → LaneRes}
    (h : ∀ i ∈ s.myRun, f s.me i (s.me.lane i) = f' s.me i (s.me.lane i)) : runLanes s len f = runLanes s len f' := by
  have parts : ((s.group s.cur).run s.curPc).map (fun i => (i, f (s.group s.cur) i ((s.group s.cur).lane i))) =
      ((s.group s.cur).run s.curPc).map fun i => (i, f' (s.group s.cur) i ((s.group s.cur).lane i)) :=
    List.map_congr_left fun i hi => by rw [h i hi]
  simp only [runLanes, parts]

theorem trueLanes_eq_slotPart {s : State} {o : LaneOp} (r : Option Nat) {f act : Nat → Lane → LaneRes}
    (hf : ∀ i ∈ Claims.slotRun s o, (slotGaps o r i (s.me.lane i)).isEmpty = true → f i (s.me.lane i) = act i (s.me.lane i))
    (hb : ∀ i ∈ Claims.slotRun s o, (slotGaps o r i (s.me.lane i)).isEmpty = false →
      f i (s.me.lane i) = { lane := s.me.lane i, out := .block (.regs (slotGaps o r i (s.me.lane i))) }) :
    trueLanes s o f = runLanes s 4 fun _ => slotPart o r act := by
  refine runLanes_congr fun i hi => ?_
  unfold slotPart
  cases htrue : slotTrue o i (s.me.lane i) with
  | false => rfl
  | true =>
    have mem := mem_slotRun.2 ⟨hi, htrue⟩
    simp only [if_true]
    cases full : (slotGaps o r i (s.me.lane i)).isEmpty with
    | false => exact hb i mem full
    | true => exact hf i mem full

theorem settle_slotPart {o : LaneOp} {r : Option Nat} {act : Nat → Lane → LaneRes} {f : Nat → Lane → Lane}
    (hact : ∀ i l, settleLane 4 l (act i l) = f i l) (i : Nat) (l : Lane) :
    settleLane 4 l (slotPart o r act i l) =
      if slotTrue o i l = false then l.past 4 else if (slotGaps o r i l).isEmpty then f i l else l.blockedOn (.regs (slotGaps o r i l)) := by
  unfold slotPart
  cases slotTrue o i l with
  | false => rfl
  | true =>
    simp only [if_true, Bool.true_eq_false, if_false]
    split
    · exact hact i l
    · rfl

theorem fl_slotPart {o : LaneOp} {r : Option Nat} {act : Nat → Lane → LaneRes} (hact : ∀ i l, (act i l).fl = 0) (i : Nat) (l : Lane) :
    (slotPart o r act i l).fl = 0 := by
  unfold slotPart
  split
  · split
    · exact hact i l
    · rfl
  · rfl

theorem eachLane_slotPart {s : State} {o : LaneOp} {r : Option Nat} {act : Nat → Lane → LaneRes} {f : Nat → Lane → Lane}
    (hact : ∀ i l, settleLane 4 l (act i l) = f i l ∧ (act i l).fl = 0) :
    (s.eachLane (fun i l => settleLane 4 l (slotPart o r act i l)) fun i l => (slotPart o r act i l).fl) = Claims.slotLane s o r f :=
  s.eachLane_congr (fun i _ => settle_slotPart (fun i l => (hact i l).1) i _) fun i _ => fl_slotPart (fun i l => (hact i l).2) i _

/-- A FIFO word none of whose lanes traps. -/
theorem runLanes_slotPart {s : State} {o : LaneOp} {r : Option Nat} {act : Nat → Lane → LaneRes} {f : Nat → Lane → Lane}
    (hact : ∀ i l, settleLane 4 l (act i l) = f i l ∧ (act i l).fl = 0) (plain : ∀ i l, (act i l).plain = true) :
    (runLanes s 4 fun _ => slotPart o r act) = Claims.slotLane s o r f := by
  refine (runLanes_eachLane s 4 _ fun i _ => ?_).trans (eachLane_slotPart hact)
  unfold slotPart
  split
  · split
    · exact plain i _
    · rfl
  · rfl

/-- The part of a lane that traps when it is a true slot lane with its register full. -/
def slotTrapPart (o : LaneOp) (r : Option Nat) (c : Cause) (addr : Nat) : Nat → Lane → LaneRes :=
  slotPart o r fun _ l => { lane := l, out := .trap c addr }

theorem slotTrapPart_out (o : LaneOp) (r : Option Nat) (c : Cause) (addr i : Nat) (l : Lane) :
    (slotTrapPart o r c addr i l).out = if slotTrue o i l then
      if (slotGaps o r i l).isEmpty then .trap c addr else .block (.regs (slotGaps o r i l)) else .next := by
  unfold slotTrapPart slotPart
  split
  · split <;> rfl
  · rfl

/-- A FIFO word whose true slot lanes with the register full trap. -/
theorem runLanes_slotTrap (s : State) (o : LaneOp) (r : Option Nat) (c : Cause) (addr : Nat) :
    (runLanes s 4 fun _ => slotTrapPart o r c addr) =
      Claims.laneTraps s (Claims.slotLane s o r fun _ l => { l with failed := none }) (fullSlots s o r) c addr := by
  have traps : trapsOf (runParts s fun _ => slotTrapPart o r c addr) = (fullSlots s o r).map fun i => (i, c, addr) := by
    unfold trapsOf runParts fullSlots Claims.slotRun
    rw [List.filterMap_map, List.filter_filter, ← List.filterMap_eq_map', List.filterMap_filter]
    refine List.filterMap_congr fun i _ => ?_
    simp only [Function.comp_apply, slotTrapPart_out]
    cases slotTrue o i (s.me.lane i) <;> cases (slotGaps o r i (s.me.lane i)).isEmpty <;> rfl
  have exits : exitsOf (runParts s fun _ => slotTrapPart o r c addr) = [] := by
    unfold exitsOf runParts
    rw [List.filterMap_map, List.filterMap_eq_nil_iff]
    intro i _
    simp only [Function.comp_apply, slotTrapPart_out]
    cases slotTrue o i (s.me.lane i) <;> cases (slotGaps o r i (s.me.lane i)).isEmpty <;> rfl
  have acted : (s.eachLane (fun i l => settleLane 4 l (slotTrapPart o r c addr i l)) fun i l => (slotTrapPart o r c addr i l).fl) =
      Claims.slotLane s o r fun _ l => { l with failed := none } := eachLane_slotPart fun _ _ => ⟨rfl, rfl⟩
  rw [runLanes_of_no_exit s 4 _ exits, modGroup_ranGroup, acted]
  refine trapLanes_same ?_ traps
  exact acted ▸ priv_eachLane s _ _

/-! ## The checks of a FIFO word (R280) -/

section
variable {s : State} {o : LaneOp} {need : Cap → Bool} {r : Option Nat} {k : State → Group → Nat → Nat → List Nat → State}

theorem fifoWord_of_no_slot (h : Claims.slotRun s o = []) : fifoWord s o need r k = s.eachLane fun _ l => l.past 4 := by
  have none : (((s.group s.cur).run s.curPc).filter fun i => slotTrue o i ((s.group s.cur).lane i)).isEmpty = true :=
    List.isEmpty_iff.2 h
  unfold fifoWord
  simp only [none, if_true]
  exact runLanes_eachLane s 4 _ fun _ _ => rfl

variable (hs : Claims.slotRun s o ≠ [])
include hs

theorem fifoWord_denied (hc : (s.cap s.me o.b).kind ≠ 6 ∨ need (s.cap s.me o.b) = false) :
    fifoWord s o need r k = Claims.laneTraps s (Claims.slotLane s o none fun _ l => { l with failed := none }) (Claims.slotRun s o)
      .capInvalid o.b := by
  have some_ : ¬(((s.group s.cur).run s.curPc).filter fun i => slotTrue o i ((s.group s.cur).lane i)).isEmpty = true :=
    mt List.isEmpty_iff.1 hs
  have denied : (!((s.cap s.me o.b).kind == 6 && need (s.cap s.me o.b))) = true := by
    rcases hc with h | h
    · simp [h]
    · simp [h]
  unfold fifoWord
  refine (if_neg some_).trans ((if_pos denied).trans ?_)
  rw [trueLanes_eq_slotPart none (act := fun _ l => { lane := l, out := .trap .capInvalid o.b }) (fun _ _ _ => rfl) fun _ _ h =>
    absurd h (by simp [slotGaps]), ← fullSlots_none]
  exact runLanes_slotTrap s o none .capInvalid o.b

variable (hk : (s.cap s.me o.b).kind = 6) (hc : need (s.cap s.me o.b) = true)
include hk hc

theorem fifoWord_waits (hf : fullSlots s o r = []) : fifoWord s o need r k = Claims.slotLane s o r fun _ l => l := by
  have some_ : ¬(((s.group s.cur).run s.curPc).filter fun i => slotTrue o i ((s.group s.cur).lane i)).isEmpty = true :=
    mt List.isEmpty_iff.1 hs
  have may : ¬(!((s.cap s.me o.b).kind == 6 && need (s.cap s.me o.b))) = true := by simp [hk, hc]
  unfold fifoWord
  refine (if_neg some_).trans ((if_neg may).trans ((if_pos (List.isEmpty_iff.2 hf)).trans ?_))
  rw [trueLanes_eq_slotPart r (act := fun _ l => { lane := l, out := .stay }) (fun i hi full => ?_) fun _ _ _ => rfl]
  · exact runLanes_slotPart (fun _ _ => ⟨rfl, rfl⟩) fun _ _ => rfl
  · have mem : i ∈ fullSlots s o r := List.mem_filter.2 ⟨hi, full⟩
    rw [hf] at mem
    cases mem

theorem fifoWord_acts (hf : fullSlots s o r ≠ []) :
    fifoWord s o need r k = k s s.me (clusterOf s.me.core) ((s.cap s.me o.b).ep 20 16) (fullSlots s o r) := by
  have some_ : ¬(((s.group s.cur).run s.curPc).filter fun i => slotTrue o i ((s.group s.cur).lane i)).isEmpty = true :=
    mt List.isEmpty_iff.1 hs
  have may : ¬(!((s.cap s.me o.b).kind == 6 && need (s.cap s.me o.b))) = true := by simp [hk, hc]
  unfold fifoWord
  exact (if_neg some_).trans ((if_neg may).trans (if_neg (mt List.isEmpty_iff.1 hf)))

end

/-! ## The FIFO words (R281) -/

/-- The lanes of `fullSlots` act and the other true slot lanes wait, in a state with the lanes of `s`. -/
theorem trueLanes_split {s u : State} {o : LaneOp} {r : Option Nat} {f : Nat → Lane → LaneRes} (act : Nat → Lane → LaneRes)
    (me : u.me = s.me) (pc : u.curPc = s.curPc)
    (hf : ∀ i l, f i l = if (fullSlots s o r).elem i then act i l else { lane := l, out := .block (.regs (slotGaps o r i l)) }) :
    trueLanes u o f = runLanes u 4 fun _ => slotPart o r act := by
  have same : fullSlots s o r = fullSlots u o r := by rw [fullSlots, fullSlots, Claims.slotRun, Claims.slotRun, State.myRun, State.myRun, me, pc]
  refine trueLanes_eq_slotPart r (fun i hi full => ?_) fun i hi full => ?_
  · rw [hf, same, elem_fullSlots r hi, full]
    rfl
  · rw [hf, same, elem_fullSlots r hi, full]
    rfl

theorem filter_map_eq_flatMap {α β : Type} (p : α → Bool) (f : α → β) (l : List α) :
    (l.filter p).map f = l.flatMap fun x => if p x then [f x] else [] := by
  induction l with
  | nil => rfl
  | cons x r ih => rw [List.filter_cons, List.flatMap_cons, ← ih]; split <;> rfl

/-- The state after `cbget` has taken the consumer's slot (R281). -/
def slotTaken (s : State) (bank : Nat) : State :=
  let cl := clusterOf s.me.core
  ((fifoTake s cl bank).1.modGroup s.cur fun g => { g with held := g.held.set bank (s.me.held.get [] bank ++ [(cl, (s.fifo cl bank).cons)]) }).tick

/-- The word of a taken slot on its way to a lane (R281). -/
def slotWord (s : State) (o : LaneOp) (bank i : Nat) : Landing :=
  let F := s.fifo (clusterOf s.me.core) bank
  { dst := { group := s.cur, lane := i, slot := (s.me.lane i).slotOf o.d, pair := o.s },
    val := BitVec.ofNat 64 (bytesNat (((F.bytes.get [] F.cons).drop (Claims.wideBytes o * i)).take (Claims.wideBytes o))), op := s.stamp }

theorem slotTaken_keeps {α : Type} (π : Group → α) (h : ∀ (g : Group) held, π { g with held := held } = π g) (s : State) (bank : Nat) :
    π (slotTaken s bank).me = π s.me :=
  State.modGroup_keeps (s := (fifoTake s (clusterOf s.me.core) bank).1) π (fun g => h g _) s.cur

theorem Lane.foldl_drain_pc (l : Lane) (ss : List Slot) : (ss.foldl Lane.drain l).pc = l.pc := by
  induction ss generalizing l with
  | nil => rfl
  | cons x r ih => exact (ih _).trans (l.drain_pc x)

section
variable {s : State} {o : LaneOp} (room : s.outstanding s.cur < 64) (hs : Claims.slotRun s o ≠ []) (hk : (s.cap s.me o.b).kind = 6)
include room hs hk

/-! ### `cbput` -/

theorem exec_cbput_of_free (hc : (s.cap s.me o.b).send = true) (hf : fullSlots s o (some o.a) ≠ [])
    (free : 0 < (s.fifo (clusterOf s.me.core) ((s.cap s.me o.b).ep 20 16)).free) :
    exec (.cbput o) s = .next (Claims.slotLane (fifoPut s (clusterOf s.me.core) ((s.cap s.me o.b).ep 20 16)
      ((List.range (slotLanes o)).flatMap fun i => natBytes (Claims.wideBytes o)
        (if (fullSlots s o (some o.a)).elem i then (s.me.lane i).rdOp s.me.depth o.a o.s else 0))) o (some o.a) fun _ l => l.past 4) := by
  refine congrArg Host.Outcome.next ((within64_of_room _ room).trans ((fifoWord_acts hs hk hc hf).trans ?_))
  refine (if_neg (Nat.pos_iff_ne_zero.1 free)).trans ?_
  refine (trueLanes_split (s := s) (r := some o.a) (fun _ l => { lane := l }) (by rfl) (by rfl) fun _ _ => rfl).trans ?_
  exact runLanes_slotPart (fun _ _ => ⟨rfl, rfl⟩) fun _ _ => rfl

theorem exec_cbput_of_no_free (hc : (s.cap s.me o.b).send = true) (hf : fullSlots s o (some o.a) ≠ [])
    (free : (s.fifo (clusterOf s.me.core) ((s.cap s.me o.b).ep 20 16)).free = 0) :
    exec (.cbput o) s = .next (Claims.slotLane s.tick o (some o.a) fun _ l =>
      Claims.awaits [] s.stamp (.free (clusterOf s.me.core) ((s.cap s.me o.b).ep 20 16)) l) := by
  refine congrArg Host.Outcome.next ((within64_of_room _ room).trans ((fifoWord_acts hs hk hc hf).trans ?_))
  refine (if_pos free).trans ?_
  refine (trueLanes_split (s := s) (r := some o.a) (fun _ l =>
    { lane := l, out := .block (.free (clusterOf s.me.core) ((s.cap s.me o.b).ep 20 16)), op := some (l.op.getD s.stamp) })
      (by rfl) (by rfl) fun _ _ => rfl).trans ?_
  exact runLanes_slotPart (fun _ _ => ⟨rfl, rfl⟩) fun _ _ => rfl

/-! ### `cbget` -/

variable (hc : (s.cap s.me o.b).recv = true) (hf : fullSlots s o (some o.d) ≠ [])
include hc hf

theorem exec_cbget_of_eight
    (eight : 8 ≤ ((s.me.held.get [] ((s.cap s.me o.b).ep 20 16)).filter fun x => x.1 == clusterOf s.me.core).length) :
    exec (.cbget o) s = .next (Claims.laneTraps s (Claims.slotLane s o (some o.d) fun _ l => { l with failed := none })
      (fullSlots s o (some o.d)) .bound 0) := by
  refine congrArg Host.Outcome.next ((within64_of_room _ room).trans ((fifoWord_acts hs hk hc hf).trans ?_))
  refine (if_pos eight).trans ?_
  refine (trueLanes_split (s := s) (r := some o.d) (fun _ l => { lane := l, out := .trap .bound 0 }) (by rfl) (by rfl) fun i l => ?_).trans ?_
  · split <;> rfl
  · exact runLanes_slotTrap s o (some o.d) .bound 0

variable (eight : ¬8 ≤ ((s.me.held.get [] ((s.cap s.me o.b).ep 20 16)).filter fun x => x.1 == clusterOf s.me.core).length)
include eight

theorem exec_cbget_of_no_filled (filled : (s.fifo (clusterOf s.me.core) ((s.cap s.me o.b).ep 20 16)).filled = 0) :
    exec (.cbget o) s = .next (Claims.slotLane s.tick o (some o.d) fun _ l =>
      Claims.awaits (l.opSlots o.d o.s) s.stamp (.filled (clusterOf s.me.core) ((s.cap s.me o.b).ep 20 16)) l) := by
  refine congrArg Host.Outcome.next ((within64_of_room _ room).trans ((fifoWord_acts hs hk hc hf).trans ?_))
  refine (if_neg eight).trans ((if_pos filled).trans ?_)
  refine (trueLanes_split (s := s) (r := some o.d) (fun _ l =>
    { lane := l, out := .block (.filled (clusterOf s.me.core) ((s.cap s.me o.b).ep 20 16)), marks := l.opSlots o.d o.s,
      op := some (l.op.getD s.stamp) })
      (by rfl) (by rfl) fun _ _ => rfl).trans ?_
  exact runLanes_slotPart (fun _ _ => ⟨rfl, rfl⟩) fun _ _ => rfl

theorem exec_cbget_of_filled (filled : 0 < (s.fifo (clusterOf s.me.core) ((s.cap s.me o.b).ep 20 16)).filled) :
    exec (.cbget o) s = .next (Claims.slotLane ((slotTaken s ((s.cap s.me o.b).ep 20 16)).bringing
      ((fullSlots s o (some o.d)).map (slotWord s o ((s.cap s.me o.b).ep 20 16)))) o (some o.d) fun _ l => (l.mark o.d o.s).past 4) := by
  refine congrArg Host.Outcome.next ((within64_of_room _ room).trans ((fifoWord_acts hs hk hc hf).trans ?_))
  refine (if_neg eight).trans ((if_neg (Nat.pos_iff_ne_zero.1 filled)).trans ?_)
  generalize (s.cap s.me o.b).ep 20 16 = bank
  have held : ((fifoTake s (clusterOf s.me.core) bank).1.modGroup s.cur fun g =>
      { g with held := g.held.set bank (g.held.get [] bank ++ [(clusterOf s.me.core, (s.fifo (clusterOf s.me.core) bank).cons)]) }).tick =
        slotTaken s bank := congrArg State.tick (State.modGroup_congr _ _ rfl)
  have run : (slotTaken s bank).myRun = s.myRun := slotTaken_keeps (fun g => g.run s.curPc) (fun _ _ => rfl) s bank
  have lane : ∀ i, (slotTaken s bank).me.lane i = s.me.lane i := fun i => slotTaken_keeps (fun g => g.lane i) (fun _ _ => rfl) s bank
  have words : (fullSlots s o (some o.d)).map (slotWord s o bank) = (slotTaken s bank).myRun.flatMap fun i =>
      if slotTrue o i (s.me.lane i) && (slotGaps o (some o.d) i (s.me.lane i)).isEmpty then [slotWord s o bank i] else [] := by
    rw [run, ← filter_map_eq_flatMap, fullSlots, Claims.slotRun, List.filter_filter]
    simp only [Bool.and_comm]
  rw [words]
  refine (congrArg (fun t => runLanesM t 4 _) held).trans ?_
  refine (runLanesM_bringing (part := slotPart o (some o.d) fun _ l => { lane := l.mark o.d o.s }) (land := fun i _ =>
    if slotTrue o i (s.me.lane i) && (slotGaps o (some o.d) i (s.me.lane i)).isEmpty then [slotWord s o bank i] else []) (fun t cur i hi => ?_)
      fun i hi => ?_).trans ?_
  · rw [lane, slotPart]
    cases htrue : slotTrue o i (s.me.lane i) with
    | false => exact congrArg (Prod.mk · _) t.bringing_nil.symm
    | true =>
      have elem := elem_fullSlots (some o.d) (mem_slotRun.2 ⟨run ▸ hi, htrue⟩)
      cases full : (slotGaps o (some o.d) i (s.me.lane i)).isEmpty with
      | false =>
        rw [elem, full]
        exact congrArg (Prod.mk · _) t.bringing_nil.symm
      | true =>
        rw [elem, full, cur]
        rfl
  · unfold slotPart
    split
    · split <;> rfl
    · rfl
  · exact runLanes_slotPart (fun _ _ => ⟨settle_past 4 _ _ 0 (Lane.foldl_drain_pc _ _), rfl⟩) fun _ _ => rfl

end

/-! ### `cbrel` -/

section
variable {s : State} {o : LaneOp} (hs : Claims.slotRun s o ≠ []) (hk : (s.cap s.me o.b).kind = 6) (hc : (s.cap s.me o.b).recv = true)
include hs hk hc

theorem exec_cbrel_of_held {slot : Nat × Nat} {r : List (Nat × Nat)} (held : s.me.held.get [] ((s.cap s.me o.b).ep 20 16) = slot :: r) :
    exec (.cbrel o) s = .next ((fifoRelease (s.modGroup s.cur fun g => { g with held := g.held.set ((s.cap s.me o.b).ep 20 16) r }) slot.1
      ((s.cap s.me o.b).ep 20 16) slot.2).eachLane fun _ l => l.past 4) := by
  have all : fullSlots s o none ≠ [] := by rwa [fullSlots_none]
  refine congrArg Host.Outcome.next ((fifoWord_acts hs hk hc all).trans ?_)
  simp only [held]
  exact runLanes_eachLane _ 4 _ fun _ _ => rfl

theorem exec_cbrel_of_none_held (held : s.me.held.get [] ((s.cap s.me o.b).ep 20 16) = []) :
    exec (.cbrel o) s = .next (Claims.laneTraps s (Claims.slotLane s o none fun _ l => { l with failed := none }) (Claims.slotRun s o) .bound 0) := by
  have all : fullSlots s o none ≠ [] := by rwa [fullSlots_none]
  refine congrArg Host.Outcome.next ((fifoWord_acts hs hk hc all).trans ?_)
  simp only [held]
  rw [trueLanes_eq_slotPart none (act := fun _ l => { lane := l, out := .trap .bound 0 }) (fun _ _ _ => rfl) fun _ _ h =>
    absurd h (by simp [slotGaps]), ← fullSlots_none]
  exact runLanes_slotTrap s o none .bound 0

end

theorem fifoWordsMoveSlots : Claims.FifoWordsMoveSlots := by
  intro s o g c cl bank n F room some_ ends
  refine ⟨fun none => ⟨congrArg _ (fifoWord_of_no_slot none), fun room => ⟨?_, ?_⟩⟩, fun hs room hk hc => ⟨?_, ?_, ?_⟩,
    fun hs room hk hc => ⟨?_, ?_, ?_, ?_⟩, fun hs hk hc => ⟨fun slot r held => ?_, fun held => ?_⟩, fun hs hc => ⟨?_, fun room => ?_⟩,
    fun hs room hc => ?_⟩
  · exact congrArg Host.Outcome.next ((within64_of_room _ room).trans (fifoWord_of_no_slot none))
  · exact congrArg Host.Outcome.next ((within64_of_room _ room).trans (fifoWord_of_no_slot none))
  · exact exec_cbput_of_free room hs hk hc
  · exact fun empty => congrArg Host.Outcome.next ((within64_of_room _ room).trans (fifoWord_waits hs hk hc empty))
  · exact exec_cbput_of_no_free room hs hk hc
  · exact exec_cbget_of_filled room hs hk hc
  · exact fun empty => congrArg Host.Outcome.next ((within64_of_room _ room).trans (fifoWord_waits hs hk hc empty))
  · exact exec_cbget_of_no_filled room hs hk hc
  · exact exec_cbget_of_eight room hs hk hc
  · exact exec_cbrel_of_held hs hk hc held
  · exact exec_cbrel_of_none_held hs hk hc held
  · exact congrArg Host.Outcome.next (fifoWord_denied hs hc)
  · exact congrArg Host.Outcome.next ((within64_of_room _ room).trans (fifoWord_denied hs hc))
  · exact congrArg Host.Outcome.next ((within64_of_room _ room).trans (fifoWord_denied hs hc))

/-- Settles O20: a lane memory word of one lane leaves the machine as its access does; a FIFO word parts its true slot lanes by their
registers, and each part of the run acts as one. -/
theorem prefetchTagFullAndFifoWordsAct : Obligations.PrefetchTagFullAndFifoWordsAct :=
  ⟨prefetchTagAndFullWordsGoOn, fifoWordsMoveSlots⟩

end Sys2Proof.Machine
end

section
/-! O50: errors, rollbacks, warm resets, removals and scan chunks (R227, R445, R446, R473, R477 to R483, R496). -/

namespace Sys2Proof.Machine

/-! ## An error of a line (R227) -/

theorem setStored_of_decoded {s : State} {line tag : Nat} {stored b : List Byte} (ht : tag < 11)
    (hd : decodeLine tag (stored.take (32 * tagSectors tag) ++ List.replicate 128 0) = some b) :
    (setStored s line tag stored).mem = memPut s.mem (spread line b) ∧ (setStored s line tag stored).groups = s.groups ∧
      ((setStored s line tag stored).tags.find line = none ∨ ∃ v, (setStored s line tag stored).tags.find line = some v ∧ (v < 11 ∨ 32 ≤ v)) := by
  have wide : tag % 16 = tag := Nat.mod_eq_of_lt (by omega)
  simp only [setStored, wide, if_neg (Nat.not_le.2 ht), hd]
  refine ⟨trivial, trivial, ?_⟩
  split
  · exact .inl (AMap.find_erase_self ..)
  refine .inr ?_
  split
  · exact ⟨_, AMap.find_set_self .., by omega⟩
  split
  · exact ⟨_, AMap.find_set_self .., by omega⟩
  · exact ⟨_, AMap.find_set_self .., by omega⟩

theorem hbmError_poisons {s : State} {line tag : Nat} {stored : List Byte} (ht : tag < 16) (h : 11 ≤ tag) :
    setStored s (lineOf line) tag stored = { s with tags := s.tags.set (lineOf line) tag } := by
  simp only [setStored, Nat.mod_eq_of_lt ht, if_pos h]

theorem hbmError_stores {s : State} {line tag : Nat} {stored b : List Byte} (ht : tag < 11)
    (hd : decodeLine tag (stored.take (32 * tagSectors tag) ++ List.replicate 128 0) = some b) :
    let t := setStored s (lineOf line) tag stored
    Claims.Stored s t (lineOf line) b ∧ t.lineClass line = 0 ∧ t.groups = s.groups := by
  obtain ⟨mem, groups, tags⟩ := setStored_of_decoded (s := s) (line := lineOf line) ht hd
  refine ⟨stored_of_mem mem, ?_, groups⟩
  unfold State.lineClass
  rcases tags with h | ⟨v, h, hv⟩
  · rw [h]
  · rw [h]
    dsimp only
    rw [if_neg (by omega), if_neg (by omega)]

theorem hbmError_misframes {s : State} {line tag : Nat} {stored : List Byte} (ht : tag < 11)
    (hd : decodeLine tag (stored.take (32 * tagSectors tag) ++ List.replicate 128 0) = none) :
    let t := setStored s (lineOf line) tag stored
    t.lineClass line = 2 ∧ Claims.Stored s t (lineOf line) ((stored.take (32 * tagSectors tag) ++ List.replicate 128 0).take 128) := by
  have set : setStored s (lineOf line) tag stored =
      { s with mem := memPut s.mem (spread (lineOf line) ((stored.take (32 * tagSectors tag) ++ List.replicate 128 0).take 128)),
               tags := s.tags.set (lineOf line) (16 + tag) } := by
    simp only [setStored, Nat.mod_eq_of_lt (show tag < 16 by omega), if_neg (Nat.not_le.2 ht), hd]
  rw [set]
  refine ⟨?_, stored_of_mem rfl⟩
  simp only [State.lineClass, AMap.find_set_self]
  rw [if_neg (by omega), if_pos (by omega)]

/-! ## An error of a launch (R477, R478, R480) -/

/-- What neither a kill nor a cancel of groups and teams changes: contexts, page requests, device memory, and which launches roll back. -/
def State.KeptAside (s s₀ : State) : Prop :=
  s.contexts = s₀.contexts ∧ s.pageReqs = s₀.pageReqs ∧ s.mem = s₀.mem ∧ ∀ l, (s.launch l).rolling = (s₀.launch l).rolling

section
variable {s s₀ : State}

theorem foldl_keptAside {α : Type} {f : State → α → State} (hf : ∀ s x, s.KeptAside s₀ → (f s x).KeptAside s₀) (xs : List α) (h : s.KeptAside s₀) :
    (xs.foldl f s).KeptAside s₀ := by
  induction xs generalizing s with
  | nil => exact h
  | cons x r ih => exact ih (hf s x h)

theorem ite_keptAside {c : Prop} [Decidable c] {t : State} (h : s.KeptAside s₀) (h' : t.KeptAside s₀) : State.KeptAside (if c then s else t) s₀ := by
  split <;> assumption

theorem completeTeam_keptAside (t : Nat) (h : s.KeptAside s₀) : (completeTeam s t).KeptAside s₀ := h

theorem sendFab_keptAside (r : FabReq) (h : s.KeptAside s₀) : (sendFab s r).KeptAside s₀ := by
  unfold sendFab
  dsimp only
  split <;> exact h

theorem reportGang_keptAside (k t kind v : Nat) (h : s.KeptAside s₀) : (reportGang s k t kind v).KeptAside s₀ := by
  unfold reportGang
  exact ite_keptAside h (foldl_keptAside (fun _ _ => sendFab_keptAside _) _ h)

theorem tellGang_keptAside (k kteam : Nat) (h : s.KeptAside s₀) : (tellGang s k kteam).KeptAside s₀ :=
  foldl_keptAside (fun _ _ => sendFab_keptAside _) _ h

theorem tellReach_keptAside (k : Nat) (h : s.KeptAside s₀) : (tellReach s k).KeptAside s₀ := by
  refine foldl_keptAside (fun s t h => ?_) _ h
  extract_lets ga m gens n s1
  have synced : s1.KeptAside s₀ := ite_keptAside (reportGang_keptAside k t 19 n h) h
  exact ite_keptAside (reportGang_keptAside k t 20 0 synced) synced

theorem syncSettle_keptAside (k : Nat) (h : s.KeptAside s₀) : (syncSettle s k).KeptAside s₀ :=
  ite_keptAside (tellReach_keptAside k h) (tellReach_keptAside k h)

theorem depart_keptAside (k t : Nat) (early : Bool) (h : s.KeptAside s₀) : (depart s k t early).KeptAside s₀ := by
  unfold depart
  refine ite_keptAside h (completeTeam_keptAside t ?_)
  exact ite_keptAside (tellGang_keptAside k _ h) (reportGang_keptAside k t 20 1 h)

theorem gangSweep_keptAside (k : Nat) (h : s.KeptAside s₀) : (gangSweep s k).KeptAside s₀ :=
  ite_keptAside (foldl_keptAside (fun _ t h => depart_keptAside k t false h) _ (syncSettle_keptAside k h)) (syncSettle_keptAside k h)

theorem endHeld_keptAside (t : Nat) (h : s.KeptAside s₀) : (endHeld s t).KeptAside s₀ := by
  unfold endHeld
  split
  · exact completeTeam_keptAside t h
  · exact gangSweep_keptAside _ (depart_keptAside _ t true h)

theorem endTeam_keptAside (t : Nat) (killed : Bool) (h : s.KeptAside s₀) : (endTeam s t killed).KeptAside s₀ := by
  unfold endTeam
  refine ite_keptAside h ?_
  split
  · exact completeTeam_keptAside t h
  · exact ite_keptAside (gangSweep_keptAside _ (depart_keptAside _ t true h)) (gangSweep_keptAside _ h)

theorem leaveSet_keptAside (g : Nat) (h : s.KeptAside s₀) : (leaveSet s g).KeptAside s₀ := by
  unfold leaveSet sweepSet
  split
  · exact h
  dsimp only
  split
  · exact h
  · exact ite_keptAside h h

theorem fifoRelease_keptAside (cl b slot : Nat) (h : s.KeptAside s₀) : (fifoRelease s cl b slot).KeptAside s₀ := h

theorem releaseHeld_keptAside (g : Nat) (h : s.KeptAside s₀) : (releaseHeld s g).KeptAside s₀ := by
  unfold releaseHeld
  exact foldl_keptAside (fun _ _ h => foldl_keptAside (fun _ _ => fifoRelease_keptAside _ _ _) _ h) _ h

theorem modLaunch_keptAside {k : Nat} {f : Launch → Launch} (hf : ∀ x, (f x).rolling = x.rolling) (h : s.KeptAside s₀) :
    (s.modLaunch k f).KeptAside s₀ := by
  obtain ⟨ctx, page, mem, roll⟩ := h
  exact ⟨ctx, page, mem, fun l => (State.modLaunch_keeps Launch.rolling hf l).trans (roll l)⟩

theorem barSettle_keptAside (t b : Nat) (h : s.KeptAside s₀) : (barSettle s t b).KeptAside s₀ := ite_keptAside h h

theorem endGroup_keptAside (g : Nat) (killed : Bool) (h : s.KeptAside s₀) : (endGroup s g killed).KeptAside s₀ := by
  unfold endGroup
  refine ite_keptAside h ?_
  extract_lets s1 s2 s3 s4 s5
  have left : s1.KeptAside s₀ := leaveSet_keptAside g (releaseHeld_keptAside g h)
  have lost : s2.KeptAside s₀ := ite_keptAside (modLaunch_keptAside (fun _ => by rfl) left) left
  have settled : s5.KeptAside s₀ := foldl_keptAside (fun _ _ => barSettle_keptAside _ _) _ (show s4.KeptAside s₀ from lost)
  refine ite_keptAside (endTeam_keptAside _ killed settled) ?_
  split
  · exact gangSweep_keptAside _ settled
  · exact settled

theorem killGroup_keptAside (g : Nat) (h : s.KeptAside s₀) : (killGroup s g).KeptAside s₀ :=
  ite_keptAside h (ite_keptAside (endGroup_keptAside g true h) h)

theorem endTeams_keptAside (k : Nat) (h : s.KeptAside s₀) : (endTeams s k).KeptAside s₀ := by
  unfold endTeams
  refine foldl_keptAside (fun s t h => ite_keptAside (endHeld_keptAside t h) h) _ (foldl_keptAside (fun s t h => ?_) _ h)
  exact ite_keptAside (ite_keptAside h (completeTeam_keptAside t h)) (foldl_keptAside (fun _ g => killGroup_keptAside g) _ h)

end

theorem startRollback_rolls {s : State} {l : Nat} (h : l < s.launches.length) : ((startRollback s l).launch l).rolling = true := by
  obtain ⟨-, -, -, roll⟩ : (startRollback s l).KeptAside (s.modLaunch l fun la => { la with rolling := true }) :=
    endTeams_keptAside l ⟨rfl, rfl, rfl, fun _ => rfl⟩
  rw [roll]
  simp [State.launch, State.modLaunch, List.getD_eq_getElem?_getD, h]

theorem launchError_of_over {s : State} {l : Nat} (h : s.launches.length ≤ l ∨ (s.launch l).finished = true) : launchError s l = s :=
  if_pos (by rcases h with h | h <;> simp [h])

theorem launchError_of_running {s : State} {l : Nat} (hl : l < s.launches.length) (hf : (s.launch l).finished = false)
    (hr : (s.launch l).rolling = false) (ha : (s.launch l).accepted = true) (he : s.ending l = false) :
    launchError s l = if (s.launch l).e.snap = false then killLaunch s l 0x20
      else if ((s.launch l).unprotected && (s.unitCopies l).isEmpty) = true then killLaunch (restoreUnits s l) l 0x20 else startRollback s l := by
  unfold launchError
  rw [if_neg (by simp [hf, hr, ha, he, Nat.not_le.2 hl])]
  cases (s.launch l).e.snap <;> rfl

/-! ## A rollback (R478 to R480) -/

theorem foldl_fixed {α β : Type} {f : β → α → β} {l : List α} {b : β} (h : ∀ x ∈ l, f b x = b) : l.foldl f b = b := by
  induction l with
  | nil => rfl
  | cons x r ih => rw [List.foldl_cons, h x List.mem_cons_self, ih fun y hy => h y (List.mem_cons_of_mem _ hy)]

/-- A launch whose writes are over has none to push. -/
theorem pushLaunch_of_writesOver {s : State} {l : Nat} (h : s.writesOver l = true) : pushLaunch s l = s := by
  simp only [State.writesOver, Bool.and_eq_true, Bool.not_eq_true', List.any_eq_false, Bool.or_eq_true, not_or] at h
  obtain ⟨⟨⟨stores, cores⟩, -⟩, -⟩ := h
  have unsent : ∀ st ∈ s.stores, (st.launch == l) = false := fun st hst => Bool.eq_false_iff.2 (stores st hst)
  unfold pushLaunch
  rw [performStores_of_none _ unsent]
  refine foldl_fixed fun c hc => ?_
  have red : (c.2.red.filter fun e => e.writers.any fun w => s.isOf l w.1) = [] :=
    List.filter_eq_nil_iff.2 (List.any_eq_false.1 (Bool.eq_false_iff.2 (cores c hc).1))
  rw [red, List.foldl_nil]
  refine drainWcb_of_none fun e he => ?_
  cases listed : AMap.find s.cores c.1 with
  | none =>
    rw [State.core, AMap.get, listed] at he
    cases he
  | some k =>
    rw [State.core, AMap.get, listed] at he
    exact Bool.eq_false_iff.2 (List.any_eq_false.1 (Bool.eq_false_iff.2 (cores _ (AMap.mem_of_find listed)).2) e he)

theorem rollbackRestore_of_over {s : State} {l : Nat} (hr : (s.launch l).rolling = true) (he : s.enginesOver l = true)
    (hw : s.writesOver l = true) (hc : s.rollCancelled l = false) (hu : s.unitCopies l = []) :
    ((s.launch l).unprotected = true → exec (.rollbackRestore l) s = .next (endCounter (restoreUnits s l) l 0x20)) ∧
    ((s.launch l).unprotected = false → (∀ sn ∈ (s.launch l).snaps, sn.exp = false) →
      exec (.rollbackRestore l) s = .next (replay (restoreUnits s l) l)) := by
  have run : exec (.rollbackRestore l) s = execRollbackRestore l s := rfl
  have empty : ∀ x y : State, (if (s.unitCopies l).isEmpty then x else y : State) = x := fun _ _ => by rw [hu]; rfl
  refine ⟨fun hp => ?_, fun hp hx => ?_⟩
  · rw [run]
    simp only [execRollbackRestore, hr, he, pushLaunch_of_writesOver hw, hw, hc, hp, empty, Bool.not_true, Bool.false_eq_true, if_false, if_true]
  · have exposed : ((s.launch l).snaps.filter fun sn => sn.exp) = [] := List.filter_eq_nil_iff.2 fun sn hs => by simp [hx sn hs]
    rw [run]
    simp only [execRollbackRestore, hr, he, pushLaunch_of_writesOver hw, hw, hc, hp, empty, exposed, Bool.not_true, Bool.false_eq_true, if_false,
      List.isEmpty_nil, if_true]

/-! ### The bytes of a restored unit (R478) -/

theorem find_filter_key {α : Type} (m : AMap α) (p : Nat → Bool) (a : Nat) :
    AMap.find (m.filter fun c => p c.1) a = if p a then AMap.find m a else none := by
  induction m with
  | nil => simp [AMap.find]
  | cons c r ih =>
    obtain ⟨k, v⟩ := c
    rw [List.filter_cons]
    by_cases hk : a = k
    · subst hk
      by_cases hp : p a = true
      · simp [hp, AMap.find]
      · simp [hp, ih]
    · by_cases hp : p k = true
      · simp [hp, AMap.find, hk, ih]
      · simp [hp, AMap.find, hk, ih]

/-- Bytes at rising addresses are read where they were put. -/
theorem get_memPut_of_rising (m l : List Host.Cell) (a : Nat) (h : AMap.Rising l) :
    AMap.get 0 (memPut m l) a = (AMap.find l a).getD (AMap.get 0 m a) := by
  induction l generalizing m with
  | nil => rfl
  | cons c r ih =>
    obtain ⟨k, v⟩ := c
    obtain ⟨first, rest⟩ := List.pairwise_cons.1 h
    rw [memPut, AMap.find]
    split
    next e =>
      subst e
      rw [get_memPut_out _ _ _ fun p hp => (first p hp).ne', get_memSet_self, Option.getD_some]
    next ne => rw [ih _ rest, get_memSet_ne _ _ ne]

theorem restoreUnit_byte (s : State) (sn : Snap) (a : Nat) (hw : Memory.wf sn.bytes) (hu : ∀ c ∈ sn.bytes, unitOf c.1 = sn.unit) :
    (restoreUnit s sn).byte a = if unitOf a = sn.unit then AMap.get 0 sn.bytes a else s.byte a := by
  have rest : AMap.get 0 (s.mem.filter fun c => unitOf c.1 != sn.unit) a = if unitOf a = sn.unit then 0 else s.byte a := by
    rw [AMap.get, find_filter_key s.mem fun k => unitOf k != sn.unit]
    by_cases h : unitOf a = sn.unit
    · simp [h]
    · simp [h, State.byte, AMap.get]
  show AMap.get 0 (memPut _ sn.bytes) a = _
  rw [get_memPut_of_rising _ _ _ ((Memory.wf_iff _).1 hw).1, rest]
  split
  · rfl
  next h =>
    have unlisted : AMap.find sn.bytes a = none := by
      rw [Option.eq_none_iff_forall_ne_some]
      exact fun v hv => h (hu _ (AMap.mem_of_find hv))
    rw [unlisted]
    rfl

/-! ## A warm reset (R482, R483) -/

/-- What a warm reset empties or leaves before it goes through the open launches. -/
def resetPart (s : State) : List Group × AMap Core × AMap Cluster × List CacheLine × List Tlb × List Store × Nat × AMap Word × List Nat :=
  (s.groups, s.cores, s.clusters, s.caches, s.tlbs, s.stores, s.clock, s.route, s.links)

theorem resetPart_foldl {α : Type} {f : State → α → State} (h : ∀ s x, resetPart (f s x) = resetPart s) (l : List α) (s : State) :
    resetPart (l.foldl f s) = resetPart s := by
  induction l generalizing s with
  | nil => rfl
  | cons x r ih => exact (ih _).trans (h s x)

theorem resetPart_ite {c : Prop} [Decidable c] {s t u : State} (h : resetPart t = resetPart s) (h' : resetPart u = resetPart s) :
    resetPart (if c then t else u : State) = resetPart s := by split <;> assumption

theorem resetPart_restoreUnits (s : State) (l : Nat) : resetPart (restoreUnits s l) = resetPart s :=
  (show resetPart (freeFrames _ l) = _ from rfl).trans (resetPart_foldl (f := restoreUnit) (fun _ _ => rfl) (s.launch l).snaps s)

theorem resetPart_makeNext (s : State) (l : Nat) : resetPart (makeNext s l) = resetPart s := resetPart_ite rfl rfl

theorem resetPart_replay (s : State) (l : Nat) : resetPart (replay s l) = resetPart s :=
  resetPart_ite rfl (resetPart_ite rfl (resetPart_makeNext ..))

theorem resetPart_endCounter (s : State) (l status : Nat) : resetPart (endCounter s l status) = resetPart s := rfl

theorem resetPart_endLost (s : State) (l : Nat) : resetPart (endCounter (freeFrames s l) l 0x20) = resetPart s := rfl

theorem warmReset_resets (s : State) : ∃ t, exec .warmReset s = .next t ∧ (∀ g ∈ t.groups, g.ended = true ∧ g.resident = false) ∧
    (∀ c ∈ t.cores, c.2 = { scanexp := c.2.scanexp }) ∧ t.clusters = [] ∧ t.caches = [] ∧ t.tlbs = [] ∧ t.stores = [] ∧ t.clock = 0 ∧
    t.route = s.route ∧ t.links = s.links ∧ ((∀ x ∈ s.launches, x.finished = true) → t.mem = s.mem ∧ t.tags = s.tags) := by
  refine ⟨_, rfl, ?_⟩
  unfold warmResetBy
  extract_lets started open_ s1 s2
  have kept : resetPart s2 = resetPart s1 := by
    refine resetPart_foldl (fun s l => ?_) open_ s1
    refine resetPart_ite (resetPart_endLost s l) (resetPart_ite rfl (resetPart_ite (resetPart_ite ?_ rfl) (resetPart_ite ?_ rfl)))
    · exact (resetPart_replay ..).trans (resetPart_restoreUnits ..)
    · exact (resetPart_endCounter ..).trans (resetPart_restoreUnits ..)
  simp only [resetPart, Prod.mk.injEq] at kept
  obtain ⟨groups, cores, clusters, caches, tlbs, stores, clock, route, links⟩ := kept
  refine ⟨fun g hg => ?_, fun c hc => ?_, clusters, caches, tlbs, stores, clock, route, links, fun finished => ?_⟩
  · obtain ⟨x, -, rfl⟩ := List.mem_map.1 (groups ▸ hg : g ∈ s1.groups)
    exact ⟨rfl, rfl⟩
  · obtain ⟨x, -, rfl⟩ := List.mem_map.1 (cores ▸ hc : c ∈ s1.cores)
    rfl
  · have none : open_ = [] := List.filter_eq_nil_iff.2 fun l hl => by
      have listed : s.launch l ∈ s.launches := by
        rw [State.launch, List.getD_eq_getElem?_getD, List.getElem?_eq_getElem (List.mem_range.1 hl)]
        exact List.getElem_mem _
      simp [finished _ listed]
    have same : s2 = s1 := by simp only [s2, none, List.foldl_nil]
    exact ⟨(congrArg State.mem same : s2.mem = s1.mem), (congrArg State.tags same : s2.tags = s1.tags)⟩

/-! ## The steps of a removal (R496, R497) -/

theorem coreRemoval_of_idle {s : State} {die : Nat} (h : (s.die die).boxBusy = false) : exec (.coreRemoval die) s = .next s :=
  congrArg Host.Outcome.next (if_pos (by rw [h]; rfl))

theorem State.modDie_congr (s : State) (k : Nat) {f f' : Die → Die} (h : f (s.die k) = f' (s.die k)) : s.modDie k f = s.modDie k f' := by
  simp only [State.modDie, h]

section
variable {s : State} {die : Nat} (hb : (s.die die).boxBusy = true) (hr : (s.die die).boxReq = 1)
include hb hr

theorem coreRemoval_of_step (h : (s.die die).removeStep ≠ 0) :
    exec (.coreRemoval die) s = .next (removalStep s die (s.die die).boxArg) :=
  congrArg Host.Outcome.next ((if_neg (by rw [hb, hr]; decide)).trans (if_pos h))

theorem coreRemoval_unmaps {p : Nat} (h : (s.die die).removeStep = 1)
    (hm : (s.die die).map.get none (clusterOf (s.die die).boxArg % 24) = some p) :
    exec (.coreRemoval die) s = .next (s.modDie die fun d =>
      { d with failedCores := d.failedCores ++ [(p, d.boxArg % 4)], map := d.map.set (clusterOf (s.die die).boxArg % 24) none,
               lost := d.lost.set (clusterOf (s.die die).boxArg % 24) p, removeStep := 2 }) := by
  rw [coreRemoval_of_step hb hr (by rw [h]; decide)]
  simp only [removalStep, h]
  refine congrArg Host.Outcome.next (s.modDie_congr die ?_)
  simp only [hm]

theorem coreRemoval_maps_spare (h : (s.die die).removeStep = 2) (hd : dieOf (s.die die).boxArg = die) :
    ∃ t, exec (.coreRemoval die) s = .next t ∧ (t.die die).map.get none (clusterOf (s.die die).boxArg % 24) = (s.die die).spare ∧
      (t.die die).removeStep = 3 ∧ ((s.die die).spare = none → t.firm.degraded = true) := by
  rw [coreRemoval_of_step hb hr (by rw [h]; decide)]
  simp only [removalStep, h]
  have self := s.die_modDie_self die fun d =>
    { d with map := d.map.set (clusterOf (s.die die).boxArg % 24) d.spare, removeStep := 3 }
  refine ⟨_, rfl, ?_, congrArg Die.removeStep self, fun none => ?_⟩
  · exact (congrArg (fun d : Die => d.map.get none _) self).trans (AMap.get_set_self ..)
  · have here : clusterOf (s.die die).boxArg / 24 = die := (Nat.div_div_eq_div_mul ..).trans hd
    have unmapped : State.available (s.modDie die fun d =>
        { d with map := d.map.set (clusterOf (s.die die).boxArg % 24) d.spare, removeStep := 3 }) (clusterOf (s.die die).boxArg) = false := by
      rw [State.available, here, self]
      simp only [AMap.get_set_self, none]
      rfl
    simp only [unmapped, Bool.not_false, Bool.or_true]

theorem coreRemoval_frees_mailbox (h : (s.die die).removeStep = 3) :
    ∃ t, exec (.coreRemoval die) s = .next t ∧ (t.die die).boxBusy = !(s.die die).boxNext.isEmpty ∧ (t.die die).removeStep = 0 ∧
      (t.die die).map = (s.die die).map := by
  rw [coreRemoval_of_step hb hr (by rw [h]; decide)]
  simp only [removalStep, h]
  have self := s.die_modDie_self die nextRemoval
  refine ⟨_, rfl, ?_⟩
  rw [self]
  unfold nextRemoval
  split
  next e => rw [e]; exact ⟨rfl, rfl, rfl⟩
  next e => rw [e]; exact ⟨rfl, rfl, rfl⟩

end

/-! ## Chunks of a scan (R445, R446) -/

/-- The group that waits for a chunk goes on with a result (R445). -/
def Group.scanned (d : Nat) (v : UWord) (g : Group) : Group :=
  { g.setU d v with hold := .none, lanes := g.lanes.map fun l => if l.isExited then l else { l with pc := l.pc + 4, waited := 0 } }

theorem chunkResult_eq {s : State} {core g d : Nat} (v : UWord) (hc : (s.core core).chunkBy = some (g, d))
    (hh : (s.group g).hold = .scan core) :
    chunkResult s core v = (s.modCore core fun c => { c with chunkBy := none }).modGroup g (Group.scanned d v) := by
  have waits : ¬(((s.modCore core fun c => { c with chunkBy := none }).group g).hold != .scan core) = true := by
    rw [show (s.modCore core fun c => { c with chunkBy := none }).group g = s.group g from rfl, hh]
    simp
  unfold chunkResult
  rw [hc]
  exact if_neg waits

section
variable {s : State} {core g d : Nat} (v : UWord) (hc : (s.core core).chunkBy = some (g, d)) (hh : (s.group g).hold = .scan core)
include hc hh

theorem group_chunkResult (hg : g < s.groups.length) : (chunkResult s core v).group g = (s.group g).scanned d v := by
  rw [chunkResult_eq v hc hh]
  exact State.group_modGroup_self _ _ hg

/-- A chunk's result changes nothing of the core but its note of who waits. -/
theorem core_chunkResult {α : Type} (π : Core → α) (h : ∀ c : Core, π { c with chunkBy := none } = π c) :
    π ((chunkResult s core v).core core) = π (s.core core) := by
  have self := s.core_modCore_self core fun c => { c with chunkBy := none }
  rw [chunkResult_eq v hc hh]
  exact (congrArg π self).trans (h _)

end

/-- A core whose chunk has ended and folded into the signature, and one whose chunk is aborted. -/
def Core.folded (phys n draw : Nat) (c : Core) : Core := { c with scansig := Config.scanFold phys n c.scansig draw, next := n + 1, chunk := none }
def Core.aborted (c : Core) : Core := { c with chunk := none }

/-- A state whose core is flushed after its chunk (R445). -/
def chunkOver (s : State) (core draw : Nat) (f : Core → Core) : State := { scanFlush (s.modCore core f) core with draw := draw }

theorem core_chunkOver (s : State) (core draw : Nat) (f : Core → Core) : (chunkOver s core draw f).core core = f (s.core core) :=
  s.core_modCore_self core f

section
variable {s : State} {core n g d : Nat} (hn : (s.core core).chunk = some n) (hc : (s.core core).chunkBy = some (g, d))
  (hh : (s.group g).hold = .scan core) (hg : g < s.groups.length)
include hn hc hh hg

theorem scanChunk_completes :
    let phys := ((s.die (dieOf core)).map.get none (core / 4 % 24)).getD 0 * 4 + core % 4
    ∃ t, exec (.scanChunkComplete core) s = .next t ∧ (t.core core).next = n + 1 ∧ (t.core core).chunk = none ∧
      (t.core core).scansig = Config.scanFold phys n (s.core core).scansig s.draw ∧ t.group g = (s.group g).scanned d 0 := by
  intro phys
  have self := core_chunkOver s core (s.draw + 1) (Core.folded phys n s.draw)
  have by_ : ((chunkOver s core (s.draw + 1) (Core.folded phys n s.draw)).core core).chunkBy = some (g, d) := by rw [self]; exact hc
  have run : exec (.scanChunkComplete core) s = .next (chunkResult (chunkOver s core (s.draw + 1) (Core.folded phys n s.draw)) core 0) := by
    show execScanChunkComplete core s = _
    rw [execScanChunkComplete, hn]
    rfl
  refine ⟨_, run, ?_, ?_, ?_, group_chunkResult 0 by_ hh hg⟩
  · rw [core_chunkResult 0 by_ hh Core.next fun _ => rfl, self]
    rfl
  · rw [core_chunkResult 0 by_ hh Core.chunk fun _ => rfl, self]
    rfl
  · rw [core_chunkResult 0 by_ hh Core.scansig fun _ => rfl, self]
    rfl

theorem scanChunk_gives_way (hu : s.urgent core = true) :
    ∃ t, exec (.scanChunkAbort core) s = .next t ∧ (t.core core).chunk = none ∧ (t.core core).next = (s.core core).next ∧
      t.group g = (s.group g).scanned d (Claims.refusal 4) := by
  have self := core_chunkOver s core s.draw Core.aborted
  have by_ : ((chunkOver s core s.draw Core.aborted).core core).chunkBy = some (g, d) := by rw [self]; exact hc
  have run : exec (.scanChunkAbort core) s = .next (chunkResult (chunkOver s core s.draw Core.aborted) core (refuse 4)) :=
    congrArg Host.Outcome.next (if_neg (by rw [hn, hu]; simp))
  refine ⟨_, run, ?_, ?_, group_chunkResult (refuse 4) by_ hh hg⟩
  · rw [core_chunkResult (refuse 4) by_ hh Core.chunk fun _ => rfl, self]
    rfl
  · rw [core_chunkResult (refuse 4) by_ hh Core.next fun _ => rfl, self]
    rfl

end

/-! ## The start of a removal (R473, R496) -/

/-! ### The writes of an engine leave cores and clusters alone -/

theorem LanesKept.of_fst {α : Type} {s t : State} {x : State × α} {a : α} (h : LanesKept s x.1) (e : x = (t, a)) : LanesKept s t := by
  rwa [e] at h

theorem lanesKept_modLaunch (s : State) (l : Nat) (f : Launch → Launch) : LanesKept s (s.modLaunch l f) := .of_fields rfl rfl rfl rfl rfl

theorem lanesKept_sendFab (s : State) (r : FabReq) : LanesKept s (sendFab s r) := by
  simp only [sendFab]
  split
  · exact .of_fields rfl rfl rfl rfl rfl
  · exact .of_fields rfl rfl rfl rfl rfl

theorem lanesKept_putCells (s : State) (core gid eng va : Nat) (who : Option Nat) (t : Target) (cells : AMap Byte) :
    LanesKept s (putCells s core gid eng va who t cells) := by
  have noted : LanesKept s (match t, who with
      | .dpa _, _ => s
      | _, some l => s.modLaunch l fun x => { x with unrollable := true }
      | _, none => s) := by
    split
    · exact .refl s
    · exact lanesKept_modLaunch ..
    · exact .refl s
  cases t with
  | dpa a => exact (lanesKept_homeWrite s who a cells).trans (lanesKept_dropLines ..)
  | host a => exact noted.trans (.ite (.foldl (fun s _ => lanesKept_putOwned s _ _) cells _) (.of_fields rfl rfl rfl rfl rfl))
  | peer d o => exact noted.trans (lanesKept_sendFab ..)
  | mcast g o => exact noted.trans (lanesKept_sendFab ..)

theorem lanesKept_homeLine (s : State) (who : Option Nat) (line tag : Nat) (bs : List Byte) : LanesKept s (homeLine s who line tag bs) :=
  ((lanesKept_expose s who line).trans (lanesKept_snapshot ..)).trans (.of_fields rfl rfl rfl rfl rfl)

theorem lanesKept_engTrans (s : State) (a : EngAcc) (va kind : Nat) : LanesKept s (engTrans s a va kind).1 := by
  have h := lanesKept_translate s a.places a.die a.ctx va kind a.failed 1
  unfold engTrans
  split
  next e => exact h.of_fst e
  next e => exact h.of_fst e
  next e => exact h.of_fst e
  next e => exact h.of_fst e

theorem lanesKept_engPlace (n : Nat) (s : State) (a : EngAcc) (va : Nat) (bs : List Byte) : LanesKept s (engPlace n s a va bs).1 := by
  induction n generalizing s va bs with
  | zero => exact .refl s
  | succ n ih =>
    have h := lanesKept_engTrans s a va 1
    unfold engPlace
    split
    · exact .refl s
    split
    next e => exact h.of_fst e
    next u t e =>
      have found := h.of_fst e
      split
      · exact found
      have rest := found.trans (ih u (va + firstPage va bs.length) (bs.drop (firstPage va bs.length)))
      split
      next e' => exact rest.of_fst e'
      · exact rest

theorem lanesKept_putLine (s : State) (a : EngAcc) (l : OutLine) : LanesKept s (putLine s a l) := by
  unfold putLine
  split
  · exact (lanesKept_homeLine ..).trans (lanesKept_dropLines ..)
  · exact lanesKept_putCells ..

theorem lanesKept_putLines (s : State) (a : EngAcc) (l : List OutLine) : LanesKept s (putLines s a l).1 := by
  have fold : ∀ (l : List OutLine) (x : State × List OutLine), LanesKept s x.1 → LanesKept s (l.foldl (fun acc x =>
      if acc.1.lineWaits x then (sendSnoop acc.1 x.tgt.pos, acc.2 ++ [x]) else (putLine acc.1 a x, acc.2)) x).1 := by
    intro l
    induction l with
    | nil => exact fun _ h => h
    | cons y r ih =>
      intro x h
      rw [List.foldl_cons]
      refine ih _ ?_
      split
      · exact h.trans (lanesKept_sendSnoop ..)
      · exact h.trans (lanesKept_putLine ..)
  exact fold l (s, []) (.refl s)

theorem lanesKept_wrRange (s : State) (a : EngAcc) (va : Nat) (bs : List Byte) : LanesKept s (wrRange s a va bs).1 := by
  have h := lanesKept_engPlace (pagesOf bs.length) s a va bs
  unfold wrRange placeRange
  split
  next e => exact h.of_fst e
  next u l e =>
    have placed := h.of_fst e
    split
    · exact placed.trans (.foldl (fun s _ => lanesKept_sendSnoop s _) _ _)
    · exact placed.trans (lanesKept_putLines ..)

/-! ### What the end of a set's operations leaves alone -/

/-- Cores, the modes of banks and the core maps are as before. -/
structure BanksKept (s t : State) : Prop where
  cores : t.cores = s.cores
  modes : ∀ c, (t.cluster c).modes = (s.cluster c).modes
  map : ∀ d, (t.die d).map = (s.die d).map
  busy : ∀ d, (t.die d).boxBusy = (s.die d).boxBusy

theorem BanksKept.refl (s : State) : BanksKept s s := ⟨rfl, fun _ => rfl, fun _ => rfl, fun _ => rfl⟩

theorem BanksKept.trans {s t u : State} (h : BanksKept s t) (h' : BanksKept t u) : BanksKept s u :=
  ⟨h'.cores.trans h.cores, fun c => (h'.modes c).trans (h.modes c), fun d => (h'.map d).trans (h.map d), fun d => (h'.busy d).trans (h.busy d)⟩

theorem LanesKept.banks {s t : State} (h : LanesKept s t) : BanksKept s t :=
  ⟨h.cores, fun c => by rw [State.cluster, State.cluster, h.clusters], h.map, h.busy⟩

theorem BanksKept.ite {c : Prop} [Decidable c] {s t u : State} (h : BanksKept s t) (h' : BanksKept s u) :
    BanksKept s (if c then t else u : State) := by split <;> assumption

theorem BanksKept.foldl {α : Type} {f : State → α → State} (h : ∀ s x, BanksKept s (f s x)) (l : List α) (s : State) : BanksKept s (l.foldl f s) := by
  induction l generalizing s with
  | nil => exact .refl s
  | cons x r ih => exact (h s x).trans (ih _)

theorem BanksKept.of_rest {s t : State} (hk : t.cores = s.cores) (hl : t.clusters = s.clusters) (hd : t.dies = s.dies) : BanksKept s t :=
  ⟨hk, fun c => by rw [State.cluster, State.cluster, hl], fun d => by rw [State.die, State.die, hd], fun d => by rw [State.die, State.die, hd]⟩

theorem banksKept_modMx (s : State) (cl : Nat) (f : Matrix → Matrix) : BanksKept s (s.modMx cl f) :=
  ⟨rfl, State.modCluster_keeps Cluster.modes fun _ => rfl, fun _ => rfl, fun _ => rfl⟩

theorem banksKept_settleReads (s : State) (cl : Nat) : BanksKept s (settleReads s cl) := by
  unfold settleReads
  extract_lets mx ready lands u
  exact (banksKept_modMx s cl _ : BanksKept s u).trans (.of_rest rfl rfl rfl)

theorem banksKept_sweepSet (s : State) (cl k : Nat) : BanksKept s (sweepSet s cl k) := by
  simp only [sweepSet]
  split
  · exact .refl s
  · exact .ite (banksKept_modMx ..) (.refl s)

theorem banksKept_modGroup (s : State) (g : Nat) (f : Group → Group) : BanksKept s (s.modGroup g f) := .of_rest rfl rfl rfl

theorem banksKept_finishOp (s : State) (cl : Nat) (o : MxOp) (status : Nat) (flags : UWord) : BanksKept s (finishOp s cl o status flags) := by
  unfold finishOp
  extract_lets s1 s2 s3 s4
  have kept2 : BanksKept s s2 := (banksKept_modMx ..).trans (banksKept_modMx ..)
  have kept3 : BanksKept s s3 := .ite (kept2.trans (banksKept_modMx ..)) kept2
  have kept4 : BanksKept s s4 := (kept3.trans (banksKept_modGroup ..)).trans (banksKept_modMx ..)
  exact (kept4.trans (banksKept_settleReads ..)).trans (banksKept_sweepSet ..)

theorem banksKept_opWaits (s : State) (cl id vpn : Nat) : BanksKept s (opWaits s cl id vpn) := by
  unfold opWaits State.modOp
  exact banksKept_modMx ..

theorem banksKept_mxUsed (s : State) (cl id : Nat) : BanksKept s (mxUsed s cl id) := .of_rest rfl rfl rfl

theorem banksKept_closeOp (s : State) (cl : Nat) (o : MxOp) (status : Nat) (flags : UWord) : BanksKept s (closeOp s cl o status flags) := by
  unfold closeOp State.modOp
  extract_lets s1
  have closing : BanksKept s s1 := (banksKept_mxUsed s cl o.id).trans (banksKept_modMx ..)
  exact .ite closing (closing.trans (banksKept_finishOp ..))

theorem banksKept_endOp (s : State) (cl : Nat) (o : MxOp) (status : Nat) : BanksKept s (endOp s cl o status) := by
  have h := lanesKept_wrRange s (s.mxAcc cl o o.ctx) (o.blk + (o.report status).1) (o.report status).2
  unfold endOp endWith blkPut
  split
  next e => exact (h.of_fst e).banks.trans (banksKept_closeOp ..)
  next e => exact (h.of_fst e).banks.trans (banksKept_opWaits ..)
  next e => exact (h.of_fst e).banks
  next e => exact (h.of_fst e).banks.trans (banksKept_closeOp ..)

theorem banksKept_migrateSets (s : State) (cl : Nat) (every : Bool) :
    BanksKept s (migrateSets s cl every) ∧ ((migrateSets s cl every).cluster cl).mx.b = none := by
  unfold migrateSets
  extract_lets owning s1 s2
  have ended : BanksKept s s1 := .foldl (fun s o => banksKept_endOp s cl o 9) _ s
  have emptied : (s2.cluster cl).mx.b = none := congrArg (fun c : Cluster => c.mx.b) (s1.cluster_modCluster_self cl _)
  exact ⟨(ended.trans (banksKept_modMx s1 cl _ : BanksKept s1 s2)).trans (.of_rest rfl rfl rfl), emptied⟩

/-! ### A cluster that leaves its physical cluster -/

theorem mem_coresOf {cl i : Nat} (h : i < 4) : 4 * cl + i ∈ coresOf cl :=
  List.mem_map.2 ⟨i, by simp; omega, rfl⟩

theorem dies_chunkResult (s : State) (core : Nat) (v : UWord) : (chunkResult s core v).dies = s.dies := by
  unfold chunkResult
  split
  · rfl
  dsimp only
  split
  · rfl
  · rfl

theorem foldl_dies {α : Type} {f : State → α → State} (h : ∀ s x, (f s x).dies = s.dies) (l : List α) (s : State) : (l.foldl f s).dies = s.dies := by
  induction l generalizing s with
  | nil => rfl
  | cons x r ih => exact (ih _).trans (h s x)

theorem State.die_of_dies {s t : State} (h : t.dies = s.dies) (d : Nat) : t.die d = s.die d := by rw [State.die, State.die, h]

theorem vacate_resets (s : State) (cl p : Nat) : ((vacate s cl p).cluster cl).modes = [] ∧ (∀ i < 4, (vacate s cl p).core (4 * cl + i) = {}) ∧
    (∀ d, ((vacate s cl p).die d).map = (s.die d).map) ∧ ∀ d, ((vacate s cl p).die d).boxBusy = (s.die d).boxBusy := by
  unfold vacate
  extract_lets cs s1 s2 s3 s4
  have aborted : s1.dies = s.dies := foldl_dies (fun s c => by
    split
    · exact dies_chunkResult ..
    · rfl) cs s
  have before : ∀ d, s1.die d = s.die d := fun d => State.die_of_dies aborted d
  have map : ∀ d, (s2.die d).map = (s1.die d).map := State.modDie_keeps Die.map (s := s1) fun _ => rfl
  have busy : ∀ d, (s2.die d).boxBusy = (s1.die d).boxBusy := State.modDie_keeps Die.boxBusy (s := s1) fun _ => rfl
  refine ⟨?_, fun i hi => ?_, fun d => ?_, fun d => ?_⟩
  · show (s4.cluster cl).modes = []
    rw [show s4.cluster cl = _ from s3.cluster_modCluster_self cl _]
  · show AMap.get {} (s4.cores.filter fun c => !cs.elem c.1) (4 * cl + i) = {}
    rw [AMap.get, find_filter_key s4.cores fun k => !cs.elem k, List.elem_eq_true_of_mem (mem_coresOf hi)]
    rfl
  · exact (congrArg Die.map (State.die_of_dies (s := s2) (by rfl) d)).trans ((map d).trans (congrArg Die.map (before d)))
  · exact (congrArg Die.boxBusy (State.die_of_dies (s := s2) (by rfl) d)).trans ((busy d).trans (congrArg Die.boxBusy (before d)))

/-! ### The event -/

theorem drainWcb_flushed {s : State} {c : Nat} (hr : (s.core c).red = []) (hw : (s.core c).wcb = []) :
    drainWcb ((s.core c).red.foldl (fun s e => flushRed s c e) s) c (fun _ => true) = s := by
  rw [hr, List.foldl_nil]
  exact drainWcb_of_none fun e he => absurd he (by rw [hw]; exact List.not_mem_nil)

/-- Cores with nothing buffered have nothing to empty. -/
theorem emptyBuffers_of_empty {s : State} {cl : Nat} (h : ∀ c ∈ coresOf cl, (s.core c).red = [] ∧ (s.core c).wcb = []) :
    emptyBuffers s cl = (s, true) := by
  have none : ((coresOf cl).all fun c => (s.core c).red.isEmpty && (s.core c).wcb.isEmpty) = true :=
    List.all_eq_true.2 fun c hc => by rw [(h c hc).1, (h c hc).2]; rfl
  unfold emptyBuffers
  dsimp only
  rw [foldl_fixed fun c hc => drainWcb_flushed (h c hc).1 (h c hc).2, none]

theorem evictLoggia_of_none {s : State} {core : Nat} (h : (s.core core).loggia = none) : evictLoggia s core = s := by
  unfold evictLoggia
  rw [h]

/-- With no team of the cluster left on it, there is none to swap out. -/
theorem no_team_here {s : State} {cl : Nat}
    (gone : ∀ t ∈ s.teams, t.isSup = false → clusterOf t.core = cl → t.st ≠ .resident ∧ t.st ≠ .outgoing ∧ t.st ≠ .reserved) :
    ((List.range s.teams.length).filter fun t => !(s.team t).isSup && clusterOf (s.team t).core == cl &&
      ((s.team t).st == .resident || (s.team t).st == .outgoing || (s.team t).st == .reserved)) = [] := by
  refine List.filter_eq_nil_iff.2 fun t ht => ?_
  have listed : s.team t ∈ s.teams := by
    rw [State.team, List.getD_eq_getElem?_getD, List.getElem?_eq_getElem (List.mem_range.1 ht)]
    exact List.getElem_mem _
  simp only [Bool.and_eq_true, Bool.not_eq_true', Bool.or_eq_true, beq_iff_eq, not_and]
  rintro ⟨notSup, here⟩
  obtain ⟨resident, outgoing, reserved⟩ := gone _ listed notSup here
  simp [resident, outgoing, reserved]

section
variable {s : State} {die cl p : Nat} (hb : (s.die die).boxBusy = true) (hr : (s.die die).boxReq = 1)
  (ha : (s.die die).boxArg < 384) (hd : dieOf (s.die die).boxArg = die) (hs : (s.die die).removeStep = 0)
  (hcl : clusterOf (s.die die).boxArg = cl) (hm : (s.die die).map.get none (cl % 24) = some p)
  (empty : ∀ i < 4, (s.core (4 * cl + i)).loggia = none ∧ (s.core (4 * cl + i)).red = [] ∧ (s.core (4 * cl + i)).wcb = [])
  (gone : ∀ t ∈ s.teams, t.isSup = false → clusterOf t.core = cl → t.st ≠ .resident ∧ t.st ≠ .outgoing ∧ t.st ≠ .reserved)
include hb hr ha hd hs hcl hm empty gone

/-- A removal whose cluster holds no team and whose cores have nothing buffered vacates it at once. -/
theorem coreRemoval_vacates :
    exec (.coreRemoval die) s = .next ((migrateSets (vacate (s.modDie die fun d => { d with removing := some (s.die die).boxArg })
      cl p) cl (s.die die).spare.isNone).modDie die fun d => { d with removeStep := 1 }) := by
  generalize hx : s.modDie die (fun d => { d with removing := some (s.die die).boxArg }) = u
  have core : ∀ c, u.core c = s.core c := fun c => by rw [← hx]; rfl
  have left := no_team_here (s := u) (cl := cl) (by rw [← hx]; exact gone)
  have loggia : [0, 1, 2, 3].foldl (fun x i => evictLoggia x (4 * cl + i)) u = u :=
    foldl_fixed fun i hi => evictLoggia_of_none (by rw [core]; exact (empty i (by simp at hi; omega)).1)
  have unbuffered : emptyBuffers u cl = (u, true) := emptyBuffers_of_empty fun c hc => by
    obtain ⟨i, hi, rfl⟩ := List.mem_map.1 hc
    rw [core]
    exact (empty i (by simp at hi; omega)).2
  have here : (decide ((s.die die).boxArg < 384) && decide (dieOf (s.die die).boxArg = die)) = true := by simp [ha, hd]
  have run : exec (.coreRemoval die) s = execCoreRemoval die s := rfl
  rw [run]
  refine congrArg Host.Outcome.next ((if_neg (by rw [hb, hr]; decide)).trans ((if_neg (by rw [hs]; decide)).trans ?_))
  dsimp only
  rw [if_pos here, hcl, hm]
  dsimp only
  rw [hx]
  simp only [loggia, left, List.foldl_nil, unbuffered, List.isEmpty_nil, Bool.not_true, Bool.or_false, Bool.false_eq_true, if_false]

theorem coreRemoval_begins : ∃ t, exec (.coreRemoval die) s = .next t ∧ (t.die die).removeStep = 1 ∧ (t.die die).map = (s.die die).map ∧
    (t.die die).boxBusy = true ∧ (t.cluster cl).mx.b = none ∧ (t.cluster cl).modes = [] ∧ ∀ i < 4, t.core (4 * cl + i) = {} := by
  rw [coreRemoval_vacates hb hr ha hd hs hcl hm empty gone]
  generalize hu : s.modDie die (fun d => { d with removing := some (s.die die).boxArg }) = u
  have umap : (u.die die).map = (s.die die).map := by
    rw [← hu]
    exact State.modDie_keeps Die.map (fun _ => by rfl) die
  have ubusy : (u.die die).boxBusy = true := by
    rw [← hu, ← hb]
    exact State.modDie_keeps Die.boxBusy (fun _ => by rfl) die
  obtain ⟨modes, cores, map, busy⟩ := vacate_resets u cl p
  obtain ⟨kept, quiet⟩ := banksKept_migrateSets (vacate u cl p) cl (s.die die).spare.isNone
  generalize migrateSets (vacate u cl p) cl (s.die die).spare.isNone = v at kept quiet ⊢
  have self := v.die_modDie_self die fun d => { d with removeStep := 1 }
  refine ⟨_, rfl, ?_, ?_, ?_, quiet, (kept.modes cl).trans modes, fun i hi => ?_⟩
  · rw [self]
  · rw [self]
    exact ((kept.map die).trans (map die)).trans umap
  · rw [self]
    exact ((kept.busy die).trans (busy die)).trans ubusy
  · refine Eq.trans ?_ (cores i hi)
    rw [State.core, State.core]
    exact congrArg (fun cs => AMap.get {} cs _) kept.cores

end

/-- Settles O50: each event is its branch of the model; what a reset, a removal or the end of a launch does not touch is kept by each function
that it runs. -/
theorem recoveryEventsRestore : Obligations.RecoveryEventsRestore := by
  unfold Obligations.RecoveryEventsRestore
  intro s l core die
  refine ⟨fun line tag stored ht => ⟨fun h => ?_, fun h b hb => ?_, fun h hb => ?_⟩, fun i hi => ?_, fun hr he hw hc hu =>
    rollbackRestore_of_over hr he hw hc hu, restoreUnit_byte s, warmReset_resets s, coreRemoval_of_idle, fun p => ?_, ?_,
    fun n g d hn hc hh hg => ⟨scanChunk_completes hn hc hh hg, scanChunk_gives_way hn hc hh hg, fun hu => ?_⟩⟩
  · exact congrArg Host.Outcome.next (hbmError_poisons ht h)
  · exact ⟨_, rfl, hbmError_stores h hb⟩
  · exact ⟨_, rfl, hbmError_misframes h hb⟩
  · have run : exec i s = .next (launchError s l) := by
      rcases List.mem_pair.1 hi with rfl | rfl <;> rfl
    rw [run]
    refine ⟨fun h => by rw [launchError_of_over h], fun hl hf hr ha he => ?_⟩
    rw [launchError_of_running hl hf hr ha he]
    refine ⟨fun hs => by rw [if_pos hs], fun hs hp hu => ?_, fun hs hp => ⟨_, rfl, ?_⟩⟩
    · rw [if_neg (by rw [hs]; decide), if_pos (by rw [hp, hu]; rfl)]
    · rw [if_neg (by rw [hs]; decide), if_neg (by rw [hp]; exact Bool.false_ne_true)]
      exact startRollback_rolls hl
  · exact fun hb hr ha hd hs hm empty gone => coreRemoval_begins hb hr ha hd hs rfl hm empty gone
  · exact fun hb hr => ⟨fun p h hm => coreRemoval_unmaps hb hr h hm, coreRemoval_maps_spare hb hr, coreRemoval_frees_mailbox hb hr⟩
  · exact congrArg Host.Outcome.next (if_pos (by rw [hu]; simp))

end Sys2Proof.Machine
end

section
/-! O49: the host driver's register writes (R219, R333, R336, R340, R404, R405, R432, R433, R435, R449, R484, R485). -/

namespace Sys2Proof.Machine

/-! ## Queues, counters (R333, R336, R340) -/

theorem setEn_true (q : Queue) :
    q.setEn true = if q.en = true then q else { q with en := true, halt := false, errIdx := 0, errCode := 0 } := by
  cases h : q.en
  · simp [Queue.setEn, h]
  · simp only [Queue.setEn, h, Bool.not_true, Bool.and_false, if_true, Bool.false_eq_true, if_false]
    rw [← h]

theorem cancelRegisterWrite_of_owned {s : State} {ctx c : Nat} (hc : c < 65536) (h : (s.counter c).ctx = ctx) :
    exec (.cancelRegisterWrite ctx c) s = .next (cancel s c) :=
  congrArg Host.Outcome.next (if_pos (by simp [hc, h]))

theorem cancelRegisterWrite_of_other {s : State} {ctx c : Nat} (h : (s.counter c).ctx ≠ ctx) :
    exec (.cancelRegisterWrite ctx c) s = .next s :=
  congrArg Host.Outcome.next (if_neg (by simp [h]))

/-! ## What a cancel leaves aside (R340) -/

section
variable {s s₀ : State}

theorem modCounter_keptAside (c : Nat) (f : Counter → Counter) (h : s.KeptAside s₀) : (s.modCounter c f).KeptAside s₀ := h

theorem modGroup_keptAside (g : Nat) (f : Group → Group) (h : s.KeptAside s₀) : (s.modGroup g f).KeptAside s₀ := h

theorem sendMsgs_keptAside (kind : Nat) (dsts args : List Nat) (h : s.KeptAside s₀) : (sendMsgs s kind dsts args).KeptAside s₀ :=
  foldl_keptAside (fun _ _ => sendFab_keptAside _) _ h

theorem cancelOne_keptAside (tell : Bool) (c : Nat) (h : s.KeptAside s₀) : (cancelOne tell s c).KeptAside s₀ := by
  unfold cancelOne
  refine foldl_keptAside (fun s l h => ?_) _ h
  refine ite_keptAside h ?_
  extract_lets s1 ts s2 s3 s4 s5
  have marked : s1.KeptAside s₀ := modLaunch_keptAside (fun _ => by rfl) h
  have ended : s2.KeptAside s₀ := by
    refine foldl_keptAside (fun s t h => ?_) _ marked
    dsimp only
    split
    · exact foldl_keptAside (fun s g h => ite_keptAside h (modGroup_keptAside g _ h)) _ h
    · exact foldl_keptAside (fun s g h => ite_keptAside h (modGroup_keptAside g _ h)) _ h
    · exact h
    · exact h
    · exact endHeld_keptAside t h
    · exact ite_keptAside (completeTeam_keptAside t h) (foldl_keptAside (fun _ g => killGroup_keptAside g) _ h)
  have made : s4.KeptAside s₀ := modLaunch_keptAside (fun _ => by rfl) (modCounter_keptAside _ _ ended)
  have told : s5.KeptAside s₀ := ite_keptAside (sendMsgs_keptAside _ _ _ made) made
  exact told

theorem cancelTree_keptAside (tell : Bool) (n c : Nat) (h : s.KeptAside s₀) : (cancelTree tell n s c).KeptAside s₀ := by
  induction n generalizing s c with
  | zero => exact h
  | succ n ih => exact ite_keptAside h (foldl_keptAside (fun _ (k : Nat × Counter) => ih k.1) _ (cancelOne_keptAside tell c h))

theorem cancel_keptAside (c : Nat) (h : s.KeptAside s₀) : (cancel s c).KeptAside s₀ := cancelTree_keptAside true 5 c h

end

/-! ## Context descriptors (R404, R405) -/

/-- `VALID` is bit 0 of the descriptor. -/
theorem Context.valid_eq (c : Context) : c.valid = (c.desc.getD 0 0).getLsbD 0 := by
  simp [Context.valid, Context.d, fld, BitVec.getLsbD, Nat.testBit_zero, beq_eq_decide]

/-- A descriptor with bit 0 of its first word cleared is not valid. -/
theorem valid_of_cleared {c : Context} {w : UWord} {r : List UWord} (h : c.desc = (w &&& ~~~ (1 : UWord)) :: r) : c.valid = false := by
  rw [Context.valid_eq, h]
  simp

/-- A context that is torn down is not valid, until its counters have ended. -/
def Context.tornDown (c : Context) : Context :=
  { c with desc := (c.desc.headD 0 &&& ~~~ (1 : UWord)) :: c.desc.drop 1, teardown := true }

/-- A teardown begins: the context's misses and page requests dropped, before its counters are cancelled (R405). -/
def State.tearsDown (s : State) (ctx : Nat) : State :=
  dropMisses { s.modContext ctx Context.tornDown with pageReqs := s.pageReqs.filter fun r => r.ctx != ctx } ctx

/-- The open counters of a context. -/
def State.openCounters (s : State) (ctx : Nat) : List Nat := (s.counters.filter fun k => k.2.ctx == ctx && k.2.state == 1).map fun k => k.1

theorem contextDescriptorWrite_keeps {s : State} {ctx : Nat} {desc : List UWord} (hc : ctx < 1024) (hv : (s.context ctx).valid = true)
    (hon : (desc.getD 0 0).getLsbD 0 = true) : exec (.contextDescriptorWrite ctx desc) s = .next s := by
  refine congrArg Host.Outcome.next ?_
  rw [if_neg (by omega), if_pos hv, if_pos hon]

theorem contextDescriptorWrite_tearsDown {s : State} {ctx : Nat} {desc : List UWord} (hc : ctx < 1024) (hv : (s.context ctx).valid = true)
    (hon : ¬(desc.getD 0 0).getLsbD 0 = true) :
    ∃ t, exec (.contextDescriptorWrite ctx desc) s = .next t ∧ (t.context ctx).teardown = true ∧ (t.context ctx).valid = false ∧
      (∀ r ∈ t.pageReqs, r.ctx ≠ ctx) ∧ t.mem = s.mem := by
  have run : exec (.contextDescriptorWrite ctx desc) s = .next ((s.openCounters ctx).foldl cancel (s.tearsDown ctx)) := by
    refine congrArg Host.Outcome.next ?_
    rw [if_neg (by omega), if_pos hv, if_neg hon]
    rfl
  obtain ⟨ctxs, page, mem, -⟩ : ((s.openCounters ctx).foldl cancel (s.tearsDown ctx)).KeptAside (s.tearsDown ctx) :=
    foldl_keptAside (fun _ c => cancel_keptAside c) _ ⟨rfl, rfl, rfl, fun _ => rfl⟩
  have torn : ((s.openCounters ctx).foldl cancel (s.tearsDown ctx)).context ctx = (s.context ctx).tornDown := by
    rw [State.context, ctxs]
    exact s.context_modContext_self ctx Context.tornDown
  refine ⟨_, run, by rw [torn]; rfl, ?_, fun r hr => ?_, mem⟩
  · rw [torn]
    exact valid_of_cleared rfl
  · rw [page] at hr
    simpa using (List.mem_filter.1 hr).2

/-- Another valid context has the descriptor's identity (R404). -/
def State.hasTwin (s : State) (ctx : Nat) (desc : List UWord) : Bool :=
  (List.range 1024).any fun x => x != ctx && (s.context x).valid && (s.context x).d 0 31 12 == fld (desc.getD 0 0) 31 12

theorem hasTwin_iff {s : State} {ctx : Nat} {desc : List UWord} : s.hasTwin ctx desc = true ↔
    ∃ y < 1024, y ≠ ctx ∧ (s.context y).valid = true ∧ (s.context y).d 0 31 12 = fld (desc.getD 0 0) 31 12 := by
  simp [State.hasTwin, and_assoc]

/-- A descriptor that breaks a rule for a valid one (R404, R405). -/
def State.badDesc (s : State) (ctx : Nat) (desc : List UWord) : Bool :=
  s.hasTwin ctx desc || descReserved desc || (!(desc.getD 0 0).getLsbD 1 && (desc.getD 0 0).getLsbD 2) || descMisaligned desc ||
    (s.context ctx).teardown

/-- A descriptor as a context that is not valid takes it: one that may not be valid loses `VALID` (R404, R405). -/
def State.takenDesc (s : State) (ctx : Nat) (desc : List UWord) : List UWord :=
  if (desc.getD 0 0).getLsbD 0 && s.badDesc ctx desc then ((descStored desc).headD 0 &&& ~~~ (1 : UWord)) :: (descStored desc).drop 1
  else descStored desc

theorem contextDescriptorWrite_of_invalid {s : State} {ctx : Nat} {desc : List UWord} (hc : ctx < 1024) (hv : (s.context ctx).valid = false) :
    exec (.contextDescriptorWrite ctx desc) s = .next (s.modContext ctx fun c => { c with desc := s.takenDesc ctx desc }) := by
  refine congrArg Host.Outcome.next ?_
  rw [if_neg (by omega), if_neg (by rw [hv]; exact Bool.false_ne_true)]
  rfl

theorem contextDescriptorWrite_stores {s : State} {ctx : Nat} {desc : List UWord} (hc : ctx < 1024) (hv : (s.context ctx).valid = false)
    (ht : (s.context ctx).teardown = false) (hr : descReserved desc = false) (hm : descMisaligned desc = false)
    (hf : (desc.getD 0 0).getLsbD 2 = true → (desc.getD 0 0).getLsbD 1 = true)
    (alone : ∀ y < 1024, y ≠ ctx → (s.context y).valid = true → (s.context y).d 0 31 12 ≠ fld (desc.getD 0 0) 31 12) :
    exec (.contextDescriptorWrite ctx desc) s = .next (s.modContext ctx fun x => { x with desc := descStored desc }) := by
  have twin : s.hasTwin ctx desc = false := by
    refine Bool.eq_false_iff.2 fun h => ?_
    obtain ⟨y, hy, hne, hv, he⟩ := hasTwin_iff.1 h
    exact alone y hy hne hv he
  have fmt : (!(desc.getD 0 0).getLsbD 1 && (desc.getD 0 0).getLsbD 2) = false := by
    cases h : (desc.getD 0 0).getLsbD 2 with
    | false => exact Bool.and_false _
    | true => rw [hf h]; rfl
  have good : s.badDesc ctx desc = false := by rw [State.badDesc, twin, hr, fmt, hm, ht]; rfl
  rw [contextDescriptorWrite_of_invalid hc hv, State.takenDesc, good, Bool.and_false, if_neg Bool.false_ne_true]

theorem contextDescriptorWrite_of_twin {s : State} {ctx y : Nat} {desc : List UWord} (hc : ctx < 1024) (hv : (s.context ctx).valid = false)
    (hon : (desc.getD 0 0).getLsbD 0 = true) (hy : y < 1024) (hne : y ≠ ctx) (hyv : (s.context y).valid = true)
    (he : (s.context y).d 0 31 12 = fld (desc.getD 0 0) 31 12) :
    ∃ t, exec (.contextDescriptorWrite ctx desc) s = .next t ∧ (t.context ctx).valid = false := by
  have twin : s.hasTwin ctx desc = true := hasTwin_iff.2 ⟨y, hy, hne, hyv, he⟩
  refine ⟨_, contextDescriptorWrite_of_invalid hc hv, ?_⟩
  rw [s.context_modContext_self, State.takenDesc, if_pos (by rw [hon, State.badDesc, twin]; rfl)]
  exact valid_of_cleared rfl

/-! ## Checkpoints (R484, R485) -/

/-- A checkpoint is refused exactly when something bars it. -/
theorem ckptRefused_iff (s : State) : s.ckptRefused = true ↔ ¬Claims.Quiet s := by
  rw [← Bool.not_eq_false, not_iff_not]
  simp [State.ckptRefused, Claims.Quiet, and_assoc, or_iff_not_imp_left]

theorem ckptGo_of_quiet {s : State} (dir : Bool) (img : List (Nat × Byte)) (h : Claims.Quiet s) : ckptGo s dir img =
    { s with ckptDir := dir, ckptErr := false, ckptRun := some (s.ckptBase.toNat, dir),
             ckptImage := if dir then some (s.ckptBase.toNat, img.foldl (fun m c => AMap.set m c.1 c.2) []) else none } :=
  if_neg fun refused => (ckptRefused_iff s).1 refused h

theorem ckptGo_of_not_quiet {s : State} (dir : Bool) (img : List (Nat × Byte)) (h : ¬Claims.Quiet s) :
    ckptGo s dir img = { s with ckptDir := dir, ckptErr := true } :=
  if_pos ((ckptRefused_iff s).2 h)

theorem checkpointDeviceToHost_goes {s : State} {v : UWord} (hgo : v.getLsbD 0 = true) (hdir : v.getLsbD 1 = false) :
    exec (.checkpointDeviceToHost v) s = .next (ckptGo s false []) :=
  congrArg Host.Outcome.next (if_pos (by rw [hgo, hdir]; rfl))

theorem checkpointDeviceToHost_of_other {s : State} {v : UWord} (hdir : v.getLsbD 1 = true) :
    exec (.checkpointDeviceToHost v) s = .next s :=
  congrArg Host.Outcome.next (if_neg (by rw [hdir, Bool.not_true, Bool.and_false]; exact Bool.false_ne_true))

theorem checkpointHostToDevice_goes {s : State} {v : UWord} {img tags : List (Nat × Byte)} (hgo : v.getLsbD 0 = true)
    (hdir : v.getLsbD 1 = true) : exec (.checkpointHostToDevice v img tags) s =
      .next (ckptGo s true (img ++ tags.map fun x => (1020 * 2 ^ 30 + x.1, x.2))) :=
  congrArg Host.Outcome.next (if_pos (by rw [hgo, hdir]; rfl))

theorem checkpointHostToDevice_of_other {s : State} {v : UWord} {img tags : List (Nat × Byte)} (hdir : v.getLsbD 1 = false) :
    exec (.checkpointHostToDevice v img tags) s = .next s :=
  congrArg Host.Outcome.next (if_neg (by rw [hdir, Bool.and_false]; exact Bool.false_ne_true))

theorem checkpointTransferDone_of_none {s : State} (h : s.ckptRun = none) : exec .checkpointTransferDone s = .next s := by
  refine congrArg Host.Outcome.next ?_
  simp only [h]

theorem checkpointTransferDone_saves {s : State} {b : Nat} (hr : s.ckptRun = some (b, false)) (hl : ∀ h ∈ s.hostLines, h.2 = false) :
    exec .checkpointTransferDone s = .next { s with ckptImage := some (b, s.image), draw := s.draw + 1, ckptRun := none } := by
  have held : (s.hostLines.filter fun h => h.2) = [] := List.filter_eq_nil_iff.2 fun h hh => by rw [hl h hh]; exact Bool.false_ne_true
  refine congrArg Host.Outcome.next ?_
  simp [hr, held]

theorem checkpointTransferDone_restores {s : State} {b c : Nat} {m : List Host.Cell} (hr : s.ckptRun = some (b, true))
    (hi : s.ckptImage = some (c, m)) (hl : s.hostLines = []) :
    exec .checkpointTransferDone s = .next { restoreImage s m with ckptRun := none } := by
  refine congrArg Host.Outcome.next ?_
  simp [hr, hi, hl]

/-! ## Fields of clusters and cores (R219, R432, R433) -/

/-- What a write of BANKMODE does to the request of one bank. -/
def bankAsked (modes : AMap Nat) (v : UWord) (m : AMap Nat) (b : Nat) : AMap Nat :=
  if v.toNat / 4 ^ b % 4 = 3 then m
  else if v.toNat / 4 ^ b % 4 = modes.get 0 b then AMap.erase m b else AMap.set m b (v.toNat / 4 ^ b % 4)

theorem find_bankAsked_ne {modes m : AMap Nat} {v : UWord} {a b : Nat} (h : b ≠ a) :
    AMap.find (bankAsked modes v m a) b = AMap.find m b := by
  unfold bankAsked
  split
  · rfl
  split
  · exact AMap.find_erase_ne m h
  · exact AMap.find_set_ne m _ h

theorem find_bankAsked_self (modes m : AMap Nat) (v : UWord) (b : Nat) :
    AMap.find (bankAsked modes v m b) b = if v.toNat / 4 ^ b % 4 = 3 then AMap.find m b
      else if v.toNat / 4 ^ b % 4 = modes.get 0 b then none else some (v.toNat / 4 ^ b % 4) := by
  unfold bankAsked
  split
  · rfl
  split
  · exact AMap.find_erase_self m b
  · exact AMap.find_set_self m b _

theorem find_bankAsked_range (modes m : AMap Nat) (v : UWord) {n b : Nat} (h : b < n) :
    AMap.find ((List.range n).foldl (bankAsked modes v) m) b = if v.toNat / 4 ^ b % 4 = 3 then AMap.find m b
      else if v.toNat / 4 ^ b % 4 = modes.get 0 b then none else some (v.toNat / 4 ^ b % 4) := by
  have past (k : Nat) (hk : k ≤ b) : AMap.find ((List.range k).foldl (bankAsked modes v) m) b = AMap.find m b := by
    induction k with
    | zero => rfl
    | succ k ih =>
      rw [List.range_succ, List.foldl_append]
      exact (find_bankAsked_ne (by omega)).trans (ih (by omega))
  induction n with
  | zero => omega
  | succ n ih =>
    rw [List.range_succ, List.foldl_append]
    rcases Nat.lt_succ_iff_lt_or_eq.1 h with hlt | rfl
    · exact (find_bankAsked_ne (by omega)).trans (ih hlt)
    · rw [← past b le_rfl]
      exact find_bankAsked_self _ _ v b

theorem bankmodeWrite_acts (s : State) (cl : Nat) (v : UWord) : ∃ t, exec (.bankmodeWrite cl v) s = .next t ∧ ∀ b < 32,
    let w := v.toNat / 4 ^ b % 4
    (t.cluster cl).modes = (s.cluster cl).modes ∧
    (t.cluster cl).wanted.find b =
      if w = 3 then (s.cluster cl).wanted.find b else if w = (s.cluster cl).modes.get 0 b then none else some w := by
  have after : (bankmodeSet s cl v).cluster cl =
      { s.cluster cl with wanted := (List.range 32).foldl (bankAsked (s.cluster cl).modes v) (s.cluster cl).wanted } :=
    s.cluster_modCluster_self cl _
  refine ⟨bankmodeSet s cl v, rfl, fun b hb => ?_⟩
  rw [after]
  exact ⟨rfl, find_bankAsked_range _ _ v hb⟩

theorem loggiaEvict_of_loaded {s : State} {core t y : Nat} {x : Option Nat} (h : (s.core core).loggia = some (t, y, x)) :
    exec (.loggiaEvict core) s = .next ((s.modTeam t fun tm =>
      { tm with st := if tm.saved then .swapped else .pending, head := true }).modCore core fun c => { c with loggia := none }) := by
  refine congrArg Host.Outcome.next ?_
  simp only [evictLoggia, h]

/-- What TRAPGRP keeps of a core. -/
def Core.selection (c : Core) : Nat × Nat × Nat := (c.trapGrp, c.trapLane, c.trapRec)

/-- A core whose TRAPGRP is written. -/
def Core.selecting (v : UWord) (c : Core) : Core := { c with trapGrp := fld v 3 0, trapLane := fld v 13 8, trapRec := fld v 21 16 }

theorem loadTrap_selection (s : State) (core : Nat) : ((loadTrap s core).core core).selection = (s.core core).selection := by
  unfold loadTrap
  dsimp only
  split
  · rw [s.core_modCore_self]; rfl
  split
  · rw [s.core_modCore_self]; rfl
  split <;> rw [s.core_modCore_self] <;> rfl

theorem trapgrpSet_selection (s : State) (core : Nat) (v : UWord) :
    ((trapgrpSet s core v).core core).selection = (fld v 3 0, fld v 13 8, fld v 21 16) := by
  refine (loadTrap_selection _ core).trans ?_
  split
  · exact congrArg Core.selection (s.core_modCore_self core (Core.selecting v))
  · exact congrArg Core.selection (s.core_modCore_self core (Core.selecting v))

theorem regvalWrite_of_lane {s : State} {core g : Nat} {v : UWord} (hg : s.selGroup core = some g) (hb : (s.regSel core).2.2 = false)
    (hk : (s.core core).regKind = 0) : exec (.regvalWrite core v) s = .next (s.modGroup g fun g =>
      g.modLane (s.core core).trapLane fun l => l.wrOp g.depth (s.core core).regNum false v.toNat) := by
  refine congrArg Host.Outcome.next ?_
  simp only [regvalSet, hg, hb, hk, Bool.false_eq_true, if_false]

theorem mailboxUndefinedRequest_logs {s : State} {die req : Nat} (h : 2 ≤ req) (h' : req ≤ 255) :
    exec (.mailboxUndefinedRequest die req) s =
      .next { s with firm := { s.firm with log := s.firm.log ++ [[s.firmCycles, 0x449, die, req]] } } :=
  congrArg Host.Outcome.next (if_neg (by omega))

/-! ## The statement -/

/-- Settles O49: clause by clause, by the lemma on the write; the writes that are one field of one record hold by definition. -/
theorem hostRegisterWritesAct : Obligations.HostRegisterWritesAct := by
  unfold Obligations.HostRegisterWritesAct
  intro s ctx q c cl core die v
  refine ⟨fun _ => rfl, ?_, cancelRegisterWrite_of_owned, cancelRegisterWrite_of_other, fun desc hc => ⟨?_, ?_, ?_⟩, rfl, ?_,
    fun img tags => ⟨?_, ?_⟩, checkpointTransferDone_of_none, fun b => checkpointTransferDone_saves, fun b c m => checkpointTransferDone_restores,
    bankmodeWrite_acts s cl v, fun t y x => loggiaEvict_of_loaded, rfl, ?_, fun g => regvalWrite_of_lane, rfl,
    fun req => mailboxUndefinedRequest_logs⟩
  · exact congrArg (fun f => Host.Outcome.next (s.modQueue (16 * ctx + q) f)) (funext setEn_true)
  · exact contextDescriptorWrite_keeps hc
  · exact contextDescriptorWrite_tearsDown hc
  · exact fun hv ht hon hr hm hf => ⟨contextDescriptorWrite_stores hc hv ht hr hm hf,
      fun y hy hne hyv he => contextDescriptorWrite_of_twin hc hv hon hy hne hyv he⟩
  · exact fun h => congrArg Host.Outcome.next (if_neg (by rw [h]; exact Bool.false_ne_true))
  · refine fun h0 h1 => ⟨checkpointHostToDevice_of_other h1, fun hq => ?_, fun hq => ?_⟩
    · rw [checkpointDeviceToHost_goes h0 h1, ckptGo_of_quiet _ _ hq]
      rfl
    · rw [checkpointDeviceToHost_goes h0 h1, ckptGo_of_not_quiet _ _ hq]
  · refine fun h0 h1 => ⟨checkpointDeviceToHost_of_other h1, fun hq => ?_, fun hq => ?_⟩
    · rw [checkpointHostToDevice_goes h0 h1, ckptGo_of_quiet _ _ hq]
      rfl
    · rw [checkpointHostToDevice_goes h0 h1, ckptGo_of_not_quiet _ _ hq]
  · have sel := trapgrpSet_selection s core v
    exact ⟨_, rfl, congrArg (·.1) sel, congrArg (·.2.1) sel, congrArg (·.2.2) sel⟩

end Sys2Proof.Machine
end

section
/-! O26: ordering words (R247, R285, R286) and bindings (R287, R288). -/

namespace Sys2Proof.Machine

/-! ## Releases and acquires -/

@[simp] theorem acquire_curPc (s : State) (core ctx scope : Nat) (x : ObjSet) : (acquire s core ctx scope x).curPc = s.curPc := by
  unfold acquire
  split <;> rfl

@[simp] theorem acquire_mem (s : State) (core ctx scope : Nat) (x : ObjSet) : (acquire s core ctx scope x).mem = s.mem := by
  unfold acquire
  split <;> rfl

/-- An acquire of device scope or wider drops what it covers of the core's copies and of its cluster's (R247). -/
theorem mem_caches_acquire {s : State} {core ctx scope : Nat} {x : ObjSet} (h : 3 ≤ scope) (c : CacheLine) :
    c ∈ (acquire s core ctx scope x).caches ↔
      c ∈ s.caches ∧ ¬((c.holder = core ∨ c.holder = ccHolder (clusterOf core)) ∧ s.covers ctx x c = true) := by
  simp only [acquire, dropLines, if_neg (show ¬scope < 2 by omega), List.mem_filter, h, decide_true, Bool.true_and, Bool.not_eq_true',
    Bool.eq_false_iff, ne_eq, Bool.and_eq_true, Bool.or_eq_true, beq_iff_eq]

theorem advance_acquire (s : State) (core ctx scope : Nat) (x : ObjSet) :
    advance (acquire s core ctx scope x) = (acquire s core ctx scope x).wentTo (s.curPc + 4) := by
  rw [advance_eq_wentTo, acquire_curPc]

theorem exec_acq {s : State} (o : UOp) (hc : s.Conv) :
    exec (.acq o) s =
      .next ((acquire s s.me.core (s.ctxOf s.me) o.f3 (s.objectAt (s.ctxOf s.me) (s.u o.a).toNat)).wentTo (s.curPc + 4)) := by
  show Host.Outcome.next (uniform s _) = _
  rw [uniform_of_conv _ hc]
  exact congrArg _ (advance_acquire ..)

theorem exec_rel_of_drained {s : State} (o : UOp) (hc : s.Conv) (hd : s.Drained) :
    exec (.rel o) s = .next (s.wentTo (s.curPc + 4)) := by
  show Host.Outcome.next (uniform s fun s => uRelease s o.f3 advance) = _
  rw [uniform_of_conv _ hc, hd.uRelease_eq, advance_eq_wentTo]

/-- A fence whose release, if it has one, has nothing to perform acquires I, if it is to (R286). -/
theorem exec_fence_of_drained {s : State} (o : UOp) (hc : s.Conv) (hd : 2 ≤ o.imm12 % 4 → s.Drained) :
    exec (.fence o) s =
      .next ((if o.imm12 % 2 = 1 then acquire s s.me.core (s.ctxOf s.me) o.f3 (.obj 0) else s).wentTo (s.curPc + 4)) := by
  have order : o.imm12 % 4 % 2 = o.imm12 % 2 := by omega
  have acquired : advance (if o.imm12 % 2 = 1 then uAcquire s o.f3 (.obj 0) else s) =
      (if o.imm12 % 2 = 1 then acquire s s.me.core (s.ctxOf s.me) o.f3 (.obj 0) else s).wentTo (s.curPc + 4) := by
    split
    · exact advance_acquire ..
    · rfl
  show execFence o s = _
  simp only [execFence, uniform_of_conv _ hc, order]
  refine congrArg Host.Outcome.next ?_
  by_cases h : 2 ≤ o.imm12 % 4
  · rw [if_pos h, (hd h).uRelease_eq]
    exact acquired
  · rw [if_neg h]
    exact acquired

theorem orderingWordsReleaseAndAcquire : Claims.OrderingWordsReleaseAndAcquire := fun _ o hc =>
  ⟨exec_acq o hc, exec_rel_of_drained o hc, exec_fence_of_drained o hc, fun _ h => ⟨acquire_mem .., mem_caches_acquire h⟩⟩

/-! ## Bindings -/

/-- `bind` writes its status, and adds the binding when that is 0 (R287). -/
theorem exec_bind_of_status {s : State} (o : UOp) (hc : s.Conv) {st : Nat}
    (h : bindStatus (s.context (s.ctxOf s.me)) (s.u o.a).toNat (s.u o.b).toNat (s.u o.d).toNat = st) :
    exec (.bind o) s = .next ((if st = 0 then Claims.bound s { obj := (s.u o.a).toNat, base := (s.u o.b).toNat, len := (s.u o.d).toNat }
      else s).wroteU o.d (BitVec.ofNat 64 st)) := by
  subst h
  show Host.Outcome.next (uniform s _) = _
  rw [uniform_of_conv _ hc]
  exact congrArg Host.Outcome.next (advance_setU ..)

theorem exec_unbind {s : State} (o : UOp) (hc : s.Conv) :
    let mine (b : Binding) : Bool := b.obj == (s.u o.a).toNat && ((s.u o.b).toNat == 0 || b.base == (s.u o.b).toNat)
    exec (.unbind o) s =
      .next ((s.modContext (s.ctxOf s.me) fun c => { c with bindings := c.bindings.filter fun b => !mine b }).wroteU o.d
        (BitVec.ofNat 64 ((s.context (s.ctxOf s.me)).bindings.filter mine).length)) := by
  intro mine
  show Host.Outcome.next (uniform s _) = _
  rw [uniform_of_conv _ hc]
  exact congrArg Host.Outcome.next (advance_setU ..)

theorem any_overlaps_iff {bs : List Binding} {base len : Nat} :
    (bs.any fun b => overlaps base len b.base b.len) = true ↔ ∃ b ∈ bs, base < b.base + b.len ∧ b.base < base + len := by
  simp [List.any_eq_true, overlaps]

theorem bindingsAreAddedAndRemoved : Claims.BindingsAreAddedAndRemoved := by
  intro s o hc ctx bs obj base len badObj badRange clash mine
  have status := exec_bind_of_status o hc (st := bindStatus (s.context ctx) obj base len) rfl
  have noClash : ¬clash → ¬(bs.any fun b => overlaps base len b.base b.len) = true := mt any_overlaps_iff.1
  refine ⟨fun h => ?_, fun h1 h2 => ?_, fun h1 h2 h3 => ?_, fun h1 h2 h3 h4 => ?_, fun h1 h2 h3 h4 => ?_, exec_unbind o hc⟩
  · rwa [bindStatus, if_pos h] at status
  · rwa [bindStatus, if_neg h1, if_pos h2] at status
  · rwa [bindStatus, if_neg h1, if_neg h2, if_pos (any_overlaps_iff.2 h3)] at status
  · rwa [bindStatus, if_neg h1, if_neg h2, if_neg (noClash h3), if_pos h4] at status
  · rwa [bindStatus, if_neg h1, if_neg h2, if_neg (noClash h3), if_neg (Nat.not_le.2 h4)] at status

/-- Settles O26: in a converged group each word passes its gate; a drained release goes on, an acquire filters the copies; `bind` takes the
branches of its status. -/
theorem orderingAndBindingWordsAct : Obligations.OrderingAndBindingWordsAct :=
  ⟨orderingWordsReleaseAndAcquire, bindingsAreAddedAndRemoved⟩

end Sys2Proof.Machine
end

section
/-! O19: a lane's access of device memory in `glob` (R240, R252, R253, R267 to R275). -/

namespace Sys2Proof.Machine

/-! ## What an access leaves to the issue -/

/-- Groups, the place of the issue and the write-combining buffers are as before. -/
structure IssueKept (s t : State) : Prop where
  groups : t.groups = s.groups
  cur : t.cur = s.cur
  pc : t.curPc = s.curPc
  wcb : ∀ c, (t.core c).wcb = (s.core c).wcb

theorem LanesKept.issueKept {s t : State} (h : LanesKept s t) (pc : t.curPc = s.curPc) : IssueKept s t :=
  ⟨h.groups, h.cur, pc, fun c => by rw [h.core]⟩

theorem IssueKept.refl (s : State) : IssueKept s s := ⟨rfl, rfl, rfl, fun _ => rfl⟩

theorem IssueKept.trans {s t u : State} (h : IssueKept s t) (h' : IssueKept t u) : IssueKept s u :=
  ⟨h'.groups.trans h.groups, h'.cur.trans h.cur, h'.pc.trans h.pc, fun c => (h'.wcb c).trans (h.wcb c)⟩

theorem IssueKept.ite {c : Prop} [Decidable c] {s t u : State} (h : IssueKept s t) (h' : IssueKept s u) :
    IssueKept s (if c then t else u : State) := by split <;> assumption

theorem IssueKept.me {s t : State} (h : IssueKept s t) : t.me = s.me := by
  rw [State.me, State.group, h.groups, h.cur]
  rfl

theorem issueKept_tick (s : State) : IssueKept s s.tick := (lanesKept_tick s).issueKept rfl

theorem issueKept_expose (s : State) (who : Option Nat) (a : Nat) : IssueKept s (expose s who a) := (lanesKept_expose s who a).issueKept rfl

theorem issueKept_dropLines (s : State) (p : CacheLine → Bool) : IssueKept s (dropLines s p) := (lanesKept_dropLines s p).issueKept rfl

/-- A copy is kept, or not. -/
theorem issueKept_keepLine (s : State) (keep : Bool) (cap : Nat) (c : CacheLine) : IssueKept s (if keep then keepLine s cap c else s) :=
  .ite (.ite (.refl s) ⟨rfl, rfl, rfl, fun _ => rfl⟩) (.refl s)

theorem issueKept_storeL1 (s : State) (core a : Nat) (bs : List Byte) (noL1 : Bool) : IssueKept s (storeL1 s core a bs noL1) :=
  .ite (issueKept_dropLines ..) ⟨rfl, rfl, rfl, fun _ => rfl⟩

theorem issueKept_snapshot (s : State) (who : Option Nat) (a : Nat) : IssueKept s (snapshot s who a) := by
  unfold snapshot
  split
  · exact .refl s
  · exact .ite (.refl s) (.ite ⟨rfl, rfl, rfl, fun _ => rfl⟩ ⟨rfl, rfl, rfl, fun _ => rfl⟩)

theorem issueKept_homeWrite (s : State) (who : Option Nat) (a : Nat) (bs : List (Nat × Byte)) : IssueKept s (homeWrite s who a bs) :=
  ((issueKept_expose s who a).trans (issueKept_snapshot ..)).trans (.ite ⟨rfl, rfl, rfl, fun _ => rfl⟩ ⟨rfl, rfl, rfl, fun _ => rfl⟩)

theorem issueKept_readLine (s : State) (who : Option Nat) (core ctx va a n : Nat) (fresh cst l1 way strm : Bool) :
    IssueKept s (readLine s who core ctx va a n fresh cst l1 way strm).1 := by
  unfold readLine
  dsimp only
  split
  · exact .refl s
  split
  · exact issueKept_keepLine ..
  split
  · exact issueKept_expose s who a
  · exact ((issueKept_expose s who a).trans (issueKept_dropLines ..)).trans ((issueKept_keepLine ..).trans (issueKept_keepLine ..))

/-! ## The issue of one lane -/

/-- One lane issues a memory word of this order: `Claims.OneAccess`, whatever the word's extension. -/
structure OneIssue (s : State) (o : LaneOp) (i space order disp : Nat) : Prop where
  run : s.myRun = [i]
  guard : (s.me.lane i).guard o = true
  room : s.outstanding s.cur < 64
  short : s.missShort o space disp = false
  full : (s.me.lane i).gaps i o.a (space == 0) = []
  drained : 2 ≤ order → s.Drained
  wcb : ∀ e ∈ (s.core s.me.core).wcb, e.bytes.length ≠ 128

theorem OneIssue.of_access {s : State} {o : LaneOp} {i space scope order aop hint disp : Nat}
    (h : Claims.OneAccess s o i space scope order aop hint disp) : OneIssue s o i space order disp := by
  obtain ⟨-, run, guard, room, short, full, drained, wcb⟩ := h
  exact ⟨run, guard, room, short, full, drained, wcb⟩

theorem OneIssue.unordered {s : State} {o : LaneOp} {i space order disp : Nat} (h : OneIssue s o i space order disp) :
    OneIssue s o i space 0 disp := { h with drained := fun h => absurd h (by decide) }

/-- The acquire of a word of odd order (R246). -/
def State.acquiring (s : State) (scope order : Nat) (objs : List ObjSet) : State := if order % 2 = 1 then laneAcquire s scope objs else s

/-- Lane `i` of the issuing group does its part, goes past its long word, and raises flags. -/
def State.lanePast (s : State) (i fl : Nat) (f : Lane → Lane) : State :=
  s.modGroup s.cur fun g => { g.modLane i (fun l => (f l).past 8) with flags := g.flags ||| BitVec.ofNat 64 fl }

theorem State.lanePast_zero (s : State) (i : Nat) (f : Lane → Lane) : s.lanePast i 0 f = s.laneDone i fun l => (f l).past 8 := by
  simp only [State.lanePast, BitVec.or_zero]
  rfl

theorem Lane.pc_mark (l : Lane) (n : Nat) (pair : Bool) : (l.mark n pair).pc = l.pc := Lane.foldl_drain_pc ..

section
variable {s t : State} {o : LaneOp} {i space scope order disp : Nat} {dst : Lane → List Slot}
  {part : Nat → State → Group → Nat → Lane → Int → State × LaneRes}

/-- A word of one lane with nothing to release is the word without order, then its acquire: of the lane's objects when the lane has gone past its
word (R246). -/
theorem memWord_order (h : OneIssue s o i space order disp) :
    memWord s o scope order space disp dst part =
      (memWord s o scope 0 space disp dst part).acquiring scope order (acquireObjs s o space disp (s.myRun.filter fun i =>
        ((memWord s o scope 0 space disp dst part).me.lane i).pc != (memWord s o scope 0 space disp dst part).curPc)) := by
  have released : ∀ marks k, 2 ≤ order → laneRelease s scope 8 marks k = k s := fun marks k ho => by
    obtain ⟨notLost, -⟩ := h.drained ho
    have lost : s.lossAt s.me scope = none := by rw [State.lossAt, notLost, ite_self]
    simp only [laneRelease, lost, (h.drained ho).releaseWork_eq, if_true]
  simp only [memWord, memIssue, within64_of_room _ h.room, h.short, Bool.false_eq_true, if_false, if_neg (show ¬2 ≤ 0 by omega), Nat.zero_mod,
    zero_ne_one]
  by_cases ho : 2 ≤ order
  · rw [if_pos ho, released _ _ ho]
    rfl
  · rw [if_neg ho]
    rfl

/-- One lane's memory word that goes past its word: the machine is as its part leaves it, and acquires at the end. -/
theorem memWord_lanePast (h : OneIssue s o i space order disp) {fl : Nat} {f : Lane → Lane}
    (hp : part (Claims.opOf s i) s.tick s.me i (s.me.lane i) (effAddr s.me (s.me.lane i) o.a space disp) =
      (t, { lane := f (s.me.lane i), fl := fl }))
    (hf : ∀ l, (f l).pc = l.pc) (kept : IssueKept s t) :
    memWord s o scope order space disp dst part = (t.lanePast i fl f).acquiring scope order (acquireObjs s o space disp [i]) := by
  have order' := memWord_order (scope := scope) (dst := dst) (part := part) h
  have unordered : memWord s o scope 0 space disp dst part = t.lanePast i fl f := by
    have access : Claims.OneAccess s { o with x := .mem space scope 0 0 0 disp } i space scope 0 0 0 disp :=
      ⟨rfl, h.run, h.guard, h.room, h.short, h.full, h.unordered.drained, h.wcb⟩
    refine (memWord_one access hp rfl kept.groups kept.cur (kept.wcb _)).trans ?_
    have me : t.group s.cur = s.me := by rw [State.group, kept.groups]; rfl
    rw [State.lanePast, kept.cur]
    refine t.modGroup_congr s.cur ?_
    rw [me, s.me.modLane_congr i (f' := fun l => (f l).past 8) (settle_past 8 _ _ _ (hf _))]
  obtain ⟨inside, -, atPc⟩ := Group.mem_run.1 (show i ∈ s.myRun by rw [h.run]; exact List.mem_singleton_self i)
  have lane : (t.lanePast i fl f).me.lane i = (f (s.me.lane i)).past 8 := by
    have me : (t.lanePast i fl f).me = { t.me.modLane i (fun l => (f l).past 8) with flags := t.me.flags ||| BitVec.ofNat 64 fl } := by
      refine t.group_modGroup_self _ ?_
      rw [kept.groups, kept.cur]
      by_contra hout
      have none : s.me.lanes = [] := by
        simp [State.me, State.group, List.getD_eq_getElem?_getD, List.getElem?_eq_none (Nat.le_of_not_lt hout)]
      simp [none] at inside
    rw [me, kept.me]
    exact s.me.lane_modLane_self _ inside
  have gone : ((t.lanePast i fl f).me.lane i).pc != (t.lanePast i fl f).curPc := by
    have pc : (t.lanePast i fl f).curPc = s.curPc := kept.pc
    rw [lane, pc, Lane.past, hf, atPc, bne_iff_ne]
    bv_omega
  rw [order', unordered, h.run, List.filter_singleton, gone]
  rfl

/-- The acquire of a `glob` word names the object of its address (R244). -/
theorem acquireObjs_glob (h : OneIssue s o i 0 order disp) :
    acquireObjs s o 0 disp [i] = [s.objectAt (s.ctxOf s.me) (wrap 64 (effAddr s.me (s.me.lane i) o.a 0 disp))] := by
  simp only [acquireObjs, List.map_cons, List.map_nil, h.guard, decide_true, Bool.and_self, if_true]
  rfl

/-- One lane's memory word that brings a value (R20, R269). -/
theorem memWord_brings (h : OneIssue s o i space order disp) {ext v : Nat}
    (hp : part (Claims.opOf s i) s.tick s.me i (s.me.lane i) (effAddr s.me (s.me.lane i) o.a space disp) =
      memEnd t (.val v) i (s.me.lane i) (some { group := s.cur, lane := i, slot := (s.me.lane i).slotOf o.d, pair := o.s, ext := ext }) o.d
        (Claims.opOf s i))
    (kept : IssueKept s t) :
    memWord s o scope order space disp dst part =
      (Claims.brings s t o i ext v).acquiring scope order (acquireObjs s o space disp [i]) := by
  refine (memWord_lanePast h (f := fun l => l.mark o.d o.s) hp (fun l => l.pc_mark ..) ?_).trans ?_
  · exact ⟨kept.groups, kept.cur, kept.pc, kept.wcb⟩
  · rw [State.lanePast_zero]
    rfl

/-- What brings no value leaves the lane as it is. -/
theorem memEnd_none (kept : IssueKept s t) (v i : Nat) (l : Lane) (dn op : Nat) :
    memEnd t (.val v) i l none dn op = (t, { lane := s.me.lane i }) := by
  rw [← kept.me]
  rfl

/-- One lane's memory word that brings none (R270, R274). -/
theorem memWord_goesOn (h : OneIssue s o i space order disp) {fl : Nat}
    (hp : part (Claims.opOf s i) s.tick s.me i (s.me.lane i) (effAddr s.me (s.me.lane i) o.a space disp) = (t, { lane := s.me.lane i, fl := fl }))
    (kept : IssueKept s t) :
    memWord s o scope order space disp dst part = (Claims.goesOn t i fl).acquiring scope order (acquireObjs s o space disp [i]) :=
  memWord_lanePast h (f := id) hp (fun _ => rfl) kept

end

/-! ## Device memory, from a core with nothing buffered -/

section
variable {s : State} {q : GlobAcc} {a : Nat}

/-- An aligned `glob` address translated to device memory is an access of that memory (R265, R267). -/
theorem laneAccess_glob {i kind : Nat} {ea : Int} (align : wrap 64 ea % q.n = 0)
    (hk : (if q.kind = 0 then 0 else if q.kind = 1 then 1 else 2) = kind)
    (ht : s.trans (s.group q.gid).core q.ctx (wrap 64 ea) kind q.failed = (s, .ok (.dpa a) false)) :
    laneAccess s i 0 ea q = dpaAccess s { q with va := wrap 64 ea } a false := by
  simp only [laneAccess, align, ne_eq, not_true_eq_false, if_false, globAccess, hk, ht]

theorem flushOverlap_of_no_red {core : Nat} (h : (s.core core).red = []) (t : Target) (n : Nat) : flushOverlap s core t n = s := by
  rw [flushOverlap, h]
  rfl

theorem redStands_of_no_red {core : Nat} (h : (s.core core).red = []) (t : Target) (n : Nat) : s.redStands core t n = none := by
  rw [State.redStands, h]
  rfl

/-- A line whose write needs no snoop may be read without one (R324). -/
theorem snoopNeeded_read (h : s.snoopNeeded a true = false) : s.snoopNeeded a false = false := by
  unfold State.snoopNeeded at *
  cases hm : s.hostLines.find (lineOf a) with
  | none => rw [hm] at h; exact h
  | some m => rw [hm] at h; simp at h

/-- No store of the core awaits the home of a line: none is performed, and none stands (R240). -/
theorem performStores_of_line {core : Nat} (h : ∀ st ∈ s.stores, st.core ≠ core) (n : Nat) :
    performStores n s (fun st => st.core == core && lineOf st.dpa == lineOf a) = s :=
  performStores_of_none n fun st hst => by rw [beq_eq_false_iff_ne.2 (h st hst), Bool.false_and]

theorem any_store_of_line {core : Nat} (h : ∀ st ∈ s.stores, st.core ≠ core) :
    s.stores.any (fun st => st.core == core && lineOf st.dpa == lineOf a) = false :=
  List.any_eq_false.2 fun st hst => by simp [h st hst]

/-- A home that an atomic leaves with a new value, or only exposes (R231, R252). -/
def homeAtomic (s : State) (who : Option Nat) (a n : Nat) (new : Option Nat) : State :=
  new.elim (expose s who a) fun v => homeWrite s who a (spread a (natBytes n v))

/-- An atomic of a good line acts at its home (R231, R252). -/
theorem homeRmw_of_good {who : Option Nat} {n : Nat} {f : Nat → Option Nat} (h : s.lineClass a = 0) :
    homeRmw s who a (8 * n) f = (homeAtomic s who a n (f (bytesNat (s.bytes a n))), bytesNat (s.bytes a n), 0) := by
  have bytes : 8 * n / 8 = n := Nat.mul_div_cancel_left n (by decide)
  simp only [homeRmw, h, ne_eq, not_true_eq_false, if_false, bytes]
  cases f (bytesNat (s.bytes a n)) <;> rfl

theorem issueKept_homeAtomic (s : State) (who : Option Nat) (a n : Nat) (new : Option Nat) : IssueKept s (homeAtomic s who a n new) := by
  cases new with
  | none => exact issueKept_expose s who a
  | some v => exact issueKept_homeWrite s who a _

/-- The issuing group's atomic at `a`, whose old value is `old` and new one, if any, `new`: the home acts, and the core's copies follow (R252). -/
def State.updating (s : State) (a n old : Nat) (new : Option Nat) : State :=
  storeL1 (dropWay (homeAtomic s (some (s.teamOf s.me).launch) a n new) s.me.core a) s.me.core a (natBytes n (new.getD old)) false

/-- The issuing group's store of `bs` at `a`: the core's copy follows, and the store waits in order for its home (R214, R240). -/
def State.storing (s : State) (a op : Nat) (bs : List Byte) (noL1 : Bool) : State :=
  { storeL1 s s.me.core a bs noL1 with
    stores := s.stores ++
      [{ core := s.me.core, group := s.cur, launch := (s.teamOf s.me).launch, dpa := a, bytes := spread a bs, op := op }] }

/-- The issuing group's reduction of `v` into `a` enters the buffer of its core (R253). -/
def State.reducing (s : State) (va a op : Nat) (wide : Bool) (v : Nat) : State :=
  s.modCore s.me.core fun c => { c with red := c.red ++
    [{ ctx := s.ctxOf s.me, group := s.cur, tgt := .dpa a, op := op, wide := wide, val := BitVec.ofNat 64 v, born := s.clock,
       writers := [(s.cur, va)] }] }

theorem issueKept_updating (s : State) (a n old : Nat) (new : Option Nat) : IssueKept s (s.updating a n old new) :=
  ((issueKept_homeAtomic ..).trans (issueKept_dropLines ..)).trans (issueKept_storeL1 ..)

theorem issueKept_storing (s : State) (a op : Nat) (bs : List Byte) (noL1 : Bool) : IssueKept s (s.storing a op bs noL1) :=
  (issueKept_storeL1 s s.me.core a bs noL1).trans ⟨rfl, rfl, rfl, fun _ => rfl⟩

/-- What a change of a core keeps, it keeps in every core. -/
theorem State.modCore_keeps {α : Type} (π : Core → α) {s : State} {k : Nat} {f : Core → Core} (h : ∀ x, π (f x) = π x) (c : Nat) :
    π ((s.modCore k f).core c) = π (s.core c) := by
  by_cases hc : c = k
  · subst hc
    rw [s.core_modCore_self, h]
  · rw [State.core, State.modCore, AMap.get_set_ne _ _ _ hc, State.core]

theorem issueKept_reducing (s : State) (va a op : Nat) (wide : Bool) (v : Nat) : IssueKept s (s.reducing va a op wide v) :=
  ⟨rfl, rfl, rfl, State.modCore_keeps Core.wcb fun _ => rfl⟩

variable (hd : s.Drained) (hq : q.gid = s.cur)
include hd hq

/-- A load of a line that stands at its home alone reads the home (R213, R239). -/
theorem dpaAccess_read (hk : q.kind = 0) (hn : a % 128 + q.n ≤ 128) (hl : s.lineClass a = 0) (hs : s.snoopNeeded a false = false)
    (hc : ∀ c ∈ s.caches, c.dpa = lineOf a → c.holder ≠ s.me.core ∧ c.holder ≠ ccHolder (clusterOf s.me.core)) :
    dpaAccess s q a false = ((readLine s (some (s.teamOf s.me).launch) s.me.core q.ctx q.va a q.n q.fresh q.cst (q.hint != 3) true
      (q.hint == 1)).1, .val (bytesNat (s.bytes a q.n))) := by
  obtain ⟨-, stores, red, -⟩ := hd
  have value := readLine_home (some (s.teamOf s.me).launch) q.ctx q.va q.fresh q.cst (q.hint != 3) true (q.hint == 1) hn ⟨hl, hs, stores, red, hc⟩
  unfold dpaAccess
  simp only [hq, hk, flushOverlap_of_no_red red, redStands_of_no_red red, performStores_of_line stores, any_store_of_line stores, hs, value,
    Bool.false_and, Bool.and_true, Bool.or_false, Bool.not_false, Bool.false_eq_true, if_false, OfNat.zero_ne_ofNat, ne_eq,
    not_true_eq_false]

/-- The first store of an issue waits in order for its home (R240). -/
theorem dpaAccess_write (hk : q.kind = 1) (hs : ∀ st ∈ s.stores, st.op ≠ q.op) :
    dpaAccess s q a false = (s.storing a q.op (natBytes q.n q.data) (q.hint == 3), .val 0) := by
  obtain ⟨-, stores, red, -⟩ := hd
  have same : (storeL1 s s.me.core a (natBytes q.n q.data) (q.hint == 3)).stores = s.stores := by
    unfold storeL1
    split <;> rfl
  have none : s.stores.findIdx? (fun st => st.op == q.op && st.group == s.cur && !st.tso && lineOf st.dpa == lineOf a) = none :=
    List.findIdx?_eq_none_iff.2 fun st hst => by simp [hs st hst]
  unfold dpaAccess
  simp only [hq, hk, flushOverlap_of_no_red red, redStands_of_no_red red, Bool.false_and, Bool.false_eq_true, if_false, same, none,
    OfNat.one_ne_ofNat, State.storing]

/-- An atomic or a `cas` acts at the home, and the core's copies follow (R231, R252). -/
theorem dpaAccess_rmw (hk : q.kind = 2 ∨ q.kind = 3) (hl : s.lineClass a = 0) (hs : s.snoopNeeded a true = false) :
    let old := bytesNat (s.bytes a q.n)
    dpaAccess s q a false = (s.updating a q.n old (rmwFun q.kind q.aop (8 * q.n) q.data q.cmp old), .val old) := by
  obtain ⟨-, stores, red, -⟩ := hd
  unfold dpaAccess
  rcases hk with hk | hk
  all_goals
    simp only [hq, hk, flushOverlap_of_no_red red, redStands_of_no_red red, performStores_of_line stores, any_store_of_line stores, hs,
      homeRmw_of_good hl, Bool.false_and, Bool.or_false, Bool.false_eq_true, if_false, Nat.reduceEqDiff, ne_eq, not_true_eq_false,
      State.updating]

/-- A reduction enters an empty buffer (R253). -/
theorem dpaAccess_red (hk : q.kind = 4) (hc : q.ctx = s.ctxOf s.me) {wide : Bool} (hw : (q.n == 8) = wide) :
    dpaAccess s q a false = (s.reducing q.va a q.aop wide q.data, .val 0) := by
  subst hw
  obtain ⟨-, -, red, -, hosts, fabs⟩ := hd
  have flushing : s.flushing s.me.core (.dpa a) = false := by
    rw [State.flushing, Bool.or_eq_false_iff]
    exact ⟨List.any_eq_false.2 fun r hr => by simp [fabs r hr], List.any_eq_false.2 fun r hr => by simp [hosts r hr]⟩
  have entered : redEnter s s.me.core s.cur q.ctx q.va (.dpa a) q.aop (q.n == 8) q.data =
      (s.reducing q.va a q.aop (q.n == 8) q.data, none) := by
    simp only [redEnter, red, List.find?_nil, flushOverlap_of_no_red red, redStands_of_no_red red, flushing, Bool.false_eq_true, if_false,
      List.length_nil, show ¬64 ≤ 0 by omega, Option.bind_none, hc, State.reducing]
  unfold dpaAccess
  simp only [hq, hk, Bool.false_and, Bool.false_eq_true, if_true, if_false, entered]

end

/-! ## The words -/

/-- Lane `i`'s address reaches `n` aligned bytes at `a` of a good line of device memory that the host does not hold, by a page of the core's TLB that
permits `kind`; the core has nothing buffered. -/
structure ReachesHome (s : State) (o : LaneOp) (i disp a n kind : Nat) : Prop where
  drained : s.Drained
  aligned : wrap 64 (effAddr s.me (s.me.lane i) o.a 0 disp) % n = 0
  alignedHome : a % n = 0
  size : n ∈ [1, 2, 4, 8]
  good : s.lineClass a = 0
  recalled : s.snoopNeeded a true = false
  page : s.tick.trans s.me.core (s.ctxOf s.me) (wrap 64 (effAddr s.me (s.me.lane i) o.a 0 disp)) kind (s.me.lane i).failed.isSome =
    (s.tick, .ok (.dpa a) false)

section
variable {s : State} {o : LaneOp} {i scope order aop hint disp a n kind : Nat}

theorem ReachesHome.inLine (r : ReachesHome s o i disp a n kind) : a % 128 + n ≤ 128 := by
  have size := r.size
  have home := r.alignedHome
  simp only [List.mem_cons, List.not_mem_nil, or_false] at size
  rcases size with rfl | rfl | rfl | rfl <;> omega

/-- The lane's access is one of its home (R265, R267). -/
theorem ReachesHome.laneAccess_eq (r : ReachesHome s o i disp a n kind) {q : GlobAcc} (hg : q.gid = s.cur) (hn : q.n = n)
    (hk : (if q.kind = 0 then 0 else if q.kind = 1 then 1 else 2) = kind) (hc : q.ctx = s.ctxOf s.me)
    (hf : q.failed = (s.me.lane i).failed.isSome) :
    laneAccess s.tick i 0 (effAddr s.me (s.me.lane i) o.a 0 disp) q =
      dpaAccess s.tick { q with va := wrap 64 (effAddr s.me (s.me.lane i) o.a 0 disp) } a false := by
  refine laneAccess_glob (by rw [hn]; exact r.aligned) hk ?_
  rw [hg, hc, hf]
  exact r.page

/-- `ld` (R269). -/
theorem exec_ld_glob (h : Claims.OneAccess s o i 0 scope order aop hint disp) (r : ReachesHome s o i disp a n 0) (hn : n = ldBytes (o.b % 8))
    (full : (s.me.lane i).gaps i o.d o.s = [])
    (hc : ∀ c ∈ s.caches, c.dpa = lineOf a → c.holder ≠ s.me.core ∧ c.holder ≠ ccHolder (clusterOf s.me.core)) :
    let va := wrap 64 (effAddr s.me (s.me.lane i) o.a 0 disp)
    exec (.ld o) s = .next ((Claims.brings s (readLine s.tick (some (s.teamOf s.me).launch) s.me.core (s.ctxOf s.me) va a n
      (order % 2 == 1 && 2 ≤ scope) false (hint != 3) true (hint == 1)).1 o i (ldExt (o.b % 8)) (bytesNat (s.bytes a n))).acquiring scope order
        [s.objectAt (s.ctxOf s.me) va]) := by
  intro va
  subst hn
  rw [← acquireObjs_glob (.of_access h)]
  show execLd o s = _
  simp only [execLd, h.1]
  refine congrArg Host.Outcome.next (memWord_brings (.of_access h) ?_ ((issueKept_tick s).trans (issueKept_readLine ..)))
  refine (gatedM_of_full _ _ _ full).trans ?_
  rw [r.laneAccess_eq rfl rfl rfl rfl rfl, dpaAccess_read (s := s.tick) r.drained rfl rfl r.inLine r.good (snoopNeeded_read r.recalled) hc]
  rfl

/-- `st` (R270, R271). -/
theorem exec_st_glob (h : Claims.OneAccess s o i 0 scope order aop hint disp) (r : ReachesHome s o i disp a n 1) (hn : n = ldBytes (o.d % 8))
    (full : (s.me.lane i).gaps i o.b o.s = []) {v fl : Nat} (hv : Claims.stored s o i = some (v, fl))
    (hs : ∀ st ∈ s.stores, st.op ≠ Claims.opOf s i) :
    exec (.st o) s = .next ((Claims.goesOn (s.tick.storing a (Claims.opOf s i) (natBytes n (v % 2 ^ (8 * n))) (hint == 3)) i fl).acquiring
      scope order [s.objectAt (s.ctxOf s.me) (wrap 64 (effAddr s.me (s.me.lane i) o.a 0 disp))]) := by
  subst hn
  rw [← acquireObjs_glob (.of_access h)]
  show execSt o s = _
  simp only [execSt, h.1]
  have kept := (issueKept_tick s).trans (issueKept_storing s.tick a (Claims.opOf s i)
    (natBytes (ldBytes (o.d % 8)) (v % 2 ^ (8 * ldBytes (o.d % 8)))) (hint == 3))
  refine congrArg Host.Outcome.next (memWord_goesOn (.of_access h) ((gatedM_of_full _ _ _ full).trans ?_) kept)
  have value : (if tb o.d 3 then bndCheck ((s.tick.launchOf s.me).bnd.get {} (s.me.bndidx.toNat % 64)) ((s.me.lane i).rdOp s.me.depth o.b o.s)
      else some ((s.me.lane i).rdOp s.me.depth o.b o.s, 0)) = some (v, fl) := by rw [tb_eq_testBit]; exact hv
  simp only [value]
  rw [r.laneAccess_eq rfl rfl rfl rfl rfl, dpaAccess_write (s := s.tick) r.drained rfl rfl]
  · exact congrArg (fun x : State × LaneRes => (x.1, if x.2.out == .next then { x.2 with fl := fl } else x.2)) (memEnd_none kept 0 i _ 0 _)
  · exact hs

section
variable (h : Claims.OneAccess s o i 0 scope order aop hint disp) (r : ReachesHome s o i disp a n 2) (hn : n = Claims.wideBytes o)
  (fullB : (s.me.lane i).gaps i o.b o.s = [])
include h r hn fullB

/-- `red` (R274): it has no order, whatever its extension names. -/
theorem exec_red_glob :
    let va := wrap 64 (effAddr s.me (s.me.lane i) o.a 0 disp)
    exec (.red o) s = .next (Claims.goesOn (s.tick.reducing va a aop o.s ((s.me.lane i).rdOp s.me.depth o.b o.s)) i 0) := by
  intro va
  subst hn
  have wide : (Claims.wideBytes o == 8) = o.s := by cases hs : o.s <;> simp [Claims.wideBytes, hs]
  show execRed o s = _
  simp only [execRed, h.1]
  have kept := (issueKept_tick s).trans (issueKept_reducing s.tick va a aop o.s ((s.me.lane i).rdOp s.me.depth o.b o.s))
  refine congrArg Host.Outcome.next (memWord_goesOn (OneIssue.of_access h).unordered ((gatedM_of_full _ _ _ fullB).trans ?_) kept)
  rw [r.laneAccess_eq rfl rfl rfl rfl rfl, dpaAccess_red (s := s.tick) r.drained rfl rfl rfl wide]
  exact memEnd_none kept 0 i (s.me.lane i) 0 (Claims.opOf s i)

variable (fullD : (s.me.lane i).gaps i o.d o.s = [])
include fullD

/-- `atom` (R273). -/
theorem exec_atom_glob :
    let old := bytesNat (s.bytes a n)
    exec (.atom o) s = .next ((Claims.brings s (s.tick.updating a n old (some (rmw aop (8 * n) old ((s.me.lane i).rdOp s.me.depth o.b o.s))))
      o i 0 old).acquiring scope order [s.objectAt (s.ctxOf s.me) (wrap 64 (effAddr s.me (s.me.lane i) o.a 0 disp))]) := by
  intro old
  subst hn
  have full : (s.me.lane i).gaps i o.b o.s ++ (s.me.lane i).gaps i o.d o.s = [] := by rw [fullB, fullD]; rfl
  rw [← acquireObjs_glob (.of_access h)]
  show execAtom o s = _
  simp only [execAtom, h.1]
  refine congrArg Host.Outcome.next (memWord_brings (.of_access h) ((gatedM_of_full _ _ _ full).trans ?_)
    ((issueKept_tick s).trans (issueKept_updating ..)))
  rw [r.laneAccess_eq rfl rfl rfl rfl rfl, dpaAccess_rmw (s := s.tick) r.drained rfl (.inl rfl) r.good r.recalled]
  rfl

/-- `cas` (R275): `new` is what it stores, if it stores. -/
theorem exec_cas_glob {new : Option Nat}
    (hnew : (if bytesNat (s.bytes a n) = (s.me.lane i).rdOp s.me.depth o.d o.s then some ((s.me.lane i).rdOp s.me.depth o.b o.s) else none) = new) :
    exec (.cas o) s = .next ((Claims.brings s (s.tick.updating a n (bytesNat (s.bytes a n)) new) o i 0 (bytesNat (s.bytes a n))).acquiring
      scope order [s.objectAt (s.ctxOf s.me) (wrap 64 (effAddr s.me (s.me.lane i) o.a 0 disp))]) := by
  subst hnew hn
  have full : (s.me.lane i).gaps i o.b o.s ++ (s.me.lane i).gaps i o.d o.s = [] := by rw [fullB, fullD]; rfl
  rw [← acquireObjs_glob (.of_access h)]
  show execCas o s = _
  simp only [execCas, h.1]
  refine congrArg Host.Outcome.next (memWord_brings (.of_access h) ((gatedM_of_full _ _ _ full).trans ?_)
    ((issueKept_tick s).trans (issueKept_updating ..)))
  rw [r.laneAccess_eq rfl rfl rfl rfl rfl, dpaAccess_rmw (s := s.tick) r.drained rfl (.inr rfl) r.good r.recalled]
  rfl

end

end

/-- Settles O19: the lane's page leads to the home, where each kind of access does its part; the word then goes past, and acquires at the end. -/
theorem globalAccessesReachTheirHome : Obligations.GlobalAccessesReachTheirHome := by
  unfold Obligations.GlobalAccessesReachTheirHome
  intro s o i scope order aop hint disp a n kind h g l va who b d old full fin upd drained aligned home size good recalled page
  have r : ReachesHome s o i disp a n kind := ⟨drained, aligned, home, size, good, recalled, page⟩
  refine ⟨?_, ?_, ?_⟩
  · rintro rfl hn full hc
    exact exec_ld_glob h r hn full hc
  · rintro v fl rfl hn full hv hs
    exact exec_st_glob h r hn full hv hs
  · rintro rfl hn fullB
    exact ⟨fun fullD => ⟨exec_atom_glob h r hn fullB fullD, fun he => exec_cas_glob h r hn fullB fullD (new := some b) (if_pos he),
      fun hne => exec_cas_glob h r hn fullB fullD (new := none) (if_neg hne)⟩, exec_red_glob h r hn fullB⟩

end Sys2Proof.Machine
end

section
/-! O18: a lane's access of its team's scratch (R266, R269 to R275). -/

namespace Sys2Proof.Machine

/-! ## What an access of scratch changes -/

/-- `n` aligned bytes at lane `i`'s offset lie inside the scratch that its group's accesses reach (R266). -/
structure InScratch (s : State) (o : LaneOp) (i disp n : Nat) : Prop where
  nonneg : 0 ≤ effAddr s.me (s.me.lane i) o.a 1 disp
  fits : effAddr s.me (s.me.lane i) o.a 1 disp + n ≤ (s.launch (s.team (s.served s.cur).1).launch).e.scratch
  aligned : (effAddr s.me (s.me.lane i) o.a 1 disp).toNat % n = 0

/-- The old value of the `n` bytes at lane `i`'s offset. -/
def State.scratchOld (s : State) (o : LaneOp) (i disp n : Nat) : Nat :=
  (s.team (s.served s.cur).1).scr (effAddr s.me (s.me.lane i) o.a 1 disp).toNat n

/-- Lane `i`'s issue stores `new` at its offset, if anything. -/
def State.scratchTakes (s : State) (o : LaneOp) (i disp n : Nat) (new : Option Nat) : State :=
  new.elim s.tick (scrWrite s.tick (s.served s.cur).1 (effAddr s.me (s.me.lane i) o.a 1 disp).toNat n)

theorem issueKept_scratchTakes (s : State) (o : LaneOp) (i disp n : Nat) (new : Option Nat) : IssueKept s (s.scratchTakes o i disp n new) := by
  cases new with
  | none => exact issueKept_tick s
  | some v => exact ⟨rfl, rfl, rfl, fun _ => rfl⟩

/-- The acquire of a scratch word names I (R244). -/
theorem acquireObjs_scratch (s : State) (o : LaneOp) (disp i : Nat) : acquireObjs s o 1 disp [i] = [.obj 0] := rfl

section
variable {s : State} {o : LaneOp} {i scope order aop hint disp n : Nat} {q : GlobAcc}

/-- An aligned access inside the scratch reaches it (R266). -/
theorem InScratch.laneAccess_eq (r : InScratch s o i disp n) (hg : q.gid = s.cur) (hn : q.n = n) :
    laneAccess s.tick i 1 (effAddr s.me (s.me.lane i) o.a 1 disp) q =
      scrAccess s.tick (s.served s.cur).1 (effAddr s.me (s.me.lane i) o.a 1 disp).toNat q := by
  obtain ⟨nonneg, fits, aligned⟩ := r
  have served : s.tick.served q.gid = s.served s.cur := by rw [hg]; rfl
  have limit : (s.tick.launch (s.tick.team (s.served s.cur).1).launch).e.scratch =
    (s.launch (s.team (s.served s.cur).1).launch).e.scratch := rfl
  have inside : ¬(effAddr s.me (s.me.lane i) o.a 1 disp < 0 ∨
      ((s.launch (s.team (s.served s.cur).1).launch).e.scratch : Int) < effAddr s.me (s.me.lane i) o.a 1 disp + n) := by omega
  simp only [laneAccess, wrap_of_lt nonneg (effAddr_lt ..), hn, aligned, served, limit, ne_eq, not_true_eq_false, if_false, if_neg inside]

/-- A load of scratch (R269). -/
theorem InScratch.read_eq (r : InScratch s o i disp n) (hg : q.gid = s.cur) (hn : q.n = n) (hk : q.kind = 0) :
    laneAccess s.tick i 1 (effAddr s.me (s.me.lane i) o.a 1 disp) q = (s.scratchTakes o i disp n none, .val (s.scratchOld o i disp n)) := by
  subst hn
  simp only [r.laneAccess_eq hg rfl, scrAccess, hk]
  rfl

/-- A store to scratch (R270). -/
theorem InScratch.write_eq (r : InScratch s o i disp n) (hg : q.gid = s.cur) (hn : q.n = n) (hk : q.kind = 1) :
    laneAccess s.tick i 1 (effAddr s.me (s.me.lane i) o.a 1 disp) q = (s.scratchTakes o i disp n (some q.data), .val 0) := by
  subst hn
  simp only [r.laneAccess_eq hg rfl, scrAccess, hk]
  rfl

/-- An atomic, a `cas` or a reduction of scratch (R252, R273 to R275). -/
theorem InScratch.rmw_eq (r : InScratch s o i disp n) (hg : q.gid = s.cur) (hn : q.n = n) (hk : 2 ≤ q.kind) :
    laneAccess s.tick i 1 (effAddr s.me (s.me.lane i) o.a 1 disp) q =
      (s.scratchTakes o i disp n (rmwFun q.kind q.aop (8 * n) q.data q.cmp (s.scratchOld o i disp n)), .val (s.scratchOld o i disp n)) := by
  subst hn
  rw [r.laneAccess_eq hg rfl, scrAccess]
  split
  · omega
  · omega
  · split
    · next new h => exact congrArg (fun x => (s.scratchTakes o i disp q.n x, MemOut.val (s.scratchOld o i disp q.n))) h.symm
    · next h => exact congrArg (fun x => (s.scratchTakes o i disp q.n x, MemOut.val (s.scratchOld o i disp q.n))) h.symm

/-! ## The words -/

/-- `ld` (R269). -/
theorem exec_ld_scratch (h : Claims.OneAccess s o i 1 scope order aop hint disp) (r : InScratch s o i disp (ldBytes (o.b % 8)))
    (full : (s.me.lane i).gaps i o.d o.s = []) :
    exec (.ld o) s = .next ((Claims.brings s s.tick o i (ldExt (o.b % 8)) (s.scratchOld o i disp (ldBytes (o.b % 8)))).acquiring scope order
      [.obj 0]) := by
  show execLd o s = _
  simp only [execLd, h.1]
  refine congrArg Host.Outcome.next (memWord_brings (.of_access h) ((gatedM_of_full _ _ _ full).trans ?_) (issueKept_tick s))
  rw [r.read_eq rfl rfl rfl]
  rfl

/-- `st` (R270, R271). -/
theorem exec_st_scratch_acquiring (h : Claims.OneAccess s o i 1 scope order aop hint disp) (r : InScratch s o i disp (ldBytes (o.d % 8)))
    (full : (s.me.lane i).gaps i o.b o.s = []) {v fl : Nat} (hv : Claims.stored s o i = some (v, fl)) :
    exec (.st o) s = .next ((Claims.goesOn (s.scratchTakes o i disp (ldBytes (o.d % 8)) (some (v % 2 ^ (8 * ldBytes (o.d % 8))))) i fl).acquiring
      scope order [.obj 0]) := by
  show execSt o s = _
  simp only [execSt, h.1]
  have kept := issueKept_scratchTakes s o i disp (ldBytes (o.d % 8)) (some (v % 2 ^ (8 * ldBytes (o.d % 8))))
  refine congrArg Host.Outcome.next (memWord_goesOn (.of_access h) ((gatedM_of_full _ _ _ full).trans ?_) kept)
  have value : (if tb o.d 3 then bndCheck ((s.tick.launchOf s.me).bnd.get {} (s.me.bndidx.toNat % 64)) ((s.me.lane i).rdOp s.me.depth o.b o.s)
      else some ((s.me.lane i).rdOp s.me.depth o.b o.s, 0)) = some (v, fl) := by rw [tb_eq_testBit]; exact hv
  simp only [value]
  rw [r.write_eq rfl rfl rfl]
  exact congrArg (fun x : State × LaneRes => (x.1, if x.2.out == .next then { x.2 with fl := fl } else x.2)) (memEnd_none kept 0 i _ 0 _)

section
variable (h : Claims.OneAccess s o i 1 scope order aop hint disp) (r : InScratch s o i disp (Claims.wideBytes o))
  (fullB : (s.me.lane i).gaps i o.b o.s = [])
include h r fullB

/-- `red` (R274): it has no order, whatever its extension names. -/
theorem exec_red_scratch :
    let n := Claims.wideBytes o
    let new := rmw aop (8 * n) (s.scratchOld o i disp n) ((s.me.lane i).rdOp s.me.depth o.b o.s)
    exec (.red o) s = .next (Claims.goesOn (s.scratchTakes o i disp n (some new)) i 0) := by
  intro n new
  show execRed o s = _
  simp only [execRed, h.1]
  have kept := issueKept_scratchTakes s o i disp n (some new)
  refine congrArg Host.Outcome.next (memWord_goesOn (OneIssue.of_access h).unordered ((gatedM_of_full _ _ _ fullB).trans ?_) kept)
  rw [r.rmw_eq rfl rfl (by show 2 ≤ 4; decide)]
  exact memEnd_none kept _ i (s.me.lane i) 0 (Claims.opOf s i)

variable (fullD : (s.me.lane i).gaps i o.d o.s = [])
include fullD

/-- `atom` (R273). -/
theorem exec_atom_scratch :
    let n := Claims.wideBytes o
    let old := s.scratchOld o i disp n
    exec (.atom o) s = .next ((Claims.brings s (s.scratchTakes o i disp n
      (some (rmw aop (8 * n) old ((s.me.lane i).rdOp s.me.depth o.b o.s)))) o i 0 old).acquiring scope order [.obj 0]) := by
  intro n old
  have full : (s.me.lane i).gaps i o.b o.s ++ (s.me.lane i).gaps i o.d o.s = [] := by rw [fullB, fullD]; rfl
  show execAtom o s = _
  simp only [execAtom, h.1]
  refine congrArg Host.Outcome.next (memWord_brings (.of_access h) ((gatedM_of_full _ _ _ full).trans ?_) (issueKept_scratchTakes ..))
  rw [r.rmw_eq rfl rfl (by show 2 ≤ 2; decide)]
  rfl

/-- `cas` (R275): `new` is what it stores, if it stores. -/
theorem exec_cas_scratch :
    let n := Claims.wideBytes o
    let old := s.scratchOld o i disp n
    let new := if old = (s.me.lane i).rdOp s.me.depth o.d o.s then some ((s.me.lane i).rdOp s.me.depth o.b o.s) else none
    exec (.cas o) s = .next ((Claims.brings s (s.scratchTakes o i disp n new) o i 0 old).acquiring scope order [.obj 0]) := by
  intro n old new
  have full : (s.me.lane i).gaps i o.b o.s ++ (s.me.lane i).gaps i o.d o.s = [] := by rw [fullB, fullD]; rfl
  show execCas o s = _
  simp only [execCas, h.1]
  refine congrArg Host.Outcome.next (memWord_brings (.of_access h) ((gatedM_of_full _ _ _ full).trans ?_) (issueKept_scratchTakes ..))
  rw [r.rmw_eq rfl rfl (by show 2 ≤ 3; decide)]
  rfl

end

end

/-- Settles O18: inside the scratch an aligned access acts on it at once; the lane then goes past its word, and acquires at the end. -/
theorem scratchAccessesActAtOnce : Obligations.ScratchAccessesActAtOnce := by
  unfold Obligations.ScratchAccessesActAtOnce
  intro s o i scope order aop hint disp h l own ea n b inside old put fin full
  have reach : ∀ {n : Nat}, inside n → InScratch s o i disp n := fun ⟨nonneg, fits, aligned⟩ => ⟨nonneg, fits, aligned⟩
  refine ⟨fun fullD hin => exec_ld_scratch h (reach hin) fullD, fun v fl fullB hin hv => exec_st_scratch_acquiring h (reach hin) fullB hv,
    fun hin fullB fullD => ⟨exec_atom_scratch h (reach hin) fullB fullD, ?_⟩, fun hin fullB => exec_red_scratch h (reach hin) fullB⟩
  refine (exec_cas_scratch h (reach hin) fullB fullD).trans ?_
  have stored : (if old n = l.rdOp s.me.depth o.d o.s then put n b else s.tick) =
      s.scratchTakes o i disp n (if old n = l.rdOp s.me.depth o.d o.s then some b else none) := by split <;> rfl
  rw [stored]
  rfl

end Sys2Proof.Machine
end

section
/-! O25: uniform accesses of device memory (R283, R284). -/

namespace Sys2Proof.Machine

/-! ## Addresses and values -/

theorem kld_address (s : State) (o : UOp) : ((s.u o.a).toNat + simm12 o) % 2 ^ 64 = (s.u o.a + Claims.low o).toNat := by
  rw [simm12, sext_toNat (by decide), BitVec.toNat_add]
  rfl

theorem low_toInt (o : UOp) : (Claims.low o).toInt = sx 12 o.imm12 := by
  rw [Claims.low, BitVec.toInt_signExtend_of_le (by decide), sx_toInt (by decide)]

/-- What a uniform load writes (R283). -/
theorem ofNat_uExtend (f3 v : Nat) : BitVec.ofNat 64 (uExtend f3 v) = Claims.kldValue f3 v := by
  unfold uExtend Claims.kldValue
  split
  case h_4 => rfl
  all_goals rw [sext_toNat (by decide), BitVec.ofNat_toNat, BitVec.setWidth_eq]

theorem kldSize_mem (f3 : Nat) : Claims.kldSize f3 ∈ [1, 2, 4, 8] := by
  unfold Claims.kldSize
  split_ifs <;> decide

theorem kldSize_inLine {a f3 : Nat} (h : a % Claims.kldSize f3 = 0) : a % 128 + Claims.kldSize f3 ≤ 128 := by
  have size := kldSize_mem f3
  simp only [List.mem_cons, List.not_mem_nil, or_false] at size
  rcases size with e | e | e | e <;> rw [e] at h ⊢ <;> omega

/-! ## An access that acts at once -/

/-- An address that the core's TLB translates to device memory is an access of that memory (R265). -/
theorem globAccess_dpa {s : State} {q : GlobAcc} {a kind : Nat} (hk : (if q.kind = 0 then 0 else if q.kind = 1 then 1 else 2) = kind)
    (ht : s.trans (s.group q.gid).core q.ctx q.va kind q.failed = (s, .ok (.dpa a) false)) : globAccess s q = dpaAccess s q a false := by
  simp only [globAccess, hk, ht]

/-- A buffer without entries has none to drain (R308). -/
theorem wcSettle_of_drained {s t : State} (hd : s.Drained) (kept : IssueKept s t) : wcSettle t (t.group t.cur).core = t := by
  obtain ⟨-, -, -, wcb, -⟩ := hd
  have core : (t.group t.cur).core = s.me.core := congrArg Group.core kept.me
  refine drainWcb_of_none fun e he => ?_
  rw [core, kept.wcb, wcb] at he
  exact absurd he List.not_mem_nil

section
variable {s t : State} {o : UOp} {a v : Nat} (conv : s.Conv) (room : s.outstanding s.cur < 64)
include conv room

/-- An aligned `glob` access of a converged group that acts at once (R283). -/
theorem uGlob_of_val {kind : Nat} (hd : s.Drained) (align : (s.u o.a + Claims.low o).toNat % Claims.kldSize o.f3 = 0)
    (access : globAccess s.tick (s.uacc kind (s.u o.a + Claims.low o).toNat (Claims.kldSize o.f3) o.d o.f3 false
      ((s.u o.d).toNat % 2 ^ (8 * Claims.kldSize o.f3))) = (t, .val v)) (kept : IssueKept s t) :
    uGlob s o kind = advance (if kind = 0 then setU t o.d (Claims.kldValue o.f3 v) else t) := by
  have size : uBytes o.f3 = Claims.kldSize o.f3 := rfl
  simp only [uGlob, uniform_of_conv _ conv, within64_of_room _ room, size, kld_address, align, ne_eq, not_true_eq_false, if_false, access,
    wcSettle_of_drained hd kept, uniformEnd, ofNat_uExtend]

/-- An aligned access inside the constant region that acts at once (R283, R284). -/
theorem execKldc_of_val {off : Nat} (user : s.me.priv = .user) (hoff : ((s.u o.a).toNat : Int) + (Claims.low o).toInt = off)
    (fits : off + Claims.kldSize o.f3 ≤ (s.launchOf s.me).e.cs) (align : off % Claims.kldSize o.f3 = 0)
    (top : (s.launchOf s.me).e.cb + (s.launchOf s.me).e.cs < 2 ^ 64)
    (access : globAccess s.tick (s.uacc 0 ((s.launchOf s.me).e.cb + off) (Claims.kldSize o.f3) o.d o.f3 true 0) = (t, .val v)) :
    execKldc o s = .next (t.wroteU o.d (Claims.kldValue o.f3 v)) := by
  have size : uBytes o.f3 = Claims.kldSize o.f3 := rfl
  have unsupervised : (s.me.priv == Priv.supervisor) = false := by rw [user]; rfl
  have low : off < 2 ^ 64 := by omega
  have page : ((s.launchOf s.me).e.cb + off) % 2 ^ 64 = (s.launchOf s.me).e.cb + off := Nat.mod_eq_of_lt (by omega)
  have inside : ¬((off : Int) < 0 ∨ (((s.launchOf s.me).e.cs : Nat) : Int) < off + (Claims.kldSize o.f3 : Nat)) := by omega
  have wrapped : wrap 64 (off : Int) = off := wrap_of_lt (Int.natCast_nonneg _) (by exact_mod_cast low)
  simp only [execKldc, uniform_of_conv _ conv, within64_of_room _ room, ← low_toInt, hoff, size, unsupervised, wrapped, align, ne_eq,
    not_true_eq_false, Bool.false_eq_true, if_false, if_neg inside, Int.toNat_natCast, page, access, uniformEnd, ofNat_uExtend, advance_setU]

end

/-! ## The words -/

/-- A converged group with room for an operation, nothing buffered, and aligned bytes at `a` of a good line that nothing of the core caches and the
host does not hold. -/
structure UniformHome (s : State) (o : UOp) (a : Nat) : Prop where
  conv : s.Conv
  room : s.outstanding s.cur < 64
  drained : s.Drained
  alignedHome : a % Claims.kldSize o.f3 = 0
  good : s.lineClass a = 0
  recalled : s.snoopNeeded a true = false
  uncached : ∀ c ∈ s.caches, c.dpa = lineOf a → c.holder ≠ s.me.core ∧ c.holder ≠ ccHolder (clusterOf s.me.core)

/-- The core's TLB translates `va` to `a` for an access of `kind` (R267). -/
def State.pageTo (s : State) (va a kind : Nat) : Prop :=
  s.tick.trans s.me.core (s.ctxOf s.me) va kind s.me.failed.isSome = (s.tick, .ok (.dpa a) false)

section
variable {s : State} {o : UOp} {a : Nat} (u : UniformHome s o a)
include u

/-- A uniform load of a home (R283). -/
theorem UniformHome.load_eq {va : Nat} (page : s.pageTo va a 0) (cst : Bool) (data : Nat) :
    globAccess s.tick (s.uacc 0 va (Claims.kldSize o.f3) o.d o.f3 cst data) =
      ((readLine s.tick (some (s.teamOf s.me).launch) s.me.core (s.ctxOf s.me) va a (Claims.kldSize o.f3) false cst true true false).1,
        .val (bytesNat (s.bytes a (Claims.kldSize o.f3)))) := by
  rw [globAccess_dpa (s := s.tick) (q := s.uacc 0 va (Claims.kldSize o.f3) o.d o.f3 cst data) rfl page]
  exact dpaAccess_read (s := s.tick) u.drained rfl rfl (kldSize_inLine u.alignedHome) u.good (snoopNeeded_read u.recalled) u.uncached

/-- `kld` (R283). -/
theorem exec_kld_home (align : (s.u o.a + Claims.low o).toNat % Claims.kldSize o.f3 = 0) (page : s.pageTo (s.u o.a + Claims.low o).toNat a 0) :
    exec (.kld o) s = .next ((readLine s.tick (some (s.teamOf s.me).launch) s.me.core (s.ctxOf s.me) (s.u o.a + Claims.low o).toNat a
      (Claims.kldSize o.f3) false false true true false).1.wroteU o.d (Claims.kldValue o.f3 (bytesNat (s.bytes a (Claims.kldSize o.f3))))) := by
  show Host.Outcome.next (uGlob s o 0) = _
  rw [uGlob_of_val u.conv u.room u.drained align (u.load_eq page ..) ((issueKept_tick s).trans (issueKept_readLine ..)), if_pos rfl, advance_setU]

/-- `kst` (R283): an ordered store. -/
theorem exec_kst_home (align : (s.u o.a + Claims.low o).toNat % Claims.kldSize o.f3 = 0) (page : s.pageTo (s.u o.a + Claims.low o).toNat a 1)
    (fresh : ∀ st ∈ s.stores, st.op ≠ s.stamp) :
    exec (.kst o) s = .next ((s.tick.storing a s.stamp (natBytes (Claims.kldSize o.f3) ((s.u o.d).toNat % 2 ^ (8 * Claims.kldSize o.f3)))
      false).wentTo (s.curPc + 4)) := by
  have access := (globAccess_dpa (q := s.uacc 1 (s.u o.a + Claims.low o).toNat (Claims.kldSize o.f3) o.d o.f3 false
    ((s.u o.d).toNat % 2 ^ (8 * Claims.kldSize o.f3))) rfl page).trans (dpaAccess_write (s := s.tick) u.drained rfl rfl fresh)
  show Host.Outcome.next (uGlob s o 1) = _
  rw [uGlob_of_val u.conv u.room u.drained align access ((issueKept_tick s).trans (issueKept_storing ..)), if_neg (by decide)]
  rfl

/-- `kldc` (R283, R284): `off` is its offset in the constant region. -/
theorem exec_kldc_home {off : Nat} (user : s.me.priv = .user) (hoff : ((s.u o.a).toNat : Int) + (Claims.low o).toInt = off)
    (fits : off + Claims.kldSize o.f3 ≤ (s.launchOf s.me).e.cs) (align : off % Claims.kldSize o.f3 = 0)
    (top : (s.launchOf s.me).e.cb + (s.launchOf s.me).e.cs < 2 ^ 64) (page : s.pageTo ((s.launchOf s.me).e.cb + off) a 0) :
    exec (.kldc o) s = .next ((readLine s.tick (some (s.teamOf s.me).launch) s.me.core (s.ctxOf s.me) ((s.launchOf s.me).e.cb + off) a
      (Claims.kldSize o.f3) false true true true false).1.wroteU o.d (Claims.kldValue o.f3 (bytesNat (s.bytes a (Claims.kldSize o.f3))))) :=
  execKldc_of_val u.conv u.room user hoff fits align top (u.load_eq page true 0)

end

/-- Settles O25: the page leads to the home; a load's line is read there, a store waits in order, and the group goes on. -/
theorem uniformAccessesReachTheirHome : Obligations.UniformAccessesReachTheirHome := by
  unfold Obligations.UniformAccessesReachTheirHome
  intro s o a kind conv room drained g who n e va off at_ alignedHome good recalled uncached
  have u : UniformHome s o a := ⟨conv, room, drained, alignedHome, good, recalled, uncached⟩
  refine ⟨?_, ?_, ?_⟩
  · rintro rfl align page
    exact exec_kld_home u align page
  · rintro rfl align page fresh
    exact exec_kst_home u align page fresh
  · rintro rfl user nonneg fits align top page
    obtain ⟨k, hk⟩ := Int.eq_ofNat_of_zero_le nonneg
    rw [hk] at fits align page ⊢
    exact exec_kldc_home u user hk (by exact_mod_cast fits) (by exact_mod_cast align) top page

end Sys2Proof.Machine
end

section
/-! O45: the operations of the transfer and collective engines (R291 to R293, R299 to R302, R307, R311, R312, R317). -/

namespace Sys2Proof.Machine

/-! ## Changes of one operation -/

/-- Two changes of one operation are one change. -/
theorem State.modEng_modEng (s : State) (id : Nat) {f : EngOp → EngOp} (hf : ∀ x, x.id = id → (f x).id = id) (g : EngOp → EngOp) :
    (s.modEng id f).modEng id g = s.modEng id fun x => g (f x) := by
  simp only [State.modEng, List.map_map]
  refine congrArg (fun l => { s with engOps := l }) (List.map_congr_left fun x _ => ?_)
  by_cases hx : x.id = id
  · simp [hx, hf x hx]
  · simp [hx]

/-- The operation of a number, where it stands. -/
theorem engById_of_find {s : State} {o : EngOp} (h : s.engOps.find? (fun x => x.id == o.id) = some o) (d : EngOp) : s.engById o.id d = o := by
  rw [State.engById, h]
  rfl

/-! ## Acceptance (R292, R302) -/

/-- The check of an operation by the rules of its kind (R294, R299, R302). -/
def State.blockCheck (s : State) (o : EngOp) : Nat := if o.kind = 0 then s.xferCheck o else s.collCheck o

/-- A transfer that begins loads the generator under SEEDLD (R298). -/
def State.beginTransfer (s : State) (o : EngOp) : State :=
  if o.fd 13 13 = 1 then s.modCluster (clusterOf o.core) fun c =>
    { c with genX := some (genLoad (s.group o.group).srseed s.kdev 1 (clusterOf o.core)) }
  else s

/-- A collective that begins goes on with what a stopped one has exchanged, and takes the packets that waited for it (R293, R299). -/
def State.beginCollective (s : State) (o : EngOp) : State :=
  let die := dieOf o.core
  let seeded := if o.fd 48 48 = 1 then s.modDie die fun d => { d with genC := some (genLoad (s.group o.group).srseed s.kdev 3 die) } else s
  let p := o.resume seeded
  let t := seeded.modEng p.id fun _ => p
  collStray ((t.inbox.filter fun m => m.isFor p).foldl (fun s m => match s.engOps.find? fun x => x.id == p.id with
    | some o => collTake s o m
    | none => s) { t with inbox := t.inbox.filter fun m => !m.isFor p }) die

/-- What follows once an operation's block has been read (R292). -/
def State.blockRead (s : State) (o : EngOp) : State :=
  if o.gone then Claims.ending (if o.kind = 1 && o.tree.getLsbD 5 then collTell s o [26] else s) o.id 25
  else if s.blockCheck o ≠ 0 then Claims.ending s o.id (s.blockCheck o)
  else if o.kind = 0 then s.beginTransfer o
  else s.beginCollective o

section
variable {s : State} {o : EngOp}

theorem blockRead_gone (gone : o.gone = true) :
    s.blockRead o = Claims.ending (if o.kind = 1 ∧ o.tree.getLsbD 5 = true then collTell s o [26] else s) o.id 25 := by
  simp only [State.blockRead, gone, if_true, Bool.and_eq_true, decide_eq_true_eq]

theorem blockRead_refused (live : o.gone = false) (bad : s.blockCheck o ≠ 0) : s.blockRead o = Claims.ending s o.id (s.blockCheck o) := by
  rw [State.blockRead, if_neg (by rw [live]; decide), if_pos bad]

theorem beginTransfer_unseeded (seed : o.fd 13 13 = 0) : s.beginTransfer o = s := if_neg (by omega)

theorem blockRead_begins (live : o.gone = false) (good : s.blockCheck o = 0) :
    s.blockRead o = if o.kind = 0 then s.beginTransfer o else s.beginCollective o := by
  rw [State.blockRead, if_neg (by rw [live]; decide), if_neg (not_not.2 good)]

end

/-- The state in which an operation has been accepted with its block. -/
def State.accepting (s : State) (o : EngOp) (b : List Byte) : State := (engUsed s o).modEng o.id fun _ => Claims.acceptedOp s o b

section
variable {s : State} {k : Nat} {o : EngOp} {b : List Byte}

/-- An operation that may begin is accepted with the block that it reads (R292). -/
theorem exec_engineAccept (hk : s.engOps[k]? = some o) (new : o.accepted = false) (runs : o.status = 0) (first : s.engMayBegin o = true)
    (block : rdRange s (s.engAcc o) o.blk 128 = (s, .ok b)) :
    exec (.engineAccept k) s = .next ((s.accepting o b).blockRead (Claims.acceptedOp s o b)) := by
  have may : ¬(o.accepted || o.status ≠ 0 || !s.engMayBegin o) = true := by simp [new, runs, first]
  show execEngineAccept k s = _
  rw [execEngineAccept, hk]
  refine congrArg Host.Outcome.next ((if_neg may).trans ?_)
  rw [block]
  clear may hk new runs first block
  -- The kind says where the block's fields lie; the model and the statement ask for it by different tests, which compute alike.
  rcases o with ⟨id, kind⟩
  rcases kind with _ | kind
  · rfl
  · rfl

theorem collStray_of_no_packets (h : s.inbox = []) (die : Nat) : collStray s die = s := by
  rw [collStray, h]
  exact ite_self s

/-- With no stopped operation to go on with and no packet waiting, a collective begins as it is (R293, R299). -/
theorem beginCollective_of_none {p : EngOp} (seed : p.fd 48 48 = 0) (kept : (s.accepting o b).keptOp p = none) (inbox : s.inbox = [])
    (hp : p = Claims.acceptedOp s o b) : (s.accepting o b).beginCollective p = s.accepting o b := by
  have same : p.resume (s.accepting o b) = p := by rw [EngOp.resume, kept]
  have again : (s.accepting o b).modEng p.id (fun _ => p) = s.accepting o b := by
    subst hp
    exact State.modEng_modEng _ _ (fun _ _ => rfl) _
  have empty : (s.accepting o b).inbox = [] := inbox
  simp only [State.beginCollective]
  rw [if_neg (by rw [seed]; decide), same, again, empty]
  refine (collStray_of_no_packets ?_ _).trans (congrArg (fun l => { s.accepting o b with inbox := l }) empty.symm)
  rfl

end

/-! ## Completion (R292 to R302) -/

/-- The status that an operation begins to end with when its units end so: 1 when all are made, or where it must stop. -/
def UnitRes.ending : UnitRes → Option Nat
  | .more => some 1
  | .stop c => some c
  | .wait => none

section
variable {s t u : State} {k c : Nat} {o : EngOp} {r : UnitRes}

/-- Each engine completes the operations of its kind. -/
theorem exec_transferComplete (hk : s.engOps[k]? = some o) (kind : o.kind = 0) (accepted : o.accepted = true) (runs : o.status = 0) :
    exec (.transferComplete k) s = .next (engEndRun 6 (if o.endStep = 0 then transferRun s o else s) o.id) := by
  show execTransferComplete k s = _
  simp [execTransferComplete, hk, kind, accepted, runs]

theorem exec_collectiveComplete (hk : s.engOps[k]? = some o) (kind : o.kind = 1) (accepted : o.accepted = true) (runs : o.status = 0) :
    exec (.collectiveComplete k) s = .next (engEndRun 6 (if o.endStep = 0 then collRun s o else s) o.id) := by
  show execCollectiveComplete k s = _
  simp [execCollectiveComplete, hk, kind, accepted, runs]

theorem exec_collectiveComplete_other (hk : s.engOps[k]? = some o) (kind : o.kind ≠ 1) : exec (.collectiveComplete k) s = .next s := by
  show execCollectiveComplete k s = _
  simp [execCollectiveComplete, hk, kind]

/-- Status 11 for an operation whose write was refused (R313, R422). -/
theorem transferRun_refused (live : o.gone = false) (refused : o.refused = true) : transferRun s o = engEnd s o.id 11 := by
  simp only [transferRun, live, refused, Bool.false_eq_true, if_false, if_true]

/-- Status 27 where the ranks' blocks disagree (R299). -/
theorem collRun_mismatch (live : o.gone = false) (mismatch : o.mismatch = true) : collRun s o = engEnd (collTell s o []) o.id 27 := by
  simp only [collRun, live, mismatch, Bool.false_eq_true, if_false, if_true]

/-- Status 26 where a rank is lost (R301). -/
theorem collRun_lost (live : o.gone = false) (agree : o.mismatch = false) (lost : o.peerLost = true) :
    collRun s o = engEnd (collTell s o [26]) o.id 26 := by
  simp only [collRun, live, agree, lost, Bool.false_eq_true, if_false, if_true]

/-- A transfer whose checks are made ends when its rows are, or where it must stop (R293, R302). -/
theorem transferRun_ends (gone : o.gone = false) (refused : o.refused = false)
    (begun : (o.began = true ∧ u = s) ∨ (o.began = false ∧ transferBegin s o = (u, .more)))
    (units : transferUnits (o.drows + 1) u o.id = (t, r)) (hr : r.ending = some c) : transferRun s o = engEnd t o.id c := by
  have begins : (if o.began then (s, UnitRes.more) else transferBegin s o) = (u, .more) := by
    rcases begun with ⟨h, rfl⟩ | ⟨h, h'⟩
    · rw [if_pos h]
    · rw [if_neg (by rw [h]; decide), h']
  simp only [transferRun, gone, refused, begins, units, Bool.false_eq_true, if_false]
  cases r <;> cases hr <;> rfl

/-- A collective whose ranks have met ends when it has written its result, or where it must stop (R299 to R302). -/
theorem collRun_ends (gone : o.gone = false) (mismatch : o.mismatch = false) (peerLost : o.peerLost = false) (refused : o.refused = false)
    (met : o.met = true) (began : o.began = true) (hf : s.engOps.find? (fun x => x.id == o.id) = some o)
    (units : collUnits (o.outCount + 1) (collDown (collUp s o) ((collUp s o).engById o.id o)) o.id = (t, r)) (hr : r.ending = some c) :
    collRun s o = engEnd t o.id c := by
  have meets : collMeet s o = s := by rw [collMeet, met]; rfl
  simp only [collRun, gone, mismatch, peerLost, refused, meets, engById_of_find hf, met, began, units, Bool.not_true, Bool.false_eq_true,
    if_false, if_true]
  cases r <;> cases hr <;> rfl

end

/-! ## The writes of an operation that ends (R292, R307) -/

section
variable {s t u : State} {o : EngOp} {n : Nat}

theorem engEndRun_of_step (hf : s.engOps.find? (fun x => x.id == o.id) = some o) (h : engEndStep s o = (t, true)) :
    engEndRun (n + 1) s o.id = engEndRun n t o.id := by
  simp only [engEndRun, hf, h]

theorem engEndRun_of_last (hf : s.engOps.find? (fun x => x.id == o.id) = some o) (h : engEndStep s o = (t, false)) :
    engEndRun (n + 1) s o.id = t := by
  simp only [engEndRun, hf, h]

/-- The status that a lost peer, else a refused write, turns a good end into (R293, R301, R313). -/
theorem endsAs_eq (o : EngOp) :
    o.endsAs = if o.ending = 1 ∧ o.kind = 1 ∧ o.peerLost = true then 26 else if o.ending = 1 ∧ o.refused = true then 11 else o.ending := by
  by_cases h : o.ending = 1
  · simp [EngOp.endsAs, h]
  · simp [EngOp.endsAs, h]

/-- What an operation writes of its block or completion word is over once the range is written. -/
theorem engPut_of_written {va : Nat} {bs b : List Byte} (h : wrRange s (s.engAcc o) va bs = (u, .ok b)) :
    engPut s o va bs = (u.modEng o.id fun x => { x with page := none, failed := false }, true) := by
  simp only [engPut, h]

/-- Output all written and acknowledged (R292). -/
theorem engEndStep_output (step : o.endStep = 1) (out : o.out = []) (obuf : o.obuf = []) (acked : s.unacked (engCode o.id) = false) :
    engEndStep s o = (s.modEng o.id fun x => { x with obuf := [], out := [], ending := o.endsAs, endStep := 2 }, true) := by
  simp only [engEndStep, step, putLines, drainStream, obuf, List.length_nil, Nat.zero_mod, tsub_zero, Nat.mod_self, List.replicate_zero,
    List.append_nil, Nat.ofNat_pos, decide_true, Bool.true_or, if_true, out, List.foldl_nil, List.isEmpty_nil, Bool.not_true, Bool.false_and,
    Bool.or_self, Bool.false_eq_true, if_false]
  refine (if_neg (Bool.eq_false_iff.1 acked)).trans (congrArg (·, true) ?_)
  exact s.modEng_modEng o.id (f := fun x => { x with obuf := [], out := [], ending := o.endsAs }) (fun _ h => h) _

/-- The record is written (R293). -/
theorem engEndStep_record (step : o.endStep = 2) {b : List Byte}
    (h : let v := s.modEng o.id fun x => { x with ending := o.endsAs }
      let p := { o with ending := o.endsAs }
      wrRange v (v.engAcc p) p.record.1 p.record.2 = (u, .ok b)) :
    engEndStep s o = (u.modEng o.id fun x => { x with page := none, failed := false, endStep := 3 }, true) := by
  have put := engPut_of_written h
  simp only [step] at put
  simp only [engEndStep, step, put]
  exact congrArg (·, true) (u.modEng_modEng o.id (f := fun x => { x with page := none, failed := false }) (fun _ h => h) _)

theorem engEndStep_recorded (step : o.endStep = 3) (acked : s.unacked (engCode o.id) = false) :
    engEndStep s o = (s.modEng o.id fun x => { x with endStep := 4 }, true) := by
  simp only [engEndStep, step, acked, Bool.false_eq_true, if_false]

/-- No completion value is asked for (R292). -/
theorem engEndStep_no_value (step : o.endStep = 4) (h : o.caddr = 0 ∨ o.caddr % 8 ≠ 0) :
    engEndStep s o = (s.modEng o.id fun x => { x with endStep := 5 }, true) := by
  simp [engEndStep, step, h]

/-- The completion value is written (R292). -/
theorem engEndStep_value (step : o.endStep = 4) (wanted : o.caddr ≠ 0) (align : o.caddr % 8 = 0) {b : List Byte}
    (h : wrRange s (s.engAcc o) o.caddr (natBytes 8 o.cval) = (u, .ok b)) :
    engEndStep s o = (u.modEng o.id fun x => { x with page := none, failed := false, endStep := 5 }, true) := by
  simp only [engEndStep, step, wanted, align, engPut_of_written h, ne_eq, not_true_eq_false, decide_false, Bool.or_self, Bool.false_eq_true,
    if_false]
  exact congrArg (·, true) (u.modEng_modEng o.id (f := fun x => { x with page := none, failed := false }) (fun _ h => h) _)

theorem engEndStep_last (step : o.endStep = 5) (acked : s.unacked (engCode o.id) = false) : engEndStep s o = (engFinish s o o.ending, false) := by
  simp only [engEndStep, step, acked, Bool.false_eq_true, if_false]

/-- An operation as it is kept with its final status (R291, R293). -/
def EngOp.finished (o : EngOp) (st : Nat) : EngOp :=
  { o with status := st, ibuf := [], obuf := [], out := [], lines := [], part := [], idxs := [], page := none,
           got := if st = 10 ∨ st = 11 then o.got else [] }

/-- The end of an operation keeps it last, beside others alone (R291). -/
theorem engFinish_engOps (s : State) (o : EngOp) (st : Nat) :
    ∃ rest : List EngOp, (∀ p ∈ rest, p.id ≠ o.id) ∧ (engFinish s o st).engOps = rest ++ [o.finished st] := by
  refine ⟨_, fun p hp => ?_, rfl⟩
  have others : p ∈ (engUsed s o).engOps.filter fun x => x.id != o.id := by
    split at hp
    · exact hp
    · split at hp
      · exact List.mem_of_mem_filter hp
      · exact hp
  exact bne_iff_ne.1 (List.mem_filter.1 others).2

/-- An operation that has ended stands once, with its status and nothing buffered (R291). -/
theorem engFinish_stands (s : State) (o : EngOp) (st : Nat) :
    (∃ p ∈ (engFinish s o st).engOps, p.id = o.id) ∧
      ∀ p ∈ (engFinish s o st).engOps, p.id = o.id → p.status = st ∧ p.seq = o.seq ∧ p.ibuf = [] ∧ p.obuf = [] := by
  obtain ⟨rest, others, ops⟩ := engFinish_engOps s o st
  rw [ops]
  refine ⟨⟨o.finished st, List.mem_concat_self, rfl⟩, fun p hp hid => ?_⟩
  rcases List.mem_append.1 hp with hp | hp
  · exact absurd hid (others p hp)
  · rw [List.mem_singleton.1 hp]
    exact ⟨rfl, rfl, rfl, rfl⟩

end

/-! ## Packets (R299, R301, R311, R317) -/

section
variable {s : State} {o : EngOp} {m : ColMsg}

/-- A block's header is no notice and not the word that the blocks agree: they differ in length. -/
theorem header_ne_notice (o : EngOp) : o.header ≠ [26] := by simp [EngOp.header]
theorem header_ne_nil (o : EngOp) : o.header ≠ [] := by simp [EngOp.header]
theorem header_ne_agree (o : EngOp) : o.header ≠ o.agree := by simp [EngOp.header, EngOp.agree]
theorem agree_ne_notice (o : EngOp) : o.agree ≠ [26] := by simp [EngOp.header, EngOp.agree]
theorem agree_ne_nil (o : EngOp) : o.agree ≠ [] := by simp [EngOp.agree]

/-- The operation awaits a partial of the packet's rank, from below unless another rank is to send it on, or from above. -/
def EngOp.takesPartial (o : EngOp) (m : ColMsg) : Prop :=
  (m.dir = 0 ∧ m.frm ∈ o.children ∧ o.ckind ≠ 3 ∧ (o.ckind = 2 → o.isRoot = true)) ∨ (m.dir = 1 ∧ o.isRoot = false ∧ m.frm = o.parent)

/-- A partial or a part of the result (R300, R317). -/
theorem collTake_partial (hdr : m.hdr = o.header) (h : o.takesPartial m) :
    collTake s o m = s.modEng o.id fun o => { o with got := o.got ++ [m] } := by
  have notice := header_ne_notice o
  have nil := header_ne_nil o
  have agree := header_ne_agree o
  rcases h with ⟨dir, kid, kind, root⟩ | ⟨dir, root, up⟩
  · by_cases gather : o.ckind = 2
    · simp [collTake, hdr, notice, nil, agree, dir, kid, root gather, gather]
    · simp [collTake, hdr, notice, nil, agree, dir, kid, kind, gather]
  · simp [collTake, hdr, notice, nil, agree, dir, root, up]

/-- The word from above that all blocks agree, at a rank without children (R299). -/
theorem collTake_agree (hdr : m.hdr = o.agree) (dir : m.dir = 1) (root : o.isRoot = false) (up : m.frm = o.parent) (met : o.met = false)
    (leaf : o.children = []) : collTake s o m = s.modEng o.id fun o => { o with met := true } := by
  simp [collTake, hdr, agree_ne_notice o, agree_ne_nil o, dir, root, up, met, leaf]

/-- A rank that is waited on is a child or the parent (R301). -/
theorem neighbour_of_waitsOn {f : Nat} (h : o.waitsOn f = true) : (o.children.elem f || (!o.isRoot && f == o.parent)) = true := by
  simp only [EngOp.waitsOn, Bool.or_eq_true, Bool.and_eq_true] at h ⊢
  tauto

/-- The notice that a rank is lost which the operation waits on (R301). -/
theorem collTake_lost (hdr : m.hdr = [26]) (waits : o.waitsOn m.frm = true) :
    collTake s o m = s.modEng o.id fun o => { o with peerLost := true } := by
  simp only [collTake, hdr, neighbour_of_waitsOn waits, waits, beq_self_eq_true, Bool.and_self, if_true]

/-- A notice of no neighbour (R299). -/
theorem collTake_stranger (hdr : m.hdr = [26]) (kid : m.frm ∉ o.children) (up : o.isRoot = true ∨ m.frm ≠ o.parent) :
    collTake s o m = s.modEng o.id fun o => { o with mismatch := true } := by
  have up' : ¬(o.isRoot = false ∧ m.frm = o.parent) := by
    rintro ⟨h, h'⟩
    exact up.elim (by simp [h]) (absurd h')
  have agree : [26] ≠ o.agree := (agree_ne_notice o).symm
  have header : [26] ≠ o.header := (header_ne_notice o).symm
  simp [collTake, hdr, kid, up', agree, header]

/-- The notice that the blocks disagree (R299). -/
theorem collTake_disagree (hdr : m.hdr = []) :
    collTake s o m = s.modEng o.id fun o => { o with mismatch := true, knows := o.knows ++ [m.frm] } := by
  simp [collTake, hdr]

/-- A header that differs from the block's (R299). -/
theorem collTake_mismatch (notice : m.hdr ≠ [26]) (nil : m.hdr ≠ []) (agree : m.hdr ≠ o.agree) (header : m.hdr ≠ o.header) :
    collTake s o m = s.modEng o.id fun o => { o with mismatch := true } := by
  simp [collTake, notice, nil, agree, header]

/-- A packet reaches the operation that takes its identifier (R317). -/
theorem collDeliver_taken (h : s.engOps.find? (fun o => m.isFor o) = some o) : collDeliver s m = collTake s o m := by
  rw [collDeliver, h]

/-- A packet of an identifier that no operation takes yet is kept, while a collective of its die is to be accepted (R299). -/
theorem collDeliver_kept (foreign : ∀ o ∈ s.engOps, m.isFor o = false) (late : s.lateNotice m = none)
    (posted : ∃ o ∈ s.engOps, o.kind = 1 ∧ o.accepted = false ∧ o.status = 0 ∧ dieOf o.core = m.die) :
    collDeliver s m = { s with inbox := s.inbox ++ [m] } := by
  have untaken : s.engOps.find? (fun o => m.isFor o) = none := List.find?_eq_none.2 fun o ho => by rw [foreign o ho]; decide
  have waits : (s.engOps.any fun o => o.kind == 1 && !o.accepted && o.status == 0 && dieOf o.core == m.die) = true := by
    obtain ⟨o, ho, kind, new, runs, die⟩ := posted
    exact List.any_eq_true.2 ⟨o, ho, by simp [kind, new, runs, die]⟩
  simp only [collDeliver, untaken, late]
  exact if_pos waits

end

/-! ## What the filter of its origin makes of a packet (R311) -/

section
variable {s : State} {org seq flr die cid frm dir blk : Nat} {data : List (BitVec 8)} {hdr : List Nat}

theorem exec_collectivePacketArrival_stomped :
    exec (.collectivePacketArrival ⟨org, seq, flr⟩ die cid ⟨frm, dir⟩ blk ⟨data, true⟩ hdr) s = .next s := rfl

/-- A packet below the floor only raises it. -/
theorem exec_collectivePacketArrival_old (h : seq < max (s.filters.get {} org).flr flr) :
    exec (.collectivePacketArrival ⟨org, seq, flr⟩ die cid ⟨frm, dir⟩ blk ⟨data, false⟩ hdr) s = .next (raiseFloor s org flr) := by
  show execCollectivePacketArrival _ _ _ _ _ _ _ _ = _
  simp only [execCollectivePacketArrival, h, decide_true, Bool.or_true, if_true, Bool.false_eq_true, if_false]

variable (floor : flr ≤ (s.filters.get {} org).flr) (above : (s.filters.get {} org).flr ≤ seq)
include floor above

/-- A packet seen before is answered again. -/
theorem exec_collectivePacketArrival_seen (seen : ((s.filters.get {} org).seen.find seq).isSome = true) :
    exec (.collectivePacketArrival ⟨org, seq, flr⟩ die cid ⟨frm, dir⟩ blk ⟨data, false⟩ hdr) s =
      .next (sendAnswer s org s.kdev seq true 0 []) := by
  show execCollectivePacketArrival _ _ _ _ _ _ _ _ = _
  have same : raiseFloor s org flr = s := if_pos floor
  have current : ¬seq < max (s.filters.get {} org).flr flr := by omega
  simp only [execCollectivePacketArrival, same, current, seen, decide_false, Bool.or_self, Bool.false_eq_true, if_false, if_true]

/-- A new packet is answered and delivered. -/
theorem exec_collectivePacketArrival_new (unseen : (s.filters.get {} org).seen.find seq = none) :
    exec (.collectivePacketArrival ⟨org, seq, flr⟩ die cid ⟨frm, dir⟩ blk ⟨data, false⟩ hdr) s =
      .next (collDeliver (sendAnswer (noteSeen s org seq 0 0) org s.kdev seq true 0 [])
        { die := die, cid := cid, frm := frm, dir := dir, blk := blk, data := data, hdr := hdr }) := by
  show execCollectivePacketArrival _ _ _ _ _ _ _ _ = _
  have same : raiseFloor s org flr = s := if_pos floor
  have current : ¬seq < max (s.filters.get {} org).flr flr := by omega
  simp only [execCollectivePacketArrival, same, current, unseen, Option.isSome_none, decide_false, Bool.or_self, Bool.false_eq_true, if_false]

end

/-! ## The statement -/

/-- Settles O45: a block that is read leads to its check; a run ends with what stops it; each step of an ending operation is one write or one wait for
its acknowledgement; a packet passes its origin's filter and reaches the operation of its identifier. -/
theorem engineEventsAcceptAndComplete : Obligations.EngineEventsAcceptAndComplete := by
  unfold Obligations.EngineEventsAcceptAndComplete
  intro s k
  refine ⟨?accepts, ?completes, ?ends, ?arrives, fun o st => engFinish_stands s o st⟩
  case accepts =>
    intro o b hk new runs first block p u bad
    have accepts : exec (.engineAccept k) s = .next (u.blockRead p) := exec_engineAccept hk new runs first block
    refine ⟨fun refused live => ?_, fun gone => ?_, fun good live kind => ?_, fun good live kind seed kept inbox => ?_⟩
    · exact accepts.trans (congrArg _ (blockRead_refused live refused))
    · exact accepts.trans (congrArg _ (blockRead_gone gone))
    · have checked : u.blockCheck p = 0 := good
      have begins : exec (.engineAccept k) s = .next (u.beginTransfer p) :=
        accepts.trans (congrArg Host.Outcome.next ((blockRead_begins (o := p) live checked).trans (if_pos kind)))
      exact ⟨fun seed => begins.trans (congrArg Host.Outcome.next (beginTransfer_unseeded seed)),
        fun seed => begins.trans (congrArg Host.Outcome.next (if_pos seed))⟩
    · have checked : u.blockCheck p = 0 := good
      have other : ¬p.kind = 0 := show ¬o.kind = 0 by omega
      have begins : u.blockRead p = u.beginCollective p := (blockRead_begins (o := p) live checked).trans (if_neg other)
      exact accepts.trans (congrArg Host.Outcome.next (begins.trans (beginCollective_of_none seed kept inbox rfl)))
  case completes =>
    intro o hk find accepted runs
    refine ⟨fun step => ?_, fun step kind => ?transfer, fun step kind => ?collective⟩
    · obtain kind | kind | kind : o.kind = 0 ∨ o.kind = 1 ∨ 2 ≤ o.kind := by omega
      · rw [if_pos kind, if_pos (by omega), exec_transferComplete hk kind accepted runs, if_neg step]
      · rw [if_neg (by omega), if_pos (by omega), exec_collectiveComplete hk kind accepted runs, if_neg step]
      · rw [if_neg (by omega), if_neg (by omega), exec_collectiveComplete_other hk (by omega)]
    case transfer =>
      intro r
      have run : ∀ {t c}, transferRun s o = engEnd t o.id c → r = .next (Claims.ending t o.id c) := fun h =>
        (exec_transferComplete hk kind accepted runs).trans (by rw [if_pos step, h, Claims.ending])
      refine ⟨fun gone => run (if_pos gone), fun live refused => run (transferRun_refused live refused),
        fun live unrefused u begun t => ⟨?_, ?_⟩⟩
      · exact fun units => run (transferRun_ends live unrefused begun units rfl)
      · exact fun c units => run (transferRun_ends live unrefused begun units rfl)
    case collective =>
      intro r
      have run : ∀ {t c}, collRun s o = engEnd t o.id c → r = .next (Claims.ending t o.id c) := fun h =>
        (exec_collectiveComplete hk kind accepted runs).trans (by rw [if_pos step, h, Claims.ending])
      refine ⟨fun gone => run (if_pos gone), fun live mismatch => run (collRun_mismatch live mismatch),
        fun live agree lost => run (collRun_lost live agree lost), fun live agree unlost unrefused met began => ?_⟩
      intro up down t
      constructor
      · exact fun units => run (collRun_ends live agree unlost unrefused met began find units rfl)
      · exact fun c units => run (collRun_ends live agree unlost unrefused met began find units rfl)
  case ends =>
    intro o n find acked goes last
    have hlast : o.endsAs = last := endsAs_eq o
    clear_value last
    subst hlast
    refine ⟨?_, ?_, ?_, ?_, ?_, ?_⟩
    · exact fun step out obuf ack => engEndRun_of_step find (engEndStep_output step out obuf ack)
    · intro u b step v p h
      exact engEndRun_of_step find (engEndStep_record step h)
    · exact fun step ack => engEndRun_of_step find (engEndStep_recorded step ack)
    · exact fun step h => engEndRun_of_step find (engEndStep_no_value step h)
    · exact fun u b step wanted align h => engEndRun_of_step find (engEndStep_value step wanted align h)
    · exact fun step ack => engEndRun_of_last find (engEndStep_last step ack)
  case arrives =>
    intro org seq flr die cid frm dir blk data hdr m arrive f u
    refine ⟨exec_collectivePacketArrival_stomped, exec_collectivePacketArrival_old, exec_collectivePacketArrival_seen, ?_⟩
    intro floor above unseen
    have delivers : arrive false = .next (collDeliver u m) := exec_collectivePacketArrival_new floor above unseen
    refine ⟨fun untaken late posted => delivers.trans (congrArg _ (collDeliver_kept untaken late posted)), fun o find => ?_⟩
    intro becomes
    have takes : ∀ {g}, collTake u o m = u.modEng o.id g → becomes g := fun h =>
      delivers.trans (congrArg Host.Outcome.next ((collDeliver_taken (s := u) find).trans h))
    refine ⟨?_, ?_, ?_, ?_, ?_, ?_⟩
    · exact fun hdr h => takes (collTake_partial hdr h)
    · exact fun hdr dir root up met leaf => takes (collTake_agree hdr dir root up met leaf)
    · exact fun hdr waits => takes (collTake_lost hdr waits)
    · exact fun hdr kid up => takes (collTake_stranger hdr kid up)
    · exact fun hdr => takes (collTake_disagree hdr)
    · exact fun notice nil agree header => takes (collTake_mismatch notice nil agree header)

end Sys2Proof.Machine
end

section
/-! O51: power-on, thermal events, the sideband, staging, recalibration and the loading of tables (R309, R315, R317, R322, R352, R422, R425,
R490 to R502). -/

namespace Sys2Proof.Machine

/-! ## What stage 6 loads (R490) -/

/-- Measurement 5 takes values in order (R426). -/
def extendAll (s : State) (l : List Measured) : State := { s with firm := { s.firm with extended := s.firm.extended ++ l } }

/-- Loading a list of entries of one table: those that the device has are written one after another, and measurement 5 takes each of them. -/
theorem foldl_load {α T : Type} {load : State → α → State} {put : State → T → State} {write : T → α → T} {has : α → Bool} {tab : α → List Nat}
    (hit : ∀ s m x, has x = true → load (put s m) x = extendTables (put s (write m x)) (tab x)) (miss : ∀ s x, has x = false → load s x = s)
    (comm : ∀ s m l, extendAll (put s m) l = put (extendAll s l) m) (xs : List α) (s : State) (m : T) :
    xs.foldl load (put s m) = extendAll (put s ((xs.filter has).foldl write m)) ((xs.filter has).map fun x => .table (tab x)) := by
  induction xs generalizing s m with
  | nil => simp [extendAll]
  | cons x r ih =>
    cases h : has x with
    | false => rw [List.foldl_cons, miss _ x h, ih, List.filter_cons_of_neg (by simp [h])]
    | true =>
      rw [List.foldl_cons, hit s m x h, List.filter_cons_of_pos h,
        show extendTables (put s (write m x)) (tab x) = extendAll (put s (write m x)) [.table (tab x)] from rfl, comm, ih, ← comm]
      simp [extendAll]

theorem foldl_loadRoute (xs : List (Nat × Word)) (s : State) :
    xs.foldl (fun s x => loadRoute s x.1 x.2) s = extendAll
      { s with route := (xs.filter fun x => x.1 < 16).foldl (fun m x => AMap.set m x.1 (x.2 &&& 0x3FF)) s.route }
      ((xs.filter fun x => x.1 < 16).map fun x => .table [1, x.1, x.2.toNat]) :=
  foldl_load (put := fun s m => { s with route := m }) (fun s m x h => if_neg (by simp at h; omega)) (fun s x h => if_pos (by simp at h; omega))
    (fun _ _ _ => rfl) xs s s.route

theorem foldl_loadMcast (xs : List (Nat × UWord × Nat)) (s : State) :
    xs.foldl (fun s x => loadMcast s x.1 x.2.1 x.2.2) s = extendAll
      { s with mcast := (xs.filter fun x => x.1 < 64).foldl (fun m x => AMap.set m x.1 (x.2.1 &&& 0x00FFFFFF3F1FFFFF)) s.mcast
               mcastDevs := (xs.filter fun x => x.1 < 64).foldl (fun m x => AMap.set m x.1 x.2.2) s.mcastDevs }
      ((xs.filter fun x => x.1 < 64).map fun x => .table [2, x.1, x.2.1.toNat]) := by
  refine (foldl_load (put := fun s (m : AMap UWord × AMap Nat) => { s with mcast := m.1, mcastDevs := m.2 })
    (write := fun m x => (AMap.set m.1 x.1 (x.2.1 &&& 0x00FFFFFF3F1FFFFF), AMap.set m.2 x.1 x.2.2)) (has := fun x => decide (x.1 < 64))
    (fun s m x h => if_neg (by simp at h; omega)) (fun s x h => if_pos (by simp at h; omega))
    (fun _ _ _ => rfl) xs s (s.mcast, s.mcastDevs)).trans ?_
  rw [← List.foldl_hom Prod.fst (g₂ := fun m x => AMap.set m x.1 (x.2.1 &&& 0x00FFFFFF3F1FFFFF)) fun _ _ => rfl,
    ← List.foldl_hom Prod.snd (g₂ := fun m x => AMap.set m x.1 x.2.2) fun _ _ => rfl]

theorem foldl_loadTree (xs : List (Nat × BitVec 256)) (s : State) :
    xs.foldl (fun s x => loadTree s x.1 x.2) s = extendAll
      { s with trees := (xs.filter fun x => x.1 < 256).foldl (fun m x => AMap.set m x.1 (x.2 &&& treeMask)) s.trees }
      ((xs.filter fun x => x.1 < 256).map fun x => .table [3, x.1, x.2.toNat]) :=
  foldl_load (put := fun s m => { s with trees := m }) (fun s m x h => if_neg (by simp at h; omega)) (fun s x h => if_pos (by simp at h; omega))
    (fun _ _ _ => rfl) xs s s.trees

theorem foldl_loadWindow (xs : List (Nat × Nat × UWord)) (s : State) :
    xs.foldl (fun s x => loadWindow s x.1 x.2.1 x.2.2) s = extendAll
      { s with windows := (xs.filter fun x => x.1 < 16 && x.2.1 < 16).foldl
                 (fun m x => AMap.set m (16 * x.1 + x.2.1) (x.2.2 &&& 0x00003FFFFFFF000F)) s.windows }
      ((xs.filter fun x => x.1 < 16 && x.2.1 < 16).map fun x => .table [4, x.1, x.2.1, x.2.2.toNat]) :=
  foldl_load (put := fun s m => { s with windows := m }) (fun s m x h => if_neg (by simp at h; omega)) (fun s x h => if_pos (by simp at h; omega))
    (fun _ _ _ => rfl) xs s s.windows

theorem State.die_modDie_ne (s : State) {k d : Nat} (f : Die → Die) (h : d ≠ k) : (s.modDie k f).die d = s.die d :=
  AMap.get_set_ne _ _ _ h

/-- A die with the ring control word that power-on finds for it (R352). -/
def Die.ringed (r : PowerReport) (d : Nat) (x : Die) : Die :=
  { x with tokens := (ringOf r d).1, loadedTokens := (ringOf r d).1, mingap := (ringOf r d).2, ring := List.range (ringOf r d).1 }

/-- Stage 6 loads the ring of a die. -/
def loadRing (r : PowerReport) (s : State) (d : Nat) : State :=
  extendTables (s.modDie d (Die.ringed r d)) [5, d, (ringOf r d).1, (ringOf r d).2]

theorem die_foldl_loadRing (r : PowerReport) (ds : List Nat) (s : State) (d : Nat) :
    (ds.foldl (loadRing r) s).die d = if d ∈ ds then (s.die d).ringed r d else s.die d := by
  induction ds generalizing s with
  | nil => rfl
  | cons k ds ih =>
    rw [List.foldl_cons, ih]
    by_cases h : d = k
    · subst h
      rw [show (loadRing r s d).die d = (s.die d).ringed r d from s.die_modDie_self d _, if_pos List.mem_cons_self]
      exact ite_self _
    · rw [show (loadRing r s k).die d = s.die d from s.die_modDie_ne _ h]
      simp only [List.mem_cons, h, false_or]

/-- Stage 6 before the rings. -/
def loadTables (r : PowerReport) (s : State) : State :=
  let s := r.routes.foldl (fun s x => loadRoute s x.1 x.2) s
  let s := r.mcasts.foldl (fun s x => loadMcast s x.1 x.2.1 x.2.2) s
  let s := r.trees.foldl (fun s x => loadTree s x.1 x.2) s
  r.windows.foldl (fun s x => loadWindow s x.1 x.2.1 x.2.2) s

theorem stage6_rings (r : PowerReport) (s : State) : stage6 r s = (List.range 4).foldl (loadRing r) (loadTables r s) := rfl

theorem loadTables_eq (r : PowerReport) (s : State) : loadTables r s = { s with
    route := (r.routes.filter fun x => x.1 < 16).foldl (fun m x => AMap.set m x.1 (x.2 &&& 0x3FF)) s.route
    mcast := (r.mcasts.filter fun x => x.1 < 64).foldl (fun m x => AMap.set m x.1 (x.2.1 &&& 0x00FFFFFF3F1FFFFF)) s.mcast
    mcastDevs := (r.mcasts.filter fun x => x.1 < 64).foldl (fun m x => AMap.set m x.1 x.2.2) s.mcastDevs
    trees := (r.trees.filter fun x => x.1 < 256).foldl (fun m x => AMap.set m x.1 (x.2 &&& treeMask)) s.trees
    windows := (r.windows.filter fun x => x.1 < 16 && x.2.1 < 16).foldl
      (fun m x => AMap.set m (16 * x.1 + x.2.1) (x.2.2 &&& 0x00003FFFFFFF000F)) s.windows
    firm := { s.firm with extended := s.firm.extended ++ (r.routes.filter fun x => x.1 < 16).map (fun x => .table [1, x.1, x.2.toNat]) ++
      (r.mcasts.filter fun x => x.1 < 64).map (fun x => .table [2, x.1, x.2.1.toNat]) ++
      (r.trees.filter fun x => x.1 < 256).map (fun x => .table [3, x.1, x.2.toNat]) ++
      (r.windows.filter fun x => x.1 < 16 && x.2.1 < 16).map (fun x => .table [4, x.1, x.2.1, x.2.2.toNat]) } } := by
  simp only [loadTables, foldl_loadRoute, foldl_loadMcast, foldl_loadTree, foldl_loadWindow, extendAll]

theorem stage6_ring (r : PowerReport) (s : State) {d : Nat} (hd : d < 4) : (stage6 r s).die d = (s.die d).ringed r d := by
  rw [stage6_rings, die_foldl_loadRing, if_pos (List.mem_range.2 hd), loadTables_eq]
  rfl

/-- Everything that stage 6 loads but the rings. -/
theorem stage6_eq (r : PowerReport) (s : State) :
    stage6 r s = { loadTables r s with dies := (stage6 r s).dies, firm := { s.firm with extended := s.firm.extended ++ Claims.tablesOf r } } := by
  rw [stage6_rings, loadTables_eq]
  simp only [loadRing, extendTables, State.modDie, List.range_succ, List.range_zero, List.nil_append, List.cons_append, List.foldl_cons,
    List.foldl_nil, Claims.tablesOf, List.map_cons, List.map_nil, List.append_assoc]
  rfl

/-! ## Power-on (R425, R490 to R495) -/

theorem AMap.find_map_key {α : Type} (f : Nat → α) (l : List Nat) (i : Nat) :
    AMap.find (l.map fun k => (k, f k)) i = if i ∈ l then some (f i) else none := by
  induction l with
  | nil => rfl
  | cons k l ih =>
    rw [List.map_cons, AMap.find, ih]
    by_cases h : i = k
    · simp [h]
    · simp [h]

/-- The firmware's own state as power-on finds it. -/
def bootFirm (f : Firm) : Firm := { slotA := f.slotA, slotB := f.slotB, prefersB := f.prefersB, runsB := f.prefersB, draws := f.draws }

/-- The image that starts, when one of the two passes the checks (R425). -/
theorem bootSlot_of_good {f : Firm} {r : PowerReport} (h : Claims.firstImage f r = 0 ∨ Claims.secondImage f r = 0) :
    bootSlot f.prefersB r.imageA r.imageB = .inl (if Claims.firstImage f r = 0 then f.prefersB else !f.prefersB) := by
  by_cases first : Claims.firstImage f r = 0
  · exact (if_pos first).trans (by rw [if_pos first])
  · exact (if_neg first).trans ((if_pos (h.resolve_left first)).trans (by rw [if_neg first]))

theorem bootSlot_of_bad {f : Firm} {r : PowerReport} (h : Claims.firstImage f r ≠ 0) (h' : Claims.secondImage f r ≠ 0) :
    bootSlot f.prefersB r.imageA r.imageB = .inr (Claims.secondImage f r) :=
  (if_neg h).trans (if_neg h')

/-- The device as stages 1 to 5 leave it when every test passes. -/
def booted (r : PowerReport) (f : Firm) : State :=
  let goods := (List.range 4).map (goodOf r)
  { dies := (List.range 4).map fun d => (d, Die.ofGood (goodOf r d)), interleave := r.interleave,
    saveFrames := max r.saveFrames (8 * (goods.map fun g => min g.length 24).sum),
    snapFrames := r.snapFrames, hdm := min r.hdm 1020, hostRanges := r.hostRanges, links := r.portsUp, kdev := r.kdev, domSize := r.domSize,
    firm := { f with degraded := goods.any fun g => g.length < 24, failGood := goods, extended := [.table [0, r.interleave]] } }

theorem die_booted (r : PowerReport) (f : Firm) {d : Nat} (hd : d < 4) : (booted r f).die d = Die.ofGood (goodOf r d) := by
  rw [State.die, booted, AMap.get, AMap.find_map_key, if_pos (List.mem_range.2 hd)]
  rfl

theorem powerOn_of_good {s : State} {r : PowerReport} (image : Claims.firstImage s.firm r = 0 ∨ Claims.secondImage s.firm r = 0)
    (code : r.microcode = 0) (st3 : r.stage3.1 = 0) (st4 : r.stage4.1 = 0) (many : ∀ d < 4, 20 ≤ (goodOf r d).length) :
    exec (.powerOn r) s = .next { stage6 r (booted r { bootFirm s.firm with
      runsB := if Claims.firstImage s.firm r = 0 then s.firm.prefersB else !s.firm.prefersB }) with agenda := s.agenda, draw := s.draw } := by
  have few : ((List.range 4).find? fun d => (goodOf r d).length < 20) = none :=
    List.find?_eq_none.2 fun d hd => by simpa using many d (List.mem_range.1 hd)
  show execPowerOn r s = _
  simp only [execPowerOn, bootSlot_of_good image, code, st3, st4, few, ne_eq, not_true_eq_false, if_false]
  rfl

theorem powerOn_runs {s : State} {r : PowerReport} (image : Claims.firstImage s.firm r = 0 ∨ Claims.secondImage s.firm r = 0)
    (code : r.microcode = 0) (st3 : r.stage3.1 = 0) (st4 : r.stage4.1 = 0) (many : ∀ d < 4, 20 ≤ (goodOf r d).length) :
    ∃ t, exec (.powerOn r) s = .next t ∧ t.firm.safe = false ∧ t.firm.stage = 7 ∧ t.groups = [] ∧ t.launches = [] ∧ t.mem = [] ∧
      t.kdev = r.kdev ∧ t.links = r.portsUp ∧ t.interleave = r.interleave ∧ t.hdm = min r.hdm 1020 ∧ t.hostRanges = r.hostRanges ∧
      t.firm.runsB = (if Claims.firstImage s.firm r = 0 then s.firm.prefersB else !s.firm.prefersB) ∧
      t.firm.slotA = s.firm.slotA ∧ t.firm.slotB = s.firm.slotB ∧
      t.firm.extended = .table [0, r.interleave] :: Claims.tablesOf r ∧
      t.route = (r.routes.filter fun x => x.1 < 16).foldl (fun m x => AMap.set m x.1 (x.2 &&& 0x3FF)) [] ∧
      t.mcast = (r.mcasts.filter fun x => x.1 < 64).foldl (fun m x => AMap.set m x.1 (x.2.1 &&& 0x00FFFFFF3F1FFFFF)) [] ∧
      t.trees = (r.trees.filter fun x => x.1 < 256).foldl (fun m x => AMap.set m x.1 (x.2 &&& treeMask)) [] ∧
      t.windows = (r.windows.filter fun x => x.1 < 16 && x.2.1 < 16).foldl
        (fun m x => AMap.set m (16 * x.1 + x.2.1) (x.2.2 &&& 0x00003FFFFFFF000F)) [] ∧
      ∀ d < 4, (t.die d).tokens = Claims.tokens (r.rings.getD d (24, 0)).1 ∧ (t.die d).mingap = (r.rings.getD d (24, 0)).2 % 8192 ∧
        ∀ k < 24, (t.die d).map.get none k = (goodOf r d)[k]? := by
  refine ⟨_, powerOn_of_good image code st3 st4 many, ?_⟩
  rw [stage6_eq, loadTables_eq]
  refine ⟨rfl, rfl, rfl, rfl, rfl, rfl, rfl, rfl, rfl, rfl, rfl, rfl, rfl, rfl, rfl, rfl, rfl, rfl, fun d hd => ?_⟩
  show ((stage6 r _).die d).tokens = _ ∧ ((stage6 r _).die d).mingap = _ ∧ ∀ k < 24, ((stage6 r _).die d).map.get none k = _
  rw [stage6_ring r _ hd, die_booted r _ hd]
  refine ⟨rfl, rfl, fun k hk => ?_⟩
  show AMap.get none (Die.ofGood (goodOf r d)).map k = _
  rw [Die.ofGood, AMap.get, AMap.find_map_key, if_pos (List.mem_range.2 hk)]
  rfl

/-- A power-on that fails stops in the safe state, with the stage and the code of what failed (R492, R493). -/
theorem powerOn_of_bad {s : State} {r : PowerReport}
    (bad : (Claims.firstImage s.firm r ≠ 0 ∧ Claims.secondImage s.firm r ≠ 0) ∨ r.microcode ≠ 0 ∨ r.stage3.1 ≠ 0 ∨ r.stage4.1 ≠ 0 ∨
      ∃ d < 4, (goodOf r d).length < 20) :
    ∃ f stage code die unit rom good, code ≠ 0 ∧
      exec (.powerOn r) s = .next { safeState f stage code die unit rom good with agenda := s.agenda, draw := s.draw } := by
  show ∃ f stage code die unit rom good, code ≠ 0 ∧ execPowerOn r s = _
  by_cases image : Claims.firstImage s.firm r = 0 ∨ Claims.secondImage s.firm r = 0
  · simp only [execPowerOn, bootSlot_of_good image]
    split
    next code => exact ⟨_, _, _, _, _, _, _, code, rfl⟩
    split
    next st3 => exact ⟨_, _, _, _, _, _, _, st3, rfl⟩
    split
    next d few => exact ⟨_, _, _, _, _, _, _, by decide, rfl⟩
    split
    next st4 => exact ⟨_, _, _, _, _, _, _, st4, rfl⟩
    next code st3 _ few st4 =>
      obtain images | h | h | h | ⟨d, hd, short⟩ := bad
      · exact absurd image (by simp [images])
      · exact absurd h code
      · exact absurd h st3
      · exact absurd h st4
      · exact absurd short (by simpa using List.find?_eq_none.1 few d (List.mem_range.2 hd))
  · obtain ⟨first, second⟩ := not_or.1 image
    simp only [execPowerOn, bootSlot_of_bad first second]
    exact ⟨_, _, _, _, _, _, _, second, rfl⟩

/-! ## The sideband (R493, R494) -/

theorem bytesNat_take_natBytes (v : Nat) {k n : Nat} (h : k ≤ n) : bytesNat ((natBytes n v).take k) = v % 256 ^ k := by
  induction n generalizing k v with
  | zero => simp [Nat.le_zero.1 h, Nat.mod_one, bytesNat]
  | succ n ih =>
    cases k with
    | zero => simp [Nat.mod_one, bytesNat]
    | succ k =>
      rw [natBytes, List.take_succ_cons, bytesNat, ih _ (Nat.le_of_succ_le_succ h), Nat.pow_succ', Nat.mod_mul, BitVec.toNat_ofNat]

theorem getFailrec_answers (s : State) :
    ∃ b, exec .getFailrec s = .next (Claims.said s 0 [] b) ∧ b.length = 64 ∧ bytesNat (b.take 6) = Claims.failBits s.firm := by
  refine ⟨_, rfl, natBytes_length .., ?_⟩
  rw [bytesNat_take_natBytes _ (by decide), Claims.failBits]
  have rom : bit01 s.firm.failRom ≤ 1 := by cases s.firm.failRom <;> decide
  omega

theorem getCoremap_answers (s : State) : ∃ l, exec .getCoremap s = .next (Claims.said s 0 l []) ∧ l.length = 416 :=
  ⟨_, rfl, by simp [List.length_flatMap]⟩

/-! ## Recalibration (R500) -/

theorem get_setPv_ne (s : State) {p q : Nat} (v : Bool) (h : q ≠ p) : (setPv s p v).route.get 0 q = s.route.get 0 q :=
  AMap.get_set_ne _ _ _ h

/-- Clearing PV of the entries of some peers clears it there and leaves the others. -/
theorem get_foldl_setPv_false (ps : List Nat) (s : State) (q : Nat) :
    (ps.foldl (fun s p => setPv s p false) s).route.get 0 q = if q ∈ ps then s.route.get 0 q &&& ~~~ (16 : Word) else s.route.get 0 q := by
  induction ps generalizing s with
  | nil => rfl
  | cons p ps ih =>
    rw [List.foldl_cons, ih]
    by_cases h : q = p
    · subst h
      have cleared : (setPv s q false).route.get 0 q = s.route.get 0 q &&& ~~~ (16 : Word) := AMap.get_set_self ..
      rw [cleared, if_pos List.mem_cons_self, BitVec.and_assoc, BitVec.and_self, ite_self]
    · rw [get_setPv_ne s _ h]
      simp only [List.mem_cons, h, false_or]

/-- The entries through a port: those with PV whose port it is. -/
def portPeers (s : State) (n : Nat) : List Nat := (s.route.filter fun e => e.2.getLsbD 4 && fld e.2 3 0 == n).map fun e => e.1

theorem portPeers_cleared (s : State) (n p : Nat) (port : fld (s.route.get 0 p) 3 0 = n) :
    (((portPeers s n).foldl (fun s p => setPv s p false) s).route.get 0 p).getLsbD 4 = false := by
  rw [get_foldl_setPv_false]
  split
  · simp
  next other =>
    cases found : s.route.find p with
    | none => simp [AMap.get, found]
    | some e =>
      have is : s.route.get 0 p = e := by simp [AMap.get, found]
      rw [is] at port ⊢
      refine Bool.eq_false_iff.2 fun pv => other ?_
      exact List.mem_map.2 ⟨(p, e), List.mem_filter.2 ⟨AMap.mem_of_find found, by simp [pv, port]⟩, rfl⟩

/-- One recalibration at a time: a port's closes the route entries of that port. -/
theorem recal_starts {s : State} {isPort : Bool} {n : Nat} (up : s.firm.safe = false) (idle : s.firm.recal = none)
    (named : ¬(if isPort then 14 else 15) < n) :
    let peers := if isPort then portPeers s n else []
    let u := setPvs s peers false
    exec (.recal isPort n) s = .next (Claims.said { u with
      draw := u.draw + 1, firm := { u.firm with recal := some (isPort, n), recalPeers := peers, recalDraw := u.draw } } 0 [] []) := by
  show Host.Outcome.next (live s _) = _
  rw [live, if_neg (by simp [up]), if_neg (by simp [idle]), if_neg named]
  rfl

theorem recal_stack {s : State} {n : Nat} (up : s.firm.safe = false) (idle : s.firm.recal = none) (named : n ≤ 15) :
    exec (.recal false n) s = .next (Claims.said { s with
      draw := s.draw + 1, firm := { s.firm with recal := some (false, n), recalPeers := [], recalDraw := s.draw } } 0 [] []) := by
  rw [recal_starts up idle (Nat.not_lt.2 named)]
  simp [setPvs]

theorem recal_port {s : State} {n : Nat} (up : s.firm.safe = false) (idle : s.firm.recal = none) (named : n ≤ 14) :
    ∃ t, exec (.recal true n) s = .next t ∧ t.firm.recal = some (true, n) ∧
      ∀ p, fld (s.route.get 0 p) 3 0 = n → (t.route.get 0 p).getLsbD 4 = false :=
  ⟨_, recal_starts up idle (Nat.not_lt.2 named), rfl, portPeers_cleared s n⟩

theorem recal_of_busy {s : State} {isPort : Bool} {n : Nat} {x : Bool × Nat} (up : s.firm.safe = false) (busy : s.firm.recal = some x) :
    exec (.recal isPort n) s = .next (Claims.said s 2 [] []) := by
  show Host.Outcome.next (live s _) = _
  rw [live, if_neg (by simp [up]), if_pos (by simp [busy])]
  rfl

theorem recalComplete_stack {s : State} {k : Nat} (run : s.firm.recal = some (false, k)) (peers : s.firm.recalPeers = []) :
    exec .recalComplete s = .next { s with firm := { s.firm with recal := none } } := by
  show execRecalComplete s = _
  simp [execRecalComplete, run, peers, setPvs]

/-! ## Rings (R352, R502) -/

@[simp] theorem Die.setTokens_tokens (d : Die) (n : Nat) : (d.setTokens n).tokens = n := by
  unfold Die.setTokens
  split <;> rfl

theorem thermalThrottle_eq (s : State) (die : Nat) : exec (.thermalThrottle die) s = .next (s.modDie die fun d =>
    if 6 < d.tokens then { d with tokens := d.tokens - 1, retire := d.retire + 1 } else d) := by
  refine congrArg (fun f => Host.Outcome.next (s.modDie die f)) (funext fun d => ite_congr rfl (fun h => ?_) fun _ => rfl)
  have less : d.tokens - 1 < d.tokens := by omega
  rw [Die.setTokens, if_pos less, show d.tokens - (d.tokens - 1) = 1 by omega]

theorem thermalRecovery_restores (s : State) (die : Nat) :
    ∃ t, exec (.thermalRecovery die) s = .next t ∧ (t.die die).tokens = (s.die die).loadedTokens ∧ t.mem = s.mem ∧ t.groups = s.groups := by
  refine ⟨_, rfl, ?_, rfl, rfl⟩
  rw [State.die_modDie_self, Die.setTokens_tokens]

theorem setTokens_of_safe {s : State} (die n g : Nat) (safe : s.firm.safe = true) :
    exec (.setTokens die n g) s = .next (Claims.said s 1 [] []) :=
  congrArg Host.Outcome.next (if_pos safe)

theorem setTokens_acts {s : State} {die : Nat} (n g : Nat) (up : s.firm.safe = false) (hd : die < 4) :
    ∃ t, exec (.setTokens die n g) s = .next t ∧ (t.die die).tokens = Claims.tokens n ∧ (t.die die).loadedTokens = (t.die die).tokens ∧
      (t.die die).mingap = g % 8192 ∧ t.firm.extended = s.firm.extended ++ [.table [5, die, Claims.tokens n, g % 8192]] := by
  let ring (d : Die) : Die := { d.setTokens (tokensOf n) with loadedTokens := tokensOf n, mingap := g % 8192 }
  have acts : exec (.setTokens die n g) s =
      .next (reply (extendTables (s.modDie die ring) [5, die, tokensOf n, g % 8192]) 0 []) := by
    show Host.Outcome.next (live s _) = _
    rw [live, if_neg (by simp [up]), if_neg (by omega)]
  have now := s.die_modDie_self die ring
  exact ⟨_, acts, (congrArg Die.tokens now).trans (Die.setTokens_tokens ..),
    (congrArg Die.loadedTokens now).trans ((Die.setTokens_tokens ..).symm.trans (congrArg Die.tokens now).symm), congrArg Die.mingap now, rfl⟩

/-! ## Staging (R498, R499) and loaded tables -/

theorem stageImage_of_bad {s : State} {img : ImageCheck} (h : passes img = false) : exec (.stageImage img) s = .next (Claims.said s 3 [] []) :=
  congrArg Host.Outcome.next (if_neg (by simp [h]))

theorem stageImage_of_good {s : State} {img : ImageCheck} (h : passes img = true) :
    exec (.stageImage img) s = .next (Claims.said { s with firm := { s.firm with
      slotA := if s.firm.runsB then some img.digest else s.firm.slotA, slotB := if s.firm.runsB then s.firm.slotB else some img.digest
      prefersB := !s.firm.runsB } } 0 [] []) :=
  congrArg Host.Outcome.next (if_pos h)

theorem stageMicrocode_of_safe {s : State} (img : ImageCheck) (safe : s.firm.safe = true) :
    exec (.stageMicrocode img) s = .next (Claims.said s 1 [] []) :=
  congrArg Host.Outcome.next (if_pos safe)

theorem stageMicrocode_of_good {s : State} {img : ImageCheck} (up : s.firm.safe = false) (h : passes img = true) :
    exec (.stageMicrocode img) s = .next (Claims.said { s with firm := { s.firm with
      microcode := some img.digest, extended := s.firm.extended ++ [.digest img.digest] } } 0 [] []) :=
  congrArg Host.Outcome.next ((if_neg (by simp [up])).trans (if_pos h))

theorem microcodeSwitch_acts {s : State} {n : Nat} {x : BitVec 384} (hn : n ≤ 4) (h : s.firm.microcode = some x) :
    exec (.microcodeSwitch n) s = .next { s with firm := { s.firm with running := s.firm.running.set n x } } := by
  show execMicrocodeSwitch n s = _
  simp only [execMicrocodeSwitch, h, if_neg (Nat.not_lt.2 hn)]

theorem getLog_answers (s : State) :
    let part := (s.firm.log.drop s.firm.logAt).take 32
    exec .getLog s = .next (Claims.said { s with firm := { s.firm with logAt := s.firm.logAt + part.length } } 0 part.flatten []) := by
  show execGetLog s = _
  rw [execGetLog, List.flatMap_id']
  rfl

/-- Settles O51: power-on by what stage 6 folds into the tables and the rings, the other events by the branch that they take. -/
theorem firmwareEventsServeTheDevice : Obligations.FirmwareEventsServeTheDevice := by
  unfold Obligations.FirmwareEventsServeTheDevice
  intro s r die n g v img
  refine ⟨powerOn_runs, fun bad => ?_, thermalThrottle_eq s die, thermalRecovery_restores s die, ⟨_, rfl, rfl, rfl, rfl, rfl⟩, rfl,
    getFailrec_answers s, getCoremap_answers s, getLog_answers s, fun good runs => ?_, fun good runs => ?_, stageImage_of_bad,
    fun safe => ⟨stageMicrocode_of_safe img safe, setTokens_of_safe die n g safe⟩,
    fun up => ⟨stageMicrocode_of_good up, setTokens_acts n g up, recal_stack up, recal_port up, fun _ _ => recal_of_busy up⟩,
    fun _ => microcodeSwitch_acts, fun _ => recalComplete_stack, fun e hn => ?_, fun ds hg => ?_, fun e hn => ?_, fun hn hg => ?_⟩
  · obtain ⟨f, stage, code, d, unit, rom, good, fails, run⟩ := powerOn_of_bad bad
    exact ⟨_, run, rfl, fails, rfl, rfl⟩
  · rw [stageImage_of_good good]
    simp [runs]
  · rw [stageImage_of_good good]
    simp [runs]
  · exact congrArg Host.Outcome.next (if_neg (by omega))
  · exact congrArg Host.Outcome.next (if_neg (by omega))
  · exact congrArg Host.Outcome.next (if_neg (by omega))
  · exact congrArg Host.Outcome.next (if_neg (by omega))

end Sys2Proof.Machine
end

section
/-! O46: a request whose origin is this device itself (R311, R316, R422). -/

namespace Sys2Proof.Machine

/-- An untagged request of the device's own is acknowledged in place, as its multicast deliveries are (R316): no packet leaves. -/
theorem answer_own {s : State} {r : InReq} (org : r.org = s.kdev) (untagged : r.filt = none) (answered : r.answer = true) (st : Nat)
    (bs : List Byte) : answer s r st bs = ackFab s r.via r.seq s.kdev := by
  simp [answer, org, untagged, answered]

/-- A read that comes back from this device through a window that is not valid is acknowledged in place, not refused by a packet. -/
theorem exec_fabricRequestArrival_own {s : State} {seq flr win off n : Nat} (h : winOk (s.windows.get 0 (16 * s.kdev + win)) = false) :
    exec (.fabricRequestArrival s.kdev seq flr 0 win off n 0 0 0 ⟨[], false⟩) s = .next (ackFab s s.kdev seq s.kdev) := by
  show execFabricRequestArrival s.kdev seq flr 0 win off n 0 0 0 ⟨[], false⟩ s = _
  unfold execFabricRequestArrival
  generalize s.windows.get 0 (16 * s.kdev + win) = w at h ⊢
  simp [filtered, h, answer_own]

/-- Refutes O46: its clause on refused reads does not leave out the device's own number as origin. At reset, a read of device 0, which is this
device, through window 0, which is not loaded, is acknowledged in place and sends nothing, where the statement asks for a response. -/
theorem not_fabricEventsServeAndAnswer : ¬ Obligations.FabricEventsServeAndAnswer := by
  unfold Obligations.FabricEventsServeAndAnswer
  intro h
  obtain ⟨reads, -⟩ := h State.reset 0 0 0 0 0
  have refused := (reads 0).2 (.inl (by decide))
  have own := exec_fabricRequestArrival_own (s := State.reset) (seq := 0) (flr := 0) (win := 0) (off := 0) (n := 0) (by decide)
  have same : ackFab State.reset 0 0 0 = Claims.response State.reset 0 0 0 0 3 [] := Host.Outcome.next.inj (own.symm.trans refused)
  have silent : (ackFab State.reset 0 0 0).sent = [] := rfl
  rw [same] at silent
  exact absurd silent (List.cons_ne_nil _ _)

end Sys2Proof.Machine
end

section
/-! Shared by O40 and O47: what the writes that a device performs at homes, or sends away, leave of its number and its TLBs. -/

namespace Sys2Proof.Machine

/-- The device's number and its TLBs are as before. -/
structure DeviceKept (s t : State) : Prop where
  kdev : t.kdev = s.kdev
  tlbs : t.tlbs = s.tlbs

theorem DeviceKept.refl (s : State) : DeviceKept s s := ⟨rfl, rfl⟩

theorem DeviceKept.trans {s t u : State} (h : DeviceKept s t) (h' : DeviceKept t u) : DeviceKept s u :=
  ⟨h'.kdev.trans h.kdev, h'.tlbs.trans h.tlbs⟩

theorem DeviceKept.ite {c : Prop} [Decidable c] {s t u : State} (h : DeviceKept s t) (h' : DeviceKept s u) :
    DeviceKept s (if c then t else u : State) := by split <;> assumption

theorem DeviceKept.foldl {α : Type} {f : State → α → State} (h : ∀ s x, DeviceKept s (f s x)) (l : List α) (s : State) :
    DeviceKept s (l.foldl f s) := by
  induction l generalizing s with
  | nil => exact .refl s
  | cons x r ih => exact (h s x).trans (ih _)

theorem deviceKept_sendSnoop (s : State) (a : Nat) : DeviceKept s (sendSnoop s a) := .ite (.refl s) ⟨rfl, rfl⟩

theorem deviceKept_homeWrite (s : State) (who : Option Nat) (a : Nat) (bs : List (Nat × Byte)) : DeviceKept s (homeWrite s who a bs) := by
  obtain ⟨ls, n, f, e⟩ := snapshot_eq (expose s who a) who a
  simp only [homeWrite, e]
  exact .ite ⟨rfl, rfl⟩ ⟨rfl, rfl⟩

theorem deviceKept_homeRmw (s : State) (who : Option Nat) (a n : Nat) (f : Nat → Option Nat) : DeviceKept s (homeRmw s who a n f).1 := by
  simp only [homeRmw]
  split
  · exact ⟨rfl, rfl⟩
  split
  · exact deviceKept_homeWrite ..
  · exact ⟨rfl, rfl⟩

theorem deviceKept_performStore (s : State) (k : Nat) : DeviceKept s (performStore s k) := by
  simp only [performStore]
  split
  · exact .refl s
  split
  · exact .refl s
  split
  · exact deviceKept_sendSnoop ..
  · exact (⟨rfl, rfl⟩ : DeviceKept s { s with stores := s.stores.eraseIdx _ }).trans ((deviceKept_homeWrite ..).trans ⟨rfl, rfl⟩)

theorem deviceKept_performStores (n : Nat) (s : State) (p : Store → Bool) : DeviceKept s (performStores n s p) := by
  induction n generalizing s with
  | zero => exact .refl s
  | succ n ih =>
    simp only [performStores]
    split
    · exact .refl s
    · exact (deviceKept_performStore s _).trans (ih _)

theorem deviceKept_sendFab (s : State) (r : FabReq) : DeviceKept s (sendFab s r) := by
  simp only [sendFab]
  split
  · exact ⟨rfl, rfl⟩
  · exact ⟨rfl, rfl⟩

theorem deviceKept_putOwned (s : State) (a : Nat) (bs : List Byte) : DeviceKept s (putOwned s a bs) := by
  unfold putOwned
  split
  · exact .refl s
  · exact ⟨rfl, rfl⟩

theorem deviceKept_drainWc (s : State) (core : Nat) (e : WcEntry) : DeviceKept s (drainWc s core e) := by
  have drop : DeviceKept s (s.modCore core fun c => { c with wcb := c.wcb.erase e }) := ⟨rfl, rfl⟩
  simp only [drainWc]
  split
  · exact drop.trans (deviceKept_sendFab ..)
  · exact drop.trans (deviceKept_sendFab ..)
  · exact drop

theorem deviceKept_drainWcb (s : State) (core : Nat) (p : WcEntry → Bool) : DeviceKept s (drainWcb s core p) :=
  .foldl (fun s e => deviceKept_drainWc s core e) _ s

theorem deviceKept_hostRmw (s : State) (a n : Nat) (f : Nat → Option Nat) : DeviceKept s (hostRmw s a n f).1 := by
  simp only [hostRmw]
  split
  · exact deviceKept_putOwned ..
  · exact .refl s

theorem deviceKept_dropLines (s : State) (p : CacheLine → Bool) : DeviceKept s (dropLines s p) := ⟨rfl, rfl⟩

theorem deviceKept_storeL1 (s : State) (core a : Nat) (bs : List Byte) (b : Bool) : DeviceKept s (storeL1 s core a bs b) := by
  obtain ⟨cs, e⟩ := storeL1_eq s core a bs b
  rw [e]
  exact ⟨rfl, rfl⟩

theorem deviceKept_flushRed (s : State) (core : Nat) (e : RedEntry) : DeviceKept s (flushRed s core e) := by
  have drop : DeviceKept s (s.modCore core fun c => { c with red := c.red.erase e }) := ⟨rfl, rfl⟩
  simp only [flushRed]
  generalize (if e.wide then 64 else 32) = n
  split
  · exact deviceKept_sendSnoop ..
  split
  · refine drop.trans ?_
    split
    · exact (deviceKept_homeRmw ..).trans ⟨rfl, rfl⟩
    · exact (deviceKept_homeRmw ..).trans ((deviceKept_dropLines ..).trans (deviceKept_storeL1 ..))
  · exact (drop.trans (deviceKept_drainWcb ..)).trans (deviceKept_sendFab ..)
  · split
    · exact drop.trans (deviceKept_hostRmw ..)
    · exact drop.trans ⟨rfl, rfl⟩
  · exact drop

end Sys2Proof.Machine
end

section
/-! O40: walks, page responses, invalidations, deadlock releases and yields (R325, R364, R378, R418, R420). -/

namespace Sys2Proof.Machine

/-! ## What a walk that answers leaves in the TLBs (R418) -/

/-- A walk's result is no leaf of an empty page. -/
def Walk.sized : Walk → Prop
  | .leaf _ size _ _ _ _ _ _ _ => 0 < size
  | _ => True

theorem walkDev_sized (s : State) (r : Reader) (va l : Nat) (t : Target) (path : List (Nat × Target)) : (walkDev s r va l t path).1.sized := by
  induction l generalizing t path with
  | zero => trivial
  | succ l ih =>
    have page (b : Bool) : 0 < (if l + 1 = 3 then 2 ^ 30 else if l + 1 = 2 then 2 ^ 21 else if b = true then 65536 else 4096) := by
      split
      · decide
      split
      · decide
      split <;> decide
    simp only [walkDev]
    split
    · trivial
    · trivial
    · trivial
    next e _ =>
    have pos := page (tb e 5)
    generalize (if l + 1 = 3 then 2 ^ 30 else if l + 1 = 2 then 2 ^ 21 else if tb e 5 = true then 65536 else 4096) = size at pos ⊢
    generalize (if tb e 5 = true then va / 2 ^ (12 + 9 * l) % 512 % 16 * 4096 else 0) = at_
    split
    · trivial
    split
    · trivial
    split
    · split
      · trivial
      split
      · trivial
      split
      · trivial
      · exact pos
    split
    · trivial
    split
    · trivial
    · exact ih _ _

theorem walkHost_sized (s : State) (r : Reader) (c : Context) (va l : Nat) (t : Target) (rp wp xp : Bool)
    (path : List (Nat × Target × Bool × Bool)) : (walkHost s r c va l t rp wp xp path).1.sized := by
  induction l generalizing t rp wp xp path with
  | zero => trivial
  | succ l ih =>
    simp only [walkHost]
    split
    · trivial
    · trivial
    · trivial
    split
    · trivial
    split
    · show 0 < ite _ _ _
      split
      · decide
      split <;> decide
    · exact ih _ _ _ _ _

theorem walk_sized (s : State) (r : Reader) (die ctx va : Nat) : (s.walk r die ctx va).1.sized := by
  simp only [State.walk]
  split
  · exact walkDev_sized ..
  · exact walkHost_sized ..

/-- An entry of a TLB of `places` that translates an address of a context, for an access of a kind, to `a`. -/
def Tlb.Serves (e : Tlb) (places : List TlbAt) (ctx va kind : Nat) (a : Target) : Prop :=
  e.place ∈ places ∧ e.ctx = ctx ∧ e.base ≤ va ∧ va < e.base + e.size ∧ permits kind e.rp e.wp e.xp = true ∧ a = e.tgt.off (va - e.base)

theorem mem_tlbPut (s : State) (e : Tlb) : e ∈ (tlbPut s e).tlbs := List.mem_append_right _ (List.mem_singleton_self e)

/-- The last place of a fill holds the entry put there. -/
theorem mem_foldl_tlbPut {s : State} {places : List TlbAt} (f : TlbAt → Tlb) (h : places ≠ []) :
    ∃ p ∈ places, f p ∈ (places.foldl (fun s p => tlbPut s (f p)) s).tlbs := by
  obtain ⟨r, p, rfl⟩ := List.eq_nil_or_concat places |>.resolve_left h
  refine ⟨p, by simp, ?_⟩
  rw [List.concat_eq_append, List.foldl_append]
  exact mem_tlbPut ..

/-- Only what answered at the end of a walk is an answer, and the misses are over. -/
theorem walked_answers {x : State × Trans} {hold : Why → State} {wait : Nat → Nat → State} {done t : State} {a : Target} {tso : Bool}
    (h : (match x.2 with
      | .hold w => (hold w, .hold w)
      | .wait c v => (wait c v, .wait c v)
      | r => (done, r) : State × Trans) = (t, .ok a tso)) : x.2 = .ok a tso ∧ t = done := by
  obtain ⟨u, r⟩ := x
  cases r with
  | hold w => cases h
  | wait c v => cases h
  | trap c => cases h
  | ok b o => cases h; exact ⟨rfl, rfl⟩

theorem lacking_not_ok {s : State} {ctx va kind who : Nat} {c : Cause} {f : Bool} {a : Target} {tso : Bool} :
    (lacking s ctx va kind c f who).2 ≠ .ok a tso := by
  simp only [lacking]
  split
  · exact nofun
  split
  · exact nofun
  split <;> exact nofun

theorem tlb_of_translate {s t : State} {places : List TlbAt} {die ctx va kind who : Nat} {f tso : Bool} {a : Target} (some_ : places ≠ [])
    (h : translate s places die ctx va kind f who = (t, .ok a tso)) : ∃ e ∈ t.tlbs, e.Serves places ctx va kind a := by
  simp only [translate] at h
  split at h
  · cases h
  split at h
  next e found =>
    cases h
    have hit := List.find?_some found
    simp only [Bool.and_eq_true, decide_eq_true_eq, beq_iff_eq, List.elem_eq_mem] at hit
    obtain ⟨⟨⟨⟨⟨place, ctx⟩, low⟩, high⟩, perm⟩, -⟩ := hit
    exact ⟨e, List.mem_of_find?_eq_some found, place, ctx, low, high, perm, rfl⟩
  split at h
  · cases h
  split at h
  · cases h
  obtain ⟨answered, rfl⟩ := walked_answers h
  clear h
  generalize (if (s.missAt { level := 2, idx := die } ctx (va / 4096)).any Miss.walking then s
    else s.modDie die fun x => { x with walkTurn := clusterOf (placesCore places) % 24 }) = u at answered ⊢
  have sized := walk_sized u (.walk die ctx (va / 4096)) die ctx va
  split at answered
  · cases answered
  · cases answered
  · cases answered
  · cases answered
  · exact absurd answered lacking_not_ok
  next target size rp wp xp tso' at_ db ab path leaf =>
    have pos : 0 < size := by rwa [leaf] at sized
    split
    next bad => 
      rw [if_pos bad] at answered
      exact absurd answered lacking_not_ok
    next permitted =>
      rw [if_neg permitted] at answered
      generalize setEntryBits u _ at_ _ = x at answered ⊢
      obtain ⟨v, w⟩ := x
      cases w with
      | some w => cases answered
      | none =>
        cases answered
        obtain ⟨p, hp, put⟩ := mem_foldl_tlbPut (s := walksPut (dropAnswers v (.walk die ctx (va / 4096))) die path) (fun p =>
          ({ place := p, ctx := ctx, base := va / size * size, size := size, tgt := target, rp := rp, wp := wp, xp := xp, tso := tso,
             dirty := decide (kind = 1 ∨ kind = 2) } : Tlb)) some_
        refine ⟨_, put, hp, rfl, Nat.div_mul_le_self .., ?_, by simpa using permitted, rfl⟩
        exact Nat.lt_div_mul_add pos

/-! ## Page requests (R325) -/

theorem pageRequestResponse_of_none {s : State} {ctx va code : Nat} (h : ¬∃ r ∈ s.pageReqs, r.ctx = ctx ∧ r.vpn = va / 4096) :
    exec (.pageRequestResponse ctx va code) s = .next s :=
  congrArg Host.Outcome.next (if_pos (by simpa using h))

theorem pageRequestResponse_of_open {s : State} {ctx va : Nat} (code : Nat) (h : ∃ r ∈ s.pageReqs, r.ctx = ctx ∧ r.vpn = va / 4096) :
    exec (.pageRequestResponse ctx va code) s = .next (match code with
      | 0 => endPage s ctx (va / 4096)
      | 1 => failPage (endPage s ctx (va / 4096)) ctx (va / 4096)
      | _ => (s.pageReqs.filter fun r => r.ctx == ctx).foldl (fun s r => failPage (endPage s ctx r.vpn) ctx r.vpn)
          (logged s [0x325, ctx, va / 4096])) :=
  congrArg Host.Outcome.next (if_neg (by simpa using h))

theorem endPage_eq (s : State) (ctx vpn : Nat) : endPage s ctx vpn = { s with
    pageReqs := s.pageReqs.filter fun r => !(r.ctx == ctx && r.vpn == vpn)
    misses := s.misses.map fun m => if m.ctx = ctx ∧ m.vpn = vpn then { m with paging := false } else m } := by
  simp [endPage, Miss.key]

theorem failPage_lanes {s : State} {ctx vpn k : Nat} (h : k < s.groups.length) :
    ((failPage s ctx vpn).group k).lanes = (s.group k).lanes.map (Claims.pageFailed ctx vpn) := by
  simp [State.group, failPage, h, Claims.pageFailed]

theorem mem_failPage_misses {s : State} {ctx vpn : Nat} {m : Miss} (h : m ∈ (failPage s ctx vpn).misses) (hc : m.ctx = ctx) : m.vpn ≠ vpn := by
  have := (List.mem_filter.1 h).2
  simpa [Miss.key, hc] using this

/-- Ending the requests of some pages of a context leaves none of them. -/
theorem mem_foldl_failPage {rs : List PageReq} {s : State} {ctx : Nat} {r : PageReq}
    (h : r ∈ (rs.foldl (fun s r => failPage (endPage s ctx r.vpn) ctx r.vpn) s).pageReqs) :
    r ∈ s.pageReqs ∧ (r.ctx = ctx → ∀ q ∈ rs, r.vpn ≠ q.vpn) := by
  induction rs generalizing s with
  | nil => exact ⟨h, fun _ q hq => absurd hq List.not_mem_nil⟩
  | cons p rs ih =>
    obtain ⟨kept, rest⟩ := ih h
    obtain ⟨old, other⟩ := List.mem_filter.1 kept
    refine ⟨old, fun hc q hq => ?_⟩
    rcases List.mem_cons.1 hq with rfl | hq
    · simpa [hc] using other
    · exact rest hc q hq

/-! ## Invalidations (R325, R420) -/

theorem deviceKept_pushOut (s : State) (ctx : Nat) : DeviceKept s (pushOut s ctx) := by
  unfold pushOut
  refine (deviceKept_performStores ..).trans (.foldl (fun s c => ?_) _ _)
  exact (DeviceKept.foldl (fun s e => deviceKept_flushRed s c.1 e) _ s).trans (deviceKept_drainWcb ..)

theorem invalidate_tlbs (s : State) (ctx va size : Nat) (ats : Bool) : (invalidate s ctx va size ats).tlbs =
    s.tlbs.filter fun e => !(e.ctx == ctx && decide (e.base < va + size) && decide (va < e.base + e.size)) := by
  refine (deviceKept_pushOut (dropTlb s ctx fun base n => base < va + size && va < base + n) ctx).tlbs.trans ?_
  simp only [dropTlb, Bool.and_assoc]

theorem invalidate_drops (s : State) (ctx va size : Nat) (ats : Bool) :
    (∀ e ∈ (invalidate s ctx va size ats).tlbs, e.ctx = ctx → ¬(e.base < va + size ∧ va < e.base + e.size)) ∧
      ∀ e ∈ s.tlbs, e.ctx ≠ ctx → e ∈ (invalidate s ctx va size ats).tlbs := by
  rw [invalidate_tlbs]
  refine ⟨fun e he hc => ?_, fun e he hc => List.mem_filter.2 ⟨he, by simp [hc]⟩⟩
  have out := (List.mem_filter.1 he).2
  simp only [hc, beq_self_eq_true, Bool.true_and, Bool.not_eq_true', Bool.and_eq_false_iff, decide_eq_false_iff_not] at out
  exact not_and_or.2 out

/-! ## Deadlock releases (R364) -/

/-- A lane waits at a collective. -/
def Lane.isJoining (l : Lane) : Bool :=
  match l.st with
  | .joining _ => true
  | _ => false

theorem Lane.isJoining_iff (l : Lane) : l.isJoining = true ↔ ∃ n, l.st = .joining n := by
  unfold Lane.isJoining
  cases l.st <;> simp

theorem Group.mem_joining {g : Group} {i : Nat} : i ∈ g.lanesWith Lane.isJoining ↔ i < g.lanes.length ∧ Claims.joins g i :=
  Group.mem_lanesWith.trans (and_congr_right fun _ => Lane.isJoining_iff _)

theorem Group.lowestWait_eq (g : Group) : g.lowestWait = (g.lanesWith Lane.isJoining).filter fun i =>
    (g.lane i).pc.toNat == (g.lanesWith Lane.isJoining).foldl (fun m i => min m (g.lane i).pc.toNat) (2 ^ 32) := rfl

theorem Group.deadlocked_eq (g : Group) : g.deadlocked =
    (!(g.lanesWith Lane.isJoining).isEmpty && !(g.lanes.any fun l => l.isActive || l.isBlocked) && g.waitDone.isEmpty) := rfl

/-- The least of a list of numbers is at most each, and is one of them. -/
theorem foldl_min_spec {α : Type} (f : α → Nat) (l : List α) (m : Nat) :
    (l.foldl (fun m i => min m (f i)) m ≤ m ∧ ∀ i ∈ l, l.foldl (fun m i => min m (f i)) m ≤ f i) ∧
      (l.foldl (fun m i => min m (f i)) m = m ∨ ∃ i ∈ l, l.foldl (fun m i => min m (f i)) m = f i) := by
  induction l generalizing m with
  | nil => exact ⟨⟨le_rfl, fun i hi => absurd hi List.not_mem_nil⟩, .inl rfl⟩
  | cons x l ih =>
    obtain ⟨⟨low, each⟩, is⟩ := ih (min m (f x))
    rw [List.foldl_cons]
    refine ⟨⟨low.trans (min_le_left ..), fun i hi => ?_⟩, ?_⟩
    · rcases List.mem_cons.1 hi with rfl | hi
      · exact low.trans (min_le_right ..)
      · exact each i hi
    · rcases is with is | ⟨i, hi, is⟩
      · rcases min_choice m (f x) with h | h
        · exact .inl (is.trans h)
        · exact .inr ⟨x, List.mem_cons_self, is.trans h⟩
      · exact .inr ⟨i, List.mem_cons_of_mem _ hi, is⟩

/-- The lanes that R364 releases: those that join and stand at the lowest PC of all that do. -/
theorem Group.mem_lowestWait {g : Group} {i : Nat} : i ∈ g.lowestWait ↔
    i < g.lanes.length ∧ Claims.joins g i ∧ ∀ j < g.lanes.length, Claims.joins g j → (g.lane i).pc ≤ (g.lane j).pc := by
  rw [Group.lowestWait_eq, List.mem_filter, Group.mem_joining, beq_iff_eq, and_assoc]
  refine and_congr_right fun hi => and_congr_right fun join => ?_
  obtain ⟨⟨-, each⟩, is⟩ := foldl_min_spec (fun i => (g.lane i).pc.toNat) (g.lanesWith Lane.isJoining) (2 ^ 32)
  refine ⟨fun eq j hj joins => ?_, fun least => ?_⟩
  · exact BitVec.le_def.2 (eq ▸ each j (Group.mem_joining.2 ⟨hj, joins⟩))
  · refine Nat.le_antisymm ?_ (each i (Group.mem_joining.2 ⟨hi, join⟩))
    rcases is with is | ⟨j, hj, is⟩
    · rw [is]
      exact (g.lane i).pc.isLt.le
    · obtain ⟨hj, joins⟩ := Group.mem_joining.1 hj
      rw [is]
      exact BitVec.le_def.1 (least j hj joins)

theorem Group.lane_forceAt {g : Group} {i : Nat} (ls : List Nat) (hi : i < g.lanes.length) :
    (g.forceAt ls).lane i = if i ∈ ls then { g.lane i with st := .active, force := true } else g.lane i := by
  unfold Group.forceAt
  induction ls generalizing g with
  | nil => rfl
  | cons k ls ih =>
    rw [List.foldl_cons, ih (by simpa using hi)]
    by_cases h : i = k
    · subst h
      rw [g.lane_modLane_self _ hi, if_pos List.mem_cons_self]
      exact ite_self _
    · rw [g.lane_modLane_ne _ h]
      simp only [List.mem_cons, h, false_or]

theorem Group.deadlocked_of_joins {g : Group} {i : Nat} (idle : ∀ l ∈ g.lanes, l.isActive = false ∧ l.isBlocked = false)
    (hi : i < g.lanes.length) (join : Claims.joins g i) (done : g.waitDone = []) : g.deadlocked = true := by
  have some_ := List.ne_nil_of_mem (Group.mem_joining.2 ⟨hi, join⟩)
  have none : (g.lanes.any fun l => l.isActive || l.isBlocked) = false := by
    rw [List.any_eq_false]
    intro l hl
    simp [idle l hl]
  simp only [Group.deadlocked_eq, none, done, List.isEmpty_nil, Bool.not_false, Bool.and_true, Bool.not_eq_true', List.isEmpty_eq_false_iff]
  exact some_

theorem waitDeadlockRelease_releases {s : State} {g : Nat} (runs : s.runs (s.group g) = true)
    (idle : ∀ l ∈ (s.group g).lanes, l.isActive = false ∧ l.isBlocked = false)
    (join : ∃ i < (s.group g).lanes.length, Claims.joins (s.group g) i) (done : (s.group g).waitDone = []) :
    ∃ t, exec (.waitDeadlockRelease g) s = .next t ∧ (∀ j, j ≠ g → t.group j = s.group j) ∧
      t.group g = (s.group g).forceAt (s.group g).lowestWait := by
  obtain ⟨i, hi, join⟩ := join
  have listed : g < s.groups.length := by
    by_contra h
    rw [State.group, List.getD_eq_getElem?_getD, List.getElem?_eq_none (Nat.le_of_not_lt h)] at hi
    exact absurd hi (Nat.not_lt_zero i)
  refine ⟨_, congrArg Host.Outcome.next (if_pos ?_), fun j hj => s.group_modGroup_ne _ hj, s.group_modGroup_self _ listed⟩
  rw [runs, Group.deadlocked_of_joins idle hi join done]
  rfl

theorem yieldExpiry_eq {s : State} {g u : Nat} (h : (s.group g).hold = .yield u) : exec (.yieldExpiry g) s =
    .next (if u ≤ s.clock + 1 then s.modGroup g fun x => { x with hold := .none, age := 0, ageU := 0 } else s) := by
  show execYieldExpiry g s = _
  simp only [execYieldExpiry, h]

/-- Settles O40: a walk that answers has found or put its entry; a response and an invalidation filter what they end; the lanes released are those
of the least PC. -/
theorem translationAndWaitEventsEndWaits : Obligations.TranslationAndWaitEventsEndWaits := by
  unfold Obligations.TranslationAndWaitEventsEndWaits
  intro s core ctx va kind size g
  refine ⟨fun t a tso h => ⟨?_, tlb_of_translate (List.cons_ne_nil _ _) h⟩, ?_, fun i hi => ?_, ?_, fun u h => ⟨fun le => ?_, fun lt => ?_⟩⟩
  · exact congrArg Host.Outcome.next (congrArg Prod.fst h)
  · intro vpn rest open_
    refine ⟨fun code h => pageRequestResponse_of_none h, fun h => ?_, fun h => ?_, fun h => ?_⟩
    · exact (pageRequestResponse_of_open 0 h).trans (congrArg Host.Outcome.next (endPage_eq ..))
    · refine ⟨_, pageRequestResponse_of_open 1 h, fun r hr hc => ?_, fun m => mem_failPage_misses, List.length_map .., fun k => failPage_lanes⟩
      have other := (List.mem_filter.1 hr).2
      simpa [hc] using other
    · refine ⟨_, pageRequestResponse_of_open 2 h, fun r hr hc => ?_⟩
      obtain ⟨old, other⟩ := mem_foldl_failPage hr
      exact other hc r (List.mem_filter.2 ⟨old, by simpa using hc⟩) rfl
  · rcases List.mem_pair.1 hi with rfl | rfl
    · exact ⟨_, rfl, invalidate_drops s ctx va size true⟩
    · exact ⟨_, rfl, invalidate_drops s ctx va size false⟩
  · intro x runs idle join done
    obtain ⟨t, run, others, group⟩ := waitDeadlockRelease_releases runs idle join done
    refine ⟨t, run, others, fun i hi => ?_⟩
    rw [group, Group.lane_forceAt _ hi]
    exact ⟨fun lowest => if_pos (Group.mem_lowestWait.2 ⟨hi, lowest⟩), fun other => if_neg fun h => other (Group.mem_lowestWait.1 h).2⟩
  · rw [yieldExpiry_eq h, if_pos le]
  · rw [yieldExpiry_eq h, if_neg (Nat.not_le.2 lt)]

end Sys2Proof.Machine
end

section
/-! O48: host accesses, snoops and answers, and reply doorbells (R322 to R324, R442). -/

namespace Sys2Proof.Machine

/-! ## A write into one line at its home (R213) -/

theorem lineOf_lineOf (a : Nat) : lineOf (lineOf a) = lineOf a := by
  simp only [lineOf]
  omega

/-- The bytes of a range in one line are one home write. -/
theorem homeWrites_oneLine (s : State) (who : Option Nat) {line : Nat} {bs : List (Nat × Byte)} (some_ : bs ≠ [])
    (one : ∀ p ∈ bs, lineOf p.1 = line) : homeWrites s who bs = homeWrite s who line bs := by
  have lines : (bs.map fun p => lineOf p.1).eraseDups = [line] := by
    obtain ⟨p, r, rfl⟩ := List.exists_cons_of_ne_nil some_
    have rest : ((r.map fun p => lineOf p.1).filter fun l => !l == lineOf p.1) = [] := by
      refine List.filter_eq_nil_iff.2 fun l hl => ?_
      obtain ⟨q, hq, rfl⟩ := List.mem_map.1 hl
      simp [one p List.mem_cons_self, one q (List.mem_cons_of_mem _ hq)]
    rw [List.map_cons, List.eraseDups_cons, rest, one p List.mem_cons_self]
    rfl
  have all : (bs.filter fun p => lineOf p.1 == line) = bs := List.filter_eq_self.2 fun p hp => by simp [one p hp]
  rw [homeWrites, lines, List.foldl_cons, List.foldl_nil, all]

/-- What a write into one good line changes (R213, R231). -/
theorem homeWrites_good {s : State} (who : Option Nat) {a : Nat} {vs : List Byte} (some_ : 0 < vs.length)
    (one : lineOf (a + vs.length - 1) = lineOf a) (good : s.lineClass a = 0) : ∃ ls n f, homeWrites s who (spread a vs) =
      { s with launches := ls, snapFrames := n, firm := f, tags := AMap.erase s.tags (lineOf a), mem := memPut s.mem (spread a vs) } := by
  have line : ∀ p ∈ spread a vs, lineOf p.1 = lineOf a := fun p hp => by
    have range := spread_mem hp
    simp only [lineOf] at one ⊢
    omega
  have listed : spread a vs ≠ [] := by
    obtain ⟨v, r, rfl⟩ := List.exists_cons_of_ne_nil (List.ne_nil_of_length_pos some_)
    exact List.cons_ne_nil _ _
  have class_ : s.lineClass (lineOf a) = 0 := by rwa [State.lineClass, lineOf_lineOf]
  obtain ⟨ls, n, f, e⟩ := homeWrite_good who (spread a vs) class_
  rw [lineOf_lineOf] at e
  exact ⟨ls, n, f, (homeWrites_oneLine s who listed line).trans e⟩

/-! ## Accesses of the host and its snoops (R323, R324) -/

theorem hostMemAccess_reads {s : State} {a : Nat} (own : Bool) (inside : a < s.hdm * 2 ^ 30) (room : s.filterFull (lineOf a) = none)
    (good : s.lineClass a = 0) (here : s.recalWaits (lineOf a) = false) : exec (.hostMemAccess a false [] own) s =
      .next (Claims.toHost (hostTakes (expose s none a) (lineOf a) own) "hostData" [a, 0] (s.bytes (lineOf a) 128)) := by
  refine congrArg Host.Outcome.next ((if_neg (Nat.not_le.2 inside)).trans ?_)
  have good' : (expose s none a).lineClass a = 0 := good
  simp only [hostAccess, here, room, good', Bool.false_and, Bool.false_eq_true, if_false, if_true]
  rfl

theorem hostMemAccess_outside {s : State} {a : Nat} (wr : Bool) (bs : List (Nat × Byte)) (own : Bool) (h : s.hdm * 2 ^ 30 ≤ a) :
    exec (.hostMemAccess a wr bs own) s = .next s :=
  congrArg Host.Outcome.next (if_pos h)

theorem hostMemAccess_writes {s : State} {a : Nat} {vs : List Byte} (inside : a + vs.length ≤ s.hdm * 2 ^ 30)
    (line : Claims.OneGoodLine s a vs.length) :
    ∃ t, exec (.hostMemAccess a true (spread a vs) false) s = .next t ∧ Claims.Stored s t a vs ∧ t.groups = s.groups := by
  obtain ⟨some_, one, free, good⟩ := line
  have here : s.recalWaits (lineOf a) = false := by
    have : s.recalWaits a = false := (Bool.or_eq_false_iff.1 free).1
    rwa [State.recalWaits, lineOf_lineOf]
  have all : ((spread a vs).filter fun b => b.1 < s.hdm * 2 ^ 30) = spread a vs := List.filter_eq_self.2 fun p hp => by
    have := spread_mem hp
    exact decide_eq_true (by omega)
  obtain ⟨ls, n, f, e⟩ := homeWrites_good none some_ one good
  refine ⟨_, congrArg Host.Outcome.next (if_neg (Nat.not_le.2 (by omega))), ?_⟩
  simp only [hostAccess, here, all, e, Bool.not_false, Bool.and_self, Bool.false_eq_true, if_false, if_true]
  exact ⟨stored_of_mem rfl, trivial⟩

theorem backInvalidateResponse_ends {s : State} {a : Nat} {vs : List Byte} (fits : vs.length ≤ 128) (some_ : 0 < vs.length)
    (good : s.lineClass a = 0) : ∃ t, exec (.backInvalidateResponse a (spread (lineOf a) vs)) s = .next t ∧
      Claims.Stored s t (lineOf a) vs ∧ t.hostLines.find (lineOf a) = none ∧ lineOf a ∉ t.hostOrder := by
  have one : lineOf (lineOf a + vs.length - 1) = lineOf (lineOf a) := by
    simp only [lineOf]
    omega
  have good' : ({ s with hostLines := AMap.erase s.hostLines (lineOf a), hostOrder := s.hostOrder.filter fun l => l != lineOf a,
                         sent := s.sent.erase { kind := "backInvalidate", dst := 255, args := [lineOf a] } } : State).lineClass (lineOf a) = 0 := by
    show s.lineClass (lineOf a) = 0
    rwa [State.lineClass, lineOf_lineOf]
  obtain ⟨ls, n, f, e⟩ := homeWrites_good none some_ one good'
  refine ⟨_, congrArg Host.Outcome.next e, stored_of_mem rfl, AMap.find_erase_self .., fun h => ?_⟩
  have := (List.mem_filter.1 h).2
  simp at this

theorem hostSnoop_of_none {s : State} {a : Nat} (h : s.ownedLine (lineOf a) = none) : exec (.hostSnoop a) s = .next s := by
  show execHostSnoop a s = _
  simp only [execHostSnoop, h]

theorem hostSnoop_of_owned {s : State} {a : Nat} {b : List Byte} (h : s.ownedLine (lineOf a) = some b) : exec (.hostSnoop a) s =
    .next (Claims.toHost { s with owned := s.owned.filter fun x => x.1 != lineOf a } "snoopResponse" [lineOf a] b) := by
  show execHostSnoop a s = _
  simp only [execHostSnoop, h]
  rfl

/-! ## The host's answers (R323) -/

section
variable {s : State} {k : Nat} {r : HostReq} {data : List Byte} {poison : Bool}

theorem cxlDataResponse_of_unsent (hk : s.hostReqs[k]? = some r) (h : r.sent = false) : exec (.cxlDataResponse k data poison) s = .next s := by
  show execCxlDataResponse k data poison s = _
  simp [execCxlDataResponse, hk, h]

theorem cxlDataResponse_of_sent (hk : s.hostReqs[k]? = some r) (h : r.sent = true) :
    exec (.cxlDataResponse k data poison) s = .next (hostAnswered (Claims.hostTook s k) r data poison) := by
  show execCxlDataResponse k data poison s = _
  simp only [execCxlDataResponse, hk, h, if_true]
  rfl

theorem hostAnswered_reader {q : Reader} (who : r.who = some q) (kind : r.kind ≠ 5) : hostAnswered s r data poison =
    giveAnswer s q (.host (lineOf r.addr)) (if poison then 1 else 0) data := by
  simp [hostAnswered, who, kind]

theorem hostAnswered_store (who : r.who = none) (kind : r.kind = 1) (tso : r.tso = false) (eng : r.eng = 0) :
    hostAnswered s r data poison = s := by
  simp [hostAnswered, who, kind, tso, eng, engAcked]

theorem Group.orFlags_zero (g : Group) : g.orFlags 0 = g := by
  simp [Group.orFlags]

/-- A lane that waits at its word goes past it, and the value lands (R20, R269). -/
theorem retire_of_waiting {d : Dst} {pc : Word} (ext : Bool) (v : Nat) (h : s.awaits d pc false = true) : retire s d pc ext false true v =
    land (s.modGroup d.group fun g => g.modLane d.lane fun l => Claims.answered l pc ext) d v := by
  simp only [retire, h, Group.orFlags_zero, Bool.not_true, Bool.false_eq_true, if_false, if_true]
  rfl

theorem acquireAfter_none (g va : Nat) (glob : Bool) : acquireAfter s g 0 va glob = s := if_pos rfl

theorem takeOwned_groups (s : State) (line : Nat) (bs : List Byte) : (takeOwned s line bs).groups = s.groups := by
  simp only [takeOwned]
  split
  · rfl
  split
  · split <;> rfl
  · rfl

theorem hostRmw_groups (s : State) (a n : Nat) (f : Nat → Option Nat) : (hostRmw s a n f).1.groups = s.groups := by
  simp only [hostRmw]
  split
  · unfold putOwned
    split <;> rfl
  · rfl

theorem awaits_congr {t : State} (h : t.groups = s.groups) (d : Dst) (pc : Word) (unif : Bool) : t.awaits d pc unif = s.awaits d pc unif := by
  simp only [State.awaits, State.group, h]

theorem hostAnswered_load {d : Dst} (who : r.who = none) (dst : r.dst = some d) (kind : r.kind = 0) (cmp : r.cmp = 0) (acq : r.acq = 0)
    (unif : r.unif = false) (waits : s.awaits d r.pc false = true) :
    hostAnswered s r data false = land (s.modGroup d.group fun g => g.modLane d.lane fun l => Claims.answered l r.pc r.ext) d
      (bytesNat ((((s.ownedLine (lineOf r.addr)).getD data).drop (r.addr % 128)).take r.size)) := by
  simp only [hostAnswered, who, dst, kind, cmp, acq, unif, retire_of_waiting _ _ waits, acquireAfter_none, ne_eq, not_true_eq_false,
    Bool.false_eq_true, if_false]

theorem hostAnswered_rmw {d : Dst} (who : r.who = none) (dst : r.dst = some d) (kind : r.kind = 2 ∨ r.kind = 3) (acq : r.acq = 0)
    (unif : r.unif = false) (waits : s.awaits d r.pc false = true) :
    let q := hostRmw (takeOwned s (lineOf r.addr) data) r.addr (8 * r.size) (rmwFun r.kind r.aop (8 * r.size) r.data.toNat r.cmp.toNat)
    hostAnswered s r data false = land (q.1.modGroup d.group fun g => g.modLane d.lane fun l => Claims.answered l r.pc r.ext) d q.2 := by
  intro q
  have waits' : q.1.awaits d r.pc false = true := (awaits_congr ((hostRmw_groups ..).trans (takeOwned_groups ..)) ..).trans waits
  rw [← retire_of_waiting r.ext q.2 waits']
  rcases kind with kind | kind
  · simp [hostAnswered, who, dst, kind, acq, unif, acquireAfter_none, q]
  · simp [hostAnswered, who, dst, kind, acq, unif, acquireAfter_none, q]

/-- A poisoned answer traps the lane that waits for it (R231). -/
theorem hostAnswered_poisoned {d : Dst} (who : r.who = none) (dst : r.dst = some d) (kind : r.kind = 0 ∨ r.kind = 2 ∨ r.kind = 3)
    (cmp : r.cmp = 0) (unif : r.unif = false) (waits : s.awaits d r.pc false = true) :
    hostAnswered s r data true = takeTrap s d.group .poison r.pc r.ext false [(d.lane, BitVec.ofNat 64 r.va)] := by
  have traps : retireTrap s d r.pc r.ext r.unif .poison r.va = takeTrap s d.group .poison r.pc r.ext false [(d.lane, BitVec.ofNat 64 r.va)] := by
    simp [retireTrap, unif, waits]
  rcases kind with kind | kind | kind
  · simp [hostAnswered, who, dst, kind, cmp, traps]
  · simp [hostAnswered, who, dst, kind, traps]
  · simp [hostAnswered, who, dst, kind, traps]

/-- A trap of one lane of a user group parks it (R455). -/
theorem takeTrap_parks {g i : Nat} (c : Cause) (pc : Word) (ext : Bool) (v : UWord) (user : (s.group g).priv = .user)
    (hi : i < (s.group g).lanes.length) : (((takeTrap s g c pc ext false [(i, v)]).group g).lane i).st = .parked := by
  have listed : g < s.groups.length := by
    by_contra h
    rw [State.group, List.getD_eq_getElem?_getD, List.getElem?_eq_none (Nat.le_of_not_lt h)] at hi
    exact absurd hi (Nat.not_lt_zero i)
  have parked : ((s.group g).modLane i fun l => { l.unmark with st := .parked, pc := pc }).lane i =
      { ((s.group g).lane i).unmark with st := .parked, pc := pc } := (s.group g).lane_modLane_self _ hi
  have user' : ((s.group g).priv == .supervisor) = false := by rw [user]; rfl
  simp only [takeTrap, user', List.isEmpty_cons, Bool.false_eq_true, if_false, List.foldl_cons, List.foldl_nil]
  refine (congrArg (fun x : Group => (x.lane i).st) (s.group_modGroup_self _ listed)).trans ?_
  exact congrArg Lane.st parked

end

/-! ## Reply doorbells (R442) -/

theorem mailAt_spec {s : State} {ctx addr t : Nat} {m : Mail} (h : s.mailAt ctx addr = some (t, m)) :
    (s.teams.findIdx? fun t => !t.isSup && (s.launch t.launch).ctx == ctx && t.mail.any fun m => m.addr == addr) = some t := by
  unfold State.mailAt at h
  split at h
  · cases h
  next k found =>
    obtain ⟨m', -, e⟩ := Option.map_eq_some_iff.1 h
    cases e
    exact found

/-- A team's record at an address, for the context that the team runs in. -/
def State.holdsMail (s : State) (ctx addr : Nat) (t : Team) : Bool :=
  !t.isSup && (s.launch t.launch).ctx == ctx && t.mail.any fun m => m.addr == addr

/-- Team `t` runs in the context, and no team before it has a record of the context at the address. -/
structure MailOf (s : State) (ctx addr t : Nat) : Prop where
  listed : t < s.teams.length
  user : (s.team t).isSup = false
  runs : (s.launch (s.team t).launch).ctx = ctx
  first : ∀ j < t, s.holdsMail ctx addr (s.team j) = false

theorem State.getElem_teams (s : State) {k : Nat} (h : k < s.teams.length) : s.teams[k] = s.team k := by
  simp [State.team, h]

theorem mailOf_of_mailAt {s : State} {ctx addr t : Nat} {m : Mail} (h : s.mailAt ctx addr = some (t, m)) : MailOf s ctx addr t := by
  obtain ⟨listed, holds, first⟩ := List.findIdx?_eq_some_iff_getElem.1 (mailAt_spec h)
  rw [s.getElem_teams listed] at holds
  simp only [Bool.and_eq_true, Bool.not_eq_true', beq_iff_eq] at holds
  obtain ⟨⟨user, runs⟩, -⟩ := holds
  refine ⟨listed, user, runs, fun j hj => ?_⟩
  have := first j hj
  rw [s.getElem_teams (hj.trans listed)] at this
  exact Bool.eq_false_iff.2 this

/-- A team without the record at an address. -/
def Team.dropMail (addr : Nat) (tm : Team) : Team := { tm with mail := tm.mail.filter fun m => m.addr != addr }

/-- The end of a record drops it from one team's list, or finds none. -/
theorem endMail_cases (s : State) (c addr : Nat) :
    (endMail s c addr = s ∧ ∀ t < s.teams.length, s.holdsMail c addr (s.team t) = false) ∨
      ∃ k, k < s.teams.length ∧ s.holdsMail c addr (s.team k) = true ∧ (∀ j < k, s.holdsMail c addr (s.team j) = false) ∧
        (∀ j, (endMail s c addr).team j = (s.modTeam k (Team.dropMail addr)).team j) ∧ (endMail s c addr).teams.length = s.teams.length := by
  unfold endMail
  split
  next none =>
    refine .inl ⟨rfl, fun t ht => ?_⟩
    have := List.findIdx?_eq_none_iff.1 none (s.teams[t]) (List.getElem_mem ht)
    rwa [s.getElem_teams ht] at this
  next k found =>
    obtain ⟨listed, holds, first⟩ := List.findIdx?_eq_some_iff_getElem.1 found
    rw [s.getElem_teams listed] at holds
    have teams : (acquire s (s.team k).core c 7 .all).teams = s.teams := by
      unfold acquire
      split <;> rfl
    refine .inr ⟨k, listed, holds, fun j hj => ?_, fun j => ?_, ?_⟩
    · have := first j hj
      rw [s.getElem_teams (hj.trans listed)] at this
      exact Bool.eq_false_iff.2 this
    · rw [State.team, State.modTeam, teams]
      rfl
    · simp [State.modTeam, teams]

/-- The end of a record leaves groups and launches. -/
theorem endMail_keeps (s : State) (c addr : Nat) : (endMail s c addr).groups = s.groups ∧ (endMail s c addr).launches = s.launches := by
  simp only [endMail, acquire]
  split
  · exact ⟨rfl, rfl⟩
  · split <;> exact ⟨rfl, rfl⟩

/-- A team that has dropped the record has none at its address. -/
theorem holdsMail_dropMail (s : State) (ctx addr : Nat) (tm : Team) : s.holdsMail ctx addr (tm.dropMail addr) = false := by
  simp [State.holdsMail, Team.dropMail]

theorem MailOf.congr {s u : State} {ctx addr t : Nat} (h : MailOf s ctx addr t) (teams : u.teams = s.teams)
    (runs : ∀ l, (u.launch l).ctx = (s.launch l).ctx) : MailOf u ctx addr t := by
  have team : ∀ j, u.team j = s.team j := fun j => by rw [State.team, teams, State.team]
  obtain ⟨listed, user, runs', first⟩ := h
  refine ⟨teams ▸ listed, team t ▸ user, ?_, fun j hj => ?_⟩
  · rw [team, runs, runs']
  · rw [← first j hj, team, State.holdsMail, State.holdsMail, runs]

theorem MailOf.expose {s : State} {ctx addr t : Nat} (h : MailOf s ctx addr t) (who : Option Nat) (a : Nat) :
    MailOf (Sys2Proof.Machine.expose s who a) ctx addr t := by
  refine h.congr rfl fun l => ?_
  simp only [Sys2Proof.Machine.expose, State.launch, List.getD_eq_getElem?_getD, List.getElem?_mapIdx]
  cases s.launches[l]? with
  | none => rfl
  | some x =>
    simp only [Option.map_some, Option.getD_some]
    split <;> rfl

/-- The end of any record leaves teams and contexts, and no record comes back. -/
theorem MailOf.endMail {s : State} {ctx addr t : Nat} (h : MailOf s ctx addr t) (c : Nat) :
    MailOf (Sys2Proof.Machine.endMail s c addr) ctx addr t := by
  rcases endMail_cases s c addr with ⟨e, -⟩ | ⟨k, hk, -, -, e, length⟩
  · rwa [e]
  · obtain ⟨listed, user, runs, first⟩ := h
    have launches : ∀ l, (Sys2Proof.Machine.endMail s c addr).launch l = s.launch l := fun l => by
      rw [State.launch, (endMail_keeps s c addr).2, State.launch]
    have user' : ((Sys2Proof.Machine.endMail s c addr).team t).isSup = (s.team t).isSup :=
      (congrArg Team.isSup (e t)).trans (State.modTeam_keeps Team.isSup (f := Team.dropMail addr) (fun _ => rfl) t)
    have launch' : ((Sys2Proof.Machine.endMail s c addr).team t).launch = (s.team t).launch :=
      (congrArg Team.launch (e t)).trans (State.modTeam_keeps Team.launch (f := Team.dropMail addr) (fun _ => rfl) t)
    refine ⟨length ▸ listed, user'.trans user, ?_, fun j hj => ?_⟩
    · rw [launch', launches, runs]
    · by_cases same : j = k
      · rw [e, same, State.team_modTeam_self _ _ hk]
        exact holdsMail_dropMail ..
      · rw [e, State.team_modTeam_ne _ _ same, ← first j hj, State.holdsMail, State.holdsMail, launches]

/-- The record that awaited the reply is gone from its team. -/
theorem MailOf.cleared {s : State} {ctx addr t : Nat} (h : MailOf s ctx addr t) :
    ∀ x ∈ ((Sys2Proof.Machine.endMail s ctx addr).team t).mail, x.addr ≠ addr := by
  obtain ⟨listed, user, runs, first⟩ := h
  have own : s.holdsMail ctx addr (s.team t) = (s.team t).mail.any fun m => m.addr == addr := by
    simp [State.holdsMail, user, runs]
  intro x hx at_
  have holds : ∀ hx : x ∈ (s.team t).mail, s.holdsMail ctx addr (s.team t) = true := fun hx => by
    rw [own]
    exact List.any_eq_true.2 ⟨x, hx, beq_iff_eq.2 at_⟩
  rcases endMail_cases s ctx addr with ⟨e, none⟩ | ⟨k, hk, found, before, e, -⟩
  · rw [e] at hx
    exact Bool.false_ne_true ((none t listed).symm.trans (holds hx))
  · rw [e] at hx
    rcases lt_trichotomy k t with lt | rfl | gt
    · exact Bool.false_ne_true ((first k lt).symm.trans found)
    · rw [State.team_modTeam_self _ _ hk] at hx
      have := (List.mem_filter.1 hx).2
      simp [at_] at this
    · rw [State.team_modTeam_ne _ _ (Nat.ne_of_lt gt)] at hx
      exact Bool.false_ne_true ((before t gt).symm.trans (holds hx))

/-- A value lands in a register of the resident window, or in a global (R20). -/
theorem land_of_resident {s : State} {d : Dst} {v : Nat} (pair : d.pair = false) (ext : d.ext = 0) (h : s.resident d) : land s d v =
    s.modGroup d.group fun g => g.modLane d.lane fun l => (l.put g.depth d.slot (BitVec.ofNat 32 v)).fill d.slot := by
  simp only [land, landLines_of_resident pair h, prvRoom_nil, landWord_of_resident _ h, pair, ext, extendLoad, Bool.false_eq_true, if_false]

/-- A reply word lands, and the record is over or waits for others. -/
theorem mailWord_of_resident {s : State} {d : Dst} {addr v : Nat} (pair : d.pair = false) (ext : d.ext = 0) (h : s.resident d) :
    let u := s.modGroup d.group fun g => g.modLane d.lane fun l => (l.put g.depth d.slot (BitVec.ofNat 32 v)).fill d.slot
    mailWord s d addr v false = u ∨ ∃ c, mailWord s d addr v false = endMail u c addr := by
  simp only [mailWord, Bool.not_false, if_true, land_of_resident pair ext h]
  split
  · exact .inl rfl
  · exact .inr ⟨_, rfl⟩

section
variable {s : State} {ctx a : Nat}

theorem gcallReply_refused (h : s.mailPending ctx a = true ∨ (ctx, a) ∈ s.doorbells) :
    exec (.gcallReply ctx a) s = .next { s with bells := s.bells + 1 } :=
  congrArg Host.Outcome.next (if_pos (by simpa using h))

theorem gcallReply_taken (idle : s.mailPending ctx a = false) (new : (ctx, a) ∉ s.doorbells) :
    exec (.gcallReply ctx a) s = .next (readReply s ctx a) :=
  congrArg Host.Outcome.next (if_neg (by simp [idle, new]))

theorem readReply_none (h : s.mailAt ctx a = none) : readReply s ctx a = { s with bells := s.bells + 1 } := by
  simp only [readReply, h]

/-- The words of a reply in device memory that no host holds are read at once (R442). -/
theorem readReply_here {t i p : Nat} {m : Mail} {sl : Slot} {tso : Bool} (at_ : s.mailAt ctx a = some (t, m)) (one : m.dst = [(i, sl)])
    (here : s.trans (s.team t).core ctx a 0 false = (s, .ok (.dpa p) tso)) (free : ∀ l ∈ linesOf p 320, s.snoopNeeded l false = false)
    (good : s.lineClass (p + 64 + 4 * i) = 0) : readReply s ctx a =
      endMail (mailWord (expose s (some (s.team t).launch) (p + 64 + 4 * i)) { group := m.group, lane := i, slot := sl, pair := false } a
        (bytesNat (s.bytes (p + 64 + 4 * i) 4)) false) ctx a := by
  have none_ : (linesOf p 320).find? (fun l => s.snoopNeeded l false) = none := List.find?_eq_none.2 fun l hl => by simp [free l hl]
  have good' : (expose s (some (s.team t).launch) (p + 64 + 4 * i)).lineClass (p + 64 + 4 * i) = 0 := good
  simp only [readReply, at_, here, none_, one, List.foldl_cons, List.foldl_nil, good']
  rfl

end

/-- A reply word reaches its lane, and the record is over (R442). -/
theorem gcallReply_lands {s : State} {ctx a t i p : Nat} {m : Mail} {sl : Slot} {tso : Bool} (idle : s.mailPending ctx a = false)
    (new : (ctx, a) ∉ s.doorbells) (at_ : s.mailAt ctx a = some (t, m)) (one : m.dst = [(i, sl)])
    (here : s.trans (s.team t).core ctx a 0 false = (s, .ok (.dpa p) tso)) (free : ∀ l ∈ linesOf p 320, s.snoopNeeded l false = false)
    (good : s.lineClass (p + 64 + 4 * i) = 0) (live : s.resident { group := m.group, lane := i, slot := sl, pair := false })
    (lane : i < (s.group m.group).lanes.length) (listed : m.group < s.groups.length) :
    ∃ u, exec (.gcallReply ctx a) s = .next u ∧ (∀ x ∈ (u.team t).mail, x.addr ≠ a) ∧ (u.group m.group).lane i =
      (((s.group m.group).lane i).put (s.group m.group).depth sl (BitVec.ofNat 32 (bytesNat (s.bytes (p + 64 + 4 * i) 4)))).fill sl := by
  let x := expose s (some (s.team t).launch) (p + 64 + 4 * i)
  let d : Dst := { group := m.group, lane := i, slot := sl, pair := false }
  let v := bytesNat (s.bytes (p + 64 + 4 * i) 4)
  let y := x.modGroup d.group fun g => g.modLane d.lane fun l => (l.put g.depth d.slot (BitVec.ofNat 32 v)).fill d.slot
  have held : MailOf y ctx a t := ((mailOf_of_mailAt at_).expose ..).congr rfl fun _ => rfl
  have value : (y.group m.group).lane i = (((s.group m.group).lane i).put (s.group m.group).depth sl (BitVec.ofNat 32 v)).fill sl := by
    rw [x.group_modGroup_self _ listed]
    exact Group.lane_modLane_self _ _ lane
  have word : MailOf (mailWord x d a v false) ctx a t ∧ (mailWord x d a v false).groups = y.groups := by
    rcases mailWord_of_resident (s := x) (d := d) (addr := a) (v := v) rfl rfl live with e | ⟨c, e⟩
    · exact e ▸ ⟨held, rfl⟩
    · exact e ▸ ⟨held.endMail c, (endMail_keeps ..).1⟩
  obtain ⟨held', groups⟩ := word
  refine ⟨_, (gcallReply_taken idle new).trans (congrArg Host.Outcome.next (readReply_here at_ one here free good)), held'.cleared, ?_⟩
  rw [← value, State.group, State.group, (endMail_keeps ..).1, groups]

theorem awaits_of_blocked {s : State} {d : Dst} {pc : Word} (live : (s.group d.group).ended = false)
    (st : ((s.group d.group).lane d.lane).st = .blocked .remote) (at_ : ((s.group d.group).lane d.lane).pc = pc) : s.awaits d pc false = true := by
  simp [State.awaits, live, st, at_]

/-- Settles O48: each access has the lemma of its branch; a reply word is found by the first team that holds its record, lands, and ends the record. -/
theorem hostAccessesAndAnswers : Obligations.HostAccessesAndAnswers := by
  intro s a k
  refine ⟨fun inside room good here own => hostMemAccess_reads own inside room good here, fun wr bs own => hostMemAccess_outside wr bs own,
    fun vs => hostMemAccess_writes, fun vs => backInvalidateResponse_ends, hostSnoop_of_none, fun b => hostSnoop_of_owned,
    fun r data hk => ⟨fun unsent => ⟨cxlDataResponse_of_unsent hk unsent, cxlDataResponse_of_unsent hk unsent⟩, fun sent => ⟨?_, ?_, ?_⟩⟩,
    fun ctx => ⟨fun idle new none_ => ?_, gcallReply_refused, ?_⟩⟩
  · intro q who kind
    have answered (poison : Bool) := (cxlDataResponse_of_sent (data := data) hk sent).trans
      (congrArg Host.Outcome.next (hostAnswered_reader (s := Claims.hostTook s k) (data := data) (poison := poison) who kind))
    exact ⟨answered false, answered true⟩
  · intro who kind tso eng
    exact (cxlDataResponse_of_sent hk sent).trans (congrArg Host.Outcome.next (hostAnswered_store who kind tso eng))
  · intro d who dst cmp acq unif live st at_
    have waits : (Claims.hostTook s k).awaits d r.pc false = true := awaits_of_blocked live st at_
    refine ⟨fun kind => ?_, fun kind => ?_, fun kind user lane => ?_⟩
    · exact (cxlDataResponse_of_sent hk sent).trans (congrArg Host.Outcome.next (hostAnswered_load who dst kind cmp acq unif waits))
    · exact (cxlDataResponse_of_sent hk sent).trans (congrArg Host.Outcome.next (hostAnswered_rmw who dst kind acq unif waits))
    · refine ⟨_, (cxlDataResponse_of_sent hk sent).trans (congrArg Host.Outcome.next (hostAnswered_poisoned who dst kind cmp unif waits)), ?_⟩
      exact takeTrap_parks (s := Claims.hostTook s k) _ _ _ _ user lane
  · rw [gcallReply_taken idle new, readReply_none none_]
  · intro t m i sl p tso idle new at_ one here free good _ live lane open_ window listed
    exact gcallReply_lands idle new at_ one here free good ⟨live, open_, window⟩ lane listed

end Sys2Proof.Machine
end

section
/-! O47: coordination messages of spanning gangs (R311, R391, R395, R396). -/

namespace Sys2Proof.Machine

/-! ## A message passes its origin's filter (R311) -/

/-- The state with the answer to a message: noted in the filter of its origin, and sent. -/
def messageAnswered (t : State) (org seq via : Nat) : State := sendAnswer (noteSeen t org seq 0 0) org via seq true 0 []

section
variable {s : State} {org seq flr : Nat} {act : State → State} (floor : flr ≤ (s.filters.get {} org).flr)
include floor

theorem message_old (old : seq < (s.filters.get {} org).flr) : message s ⟨org, seq, flr⟩ act = s := by
  have same : raiseFloor s org flr = s := if_pos floor
  simp only [message, same, filtered, old, if_true]

theorem message_seen {st : Nat} {v : UWord} (above : (s.filters.get {} org).flr ≤ seq) (seen : (s.filters.get {} org).seen.find seq = some (st, v)) :
    message s ⟨org, seq, flr⟩ act = sendAnswer s org s.kdev seq true st (natBytes 8 v.toNat) := by
  have same : raiseFloor s org flr = s := if_pos floor
  simp only [message, same, filtered, Nat.not_lt.2 above, if_false, seen]
  rfl

/-- A new message acts, and is answered. -/
theorem message_new (above : (s.filters.get {} org).flr ≤ seq) (unseen : (s.filters.get {} org).seen.find seq = none)
    (new : Claims.NotInService s org seq) (foreign : org ≠ s.kdev) (kept : (act s).kdev = s.kdev) :
    message s ⟨org, seq, flr⟩ act = messageAnswered (act s) org seq s.kdev := by
  have same : raiseFloor s org flr = s := if_pos floor
  obtain ⟨held, pushed⟩ := new
  have idle (r : InReq) (hf : r.filt = some org) (hs : r.seq = seq) : (s.heldIn.any fun x => x.filt == r.filt && x.seq == r.seq) = false ∧
      (s.pushes.any fun p => p.req.any fun x => x.filt == r.filt && x.seq == r.seq) = false := by
    refine ⟨List.any_eq_false.2 fun x hx => ?_, List.any_eq_false.2 fun p hp => ?_⟩
    · have := held x hx
      simp only [hf, hs, Bool.and_eq_true, beq_iff_eq]
      tauto
    · cases hq : p.req with
      | none => simp
      | some x =>
        have := pushed p hp x hq
        simp only [hf, hs, Option.any_some, Bool.and_eq_true, beq_iff_eq]
        tauto
  have foreign' : ¬org = (noteSeen (act s) org seq 0 0).kdev := fun h => foreign (h.trans kept)
  obtain ⟨noHeld, noPush⟩ := idle { org := org, filt := some org, seq := seq, kind := 24, at_ := 0, size := 0, via := s.kdev } rfl rfl
  simp only [message, same, filtered, Nat.not_lt.2 above, if_false, unseen]
  simp only [noHeld, noPush, Bool.or_self, Bool.false_eq_true, if_false]
  simp only [answer, Bool.not_true, Bool.false_eq_true, if_false]
  exact if_neg foreign'

end

/-! ## What messages and departures leave of the device and of its gangs -/

/-- The device's number, and which members of other devices have left each gang. -/
def State.SpanKept (s s₀ : State) : Prop := s.kdev = s₀.kdev ∧ ∀ k, (s.gangs.getD k {}).gone = (s₀.gangs.getD k {}).gone

theorem State.modGang_keeps {α : Type} (π : Gang → α) {s : State} {n : Nat} {f : Gang → Gang} (h : ∀ x, π (f x) = π x) (k : Nat) :
    π ((s.modGang n f).gangs.getD k {}) = π (s.gangs.getD k {}) := by
  simp only [State.modGang, List.getD_eq_getElem?_getD, List.getElem?_modify]
  split
  · cases s.gangs[k]? with
    | none => rfl
    | some x => exact h x
  · cases s.gangs[k]? <;> rfl

section
variable {s s₀ : State}

theorem foldl_spanKept {α : Type} {f : State → α → State} (hf : ∀ s x, s.SpanKept s₀ → (f s x).SpanKept s₀) (xs : List α) (h : s.SpanKept s₀) :
    (xs.foldl f s).SpanKept s₀ := by
  induction xs generalizing s with
  | nil => exact h
  | cons x r ih => exact ih (hf s x h)

theorem ite_spanKept {c : Prop} [Decidable c] {t : State} (h : s.SpanKept s₀) (h' : t.SpanKept s₀) : State.SpanKept (if c then s else t) s₀ := by
  split <;> assumption

theorem modGang_spanKept {k : Nat} {f : Gang → Gang} (hf : ∀ x, (f x).gone = x.gone) (h : s.SpanKept s₀) : (s.modGang k f).SpanKept s₀ := by
  obtain ⟨kdev, gone⟩ := h
  exact ⟨kdev, fun n => (State.modGang_keeps Gang.gone hf n).trans (gone n)⟩

theorem modGroup_spanKept (g : Nat) (f : Group → Group) (h : s.SpanKept s₀) : (s.modGroup g f).SpanKept s₀ := h

theorem modTeam_spanKept (t : Nat) (f : Team → Team) (h : s.SpanKept s₀) : (s.modTeam t f).SpanKept s₀ := h

theorem fifoRelease_spanKept (cl b slot : Nat) (h : s.SpanKept s₀) : (fifoRelease s cl b slot).SpanKept s₀ := h

theorem barSettle_spanKept (t b : Nat) (h : s.SpanKept s₀) : (barSettle s t b).SpanKept s₀ := ite_spanKept h h

theorem completeTeam_spanKept (t : Nat) (h : s.SpanKept s₀) : (completeTeam s t).SpanKept s₀ := h

theorem sendFab_spanKept (r : FabReq) (h : s.SpanKept s₀) : (sendFab s r).SpanKept s₀ := by
  unfold sendFab
  dsimp only
  split <;> exact h

theorem sendMsgs_spanKept (kind : Nat) (dsts args : List Nat) (h : s.SpanKept s₀) : (sendMsgs s kind dsts args).SpanKept s₀ :=
  foldl_spanKept (fun _ _ => sendFab_spanKept _) _ h

theorem reportGang_spanKept (k t kind v : Nat) (h : s.SpanKept s₀) : (reportGang s k t kind v).SpanKept s₀ := by
  unfold reportGang
  exact ite_spanKept h (foldl_spanKept (fun _ _ => sendFab_spanKept _) _ h)

theorem tellGang_spanKept (k kteam : Nat) (h : s.SpanKept s₀) : (tellGang s k kteam).SpanKept s₀ := sendMsgs_spanKept _ _ _ h

theorem tellReach_spanKept (k : Nat) (h : s.SpanKept s₀) : (tellReach s k).SpanKept s₀ := by
  refine foldl_spanKept (fun s t h => ?_) _ h
  extract_lets ga m gens n s1
  have synced : s1.SpanKept s₀ := ite_spanKept (reportGang_spanKept k t 19 n (modGang_spanKept (fun _ => by rfl) h)) h
  exact ite_spanKept (reportGang_spanKept k t 20 0 (modGang_spanKept (fun _ => by rfl) synced)) synced

theorem syncSettle_spanKept (k : Nat) (h : s.SpanKept s₀) : (syncSettle s k).SpanKept s₀ :=
  ite_spanKept (modGang_spanKept (fun _ => by rfl) (tellReach_spanKept k h)) (tellReach_spanKept k h)

theorem depart_spanKept (k t : Nat) (early : Bool) (h : s.SpanKept s₀) : (depart s k t early).SpanKept s₀ := by
  unfold depart
  extract_lets s1 s2 s3
  have noted : s2.SpanKept s₀ := modGang_spanKept (s := s1) (fun _ => by rfl) h
  refine ite_spanKept h (completeTeam_spanKept t ?_)
  exact ite_spanKept (tellGang_spanKept k _ noted) (reportGang_spanKept k t 20 1 noted)

theorem gangSweep_spanKept (k : Nat) (h : s.SpanKept s₀) : (gangSweep s k).SpanKept s₀ :=
  ite_spanKept (foldl_spanKept (fun _ t h => depart_spanKept k t false h) _ (syncSettle_spanKept k h)) (syncSettle_spanKept k h)

theorem endHeld_spanKept (t : Nat) (h : s.SpanKept s₀) : (endHeld s t).SpanKept s₀ := by
  unfold endHeld
  split
  · exact completeTeam_spanKept t h
  · exact gangSweep_spanKept _ (depart_spanKept _ t true h)

theorem endTeam_spanKept (t : Nat) (killed : Bool) (h : s.SpanKept s₀) : (endTeam s t killed).SpanKept s₀ := by
  unfold endTeam
  refine ite_spanKept h ?_
  split
  · exact completeTeam_spanKept t h
  · exact ite_spanKept (gangSweep_spanKept _ (depart_spanKept _ t true h)) (gangSweep_spanKept _ h)

theorem leaveSet_spanKept (g : Nat) (h : s.SpanKept s₀) : (leaveSet s g).SpanKept s₀ := by
  unfold leaveSet sweepSet
  split
  · exact h
  dsimp only
  split
  · exact h
  · exact ite_spanKept h h

theorem releaseHeld_spanKept (g : Nat) (h : s.SpanKept s₀) : (releaseHeld s g).SpanKept s₀ := by
  unfold releaseHeld
  exact modGroup_spanKept g _ (foldl_spanKept (fun _ _ h => foldl_spanKept (fun _ _ => fifoRelease_spanKept _ _ _) _ h) _ h)

theorem endGroup_spanKept (g : Nat) (killed : Bool) (h : s.SpanKept s₀) : (endGroup s g killed).SpanKept s₀ := by
  unfold endGroup
  refine ite_spanKept h ?_
  extract_lets s1 s2 s3 s4 s5
  have left : s1.SpanKept s₀ := leaveSet_spanKept g (releaseHeld_spanKept g h)
  have lost : s2.SpanKept s₀ := ite_spanKept left left
  have settled : s5.SpanKept s₀ := foldl_spanKept (fun _ _ => barSettle_spanKept _ _) _ (show s4.SpanKept s₀ from lost)
  refine ite_spanKept (endTeam_spanKept _ killed settled) ?_
  split
  · exact gangSweep_spanKept _ settled
  · exact settled

theorem killGroup_spanKept (g : Nat) (h : s.SpanKept s₀) : (killGroup s g).SpanKept s₀ :=
  ite_spanKept h (ite_spanKept (endGroup_spanKept g true h) h)

theorem killLaunch_spanKept (l status : Nat) (h : s.SpanKept s₀) : (killLaunch s l status).SpanKept s₀ := by
  unfold killLaunch
  extract_lets ts s1 s2 la s3 s4
  have ended : s1.SpanKept s₀ := foldl_spanKept (fun s t h =>
    ite_spanKept (ite_spanKept h (completeTeam_spanKept t h)) (foldl_spanKept (fun _ g => killGroup_spanKept g) _ h)) _ h
  have left : s2.SpanKept s₀ := foldl_spanKept (fun s t h => ite_spanKept (endHeld_spanKept t h) h) _ ended
  exact left

theorem cancelOne_spanKept (tell : Bool) (c : Nat) (h : s.SpanKept s₀) : (cancelOne tell s c).SpanKept s₀ := by
  unfold cancelOne
  refine foldl_spanKept (fun s l h => ?_) _ h
  refine ite_spanKept h ?_
  extract_lets s1 ts s2 s3 s4 s5
  have ended : s2.SpanKept s₀ := by
    refine foldl_spanKept (fun s t h => ?_) _ (show s1.SpanKept s₀ from h)
    dsimp only
    split
    · exact foldl_spanKept (fun s g h => ite_spanKept h (modGroup_spanKept g _ h)) _ h
    · exact foldl_spanKept (fun s g h => ite_spanKept h (modGroup_spanKept g _ h)) _ h
    · exact h
    · exact h
    · exact endHeld_spanKept t h
    · exact ite_spanKept (completeTeam_spanKept t h) (foldl_spanKept (fun _ g => killGroup_spanKept g) _ h)
  have told : s5.SpanKept s₀ := ite_spanKept (sendMsgs_spanKept _ _ _ (show s4.SpanKept s₀ from ended)) ended
  exact told

theorem cancelTree_spanKept (tell : Bool) (n c : Nat) (h : s.SpanKept s₀) : (cancelTree tell n s c).SpanKept s₀ := by
  induction n generalizing s c with
  | zero => exact h
  | succ n ih => exact ite_spanKept h (foldl_spanKept (fun _ (k : Nat × Counter) => ih k.1) _ (cancelOne_spanKept tell c h))

theorem tellMismatch_spanKept (e : Entry) (h : s.SpanKept s₀) : (tellMismatch s e).SpanKept s₀ :=
  foldl_spanKept (fun _ _ => sendMsgs_spanKept _ _ _) _ h

theorem tellAccepted_spanKept (l : Nat) (h : s.SpanKept s₀) : (tellAccepted s l).SpanKept s₀ :=
  ite_spanKept h (foldl_spanKept (fun _ _ => sendFab_spanKept _) _ h)

theorem goGang_spanKept (gkey g : Nat) (h : s.SpanKept s₀) : (goGang s gkey g).SpanKept s₀ := by
  unfold goGang
  split
  · exact h
  · exact ite_spanKept h (modGang_spanKept (fun _ => by rfl) (foldl_spanKept (fun _ t => modTeam_spanKept t _) _ h))

theorem unreserve_spanKept (t : Nat) (h : s.SpanKept s₀) : (unreserve s t).SpanKept s₀ := by
  unfold unreserve
  refine ite_spanKept h (ite_spanKept ?_ ?_)
  · exact modTeam_spanKept t _ (foldl_spanKept (fun _ g => modGroup_spanKept g _) _ (show (s.modCluster _ _).SpanKept s₀ from h))
  · exact foldl_spanKept (fun _ g => modGroup_spanKept g fun x => { x with resident := false }) (s.team t).groups
      (show (s.modCluster _ _).SpanKept s₀ from h)

theorem releaseGang_spanKept (gkey g : Nat) (h : s.SpanKept s₀) : (releaseGang s gkey g).SpanKept s₀ := by
  unfold releaseGang
  dsimp only
  split
  · exact h
  · exact foldl_spanKept (fun _ t => unreserve_spanKept t) _ h

end

end Sys2Proof.Machine
end

section
/-! The device's number through a swap of a team (R261, R465). -/

namespace Sys2Proof.Machine

theorem kdev_missPut (s : State) (places : List TlbAt) (ctx vpn kind : Nat) (w p : Bool) : (missPut s places ctx vpn kind w p).kdev = s.kdev := by
  refine foldl_keeps State.kdev (fun s p => ?_) places s
  split <;> rfl

theorem kdev_askHost (s : State) (r : Reader) (core gid line : Nat) (own : Bool) : (askHost s r core gid line own).kdev = s.kdev :=
  (apply_ite State.kdev _ _ _).trans (ite_self _)

theorem kdev_lacking (s : State) (ctx va kind : Nat) (c : Cause) (f : Bool) (who : Nat) : (lacking s ctx va kind c f who).1.kdev = s.kdev := by
  simp only [lacking]
  split
  · rfl
  split
  · rfl
  split <;> rfl

theorem kdev_setEntryBits (s : State) (r : Reader) (t : Target) (bits : Nat) : (setEntryBits s r t bits).1.kdev = s.kdev := by
  unfold setEntryBits
  lift_lets
  intro old
  clear_value old
  split
  · rfl
  cases t with
  | dpa a =>
    dsimp only
    split
    · exact (deviceKept_sendSnoop s a).kdev
    · exact (deviceKept_homeWrite ..).kdev
  | host a =>
    dsimp only
    split
    · exact (deviceKept_putOwned ..).kdev
    · exact kdev_askHost ..
  | peer d o => rfl
  | mcast g o => rfl

theorem kdev_translate (s : State) (places : List TlbAt) (die ctx va kind : Nat) (f : Bool) (who : Nat) :
    (translate s places die ctx va kind f who).1.kdev = s.kdev := by
  have walkEnd : ∀ x : State × Trans, x.1.kdev = s.kdev →
      (match x.2 with
        | .hold w => (missPut x.1 places ctx (va / 4096) kind true false, .hold w)
        | .wait c v => (missPut x.1 places ctx (va / 4096) kind false true, .wait c v)
        | t => (missDone x.1 die ctx (va / 4096), t) : State × Trans).1.kdev = s.kdev := fun x hx => by
    split
    · exact (kdev_missPut ..).trans hx
    · exact (kdev_missPut ..).trans hx
    · exact hx
  simp only [translate]
  split
  · rfl
  split
  · rfl
  split
  · rfl
  split
  · exact kdev_missPut ..
  refine walkEnd _ ?_
  generalize hu : (if (s.missAt { level := 2, idx := die } ctx (va / 4096)).any Miss.walking then s
      else s.modDie die fun x => { x with walkTurn := clusterOf (placesCore places) % 24 }) = u
  have turn : u.kdev = s.kdev := hu ▸ (apply_ite State.kdev _ _ _).trans (ite_self _)
  split
  · exact (deviceKept_sendSnoop ..).kdev.trans turn
  · exact (kdev_askHost ..).trans turn
  · exact turn
  · exact turn
  · exact (kdev_lacking ..).trans turn
  · split
    · exact (kdev_lacking ..).trans turn
    split
    · next v w e => exact (congrArg (fun x => x.1.kdev) e).symm.trans ((kdev_setEntryBits u _ _ _).trans turn)
    · next v e =>
      have set : v.kdev = s.kdev := (congrArg (fun x => x.1.kdev) e).symm.trans ((kdev_setEntryBits u _ _ _).trans turn)
      exact (foldl_keeps State.kdev (fun s p => by rfl) places _).trans set

theorem kdev_trans (s : State) (core ctx va kind : Nat) (f : Bool) : (s.trans core ctx va kind f).1.kdev = s.kdev := kdev_translate ..

theorem kdev_putCells (s : State) (core gid eng va : Nat) (who : Option Nat) (t : Target) (cells : AMap Byte) :
    (putCells s core gid eng va who t cells).kdev = s.kdev := by
  unfold putCells
  lift_lets
  intro w u
  have marked : u.kdev = s.kdev := by
    simp only [u]
    split <;> rfl
  clear_value w u
  cases t with
  | dpa a => exact (deviceKept_homeWrite ..).kdev.trans marked
  | host a =>
    dsimp only
    split
    · exact (DeviceKept.foldl (fun s c => deviceKept_putOwned s _ _) _ _).kdev.trans marked
    · exact marked
  | peer d o => exact (deviceKept_sendFab ..).kdev.trans marked
  | mcast g o => exact (deviceKept_sendFab ..).kdev.trans marked

theorem kdev_prvEvict (s : State) (gid line : Nat) : (prvEvict s gid line).1.kdev = s.kdev := by
  have translated {core ctx va kind : Nat} {f : Bool} {u : State} {r : Trans} (e : s.trans core ctx va kind f = (u, r)) : u.kdev = s.kdev :=
    (congrArg (fun x => x.1.kdev) e).symm.trans (kdev_trans ..)
  simp only [prvEvict]
  split
  · next u a tso e =>
    split
    · exact (deviceKept_sendSnoop ..).kdev.trans (translated e)
    · exact (deviceKept_homeWrite ..).kdev.trans (translated e)
  · next u t tso _ e =>
    split
    · exact translated e
    · exact (kdev_putCells ..).trans (translated e)
  · next u w e => exact translated e
  · next u r _ _ _ e => exact translated e

theorem kdev_writeBackPrv (s : State) (gid : Nat) : (writeBackPrv s gid).1.kdev = s.kdev :=
  foldl_keeps (fun acc : State × Bool => acc.1.kdev) (fun acc l => kdev_prvEvict acc.1 gid l) _ (s, true)

theorem kdev_swapOut (s : State) (t : Nat) : (swapOut s t).kdev = s.kdev := by
  unfold swapOut
  lift_lets
  intro tm core live u1 u2 u3 u4 u5 u6 u7
  have written : u1.kdev = s.kdev := foldl_keeps State.kdev (fun s g => kdev_writeBackPrv s g) _ s
  have flushed : u3.kdev = u2.kdev := (DeviceKept.foldl (fun s e => deviceKept_flushRed s core e) _ u2).kdev
  have drained : u4.kdev = u3.kdev := (deviceKept_drainWcb ..).kdev
  have stopped : u5.kdev = u4.kdev := foldl_keeps State.kdev (fun _ _ => by rfl) _ u4
  exact stopped.trans (drained.trans (flushed.trans ((deviceKept_performStores ..).kdev.trans written)))

/-- A swap of a unit leaves the device's number, and the launch of each gang with its entry. -/
theorem swapOutUnit_keeps (s : State) (t : Nat) : (swapOutUnit s t).kdev = s.kdev ∧
    ∀ k, ((swapOutUnit s t).launch ((swapOutUnit s t).gangs.getD k {}).launch).e = (s.launch (s.gangs.getD k {}).launch).e := by
  have same : SameTeams s ((s.unit t).foldl swapOut s) := SameTeams.foldl (fun s t => (swapOut_spec s t).1) _ s
  have kdev : ((s.unit t).foldl swapOut s).kdev = s.kdev := foldl_keeps State.kdev kdev_swapOut _ s
  simp only [swapOutUnit]
  split
  · exact ⟨kdev, fun k => by rw [same.gangs, same.entry]⟩
  · refine ⟨kdev, fun k => ?_⟩
    rw [State.modGang_keeps Gang.launch fun _ => by rfl, same.gangs]
    exact same.entry _

end Sys2Proof.Machine
end

section
/-! What each coordination message of a spanning gang does (R395, R396). -/

namespace Sys2Proof.Machine

/-! ## The launch and the gang of a key -/

/-- The launch of a key is the first that runs with it. -/
theorem spanLaunch_spec {s : State} {gkey l : Nat} (h : s.spanLaunch gkey = some l) :
    l < s.launches.length ∧ (s.launch l).e.gdom ≠ 0 ∧ (s.launch l).e.gkey = gkey ∧
      s.launches.findIdx? (fun la => la.e.gdom != 0 && la.e.gkey == gkey && la.accepted && !la.finished) = some l := by
  obtain ⟨last, live⟩ := Option.filter_eq_some_iff.1 h
  have entry {j : Nat} (hj : j < s.launches.length) : s.launches[j] = s.launch j := by simp [State.launch, hj]
  simp only [State.lastSpan] at last
  split at last
  next l' r e =>
    cases last
    have found : (List.range s.launches.length).find? (fun l =>
        (s.launch l).e.gdom != 0 && (s.launch l).e.gkey == gkey && (s.launch l).accepted && (s.launch l).finished == false) = some l := by
      rw [← List.head?_filter, e]
      rfl
    obtain ⟨holds, listed, before⟩ := List.find?_range_eq_some.1 found
    have listed := List.mem_range.1 listed
    simp only [beq_false] at holds before
    have spec := holds
    simp only [Bool.and_eq_true, bne_iff_ne, beq_iff_eq] at spec
    obtain ⟨⟨⟨gdom, key⟩, -⟩, -⟩ := spec
    refine ⟨listed, gdom, key, List.findIdx?_eq_some_iff_getElem.2 ⟨listed, ?_, fun j hj => ?_⟩⟩
    · rw [entry]
      exact holds
    · rw [entry]
      have := before j hj
      simpa only [Bool.not_eq_true', Bool.not_eq_true] using this
  next e =>
    have finished := (List.mem_filter.1 (List.mem_of_getLast? last)).2
    simp only [Bool.and_eq_true, beq_iff_eq] at finished
    simp [finished.2] at live

theorem spanGang_listed {s : State} {gkey g k : Nat} (h : s.spanGang gkey g = some k) : k < s.gangs.length :=
  (List.findIdx?_eq_some_iff_getElem.1 h).1

/-- A packet of a gang that stands here makes none. -/
theorem gangFor_of_standing {s : State} {gkey m l k : Nat} (hl : s.spanLaunch gkey = some l)
    (hk : s.spanGang gkey (m / max (s.launch l).e.gang 1) = some k) : gangFor s gkey m = (s, some (k, m % max (s.launch l).e.gang 1)) := by
  obtain ⟨-, -, -, first⟩ := spanLaunch_spec hl
  simp only [gangFor, first, hk, Option.isSome_some, if_true, Option.map_some]

/-! ## A change of one gang -/

theorem findIdx?_modify {α : Type} {p : α → Bool} {f : α → α} (h : ∀ x, p (f x) = p x) (l : List α) (n : Nat) :
    (l.modify n f).findIdx? p = l.findIdx? p := by
  induction l generalizing n with
  | nil => simp
  | cons x r ih =>
    cases n with
    | zero => simp [List.findIdx?_cons, h]
    | succ n => simp [List.findIdx?_cons, ih]

theorem spanGang_modGang {s : State} {n : Nat} {f : Gang → Gang} (launch : ∀ x, (f x).launch = x.launch) (idx : ∀ x, (f x).idx = x.idx)
    (gkey g : Nat) : (s.modGang n f).spanGang gkey g = s.spanGang gkey g :=
  findIdx?_modify (p := fun x : Gang => x.idx == g && (s.launch x.launch).e.gkey == gkey && (s.launch x.launch).e.gdom != 0 &&
    !(s.launch x.launch).finished) (fun x => by rw [launch, idx]) s.gangs n

theorem members_modGang {s : State} {n : Nat} {f : Gang → Gang} (launch : ∀ x, (f x).launch = x.launch) (idx : ∀ x, (f x).idx = x.idx)
    (size : ∀ x, (f x).n = x.n) (k : Nat) : (s.modGang n f).members k = s.members k := by
  unfold State.members
  dsimp only
  rw [State.modGang_keeps Gang.launch launch, State.modGang_keeps Gang.idx idx, State.modGang_keeps Gang.n size]
  rfl

theorem gang_modGang_self {s : State} {k : Nat} (f : Gang → Gang) (h : k < s.gangs.length) : (s.modGang k f).gangs.getD k {} = f (s.gangs.getD k {}) := by
  simp [State.modGang, List.getD_eq_getElem?_getD, h]

/-- Two changes that agree on the gang are one. -/
theorem modGang_congr {s : State} {k : Nat} {f f' : Gang → Gang} (h : f (s.gangs.getD k {}) = f' (s.gangs.getD k {})) : s.modGang k f = s.modGang k f' := by
  have gangs : s.gangs.modify k f = s.gangs.modify k f' := by
    refine List.ext_getElem? fun j => ?_
    simp only [List.getElem?_modify]
    by_cases e : k = j
    · subst e
      rw [List.getD_eq_getElem?_getD] at h
      cases hx : s.gangs[k]? with
      | none => rfl
      | some x => simpa [hx] using h
    · simp [e]
  rw [State.modGang, State.modGang, gangs]

/-! ## Acceptance and readiness (R395) -/

theorem sendFab_launches (s : State) (r : FabReq) : (sendFab s r).launches = s.launches := by
  simp only [sendFab]
  split <;> rfl

/-- With the acceptance of every device the first one has them all. -/
theorem tellAccepted_allAccepted {s : State} {gkey l : Nat} (hl : s.spanLaunch gkey = some l) (first : (s.launch l).e.devs.headD 0 = s.kdev)
    (all : ∀ d ∈ (s.launch l).e.devs, ∃ a ∈ s.accepts, a.getD 0 0 = d ∧ a.getD 1 0 = gkey) : (tellAccepted s l).allAccepted l = true := by
  obtain ⟨listed, gdom, key, -⟩ := spanLaunch_spec hl
  have all' : ((s.launch l).e.devs.all fun d => s.accepts.any fun a => a.getD 0 0 == d && a.getD 1 0 == (s.launch l).e.gkey) = true :=
    List.all_eq_true.2 fun d hd => by
      obtain ⟨a, ha, dev, key'⟩ := all d hd
      exact List.any_eq_true.2 ⟨a, ha, by simp only [dev, key, key', beq_self_eq_true, Bool.and_self]⟩
  cases isIn : (s.launch l).allIn with
  | true =>
    have same : tellAccepted s l = s := if_pos (by simp [isIn])
    rw [same]
    exact isIn
  | false =>
    unfold tellAccepted
    dsimp only
    rw [if_neg (by simp only [gdom, first, isIn, all']; simp)]
    rw [State.allAccepted, State.launch, foldl_keeps State.launches fun s d => sendFab_launches s _]
    simp [State.modLaunch, List.getD_eq_getElem?_getD, listed]

theorem goGang_of_reserved {s : State} {gkey g k : Nat} (hk : s.spanGang gkey g = some k)
    (some_ : ((s.members k).filter fun t => (s.team t).st == .reserved) ≠ []) : goGang s gkey g =
      ((((s.members k).filter fun t => (s.team t).st == .reserved).foldl (fun s t => s.modTeam t fun tm => { tm with st := .resident }) s).modGang k
        fun x => { x with go := true, parked := false }) := by
  simp only [goGang, hk]
  exact if_neg (by simpa [List.isEmpty_iff] using some_)

theorem goGang_of_none_reserved {s : State} {gkey g k : Nat} (hk : s.spanGang gkey g = some k)
    (none_ : ((s.members k).filter fun t => (s.team t).st == .reserved) = []) : goGang s gkey g = s := by
  simp only [goGang, hk, none_]
  rfl

/-- The readiness of the last device of a gang lets it go. -/
theorem checkGo_of_ready {s : State} {gkey g k : Nat} (hk : s.spanGang gkey g = some k)
    (first : (s.launch (s.gangs.getD k {}).launch).e.devs.headD 0 = s.kdev)
    (all : ∀ d ∈ (s.launch (s.gangs.getD k {}).launch).e.devs, [d, gkey, g] ∈ s.readies) : checkGo s gkey g =
      goGang (sendMsgs { s with readies := s.readies.filter fun r => r.drop 1 != [gkey, g] } 23
        ((s.launch (s.gangs.getD k {}).launch).e.devs.drop 1) [gkey, g]) gkey g := by
  simp only [checkGo, hk]
  refine if_neg ?_
  simp only [first, bne_self_eq_false, Bool.false_or, Bool.not_eq_true', Bool.not_eq_false]
  exact List.all_eq_true.2 fun d hd => by simpa using all d hd

theorem checkGo_of_none {s : State} {gkey g : Nat} (h : s.spanGang gkey g = none) : checkGo s gkey g = s := by
  simp only [checkGo, h]

/-! ## A reservation is withdrawn (R395) -/

/-- A member that waits to be placed, with no group. -/
def Team.waitsAnew (t : Team) : Prop := t.st = .pending ∧ t.groups = []

theorem unreserve_of_other {s : State} {t : Nat} (h : (s.team t).st ≠ .reserved) : unreserve s t = s := if_pos (by simpa using h)

theorem modGroups_keep {α : Type} (π : State → α) (h : ∀ (s : State) g (f : Group → Group), π (s.modGroup g f) = π s) (gs : List Nat)
    (f : Group → Group) (s : State) : π (gs.foldl (fun s g => s.modGroup g f) s) = π s :=
  foldl_keeps π (fun s g => h s g f) gs s

theorem unreserve_readies (s : State) (t : Nat) : (unreserve s t).readies = s.readies := by
  simp only [unreserve]
  split
  · rfl
  split
  · exact modGroups_keep State.readies (fun _ _ _ => rfl) ..
  · exact modGroups_keep State.readies (fun _ _ _ => rfl) ..

theorem unreserve_length (s : State) (t : Nat) : (unreserve s t).teams.length = s.teams.length := by
  simp only [unreserve]
  split
  · rfl
  split
  · exact (List.length_modify ..).trans (modGroups_keep (fun s => s.teams.length) (fun _ _ _ => rfl) ..)
  · exact (List.length_modify ..).trans (modGroups_keep (fun s => s.teams.length) (fun _ _ _ => rfl) ..)

theorem unreserve_team_ne (s : State) {t m : Nat} (h : m ≠ t) : (unreserve s t).team m = s.team m := by
  have teams : ∀ (gs : List Nat) (f : Group → Group) (u : State), (gs.foldl (fun s g => s.modGroup g f) u).team m = u.team m := fun gs f u =>
    modGroups_keep (fun s => s.team m) (fun _ _ _ => rfl) gs f u
  simp only [unreserve]
  split
  · rfl
  split
  · rw [State.team_modTeam_ne _ _ h]
    exact teams ..
  · exact (State.team_modTeam_ne _ _ h).trans (teams ..)

/-- A member with no image waits anew. -/
theorem unreserve_team_self {s : State} {t : Nat} (listed : t < s.teams.length) (reserved : (s.team t).st = .reserved) (bare : (s.team t).image = false) :
    ((unreserve s t).team t).waitsAnew := by
  have teams : ∀ (gs : List Nat) (f : Group → Group) (u : State), (gs.foldl (fun s g => s.modGroup g f) u).teams.length = u.teams.length :=
    fun gs f u => modGroups_keep (fun s => s.teams.length) (fun _ _ _ => rfl) gs f u
  simp only [unreserve, reserved, bare, bne_self_eq_false, Bool.false_eq_true, if_false, Bool.not_false, if_true]
  rw [State.team_modTeam_self _ _ (by rw [teams]; exact listed)]
  exact ⟨rfl, rfl⟩

theorem foldl_unreserve_team {ms : List Nat} {s : State} {t : Nat} (listed : t < s.teams.length)
    (h : (s.team t).waitsAnew ∨ t ∈ ms ∧ (s.team t).st = .reserved ∧ (s.team t).image = false) : ((ms.foldl unreserve s).team t).waitsAnew := by
  induction ms generalizing s with
  | nil => exact h.resolve_right fun h => List.not_mem_nil h.1
  | cons m r ih =>
    refine ih (unreserve_length s m ▸ listed) ?_
    by_cases e : t = m
    · subst e
      rcases h with done | ⟨-, reserved, bare⟩
      · have other : (s.team t).st ≠ .reserved := by
          rw [done.1]
          decide
        rw [unreserve_of_other other]
        exact .inl done
      · exact .inl (unreserve_team_self listed reserved bare)
    · rw [unreserve_team_ne s e]
      exact h.imp_right fun ⟨mem, rest⟩ => ⟨(List.mem_cons.1 mem).resolve_left e, rest⟩

/-- The first device learns of no readiness here any more, and the members without an image wait anew. -/
theorem releaseGang_spec {s : State} {gkey g k : Nat} (hk : s.spanGang gkey g = some k) : [s.kdev, gkey, g] ∉ (releaseGang s gkey g).readies ∧
    ∀ m ∈ s.members k, (s.team m).st = .reserved → (s.team m).image = false → ((releaseGang s gkey g).team m).waitsAnew := by
  have hk' : (unready s s.kdev gkey g).spanGang gkey g = some k := hk
  have fold : releaseGang s gkey g = (s.members k).foldl unreserve (unready s s.kdev gkey g) := by
    simp only [releaseGang, hk']
    rfl
  rw [fold]
  refine ⟨fun h => ?_, fun m hm reserved bare => ?_⟩
  · rw [foldl_keeps State.readies unreserve_readies] at h
    have := (List.mem_filter.1 h).2
    simp at this
  · have listed : m < s.teams.length := List.mem_range.1 (List.mem_filter.1 hm).1
    exact foldl_unreserve_team (s := unready s s.kdev gkey g) listed (.inr ⟨hm, reserved, bare⟩)

/-! ## A gang is swapped out (R396) -/

/-- A request noted: the replies to it are yet to come. -/
def swapNoted (s : State) (gkey g k : Nat) : State := { s with swapReqs := s.swapReqs ++ [(gkey, g)] }.modGang k fun x => { x with swapReplies := [] }

theorem swapNoted_keeps (s : State) (gkey g k : Nat) : (swapNoted s gkey g k).spanGang gkey g = s.spanGang gkey g ∧
    (swapNoted s gkey g k).members k = s.members k ∧
    ((swapNoted s gkey g k).launch ((swapNoted s gkey g k).gangs.getD k {}).launch).e = (s.launch (s.gangs.getD k {}).launch).e := by
  let u : State := { s with swapReqs := s.swapReqs ++ [(gkey, g)] }
  refine ⟨spanGang_modGang (s := u) (fun _ => by rfl) (fun _ => by rfl) gkey g,
    members_modGang (s := u) (fun _ => by rfl) (fun _ => by rfl) (fun _ => by rfl) k, ?_⟩
  exact congrArg (fun l => (s.launch l).e) (State.modGang_keeps Gang.launch (s := u) (fun _ => by rfl) k)

/-- The reply to the first device of the gang's launch. -/
def swapReplied (s : State) (gkey g d : Nat) : State := sendMsg { s with swapReqs := s.swapReqs.erase (gkey, g) } 26 d [gkey, g]

section
variable {s : State} {gkey g k : Nat} (hk : s.spanGang gkey g = some k)
include hk

theorem noteSwap_of_new (far : (s.launch (s.gangs.getD k {}).launch).e.devs.headD 0 ≠ s.kdev) (new : (gkey, g) ∉ s.swapReqs)
    (here : (s.gangs.getD k {}).parked = false) : noteSwap s gkey g = swapNoted s gkey g k := by
  simp only [noteSwap, hk]
  rw [if_neg (by simp only [List.elem_eq_mem, new, here, decide_false, Bool.or_self, Bool.false_eq_true, not_false_iff]), if_pos (by simpa using far)]
  rfl

theorem doSwap_of_none_resident (far : (s.launch (s.gangs.getD k {}).launch).e.devs.headD 0 ≠ s.kdev)
    (none_ : ((s.members k).filter fun t => (s.team t).st == .resident) = []) :
    doSwap s gkey g = swapReplied s gkey g ((s.launch (s.gangs.getD k {}).launch).e.devs.headD 0) := by
  simp only [doSwap, hk, none_]
  exact if_neg far

theorem doSwap_of_busy {t : Nat} {r : List Nat} (here : ((s.members k).filter fun t => (s.team t).st == .resident) = t :: r)
    (busy : s.maySwapOut (s.unit t) = false) : doSwap s gkey g = s := by
  simp only [doSwap, hk, here, busy]
  rfl

theorem doSwap_of_resident {t : Nat} {r : List Nat} (far : (s.launch (s.gangs.getD k {}).launch).e.devs.headD 0 ≠ s.kdev)
    (here : ((s.members k).filter fun t => (s.team t).st == .resident) = t :: r) (free : s.maySwapOut (s.unit t) = true) :
    doSwap s gkey g = swapReplied (swapOutUnit s t) gkey g ((s.launch (s.gangs.getD k {}).launch).e.devs.headD 0) := by
  obtain ⟨kdev, entry⟩ := swapOutUnit_keeps s t
  have d0 := congrArg (fun e => e.devs.headD 0) (entry k)
  simp only [doSwap, hk, here, free, if_true]
  refine (if_neg ?_).trans ?_
  · exact fun e => far (d0.symm.trans (e.trans kdev))
  · exact congrArg (swapReplied (swapOutUnit s t) gkey g) d0

theorem swapReply_of_new {org : Nat} (new : org ∉ (s.gangs.getD k {}).swapReplies) :
    swapReply s org gkey g = s.modGang k fun x => { x with swapReplies := x.swapReplies ++ [org] } := by
  simp only [swapReply, hk]
  exact modGang_congr (by simp only [List.elem_eq_mem, new, decide_false, Bool.false_eq_true, if_false])

end

end Sys2Proof.Machine
end

section
/-! The statement O47. -/

namespace Sys2Proof.Machine

/-- A message that its origin's filter has not seen, from another device. -/
structure NewMessage (s : State) (org seq flr : Nat) : Prop where
  floor : flr ≤ (s.filters.get {} org).flr
  above : (s.filters.get {} org).flr ≤ seq
  unseen : (s.filters.get {} org).seen.find seq = none
  idle : Claims.NotInService s org seq
  foreign : org ≠ s.kdev

section
variable {s : State} {org seq flr : Nat}

/-- Each coordination message acts through `message`. -/
theorem exec_coordination {gkey g : Nat} {i : Instr} (h : i ∈ [Instr.ready ⟨org, seq, flr⟩ gkey g, .go ⟨⟨org, seq, flr⟩, gkey⟩ g,
    .release ⟨⟨org, seq, flr⟩, gkey⟩ g, .gangSwapRequest ⟨⟨org, seq, flr⟩, gkey⟩ g, .gangSwapReply ⟨org, seq, flr⟩ gkey g,
    .gangCancelMessage ⟨⟨org, seq, flr⟩, gkey⟩, .memberDepartedReport ⟨⟨org, seq, flr⟩, gkey⟩ g]) :
    ∃ act, exec i s = .next (message s ⟨org, seq, flr⟩ act) := by
  simp only [List.mem_cons, List.not_mem_nil, or_false] at h
  rcases h with rfl | rfl | rfl | rfl | rfl | rfl | rfl <;> exact ⟨_, rfl⟩

variable (new : NewMessage s org seq flr)
include new

/-- A new message is answered after what it does. -/
theorem NewMessage.gives {act : State → State} {t : State} (h : act s = t) (kept : t.kdev = s.kdev) :
    (.next (message s ⟨org, seq, flr⟩ act) : Res) = .next (messageAnswered t org seq s.kdev) := by
  obtain ⟨floor, above, unseen, idle, foreign⟩ := new
  rw [message_new floor above unseen idle foreign (h ▸ kept), h]

/-! ## `ACCEPT` and `READY` -/

section
variable (gkey nteams gang gdom prio : Nat)

/-- An acceptance noted. -/
def acceptNoted (s : State) (org gkey nteams gang gdom prio : Nat) : State := { s with accepts := s.accepts ++ [[org, gkey, nteams, gang, gdom, prio]] }

theorem NewMessage.accept_unknown (h : s.spanLaunch gkey = none) : exec (.accept ⟨org, seq, flr⟩ gkey nteams gang gdom prio) s =
    .next (messageAnswered (acceptNoted s org gkey nteams gang gdom prio) org seq s.kdev) := by
  have h' : (acceptNoted s org gkey nteams gang gdom prio).spanLaunch gkey = none := h
  refine new.gives ?_ rfl
  dsimp only
  rw [← acceptNoted, h']

theorem NewMessage.accept_same {l : Nat} (h : s.spanLaunch gkey = some l) (same : nteams = (s.launch l).e.nteams ∧ gang = (s.launch l).e.gang ∧
    gdom = (s.launch l).e.gdom ∧ prio = (s.launch l).e.prio) : exec (.accept ⟨org, seq, flr⟩ gkey nteams gang gdom prio) s =
      .next (messageAnswered (tellAccepted (acceptNoted s org gkey nteams gang gdom prio) l) org seq s.kdev) := by
  have h' : (acceptNoted s org gkey nteams gang gdom prio).spanLaunch gkey = some l := h
  obtain ⟨kdev, -⟩ := tellAccepted_spanKept (s := acceptNoted s org gkey nteams gang gdom prio) (s₀ := s) l ⟨rfl, fun _ => rfl⟩
  refine new.gives ?_ kdev
  dsimp only
  rw [← acceptNoted, h']
  refine if_neg ?_
  obtain ⟨rfl, rfl, rfl, rfl⟩ := same
  exact Bool.eq_false_iff.1 (bne_self_eq_false ..)

theorem NewMessage.accept_differs {l : Nat} (h : s.spanLaunch gkey = some l) (differs : ¬(nteams = (s.launch l).e.nteams ∧ gang = (s.launch l).e.gang ∧
    gdom = (s.launch l).e.gdom ∧ prio = (s.launch l).e.prio)) : exec (.accept ⟨org, seq, flr⟩ gkey nteams gang gdom prio) s =
      .next (messageAnswered (killLaunch (tellMismatch (acceptNoted s org gkey nteams gang gdom prio) (s.launch l).e) l 7) org seq s.kdev) := by
  have h' : (acceptNoted s org gkey nteams gang gdom prio).spanLaunch gkey = some l := h
  obtain ⟨kdev, -⟩ := killLaunch_spanKept l 7 (tellMismatch_spanKept (s := acceptNoted s org gkey nteams gang gdom prio) (s₀ := s) (s.launch l).e
    ⟨rfl, fun _ => rfl⟩)
  refine new.gives ?_ kdev
  dsimp only
  rw [← acceptNoted, h']
  have lists : [nteams, gang, gdom, prio] ≠ [(s.launch l).e.nteams, (s.launch l).e.gang, (s.launch l).e.gdom, (s.launch l).e.prio] := by
    simpa only [ne_eq, List.cons.injEq, and_true] using differs
  exact if_pos (bne_iff_ne.2 lists)

end

section
variable {gkey g : Nat}

theorem NewMessage.ready_unknown (h : s.spanGang gkey g = none) (first : [org, gkey, g] ∉ s.readies) :
    exec (.ready ⟨org, seq, flr⟩ gkey g) s = .next (messageAnswered { s with readies := s.readies ++ [[org, gkey, g]] } org seq s.kdev) := by
  refine new.gives ?_ rfl
  simp only [List.elem_eq_mem, first, decide_false, Bool.false_eq_true, if_false]
  exact checkGo_of_none h

/-- With the sender's readiness every device is ready: the gang goes, and all that was said of its readiness is forgotten. -/
theorem NewMessage.ready_last {k : Nat} (hk : s.spanGang gkey g = some k)
    (first : (s.launch (s.gangs.getD k {}).launch).e.devs.headD 0 = s.kdev)
    (all : ∀ d ∈ (s.launch (s.gangs.getD k {}).launch).e.devs, d = org ∨ [d, gkey, g] ∈ s.readies) :
    exec (.ready ⟨org, seq, flr⟩ gkey g) s = .next (messageAnswered (goGang
      (sendMsgs { s with readies := s.readies.filter fun r => r.drop 1 != [gkey, g] } 23
        ((s.launch (s.gangs.getD k {}).launch).e.devs.drop 1) [gkey, g]) gkey g) org seq s.kdev) := by
  let rs := if s.readies.elem [org, gkey, g] then s.readies else s.readies ++ [[org, gkey, g]]
  have noted : ∀ r, r = [org, gkey, g] ∨ r ∈ s.readies → r ∈ rs := fun r hr => by
    simp only [rs, List.elem_eq_mem, decide_eq_true_eq]
    split
    · next h => exact hr.elim (fun e => e ▸ h) id
    · exact List.mem_append.2 (hr.symm.imp id List.mem_singleton.2)
  have cleared : (rs.filter fun r => r.drop 1 != [gkey, g]) = s.readies.filter fun r => r.drop 1 != [gkey, g] := by
    simp only [rs]
    split
    · rfl
    · simp
  have goes := checkGo_of_ready (s := { s with readies := rs }) hk first fun d hd => noted _ ((all d hd).imp_left fun e => by rw [e])
  obtain ⟨kdev, -⟩ := goGang_spanKept gkey g (sendMsgs_spanKept (s := { s with readies := s.readies.filter fun r => r.drop 1 != [gkey, g] }) (s₀ := s) 23
    ((s.launch (s.gangs.getD k {}).launch).e.devs.drop 1) [gkey, g] ⟨rfl, fun _ => rfl⟩)
  refine new.gives (goes.trans ?_) kdev
  simp only [cleared]
  rfl

/-! ## `GO` and `RELEASE` -/

section
variable {k : Nat} (hk : s.spanGang gkey g = some k)
include hk

theorem NewMessage.go_reserved (some_ : ((s.members k).filter fun t => (s.team t).st == .reserved) ≠ []) :
    exec (.go ⟨⟨org, seq, flr⟩, gkey⟩ g) s = .next (messageAnswered
      ((((s.members k).filter fun t => (s.team t).st == .reserved).foldl (fun s t => s.modTeam t fun tm => { tm with st := .resident }) s).modGang k
        fun x => { x with go := true, parked := false }) org seq s.kdev) := by
  have goes := goGang_of_reserved hk some_
  obtain ⟨kdev, -⟩ := goGang_spanKept gkey g (s := s) (s₀ := s) ⟨rfl, fun _ => rfl⟩
  exact new.gives goes (goes ▸ kdev)

theorem NewMessage.go_other (none_ : ((s.members k).filter fun t => (s.team t).st == .reserved) = []) :
    exec (.go ⟨⟨org, seq, flr⟩, gkey⟩ g) s = .next (messageAnswered s org seq s.kdev) :=
  new.gives (goGang_of_none_reserved hk none_) rfl

end

section
variable {l : Nat} (hl : s.spanLaunch gkey = some l)
include hl

theorem NewMessage.release_first (first : (s.launch l).e.devs.headD 0 = s.kdev) : exec (.release ⟨⟨org, seq, flr⟩, gkey⟩ g) s =
    .next (messageAnswered { s with readies := s.readies.filter fun r => r != [org, gkey, g] } org seq s.kdev) := by
  refine new.gives ?_ rfl
  simp only [hl]
  exact if_pos first

theorem NewMessage.release_here (far : (s.launch l).e.devs.headD 0 ≠ s.kdev) (of : g < (s.launch l).e.nteams / max (s.launch l).e.gang 1) :
    exec (.release ⟨⟨org, seq, flr⟩, gkey⟩ g) s = .next (messageAnswered (releaseGang s gkey g) org seq s.kdev) := by
  obtain ⟨kdev, -⟩ := releaseGang_spanKept gkey g (s := s) (s₀ := s) ⟨rfl, fun _ => rfl⟩
  refine new.gives ?_ kdev
  simp only [hl]
  rw [if_neg far, if_neg (Nat.not_le.2 of)]

/-- A gang beyond any says that the entries differ. -/
theorem NewMessage.release_beyond (far : (s.launch l).e.devs.headD 0 ≠ s.kdev) (beyond : (s.launch l).e.nteams / max (s.launch l).e.gang 1 ≤ g) :
    exec (.release ⟨⟨org, seq, flr⟩, gkey⟩ g) s = .next (messageAnswered (killLaunch s l 7) org seq s.kdev) := by
  obtain ⟨kdev, -⟩ := killLaunch_spanKept l 7 (s := s) (s₀ := s) ⟨rfl, fun _ => rfl⟩
  refine new.gives ?_ kdev
  simp only [hl]
  rw [if_neg far, if_pos beyond]

theorem NewMessage.cancel_known : exec (.gangCancelMessage ⟨⟨org, seq, flr⟩, gkey⟩) s =
    .next (messageAnswered (cancelTree false 5 s (s.launch l).e.lcnt) org seq s.kdev) := by
  obtain ⟨kdev, -⟩ := cancelTree_spanKept false 5 (s.launch l).e.lcnt (s := s) (s₀ := s) ⟨rfl, fun _ => rfl⟩
  refine new.gives ?_ kdev
  simp only [hl]

/-- The member that departs is noted as gone. -/
theorem NewMessage.memberDeparted {k m : Nat} (hk : s.spanGang gkey (m / max (s.launch l).e.gang 1) = some k) :
    ∃ t, exec (.memberDepartedReport ⟨⟨org, seq, flr⟩, gkey⟩ m) s = .next t ∧ m % max (s.launch l).e.gang 1 ∈ (t.gangs.getD k {}).gone := by
  let i := m % max (s.launch l).e.gang 1
  let f (x : Gang) : Gang := { x with gone := (if x.gone.elem i then x.gone else x.gone ++ [i]), depEarly := x.depEarly || !x.formed }
  obtain ⟨kdev, gone⟩ := gangSweep_spanKept k (s := s.modGang k f) (s₀ := s.modGang k f) ⟨rfl, fun _ => rfl⟩
  refine ⟨messageAnswered (gangSweep (s.modGang k f) k) org seq s.kdev, new.gives ?_ kdev, ?_⟩
  · simp only [gangFor_of_standing hl hk]
    rfl
  · show i ∈ ((gangSweep (s.modGang k f) k).gangs.getD k {}).gone
    rw [gone k, gang_modGang_self f (spanGang_listed hk)]
    simp only [f, List.elem_eq_mem, decide_eq_true_eq]
    split
    · next h => exact h
    · exact List.mem_append_right _ List.mem_cons_self

end

/-! ## What is said of a launch that is not accepted yet -/

section
variable (none_ : s.lastSpan gkey = none)
include none_

theorem NewMessage.cancel_early (first : (gkey, 0x13) ∉ s.early) : exec (.gangCancelMessage ⟨⟨org, seq, flr⟩, gkey⟩) s =
    .next (messageAnswered { s with early := s.early ++ [(gkey, 0x13)] } org seq s.kdev) := by
  have unknown : s.spanLaunch gkey = none := by rw [State.spanLaunch, none_]; rfl
  refine new.gives ?_ rfl
  simp only [unknown, noteEarly, none_, List.elem_eq_mem, first, decide_false, Option.any_none, Bool.or_self, Bool.false_eq_true, if_false]

theorem NewMessage.release_early (first : (gkey, 7) ∉ s.early) : exec (.release ⟨⟨org, seq, flr⟩, gkey⟩ (2 ^ 24)) s =
    .next (messageAnswered { s with readies := s.readies.filter (fun r => r != [org, gkey, 2 ^ 24]), early := s.early ++ [(gkey, 7)] } org seq s.kdev) := by
  have unknown : s.spanLaunch gkey = none := by rw [State.spanLaunch, none_]; rfl
  have none' : (unready s org gkey (2 ^ 24)).lastSpan gkey = none := none_
  have first' : (gkey, 7) ∉ (unready s org gkey (2 ^ 24)).early := first
  refine new.gives ?_ rfl
  simp only [unknown, if_true, noteEarly, none', List.elem_eq_mem, first', decide_false, Option.any_none, Bool.or_self, Bool.false_eq_true, if_false]
  rfl

end

/-! ## Swaps -/

section
variable {k : Nat} (hk : s.spanGang gkey g = some k)
include hk

theorem NewMessage.swapReply (first : org ∉ (s.gangs.getD k {}).swapReplies) : exec (.gangSwapReply ⟨org, seq, flr⟩ gkey g) s =
    .next (messageAnswered (s.modGang k fun x => { x with swapReplies := x.swapReplies ++ [org] }) org seq s.kdev) :=
  new.gives (swapReply_of_new hk first) rfl

variable (far : (s.launch (s.gangs.getD k {}).launch).e.devs.headD 0 ≠ s.kdev) (unasked : (gkey, g) ∉ s.swapReqs)
  (here : (s.gangs.getD k {}).parked = false)
include far unasked here

/-- A request is noted, and carried out if it may be. -/
theorem NewMessage.swapRequest {t : State} (h : doSwap (swapNoted s gkey g k) gkey g = t) (kept : t.kdev = s.kdev) :
    exec (.gangSwapRequest ⟨⟨org, seq, flr⟩, gkey⟩ g) s = .next (messageAnswered t org seq s.kdev) := by
  refine new.gives ?_ kept
  rw [noteSwap_of_new hk far unasked here]
  exact h

theorem NewMessage.swapRequest_away (away : ((s.members k).filter fun t => (s.team t).st == .resident) = []) :
    exec (.gangSwapRequest ⟨⟨org, seq, flr⟩, gkey⟩ g) s = .next (messageAnswered
      (swapReplied (swapNoted s gkey g k) gkey g ((s.launch (s.gangs.getD k {}).launch).e.devs.headD 0)) org seq s.kdev) := by
  obtain ⟨gang, members, entry⟩ := swapNoted_keeps s gkey g k
  have d0 := congrArg (fun e => e.devs.headD 0) entry
  refine new.swapRequest hk far unasked here ?_ ((deviceKept_sendFab ..).kdev.trans rfl)
  exact (doSwap_of_none_resident (gang.trans hk) (fun e => far (d0.symm.trans e)) (members ▸ away)).trans (congrArg (swapReplied _ gkey g) d0)

section
variable {t : Nat} {r : List Nat} (resident : ((s.members k).filter fun t => (s.team t).st == .resident) = t :: r)
include resident

theorem NewMessage.swapRequest_busy (busy : (swapNoted s gkey g k).maySwapOut ((swapNoted s gkey g k).unit t) = false) :
    exec (.gangSwapRequest ⟨⟨org, seq, flr⟩, gkey⟩ g) s = .next (messageAnswered (swapNoted s gkey g k) org seq s.kdev) := by
  obtain ⟨gang, members, -⟩ := swapNoted_keeps s gkey g k
  exact new.swapRequest hk far unasked here (doSwap_of_busy (gang.trans hk) (members ▸ resident) busy) rfl

theorem NewMessage.swapRequest_swaps (free : (swapNoted s gkey g k).maySwapOut ((swapNoted s gkey g k).unit t) = true) :
    exec (.gangSwapRequest ⟨⟨org, seq, flr⟩, gkey⟩ g) s = .next (messageAnswered
      (swapReplied (swapOutUnit (swapNoted s gkey g k) t) gkey g ((s.launch (s.gangs.getD k {}).launch).e.devs.headD 0)) org seq s.kdev) := by
  obtain ⟨gang, members, entry⟩ := swapNoted_keeps s gkey g k
  obtain ⟨kdev, -⟩ := swapOutUnit_keeps (swapNoted s gkey g k) t
  have d0 := congrArg (fun e => e.devs.headD 0) entry
  refine new.swapRequest hk far unasked here ?_ ((deviceKept_sendFab ..).kdev.trans kdev)
  exact (doSwap_of_resident (gang.trans hk) (fun e => far (d0.symm.trans e)) (members ▸ resident) free).trans (congrArg (swapReplied _ gkey g) d0)

end

end

end

end

/-- Settles O47: each message acts through the filter of its origin and is answered; what it does leaves the device's number, so the answer goes back
under it. -/
theorem spanningGangEventsCoordinateDevices : Obligations.SpanningGangEventsCoordinateDevices := by
  intro s org seq flr gkey g f ans floor
  refine ⟨fun i hi => ?_, fun above unseen idle foreign => ?_⟩
  · obtain ⟨act, e⟩ := exec_coordination hi
    rw [e]
    exact ⟨fun old => congrArg Host.Outcome.next (message_old floor old), fun st v above seen => congrArg Host.Outcome.next (message_seen floor above seen)⟩
  have new : NewMessage s org seq flr := ⟨floor, above, unseen, idle, foreign⟩
  refine ⟨fun nteams gang gdom prio => ⟨new.accept_unknown gkey nteams gang gdom prio, fun l hl => ⟨new.accept_same gkey nteams gang gdom prio hl,
    new.accept_differs gkey nteams gang gdom prio hl, tellAccepted_allAccepted (s := acceptNoted s org gkey nteams gang gdom prio) hl⟩⟩,
    new.ready_unknown, fun k hk => ⟨new.ready_last hk, new.go_reserved hk, new.go_other hk,
      fun l hl => ⟨new.release_first hl, fun far of => ?_, new.release_beyond hl⟩, fun far unasked here =>
        ⟨new.swapRequest_away hk far unasked here, fun t r resident => ⟨new.swapRequest_busy hk far unasked here resident,
          new.swapRequest_swaps hk far unasked here resident⟩⟩, new.swapReply hk⟩,
    fun l hl => new.cancel_known hl, fun none_ => ⟨new.cancel_early none_, new.release_early none_⟩, fun l k m hl hk => new.memberDeparted hl hk⟩
  obtain ⟨unready, anew⟩ := releaseGang_spec hk
  refine ⟨_, new.release_here hl far of, unready, fun m hm bare => ?_⟩
  obtain ⟨member, reserved⟩ := List.mem_filter.1 hm
  exact anew m member (by simpa using reserved) bare

end Sys2Proof.Machine
end
